-- ==== Sys2Proof/Word.lean ====
section
/-!
DEFINITION. The word types of the KX8, the 32-lane vector that every value of a wave is, and the plain sparse
table that the machine's numbered units (tiles, clusters, links) are kept in.
-/

namespace Sys2Proof

/-- A byte of any memory of the part. -/
abbrev Byte := BitVec 8
/-- The 32-bit word: the width of most control operands (04 R73). -/
abbrev Word := BitVec 32
/-- The 64-bit word: addresses, 64-bit integers, counters (04 R73). -/
abbrev Word64 := BitVec 64
/-- One bit for each lane of a wave (04 R87, `active(p)`). -/
abbrev LaneMask := BitVec 32
/-- A back-reference of the portable form, counted in places (04 R70). -/
abbrev Ref := BitVec 11

/-- Thirty-two like things, one for each lane (09 R200). -/
abbrev Lanes (α : Type) := Vector α 32

/-- The lane vector whose lane `i` holds `f i`. -/
def Lanes.tab {α : Type} (f : Fin 32 → α) : Lanes α := Vector.ofFn f

/-- The lane vector that holds one thing in every lane. -/
def Lanes.all {α : Type} (x : α) : Lanes α := Lanes.tab fun _ => x

/-- Is lane `i` in the mask? -/
def LaneMask.has (m : LaneMask) (i : Nat) : Bool := m.getLsbD i

/-- The mask of the lanes at which `f` holds. -/
def LaneMask.tab (f : Nat → Bool) : LaneMask :=
  (List.range 32).foldl (fun m i => if f i then m ||| (1#32 <<< i) else m) 0#32

/-- The lanes of a mask, in ascending lane index. -/
def LaneMask.list (m : LaneMask) : List (Fin 32) := (List.finRange 32).filter fun i => LaneMask.has m i.val

/-- The lowest-numbered lane of a mask. -/
def LaneMask.lowest (m : LaneMask) : Option (Fin 32) := (LaneMask.list m).head?

/-- The highest-numbered lane of a mask. -/
def LaneMask.highest (m : LaneMask) : Option (Fin 32) := (LaneMask.list m).getLast?

/-- A sparse table by number: the units that differ from the unit's reset value. -/
abbrev Tab (α : Type) := List (Nat × α)

namespace Tab
variable {α : Type}

/-- The entry of number `k`, or the reset value `d` of a unit that the table does not list. -/
def getD (t : Tab α) (d : α) (k : Nat) : α :=
  match t with
  | [] => d
  | (k', v) :: r => if k' = k then v else getD r d k

/-- The entry of number `k`, when the table lists one. -/
def get? (t : Tab α) (k : Nat) : Option α :=
  match t with
  | [] => none
  | (k', v) :: r => if k' = k then some v else get? r k

/-- Write the entry of number `k`. -/
def put (t : Tab α) (k : Nat) (v : α) : Tab α :=
  match t with
  | [] => [(k, v)]
  | (k', v') :: r => if k' = k then (k, v) :: r else (k', v') :: put r k v

/-- Take the entry of number `k` out of the table. -/
def del (t : Tab α) (k : Nat) : Tab α := t.filter fun e => e.1 ≠ k

theorem getD_put_same (t : Tab α) (d v : α) (k : Nat) : (t.put k v).getD d k = v := by
  induction t with
  | nil => simp [put, getD]
  | cons e r ih =>
    by_cases h : e.1 = k
    · simp [put, getD, h]
    · simp [put, getD, h, ih]

theorem getD_put_other (t : Tab α) (d v : α) (k j : Nat) (hj : j ≠ k) :
    (t.put k v).getD d j = t.getD d j := by
  induction t with
  | nil => simp [put, getD, Ne.symm hj]
  | cons e r ih =>
    by_cases h : e.1 = k
    · simp [put, getD, h, Ne.symm hj]
    · by_cases h2 : e.1 = j
      · simp [put, getD, h, h2, hj]
      · simp [put, getD, h, h2, ih]

theorem get?_put_same (t : Tab α) (v : α) (k : Nat) : (t.put k v).get? k = some v := by
  induction t with
  | nil => simp [put, get?]
  | cons e r ih =>
    by_cases h : e.1 = k
    · simp [put, get?, h]
    · simp [put, get?, h, ih]

theorem get?_put_other (t : Tab α) (v : α) (k j : Nat) (hj : j ≠ k) :
    (t.put k v).get? j = t.get? j := by
  induction t with
  | nil => simp [put, get?, Ne.symm hj]
  | cons e r ih =>
    by_cases h : e.1 = k
    · simp [put, get?, h, Ne.symm hj]
    · by_cases h2 : e.1 = j
      · simp [put, get?, h, h2, hj]
      · simp [put, get?, h, h2, ih]

end Tab

/-- `ceil (a / b)`. -/
def ceilDiv (a b : Nat) : Nat := (a + b - 1) / b

/-- The bits `[hi:lo]` of a number, as a number. -/
def bitsOf (x : Nat) (hi lo : Nat) : Nat := (x >>> lo) % 2 ^ (hi + 1 - lo)

/-- A number's `n` bytes, little-endian (00 R7). -/
def leBytes : Nat → Nat → List Byte
  | 0, _ => []
  | n + 1, x => BitVec.ofNat 8 x :: leBytes n (x / 256)

/-- The number that a little-endian byte list stands for (00 R7). -/
def ofLe : List Byte → Nat
  | [] => 0
  | b :: r => b.toNat + 256 * ofLe r

end Sys2Proof
end

