-- ==== Sys2Proof/Syntax.lean ====
section
/-!
DEFINITION. The whole instruction set of the KX8: one constructor for each row of the opcode table (portable
instructions 04 R89, native-only operations 05 R99, and the part's own events), with the fields that the spec's
encodings give them.
-/

namespace Sys2Proof

/-- The fields of a portable word beside its opcode (04 R66): TYP, MOD, A, B, C and P. The branch and call layouts
of 04 R72 and the immediates of R78-R80 are other cuts of the same bits. -/
structure Fields where
  typ : BitVec 4
  md : BitVec 6
  a : Ref
  b : Ref
  c : Ref
  p : Ref
deriving DecidableEq, Repr

/-- An argument word of a branch or call (04 R69): the count N and the five back-references, the unused ones 0. -/
structure ArgWord where
  n : BitVec 3
  a1 : Ref
  a2 : Ref
  a3 : Ref
  a4 : Ref
  a5 : Ref
deriving DecidableEq, Repr

/-- One place of a function: its word as expanded, whether a dictionary override made its predicate field, and the
argument words that follow it (04 R65, R67, R70). -/
structure PlaceCode where
  word : BitVec 64
  ovr : Bool
  args : List ArgWord
deriving DecidableEq, Repr

/-- A native op slot (05 R92), beside its opcode, with its extension when the bundle's PAIR bit is 1 (05 R93). -/
structure SlotExt where
  sc : BitVec 12
  modx : BitVec 6
  imm : BitVec 38
deriving DecidableEq, Repr

/-- The fields of a native op slot (05 R92). `jmp`, `jc` and `jal` read their displacement from the same bits
(05 R99). -/
structure Slot where
  typ : BitVec 4
  dst : BitVec 12
  sa : BitVec 12
  sb : BitVec 12
  stg : BitVec 3
  mods : BitVec 4
  ext : Option SlotExt
deriving DecidableEq, Repr

/-- A native bundle (05 R91): its header and its op slots with their opcodes, one slot in the pair form. -/
structure Bundle where
  sp : Bool
  stop : Bool
  push : BitVec 3
  pop : BitVec 3
  lec : BitVec 4
  half : Bool
  rsv : BitVec 2
  slots : List (BitVec 9 × Slot)
deriving DecidableEq, Repr

/-- The four sequencer streams of a wave (05 R101). -/
inductive Stream where
  | scalar | load | compute | store
deriving DecidableEq, Repr

/-- A tile by its die and number (00 R2). -/
structure TileRef where
  die : Nat
  tile : Nat
deriving DecidableEq, Repr

/-- A cluster by its die and number (00 R2). -/
structure ClusterRef where
  die : Nat
  cl : Nat
deriving DecidableEq, Repr

/-- A block: the model's launch identity and the block index in the launch (09 R200). -/
structure BlockRef where
  lid : Nat
  blk : Nat
deriving DecidableEq, Repr

/-- A wave: its block and the wave index in the block (09 R200). -/
structure WaveRef where
  lid : Nat
  blk : Nat
  wav : Nat
deriving DecidableEq, Repr

/-- A Reardun message header (18 R374) and its payload. -/
structure Message where
  mop : BitVec 4
  vc : BitVec 2
  src : BitVec 6
  dst : BitVec 6
  tag : BitVec 12
  len : BitVec 13
  rc : BitVec 2
  ctx : BitVec 2
  aop : BitVec 4
  sts : BitVec 4
  rsv : BitVec 17
  va : BitVec 56
  payload : List Byte
deriving DecidableEq, Repr

/-- A flit as it arrives (18 R373): its header fields and beats 1-15. -/
structure Flit where
  ftype : BitVec 8
  fseq : BitVec 16
  ack : BitVec 16
  cvc : BitVec 2
  cred : BitVec 14
  rsv : BitVec 40
  crc : BitVec 32
  beats : List Byte
deriving DecidableEq, Repr

/-- The measurements of one cluster over the last interval (20 R395, R399): T in 0.25 degrees C, I in mA, and the cluster's mean power
in mW. -/
structure ClusterInputs where
  cl : ClusterRef
  t : Nat
  i : Nat
  pw : Nat
deriving DecidableEq, Repr

/-- The power manager's measurements for one interval (20 R395): package power in mW, and one entry for each measured cluster. -/
structure PowerInputs where
  p : Nat
  clusters : List ClusterInputs
deriving DecidableEq, Repr

/-- One 4 KiB piece of a recovery load (22 R438); `last` marks the piece that completes the image, with the digest
the host sends. -/
structure FirmwarePiece where
  off : Nat
  bytes : List Byte
  last : Bool
  digest : List Byte
deriving DecidableEq, Repr

/-- What a start finds (22 R437, R438): the stack rows that the repair scan finds failing, the heater sweep's
setpoints, and the idle power of a cold start's measurement in mW (20 R400). -/
structure StartInputs where
  failingRows : List (Nat × Nat)
  sweep : List (Nat × BitVec 12)
  pbase : Nat
deriving DecidableEq, Repr

/-- One constructor for each row of the opcode table. -/
inductive Instr where
  /-- `ADD` (R119). Adds operands a and b in each active lane, wrapping, or saturating with .sat. -/
  | add (f : Fields)
  /-- `SUB` (R119). Subtracts b from a in each active lane, wrapping or saturating. -/
  | sub (f : Fields)
  /-- `MUL` (R119). Multiplies a by b in each active lane, wrapping or saturating. -/
  | mul (f : Fields)
  /-- `MULHI` (R119). Delivers the upper half of the exact 2w-bit product of a and b. -/
  | mulhi (f : Fields)
  /-- `MULW` (R119). Delivers the full 64-bit product of two 32-bit operands. -/
  | mulw (f : Fields)
  /-- `MAD` (R119). Computes a × b + c exactly, then wraps or saturates once. -/
  | mad (f : Fields)
  /-- `DIV` (R120). Divides a by b, rounding toward zero, with the fixed results that R120 gives for its edge cases and no trap. -/
  | div (f : Fields)
  /-- `REM` (R120). Delivers the remainder of the truncating division, with fixed results for its edge cases. -/
  | rem (f : Fields)
  /-- `NEG` (R119). Negates a signed operand, wrapping or saturating. -/
  | neg (f : Fields)
  /-- `ABS` (R119). Delivers the absolute value of a signed operand. -/
  | abs (f : Fields)
  /-- `MIN` (R119). Delivers the smaller of a and b, compared signed or unsigned according to T. -/
  | min (f : Fields)
  /-- `MAX` (R119). Delivers the larger of a and b, compared signed or unsigned according to T. -/
  | max (f : Fields)
  /-- `AND` (R121). Bitwise AND of a and b. -/
  | and (f : Fields)
  /-- `OR` (R121). Bitwise OR of a and b. -/
  | or (f : Fields)
  /-- `XOR` (R121). Bitwise XOR of a and b. -/
  | xor (f : Fields)
  /-- `NOT` (R121). Inverts the bits of a. -/
  | not (f : Fields)
  /-- `SHL` (R122). Shifts a left by the whole n32 count b, wrapping or saturating. -/
  | shl (f : Fields)
  /-- `SHR` (R122). Shifts a right, logically for an unsigned T and arithmetically for a signed T. -/
  | shr (f : Fields)
  /-- `ROT` (R122). Rotates a left, or right with .r, by the count modulo the width. -/
  | rot (f : Fields)
  /-- `POPC` (R121). Counts the set bits of a. -/
  | popc (f : Fields)
  /-- `CLZ` (R121). Counts the leading zero bits of a. -/
  | clz (f : Fields)
  /-- `CTZ` (R121). Counts the trailing zero bits of a. -/
  | ctz (f : Fields)
  /-- `BREV` (R121). Reverses the bit order of a. -/
  | brev (f : Fields)
  /-- `BFX` (R123). Extracts a bit field of a, placed by a packed position and length, and extends it. -/
  | bfx (f : Fields)
  /-- `BFI` (R123). Inserts the low bits of b into a bit field of a. -/
  | bfi (f : Fields)
  /-- `CMP` (R124). Compares a and b under a condition code and delivers a pred. -/
  | cmp (f : Fields)
  /-- `SEL` (R125). Selects a or b bit for bit, according to the pred c. -/
  | sel (f : Fields)
  /-- `EXT` (R126). Widens or narrows a to T, wrapping or saturating. -/
  | ext (f : Fields)
  /-- `AOFF` (R127). Adds a scaled signed offset to an address, within the 56-bit virtual space. -/
  | aoff (f : Fields)
  /-- `ADIFF` (R127). Delivers the scaled difference of two addresses as an i64. -/
  | adiff (f : Fields)
  /-- `VADDR` (R128). Forms an all-vault or die-relative window address, trapping on an out-of-range die, vault or offset. -/
  | vaddr (f : Fields)
  /-- `DP4` (R119). Adds the four-byte dot product of a and b to c. -/
  | dp4 (f : Fields)
  /-- `CONST` (R78). Defines a 33-bit immediate in every lane. -/
  | const (f : Fields)
  /-- `CONSTW` (R79). Defines a shifted 44-bit immediate in every lane. -/
  | constw (f : Fields)
  /-- `PARAM` (R80). Reads a value from the launch's parameter snapshot in every lane. -/
  | param (f : Fields)
  /-- `ID` (R81). Delivers a lane, wave, block, group, tile, die or context identifier. -/
  | id (f : Fields)
  /-- `FADD` (R147). Adds two IEEE operands, rounding once. -/
  | fadd (f : Fields)
  /-- `FSUB` (R147). Subtracts two IEEE operands, rounding once. -/
  | fsub (f : Fields)
  /-- `FMUL` (R147). Multiplies two IEEE operands, rounding once. -/
  | fmul (f : Fields)
  /-- `FMA` (R147). Fused multiply-add with a single rounding. -/
  | fma (f : Fields)
  /-- `FDIV` (R147). IEEE division, rounded once. -/
  | fdiv (f : Fields)
  /-- `FSQRT` (R147). IEEE square root, rounded once. -/
  | fsqrt (f : Fields)
  /-- `FRSQ` (R147). Reciprocal square root, rounded once. -/
  | frsq (f : Fields)
  /-- `FRCP` (R147). Reciprocal, rounded once. -/
  | frcp (f : Fields)
  /-- `FMIN` (R149). Delivers the smaller operand, with −0 taken as less than +0. -/
  | fmin (f : Fields)
  /-- `FMAX` (R149). Delivers the larger operand, with −0 taken as less than +0. -/
  | fmax (f : Fields)
  /-- `FNEG` (R150). Inverts the sign bit. -/
  | fneg (f : Fields)
  /-- `FABS` (R150). Clears the sign bit. -/
  | fabs (f : Fields)
  /-- `FCMP` (R148). Compares two IEEE operands under one of eight conditions and delivers a pred. -/
  | fcmp (f : Fields)
  /-- `FCLASS` (R152). Delivers a one-hot class mask of the operand. -/
  | fclass (f : Fields)
  /-- `FEXP2` (R153). 2^x, correctly rounded to nearest even. -/
  | fexp2 (f : Fields)
  /-- `FLOG2` (R153). log2 x, correctly rounded. -/
  | flog2 (f : Fields)
  /-- `FEXP` (R153). e^x, correctly rounded. -/
  | fexp (f : Fields)
  /-- `FLOG` (R153). ln x, correctly rounded. -/
  | flog (f : Fields)
  /-- `FSIN` (R153). sin x, with exact reduction and a correctly rounded result. -/
  | fsin (f : Fields)
  /-- `FCOS` (R153). cos x, with exact reduction and a correctly rounded result. -/
  | fcos (f : Fields)
  /-- `FTANH` (R153). tanh x, correctly rounded. -/
  | ftanh (f : Fields)
  /-- `FSIGM` (R153). Logistic sigmoid, correctly rounded. -/
  | fsigm (f : Fields)
  /-- `FGELU` (R153). GELU, correctly rounded. -/
  | fgelu (f : Fields)
  /-- `FSILU` (R153). SiLU, correctly rounded. -/
  | fsilu (f : Fields)
  /-- `FFLOOR` (R151). Rounds to an integral value toward −∞. -/
  | ffloor (f : Fields)
  /-- `FCEIL` (R151). Rounds to an integral value toward +∞. -/
  | fceil (f : Fields)
  /-- `FROUND` (R151). Rounds to an integral value in the direction of the rounding code. -/
  | fround (f : Fields)
  /-- `FTRUNC` (R151). Rounds to an integral value toward zero. -/
  | ftrunc (f : Fields)
  /-- `FCOPYS` (R150). Delivers the magnitude of a with the sign of b. -/
  | fcopys (f : Fields)
  /-- `FSCALE` (R147). Multiplies x by 2^n, rounding once. -/
  | fscale (f : Fields)
  /-- `FDOT2` (R147). Adds a two-element f16 or bf16 dot product to an f32, rounding once. -/
  | fdot2 (f : Fields)
  /-- `FLERP` (R147). Exact linear interpolation, rounded once. -/
  | flerp (f : Fields)
  /-- `FSTAT` (R154). Delivers the wave's IEEE status in every lane. -/
  | fstat (f : Fields)
  /-- `FCLR` (R154). Clears the wave's five IEEE flags. -/
  | fclr (f : Fields)
  /-- `SLI_ADD` (R51). SLI addition by the reference algorithm. -/
  | sliAdd (f : Fields)
  /-- `SLI_SUB` (R51). SLI subtraction by the reference algorithm. -/
  | sliSub (f : Fields)
  /-- `SLI_MUL` (R52). SLI multiplication by the reference algorithm. -/
  | sliMul (f : Fields)
  /-- `SLI_DIV` (R52). SLI division by the reference algorithm. -/
  | sliDiv (f : Fields)
  /-- `SLI_NEG` (R53). Exact SLI negation. -/
  | sliNeg (f : Fields)
  /-- `SLI_ABS` (R53). Exact SLI absolute value. -/
  | sliAbs (f : Fields)
  /-- `SLI_RCP` (R53). Exact SLI reciprocal by inverting the reciprocal bit. -/
  | sliRcp (f : Fields)
  /-- `SLI_CMP` (R157). Compares SLI values by what they stand for and delivers a pred. -/
  | sliCmp (f : Fields)
  /-- `SLI_MIN` (R157). Delivers the smaller SLI value. -/
  | sliMin (f : Fields)
  /-- `SLI_MAX` (R157). Delivers the larger SLI value. -/
  | sliMax (f : Fields)
  /-- `SLI_STAT` (R156). Delivers the wave's SLI status in every lane. -/
  | sliStat (f : Fields)
  /-- `SLI_CLR` (R156). Clears the wave's five SLI flags. -/
  | sliClr (f : Fields)
  /-- `SLI_LVL` (R157). Delivers the level, reciprocal, zero and INV fields of an SLI value. -/
  | sliLvl (f : Fields)
  /-- `SLI_SQ` (R156). Squares an SLI value as SLI_MUL(a, a). -/
  | sliSq (f : Fields)
  /-- `CVT` (R159). Converts between IEEE, integer and SLI types. -/
  | cvt (f : Fields)
  /-- `BITC` (R160). Reinterprets bits as another type of the same width. -/
  | bitc (f : Fields)
  /-- `QZ` (R163). Quantises a 32-lane block into narrow codes with a shared scale. -/
  | qz (f : Fields)
  /-- `DQ` (R164). Decodes quantised codes with their scale into an IEEE value. -/
  | dq (f : Fields)
  /-- `PKN` (R166). Packs lane-per-element narrow codes into a packed row. -/
  | pkn (f : Fields)
  /-- `UPKN` (R166). Unpacks a packed row into one narrow code per lane. -/
  | upkn (f : Fields)
  /-- `XSCL` (R163). Delivers the block scale byte that qz would choose. -/
  | xscl (f : Fields)
  /-- `HADM` (R165). Applies, or with .inv undoes, a block's XFORM transform. -/
  | hadm (f : Fields)
  /-- `SHFL` (R169). Exchanges values across lanes by index, up, down or xor. -/
  | shfl (f : Fields)
  /-- `VOTE` (R171). Delivers any, all, eq or a ballot over the active lanes' preds. -/
  | vote (f : Fields)
  /-- `SCAN` (R172). Inclusive or exclusive prefix over the fixed lane tree. -/
  | scan (f : Fields)
  /-- `RED` (R172). Reduction over the fixed lane tree. -/
  | red (f : Fields)
  /-- `GTRANS` (R173). Transposes the wave as a 4 × 8 matrix of 8-, 16- or 32-bit slots. -/
  | gtrans (f : Fields)
  /-- `BCAST` (R170). Broadcasts a fixed lane's value to the active lanes. -/
  | bcast (f : Fields)
  /-- `LSEL` (R170). Broadcasts the lowest or highest active lane's value. -/
  | lsel (f : Fields)
  /-- `BR` (R132). Sends the current path to a target block with its arguments and runs SELECT. -/
  | br (f : Fields) (aw : List ArgWord)
  /-- `BRC` (R133). Splits the current path by a pred into two target paths and runs SELECT. -/
  | brc (f : Fields) (aw : List ArgWord)
  /-- `CALL` (R134). Pushes a callee frame whose path is at block 0 and suspends the caller path. -/
  | call (f : Fields) (aw : List ArgWord)
  /-- `RET` (R135). Records the return values, removes the path and runs SELECT. -/
  | ret (f : Fields)
  /-- `EXIT` (R136). Removes the current path's lanes from the wave for good. -/
  | exit (f : Fields)
  /-- `YIELD` (R138). A progress point and safe point that may give up the active place. -/
  | yield (f : Fields)
  /-- `TRAP` (R139). Takes trap(USER) with per-lane codes when a lane is active, which parks the block. -/
  | trap (f : Fields)
  /-- `TRAPINFO` (R142). Reads the decoded fields and operands of the trap that opened the handler frame. -/
  | trapinfo (f : Fields)
  /-- `TRET` (R143). Records the handler's result for the trapped place and removes the path. -/
  | tret (f : Fields)
  /-- `LD_G` (R269). Loads from global memory in each active lane. -/
  | ldG (f : Fields)
  /-- `ST_G` (R269). Stores to global memory in each active lane. -/
  | stG (f : Fields)
  /-- `LD_VA` (R269). Loads through a vault window. -/
  | ldVa (f : Fields)
  /-- `ST_VA` (R269). Stores through a vault window. -/
  | stVa (f : Fields)
  /-- `LD_FRAG` (R271). Loads one matrix operand fragment and binds its format block address. -/
  | ldFrag (f : Fields)
  /-- `ST_TILE` (R272). Stores tile rows raw or converted to bf16 or f16. -/
  | stTile (f : Fields)
  /-- `PF_G` (R273). Prefetches lines into the caches, and drops a prefetch that would fault. -/
  | pfG (f : Fields)
  /-- `ATOM_ADD` (R275). Atomic wrapping add; delivers the old value. -/
  | atomAdd (f : Fields)
  /-- `ATOM_MIN` (R275). Atomic minimum. -/
  | atomMin (f : Fields)
  /-- `ATOM_MAX` (R275). Atomic maximum. -/
  | atomMax (f : Fields)
  /-- `ATOM_AND` (R275). Atomic AND. -/
  | atomAnd (f : Fields)
  /-- `ATOM_OR` (R275). Atomic OR. -/
  | atomOr (f : Fields)
  /-- `ATOM_XOR` (R275). Atomic XOR. -/
  | atomXor (f : Fields)
  /-- `ATOM_XCHG` (R275). Atomic exchange. -/
  | atomXchg (f : Fields)
  /-- `ATOM_CAS` (R275). Atomic bitwise compare-and-swap. -/
  | atomCas (f : Fields)
  /-- `ATOM_FADD` (R275). Atomic f32 add that sets no flag. -/
  | atomFadd (f : Fields)
  /-- `BAR_B` (R278). Arrives at the block barrier. -/
  | barB (f : Fields)
  /-- `BAR_G` (R279). Checks the group and arrives at the group barrier. -/
  | barG (f : Fields)
  /-- `BAR_G_LV` (R231). Arrives at a group barrier and places the gear hold on the members' tiles. -/
  | barGLv (f : Fields)
  /-- `WAIT` (R280). Reads a word and compares it, then delivers a status or sleeps. -/
  | wait (f : Fields)
  /-- `XFENCE` (R282). Orders the tile's path classes X before Y, holding Y commands until X accesses are placed. -/
  | xfence (f : Fields)
  /-- `CDRAIN` (R283). Waits until every copy on a channel has been placed. -/
  | cdrain (f : Fields)
  /-- `GRED` (R285). Contributes a block's reduction to a group round keyed by group and address. -/
  | gred (f : Fields)
  /-- `CPY_BLK` (R289). Supplies a wave's slice of a block-collective copy. -/
  | cpyBlk (f : Fields)
  /-- `CPY_GRP` (R290). Issues the block's slice of a group fetch that lands in every member's vault. -/
  | cpyGrp (f : Fields)
  /-- `CPY_W` (R291). Writes a value on the copy path in each active lane. -/
  | cpyW (f : Fields)
  /-- `KVCOMMIT` (R295). Reads and checks a descriptor and path, then enqueues a key-value commit. -/
  | kvcommit (f : Fields)
  /-- `CPY_FILL` (R291). Fills regions with a 4-byte pattern on the copy path. -/
  | cpyFill (f : Fields)
  /-- `MMA` (R181). Issues a matrix product of fragments A and B into the accumulator, after the checks of R180. -/
  | mma (f : Fields)
  /-- `MMA_L2` (R181). Issues a matrix product whose B columns are fetched through the L2. -/
  | mmaL2 (f : Fields)
  /-- `TZERO` (R187). Delivers the all-zero tile. -/
  | tzero (f : Fields)
  /-- `TEXTR` (R187). Extracts one element of each tile row. -/
  | textr (f : Fields)
  /-- `TINS` (R187). Replaces one element of each tile row. -/
  | tins (f : Fields)
  /-- `FMTLD` (R179). Loads and checks a 64-byte format block into a fmt value. -/
  | fmtld (f : Fields)
  /-- `TCVT` (R188). Converts tile rows into a bf16 or f16 fragment. -/
  | tcvt (f : Fields)
  /-- `MMA_COMPLETE` (R184). The staged product is written to the destination once every row has been computed. -/
  | mmaComplete (w : WaveRef)
  /-- `ROW_TOP` (R190). Checks and enqueues the top note. -/
  | rowTop (f : Fields)
  /-- `ROW_HEART` (R190). Checks and enqueues the heart note. -/
  | rowHeart (f : Fields)
  /-- `ROW_BASE` (R190). Checks and enqueues the base note. -/
  | rowBase (f : Fields)
  /-- `ROW_PACE` (R193). Enqueues a pacing change of the row engine. -/
  | rowPace (f : Fields)
  /-- `ROW_SYNC` (R194). Waits until every row-engine command of the wave has completed. -/
  | rowSync (f : Fields)
  /-- `ROW_CFG` (R189). Sets the wave's row configuration τ and ofs. -/
  | rowCfg (f : Fields)
  /-- `TANC` (R196). Builds ancestor bitmaps of a token tree. -/
  | tanc (f : Fields)
  /-- `TMASK` (R197). Builds the 32 × 32 attention mask from the bitmaps. -/
  | tmask (f : Fields)
  /-- `TSEL` (R198). Replaces the masked-off tile elements by a fill value. -/
  | tsel (f : Fields)
  /-- `GEAR` (R225). Sets the tile's requested gear, and with .w waits for the change edge. -/
  | gear (f : Fields)
  /-- `GEAR_RD` (R226). Delivers the tile's gear state. -/
  | gearRd (f : Fields)
  /-- `CLK` (R227). Delivers the tile's tick, control-edge or engine-edge count. -/
  | clk (f : Fields)
  /-- `PACE` (R228). Sets a queue's pacing register on the tile. -/
  | pace (f : Fields)
  /-- `BOOST_REQ` (R229). Asks the die's power manager for a boost grant for the cluster. -/
  | boostReq (f : Fields)
  /-- `BOOST_REL` (R229). Withdraws the boost request. -/
  | boostRel (f : Fields)
  /-- `LAUNCH` (R334). Reads a launch record, takes the parameter snapshot and queues the record for acceptance. -/
  | launch (f : Fields)
  /-- `TRIG` (R335). Marks the block's early trigger. -/
  | trig (f : Fields)
  /-- `LWAIT` (R336). Waits on a launch status word for trigger or end. -/
  | lwait (f : Fields)
  /-- `CTXID` (R337). Delivers the LSEQ, class, system bit or debug bit. -/
  | ctxid (f : Fields)
  /-- `PRIO` (R337). Sets the issuing block's priority class. -/
  | prio (f : Fields)
  /-- `FAB_LD` (R383). Loads from a peer device over the fabric. -/
  | fabLd (f : Fields)
  /-- `FAB_ST` (R383). Stores to a peer device over the fabric. -/
  | fabSt (f : Fields)
  /-- `FAB_ATOM` (R383). Performs an atomic on a peer device. -/
  | fabAtom (f : Fields)
  /-- `LK_PARK` (R386). Parks the named wavelength groups of a link. -/
  | lkPark (f : Fields)
  /-- `LK_WAKE` (R386). Wakes the named wavelength groups of a link. -/
  | lkWake (f : Fields)
  /-- `LK_HEAT` (R386). Sets a ring heater's base setpoint. -/
  | lkHeat (f : Fields)
  /-- `LK_STAT_ST` (R386). Delivers a link's state word. -/
  | lkStatSt (f : Fields)
  /-- `LK_STAT_PD` (R386). Delivers a ring's photodiode reading, lock state and heater drive. -/
  | lkStatPd (f : Fields)
  /-- `LK_THR` (R386). Sets a link's wake threshold. -/
  | lkThr (f : Fields)
  /-- `TRC_MARK` (R421). Writes a MARK packet when MK is enabled. -/
  | trcMark (f : Fields)
  /-- `TRC_ON` (R421). Sets bits of the context's trace mask. -/
  | trcOn (f : Fields)
  /-- `TRC_OFF` (R421). Clears bits of the context's trace mask. -/
  | trcOff (f : Fields)
  /-- `DBG_BRK` (R322). Causes a debug stop of the partition when debug is on. -/
  | dbgBrk (f : Fields)
  /-- `DBG_STOP` (R322). Causes a debug stop of the partition or of the whole tile. -/
  | dbgStop (f : Fields)
  /-- `CNT_RD` (R422). Reads a 64-bit counter. -/
  | cntRd (f : Fields)
  /-- `DBG_UNDO` (R322). Steps the issuing wave back n entries of its undo log. -/
  | dbgUndo (f : Fields)
  /-- `SYS_CAP` (R400). Requests a package power cap and delivers the status word. -/
  | sysCap (f : Fields)
  /-- `SYS_FLOOR` (R401). Sets a context's guaranteed power floor. -/
  | sysFloor (f : Fields)
  /-- `SYS_RETIRE` (R431). Retires a tile, cluster or die and waits for its blocks to be swapped out. -/
  | sysRetire (f : Fields)
  /-- `SYS_CKPT` (R434). Quiesces the device and writes a flacon. -/
  | sysCkpt (f : Fields)
  /-- `SYS_RSYNC` (R439). Writes the re-synchronising summary into a buffer. -/
  | sysRsync (f : Fields)
  /-- `SYS_MIGR` (R433). Requests page migration to a die, or invalidation alone. -/
  | sysMigr (f : Fields)
  /-- `SYS_L3CLS` (R246). Sets the L3 class targets. -/
  | sysL3cls (f : Fields)
  /-- `SYS_WDOG` (R433). Sets a context's watchdog limit. -/
  | sysWdog (f : Fields)
  /-- `SYS_CTX_MK` (R432). Makes a context resident from its descriptor. -/
  | sysCtxMk (f : Fields)
  /-- `SYS_CTX_RET` (R432). Waits for quiescence, then retires a context. -/
  | sysCtxRet (f : Fields)
  /-- `SYS_CTX_TILE` (R432). Writes a tile context word, reassigning the tile. -/
  | sysCtxTile (f : Fields)
  /-- `SYS_CTX_DBG` (R432). Sets a context's debug bit. -/
  | sysCtxDbg (f : Fields)
  /-- `SYS_Q` (R433). Writes a queue's QEN bit as a host write would. -/
  | sysQ (f : Fields)
  /-- `NOP` (R99). Native op with no effect. -/
  | nop (s : Slot)
  /-- `MOV` (R99). Native register copy under k0. -/
  | mov (s : Slot)
  /-- `BCS` (R99). Native broadcast of a scalar register into a v register. -/
  | bcs (s : Slot)
  /-- `SPST` (R99). Native store of a v register into the wave's spill area. -/
  | spst (s : Slot)
  /-- `SPLD` (R99). Native load of a v register from the spill area. -/
  | spld (s : Slot)
  /-- `JMP` (R99). Native relative jump within a stream. -/
  | jmp (s : Slot)
  /-- `JC` (R99). Native conditional jump on .nz, .any or .all. -/
  | jc (s : Slot)
  /-- `JAL` (R99). Native jump and link. -/
  | jal (s : Slot)
  /-- `JR` (R99). Native jump to a register address. -/
  | jr (s : Slot)
  /-- `LCFG` (R105). Configures the wave's loop engine. -/
  | lcfg (s : Slot)
  /-- `BUNDLE_ISSUE` (R102). A sequencer issues the next ready bundle of one active wave, chosen by ageing, with its pops and ops. -/
  | bundleIssue (t : TileRef) (odd : Bool) (st : Stream)
  /-- `TOKEN_PUSH` (R103). A bundle's token pushes take effect once all its ops have completed. -/
  | tokenPush (w : WaveRef) (st : Stream)
  /-- `OPEN_STEP` (R106). The loop OPEN step runs once every participating stream has issued OPEN. -/
  | openStep (w : WaveRef)
  /-- `BACK_STEP` (R106). The loop BACK step rotates, shifts the stage bits and continues, halts or leaves. -/
  | backStep (w : WaveRef)
  /-- `LOOP_CLOSE` (R106). Clears CF once every participating stream has issued CLOSE. -/
  | loopClose (w : WaveRef)
  /-- `STOP_LANDED` (R108). A wave reaches its target safe point and issued ops have completed. -/
  | stopLanded (w : WaveRef)
  /-- `FAULT_RING_ROOM` (R350). Software's TAIL makes room, and a held fault record is written. -/
  | faultRingRoom (ctx : Nat)
  /-- `REGFAULT_RETRY` (R350). Every 56,000 ticks, or at an invalidation, the part retries a held region write that faulted. -/
  | regfaultRetry (ctx : Nat)
  /-- `PARK` (R309). All waves of the block have landed, and the block keeps its resources. -/
  | park (b : BlockRef)
  /-- `SWAP_OUT` (R310). Once every wave has landed and its vault counter is zero, writes the portable image and frees the tile. -/
  | swapOut (b : BlockRef)
  /-- `FAULT_RECORD_RESOLVE` (R312). Service software writes RES, resuming or killing the block or a paused engine command. -/
  | faultRecordResolve (ctx : Nat) (k : Nat)
  /-- `BLOCK_ADMISSION` (R207). The distributor admits or re-admits a pending block when resources free, or asks for a smaller budget. -/
  | blockAdmission (die : Nat)
  /-- `TRANSLATION_COMPLETE` (R302). The translator finishes a translation, stores it and releases the waiting blocks. -/
  | translationComplete (cl : ClusterRef)
  /-- `TRANSLATION_REFILL` (R300). A missing translation-cache line arrives from the store. -/
  | translationRefill (cl : ClusterRef) (key : Nat) (line : Nat)
  /-- `ACTIVE_SET_SWAP` (R210). A blocked-long or yielding active wave is exchanged for the oldest ready pending wave. -/
  | activeSetSwap (t : TileRef) (odd : Bool)
  /-- `POP_WAIT_EXPIRY` (R209). A pop that has waited 24 control cycles makes its wave blocked long. -/
  | popWaitExpiry (w : WaveRef) (st : Stream)
  /-- `WATCHDOG` (R213). A wave's watchdog count reaches the limit, and it takes trap(WATCHDOG) at its next safe point. -/
  | watchdog (w : WaveRef)
  /-- `WAVE_SLOT_RELEASE` (R136). An ended wave's slot and registers are released once its vault counter reaches zero. -/
  | waveSlotRelease (w : WaveRef)
  /-- `VAULT_REQUEST_COMPLETE` (R238). A vault request completes, and the wave's completion counter decreases. -/
  | vaultRequestComplete (w : WaveRef)
  /-- `GLOBAL_ACCESS_COMPLETE` (R248). A global load returns data, or a store reaches the L3. -/
  | globalAccessComplete (w : WaveRef)
  /-- `PTS_ADVANCE` (R247). Each wave's logical clock advances by at least 1 every 1,024 ticks. -/
  | ptsAdvance (w : WaveRef)
  /-- `BAR_B_RELEASE` (R278). The block barrier completes and its waves are released 4 control cycles later. -/
  | barBRelease (b : BlockRef)
  /-- `GROUP_BARRIER_RELEASE` (R230). A group barrier generation completes at T_c and each member is released at its next control edge. -/
  | groupBarrierRelease (lid : Nat) (g : Nat)
  /-- `WAIT_WAKE` (R280). A sleeping wait re-reads its word after a write or 1,024 ticks, and ends met, timed out or failed. -/
  | waitWake (w : WaveRef)
  /-- `LWAIT_WAKE` (R336). A sleeping lwait re-reads its status word. -/
  | lwaitWake (w : WaveRef)
  /-- `CDRAIN_DONE` (R283). Every covered copy on the channel has been placed, and cdrain completes. -/
  | cdrainDone (w : WaveRef)
  /-- `ROW_SYNC_DONE` (R194). Every row command of the wave has completed, and row.sync completes. -/
  | rowSyncDone (w : WaveRef)
  /-- `XFENCE_DONE` (R282). The X-class accesses are placed, and the held Y commands are released. -/
  | xfenceDone (w : WaveRef)
  /-- `GRED_ROUND_COMPLETE` (R285). All members have contributed or ended, and the combined result is written. -/
  | gredRoundComplete (lid : Nat) (g : Nat) (va : Word64) (order : List Nat)
  /-- `COPY_COMMAND_START` (R293). A queued copy enters the copy engine when its slices are all issued and pacing allows. -/
  | copyCommandStart (t : TileRef)
  /-- `COPY_COMMAND_COMPLETE` (R256). The last payload chunk is placed and the completion word is written. -/
  | copyCommandComplete (t : TileRef) (cmd : Nat)
  /-- `CPY_GRP_SLICE_LAND` (R290). A member's slice is written into each member's allocation as that member issues. -/
  | cpyGrpSliceLand (lid : Nat) (g : Nat) (src : Nat) (dst : Nat)
  /-- `ENGINE_PAGE_FAULT` (R292). A copy or kvcommit access faults, and the command pauses with a KIND 0, ENG 1 record. -/
  | enginePageFault (t : TileRef) (cmd : Nat)
  /-- `KVCOMMIT_COMPLETE` (R296). The key-value engine moves rows, releases pages and writes CLEN last. -/
  | kvcommitComplete (t : TileRef) (cmd : Nat)
  /-- `ROW_NOTE_START` (R193). A row note starts on its unit when its arrival, pacing, unit and record allow. -/
  | rowNoteStart (t : TileRef)
  /-- `ROW_NOTE_DONE` (R192). A top, heart or base note finishes and writes its record status last. -/
  | rowNoteDone (t : TileRef) (cmd : Nat)
  /-- `GEAR_CHANGE_EDGE` (R218). At the 64-tick boundary the decided gear's divisors take effect and T0 moves. -/
  | gearChangeEdge (t : TileRef)
  /-- `RAIL_CHANGE_END` (R218). The 392-tick rail-change stall ends, and the new clocks start at E. -/
  | railChangeEnd (t : TileRef)
  /-- `CONTEXT_SWITCH_START` (R353). A split tile decides to switch and sends stop requests to the outgoing waves. -/
  | contextSwitchStart (t : TileRef)
  /-- `CONTEXT_SWITCH_LANDED` (R353). The last outgoing wave lands, ACT changes, and the incoming gear is decided. -/
  | contextSwitchLanded (t : TileRef)
  /-- `CONTEXT_SWITCH_ISSUE` (R353). Four control cycles after E the incoming context's waves may issue. -/
  | contextSwitchIssue (t : TileRef)
  /-- `TILE_REASSIGN_APPLY` (R354). Once the reassignment's swap-outs complete, the tile reads the context's tile record. -/
  | tileReassignApply (t : TileRef)
  /-- `MIGRATION_APPLY` (R347). When the context is quiescent, copies pages to frames of the target die and invalidates translations. -/
  | migrationApply (w : WaveRef)
  /-- `CONTROL_INTERVAL` (R396). Every 20 µs the manager sets each cluster's throttle caps and boost grant. -/
  | controlInterval (inp : PowerInputs)
  /-- `THERMAL_TRIP` (R398). A sensor at 108 °C or more forces C to 0 at once and raises THERMAL_TRIP. -/
  | thermalTrip (cl : ClusterRef) (reading : Nat)
  /-- `PD_STOP_END` (R380). The 64-tick flit stop of a port divisor change ends. -/
  | pdStopEnd (die : Nat)
  /-- `QTAB_WRITE` (R364). A host write of QTAB takes effect only while every QEN bit is 0. -/
  | qtabWrite (v : Word64)
  /-- `QEN_WRITE` (R364). Enables or disables queues; enabling reads the descriptor and head word. -/
  | qenWrite (v : Word64)
  /-- `PTAB_WRITE` (R364). Sets the peer table for accesses issued afterwards. -/
  | ptabWrite (v : Word64)
  /-- `WIN_WRITE` (R365). Sets the CXL.mem window, and is ignored when it exceeds device memory. -/
  | winWrite (v : Word64)
  /-- `EVRING_WRITE` (R364). A write of EVRING or EVN resets EVHEAD to 0. -/
  | evringWrite (evn : Bool) (v : Word64)
  /-- `EVTAIL_WRITE` (R364). Host acknowledges event records read. -/
  | evtailWrite (v : Word64)
  /-- `FID_WRITE` (R364). Sets the device's fabric identity for later messages. -/
  | fidWrite (v : Word64)
  /-- `BAR0_OTHER_WRITE` (R363). Writes to read-only or undefined BAR0 registers are ignored. -/
  | bar0OtherWrite (off : Nat) (v : Word64)
  /-- `CXL_MEM_READ` (R365). Host read through the window, placed when the data is read, with poison per 64-byte unit. -/
  | cxlMemRead (off : Nat) (n : Nat)
  /-- `CXL_MEM_WRITE` (R365). Host write through the window, placed when it is accepted. -/
  | cxlMemWrite (off : Nat) (bytes : List Byte)
  /-- `TAIL_SNOOP` (R368). A host snoop of a tail word's line makes the front-end re-read the tail within 140 ticks. -/
  | tailSnoop (q : Nat)
  /-- `QUEUE_SERVE_TURN` (R368). The front-end serves HP queues, device launch queues and one round-robin queue. -/
  | queueServeTurn
  /-- `DEPENDENCY_REREAD` (R331). The front-end re-reads a dependency status word and makes the launch eligible when satisfied. -/
  | dependencyReread (lid : Nat)
  /-- `LAUNCH_TRIGGERED` (R332). After every block's trigger, writes STATE 2. -/
  | launchTriggered (lid : Nat)
  /-- `LAUNCH_ENDED` (R332). After every block's end, writes STATE 3 and ends the launch span. -/
  | launchEnded (lid : Nat)
  /-- `WIDTH_CHANGE` (R372). At the first slot boundary after the flit in transit, a link's width changes and beat numbering restarts. -/
  | widthChange (link : Nat)
  /-- `RETRAIN_END` (R372). The 28-tick deskew gap after a width change ends. -/
  | retrainEnd (link : Nat)
  /-- `LASER_START_DONE` (R378). A WAKING group enters LOCKING after 2,520 ticks. -/
  | laserStartDone (link : Nat) (grp : Nat)
  /-- `RING_LOCK_DONE` (R378). A LOCKING group enters READY after 1,960 ticks once the peer is ready. -/
  | ringLockDone (link : Nat) (grp : Nat)
  /-- `PEER_READINESS` (R380). A control flit announcing the peer's receive readiness arrives. -/
  | peerReadiness (link : Nat) (grp : Nat)
  /-- `THRESHOLD_WAKE` (R379). In a port cycle where DEPTH ≥ THR, OFF groups are woken. -/
  | thresholdWake (link : Nat)
  /-- `LOSS_OF_LOCK` (R381). A ring's trim hits its limit; its group is parked and woken, or for group 0 the link goes down. -/
  | lossOfLock (fibre : Nat) (ring : Nat)
  /-- `FLIT_RECEIVE` (R373). A flit arrives, is checked by CRC and acknowledged, or a replay is requested. -/
  | flitReceive (link : Nat) (fl : Flit)
  /-- `FAB_READ` (R374). A peer read message arrives and is placed in this device's order. -/
  | fabRead (m : Message)
  /-- `FAB_WRITE` (R374). A peer write message arrives and is placed. -/
  | fabWrite (m : Message)
  /-- `FAB_ATOMIC` (R374). A peer atomic message arrives and is performed. -/
  | fabAtomic (m : Message)
  /-- `READ_RESPONSE` (R374). A read response delivers a fab.ld lane's data or a failure status. -/
  | readResponse (m : Message)
  /-- `WRITE_ACKNOWLEDGEMENT` (R374). A write acknowledgement completes a fab.st lane. -/
  | writeAcknowledgement (m : Message)
  /-- `ATOMIC_RESPONSE` (R374). An atomic response delivers the old value. -/
  | atomicResponse (m : Message)
  /-- `COPY_WRITE` (R374). A copy-write message arrives and its bytes are checked and placed. -/
  | copyWrite (m : Message)
  /-- `COMPLETION_WRITE` (R374). A completion-write message writes a peer copy's completion word. -/
  | completionWrite (m : Message)
  /-- `MCTP_BASE_CONTROL` (R370). The management endpoint answers MCTP base control messages. -/
  | mctpBaseControl (req : List Byte)
  /-- `IDENTITY` (R370). Vendor message that returns the device identity. -/
  | identity
  /-- `SENSOR_READINGS` (R370). Vendor message that returns the sensor readings. -/
  | sensorReadings
  /-- `EVENT_RING_MIRROR` (R370). Vendor message that mirrors the event ring. -/
  | eventRingMirror
  /-- `SUMMARY` (R439). Management message that writes the re-synchronising summary. -/
  | summary
  /-- `CLEAR_RETIREMENT` (R429). Management message that clears the retirement map at the next cold start. -/
  | clearRetirement
  /-- `FLACON_LOAD` (R436). Management message that restores a flacon after a start. -/
  | flaconLoad (base : Nat)
  /-- `RECOVERY_LOAD` (R438). Loads a firmware image piece in recovery mode, replacing the image once its digest checks. -/
  | recoveryLoad (pc : FirmwarePiece)
  /-- `COLD_START` (R437). Verifies firmware, trains memory, repairs stacks, tunes rings and trains links. -/
  | coldStart (inp : StartInputs)
  /-- `WARM_START` (R437). Restarts with stored training and setpoints, keeping memory in self-refresh. -/
  | warmStart (inp : StartInputs)
  /-- `POWER_REMOVAL` (R5). Power is removed, ending device-span state. -/
  | powerRemoval
  /-- `HEATER_FLASH_WRITE` (R437). A heater setpoint is written to flash within 1 s of its last change. -/
  | heaterFlashWrite (fibre : Nat) (ring : Nat)
  /-- `UNRECOVERABLE_FAULT` (R426). Stops the tile, kills its blocks, fails its owed completion words and retires it. -/
  | unrecoverableFault (t : TileRef) (cause : Nat)
  /-- `DEBUG_INTERFACE_STOP` (R318). System software stops a partition through the context's debug interface. -/
  | debugInterfaceStop (t : TileRef) (odd : Bool)
  /-- `DEBUG_RESUME` (R320). CMD 1: every landed wave continues. -/
  | debugResume (t : TileRef) (odd : Bool)
  /-- `DEBUG_STEP` (R320). CMD 2: one wave runs n portable instructions, then stops with CAUSE 3. -/
  | debugStep (t : TileRef) (odd : Bool)
  /-- `DEBUG_UNDO` (R320). CMD 3: applies UNDO to one wave while the partition stays halted. -/
  | debugUndo (t : TileRef) (odd : Bool)
  /-- `TRACE_PACKET_WRITE` (R416). After holding packets 1,024 ticks, the engine writes them into the frame in tick order. -/
  | tracePacketWrite (die : Nat)
  /-- `TRACE_FRAME_CLOSE` (R417). A frame closes when full, after 56,000 idle ticks, or at a checkpoint or reset. -/
  | traceFrameClose (die : Nat)
  /-- `TRACE_FRAME_WRITE` (R418). A buffered frame is written to the ring and WIDX advances, or a frame is dropped when the buffer is full. -/
  | traceFrameWrite (die : Nat)
  /-- `TRACE_MASK_APPLY` (R421). Other waves of the context follow a new trace mask 1,024 ticks after trc.on or trc.off. -/
  | traceMaskApply (ctx : Nat)
  /-- `CXL_LINK_RETRAIN` (R361). On link errors the CXL port retrains, at 64 GT/s and then at 32 GT/s, and possibly at a narrower width, changing only the host path's time. -/
  | cxlLinkRetrain (rate : Nat) (width : Nat)
deriving DecidableEq, Repr

end Sys2Proof
end

