-- ==== Sys2Proof/Config.lean ====
section
/-!
DEFINITION. What an implementation fixes, and the free values: opaque constants of which nothing is known, so that a
claim about them holds for every value.
-/

namespace Sys2Proof.Config

/-- The translator's own choice of register budget for a function whose table entry lets it choose (04 R62, 14 R304):
the smallest multiple of 16 at which the function needs no spill slot depends on an allocation that the spec leaves to
the translator. Free value, by the code object's identity, the function, and 1 for an N die. -/
opaque budget : Nat → Nat → Nat → Nat

/-- The spill bytes per wave of a translation (05 R110), left to the translator. Free value. -/
opaque spill : Nat → Nat

/-- The declared pre-emption interval of a translation (17 R355), left to the translator. Free value. -/
opaque interval : Nat → Nat

/-- Where in its die's translation store the translator puts a translation's native code, and the offset and the
length of its side table (05 R110). Free values. -/
opaque codeBase : Nat → Nat
opaque codeLen : Nat → Nat
opaque sideOff : Nat → Nat
opaque sideLen : Nat → Nat

/-- A monitor photodiode's reading (18 R386): a measurement. Free value. -/
opaque photodiode : Nat → BitVec 12

/-- The heater drive code that a lock loop has trimmed to (18 R381). Free value. -/
opaque drive : Nat → BitVec 12

/-- The firmware version that the summary reports (22 R439). Free value. -/
opaque firmwareVersion : Nat → BitVec 32

/-- Which of the types that an instruction accepts for an operand a native op reads its register as: neither TYP nor the
register names the type of an operand that differs from the result's (05 R92, R94). Free value, by a fresh counter. -/
opaque nativeTy : Nat → Nat

/-- The format block address of the operand that a drain source delivers: no register or field holds it (05 R104). Free
value, by a fresh counter. -/
opaque drainFba : Nat → BitVec 64

/-- An element of a product on an i32 accumulator whose sum holds an infinite fetched element, which 08 R182 says cannot arise but 02 R36
allows: the product's number, the row and the column. Free value. -/
opaque unboundedSum : Nat → Nat → Nat → BitVec 32

/-- The answer of the management endpoint to a base control message, whose contents belong to another standard
(18 R370). Free value. -/
opaque mctpAnswer : List (BitVec 8) → Nat → List (BitVec 8)

/-- The identity answer's own layout (18 R370) is not given: its bytes. Free value. -/
opaque identityAnswer : Nat → List (BitVec 8)

/-- The measured sensors' answer (18 R370). Free value. -/
opaque sensorAnswer : Nat → List (BitVec 8)

/-- The measured share in mW of a retired unit in the idle base power (20 R400). Free value, by a fresh counter. -/
opaque idleShare : Nat → Nat

/-- What the sensors measure over an interval (20 R395, R399) when the world gives no reading: package power in mW, and by interval, die
and cluster the temperature in 0.25 degrees C, the fast-rail current in mA and the cluster's mean power in mW. Free values. -/
opaque packagePower : Nat → Nat
opaque clusterTemp : Nat → Nat → Nat → Nat
opaque clusterCurrent : Nat → Nat → Nat → Nat
opaque clusterPower : Nat → Nat → Nat → Nat

/-- How the summary lays out what a record of a kind holds behind its kind byte (22 R439 names the contents, not their
places). Free value, of the kind and the contents. -/
opaque summaryBody : Nat → List Nat → List (BitVec 8)

/-- The order in which a flacon keeps the bytes of a section entry, or of its device state section (22 R435 names what they hold, not their
places), by the number of bytes. What is written in an order is read in it. Free value. -/
opaque flaconOrder : Nat → Nat

/-- A byte of a flacon section that a peer holds, as a restore reads it back (22 R436): the target, the section's offset there and the
byte's. Neither header nor entry says where the peer's base is. Free value. -/
opaque peerSection : Nat → Nat → Nat → BitVec 8

/-- The frames that a row of a channel holds (22 R428): which rows an address falls into is not given. Free value. -/
opaque rowFrames : Nat → Nat → List Nat

/-- The digest that firmware verification computes of an image (22 R438). Free value: the digest algorithm is not
given. -/
opaque digest : List (BitVec 8) → List (BitVec 8)

/-- Whether a peer's atomic minimum or maximum compares signed numbers (18 R374 carries no type). Free value. -/
opaque peerSigned : Nat → Bool

/-- The parked groups that a peer's control flit announces (18 R373: in a form that only Reardun ports read). Free
value, of the flit's beats. -/
opaque flitParked : List (BitVec 8) → BitVec 4

/-- What else a control flit announces (18 R373, R380): the groups that the peer wakes, those for which it is ready, and
whether it asks for a replay. Free values, of the flit's beats. -/
opaque flitWaking : List (BitVec 8) → BitVec 4
opaque flitReady : List (BitVec 8) → BitVec 4
opaque flitAsks : List (BitVec 8) → Bool

/-- Beats 1-15 of a control flit that this device sends: its groups outside the width, those on their way, those of the
peer's for which it is ready, and whether it asks for a replay. Free values. -/
opaque controlBeats : BitVec 4 → BitVec 4 → BitVec 4 → Bool → List (BitVec 8)

/-- Whether a ring has its lock again before the 1,960 ticks after a new setpoint are over (18 R386: within them). Free value. -/
opaque relocked : Nat → Bool

/-- Whether an event of another wave that falls within 1,024 ticks after a `trc.on` or `trc.off` follows the new mask
(21 R421: it may be traced or not). Free value, of the event's tick, the change's tick, and the event's wave and place. -/
opaque traceEarly : Nat → Nat → List Nat → Bool

end Sys2Proof.Config
end

