-- ==== Sys2Proof/WellFormed.lean ====
section
/-!
DEFINITION. Which instructions are well formed: what an encoding can be made of (04 R66-R72, R78-R81; 05 R92-R99),
and for the part's own events the ranges of the units they name (00 R2).
-/

namespace Sys2Proof

/-- The fields of a portable instruction. -/
def Instr.fields? (i : Instr) : Option Fields :=
  match i with
  | .add f | .sub f | .mul f | .mulhi f | .mulw f | .mad f | .div f | .rem f | .neg f | .abs f | .min f | .max f
  | .and f | .or f | .xor f | .not f | .shl f | .shr f | .rot f | .popc f | .clz f | .ctz f | .brev f | .bfx f
  | .bfi f | .cmp f | .sel f | .ext f | .aoff f | .adiff f | .vaddr f | .dp4 f | .const f | .constw f | .param f
  | .id f | .fadd f | .fsub f | .fmul f | .fma f | .fdiv f | .fsqrt f | .frsq f | .frcp f | .fmin f | .fmax f
  | .fneg f | .fabs f | .fcmp f | .fclass f | .fexp2 f | .flog2 f | .fexp f | .flog f | .fsin f | .fcos f
  | .ftanh f | .fsigm f | .fgelu f | .fsilu f | .ffloor f | .fceil f | .fround f | .ftrunc f | .fcopys f
  | .fscale f | .fdot2 f | .flerp f | .fstat f | .fclr f | .sliAdd f | .sliSub f | .sliMul f | .sliDiv f
  | .sliNeg f | .sliAbs f | .sliRcp f | .sliCmp f | .sliMin f | .sliMax f | .sliStat f | .sliClr f | .sliLvl f
  | .sliSq f | .cvt f | .bitc f | .qz f | .dq f | .pkn f | .upkn f | .xscl f | .hadm f | .shfl f | .vote f
  | .scan f | .red f | .gtrans f | .bcast f | .lsel f | .ret f | .exit f | .yield f | .trap f | .trapinfo f
  | .tret f | .ldG f | .stG f | .ldVa f | .stVa f | .ldFrag f | .stTile f | .pfG f | .atomAdd f | .atomMin f
  | .atomMax f | .atomAnd f | .atomOr f | .atomXor f | .atomXchg f | .atomCas f | .atomFadd f | .barB f | .barG f
  | .barGLv f | .wait f | .xfence f | .cdrain f | .gred f | .cpyBlk f | .cpyGrp f | .cpyW f | .kvcommit f
  | .cpyFill f | .mma f | .mmaL2 f | .tzero f | .textr f | .tins f | .fmtld f | .tcvt f | .rowTop f | .rowHeart f
  | .rowBase f | .rowPace f | .rowSync f | .rowCfg f | .tanc f | .tmask f | .tsel f | .gear f | .gearRd f | .clk f
  | .pace f | .boostReq f | .boostRel f | .launch f | .trig f | .lwait f | .ctxid f | .prio f | .fabLd f | .fabSt f
  | .fabAtom f | .lkPark f | .lkWake f | .lkHeat f | .lkStatSt f | .lkStatPd f | .lkThr f | .trcMark f | .trcOn f
  | .trcOff f | .dbgBrk f | .dbgStop f | .cntRd f | .dbgUndo f | .sysCap f | .sysFloor f | .sysRetire f
  | .sysCkpt f | .sysRsync f | .sysMigr f | .sysL3cls f | .sysWdog f | .sysCtxMk f | .sysCtxRet f | .sysCtxTile f
  | .sysCtxDbg f | .sysQ f => some f
  | .br f _ | .brc f _ | .call f _ => some f
  | .nop _ | .mov _ | .bcs _ | .spst _ | .spld _ | .jmp _ | .jc _ | .jal _ | .jr _ | .lcfg _ => none
  | .mmaComplete _ | .bundleIssue _ _ _ | .tokenPush _ _ | .openStep _ | .backStep _ | .loopClose _ | .stopLanded _
  | .faultRingRoom _ | .regfaultRetry _ | .park _ | .swapOut _ | .faultRecordResolve _ _ | .blockAdmission _
  | .translationComplete _ | .translationRefill _ _ _ | .activeSetSwap _ _ | .popWaitExpiry _ _ | .watchdog _
  | .waveSlotRelease _ | .vaultRequestComplete _ | .globalAccessComplete _ | .ptsAdvance _ | .barBRelease _
  | .groupBarrierRelease _ _ | .waitWake _ | .lwaitWake _ | .cdrainDone _ | .rowSyncDone _ | .xfenceDone _
  | .gredRoundComplete _ _ _ _ | .copyCommandStart _ | .copyCommandComplete _ _ | .cpyGrpSliceLand _ _ _ _
  | .enginePageFault _ _ | .kvcommitComplete _ _ | .rowNoteStart _ | .rowNoteDone _ _ | .gearChangeEdge _
  | .railChangeEnd _ | .contextSwitchStart _ | .contextSwitchLanded _ | .contextSwitchIssue _
  | .tileReassignApply _ | .migrationApply _ | .controlInterval _ | .thermalTrip _ _ | .pdStopEnd _ | .qtabWrite _
  | .qenWrite _ | .ptabWrite _ | .winWrite _ | .evringWrite _ _ | .evtailWrite _ | .fidWrite _
  | .bar0OtherWrite _ _ | .cxlMemRead _ _ | .cxlMemWrite _ _ | .tailSnoop _ | .queueServeTurn | .dependencyReread _
  | .launchTriggered _ | .launchEnded _ | .widthChange _ | .retrainEnd _ | .laserStartDone _ _ | .ringLockDone _ _
  | .peerReadiness _ _ | .thresholdWake _ | .lossOfLock _ _ | .flitReceive _ _ | .fabRead _ | .fabWrite _
  | .fabAtomic _ | .readResponse _ | .writeAcknowledgement _ | .atomicResponse _ | .copyWrite _
  | .completionWrite _ | .mctpBaseControl _ | .identity | .sensorReadings | .eventRingMirror | .summary
  | .clearRetirement | .flaconLoad _ | .recoveryLoad _ | .coldStart _ | .warmStart _ | .powerRemoval
  | .heaterFlashWrite _ _ | .unrecoverableFault _ _ | .debugInterfaceStop _ _ | .debugResume _ _ | .debugStep _ _
  | .debugUndo _ _ | .tracePacketWrite _ | .traceFrameClose _ | .traceFrameWrite _ | .traceMaskApply _
  | .cxlLinkRetrain _ _ => none

/-- The argument words of a branch or call (04 R69); none for every other instruction. -/
def Instr.argWords (i : Instr) : List ArgWord :=
  match i with
  | .br _ aw | .brc _ aw | .call _ aw => aw
  | _ => []

/-- The slot of a native-only operation (05 R99). -/
def Instr.slot? (i : Instr) : Option Slot :=
  match i with
  | .nop s | .mov s | .bcs s | .spst s | .spld s | .jmp s | .jc s | .jal s | .jr s | .lcfg s => some s
  | _ => none

/-- A well-formed argument word (04 R69): one to five references, the fields beyond them 0. -/
def ArgWord.wf (w : ArgWord) : Bool :=
  1 ≤ w.n.toNat && w.n.toNat ≤ 5 && (2 ≤ w.n.toNat || w.a2 == 0) && (3 ≤ w.n.toNat || w.a3 == 0)
    && (4 ≤ w.n.toNat || w.a4 == 0) && (w.n.toNat == 5 || w.a5 == 0)

/-- The two targets of a branch, or the callee of a call, and bit 0 (04 R72): fields [32:17], [16:1] and [0]. -/
def Fields.target1 (f : Fields) : BitVec 16 := (f.b ++ f.c).extractLsb' 6 16
def Fields.target0 (f : Fields) : BitVec 16 := ((f.c ++ f.p).extractLsb' 1 22).extractLsb' 0 16
def Fields.bit0 (f : Fields) : Bool := f.p.getLsbD 0

/-- The 33-bit immediate I of `const` (04 R78), the 44-bit J of `constw` (R79) and the offset of `param` (R80). -/
def Fields.imm33 (f : Fields) : BitVec 33 := f.a ++ f.b ++ f.c
def Fields.imm44 (f : Fields) : BitVec 44 := f.a ++ f.b ++ f.c ++ f.p
def Fields.off22 (f : Fields) : BitVec 22 := f.b ++ f.c

/-- The conditions of R78 on the immediate of `const.T`, by type code. -/
def constImmOk (typ : Nat) (imm : Nat) : Bool :=
  match typ with
  | 1 => imm < 2
  | 2 | 3 | 6 | 9 => imm < 2 ^ 32
  | 7 | 8 | 10 => imm < 2 ^ 16
  | 4 | 5 | 11 => true
  | _ => false

/-- The fields of a word that are legal whatever the values of its operands: TYP 15 stands nowhere (04 R73), the
layouts of R72 and R78-R81 hold, and the argument words are as many as MOD says. -/
def Instr.fieldsWf (i : Instr) : Bool :=
  match i with
  | .const f => constImmOk f.typ.toNat f.imm33.toNat && f.md == 0 && f.p == 0
  | .constw f => (f.typ == 2 || f.typ == 3 || f.typ == 4 || f.typ == 5 || f.typ == 11) && f.md.toNat ≤ 20
  | .param f => (2 ≤ f.typ.toNat && f.typ.toNat ≤ 11) && f.md == 0 && f.a == 0 && f.p == 0
  | .id f => f.md.toNat ≤ 19 && f.typ == (if f.md == 4 then 5 else 3) && f.a == 0 && f.b == 0 && f.c == 0 && f.p == 0
  | .br f aw => f.typ == 0 && f.md.toNat == aw.length && aw.all ArgWord.wf && f.a == 0 && f.target0 == 0 && !f.bit0
  | .brc f aw => f.typ == 0 && f.md.toNat == aw.length && aw.all ArgWord.wf && f.a != 0 && !f.bit0
  | .call f aw => f.typ != 15 && f.md.toNat == aw.length && aw.all ArgWord.wf && f.a == 0 && f.target0 == 0 && !f.bit0
  | .boostReq f => f.md == 0 && f.typ != 15
  | .boostRel f => f.md == 1 && f.typ != 15
  | .lkStatSt f => f.md == 0 && f.typ != 15
  | .lkStatPd f => f.md == 1 && f.typ != 15
  | .sysCtxMk f => f.md == 0 && f.typ != 15
  | .sysCtxRet f => f.md == 1 && f.typ != 15
  | .sysCtxTile f => f.md == 2 && f.typ != 15
  | .sysCtxDbg f => f.md == 3 && f.typ != 15
  | i =>
    match i.fields? with
    | some f => f.typ != 15
    | none => true

/-- The class of a native source field (05 R94): its bits [11:8], with the unused bits 0. -/
def srcOk (cls : Nat) (s : BitVec 12) : Bool :=
  match cls with
  | 0 => s.toNat < 2048
  | 1 => s.toNat / 8 == 256
  | 2 => s.toNat / 256 == 9
  | 3 => s.toNat / 16 == 160
  | 4 => s.toNat / 16 == 176
  | _ => false

/-- A source that names a register or latch (05 R94), drains apart. -/
def srcAny (s : BitVec 12) : Bool := srcOk 0 s || srcOk 1 s || srcOk 2 s || srcOk 3 s || srcOk 4 s

/-- The static rules of R99 for a native-only slot: its pair form, and its unused fields 0. `jal`, whose DST R99 calls an s register, does
not suppress its write-back (DESIGN CHOICE, log entry 35). -/
def Instr.slotWf (i : Instr) : Bool :=
  match i with
  | .nop s => s.typ == 0 && s.dst == 0 && s.sa == 0 && s.sb == 0 && s.stg == 0 && s.mods == 0 && s.ext.isNone
  | .mov s => s.typ != 15 && s.typ != 0 && srcAny s.sa && s.sb == 0 && s.stg == 0 && s.mods == 0 && s.ext.isNone
  | .bcs s => s.typ != 15 && s.typ != 0 && srcOk 2 s.sa && s.sb == 0 && s.stg == 0 && s.mods == 0 && s.ext.isNone
  | .spst s =>
    s.typ != 15 && s.typ != 0 && s.dst == 0 && srcOk 0 s.sa && s.sb == 0 && s.stg == 0 && s.mods == 0 &&
      (match s.ext with
       | some e => e.sc == 0 && e.modx == 0 && e.imm.toNat < 2 ^ 18
       | none => false)
  | .spld s =>
    s.typ != 15 && s.typ != 0 && s.sa == 0 && s.sb == 0 && s.stg == 0 && s.mods == 0 &&
      (match s.ext with
       | some e => e.sc == 0 && e.modx == 0 && e.imm.toNat < 2 ^ 18
       | none => false)
  | .jmp s => s.typ == 0 && s.sb == 0 && s.stg == 0 && s.mods == 0 && s.ext.isNone
  | .jc s =>
    s.typ == 0 && s.mods.toNat ≤ 2 && s.stg == 0 && s.ext.isNone &&
      (if s.mods == 0 then srcOk 2 s.dst else srcOk 3 s.dst)
  | .jal s => s.typ == 0 && s.dst.toNat < 256 && s.stg == 0 && s.mods == 0 && s.ext.isNone
  | .jr s => s.typ == 0 && s.dst == 0 && srcOk 2 s.sa && s.sb == 0 && s.stg == 0 && s.mods == 0 && s.ext.isNone
  | .lcfg s =>
    s.typ == 0 && s.dst == 0 && srcOk 2 s.sa && s.sb == 0 && s.stg == 0 && s.mods == 0 &&
      (match s.ext with
       | some e => e.sc == 0 && e.modx == 0 && e.imm.toNat < 2 ^ 27 && (e.imm.toNat / 2 ^ 11) % 512 ≤ 256 &&
           (e.imm.toNat / 2 ^ 20) % 8 ≤ 6
       | none => false)
  | _ => true

/-- Dies 2 and 5 are narrow (00 R2). -/
def narrowDie (d : Nat) : Bool := d == 2 || d == 5

/-- Tiles and clusters of a die (00 R2, R3). -/
def tilesOf (d : Nat) : Nat := if narrowDie d then 64 else 96
def clustersOf (d : Nat) : Nat := if narrowDie d then 16 else 24

def TileRef.ok (t : TileRef) : Bool := t.die < 8 && t.tile < tilesOf t.die
def ClusterRef.ok (c : ClusterRef) : Bool := c.die < 8 && c.cl < clustersOf c.die
def BlockRef.ok (b : BlockRef) : Bool := b.blk < 2 ^ 32
def WaveRef.ok (w : WaveRef) : Bool := w.blk < 2 ^ 32 && w.wav < 32

/-- A message's payload has the length that its header gives (18 R374). -/
def Message.ok (m : Message) : Bool := m.payload.length ≤ 4096

/-- The units that an event names exist (00 R2). -/
def Instr.eventWf (i : Instr) : Bool :=
  match i with
  | .mmaComplete w => w.ok
  | .bundleIssue t _ _ => t.ok
  | .tokenPush w _ => w.ok
  | .openStep w => w.ok
  | .backStep w => w.ok
  | .loopClose w => w.ok
  | .stopLanded w => w.ok
  | .faultRingRoom ctx => ctx < 4
  | .regfaultRetry ctx => ctx < 4
  | .park b => b.ok
  | .swapOut b => b.ok
  | .faultRecordResolve ctx _ => ctx < 4
  | .blockAdmission die => die < 8
  | .translationComplete cl => cl.ok
  | .translationRefill cl _ _ => cl.ok
  | .activeSetSwap t _ => t.ok
  | .popWaitExpiry w _ => w.ok
  | .watchdog w => w.ok
  | .waveSlotRelease w => w.ok
  | .vaultRequestComplete w => w.ok
  | .globalAccessComplete w => w.ok
  | .ptsAdvance w => w.ok
  | .barBRelease b => b.ok
  | .groupBarrierRelease _ g => g < 65536
  | .waitWake w => w.ok
  | .lwaitWake w => w.ok
  | .cdrainDone w => w.ok
  | .rowSyncDone w => w.ok
  | .xfenceDone w => w.ok
  | .gredRoundComplete _ g _ _ => g < 65536
  | .copyCommandStart t => t.ok
  | .copyCommandComplete t _ => t.ok
  | .cpyGrpSliceLand _ g _ _ => g < 65536
  | .enginePageFault t _ => t.ok
  | .kvcommitComplete t _ => t.ok
  | .rowNoteStart t => t.ok
  | .rowNoteDone t _ => t.ok
  | .gearChangeEdge t => t.ok
  | .railChangeEnd t => t.ok
  | .contextSwitchStart t => t.ok
  | .contextSwitchLanded t => t.ok
  | .contextSwitchIssue t => t.ok
  | .tileReassignApply t => t.ok
  | .migrationApply w => w.ok
  | .thermalTrip cl _ => cl.ok
  | .pdStopEnd die => die < 8
  | .bar0OtherWrite off _ => off < 4096
  | .tailSnoop q => q < 16
  | .widthChange link => link < 32
  | .retrainEnd link => link < 32
  | .laserStartDone link grp => link < 32 && grp < 4
  | .ringLockDone link grp => link < 32 && grp < 4
  | .peerReadiness link grp => link < 32 && grp < 4
  | .thresholdWake link => link < 32
  | .lossOfLock fibre ring => fibre < 128 && ring < 16
  | .flitReceive link _ => link < 32
  | .fabRead m => m.ok
  | .fabWrite m => m.ok
  | .fabAtomic m => m.ok
  | .readResponse m => m.ok
  | .writeAcknowledgement m => m.ok
  | .atomicResponse m => m.ok
  | .copyWrite m => m.ok
  | .completionWrite m => m.ok
  | .flaconLoad base => base % 4096 == 0
  | .heaterFlashWrite fibre ring => fibre < 128 && ring < 16
  | .unrecoverableFault t cause => t.ok && cause < 256
  | .debugInterfaceStop t _ => t.ok
  | .debugResume t _ => t.ok
  | .debugStep t _ => t.ok
  | .debugUndo t _ => t.ok
  | .tracePacketWrite die => die < 8
  | .traceFrameClose die => die < 8
  | .traceFrameWrite die => die < 8
  | .traceMaskApply ctx => ctx < 4
  | _ => true

/-- A well-formed instruction. -/
def Instr.wf (i : Instr) : Bool := i.fieldsWf && i.slotWf && i.eventWf

end Sys2Proof
end

