-- ==== Sys2Proof/Decode.lean ====
section
/-!
DEFINITION. From bits to instructions: portable words and argument words (04 R64-R72), native slots and bundles
(05 R91-R93), the structure of a function (04 R67-R71); then the encoder of the same encodings.
-/

namespace Sys2Proof

/-! ## Portable words -/

/-- Why bits are no instruction. -/
inductive DecodeError where
  /-- Word bit 63 is 1 (04 R64, R66). -/
  | marker
  /-- The opcode is reserved (04 R89). -/
  | reservedOpcode (opc : Nat)
  /-- The opcode is that of a block header (04 R68). -/
  | blockHeader
  /-- The opcode is native-only (04 R88). -/
  | nativeOnly (opc : Nat)
  /-- The argument words break R69, or are not as many as MOD says. -/
  | argWords
  /-- The bundle breaks a native encoding rule (05 R100). -/
  | nativeIllegal
  /-- The bytes end inside the instruction. -/
  | short
deriving DecidableEq, Repr

/-- The opcode of a word (04 R66). -/
def opcOf (w : BitVec 64) : BitVec 9 := w.extractLsb' 54 9

/-- The fields of a word beside its opcode (04 R66). -/
def fieldsOf (w : BitVec 64) : Fields :=
  { typ := w.extractLsb' 50 4, md := w.extractLsb' 44 6, a := w.extractLsb' 33 11, b := w.extractLsb' 22 11,
    c := w.extractLsb' 11 11, p := w.extractLsb' 0 11 }

/-- The fields of an argument word (04 R69). -/
def argWordOf (w : BitVec 64) : ArgWord :=
  { n := w.extractLsb' 60 3, a1 := w.extractLsb' 44 11, a2 := w.extractLsb' 33 11, a3 := w.extractLsb' 22 11,
    a4 := w.extractLsb' 11 11, a5 := w.extractLsb' 0 11 }

/-- An argument word as R69 has it: bits [63] and [59:55] are 0. -/
def argWord? (w : BitVec 64) : Option ArgWord :=
  if w.extractLsb' 63 1 == 0 && w.extractLsb' 55 5 == 0 && (argWordOf w).wf then some (argWordOf w) else none

/-- The instruction of an opcode (04 R89) with its fields. The opcodes that the table splits by MOD give the row that
MOD names, and the first of their rows for a MOD that names none. -/
def decodeOp (opc : Nat) (f : Fields) (aw : List ArgWord) : Option Instr :=
  match opc with
  | 0x000 => some (.add f)
  | 0x001 => some (.sub f)
  | 0x002 => some (.mul f)
  | 0x003 => some (.mulhi f)
  | 0x004 => some (.mulw f)
  | 0x005 => some (.mad f)
  | 0x006 => some (.div f)
  | 0x007 => some (.rem f)
  | 0x008 => some (.neg f)
  | 0x009 => some (.abs f)
  | 0x00A => some (.min f)
  | 0x00B => some (.max f)
  | 0x00C => some (.and f)
  | 0x00D => some (.or f)
  | 0x00E => some (.xor f)
  | 0x00F => some (.not f)
  | 0x010 => some (.shl f)
  | 0x011 => some (.shr f)
  | 0x012 => some (.rot f)
  | 0x013 => some (.popc f)
  | 0x014 => some (.clz f)
  | 0x015 => some (.ctz f)
  | 0x016 => some (.brev f)
  | 0x017 => some (.bfx f)
  | 0x018 => some (.bfi f)
  | 0x019 => some (.cmp f)
  | 0x01A => some (.sel f)
  | 0x01B => some (.ext f)
  | 0x01C => some (.aoff f)
  | 0x01D => some (.adiff f)
  | 0x01E => some (.vaddr f)
  | 0x01F => some (.dp4 f)
  | 0x020 => some (.const f)
  | 0x021 => some (.constw f)
  | 0x022 => some (.param f)
  | 0x023 => some (.id f)
  | 0x040 => some (.fadd f)
  | 0x041 => some (.fsub f)
  | 0x042 => some (.fmul f)
  | 0x043 => some (.fma f)
  | 0x044 => some (.fdiv f)
  | 0x045 => some (.fsqrt f)
  | 0x046 => some (.frsq f)
  | 0x047 => some (.frcp f)
  | 0x048 => some (.fmin f)
  | 0x049 => some (.fmax f)
  | 0x04A => some (.fneg f)
  | 0x04B => some (.fabs f)
  | 0x04C => some (.fcmp f)
  | 0x04D => some (.fclass f)
  | 0x04E => some (.fexp2 f)
  | 0x04F => some (.flog2 f)
  | 0x050 => some (.fexp f)
  | 0x051 => some (.flog f)
  | 0x052 => some (.fsin f)
  | 0x053 => some (.fcos f)
  | 0x054 => some (.ftanh f)
  | 0x055 => some (.fsigm f)
  | 0x056 => some (.fgelu f)
  | 0x057 => some (.fsilu f)
  | 0x058 => some (.ffloor f)
  | 0x059 => some (.fceil f)
  | 0x05A => some (.fround f)
  | 0x05B => some (.ftrunc f)
  | 0x05C => some (.fcopys f)
  | 0x05D => some (.fscale f)
  | 0x05E => some (.fdot2 f)
  | 0x05F => some (.flerp f)
  | 0x060 => some (.fstat f)
  | 0x061 => some (.fclr f)
  | 0x080 => some (.sliAdd f)
  | 0x081 => some (.sliSub f)
  | 0x082 => some (.sliMul f)
  | 0x083 => some (.sliDiv f)
  | 0x084 => some (.sliNeg f)
  | 0x085 => some (.sliAbs f)
  | 0x086 => some (.sliRcp f)
  | 0x087 => some (.sliCmp f)
  | 0x088 => some (.sliMin f)
  | 0x089 => some (.sliMax f)
  | 0x08A => some (.sliStat f)
  | 0x08B => some (.sliClr f)
  | 0x08C => some (.sliLvl f)
  | 0x08D => some (.sliSq f)
  | 0x0A0 => some (.cvt f)
  | 0x0A1 => some (.bitc f)
  | 0x0A2 => some (.qz f)
  | 0x0A3 => some (.dq f)
  | 0x0A4 => some (.pkn f)
  | 0x0A5 => some (.upkn f)
  | 0x0A6 => some (.xscl f)
  | 0x0A7 => some (.hadm f)
  | 0x0B0 => some (.shfl f)
  | 0x0B1 => some (.vote f)
  | 0x0B2 => some (.scan f)
  | 0x0B3 => some (.red f)
  | 0x0B4 => some (.gtrans f)
  | 0x0B5 => some (.bcast f)
  | 0x0B6 => some (.lsel f)
  | 0x0C0 => some (.br f aw)
  | 0x0C1 => some (.brc f aw)
  | 0x0C2 => some (.call f aw)
  | 0x0C3 => some (.ret f)
  | 0x0C4 => some (.exit f)
  | 0x0C5 => some (.yield f)
  | 0x0C6 => some (.trap f)
  | 0x0C7 => some (.trapinfo f)
  | 0x0C8 => some (.tret f)
  | 0x0E0 => some (.ldG f)
  | 0x0E1 => some (.stG f)
  | 0x0E2 => some (.ldVa f)
  | 0x0E3 => some (.stVa f)
  | 0x0E4 => some (.ldFrag f)
  | 0x0E5 => some (.stTile f)
  | 0x0E6 => some (.pfG f)
  | 0x0E8 => some (.atomAdd f)
  | 0x0E9 => some (.atomMin f)
  | 0x0EA => some (.atomMax f)
  | 0x0EB => some (.atomAnd f)
  | 0x0EC => some (.atomOr f)
  | 0x0ED => some (.atomXor f)
  | 0x0EE => some (.atomXchg f)
  | 0x0EF => some (.atomCas f)
  | 0x0F0 => some (.atomFadd f)
  | 0x100 => some (.barB f)
  | 0x101 => some (.barG f)
  | 0x102 => some (.barGLv f)
  | 0x103 => some (.wait f)
  | 0x104 => some (.xfence f)
  | 0x105 => some (.cdrain f)
  | 0x106 => some (.gred f)
  | 0x110 => some (.cpyBlk f)
  | 0x111 => some (.cpyGrp f)
  | 0x112 => some (.cpyW f)
  | 0x113 => some (.kvcommit f)
  | 0x114 => some (.cpyFill f)
  | 0x118 => some (.mma f)
  | 0x119 => some (.mmaL2 f)
  | 0x11A => some (.tzero f)
  | 0x11B => some (.textr f)
  | 0x11C => some (.tins f)
  | 0x11D => some (.fmtld f)
  | 0x11E => some (.tcvt f)
  | 0x128 => some (.rowTop f)
  | 0x129 => some (.rowHeart f)
  | 0x12A => some (.rowBase f)
  | 0x12B => some (.rowPace f)
  | 0x12C => some (.rowSync f)
  | 0x12D => some (.rowCfg f)
  | 0x130 => some (.tanc f)
  | 0x131 => some (.tmask f)
  | 0x132 => some (.tsel f)
  | 0x134 => some (.gear f)
  | 0x135 => some (.gearRd f)
  | 0x136 => some (.clk f)
  | 0x137 => some (.pace f)
  | 0x138 => some (if f.md == 1 then .boostRel f else .boostReq f)
  | 0x13C => some (.launch f)
  | 0x13D => some (.trig f)
  | 0x13E => some (.lwait f)
  | 0x13F => some (.ctxid f)
  | 0x140 => some (.prio f)
  | 0x144 => some (.fabLd f)
  | 0x145 => some (.fabSt f)
  | 0x146 => some (.fabAtom f)
  | 0x147 => some (.lkPark f)
  | 0x148 => some (.lkWake f)
  | 0x149 => some (.lkHeat f)
  | 0x14A => some (if f.md == 1 then .lkStatPd f else .lkStatSt f)
  | 0x14B => some (.lkThr f)
  | 0x14C => some (.trcMark f)
  | 0x14D => some (.trcOn f)
  | 0x14E => some (.trcOff f)
  | 0x14F => some (.dbgBrk f)
  | 0x150 => some (.dbgStop f)
  | 0x151 => some (.cntRd f)
  | 0x152 => some (.dbgUndo f)
  | 0x154 => some (.sysCap f)
  | 0x155 => some (.sysFloor f)
  | 0x156 => some (.sysRetire f)
  | 0x157 => some (.sysCkpt f)
  | 0x158 => some (.sysRsync f)
  | 0x159 => some (.sysMigr f)
  | 0x15A => some (.sysL3cls f)
  | 0x15B => some (.sysWdog f)
  | 0x15C =>
    some (if f.md == 1 then .sysCtxRet f else if f.md == 2 then .sysCtxTile f
      else if f.md == 3 then .sysCtxDbg f else .sysCtxMk f)
  | 0x15D => some (.sysQ f)
  | _ => none

/-- Does the opcode take argument words (04 R67)? -/
def takesArgs (opc : Nat) : Bool := 0x0C0 ≤ opc && opc ≤ 0x0C2

/-- The instruction of a portable word with its argument words. -/
def decodeWord (w : BitVec 64) (aw : List ArgWord) : Except DecodeError Instr :=
  if w.getLsbD 63 then .error .marker
  else if (opcOf w).toNat == 0x0CF then .error .blockHeader
  else if 0x1C0 ≤ (opcOf w).toNat then .error (.nativeOnly (opcOf w).toNat)
  else if takesArgs (opcOf w).toNat && !(aw.length == (fieldsOf w).md.toNat && aw.all ArgWord.wf) then .error .argWords
  else
    match decodeOp (opcOf w).toNat (fieldsOf w) aw with
    | some i => .ok i
    | none => .error (.reservedOpcode (opcOf w).toNat)

/-! ## Native slots and bundles -/

/-- The fields of a 56-bit op slot beside its opcode (05 R92). -/
def slotOf (w : BitVec 56) (ext : Option SlotExt) : Slot :=
  { typ := w.extractLsb' 43 4, dst := w.extractLsb' 31 12, sa := w.extractLsb' 19 12, sb := w.extractLsb' 7 12,
    stg := w.extractLsb' 4 3, mods := w.extractLsb' 0 4, ext := ext }

/-- The fields of slot B as an extension (05 R93). -/
def slotExtOf (w : BitVec 56) : SlotExt :=
  { sc := w.extractLsb' 44 12, modx := w.extractLsb' 38 6, imm := w.extractLsb' 0 38 }

/-- The native-only operation of an opcode (05 R99). -/
def decodeNative (opc : Nat) (s : Slot) : Option Instr :=
  match opc with
  | 0x1C0 => some (.nop s)
  | 0x1C1 => some (.mov s)
  | 0x1C2 => some (.bcs s)
  | 0x1C3 => some (.spst s)
  | 0x1C4 => some (.spld s)
  | 0x1C5 => some (.jmp s)
  | 0x1C6 => some (.jc s)
  | 0x1C7 => some (.jal s)
  | 0x1C8 => some (.jr s)
  | 0x1C9 => some (.lcfg s)
  | _ => none

/-- The header and slots of a bundle (05 R91): each slot with its opcode; one slot in the pair form. -/
def bundleOf (w : BitVec 128) : Bundle :=
  let a : BitVec 56 := w.extractLsb' 56 56
  let b : BitVec 56 := w.extractLsb' 0 56
  let pair := w.getLsbD 115
  { sp := w.getLsbD 127, stop := w.getLsbD 126, push := w.extractLsb' 123 3, pop := w.extractLsb' 120 3,
    lec := w.extractLsb' 116 4, half := w.getLsbD 114, rsv := w.extractLsb' 112 2,
    slots :=
      if pair then [(a.extractLsb' 47 9, slotOf a (some (slotExtOf b)))]
      else [(a.extractLsb' 47 9, slotOf a none), (b.extractLsb' 47 9, slotOf b none)] }

/-- A native-only operation that stands alone in a bundle's slot A: in the pair form, or beside a `nop` whose other
fields are 0. -/
def decodeBundleOp (w : BitVec 128) : Except DecodeError Instr :=
  let bd := bundleOf w
  match bd.slots with
  | [(opc, s)] =>
    match decodeNative opc.toNat s with
    | some i => if i.slotWf then .ok i else .error .nativeIllegal
    | none => .error .nativeIllegal
  | [(opc, s), (opb, sb)] =>
    match decodeNative opc.toNat s with
    | some i =>
      if i.slotWf && opb.toNat == 0x1C0 && (Instr.nop sb).slotWf then .ok i else .error .nativeIllegal
    | none => .error .nativeIllegal
  | _ => .error .nativeIllegal

/-! ## Bytes -/

/-- The 16-bit parcels of a byte stream, each little-endian (04 R64). -/
def parcelsOf : List Byte → List (BitVec 16)
  | lo :: hi :: r => (hi ++ lo) :: parcelsOf r
  | _ => []

/-- A word of four parcels, the first in its high bits (04 R64). -/
def wordOfParcels (p q r t : BitVec 16) : BitVec 64 := p ++ q ++ r ++ t

/-- Read argument words from the front of a list of words. -/
def takeArgWords : Nat → List (BitVec 64) → Option (List ArgWord × List (BitVec 64))
  | 0, ws => some ([], ws)
  | n + 1, w :: ws =>
    match argWord? w with
    | none => none
    | some a =>
      match takeArgWords n ws with
      | none => none
      | some (as, r) => some (a :: as, r)
  | _ + 1, [] => none

/-- The 64-bit words of a byte stream that holds no dictionary reference. -/
def wordsOf : List (BitVec 16) → List (BitVec 64)
  | p :: q :: r :: t :: rest => wordOfParcels p q r t :: wordsOf rest
  | _ => []

/-- Decode one portable instruction from the front of a byte stream: its word, and the argument words that follow it.
Total on any bytes. -/
def decodeBytes (bs : List Byte) : Except DecodeError Instr :=
  match wordsOf (parcelsOf bs) with
  | [] => .error .short
  | w :: ws =>
    if takesArgs (opcOf w).toNat then
      match takeArgWords (fieldsOf w).md.toNat ws with
      | none => .error .argWords
      | some (as, _) => decodeWord w as
    else decodeWord w []

/-! ## The structure of a function -/

/-- A word of a function's expanded stream, with the OVR that made its predicate field (04 R65). -/
structure StreamWord where
  word : BitVec 64
  ovr : Bool
deriving DecidableEq, Repr

/-- Expand a parcel stream through the dictionary (04 R64, R65): none when it ends inside a word or a reference breaks
R65. The fuel is the number of parcels. -/
def expandParcels (dict : List (BitVec 64)) : Nat → List (BitVec 16) → Option (List StreamWord)
  | _, [] => some []
  | 0, _ :: _ => none
  | n + 1, p :: rest =>
    if p.getLsbD 15 then
      match dict[(p.extractLsb' 0 10).toNat]? with
      | none => none
      | some w =>
        if w.getLsbD 63 then none
        else
          let ovr : BitVec 5 := p.extractLsb' 10 5
          let w' : BitVec 64 :=
            if ovr == 0 then w else (w.extractLsb' 11 53 : BitVec 53) ++ (0#6 : BitVec 6) ++ ovr
          match expandParcels dict n rest with
          | none => none
          | some ws => some ({ word := w', ovr := ovr != 0 } :: ws)
    else
      match rest with
      | q :: r :: t :: rest' =>
        match expandParcels dict n rest' with
        | none => none
        | some ws => some ({ word := wordOfParcels p q r t, ovr := false } :: ws)
      | _ => none

/-- NPARAM of a block header word (04 R68); none when the word is no well-formed header. -/
def headerParams? (w : StreamWord) : Option Nat :=
  if !w.ovr && w.word.getLsbD 63 == false && (opcOf w.word).toNat == 0x0CF && (fieldsOf w.word).typ == 0
      && (fieldsOf w.word).md == 0 && w.word.extractLsb' 0 33 == 0 && (fieldsOf w.word).a.toNat ≤ 150 then
    some (fieldsOf w.word).a.toNat
  else none

/-- The type codes of `n` parameters from type words (04 R68), fifteen to a word. -/
def paramTypes (n : Nat) (ws : List StreamWord) : Option (List (BitVec 4)) :=
  if ws.length == ceilDiv n 15
      && (List.range (15 * ws.length)).all (fun j =>
        let t := (((ws[j / 15]?).map StreamWord.word).getD 0#64).extractLsb' (4 * (j % 15)) 4
        if j < n then t != 0 && t != 15 else t == 0)
      && ws.all (fun w => !w.ovr && w.word.extractLsb' 60 4 == 0) then
    some ((List.range n).map fun j =>
      (((ws[j / 15]?).map StreamWord.word).getD 0#64).extractLsb' (4 * (j % 15)) 4)
  else none

/-- Is this a terminator (04 R67)? -/
def isTerminator (opc : Nat) : Bool := opc == 0x0C0 || opc == 0x0C1 || opc == 0x0C3 || opc == 0x0C4 || opc == 0x0C8

/-- Read the instruction words of one block, up to and with its terminator and its argument words. -/
def takeBlock : Nat → List StreamWord → Option (List PlaceCode × List StreamWord)
  | 0, _ => none
  | _ + 1, [] => none
  | n + 1, w :: ws =>
    let opc := (opcOf w.word).toNat
    let k := if takesArgs opc then (fieldsOf w.word).md.toNat else 0
    if (ws.take k).any StreamWord.ovr then none
    else
      match takeArgWords k ((ws.take k).map StreamWord.word) with
      | none => none
      | some (as, _) =>
        let p : PlaceCode := { word := w.word, ovr := w.ovr, args := as }
        if isTerminator opc then some ([p], ws.drop k)
        else
          match takeBlock n (ws.drop k) with
          | none => none
          | some (ps, r) => some (p :: ps, r)

/-- Read a function's blocks: parameter types and placed words (04 R67, R68). -/
def takeBlocks : Nat → List StreamWord → Option (List (List (BitVec 4) × List PlaceCode))
  | _, [] => some []
  | 0, _ :: _ => none
  | n + 1, w :: ws =>
    match headerParams? w with
    | none => none
    | some np =>
      let k := ceilDiv np 15
      match paramTypes np (ws.take k) with
      | none => none
      | some tys =>
        match takeBlock (ws.length + 1) (ws.drop k) with
        | none => none
        | some (ps, rest) =>
          if tys.length + ps.length ≤ 2047 then
            match takeBlocks n rest with
            | none => none
            | some bs => some ((tys, ps) :: bs)
          else none

/-- The references of argument words in order. -/
def argRefs (ws : List ArgWord) : List Ref :=
  ws.flatMap fun w => [w.a1, w.a2, w.a3, w.a4, w.a5].take w.n.toNat

/-- Do these argument words carry exactly `n` references, every word but the last full (04 R69)? -/
def argsFit (n : Nat) (ws : List ArgWord) : Bool :=
  ws.length == ceilDiv n 5 && (argRefs ws).length == n && (ws.dropLast.all fun w => w.n == 5)

/-- The branch rules of 04 R71 for one placed word: its targets exist and its arguments are as many as they take.
`np b` is NPARAM of block b, when it exists; `callee g` is none when g is not below NFUNC, and otherwise NPARAM of
its block 0 when that is well formed. A dictionary override overwrites bits of a `brc`'s second target, and 06 R133 gives such a word
trap(RESERVED) at its place whatever they are: its second target is not judged. -/
def branchOk (np : Nat → Option Nat) (callee : Nat → Option (Option Nat)) (p : PlaceCode) : Bool :=
  let f := fieldsOf p.word
  match (opcOf p.word).toNat with
  | 0x0C0 =>
    match np f.target1.toNat with
    | some n => argsFit n p.args
    | none => false
  | 0x0C1 =>
    match np f.target1.toNat, np f.target0.toNat with
    | some n1, some n0 =>
      argsFit n1 (p.args.take (ceilDiv n1 5)) && (p.ovr || argsFit n0 (p.args.drop (ceilDiv n1 5)))
    | some n1, none => p.ovr && argsFit n1 (p.args.take (ceilDiv n1 5))
    | none, _ => false
  | 0x0C2 =>
    match callee f.target1.toNat with
    | some (some n) => argsFit n p.args
    | some none => true
    | none => false
  | _ => true

/-- A function's blocks from its parcels, by every rule of 04 R71 that concerns the stream itself; none: malformed. -/
def parseFunction (dict : List (BitVec 64)) (parcels : List (BitVec 16)) (nblk : Nat)
    (callee : Nat → Option (Option Nat)) : Option (List (List (BitVec 4) × List PlaceCode)) :=
  match expandParcels dict parcels.length parcels with
  | none => none
  | some ws =>
    match takeBlocks (ws.length + 1) ws with
    | none => none
    | some bs =>
      let np : Nat → Option Nat := fun b => (bs[b]?).map fun e => e.1.length
      if bs.length == nblk && bs.all (fun e => e.2.all (branchOk np callee)) then some bs else none

/-- The code object header (04 R61): (IDENT, NFUNC, FTOFF, DICTOFF, DICTN), or none when malformed. -/
def mpfHeader? (bs : List Byte) : Option (Nat × Nat × Nat × Nat × Nat) :=
  let x := ofLe bs
  let nf := bitsOf x 447 416
  let ft := bitsOf x 415 384
  let d := bitsOf x 383 352
  let dn := bitsOf x 351 341
  if bs.length == 64 && bitsOf x 340 32 == 0 && bitsOf x 31 16 == 0x4D50 && bitsOf x 15 8 == 0 && bitsOf x 7 0 == 1
      && 1 ≤ nf && nf ≤ 65536 && dn ≤ 1024 && ft % 16 == 0 && d % 8 == 0 then
    some (bitsOf x 511 448, nf, ft, d, dn)
  else none

/-- A legal budget field (04 R62). -/
def budgetOk (b : Nat) : Bool := b == 0 || (b % 16 == 0 && 16 ≤ b && b ≤ 2048)

/-- A function table entry (04 R62): (POFF, PLEN, NBLK, BUDW, BUDN), or none when malformed. -/
def ftEntry? (bs : List Byte) : Option (Nat × Nat × Nat × Nat × Nat) :=
  let x := ofLe bs
  let poff := bitsOf x 127 96
  let plen := bitsOf x 95 64
  let nblk := bitsOf x 63 48
  if bs.length == 16 && poff % 2 == 0 && 4 ≤ plen && 1 ≤ nblk && budgetOk (bitsOf x 47 36) && budgetOk (bitsOf x 35 24)
      && bitsOf x 23 0 == 0 then
    some (poff, plen, nblk, bitsOf x 47 36, bitsOf x 35 24)
  else none

/-! ## Encoding -/

/-- A portable word (04 R66). -/
def wordOf (opc : BitVec 9) (f : Fields) : BitVec 64 :=
  0#1 ++ opc ++ f.typ ++ f.md ++ f.a ++ f.b ++ f.c ++ f.p

/-- An argument word (04 R69). -/
def encodeArg (w : ArgWord) : BitVec 64 := 0#1 ++ w.n ++ 0#5 ++ w.a1 ++ w.a2 ++ w.a3 ++ w.a4 ++ w.a5

/-- The opcode of a portable instruction (04 R89). -/
def Instr.opcode? (i : Instr) : Option Nat :=
  match i with
  | .add _ => some 0x000
  | .sub _ => some 0x001
  | .mul _ => some 0x002
  | .mulhi _ => some 0x003
  | .mulw _ => some 0x004
  | .mad _ => some 0x005
  | .div _ => some 0x006
  | .rem _ => some 0x007
  | .neg _ => some 0x008
  | .abs _ => some 0x009
  | .min _ => some 0x00A
  | .max _ => some 0x00B
  | .and _ => some 0x00C
  | .or _ => some 0x00D
  | .xor _ => some 0x00E
  | .not _ => some 0x00F
  | .shl _ => some 0x010
  | .shr _ => some 0x011
  | .rot _ => some 0x012
  | .popc _ => some 0x013
  | .clz _ => some 0x014
  | .ctz _ => some 0x015
  | .brev _ => some 0x016
  | .bfx _ => some 0x017
  | .bfi _ => some 0x018
  | .cmp _ => some 0x019
  | .sel _ => some 0x01A
  | .ext _ => some 0x01B
  | .aoff _ => some 0x01C
  | .adiff _ => some 0x01D
  | .vaddr _ => some 0x01E
  | .dp4 _ => some 0x01F
  | .const _ => some 0x020
  | .constw _ => some 0x021
  | .param _ => some 0x022
  | .id _ => some 0x023
  | .fadd _ => some 0x040
  | .fsub _ => some 0x041
  | .fmul _ => some 0x042
  | .fma _ => some 0x043
  | .fdiv _ => some 0x044
  | .fsqrt _ => some 0x045
  | .frsq _ => some 0x046
  | .frcp _ => some 0x047
  | .fmin _ => some 0x048
  | .fmax _ => some 0x049
  | .fneg _ => some 0x04A
  | .fabs _ => some 0x04B
  | .fcmp _ => some 0x04C
  | .fclass _ => some 0x04D
  | .fexp2 _ => some 0x04E
  | .flog2 _ => some 0x04F
  | .fexp _ => some 0x050
  | .flog _ => some 0x051
  | .fsin _ => some 0x052
  | .fcos _ => some 0x053
  | .ftanh _ => some 0x054
  | .fsigm _ => some 0x055
  | .fgelu _ => some 0x056
  | .fsilu _ => some 0x057
  | .ffloor _ => some 0x058
  | .fceil _ => some 0x059
  | .fround _ => some 0x05A
  | .ftrunc _ => some 0x05B
  | .fcopys _ => some 0x05C
  | .fscale _ => some 0x05D
  | .fdot2 _ => some 0x05E
  | .flerp _ => some 0x05F
  | .fstat _ => some 0x060
  | .fclr _ => some 0x061
  | .sliAdd _ => some 0x080
  | .sliSub _ => some 0x081
  | .sliMul _ => some 0x082
  | .sliDiv _ => some 0x083
  | .sliNeg _ => some 0x084
  | .sliAbs _ => some 0x085
  | .sliRcp _ => some 0x086
  | .sliCmp _ => some 0x087
  | .sliMin _ => some 0x088
  | .sliMax _ => some 0x089
  | .sliStat _ => some 0x08A
  | .sliClr _ => some 0x08B
  | .sliLvl _ => some 0x08C
  | .sliSq _ => some 0x08D
  | .cvt _ => some 0x0A0
  | .bitc _ => some 0x0A1
  | .qz _ => some 0x0A2
  | .dq _ => some 0x0A3
  | .pkn _ => some 0x0A4
  | .upkn _ => some 0x0A5
  | .xscl _ => some 0x0A6
  | .hadm _ => some 0x0A7
  | .shfl _ => some 0x0B0
  | .vote _ => some 0x0B1
  | .scan _ => some 0x0B2
  | .red _ => some 0x0B3
  | .gtrans _ => some 0x0B4
  | .bcast _ => some 0x0B5
  | .lsel _ => some 0x0B6
  | .br _ _ => some 0x0C0
  | .brc _ _ => some 0x0C1
  | .call _ _ => some 0x0C2
  | .ret _ => some 0x0C3
  | .exit _ => some 0x0C4
  | .yield _ => some 0x0C5
  | .trap _ => some 0x0C6
  | .trapinfo _ => some 0x0C7
  | .tret _ => some 0x0C8
  | .ldG _ => some 0x0E0
  | .stG _ => some 0x0E1
  | .ldVa _ => some 0x0E2
  | .stVa _ => some 0x0E3
  | .ldFrag _ => some 0x0E4
  | .stTile _ => some 0x0E5
  | .pfG _ => some 0x0E6
  | .atomAdd _ => some 0x0E8
  | .atomMin _ => some 0x0E9
  | .atomMax _ => some 0x0EA
  | .atomAnd _ => some 0x0EB
  | .atomOr _ => some 0x0EC
  | .atomXor _ => some 0x0ED
  | .atomXchg _ => some 0x0EE
  | .atomCas _ => some 0x0EF
  | .atomFadd _ => some 0x0F0
  | .barB _ => some 0x100
  | .barG _ => some 0x101
  | .barGLv _ => some 0x102
  | .wait _ => some 0x103
  | .xfence _ => some 0x104
  | .cdrain _ => some 0x105
  | .gred _ => some 0x106
  | .cpyBlk _ => some 0x110
  | .cpyGrp _ => some 0x111
  | .cpyW _ => some 0x112
  | .kvcommit _ => some 0x113
  | .cpyFill _ => some 0x114
  | .mma _ => some 0x118
  | .mmaL2 _ => some 0x119
  | .tzero _ => some 0x11A
  | .textr _ => some 0x11B
  | .tins _ => some 0x11C
  | .fmtld _ => some 0x11D
  | .tcvt _ => some 0x11E
  | .rowTop _ => some 0x128
  | .rowHeart _ => some 0x129
  | .rowBase _ => some 0x12A
  | .rowPace _ => some 0x12B
  | .rowSync _ => some 0x12C
  | .rowCfg _ => some 0x12D
  | .tanc _ => some 0x130
  | .tmask _ => some 0x131
  | .tsel _ => some 0x132
  | .gear _ => some 0x134
  | .gearRd _ => some 0x135
  | .clk _ => some 0x136
  | .pace _ => some 0x137
  | .boostReq _ => some 0x138
  | .boostRel _ => some 0x138
  | .launch _ => some 0x13C
  | .trig _ => some 0x13D
  | .lwait _ => some 0x13E
  | .ctxid _ => some 0x13F
  | .prio _ => some 0x140
  | .fabLd _ => some 0x144
  | .fabSt _ => some 0x145
  | .fabAtom _ => some 0x146
  | .lkPark _ => some 0x147
  | .lkWake _ => some 0x148
  | .lkHeat _ => some 0x149
  | .lkStatSt _ => some 0x14A
  | .lkStatPd _ => some 0x14A
  | .lkThr _ => some 0x14B
  | .trcMark _ => some 0x14C
  | .trcOn _ => some 0x14D
  | .trcOff _ => some 0x14E
  | .dbgBrk _ => some 0x14F
  | .dbgStop _ => some 0x150
  | .cntRd _ => some 0x151
  | .dbgUndo _ => some 0x152
  | .sysCap _ => some 0x154
  | .sysFloor _ => some 0x155
  | .sysRetire _ => some 0x156
  | .sysCkpt _ => some 0x157
  | .sysRsync _ => some 0x158
  | .sysMigr _ => some 0x159
  | .sysL3cls _ => some 0x15A
  | .sysWdog _ => some 0x15B
  | .sysCtxMk _ => some 0x15C
  | .sysCtxRet _ => some 0x15C
  | .sysCtxTile _ => some 0x15C
  | .sysCtxDbg _ => some 0x15C
  | .sysQ _ => some 0x15D
  | _ => none

/-- The opcode of a native-only operation (05 R99). -/
def Instr.nativeOpcode? (i : Instr) : Option Nat :=
  match i with
  | .nop _ => some 0x1C0
  | .mov _ => some 0x1C1
  | .bcs _ => some 0x1C2
  | .spst _ => some 0x1C3
  | .spld _ => some 0x1C4
  | .jmp _ => some 0x1C5
  | .jc _ => some 0x1C6
  | .jal _ => some 0x1C7
  | .jr _ => some 0x1C8
  | .lcfg _ => some 0x1C9
  | _ => none

/-- A native op slot (05 R92). -/
def encodeSlot (opc : BitVec 9) (s : Slot) : BitVec 56 :=
  opc ++ s.typ ++ s.dst ++ s.sa ++ s.sb ++ s.stg ++ s.mods

/-- A slot's extension (05 R93). -/
def encodeExt (e : SlotExt) : BitVec 56 := e.sc ++ e.modx ++ e.imm

/-- The `nop` slot (05 R99). -/
def nopSlot : BitVec 56 := 0x1C0#9 ++ 0#47

/-- A bundle whose header fields are 0 but for PAIR, which holds one op (05 R91, R93). -/
def encodeBundleOp (opc : BitVec 9) (s : Slot) : BitVec 128 :=
  match s.ext with
  | some e => 0x0008#16 ++ encodeSlot opc s ++ encodeExt e
  | none => 0x0000#16 ++ encodeSlot opc s ++ nopSlot

/-- The encoding of an instruction: the 64-bit words of a portable one with its argument words, the 128-bit bundle of a
native-only one; an event has none. -/
inductive Encoded where
  | words (w : BitVec 64) (args : List (BitVec 64))
  | bundle (b : BitVec 128)
  | noWords
deriving DecidableEq, Repr

/-- The words of an instruction. -/
def encode (i : Instr) : Encoded :=
  match i.opcode?, i.fields? with
  | some opc, some f => .words (wordOf (BitVec.ofNat 9 opc) f) (i.argWords.map encodeArg)
  | _, _ =>
    match i.nativeOpcode?, i.slot? with
    | some opc, some s => .bundle (encodeBundleOp (BitVec.ofNat 9 opc) s)
    | _, _ => .noWords

/-- The instruction that encoded words stand for. -/
def decode (e : Encoded) : Except DecodeError Instr :=
  match e with
  | .words w args =>
    match takeArgWords args.length args with
    | none => .error .argWords
    | some (as, _) => decodeWord w as
  | .bundle b => decodeBundleOp b
  | .noWords => .error .short

/-- A word's bytes as they stand in memory: four parcels, each little-endian (04 R64). -/
def wordBytes (w : BitVec 64) : List Byte :=
  [w.extractLsb' 48 8, w.extractLsb' 56 8, w.extractLsb' 32 8, w.extractLsb' 40 8,
   w.extractLsb' 16 8, w.extractLsb' 24 8, w.extractLsb' 0 8, w.extractLsb' 8 8]

/-- The instruction that the decoder reads from table bits: up to 64 bits are a portable word [63:0], laid out as its
four parcels with argument words of zeros behind it; more are a native bundle [127:0]. -/
def decodeTableWord (nbits w : Nat) : Option Instr :=
  if nbits ≤ 64 then
    match decodeBytes (wordBytes (BitVec.ofNat 64 w) ++ List.replicate 104 0#8) with
    | .ok i => some i
    | .error _ => none
  else
    match decodeBundleOp (BitVec.ofNat 128 w) with
    | .ok i => some i
    | .error _ => none

end Sys2Proof
end

