-- ==== Sys2Proof/Machine/State.lean ====
section
/-!
DEFINITION. The state of the KX8 as plain data: the architected state of waves, blocks, launches, contexts and the
device (00 R5), the native state of a wave that runs translated code (05), the engines' queues, and the model's own
agenda, which says what happens next.
-/

namespace Sys2Proof.Machine

open Sys2Proof

/-! ## Values and control state of a wave -/

/-- The type codes 0-14 of the portable form (04 R73). -/
inductive Ty where
  | void | pred | i32 | n32 | i64 | n64 | f32 | f16 | bf16 | sli32 | sli16 | addr | frag | tile | fmt
deriving DecidableEq, Repr

/-- One lane of a value of any type. 1,600 bits hold the widest lane: a frag's 192 bytes in [1535:0] and its FBA in
[1599:1536] (08 R175; 14 R319 dumps the same 200 bytes). Narrower types use the low bits and leave the rest 0. -/
abbrev LaneBits := BitVec 1600

/-- The value of a place: its type and its bits in every lane (04 R70, R73, R77). -/
structure Value where
  ty : Ty
  x : Lanes LaneBits
deriving DecidableEq, Repr

/-- A portable point: function, block, value index (01 R10). -/
structure Point where
  func : Nat
  block : Nat
  vidx : Nat
deriving DecidableEq, Repr

/-- A pending path: its target block, its lanes, and the block's parameters (06 R129). -/
structure Path where
  block : Nat
  mask : LaneMask
  params : List Value
deriving DecidableEq, Repr

/-- An executing or suspended path (06 R129): where it stands, and the value list of its block so far, the latest
place first. -/
structure Cur where
  block : Nat
  mask : LaneMask
  vidx : Nat
  vals : List Value
deriving DecidableEq, Repr

/-- The three kinds of frame (06 R134). -/
inductive FrameKind where
  | base | call | handler
deriving DecidableEq, Repr

/-- What `trapinfo` reads of the trap that opened a handler frame (06 R142). -/
structure TrapInfo where
  kind : Nat
  opc : BitVec 9
  f : Fields
  word : BitVec 64
  opA : Lanes Word64
  opB : Lanes Word64
  opC : Lanes Word64
  pmask : LaneMask
  point : Point
deriving DecidableEq, Repr

/-- One frame of a wave's control state (06 R129). `retMask`, `ret` and `retTy` are the frame's return mask, return
values and their type; `trap` is the trap of a handler frame; `kept` is the storage of a debug-form frame: the last
value of each (block, place) (14 R314); `tid` names the translation whose code the frame runs. -/
structure Frame where
  kind : FrameKind
  func : Nat
  tid : Nat
  pending : List Path
  cur : Option Cur
  retMask : LaneMask
  ret : Lanes LaneBits
  retTy : Ty
  trap : Option TrapInfo
  kept : List (Nat × Nat × Value)
deriving DecidableEq, Repr

/-- The kinds of undo-log entry with what UNDO restores (14 R315-R317). -/
inductive UndoKind where
  /-- STEP: the place's old value, when it was written before, and the memory records (lane, size code, VA, old bytes). -/
  | step (old : Option Value) (mem : List (Nat × Nat × Word64 × List Byte))
  /-- CTL: the top frame's pending paths and current path before the event, its stored places, and the parameters that
  the event overwrote, as they were. -/
  | ctl (pending : List Path) (cur : Option Cur) (kept : List (Nat × Nat × Value)) (olds : List Value)
  /-- HZN: stepping back never passes it. -/
  | hzn
deriving DecidableEq, Repr

/-- An undo-log entry (14 R315). -/
structure UndoEntry where
  kind : UndoKind
  ty : Nat
  point : Point
  mask : LaneMask
  seq : Nat
  len : Nat
deriving DecidableEq, Repr

/-! ## Native state of a wave (05) -/

/-- The loop engine's state of a wave (05 R105) and its recorded iteration starts (05 R106). -/
structure Loop where
  lc : Word
  ec : BitVec 3
  sb : BitVec 7
  rrb : BitVec 8
  wb : BitVec 11
  wsz : BitVec 9
  pm : BitVec 4
  dr : Bool
  sm : Bool
  cf : Bool
  /-- (RRB, LC) of the last seven iteration starts, the latest first. -/
  starts : List (BitVec 8 × Word)
  /-- Which streams have issued OPEN, BACK or CLOSE and wait for the step. -/
  opened : BitVec 4
  backed : BitVec 4
  closed : BitVec 4
  /-- The loop top of each stream. -/
  tops : List Nat
  /-- The wave halted at the loop top after a drain (05 R106). -/
  halted : Bool
deriving DecidableEq, Repr

/-- One sequencer stream of a native wave (05 R101-R107). -/
structure Seq where
  pc : Nat
  stopped : Bool
  /-- SP bundles issued since entry: the number of the cut last passed (05 R107). -/
  cuts : Nat
  /-- The number of the next bundle, and how many bundles without SP have issued since the last with SP (01 R15). -/
  bun : Nat
  noSp : Nat
  /-- The PUSH bits of issued bundles whose pushes have not yet taken effect, with the bundles' numbers, oldest first (05
  R103). -/
  pushes : List (Nat × BitVec 3)
  /-- The control cycle from which this stream's next POP has waited, when it waits (09 R209). -/
  popWait : Option Nat
deriving DecidableEq, Repr

/-- What an op that has issued defines, and where (05 R92, R95, R98): its stream, whether it stands in slot B, whether it
acts on lanes 16-31 of an N die, its bundle's address, number, SP bit and pops, and the cuts that its stream had passed before
it; its stage predicate, its destination field, its type, and its lanes. `names` are the v registers that its destination
names, as the rotation stood at its issue (05 R105); `opc` is its opcode. -/
structure NDest where
  stream : Nat
  slotB : Bool
  half : Bool
  addr : Nat
  bun : Nat
  sp : Bool
  cuts : Nat
  pop : BitVec 3
  stg : Nat
  opc : Nat
  dst : BitVec 12
  names : List Nat
  ty : Ty
  mask : LaneMask
deriving DecidableEq, Repr

/-! ## Faults, waits and stops -/

/-- A fault record to be written (14 R311): the header fields, and the n32 of each lane. -/
structure FaultRec where
  blockId : Nat
  lseq : Nat
  wave : Nat
  die : Nat
  tile : Nat
  point : Point
  mask : LaneMask
  va : Nat
  kind : Nat
  trapk : Nat
  cls : Nat
  swap : Bool
  wr : Bool
  peer : Nat
  fsts : Nat
  eng : Bool
  lanes : Lanes Word
deriving DecidableEq, Repr

/-- What a wave that has not yet completed its place is waiting for. -/
inductive WaveMode where
  /-- The wave may issue. -/
  | run
  /-- `bar.b` (13 R278). -/
  | barB
  /-- `bar.g` or `bar.g.lv` of group g; the generation that its block's arrival joined, once the block has arrived
  (13 R279). -/
  | barG (g : Nat) (lv : Bool) (gen : Option Nat)
  /-- `wait`: the address, the compared value, the condition, the width in bytes and signedness, the timeout, and the
  control edge of issue (13 R280). -/
  | wait (va : Word64) (v : Word64) (cc : Nat) (ty : Ty) (timeout : Nat) (start : Nat)
  /-- `lwait`: the status word, .end or .trig, the timeout, the control edge of issue (16 R336). -/
  | lwait (va : Word64) (fin : Bool) (timeout : Nat) (start : Nat)
  /-- `cdrain` of a channel: the commands it covers (13 R283). -/
  | cdrain (ch : Nat) (upTo : Nat)
  /-- `row.sync` (08 R194). -/
  | rowSync
  /-- `xfence` with its masks; it covers the tile's commands issued before `upTo` (13 R282). -/
  | xfence (x y : BitVec 8) (upTo : Nat)
  /-- A matrix product has issued; its operands wait for MMA_COMPLETE (08 R184). -/
  | mma
  /-- `gear.w` waits for the change edge (10 R225). -/
  | gear
  /-- `launch` waits for the front-end's turn; the number of its queue entry (16 R334). -/
  | launch (req : Nat)
  /-- `fab.ld` or `fab.atom` waits for its responses: its number, the lanes outstanding and the value so far (18 R383). -/
  | fab (id : Nat) (left : LaneMask) (ty : Ty) (acc : Lanes LaneBits)
  /-- A translation is awaited at a `call` or handler entry (14 R303). -/
  | translate
  /-- The wave has ended; its slot is held until its vault counter is zero (06 R136). -/
  | ended
  /-- The slot has been released (06 R136). -/
  | released
deriving DecidableEq, Repr

/-- What a system instruction that has begun waits for (22 R431-R434): the swap-out of a unit's blocks; a context's
quiescence; a migration's context, die, list, release list and page count with the next launch identity when it began
(16 R347), or its result; a checkpoint's target, length, peers and the peers' base; the
number of a flacon's messages to peers, the tick of its snapshot, and whether one of them has failed. -/
inductive SysReq where
  | retire (unit : Nat)
  | ctxRet (ctx : Nat)
  | migr (ctx die list rel npg before : Nat)
  | migrated (n : Nat)
  | ckpt (tgt tlen pmask ptgt : Nat)
  | flacon (id tick : Nat) (bad : Bool)
deriving DecidableEq, Repr

/-- How far a stop request of a wave has come (05 R108). -/
inductive StopState where
  | none | requested | landed
deriving DecidableEq, Repr

/-- A matrix product between its issue and its completion (08 R181, R184): the operands, the format block read at
issue, and the 16-byte chunks that the tile fetch unit has read so far. -/
structure Staged where
  id : Nat
  l2 : Bool
  md : BitVec 6
  mask : LaneMask
  a : Value
  b : Value
  c : Value
  fmt : BitVec 512
  fetched : List (Nat × List Byte)
deriving DecidableEq, Repr

/-- An op that has issued and waits beside another of its wave (05 R102). -/
structure NWait where
  mode : WaveMode
  dest : NDest
  staged : Option Staged
deriving DecidableEq, Repr

/-- An op whose reads have not all returned: its destination, and the reads of global memory and of vaults left. -/
structure NOut where
  dest : NDest
  left : Nat
  vleft : Nat
deriving DecidableEq, Repr

/-- The first bundle (HALF = 0) of an op with effects on an N die: its operands in lanes 0-15, kept until the second bundle runs the
op for all lanes (05 R114; 12 R253). `mate`: the number of the second bundle, once it has issued. -/
structure HalfOp where
  dest : NDest
  a : Value
  b : Value
  c : Value
  mate : Option Nat
deriving DecidableEq, Repr

/-- The native state of a wave (05 R94-R109). Registers that the tables do not list hold 0. `v` names a 32-lane
register of 32-bit lanes. -/
structure Native where
  budget : Nat
  v : Tab (Lanes Word)
  s : Tab Word64
  k : Tab LaneMask
  /-- The eight bypass latches. -/
  latch : Tab (Lanes LaneBits)
  /-- The twelve token queues; queue 3f + j is from stream f to its peer j. -/
  tok : Tab Nat
  seqs : List Seq
  loop : Loop
  /-- The op in execution, or the one that the wave's mode waits for. -/
  cur : Option NDest
  /-- The other ops that have issued and wait, the oldest first (05 R102). -/
  waits : List NWait
  /-- Reads whose data has not returned, the oldest first (05 R102, R103). -/
  outs : List NOut
  /-- By row half (0 for lanes 0-15, and for all lanes of a W die; 1 for lanes 16-31): the tile that the last matrix op of the
  compute stream writes, and its value once written (05 R104). -/
  drain : Tab (Nat × Option Value)
  /-- Row halves of products on an N die that are computed and wait for the other half, the oldest first (08 R184). -/
  rows : List (NDest × Value)
  /-- Ops with effects of which an N die has met the first bundle (12 R253), the oldest first. -/
  halves : List HalfOp
  /-- Registers and latches whose value a vault read gives, by number, while the vault completion counter is above zero (13 R270). -/
  vregs : List Nat
  /-- A fault or trap of an op in a loop with more than one iteration in flight, held until the older ones drain: the
  number of iteration starts since that of the faulting iteration (05 R109). -/
  held : Option Nat
  /-- A fault or trap at a bundle that is a safe point: its stream, its cut, and its address. The wave stops there (05
  R107-R109). -/
  leave : Option (Nat × Nat × Nat)
deriving DecidableEq, Repr

/-- A wave (00 R5, 09 R200). -/
structure Wave where
  /-- The slot of its partition, while resident. -/
  slot : Nat
  /-- The frame stack, the top frame first (06 R129). -/
  frames : List Frame
  mode : WaveMode
  stop : StopState
  /-- A fault record that the wave owes (17 R350). -/
  owed : Option FaultRec
  ieee : BitVec 5
  sli : BitVec 5
  /-- Row configuration τ and ofs (08 R189). -/
  tau : Word
  ofs : Word
  /-- Vault completion counter (11 R238). -/
  vcnt : Nat
  /-- Outstanding reads of global memory, and outstanding accesses to vaults that do not stand above the tile's cluster, for
  the long-latency rule (09 R209). -/
  gcnt : Nat
  rcnt : Nat
  /-- Places, by frame depth, whose value comes from an outstanding read of global memory, the oldest read first (05 R102), and
  from vault reads that may still be outstanding (11 R238; 13 R270). -/
  guse : List (Nat × Nat)
  vuse : List (Nat × Nat)
  /-- Watchdog count and the limit it is compared with (09 R213). -/
  wdog : Nat
  wlim : Nat
  /-- Logical clock (11 R247). -/
  pts : Nat
  /-- Native state, when the wave runs translated code (05). -/
  native : Option Native
  /-- Undo log of a debug-form wave, the newest entry first, and its next entry number (14 R315). -/
  undo : List UndoEntry
  undoSeq : Nat
  staged : Option Staged
  /-- The 16-byte quarters of a format block that the instruction being issued has read so far (02 R41). -/
  quarters : List Nat
  /-- The same of the instruction in slot B of a native bundle. -/
  quartersB : List Nat
  /-- A matrix product of the wave has ended on a fault and will issue again (14 R306). -/
  replay : Bool
  /-- The function that the wave waited for is malformed: the instruction that needs it takes trap(MALFORM) (14 R302). -/
  verdict : Bool
  /-- How many `cpy.blk` the wave has issued (13 R289). -/
  cpyBlk : Nat
  /-- Portable instructions left of a debugger's step command (14 R320). -/
  stepLeft : Option Nat
  /-- The tick at which the command's last instruction ran, and the places that then had a write outstanding, by frame from the base
  (14 R318, R320). -/
  stepEnd : Option (Nat × List (Nat × Nat))
  /-- The system instruction that the wave has begun and that waits (22 R430-R434). -/
  sysReq : Option SysReq
deriving DecidableEq, Repr

/-! ## What engine commands carry (13) -/

/-- Who issued an engine command, and where (13 R292, 14 R311). -/
structure Issuer where
  wave : WaveRef
  point : Point
  mask : LaneMask
  cls : Nat
deriving DecidableEq, Repr

/-- A valid peer-table entry (18 R376). -/
structure Peer where
  links : Nat
  fid : Nat
  ctx : Nat
deriving DecidableEq, Repr

/-- A (source, destination, length) pair of a copy (13 R288, R289). A fill or `cpy.w` has no source and carries its
bytes. `toRead` and `toWrite` are the pieces (offset, length) not yet placed, `buf` the bytes read so far. -/
structure CopyPair where
  by_ : Issuer
  ch : Nat
  lane : Nat
  src : Option Word64
  dst : Word64
  len : Nat
  toRead : List (Nat × Nat)
  toWrite : List (Nat × Nat)
  buf : List (Nat × Byte)
  /-- The offsets of the bytes read from poisoned chunks (22 R427). -/
  bad : List (Nat × Nat)
  /-- The peer-table entry of a destination on a peer, as read at issue (18 R364). -/
  peer : Option Peer
deriving DecidableEq, Repr

/-! ## Blocks and launches -/

/-- A group slot of a block (17 R358): group, arrived in the open generation, generations completed; `passed` lists
the waves that have left the barrier of a completed generation while others, stopped there, have still to pass
(13 R279). -/
structure GroupSlot where
  g : Nat
  arrived : Bool
  gens : Nat
  passed : List Nat
deriving DecidableEq, Repr

/-- Where a started block is in its life (09 R202, 14 R309, R310). -/
inductive BlockPhase where
  | resident | parked | swapped | ended
deriving DecidableEq, Repr

/-- What becomes of a block whose waves are being stopped (14 R308). `byClass` is the fate of a page fault: park in
class 0 and 1, swap-out in class 2 and 3, by the class in effect when the first wave lands (16 R337). -/
inductive StopFate where
  | park | swapOut | byClass
deriving DecidableEq, Repr

/-- A block that has started (09 R200-R208). -/
structure Block where
  cls : Nat
  /-- The class under which its resources are held (16 R337), and the die of its sub-grid (16 R330). -/
  heldCls : Nat
  home : Nat
  phase : BlockPhase
  die : Nat
  tile : Nat
  waves : List Wave
  vbase : Nat
  spill : Nat
  budget : Nat
  fate : Option StopFate
  /-- Fault ring indexes of its unresolved records, those already resolved to resume, and whether one was resolved
  to kill (14 R312). -/
  unresolved : List Nat
  killed : Bool
  /-- The block waits for a translation and then resumes by itself (14 R303). -/
  awaitsCode : Bool
  /-- A swapped-out block that may be re-admitted (14 R310), and the dies on which it is pending, once they have been chosen (16
  R330). -/
  ready : Bool
  seats : List Nat
  slots : List GroupSlot
  triggered : Bool
  /-- REGFAULT has been raised for the hold of its swap-out (17 R358). -/
  swapRaised : Bool
  /-- The member of its group for which the distributor has it swapped out (09 R208). -/
  madeWay : Option Nat
  /-- First page and length of its swap image (17 R358). -/
  imgPage : Nat
  imgLen : Nat
  /-- Byte offset of the vault bytes in the image. -/
  imgVault : Nat
  /-- Fault-record order: when it re-entered the pending list. -/
  order : Nat
deriving DecidableEq, Repr

/-- A group-table entry as accepted (09 R203, R204): its kind and its members in ascending block index. -/
structure Group where
  kind : Nat
  members : List Nat
deriving DecidableEq, Repr

/-- A range entry of a launch record (16 R327). -/
structure RangeEntry where
  lo : Nat
  hi : Nat
  dmask : BitVec 8
  mmask : BitVec 8
deriving DecidableEq, Repr

/-- The blocks of one range entry that one die's distributor has not started (16 R330), as disjoint ascending
index ranges. -/
structure SubGrid where
  entry : Nat
  die : Nat
  ranges : List (Nat × Nat)
deriving DecidableEq, Repr

/-- A round of `gred` (13 R285): its key's address, the type and operation of its first contribution, and the
contributions by block. -/
structure GredRound where
  g : Nat
  va : Word64
  ty : Ty
  op : Nat
  contrib : List (Nat × Nat)
  wave : WaveRef
deriving DecidableEq, Repr

/-- One member's issue in a round of `cpy.grp` (13 R290): its place in the tile's queue, its source and die-relative
destination, its completion word, the slice that it reads, and what it has still to write, as (rank, piece). -/
structure GrpIssue where
  id : Nat
  blk : Nat
  tile : TileRef
  by_ : Issuer
  ch : Nat
  dst : Word64
  word : Option (Word64 × Word)
  slice : CopyPair
  /-- The least ticks between two starts, from the issuer's pacing register (11 R228). -/
  gap : Nat
  started : Bool
  /-- The ranks to which it has begun to write, and the pieces left. -/
  opened : List Nat
  toWrite : List (Nat × Nat × Nat)
  /-- Paused on an engine page fault: the fault ring record, once written (13 R292). -/
  paused : Option (Option Nat)
  /-- The command has ended without its remaining writes (13 R292; 22 R426). -/
  ended : Bool
deriving DecidableEq, Repr

/-- A round of `cpy.grp` on a group (13 R290). -/
structure GrpRound where
  g : Nat
  len : Nat
  issues : List GrpIssue
deriving DecidableEq, Repr

/-- A dependency of a launch (16 R331): mode 1 .trig, 2 .end, and the status word. -/
structure Dep where
  fin : Bool
  va : Word64
  done : Bool
  raised : Bool
deriving DecidableEq, Repr

/-- A group's barrier: T_c of the last generation that has completed (10 R230), and H_b of the open one, once a member has reported a
gear (10 R231). -/
structure BarRec where
  tc : Nat
  hb : Option Nat
deriving DecidableEq, Repr

/-- A launch from its acceptance to its end (16 R326-R332). -/
structure Launch where
  lseq : Nat
  ctx : Nat
  code : Nat
  ident : Nat
  staddr : Nat
  params : List Byte
  nblock : Nat
  lanes : Nat
  entry : Nat
  handler : Option Nat
  vb4k : Nat
  piv : Nat
  cls : Nat
  sys : Bool
  ranges : List RangeEntry
  groups : List Group
  deps : List Dep
  /-- STATE of the status word as last written (16 R328), and the state that a faulting write still owes. -/
  state : Nat
  owedState : Option Nat
  code8 : Nat
  subs : List SubGrid
  blocks : Tab Block
  /-- Generations completed, by group (13 R279), and their times and holds (10 R230, R231). -/
  gens : Tab Nat
  bars : Tab BarRec
  greds : List GredRound
  cgrps : List GrpRound
  /-- Blocks waiting at admission for page faults of the translator to be resolved: the unresolved records, and whether
  one was resolved to kill (14 R443). -/
  admitFault : List (Nat × List Nat × Bool)
  /-- Blocks whose entry function has been found malformed (14 R302). -/
  admitBad : List Nat
deriving DecidableEq, Repr

/-- A record in a context's device launch queue (16 R334). -/
structure LaunchReq where
  num : Nat
  record : List Byte
  params : List Byte
  sys : Bool
  wave : WaveRef
deriving DecidableEq, Repr

/-! ## Translations (01 R12, 14 R299-R307) -/

/-- A translation key (01 R12). -/
structure TKey where
  ident : Nat
  func : Nat
  narrow : Bool
  budget : Nat
deriving DecidableEq, Repr

/-- One block of a function: its parameters' type codes and its instruction words (04 R67, R68). -/
structure BlockCode where
  params : List (BitVec 4)
  code : List PlaceCode
deriving DecidableEq, Repr

/-- A translation in a die's store (01 R12, 14 R299): its key, its context, its form, the portable code it was made
from (01 R63 rules that equal keys are one translation), its spill bytes and interval, and where its native code and
side table stand. -/
structure Translation where
  tid : Nat
  die : Nat
  key : TKey
  ctx : Nat
  cls0 : Bool
  debug : Bool
  nfunc : Nat
  nwords : Nat
  blocks : List BlockCode
  /-- For each function number that the code calls: the parameter types of its block 0, or none when its entry or
  header is malformed (04 R71). -/
  callees : List (Nat × Option (List (BitVec 4)))
  spill : Nat
  dpi : Nat
  base : Nat
  codeLen : Nat
  side : Nat
  sideLen : Nat
  lastUse : Nat
  /-- Discarded, or replaced by a later one of its key: it stays for the waves that run it (01 R13; 14 R301; 17 R355). -/
  stale : Bool
deriving DecidableEq, Repr

/-- Who waits for a translation. -/
inductive TWaiter where
  /-- A block not yet started, or a swapped-out block (14 R303, first row). -/
  | block (b : BlockRef)
  /-- A wave at a `call` or handler entry. -/
  | wave (w : WaveRef)
deriving DecidableEq, Repr

/-- A request to a cluster's translator (14 R302). A key of budget 0 leaves the budget to the translator (14 R304), up to the v
names that a resident block has for a wave; `limit` 0: as many as the die gives. -/
structure TRequest where
  key : TKey
  limit : Nat
  ctx : Nat
  cls : Nat
  code : Nat
  waiter : TWaiter
  pressure : Bool
  arrived : Nat
  /-- The form asked for (14 R314), and the interval asked for (17 R355). -/
  debug : Bool
  piv : Nat
deriving DecidableEq, Repr

/-! ## Contexts (17) -/

/-- A `trc.on` or `trc.off` that not every wave follows yet: its wave, its kinds, and its tick (21 R421). -/
structure TraceOp where
  wave : WaveRef
  on : Bool
  kinds : BitVec 2
  tick : Nat
deriving DecidableEq, Repr

/-- What waits for a fault record: the wave that owes it, a paused command, a pending block whose code could not be read
(14 R443), or nothing. -/
inductive RecOwner where
  | wave (w : WaveRef)
  | copy (t : TileRef) (id : Nat)
  | group (lid g id : Nat)
  | kv (t : TileRef) (id : Nat)
  | code (b : BlockRef)
  | nobody
deriving DecidableEq, Repr

/-- A resident context (17 R349): the descriptor's fields and the context-span state beside it. -/
structure Context where
  desc : Nat
  ptroot : Nat
  fpdir : Nat
  swapa : Nat
  swapn : Nat
  fring : Nat
  frn : Nat
  dbga : Nat
  dbgn : Nat
  tsa : Nat
  vplo : Nat
  vsh : Nat
  vphi : Nat
  c0slot : Nat
  c0reg : Nat
  c0vb : Nat
  c0pin : Bool
  c0vc : Bool
  slice : Nat
  dbg : Bool
  /-- Trace mask, and the changes that other waves than their own follow later, oldest first (21 R421). -/
  tmask : BitVec 2
  tnext : List TraceOp
  /-- Next record that the part writes in the fault ring (17 R350). -/
  head : Nat
  /-- Records owed to a full or faulting ring, oldest first, and whether REGFAULT was raised for the hold. -/
  held : List (FaultRec × RecOwner)
  heldRaised : Bool
  /-- Runs of swap pages (first, count) whose bits are still to be cleared in a bitmap that faulted (17 R358). -/
  unfreed : List (Nat × Nat)
  /-- Device launch queue (16 R334). -/
  dlq : List LaunchReq
  retiring : Bool
deriving DecidableEq, Repr

/-- A cached translation of a page: it serves until an invalidation (16 R345, R346). `unit`: the TLB that holds it. A die number d names
the translations of the die's engines and translators, and of the front-end and the fabric; d + 8 × (1 + 4 × tile + class) the TLB of a
sequencer class of a tile; 2^16 + 32 × d + cluster that of a cluster. -/
structure TlbEntry where
  ctx : Nat
  unit : Nat
  page : Nat
  size : Nat
  pa : Nat
  r : Bool
  w : Bool
deriving DecidableEq, Repr

/-- A non-leaf entry in a die's walk cache (16 R345): its level, the address bits that index it and those above them, and the table that
it names. -/
structure WalkEntry where
  ctx : Nat
  die : Nat
  level : Nat
  pre : Nat
  next : Nat
deriving DecidableEq, Repr

/-- A first-touch binding between its frame and its compare-and-swap (16 R343): the page's first entry by memory key, as it was read, with
its replicas, its size, and the frame taken. -/
structure Binding where
  ctx : Nat
  die : Nat
  first : Nat
  seen : Nat
  size : Nat
  frame : Nat
deriving DecidableEq, Repr

/-! ## Engines of a tile (08, 13) -/

/-- A completion word that a command owes (12 R256, 13 R281). -/
structure OwedWord where
  by_ : Issuer
  va : Word64
  value : Word
  /-- The peer-table entry of a word on a peer, as read at issue (18 R364). -/
  peer : Option Peer
deriving DecidableEq, Repr

/-- The copy commands (13 R286). -/
inductive CopyKind where
  | blk | w | fill
deriving DecidableEq, Repr

/-- A copy command of a tile (13 R288-R293). -/
structure CopyCmd where
  id : Nat
  kind : CopyKind
  ctx : Nat
  block : BlockRef
  /-- The number of the block's `cpy.blk` commands before this one (13 R289). -/
  round : Nat
  reuse : Nat
  /-- Waves that have issued their slice; and the tiles that issued slices, each with the slice's channel and the issue number of the tile's
  first on it (13 R283). -/
  issued : List Nat
  chans : List (TileRef × Nat × Nat)
  pairs : List CopyPair
  words : List OwedWord
  /-- The pacing register at issue (10 R228). -/
  gap : Nat
  started : Bool
  /-- Paused on an engine page fault: the fault ring record, once written (13 R292). -/
  paused : Option (Option Nat)
deriving DecidableEq, Repr

/-- One statement of a `kvcommit` (13 R296), with how far it has come. -/
inductive KvOp where
  /-- Copy a row from position p to position q of a table: the table entries read so far, then the row's bytes. -/
  | move (tab : Word64) (p q : Nat) (ep eq : Option Word64) (row : Option CopyPair)
  /-- Release page q of a table into slot cnt of the release list: the entry, once read; listed; zeroed. -/
  | release (tab : Word64) (q cnt : Nat) (e : Option Word64) (listed zeroed : Bool)
  /-- Write the count of the release list. -/
  | count (n : Nat)
deriving DecidableEq, Repr

/-- A `kvcommit` command (13 R294-R297). -/
structure KvCmd where
  id : Nat
  by_ : Issuer
  ctx : Nat
  block : BlockRef
  rel : Word64
  rowb : Nat
  ops : List KvOp
  owed : OwedWord
  /-- The pacing register at issue (10 R228), and whether the command has started. -/
  gap : Nat
  started : Bool
  paused : Option (Option Nat)
deriving DecidableEq, Repr

/-- The row engine's units and pacing commands (08 R193). -/
inductive RowUnit where
  | top | heart | base | pace
deriving DecidableEq, Repr

/-- A row-engine command (08 R189-R194): the addresses of its row, record and output, and what it has read and has
still to write. -/
structure RowCmd where
  id : Nat
  unit : RowUnit
  by_ : Issuer
  ctx : Nat
  bf : Bool
  row : Nat
  recVa : Nat
  out : Nat
  n : Nat
  tau : Word
  gap : Nat
  /-- The name of the record, by which notes of one record follow each other: in a block's allocation it goes with the block (R193). -/
  key : Nat
  /-- The engine cycle of its arrival A_j, its start, and its end. -/
  arrive : Nat
  start : Option Nat
  fin : Nat
  got : List (Nat × List Byte)
  outs : Option (List (Nat × List Byte))
  status : Nat
deriving DecidableEq, Repr

/-- A fabric access in flight (18 R374, R383). -/
structure FabOut where
  id : Nat
  tag : Nat
  mop : Nat
  by_ : Issuer
  tile : TileRef
  lane : Nat
  peer : Nat
  /-- The entry of the peer table that it was sent by (18 R364). -/
  entry : Peer
  va : Nat
  size : Nat
  ty : Ty
  /-- The copy command that sent it, for a copy write or completion write. -/
  cmd : Option Nat
deriving DecidableEq, Repr

/-- The lanes of a fabric instruction whose accesses were not placed (18 R383), until its last response: the lowest of
them, with its address and the cause. -/
structure FabFail where
  id : Nat
  mask : LaneMask
  lane : Nat
  va : Nat
  sts : Nat
deriving DecidableEq, Repr

/-! ## Tiles (09, 10, 17) -/

/-- A resident wave in its partition (09 R209-R211): its slot, when an active wave may issue from, the ready time of
a pending one (none: blocked), and its age in each stream. -/
structure Entry where
  slot : Nat
  wave : WaveRef
  from_ : Nat
  rt : Option Nat
  ages : List Nat
deriving DecidableEq, Repr

/-- A debug stop of a partition (14 R318-R320). -/
structure DebugStop where
  cause : Nat
  /-- The context whose debug region takes the dump. -/
  ctx : Nat
  tick : Nat
  dumped : Bool
  /-- Values that had a write outstanding at the stop (14 R318): wave, frame counted from the base, and place; and registers of waves
  in native code that had one, until their waves land: v n as n, s n as 4096 + n, k n as 8192 + n. -/
  pend : List (WaveRef × Nat × Nat)
  regs : List (WaveRef × Nat)
  /-- Where the dump stands in the context's debug region, its length, and the waves of its records, once written. -/
  place : Nat
  len : Nat
  recs : List WaveRef
deriving DecidableEq, Repr

/-- An issue-scheduler partition (09 R206-R210). -/
structure Part where
  active : List Entry
  pending : List Entry
  dbg : Option DebugStop
deriving DecidableEq, Repr

/-- A context's own state on a tile (10 R223, R229; 17 R354). -/
structure TileCtx where
  gear : Nat
  pcpy : Nat
  pkv : Nat
  pmma : Nat
  pfab : Nat
  prow : Nat
  boost : Bool
deriving DecidableEq, Repr

/-- A decided gear change that has not reached its change edge (10 R218): the boundary B, and once a rail change has
begun its stall, the change edge. -/
structure GearChange where
  bound : Nat
  stallEnd : Option Nat
  /-- The gear and rail that the stall leads to, fixed when it begins. -/
  tgt : Nat
  tfast : Bool
  /-- The cause that the stalled change's packet names (21 R413), whether a throttle changes its divisors (R222), and the causes of
  a decision since. -/
  tcause : Nat
  tthr : Bool
  causes : List Nat
deriving DecidableEq, Repr

/-- A tile's clocks (10 R216-R221). `ctl` and `eng` count the control and engine edges at or before the tick at
which the present clock began, `t0`, which is its phase origin T0. -/
structure Clock where
  t0 : Nat
  cdiv : Nat
  ediv : Nat
  fast : Bool
  gd : Nat
  ctl : Nat
  eng : Nat
  change : Option GearChange
  /-- The lowest `bar.g.lv` hold by launch and group (10 R231). -/
  holds : List (Nat × Nat × Nat)
  /-- The throttle cap C (10 R221), and the cap of the divisors that run (10 R222). -/
  cap : Nat
  capWas : Nat
  /-- The tick at which the last rail stall ended (10 R230). -/
  stalled : Nat
  grant : Bool
  /-- The highest Gd among those that ran in the running interval before the present one (20 R395). -/
  gmax : Nat
deriving DecidableEq, Repr

/-- A context switch in progress on a split tile (17 R353). -/
structure Switch where
  other : Nat
  t0 : Nat
  landed : Option Nat
deriving DecidableEq, Repr

/-- A tile (00 R2, R3). -/
structure Tile where
  retired : Bool
  /-- Tile context word, its ACT field included (17 R351). -/
  word : BitVec 16
  ctxs : Tab TileCtx
  clock : Clock
  /-- The control cycle of the last `gear`, and its wave's place in the order of R220: partition, then slot (10 R220). -/
  lastGear : Option (Nat × Nat)
  even : Part
  odd : Part
  throttles : Nat
  copyQ : List CopyCmd
  kvQ : List KvCmd
  rowQ : List RowCmd
  /-- Row engine: the last start, and when each unit became free (08 R193). -/
  rowLast : Nat
  rowFree : List Nat
  /-- The engine edge of the last start of a paced queue: 0 copies, 1 key-value commits, 2 products, 3 fabric accesses
  (10 R228). -/
  starts : Tab Nat
  /-- Class held back by an `xfence` in progress: the wave, the Y mask and the issue number it began at. -/
  fences : List (WaveRef × BitVec 8 × Nat)
  switch : Option Switch
  switchedAt : Nat
  /-- The ticks of the running interval for which each context was ACT before the present one became ACT, and the tick at which that
  happened (20 R399). -/
  acts : Tab Nat
  actAt : Nat
  /-- A reassignment that waits for its swap-outs (17 R354). -/
  reassign : Option (BitVec 16)
deriving DecidableEq, Repr

/-! ## Clusters and dies -/

/-- A cluster (00 R2): its translator and translation cache (14 R300-R306), its power manager (20 R396) and its
counters. -/
structure Cluster where
  retired : Bool
  /-- The request that the translator serves, and those that wait, in arrival order (14 R302). -/
  serving : Option TRequest
  reqs : List TRequest
  /-- Cached 256-byte lines (translation, line), the most recently used first. -/
  lines : List (Nat × Nat)
  ct : Nat
  cr : Nat
  cp : Nat
  grant : Bool
  susp : Bool
  /-- T and I of the last interval (20 R404). -/
  t : Nat
  i : Nat
  /-- Counters 0x20-0x27 and 0x41-0x46 (14 R306, 20 R404). -/
  cnt : Tab Nat
deriving DecidableEq, Repr

/-- A trace packet held for its order (21 R412-R416). -/
structure Packet where
  kind : Nat
  tick : Nat
  order : Nat
  /-- The accord values that the packet names (R414): the payload byte and bit at which the index stands, and the
  value. -/
  refs : List (Nat × Nat × Nat)
  body : List Byte
deriving DecidableEq, Repr

/-- A die's trace engine (21 R410-R418). -/
structure TraceEng where
  held : List Packet
  frame : List Byte
  accord : List (Nat × Nat)
  sinceSync : Nat
  last : Nat
  fseq : Nat
  buf : List (List Byte)
  widx : Nat
  loss : Nat
  lastWrite : Nat
  restart : Bool
  nframes : Nat
  ndrop : Nat
  npkt : Nat
  nsync : Nat
deriving DecidableEq, Repr

/-- A die (00 R2): its port divisor (18 R380) and its trace engine. -/
structure Die where
  retired : Bool
  pd : Nat
  /-- Changes of PD that wait, the next one first. -/
  pdWant : List Nat
  pdStop : Option (Nat × Nat)
  /-- Every link of the die met the PD 4 condition throughout the running interval (20 R406). -/
  pdQuiet : Bool
  trace : TraceEng
deriving DecidableEq, Repr

/-! ## Links (18) -/

/-- A wavelength group's state (18 R378), with the tick at which it was entered. -/
inductive GroupState where
  | on | off | waking (since : Nat) | locking (since : Nat) | ready
deriving DecidableEq, Repr

/-- A message that a link is to send: its number in the order of the device's requests, and the links to its peer. -/
structure Outgoing where
  num : Nat
  links : Nat
  msg : Message
deriving DecidableEq, Repr

/-- Where a beat of a flit goes (18 R372): fibre, wavelength, and slot after the last width change. -/
structure BeatAt where
  fibre : Nat
  wave : Nat
  slot : Nat
deriving DecidableEq, Repr

/-- A Reardun link (18 R371-R381). -/
structure Link where
  up : Bool
  /-- It carries flits: it has come up with a peer, or has messages left of one that the peer table no longer names (R364, R380). -/
  live : Bool
  groups : List GroupState
  /-- ON groups with a park that waits for the width change. -/
  parking : BitVec 4
  /-- The port cycle of the last requests, and the groups that it has seen a park or a wake of (R379). -/
  reqCycle : Nat
  parkNow : BitVec 4
  woken : BitVec 4
  thr : Nat
  /-- Messages queued, in order of arrival; the first of them has begun when `txoff` of its stream bytes are sent. -/
  txq : List Outgoing
  txoff : Nat
  peerParked : BitVec 4
  /-- Groups that the peer wakes, and those of ours that it has announced readiness for. -/
  peerWaking : BitVec 4
  peerReady : BitVec 4
  retrain : Option Nat
  /-- Beats sent since the last width change (R372). -/
  beat : Nat
  fseq : Nat
  rseq : Nat
  acked : Nat
  /-- Data flits held for replay, and those of them that a replay has still to send (R375). -/
  replay : List Flit
  again : List Flit
  /-- Messages whose flits the peer has not all acknowledged, with the FSEQ of the last. -/
  unacked : List (Nat × Outgoing)
  /-- Replays that we asked for in a row without a flit in sequence since, and replays asked of us in a row that acknowledged none. -/
  fails : Nat
  tries : Nat
  /-- A control flit is owed, and it is to ask for a replay. -/
  announce : Bool
  asking : Bool
  rx : List Byte
  /-- Credits of each virtual channel, and credits to return (R373, R377). -/
  credits : List Nat
  returns : List Nat
  /-- The flits sent, with the places of their beats. -/
  out : List (Flit × List BeatAt)
deriving DecidableEq, Repr

/-- A ring of a fibre (18 R381, R386). -/
structure Ring where
  setpoint : BitVec 12
  locked : Bool
  drive : BitVec 12
  flash : BitVec 12
  changed : Option Nat
  /-- The tick by which the lock is back after a new setpoint (18 R386). -/
  relock : Nat
deriving DecidableEq, Repr

/-! ## Host side (18) -/

/-- A submission queue's state in the front-end (18 R367, R368). -/
structure Queue where
  ring : Nat
  tail : Nat
  head : Nat
  nrec : Nat
  ctx : Nat
  sys : Bool
  hp : Bool
  enabled : Bool
  hcount : Nat
  /-- HEADA has been read since QEN was set; it is not while the context is not resident. -/
  headRead : Bool
  lastTail : Nat
  /-- A head write that faulted and is retried. -/
  headOwed : Bool
  headRaised : Bool
deriving DecidableEq, Repr

/-- The answer to a host read (18 R365): bytes of each 64-byte unit, or the poisoned-data response. -/
structure HostUnit where
  bytes : List Byte
  poisoned : Bool
deriving DecidableEq, Repr

/-- The firmware store and the management endpoint (18 R370, 22 R438). -/
structure Firmware where
  image : List Byte
  digest : List Byte
  /-- A load in progress, and an image that runs from the next cold start. -/
  loading : List Byte
  pending : Option (List Byte × List Byte)
  recovery : Bool
  version : Word
deriving DecidableEq, Repr

/-- The CXL link's present rate and width (18 R361). -/
structure Cxl where
  rate : Nat
  width : Nat
deriving DecidableEq, Repr

/-- The register page of BAR0 (18 R363). -/
structure Bar0 where
  qtab : Word64
  qen : BitVec 16
  ptab : Word64
  win : Word64
  evring : Word64
  evn : Nat
  evhead : Nat
  evtail : Nat
  fid : BitVec 6
deriving DecidableEq, Repr

/-! ## The whole -/

/-- The model's own agenda: what the world and the part's schedulers do next. Every choice that the spec leaves to
time, to other agents or to the placement of engine accesses stands here as data. -/
inductive Act where
  /-- The wave issues its next instruction. -/
  | wave (w : WaveRef)
  /-- The event happens. -/
  | event (i : Instr)
  /-- A tile meets an unrecoverable fault that an effect has caused (22 R425). -/
  | tileFault (t : TileRef) (cause : Nat)
  /-- Reference ticks pass (00 R6). -/
  | advance (n : Nat)
  /-- The power manager decides at the start of the next control interval on what its sensors measure (20 R394, R395). -/
  | interval
  /-- A copy's read piece k of pair p is placed (12 R255). -/
  | copyRead (t : TileRef) (cmd p k : Nat)
  /-- A copy's write piece k of pair p is placed. -/
  | copyWrite (t : TileRef) (cmd p k : Nat)
  /-- The next access of a `kvcommit` is placed (13 R296). -/
  | kvStep (t : TileRef) (cmd k : Nat)
  /-- A row note reads, or writes, one of its chunks (08 R194). -/
  | rowRead (t : TileRef) (cmd k : Nat)
  | rowWrite (t : TileRef) (cmd k : Nat)
  /-- A piece of a group copy's slice is read, or written to a member (13 R290). -/
  | grpRead (lid g id k : Nat)
  | grpWrite (lid g id k : Nat)
  /-- The tile fetch unit reads one 16-byte chunk for a product in flight (08 R183). -/
  | fetch (w : WaveRef) (va : Word64)
  /-- A wave at a portable point with an entry for resuming enters the native code of its translation (05 R113). -/
  | native (w : WaveRef)
  /-- A link begins to send its next flit (18 R372). -/
  | sendFlit (link : Nat)
  /-- A store of the host's own to host memory, as host coherence holds it (18 R366). -/
  | hostStore (pa : Nat) (bytes : List Byte)
  /-- A message has arrived whole (18 R374). -/
  | arrive (m : Message)
  /-- The part replaces a cached translation (16 R346). -/
  | tlbDrop (k : Nat)
  /-- The part replaces an entry of a walk cache (16 R346). -/
  | walkDrop (k : Nat)
  /-- A walk of a die meets an unbacked page and takes a frame for it; its compare-and-swap comes later (16 R343). -/
  | bindStart (ctx die va : Nat)
  | bindEnd (k : Nat)
  /-- An uncorrectable error poisons the granule that holds this byte (22 R427). -/
  | poison (key : Nat)
  /-- The cache line of device memory that holds this byte is written back and leaves the caches (22 R427). -/
  | writeBack (key : Nat)
  /-- A corrected error of the device memory byte of a key, in the frame that begins at a key and in this row of its channel (22 R428; 11
  R240). -/
  | corrected (key frame row : Nat)
deriving DecidableEq, Repr

/-- The last write to a word that a sleeping `wait` watches (21 R419): the path class, and the wave with its tile; none
when the host or another device wrote. -/
structure Writer where
  cls : Nat
  wave : Option (WaveRef × TileRef)
deriving DecidableEq, Repr

/-- A sleeping `wait`: its wave, the word's memory key and bytes, the last write to the word since it began, and the accord value of the
writing wave's block (21 R414). -/
structure WaitRec where
  wave : WaveRef
  key : Nat
  n : Nat
  writer : Option Writer
  accord : Option Nat
deriving DecidableEq, Repr

/-- The state of the part. -/
structure State where
  /-- Reference ticks since the end of the start (10 R227). -/
  tick : Nat
  /-- The model's own: the counter that free values are drawn with, the agenda, and the wave that issues. -/
  fresh : Nat
  agenda : List Act
  cur : Option WaveRef
  /-- Device memory, host memory and the vaults, as one canonical list (Machine/Ops.lean, `Mem`). -/
  mem : List Host.Cell
  /-- Poisoned granules, by the memory key of their first byte (22 R427). -/
  poison : List Nat
  /-- The words that sleeping waits watch (13 R280). -/
  waits : List WaitRec
  /-- The address space is up: a start has completed (22 R437). -/
  started : Bool
  ctxs : Tab Context
  tlb : List TlbEntry
  /-- The walk caches of the dies (16 R345), bindings in progress, and the frames that lost one, by context, die and size code (16
  R343). -/
  walks : List WalkEntry
  binds : List Binding
  spareFrames : List (Nat × Nat × Nat × Nat)
  launches : Tab Launch
  nextLid : Nat
  nextLseq : Nat
  /-- Acceptance is held by a checkpoint (22 R434). -/
  quiesced : Bool
  tiles : Tab Tile
  clusters : Tab Cluster
  dies : Tab Die
  links : Tab Link
  rings : Tab Ring
  store : List Translation
  nextId : Nat
  /-- Watchdog limits by context number (09 R213). -/
  wdogs : List Nat
  /-- Refused launches by context number (16 R329). -/
  refused : List Nat
  /-- L3 targets T0-T3 (11 R246). -/
  l3 : List Nat
  /-- Power: requested cap and floors in W, idle base power in mW, Pidle in W, energy in units of 20 nJ, interval number, P and the cap event's
  last state (20 R394-R404). -/
  capQ : Nat
  /-- The requested cap before a `sys.cap`, for an interval that starts before the tick given (20 R407). -/
  capPrev : Nat × Nat
  floors : List Nat
  pbase : Nat
  pidle : Nat
  energy : Nat
  lastP : Nat
  interval : Nat
  bar0 : Bar0
  queues : Tab Queue
  rr : Nat
  /-- The event ring dropped a record since the last one written (18 R369). -/
  evDropped : Bool
  msix : Bool
  hostOut : List HostUnit
  mgmtOut : List (List Byte)
  fabOut : List FabOut
  fabFail : List FabFail
  nextTag : Nat
  discarded : Nat
  /-- Completion words whose owner ended without writing them, by memory key (13 R281). -/
  failed : List Nat
  /-- The CXL link (18 R361). -/
  cxl : Cxl
  fw : Firmware
  /-- Persistent retirement map: unit operands with cause and tick (22 R429). -/
  retired : List (Nat × Nat × Nat)
  clearRetired : Bool
  /-- Corrected errors by (channel, row), rows spared by channel, and unspared rows with their cause and tick (22 R428, R439); channels by
  stack × 64 + channel. -/
  rowErr : List (Nat × Nat × Nat)
  spared : List (Nat × Nat)
  unspared : List (Nat × Nat × Nat × Nat)
  trained : Bool
deriving DecidableEq, Repr

/-! ## Reasons to stop -/

/-- Why the machine stops with a fault. -/
inductive Fault where
  /-- Raised by `exec` of an instruction that a wave issues, and by an agenda item that names a wave, when no wave is selected
  or the wave does not exist: there is nothing to run. Safe: nothing is claimed of such a run. -/
  | noWave
  /-- Raised by a native instruction outside a bundle of a native wave. Safe. -/
  | noNative
deriving DecidableEq, Repr

/-- Why an instruction has no meaning. -/
inductive Refusal where
  /-- Raised by an arm of `exec` whose instruction has no meaning yet. Safe: no step is claimed. -/
  | notModelled (mnemonic : String)
deriving DecidableEq, Repr

/-! ## Reset -/

/-- A partition with no wave. -/
def Part.reset : Part := { active := [], pending := [], dbg := none }

/-- Gear 4 on the fast rail, T0 at the first multiple of 64 after the tile leaves reset (10 R216, R217). -/
def Clock.reset : Clock :=
  { t0 := 0, cdiv := 2, ediv := 4, fast := true, gd := 4, ctl := 0, eng := 0, change := none, holds := [], cap := 5, capWas := 5, stalled := 0,
    grant := false, gmax := 0 }

/-- A context's tile state when it becomes resident (10 R223). -/
def TileCtx.reset : TileCtx := { gear := 4, pcpy := 0, pkv := 0, pmma := 0, pfab := 0, prow := 0, boost := false }

/-- A tile after a start (17 R352). -/
def Tile.reset : Tile :=
  { retired := false, word := 0, ctxs := [], clock := Clock.reset, lastGear := none, even := Part.reset, odd := Part.reset,
    throttles := 0, copyQ := [], kvQ := [], rowQ := [], rowLast := 0, rowFree := [0, 0, 0], starts := [], fences := [],
    switch := none, switchedAt := 0, acts := [], actAt := 0, reassign := none }

/-- A cluster at device start (20 R396: every ceiling 5, no grant). -/
def Cluster.reset : Cluster :=
  { retired := false, serving := none, reqs := [], lines := [], ct := 5, cr := 5, cp := 5, grant := false, susp := false, t := 0, i := 0,
    cnt := [] }

/-- A trace engine at device start (21 R410, R411; 22 R437). -/
def TraceEng.reset : TraceEng :=
  { held := [], frame := [], accord := [], sinceSync := 0, last := 0, fseq := 0, buf := [], widx := 0,
    loss := 0, lastWrite := 0, restart := true, nframes := 0, ndrop := 0, npkt := 0, nsync := 0 }

/-- A die at device start, with PD 2 (22 R437). -/
def Die.reset : Die :=
  { retired := false, pd := 2, pdWant := [], pdStop := none, pdQuiet := true, trace := TraceEng.reset }

/-- A link at device start: every group ON, THR 0 (18 R378, R379; 22 R437). -/
def Link.reset : Link :=
  { up := true, live := false, groups := [.on, .on, .on, .on], parking := 0, reqCycle := 0, parkNow := 0, woken := 0, thr := 0, txq := [],
    txoff := 0, peerParked := 0, peerWaking := 0, peerReady := 0, retrain := none, beat := 0, fseq := 0, rseq := 0, acked := 0,
    replay := [], again := [], unacked := [], fails := 0, tries := 0, announce := false, asking := false, rx := [],
    credits := [257, 257, 257, 257], returns := [0, 0, 0, 0], out := [] }

/-- A ring before any sweep has given it a setpoint. DESIGN CHOICE (log entry 3): setpoint, drive and flash copy 0. -/
def Ring.reset : Ring := { setpoint := 0, locked := true, drive := 0, flash := 0, changed := none, relock := 0 }

/-- A queue that is not enabled. -/
def Queue.reset : Queue :=
  { ring := 0, tail := 0, head := 0, nrec := 0, ctx := 0, sys := false, hp := false, enabled := false, hcount := 0,
    headRead := false, lastTail := 0, headOwed := false, headRaised := false }

/-- The register page after a start (22 R437: reset to 0). -/
def Bar0.reset : Bar0 :=
  { qtab := 0, qen := 0, ptab := 0, win := 0, evring := 0, evn := 0, evhead := 0, evtail := 0, fid := 0 }

/-- The firmware store of a part as shipped. DESIGN CHOICE (log entry 3): an empty image with an empty digest. -/
def Firmware.reset : Firmware :=
  { image := [], digest := [], loading := [], pending := none, recovery := false, version := 0 }

/-- The part right after a cold start (22 R437): no context resident, vaults zero, counters, event ring, register page
and trace rings 0, every limit and target at the value the spec gives for a start. What the spec leaves undetermined
(device memory) and the model's own fields are named in the assumption log. -/
def State.reset : State :=
  { tick := 0, fresh := 0, agenda := [], cur := none, mem := [], poison := [], waits := [], started := true, ctxs := [], tlb := [], walks := [], binds := [], spareFrames := [],
    launches := [], nextLid := 0, nextLseq := 1, quiesced := false, tiles := [], clusters := [], dies := [],
    links := [], rings := [], store := [], nextId := 0,
    wdogs := [16777216, 16777216, 16777216, 16777216], refused := [0, 0, 0, 0], l3 := [32, 4, 24, 4],
    capQ := 2400, capPrev := (0, 2400), floors := [0, 0, 0, 0], pbase := 211000, pidle := 261, energy := 0, lastP := 0, interval := 0,
    bar0 := Bar0.reset, queues := [], rr := 0, evDropped := false, msix := false, hostOut := [], mgmtOut := [],
    fabOut := [], fabFail := [], nextTag := 0, discarded := 0, failed := [], cxl := { rate := 128, width := 16 },
    fw := Firmware.reset, retired := [], clearRetired := false, rowErr := [], spared := [], unspared := [], trained := true }

end Sys2Proof.Machine
end

