-- ==== Sys2Proof/Machine/Ops.lean ====
section
/-!
DEFINITION. The named operations over memory and registers: the canonical memory list, address translation and its
binding (16 R339-R346), the vault windows (11 R233-R236), the units of the part, a wave's places, SELECT and CLOSE
(06 R129-R136), taking a trap or a page fault and handler entry (06 R139-R141, 14 R308-R311), and the return from a
handler (06 R143).
-/

namespace Sys2Proof

/-- The cluster of a tile (00 R2). -/
def TileRef.cluster (t : TileRef) : ClusterRef := { die := t.die, cl := t.tile / 4 }

/-- The block of a wave, and a block's wave of a number (09 R200). -/
def WaveRef.block (w : WaveRef) : BlockRef := { lid := w.lid, blk := w.blk }
def BlockRef.wave (b : BlockRef) (i : Nat) : WaveRef := { lid := b.lid, blk := b.blk, wav := i }

end Sys2Proof

namespace Sys2Proof.Machine

open Sys2Proof

/-! ## Memory: one canonical list -/

/-- The byte at a memory key; a key that the list does not hold reads 0. -/
def Mem.read (m : List Host.Cell) (k : Nat) : Byte :=
  match m with
  | [] => 0#8
  | (k', b) :: r => if k' = k then b else if k < k' then 0#8 else Mem.read r k

/-- Write one byte, keeping the canonical form: keys strictly rising, and no entry equal to 0. -/
def Mem.write (m : List Host.Cell) (k : Nat) (b : Byte) : List Host.Cell :=
  match m with
  | [] => if b = 0#8 then [] else [(k, b)]
  | (k', b') :: r =>
    if k' = k then (if b = 0#8 then r else (k, b) :: r)
    else if k < k' then (if b = 0#8 then (k', b') :: r else (k, b) :: (k', b') :: r)
    else (k', b') :: Mem.write r k b

/-- The canonical form: keys strictly rising, and no entry equal to what an unlisted key reads as. -/
def Mem.wf (m : List Host.Cell) : Bool :=
  match m with
  | [] => true
  | (k, b) :: r => b ≠ 0#8 && (match r with | [] => true | (k', _) :: _ => decide (k < k')) && Mem.wf r

/-- `n` bytes from a key upwards. -/
def Mem.readN (m : List Host.Cell) (k n : Nat) : List Byte := (List.range n).map fun i => Mem.read m (k + i)

/-- Write bytes from a key upwards. -/
def Mem.writeN (m : List Host.Cell) (k : Nat) (bs : List Byte) : List Host.Cell :=
  match bs with
  | [] => m
  | b :: r => Mem.writeN (Mem.write m k b) (k + 1) r

/-- The memory key of byte `o` of vault `v` of die `d`: vault bytes stand above every physical address. -/
def vaultKey (d v o : Nat) : Nat := 2 ^ 52 + d * 2 ^ 29 + v * 2 ^ 24 + o

/-- The memory key of a physical address: device memory below 96 GiB of its die (16 R339), and host memory where
PA[51:48] = 1 (18 R366). Any other address has no memory behind it. -/
def paKey? (pa : Nat) : Option Nat :=
  if pa < 2 ^ 40 then (if pa % 2 ^ 37 < 96 * 2 ^ 30 then some pa else none)
  else if pa / 2 ^ 48 = 1 then some pa
  else none

/-- Is a byte of this span poisoned? Poison is held per 16-byte chunk (22 R427). -/
def State.poisoned (s : State) (k n : Nat) : Bool := s.poison.any fun g => decide (g < k + n ∧ k < g + 16)

/-- Bytes of a span of one memory. -/
def State.readKey (s : State) (k n : Nat) : List Byte := Mem.readN s.mem k n

/-- Write bytes at a key. A chunk whose every byte is replaced is no longer poisoned (22 R427). -/
def State.writeKey (s : State) (k : Nat) (bs : List Byte) : State :=
  { s with
    mem := Mem.writeN s.mem k bs
    poison := s.poison.filter fun g => decide ¬(k ≤ g ∧ g + 16 ≤ k + bs.length) }

/-- The bytes of a span that lie in poisoned chunks, as offsets and lengths. -/
def State.badParts (s : State) (k n : Nat) : List (Nat × Nat) :=
  s.poison.filterMap fun g => if g < k + n && k < g + 16 then some (max g k - k, min (g + 16) (k + n) - max g k) else none

/-- Poison the chunks that a span touches. -/
def State.addPoison (s : State) (k n : Nat) : State :=
  let lo := k / 16
  let cs := (List.range ((k + n + 15) / 16 - lo)).map fun i => 16 * (lo + i)
  { s with poison := cs.filter (fun g => !s.poison.contains g) ++ s.poison }

/-- A little-endian number of `n` bytes at a key. -/
def State.numKey (s : State) (k n : Nat) : Nat := ofLe (s.readKey k n)

/-! ## The units of the part -/

def State.ctx? (s : State) (c : Nat) : Option Context := Tab.get? s.ctxs c
def State.setCtx (s : State) (c : Nat) (x : Context) : State := { s with ctxs := s.ctxs.put c x }
def State.launch? (s : State) (l : Nat) : Option Launch := Tab.get? s.launches l
def State.setLaunch (s : State) (l : Nat) (x : Launch) : State := { s with launches := s.launches.put l x }
def State.tile (s : State) (t : TileRef) : Tile := Tab.getD s.tiles Tile.reset (128 * t.die + t.tile)
def State.setTile (s : State) (t : TileRef) (x : Tile) : State := { s with tiles := s.tiles.put (128 * t.die + t.tile) x }
def State.cluster (s : State) (c : ClusterRef) : Cluster := Tab.getD s.clusters Cluster.reset (32 * c.die + c.cl)
def State.setCluster (s : State) (c : ClusterRef) (x : Cluster) : State :=
  { s with clusters := s.clusters.put (32 * c.die + c.cl) x }
def State.die (s : State) (d : Nat) : Die := Tab.getD s.dies Die.reset d
def State.setDie (s : State) (d : Nat) (x : Die) : State := { s with dies := s.dies.put d x }
def State.link (s : State) (l : Nat) : Link := Tab.getD s.links Link.reset l
def State.setLink (s : State) (l : Nat) (x : Link) : State := { s with links := s.links.put l x }
def State.ring (s : State) (fibre r : Nat) : Ring := Tab.getD s.rings Ring.reset (16 * fibre + r)
def State.setRing (s : State) (fibre r : Nat) (x : Ring) : State := { s with rings := s.rings.put (16 * fibre + r) x }
def State.queue (s : State) (q : Nat) : Queue := Tab.getD s.queues Queue.reset q
def State.setQueue (s : State) (q : Nat) (x : Queue) : State := { s with queues := s.queues.put q x }

/-- Draw the next number of the model's own counter of free values. -/
def State.draw (s : State) : State := { s with fresh := s.fresh + 1 }


def State.block? (s : State) (b : BlockRef) : Option Block :=
  match s.launch? b.lid with
  | some l => Tab.get? l.blocks b.blk
  | none => none

def State.setBlock (s : State) (b : BlockRef) (x : Block) : State :=
  match s.launch? b.lid with
  | some l => s.setLaunch b.lid { l with blocks := l.blocks.put b.blk x }
  | none => s

def Block.tileRef (b : Block) : TileRef := { die := b.die, tile := b.tile }

def State.wave? (s : State) (w : WaveRef) : Option Wave :=
  match s.block? w.block with
  | some b => b.waves[w.wav]?
  | none => none

def State.setWave (s : State) (w : WaveRef) (x : Wave) : State :=
  match s.block? w.block with
  | some b => s.setBlock w.block { b with waves := b.waves.set w.wav x }
  | none => s

/-- Change a wave in place. -/
def State.modWave (s : State) (w : WaveRef) (f : Wave → Wave) : State :=
  match s.wave? w with
  | some x => s.setWave w (f x)
  | none => s

/-- Change a block in place. -/
def State.modBlock (s : State) (b : BlockRef) (f : Block → Block) : State :=
  match s.block? b with
  | some x => s.setBlock b (f x)
  | none => s

/-- Change a launch in place. -/
def State.modLaunch (s : State) (l : Nat) (f : Launch → Launch) : State :=
  match s.launch? l with
  | some x => s.setLaunch l (f x)
  | none => s

/-- Change a context in place. -/
def State.modCtx (s : State) (c : Nat) (f : Context → Context) : State :=
  match s.ctx? c with
  | some x => s.setCtx c (f x)
  | none => s

def State.modTile (s : State) (t : TileRef) (f : Tile → Tile) : State := s.setTile t (f (s.tile t))
def State.modDie (s : State) (d : Nat) (f : Die → Die) : State := s.setDie d (f (s.die d))
def State.modLink (s : State) (l : Nat) (f : Link → Link) : State := s.setLink l (f (s.link l))
def State.modCluster (s : State) (c : ClusterRef) (f : Cluster → Cluster) : State := s.setCluster c (f (s.cluster c))

/-- Where a wave runs: its launch, block and itself. -/
structure Site where
  w : WaveRef
  launch : Launch
  block : Block
  wave : Wave
deriving DecidableEq, Repr

def State.site? (s : State) (w : WaveRef) : Option Site :=
  match s.launch? w.lid with
  | none => none
  | some l =>
    match Tab.get? l.blocks w.blk with
    | none => none
    | some b =>
      match b.waves[w.wav]? with
      | none => none
      | some x => some { w := w, launch := l, block := b, wave := x }

/-- The tile on which a site's block stands. -/
def Site.tile (x : Site) : TileRef := x.block.tileRef

/-- The port of a wave's accesses in a stream: that of the stream's sequencer class on its tile (16 R345). -/
def Site.port (x : Site) (k : Nat) : Nat := x.block.die + 8 * (1 + 4 * x.block.tile + k)

/-! ## Address translation (16 R339-R346) -/

/-- The size in bits of a page of a SIZE code, and its replicated entries (R340). -/
def pageBits (size : Nat) : Nat := ([12, 14, 16, 18, 21, 24, 27, 30][size]?).getD 12
def pageReplicas (size : Nat) : Nat := ([1, 4, 16, 64, 1, 8, 64, 1][size]?).getD 1

/-- Is a leaf of this SIZE allowed at this level (R340)? -/
def sizeAtLevel (level size : Nat) : Bool :=
  match level with
  | 0 => size ≤ 3
  | 1 => 4 ≤ size && size ≤ 6
  | 2 => size == 7
  | _ => false

/-- The index of a level in a virtual address (R340). -/
def levelIndex (va level : Nat) : Nat := (va >>> (12 + 9 * level)) % 512

/-- A leaf that a walk has found: the physical address of the entry that the VA indexes, its level index, and the
entry's bits. -/
structure Leaf where
  pa : Nat
  idx : Nat
  e : Nat
deriving DecidableEq, Repr

/-- The fields of an entry (R341). -/
def pteV (e : Nat) : Bool := e % 2 == 1
def pteLeaf (e : Nat) : Bool := bitsOf e 1 1 == 1
def pteSize (e : Nat) : Nat := bitsOf e 4 2
def pteRd (e : Nat) : Bool := bitsOf e 5 5 == 1
def pteW (e : Nat) : Bool := bitsOf e 6 6 == 1
def pteBacked (e : Nat) : Bool := bitsOf e 7 7 == 1
def pteHome (e : Nat) : Nat := bitsOf e 10 8
def ptePa (e : Nat) : Nat := bitsOf e 51 12 * 4096

/-- Does a frame of a size touch the offsets from lo up to hi of its die? -/
def frameMeets (pa bits lo hi : Nat) : Bool := decide (pa % 2 ^ 37 < hi ∧ lo < pa % 2 ^ 37 + 2 ^ bits)

/-- Does a frame meet the translation store of its die, or the trace region (22 R442)? -/
def meetsStore (pa bits : Nat) : Bool := frameMeets pa bits 0x1700000000 0x1800000000
def meetsTrace (pa bits : Nat) : Bool := frameMeets pa bits 0x16FC000000 0x1700000000

/-- A leaf that breaks no rule of R342 beside permission and binding. -/
def leafOk (level e : Nat) : Bool :=
  sizeAtLevel level (pteSize e) && bitsOf e 63 52 == 0 && bitsOf e 11 11 == 0 &&
    (!pteBacked e || (ptePa e % 2 ^ pageBits (pteSize e) == 0 && pteHome e == bitsOf (ptePa e) 39 37
      && (paKey? (ptePa e)).isSome
      && !(ptePa e < 2 ^ 40 && meetsStore (ptePa e) (pageBits (pteSize e)))))

/-- The part of an address by which a level's entry is cached: its index and the bits above it. -/
def walkPre (va level : Nat) : Nat := va >>> (12 + 9 * level)

/-- The table that a walk cache gives for a level, when it holds the entry. -/
def cachedTable (ws : List WalkEntry) (va level : Nat) : Option Nat :=
  (ws.find? fun w => w.level == level && w.pre == walkPre va level).map WalkEntry.next

/-- The entry that an address indexes in a table of a level (R340): its physical address, its index and its bits; none where there is no
memory. -/
def tableEntry (s : State) (va level table : Nat) : Option (Nat × Nat × Nat) :=
  let idx := if level == 4 then levelIndex va 4 % 256 else levelIndex va level
  (paKey? (table + 8 * idx)).map fun k => (table + 8 * idx, idx, s.numKey k 8)

/-- The leaf that an entry is, when it breaks no rule. -/
def leafAt (level : Nat) (x : Nat × Nat × Nat) : Option Leaf :=
  if leafOk level x.2.2 then some { pa := x.1, idx := x.2.1, e := x.2.2 } else none

/-- Walk a page table from a level down (R340, R342), through the non-leaf entries that a walk cache holds: the leaf with the non-leaf
entries that led to it, as level and table; or none for a page fault. -/
def walkFrom (s : State) (ws : List WalkEntry) (va : Nat) : Nat → Nat → Option (Leaf × List (Nat × Nat))
  | 0, table =>
    match tableEntry s va 0 table with
    | none => none
    | some x => if pteV x.2.2 && pteLeaf x.2.2 then (leafAt 0 x).map fun l => (l, []) else none
  | l + 1, table =>
    match cachedTable ws va (l + 1) with
    | some next => (walkFrom s ws va l next).map fun r => (r.1, (l + 1, next) :: r.2)
    | none =>
      match tableEntry s va (l + 1) table with
      | none => none
      | some x =>
        if !pteV x.2.2 then none
        else if pteLeaf x.2.2 then (leafAt (l + 1) x).map fun l => (l, [])
        else if x.2.2 == 1 + ptePa x.2.2 then (walkFrom s ws va l (ptePa x.2.2)).map fun r => (r.1, (l + 1, ptePa x.2.2) :: r.2)
        else none

/-- Does an entry allow the access (R342)? -/
def permits (e : Nat) (rd wr : Bool) : Bool := (!rd || pteRd e) && (!wr || pteW e)

/-- The physical address that a backed leaf gives for an address within its page. -/
def leafPa (e va : Nat) : Nat := ptePa e + va % 2 ^ pageBits (pteSize e)

/-- The non-leaf entries of a context that a die's walk cache holds. -/
def State.walkCache (s : State) (ctx die : Nat) : List WalkEntry := s.walks.filter fun w => w.ctx == ctx && w.die == die

/-- Does an address lie in the global window (11 R233)? -/
def isGlobal (va : Nat) : Bool := va < 0xFFFFFE * 2 ^ 32

/-- Translate through already backed pages only: what a die's walker itself needs to reach a frame pool (R344). Only the global window is
translated (R340). -/
def State.lookupBacked (s : State) (ctx die va : Nat) (wr : Bool) : Option Nat :=
  match s.ctx? ctx with
  | none => none
  | some c =>
    if !isGlobal va then none
    else
    match walkFrom s (s.walkCache ctx die) va 4 c.ptroot with
    | none => none
    | some (l, _) => if permits l.e true wr && pteBacked l.e then paKey? (leafPa l.e va) else none

/-- Take the next frame of a size from a die's pool of a context (R344). An empty pool, one that cannot be read, and a
frame that is misaligned or not on the die give none. -/
def State.poolFrame (s : State) (ctx die size : Nat) : Option (State × Nat) :=
  match s.ctx? ctx with
  | none => none
  | some c =>
    match s.lookupBacked ctx die (c.fpdir + 32 * (8 * die + size)) true with
    | none => none
    | some k =>
      let x := s.numKey k 32
      let ring := bitsOf x 255 192
      let nent := bitsOf x 191 160
      let head := bitsOf x 159 128
      let tail := bitsOf x 127 96
      if bitsOf x 95 0 != 0 || ring % 8 != 0 || 2 ^ 24 < nent || head == tail || nent ≤ head || nent ≤ tail || 2 ^ 56 ≤ ring then none
      else
        match s.lookupBacked ctx die (ring + 8 * head) false with
        | none => none
        | some rk =>
          let f := s.numKey rk 8
          if f % 2 ^ pageBits size == 0 && bitsOf f 39 37 == die && f < 2 ^ 40 && (paKey? f).isSome
              && !meetsStore f (pageBits size) && !meetsTrace f (pageBits size) then
            some (s.writeKey (k + 16) (leBytes 4 ((head + 1) % nent)), f)
          else none

/-- The next frame of a size that a die hands out for a context: one that lost a binding (R343), else one of the pool. -/
def State.takeFrame (s : State) (ctx die size : Nat) : Option (State × Nat) :=
  let mine (e : Nat × Nat × Nat × Nat) : Bool := e.1 == ctx && e.2.1 == die && e.2.2.1 == size
  match s.spareFrames.find? mine with
  | some e => some ({ s with spareFrames := s.spareFrames.erase e }, e.2.2.2)
  | none => s.poolFrame ctx die size

/-- The entry of a page bound to a frame of a die. -/
def boundEntry (e die f : Nat) : Nat := e % 128 + 128 + die * 256 + f

/-- Write an entry into every replica of its page, from the memory key of the first. -/
def State.writeReplicas (s : State) (first size e : Nat) : State :=
  (List.range (pageReplicas size)).foldl (fun s i => s.writeKey (first + 8 * i) (leBytes 8 e)) s

/-- The memory key of the first entry of a leaf's page. -/
def Leaf.firstKey (l : Leaf) : Option Nat := paKey? (l.pa - 8 * (l.idx % pageReplicas (pteSize l.e)))

/-- Bind an unbacked leaf at its first walk (R343): the page's first entry decides, which is used when it is backed already; then every
replica is written. -/
def State.bindLeaf (s : State) (ctx die level : Nat) (l : Leaf) (rd wr : Bool) : Option (State × Nat) :=
  match l.firstKey with
  | none => none
  | some fk =>
    let fe := s.numKey fk 8
    if pteBacked fe then (if pteV fe && pteLeaf fe && leafOk level fe && permits fe rd wr then some (s, fe) else none)
    else
      match s.takeFrame ctx die (pteSize l.e) with
      | none => none
      | some (s1, f) => let e := boundEntry fe die f; some (s1.writeReplicas fk (pteSize l.e) e, e)

/-! ## TLBs and walk caches (16 R345, R346) -/

/-- The die of a port: a die, or a sequencer class of a tile (R345). -/
def portDie (p : Nat) : Nat := p % 8

/-- The TLBs of a port, the nearest first, each with its number of sets and its ways: a tile's own with 64 entries, then its cluster's
with 4,096 in 512 sets of 8, chosen by the page number (DESIGN CHOICE, log entry 63). The translations of engines, translators, the
front-end and the fabric have no TLB named: they are kept without bound (DESIGN CHOICE, log entry 63). -/
def portTlbs (p : Nat) : List (Nat × Nat × Nat) :=
  if p < 8 then [(p, 1, 0)] else [(p, 1, 64), (2 ^ 16 + 32 * (p % 8) + (p / 8 - 1) / 16, 512, 8)]

/-- A cached translation serves an address of its page (R345, R346). -/
def TlbEntry.covers (t : TlbEntry) (ctx unit va : Nat) : Bool :=
  t.ctx == ctx && t.unit == unit && t.page ≤ va && va < t.page + 2 ^ pageBits t.size

/-- Keep the first n elements with a property, and all others. -/
def keepFirst {α : Type} (p : α → Bool) : Nat → List α → List α
  | _, [] => []
  | n, x :: r => if p x then (match n with | 0 => keepFirst p 0 r | k + 1 => x :: keepFirst p k r) else x :: keepFirst p n r

/-- An entry enters a TLB; in a full set the oldest one leaves. -/
def tlbInsert (ts : List TlbEntry) (t : TlbEntry) (u : Nat × Nat × Nat) : List TlbEntry :=
  let set (e : TlbEntry) : Nat := e.page / 2 ^ pageBits e.size % u.2.1
  let n : TlbEntry := { t with unit := u.1 }
  if u.2.2 == 0 then n :: ts else keepFirst (fun e => e.unit == u.1 && set e == set n) u.2.2 (n :: ts)

/-- Non-leaf entries that a walk has read enter the walk cache of its die, which holds 256; the oldest leave. -/
def walkInsert (ws : List WalkEntry) (ctx die va : Nat) (es : List (Nat × Nat)) : List WalkEntry :=
  let new : List WalkEntry := es.map fun e => { ctx := ctx, die := die, level := e.1, pre := walkPre va e.1, next := e.2 }
  keepFirst (fun w => w.die == die) 256 ((new.filter fun w => !ws.contains w) ++ ws)

/-- Translate one address of the global window for an access from a port: from the nearest TLB that holds it, which fills those before
it, or by a walk whose result is cached. The second part is the memory key, or none for a page fault. -/
def State.translate (s : State) (ctx port va : Nat) (rd wr : Bool) : State × Option Nat :=
  let us := portTlbs port
  let die := portDie port
  match us.findSome? fun u => s.tlb.find? fun t => t.covers ctx u.1 va with
  | some t =>
    let miss := us.takeWhile fun u => u.1 != t.unit
    let s1 : State := { s with tlb := miss.foldl (fun ts u => tlbInsert ts t u) s.tlb }
    if (!rd || t.r) && (!wr || t.w) then (s1, paKey? (t.pa + (va - t.page))) else (s1, none)
  | none =>
    match s.ctx? ctx with
    | none => (s, none)
    | some c =>
      match walkFrom s (s.walkCache ctx die) va 4 c.ptroot with
      | none => (s, none)
      | some (l, path) =>
        if !permits l.e rd wr then (s, none)
        else
          match (if pteBacked l.e then some (s, l.e) else s.bindLeaf ctx die (4 - path.length) l rd wr) with
          | none => (s, none)
          | some (s1, e) =>
            let page := va - va % 2 ^ pageBits (pteSize e)
            let t : TlbEntry :=
              { ctx := ctx, unit := 0, page := page, size := pteSize e, pa := ptePa e, r := pteRd e, w := pteW e }
            ({ s1 with tlb := us.foldl (fun ts u => tlbInsert ts t u) s1.tlb, walks := walkInsert s1.walks ctx die va path },
             paKey? (leafPa e va))

/-- A walk of a die finds a page unbacked and takes a frame for it; its compare-and-swap is still to come (R343). Nothing changes
where there is nothing to bind. -/
def State.startBinding (s : State) (ctx die va : Nat) : State :=
  match s.ctx? ctx with
  | none => s
  | some c =>
    match walkFrom s (s.walkCache ctx die) va 4 c.ptroot with
    | none => s
    | some (l, _) =>
      match l.firstKey with
      | none => s
      | some fk =>
        let fe := s.numKey fk 8
        if pteBacked l.e || pteBacked fe then s
        else
          match s.takeFrame ctx die (pteSize l.e) with
          | none => s
          | some (s1, f) =>
            { s1 with binds := s1.binds ++ [{ ctx := ctx, die := die, first := fk, seen := fe, size := pteSize l.e, frame := f }] }

/-- The compare-and-swap of a binding (R343): the page's first entry is as it was read, and the frame is bound; or another die has bound
it, its entry goes into every replica that does not yet hold it, and the frame is the next that the die hands out for the size. -/
def State.endBinding (s : State) (k : Nat) : State :=
  match s.binds[k]? with
  | none => s
  | some b =>
    let s1 : State := { s with binds := s.binds.eraseIdx k }
    let fe := s1.numKey b.first 8
    if fe == b.seen then s1.writeReplicas b.first b.size (boundEntry fe b.die b.frame)
    else
      { s1.writeReplicas b.first b.size fe with spareFrames := (b.ctx, b.die, b.size, b.frame) :: s1.spareFrames }

/-- The pieces of an access: the part of it within each aligned 16-byte chunk (12 R252). The fuel bounds the number of
pieces. -/
def piecesFrom : Nat → Nat → Nat → List (Nat × Nat)
  | 0, _, _ => []
  | _ + 1, _, 0 => []
  | f + 1, va, n =>
    let k := min n (16 - va % 16)
    (va, k) :: piecesFrom f (va + k) (n - k)

/-- The pieces of an access of n bytes. -/
def pieces (va n : Nat) : List (Nat × Nat) := piecesFrom (n / 16 + 2) va n

/-- The memory spans of pieces, or the start of the first piece that faults. -/
def State.translatePieces (s : State) (ctx die : Nat) (rd wr : Bool) :
    List (Nat × Nat) → State × Except Nat (List (Nat × Nat))
  | [] => (s, .ok [])
  | (va, n) :: r =>
    match s.translate ctx die va rd wr with
    | (s1, none) => (s1, .error va)
    | (s1, some k) =>
      match State.translatePieces s1 ctx die rd wr r with
      | (s2, .ok ks) => (s2, .ok ((k, n) :: ks))
      | (s2, .error e) => (s2, .error e)

/-- Translate an access of n bytes in the global window. An address above it is no page of any context. -/
def State.translateN (s : State) (ctx die va n : Nat) (rd wr : Bool) : State × Except Nat (List (Nat × Nat)) :=
  if isGlobal va && isGlobal (va + n - 1) then s.translatePieces ctx die rd wr (pieces va n) else (s, .error va)

/-- The bytes of spans, and a write of bytes over spans. -/
def State.readSpans (s : State) : List (Nat × Nat) → List Byte
  | [] => []
  | (k, n) :: r => s.readKey k n ++ s.readSpans r

def State.writeSpans (s : State) : List (Nat × Nat) → List Byte → State
  | [], _ => s
  | (k, n) :: r, bs => (s.writeKey k (bs.take n)).writeSpans r (bs.drop n)

def State.spansPoisoned (s : State) (ks : List (Nat × Nat)) : Bool := ks.any fun e => s.poisoned e.1 e.2

/-- The part of spans that holds n bytes from an offset on. -/
def spansSlice : List (Nat × Nat) → Nat → Nat → List (Nat × Nat)
  | [], _, _ => []
  | (k, m) :: r, o, n =>
    if n == 0 then []
    else if m ≤ o then spansSlice r (o - m) n
    else (k + o, min n (m - o)) :: spansSlice r 0 (n - (m - o))

/-- The bytes of spans that lie in poisoned chunks, as offsets and lengths. -/
def State.badSpans (s : State) : Nat → List (Nat × Nat) → List (Nat × Nat)
  | _, [] => []
  | o, (k, n) :: r => (s.badParts k n).map (fun e => (o + e.1, e.2)) ++ s.badSpans (o + n) r

/-- Poison what receives these bytes of spans (22 R427). -/
def State.spoil (s : State) (ks bad : List (Nat × Nat)) : State :=
  bad.foldl (fun s e => (spansSlice ks e.1 e.2).foldl (fun s p => s.addPoison p.1 p.2) s) s

/-- Read n bytes of a context's global window from a die, by the part itself: the bytes, or the faulting address. -/
def State.readVa (s : State) (ctx die va n : Nat) : State × Except Nat (List Byte) :=
  match s.translateN ctx die va n true false with
  | (s1, .ok ks) => (s1, .ok (s1.readSpans ks))
  | (s1, .error e) => (s1, .error e)

/-- Write bytes in a context's global window from a die, by the part itself: all of them, or none and the faulting
address. -/
def State.writeVa (s : State) (ctx die va : Nat) (bs : List Byte) : State × Except Nat Unit :=
  match s.translateN ctx die va bs.length false true with
  | (s1, .ok ks) => (s1.writeSpans ks bs, .ok ())
  | (s1, .error e) => (s1, .error e)

/-- Drop every cached translation and walk-cache entry of a context (16 R346). -/
def State.dropTlb (s : State) (ctx : Nat) : State :=
  { s with tlb := s.tlb.filter fun t => t.ctx != ctx, walks := s.walks.filter fun w => w.ctx != ctx }

/-! ## Vault windows (11 R233-R236) -/

/-- Is the vault of a cluster retired (22 R429)? -/
def State.vaultRetired (s : State) (d v : Nat) : Bool :=
  (s.cluster { die := d, cl := v }).retired || (s.die d).retired

/-- The memory key of an access of n bytes through a vault window, or the trap that the first failing check takes
(R234): 4 BOUNDS, 3 ALIGN. -/
def State.vaultAccess (s : State) (x : Site) (va n : Nat) : Except Nat Nat :=
  let o := va % 2 ^ 24
  if va / 2 ^ 32 == 0xFFFFFF then
    if bitsOf va 31 24 != 0 then .error 4
    else if x.launch.vb4k * 4096 ≤ o then .error 4
    else if 16 < o % 16 + n then .error 3
    else .ok (vaultKey x.block.die (x.block.tile / 4) (x.block.vbase + o))
  else
    let d := bitsOf va 31 29
    let v := bitsOf va 28 24
    if clustersOf d ≤ v then .error 4
    else if s.vaultRetired d v then .error 4
    else
      match s.ctx? x.launch.ctx with
      | none => .error 4
      | some c =>
        if o < c.vplo * 4096 || (c.vplo + c.vsh) * 4096 ≤ o then .error 4
        else if 16 < o % 16 + n then .error 3
        else .ok (vaultKey d v o)

/-! ## Values and places -/

/-- The width in bits of one lane of a type (04 R73); a frag lane carries its 192 bytes and its FBA. -/
def Ty.bits : Ty → Nat
  | .void => 0 | .pred => 1 | .i32 => 32 | .n32 => 32 | .i64 => 64 | .n64 => 64 | .f32 => 32 | .f16 => 16 | .bf16 => 16
  | .sli32 => 32 | .sli16 => 16 | .addr => 64 | .frag => 1600 | .tile => 1024 | .fmt => 512

/-- The type of a code (04 R73). -/
def Ty.ofCode : Nat → Option Ty
  | 0 => some .void | 1 => some .pred | 2 => some .i32 | 3 => some .n32 | 4 => some .i64 | 5 => some .n64 | 6 => some .f32
  | 7 => some .f16 | 8 => some .bf16 | 9 => some .sli32 | 10 => some .sli16 | 11 => some .addr | 12 => some .frag
  | 13 => some .tile | 14 => some .fmt | _ => none

def Ty.code : Ty → Nat
  | .void => 0 | .pred => 1 | .i32 => 2 | .n32 => 3 | .i64 => 4 | .n64 => 5 | .f32 => 6 | .f16 => 7 | .bf16 => 8
  | .sli32 => 9 | .sli16 => 10 | .addr => 11 | .frag => 12 | .tile => 13 | .fmt => 14

/-- The void value of a place that defines nothing (04 R70). -/
def Value.void : Value := { ty := .void, x := Lanes.all 0 }

/-- The all-zero pattern of a type (04 R77). -/
def Value.zero (t : Ty) : Value := { ty := t, x := Lanes.all 0 }

/-- A value of a type from a number for each lane, taken to the type's width. -/
def Value.tab (t : Ty) (f : Fin 32 → Nat) : Value :=
  { ty := t, x := Lanes.tab fun i => BitVec.ofNat 1600 (f i % 2 ^ t.bits) }

/-- One lane as a number. -/
def Value.nat (v : Value) (i : Fin 32) : Nat := (v.x.get i).toNat

/-- Lane i of `a` where the mask has i, and of `b` elsewhere. -/
def mergeLanes {α : Type} (m : LaneMask) (a b : Lanes α) : Lanes α :=
  Lanes.tab fun i => if m.has i.val then a.get i else b.get i

/-- The value a path carries into a block parameter: the argument in the path's lanes and the all-zero pattern in
every other lane (06 R131). -/
def Value.masked (v : Value) (m : LaneMask) : Value := { v with x := mergeLanes m v.x (Lanes.all 0) }

/-- The value that a back-reference of an instruction names (04 R70): none when its distance exceeds the place. -/
def Cur.ref? (c : Cur) (r : Ref) : Option Value := c.vals[r.toNat - 1]?

/-- The place of the instruction that a path executes next (04 R70). -/
def Cur.place (c : Cur) : Nat := c.vals.length

/-- Define the next place of a path and stand after it. -/
def Cur.define (c : Cur) (v : Value) : Cur := { c with vals := v :: c.vals, vidx := c.vals.length + 1 }

/-- The current path of a wave, with its frame. -/
def Wave.top? (x : Wave) : Option (Frame × Cur) :=
  match x.frames with
  | [] => none
  | f :: _ =>
    match f.cur with
    | none => none
    | some c => some (f, c)

/-- Replace the top frame. -/
def Wave.setTop (x : Wave) (f : Frame) : Wave :=
  match x.frames with
  | [] => x
  | _ :: r => { x with frames := f :: r }

/-- The point of a wave: the function, block and value index where its current path stands (01 R10). -/
def Wave.point (x : Wave) : Point :=
  match x.top? with
  | some (f, c) => { func := f.func, block := c.block, vidx := c.vidx }
  | none => { func := 0, block := 0, vidx := 0 }

/-- The point of the instruction that a wave executes next. -/
def Wave.placePoint (x : Wave) : Point :=
  match x.top? with
  | some (f, c) => { func := f.func, block := c.block, vidx := c.place }
  | none => { func := 0, block := 0, vidx := 0 }

/-- The active mask of a wave (06 R129). -/
def Wave.mask (x : Wave) : LaneMask :=
  match x.top? with
  | some (_, c) => c.mask
  | none => 0

/-- The wave stands at the place of the instruction that it has tried (14 R308), no longer at its block's entry. -/
def Wave.stand (x : Wave) : Wave :=
  { x with frames := match x.frames with | f :: r => { f with cur := f.cur.map fun c => { c with vidx := c.place } } :: r | [] => [] }

/-- Define the current place of a wave and stand after it. -/
def Wave.define (x : Wave) (v : Value) : Wave :=
  match x.frames with
  | [] => x
  | f :: r =>
    match f.cur with
    | none => x
    | some c => { x with frames := { f with cur := some (c.define v) } :: r }

/-! ## SELECT and CLOSE (06 R130, R134, R143) -/

/-- Add a path to pending paths, merging it with one at the same block (R130). -/
def addPath (p : Path) : List Path → List Path
  | [] => [p]
  | q :: r =>
    if q.block == p.block then
      { q with mask := q.mask ||| p.mask,
               params := q.params.zipWith (fun a b => { a with x := mergeLanes p.mask b.x a.x }) p.params } :: r
    else q :: addPath p r

/-- The pending path with the lowest block number, and the others. -/
def lowestPath : List Path → Option (Path × List Path)
  | [] => none
  | p :: r =>
    match lowestPath r with
    | none => some (p, [])
    | some (q, r') => if p.block ≤ q.block then some (p, r) else some (q, p :: r')

/-- The number of bits that a returned value of a handler keeps (R143): the trapped place's own type. -/
def truncBits (t : Ty) (x : LaneBits) : LaneBits := BitVec.ofNat 1600 (x.toNat % 2 ^ t.bits)

/-- Where a popped frame's suspended path resumes: after its place, with its mask reduced to the frame's return mask,
the place holding the returned values in those lanes (R134, R140, R143). -/
def resumeAfter (f below : Frame) : Frame :=
  match below.cur with
  | none => below
  | some c =>
    let m := c.mask &&& f.retMask
    if m == 0 then { below with cur := none }
    else
      let v : Value :=
        if f.retTy == .void then Value.void
        else { ty := f.retTy, x := mergeLanes m (Lanes.tab fun i => truncBits f.retTy (f.ret.get i)) (Lanes.all 0) }
      { below with cur := some ({ c with mask := m }.define v) }

/-- SELECT on the top frame, with CLOSE where it has no pending path. What a place that a path leaves behind still waits for, no
word uses any more. The fuel is the number of frames, each of which
is closed once at most. A wave whose base frame closes has ended. -/
def Wave.selectFuel : Nat → Wave → Wave
  | 0, x => x
  | n + 1, x =>
    match x.frames with
    | [] => { x with mode := .ended }
    | f :: r =>
      match f.cur with
      | some _ => x
      | none =>
        match lowestPath f.pending with
        | some (p, rest) =>
          let c : Cur := { block := p.block, mask := p.mask, vidx := 0, vals := p.params.reverse }
          let d := x.frames.length
          { x with frames := { f with pending := rest, cur := some c } :: r
                   guse := x.guse.map fun e => if d ≤ e.1 then (0, e.2) else e
                   vuse := x.vuse.filter fun e => e.1 < d }
        | none =>
          match r with
          | [] => { x with frames := [], mode := .ended }
          | below :: r' => Wave.selectFuel n { x with frames := resumeAfter f below :: r' }

/-- SELECT (R130). -/
def Wave.select (x : Wave) : Wave := x.selectFuel (x.frames.length + 1)

/-- Remove the current path and make these paths pending in its frame, then SELECT. -/
def Wave.leave (x : Wave) (ps : List Path) : Wave :=
  match x.frames with
  | [] => x
  | f :: r =>
    ({ x with frames := { f with cur := none, pending := ps.foldl (fun l p => addPath p l) f.pending } :: r }).select

/-! ## Translations (14 R299, R303) -/

/-- The key of a first request for a function on a die (01 R12): the budget is the translator's (14 R304). -/
def firstKey (ident func die : Nat) : TKey := { ident := ident, func := func, narrow := narrowDie die, budget := 0 }

/-- May a stored translation be chosen for a function of a context on a die: in the form wanted (14 R314), not discarded or replaced
(14 R301), with a budget and an interval that the block allows (limit 0 and interval 0 allow any; 17 R355)? -/
def Translation.suits (t : Translation) (ctx die ident func : Nat) (debug : Bool) (limit piv : Nat) : Bool :=
  t.die == die && t.ctx == ctx && !t.stale && t.debug == debug && t.key.ident == ident && t.key.func == func &&
    t.key.narrow == narrowDie die && (limit == 0 || t.key.budget ≤ limit) && (piv == 0 || t.dpi ≤ 28 * piv)

/-- Of translations, the one of the largest budget, the first of those that have it. -/
def largestBudget : List Translation → Option Translation
  | [] => none
  | t :: r =>
    match largestBudget r with
    | none => some t
    | some u => if t.key.budget < u.key.budget then some u else some t

/-- The translation in a die's store that a function of a context takes (14 R299): of those that may be chosen, the one of the
largest budget (DESIGN CHOICE, log entry 52). -/
def State.codeFor (s : State) (ctx die ident func : Nat) (debug : Bool) (limit piv : Nat) : Option Translation :=
  largestBudget (s.store.filter fun t => t.suits ctx die ident func debug limit piv)

/-- The translation that a frame runs. -/
def State.code? (s : State) (f : Frame) : Option Translation := s.store.find? fun t => t.tid == f.tid

/-- The placed word of a wave's next instruction: the current block's code in the translation that its frame runs. -/
def State.fetch (s : State) (f : Frame) (c : Cur) : Option PlaceCode :=
  match s.code? f with
  | none => none
  | some t =>
    match t.blocks[c.block]? with
    | none => none
    | some b => b.code[c.place - b.params.length]?

/-- Does a frame run debug-form code (14 R314)? -/
def State.debugFrame (s : State) (f : Frame) : Bool :=
  match s.code? f with
  | some t => t.debug
  | none => false

/-- Does a wave run debug-form code? A resident block keeps its form (14 R314). -/
def State.debugWave (s : State) (x : Wave) : Bool :=
  match x.frames with
  | [] => false
  | f :: _ => s.debugFrame f

/-- Note that a translation has been used. -/
def State.touch (s : State) (t : Translation) : State :=
  { s with store := s.store.map fun u => if u.tid == t.tid then { u with lastUse := s.tick } else u }

/-- Hand a packet to a die's engine, and count it (counter 0x52, R423). -/
def State.emit (s : State) (die : Nat) (p : Packet) : State :=
  s.modDie die fun d => { d with trace := { d.trace with held := d.trace.held ++ [p], npkt := d.trace.npkt + 1 } }

/-- The order of a cluster's packets, after every tile's (R416). -/
def clusterOrder (cl : Nat) : Nat := 2 ^ 16 + cl

/-- The XLAT packet of a translation event (R413), for a translation key. -/
def State.emitXlat (s : State) (c : ClusterRef) (ev : Nat) (k : TKey) : State :=
  s.emit c.die
    { kind := 7, tick := s.tick, order := clusterOrder c.cl, refs := [(2, 0, k.ident)],
      body := leBytes 1 c.cl ++ leBytes 1 ev ++ [0#8] ++ leBytes 2 k.func ++
        leBytes 2 (k.budget + (if k.narrow then 32768 else 0)) }

/-- Is a tile retired, by itself or with its cluster or die (22 R429)? -/
def State.tileDead (s : State) (t : TileRef) : Bool :=
  (s.tile t).retired || (s.cluster t.cluster).retired || (s.die t.die).retired

/-- Is a cluster retired, by itself or with its die (22 R429)? -/
def State.clusterDead (s : State) (c : ClusterRef) : Bool := (s.cluster c).retired || (s.die c.die).retired

/-- Count an event of a cluster (14 R306; 20 R404). The counters of a retired cluster keep their last values (21 R422). -/
def State.countCluster (s : State) (c : ClusterRef) (n : Nat) : State :=
  if s.clusterDead c then s
  else s.modCluster c fun x => { x with cnt := x.cnt.put n ((Tab.getD x.cnt 0 n + 1) % 2 ^ 64) }

/-- The request that a translator takes next (14 R302): by class, then in arrival order. -/
def nextRequest (rs : List TRequest) : Option TRequest :=
  rs.foldl (fun b r => match b with | none => some r | some x => if r.cls < x.cls then some r else some x) none

/-- A translator with nothing to do takes its next request. -/
def Cluster.takeUp (x : Cluster) : Cluster :=
  if x.serving.isSome then x
  else
    match nextRequest x.reqs with
    | none => x
    | some r => { x with serving := some r, reqs := x.reqs.erase r }

/-- A request arrives at a translator. -/
def Cluster.ask (x : Cluster) (r : TRequest) : Cluster := ({ x with reqs := x.reqs ++ [r] } : Cluster).takeUp

/-- A translator's requests: the one that it serves, then those that wait. -/
def Cluster.asked (x : Cluster) : List TRequest := x.serving.toList ++ x.reqs

/-- Requests that a translator need not answer any more. -/
def Cluster.forget (x : Cluster) (p : TRequest → Bool) : Cluster :=
  ({ x with serving := x.serving.filter fun r => !p r, reqs := x.reqs.filter fun r => !p r } : Cluster).takeUp

/-- The greatest budget that the translator chooses on a die (14 R304). -/
def budgetCap (narrow : Bool) : Nat := if narrow then 1024 else 2048

/-- The smallest multiple of 16, up to the die's limit, at which a function needs no spill slot: a free value (14 R304). -/
def needOf (k : TKey) : Nat := 16 * (1 + Config.budget k.ident k.func (if k.narrow then 1 else 0) % (budgetCap k.narrow / 16))

/-- The budget of the first translation of a function whose table entry names `bud` (14 R304). -/
def ownBudget (k : TKey) (bud : Nat) : Nat := if bud == 0 then needOf k else if k.narrow then min bud 1024 else bud

/-- The budget of the translation that a request has made, of a function whose table entry names `bud` (14 R304): that of the request
where it names one (R305); else the function's own for its first translation, and for a later one, made because the first does not fit the
v names of the wave that asks, the request's limit (DEDUCED, log entry 52). -/
def State.budgetFor (s : State) (die : Nat) (r : TRequest) (bud : Nat) : Nat :=
  let own := ownBudget r.key bud
  let first := !s.store.any fun t => t.suits r.ctx die r.key.ident r.key.func r.debug 0 0
  if r.key.budget != 0 then r.key.budget else if !first && r.limit != 0 && r.limit < own then r.limit else own

/-- BUDW or BUDN of a function's table entry as it stands in memory (04 R61, R62); 0 where it cannot be read. -/
def State.tableBudget (s : State) (ctx die code : Nat) (k : TKey) : Nat :=
  match s.readVa ctx die code 64 with
  | (_, .error _) => 0
  | (_, .ok h) =>
    match mpfHeader? h with
    | none => 0
    | some (_, nf, ft, _, _) =>
      if nf ≤ k.func then 0
      else
        match s.readVa ctx die (code + ft + 16 * k.func) 16 with
        | (_, .error _) => 0
        | (_, .ok bs) => match ftEntry? bs with | some (_, _, _, bw, bn) => if k.narrow then bn else bw | none => 0

/-- Ask a tile's cluster for a translation (14 R302): a translation fault, counted and traced (R306) with the key that was not found,
its budget included (01 R12; 21 R413). -/
def State.request (s : State) (c : ClusterRef) (r : TRequest) : State :=
  let budget := s.budgetFor c.die r (s.tableBudget r.ctx c.die r.code r.key)
  ((s.modCluster c fun x => x.ask r).countCluster c 0x20).emitXlat c 1 { r.key with budget := budget }

/-! ## A fault or trap of a native op (05 R107, R109) -/

/-- The queue from which bit j of a POP field of stream f takes its token (05 R91, R103): queue 3g + k, where g is peer j of
f and f is peer k of g. -/
def popQueue (f j : Nat) : Nat := 3 * ((f + 1 + j) % 4) + (2 - j)

/-- Change the tokens of the queues that a POP field names. -/
def Native.popTokens (n : Native) (f : Nat) (pop : BitVec 3) (g : Nat → Nat) : Native :=
  { n with tok := (List.range 3).foldl (fun t j =>
      if pop.getLsbD j then t.put (popQueue f j) (g (Tab.getD t 0 (popQueue f j))) else t) n.tok }

/-- Put a stream back before the bundle of an op that has issued and takes no effect. Tokens that later bundles of the stream
have taken stay taken: the wave leaves native code there, and the entry for resuming sets every queue (R113). -/
def Native.unissue (n : Native) (d : NDest) : Native :=
  match n.seqs[d.stream]? with
  | none => n
  | some q =>
    if q.bun == d.bun then n
    else
      let q1 := { q with pc := d.addr, cuts := d.cuts, bun := d.bun, pushes := q.pushes.filter fun p => p.1 < d.bun, stopped := false }
      { n with seqs := n.seqs.set d.stream q1 }.popTokens d.stream d.pop (· + 1)

/-- The stages that are on. -/
def Loop.inFlight (l : Loop) : Nat := ((List.range 7).filter fun i => l.sb.getLsbD i).length

/-- The stage of the iteration to which an op belongs: that of its stage predicate, or for an op that always executes that of
the youngest iteration in flight (DEDUCED, log entry 36). -/
def Loop.stageOf (l : Loop) (stg : Nat) : Nat :=
  if stg != 0 then stg - 1 else ((List.range 7).find? fun i => l.sb.getLsbD i).getD 0

/-- A native op faults or meets a trap (R109). With more than one iteration in flight the event is held: the stage bits
of its iteration and of every younger one are cleared, and the older ones drain. Otherwise the wave stops before the bundle, at
its portable point, where the portable instruction meets the event with every check made again. While an event is held, an op that
always executes is one of the faulting iteration: it takes no effect now, and its event recurs when that iteration runs alone. A bundle that holds an op able
to fault is a safe point (01 R15): one that is not leaves with cut 0, which breaks the rule (log entry 36). -/
def Native.fault (n : Native) : Native :=
  match n.cur with
  | none => n
  | some d =>
    let g := n.loop.stageOf d.stg
    if d.stg == 0 && n.held.isSome then { n with cur := none }
    else if n.loop.cf && 1 < n.loop.inFlight && n.leave.isNone then
      { n with
        cur := none
        held := some g
        loop := { n.loop with dr := true, sb := n.loop.sb &&& ~~~(BitVec.ofNat 7 (2 ^ (g + 1) - 1)) } }
    else { n.unissue d with cur := none, leave := some (d.stream, if d.sp then d.cuts + 1 else 0, d.addr) }

/-- Is an op the other half on an N die of an op that ended on an event: of its stream, slot, opcode and destination? -/
def NDest.isHalfOf (a b : NDest) : Bool := a.stream == b.stream && a.slotB == b.slotB && a.opc == b.opc && a.dst == b.dst

/-- The other half of an op that has met an event takes no effect (12 R253). -/
def Native.dropFirst (n : Native) (d : Option NDest) : Native :=
  match d with
  | none => n
  | some d => { n with rows := n.rows.filter fun e => !e.1.isHalfOf d, halves := n.halves.filter fun h => !h.dest.isHalfOf d }

/-! ## Ops of a native wave that wait side by side (05 R102) -/

/-- The wave's mode and its op in execution join the ops that wait. -/
def Wave.unfocus (x : Wave) : Wave :=
  match x.native with
  | none => x
  | some n =>
    match n.cur with
    | none => x
    | some d =>
      if x.mode == .run then x
      else
        { x with mode := .run, staged := none,
                 native := some { n with cur := none, waits := { mode := x.mode, dest := d, staged := x.staged } :: n.waits } }

/-- The op that issued first of those that wait and meet a condition. -/
def oldestWait (ws : List NWait) (p : NWait → Bool) : Option NWait :=
  ws.foldl (fun best e =>
    if !p e then best
    else match best with | none => some e | some b => if e.dest.bun < b.dest.bun then some e else some b) none

/-- Take the oldest op that waits and meets a condition as the one that the wave's mode names. -/
def Wave.focusWhere (x : Wave) (p : NWait → Bool) : Wave :=
  match x.native with
  | none => x
  | some n =>
    match oldestWait n.waits p with
    | none => x
    | some e => { x with mode := e.mode, staged := e.staged, native := some { n with cur := some e.dest, waits := n.waits.erase e } }

/-- Is a mode that of an instruction at which the scalar stream stands until its condition is met: those of the last row of R209? -/
def WaveMode.isScalarWait (m : WaveMode) : Bool :=
  match m with
  | .barB => true
  | .barG _ _ _ => true
  | .wait _ _ _ _ _ _ => true
  | .lwait _ _ _ _ => true
  | .cdrain _ _ => true
  | .rowSync => true
  | _ => false

/-- Is a mode that of an instruction at which a native wave's scalar stream stands: those, `xfence` (13 R282) and `gear.w` (10 R225)? -/
def WaveMode.standsScalar (m : WaveMode) : Bool :=
  m.isScalarWait || (match m with | .xfence _ _ _ => true | .gear => true | _ => false)

/-- With no op in focus, the wait at which the scalar stream stands comes first, then its oldest other, then the oldest one. -/
def Wave.refocus (x : Wave) : Wave :=
  if x.mode != .run || (x.native.bind Native.cur).isSome then x
  else
    match x.native with
    | none => x
    | some n =>
      if n.waits.any fun e => e.mode.isScalarWait then x.focusWhere fun e => e.mode.isScalarWait
      else if n.waits.any fun e => e.dest.stream == 0 then x.focusWhere fun e => e.dest.stream == 0
      else x.focusWhere fun _ => true

/-- Bring an op that waits in a mode, with a product in flight or none, into focus; nothing changes when the wave waits so
already, or has no such op. -/
def Wave.focusOn (x : Wave) (p : WaveMode → Option Staged → Bool) : Wave :=
  if p x.mode x.staged then x
  else
    match x.native with
    | none => x
    | some n => if n.waits.any fun e => p e.mode e.staged then x.unfocus.focusWhere fun e => p e.mode e.staged else x

def State.focusOn (s : State) (w : WaveRef) (p : WaveMode → Option Staged → Bool) : State :=
  match s.wave? w with
  | some x => if p x.mode x.staged then s else s.setWave w (x.focusOn p)
  | none => s

/-- The scalar stream's wait comes into focus again. -/
def State.settleFocus (s : State) (w : WaveRef) : State := s.modWave w fun x => x.unfocus.refocus

/-- Everything that a wave waits for. -/
def Wave.modes (x : Wave) : List WaveMode :=
  x.mode :: (match x.native with | some n => n.waits.map NWait.mode | none => [])

/-- An op of a native wave faults, and no longer waits. -/
def Wave.nativeFault (x : Wave) : Wave :=
  match x.native with
  | some n =>
    { x with native := some (n.dropFirst n.cur).fault, mode := .run, staged := none, quarters := [], quartersB := [] }.refocus
  | none => x

/-! ## Stops, traps and page faults -/

/-- Ask every wave of a block to stop (05 R108, 14 R308). A stop already under way keeps its fate. -/
def Block.stopAll (b : Block) (fate : StopFate) : Block :=
  { b with
    fate := some (b.fate.getD fate)
    madeWay := if b.fate.isNone then none else b.madeWay
    waves := b.waves.map fun x =>
      if x.mode == .released || x.stop != .none then x
      else { x with stop := .requested } }

def State.stopBlock (s : State) (b : BlockRef) (fate : StopFate) : State := s.modBlock b fun x => x.stopAll fate

/-- A fault record of a wave at a point, with nothing said of its cause. -/
def Site.record (x : Site) (p : Point) (m : LaneMask) : FaultRec :=
  { blockId := x.w.blk, lseq := x.launch.lseq, wave := x.w.wav, die := x.block.die, tile := x.block.tile, point := p,
    mask := m, va := 0, kind := 0, trapk := 0, cls := x.launch.cls, swap := false, wr := false, peer := 0, fsts := 0,
    eng := false, lanes := Lanes.all 0 }

/-- The wave owes a fault record; its block stops (14 R308, R311). -/
def State.stopWith (s : State) (x : Site) (r : FaultRec) (fate : StopFate) : State :=
  (s.modWave x.w fun y => { y with owed := some r }).stopBlock x.w.block fate

/-- A page fault of a lane-path access of a wave (13 R267, 14 R308): at the faulting address, before any effect. -/
def State.takePageFault (s : State) (x : Site) (m : LaneMask) (va : Nat) (wr : Bool) : State :=
  if x.wave.native.isSome then s.modWave x.w Wave.nativeFault
  else s.stopWith x { x.record x.wave.placePoint m with va := va, wr := wr } .byClass

/-- A trap that parks the block (14 R308), with the codes of trap(USER). -/
def State.takeParkTrap (s : State) (x : Site) (m : LaneMask) (k : Nat) (codes : Lanes Word) : State :=
  if x.wave.native.isSome then s.modWave x.w Wave.nativeFault
  else
    (s.modWave x.w fun y => { y with verdict := false }).stopWith x
      { x.record x.wave.placePoint m with kind := 2, trapk := k, lanes := codes } .park

/-- The translation that a function takes at a `call` or handler entry of a wave (14 R299): in the form of the wave's block (R314),
within the v names that the block has. -/
def State.calleeCode (s : State) (x : Site) (func : Nat) : Option Translation :=
  s.codeFor x.launch.ctx x.block.die x.launch.ident func (s.debugWave x.wave) x.block.budget 0

/-- A wave that waits for a translation at a `call` or handler entry (14 R303): its block parks in class 0 and 1 and is
swapped out in class 2 and 3, and goes on by itself when the translation is stored. -/
def State.awaitTranslation (s : State) (x : Site) (k : TKey) : State :=
  let s1 := s.request x.tile.cluster
    { key := k, limit := x.block.budget, ctx := x.launch.ctx, cls := x.block.cls, code := x.launch.code, waiter := .wave x.w,
      pressure := false, arrived := s.tick, debug := s.debugWave x.wave, piv := 0 }
  (s1.setWave x.w { x.wave with mode := .translate }).modBlock x.w.block
    fun b => { b.stopAll .byClass with awaitsCode := true }

/-- Opcodes whose reserved words never enter the handler (06 R140): `br`, `brc`, `call`, `ret`, `exit`, `tret`. -/
def neverHandled (opc : Nat) : Bool := (0x0C0 ≤ opc && opc ≤ 0x0C4) || opc == 0x0C8

/-- Does a handler frame stand on a wave's stack (06 R141)? -/
def Wave.inHandler (x : Wave) : Bool := x.frames.any fun f => f.kind == .handler

/-- What a word refers to, as the handler reads it (06 R142): an operand's bits lane by lane, 0 for none. -/
def operandBits (c : Cur) (r : Ref) : Lanes Word64 :=
  if r == 0 then Lanes.all 0
  else
    match c.ref? r with
    | none => Lanes.all 0
    | some v => if v.ty == .void then Lanes.all 0 else Lanes.tab fun i => (v.x.get i).setWidth 64

/-- The lanes at which a word's P was 1, read as a back-reference to a pred (06 R142). -/
def predLanes (c : Cur) (r : Ref) : LaneMask :=
  if r == 0 then 0
  else
    match c.ref? r with
    | some v => if v.ty == .pred then LaneMask.tab fun i => (v.x[i]?.getD 0).getLsbD 0 else 0
    | none => 0

/-- Push the handler frame of a trapped word (06 R140). `res` is the type that the trapped place has. -/
def pushHandler (x : Wave) (h tid : Nat) (info : TrapInfo) (m : LaneMask) (res : Ty) : Wave :=
  let fr : Frame :=
    { kind := .handler, func := h, tid := tid, pending := [{ block := 0, mask := m, params := [] }], cur := none,
      retMask := 0, ret := Lanes.all 0, retTy := res, trap := some info, kept := [] }
  ({ x with frames := fr :: x.frames, quarters := [], quartersB := [] }).select

/-! ## The undo log of debug-form code (14 R315, R316) -/

/-- The length of an entry in bytes, a multiple of 16 (R315). -/
def undoLen (payload : Nat) : Nat := 16 * ceilDiv (16 + payload) 16

/-- Discard the oldest entries until the log holds at most 4,096 bytes; the list has the newest first (R315). -/
def trimUndo : Nat → List UndoEntry → List UndoEntry
  | _, [] => []
  | n, e :: r => if n + e.len ≤ 4096 then e :: trimUndo (n + e.len) r else []

/-- Add an entry; one that would exceed 1,024 bytes is a HZN entry (R315, R316). -/
def Wave.logUndo (x : Wave) (k : UndoKind) (ty : Nat) (p : Point) (m : LaneMask) (payload : Nat) : Wave :=
  let n := undoLen payload
  let e : UndoEntry :=
    if 1024 < n then { kind := .hzn, ty := ty, point := p, mask := m, seq := x.undoSeq, len := 16 }
    else { kind := k, ty := ty, point := p, mask := m, seq := x.undoSeq, len := n }
  { x with undo := trimUndo 0 (e :: x.undo), undoSeq := (x.undoSeq + 1) % 2 ^ 32 }

/-- Log the other control events: the entry of the SELECT that they run, then the entry that stepping back never
passes, once for the event and once for each CLOSE. -/
def Wave.logLeave (x : Wave) (f : Frame) (c : Cur) (closes : Nat) : Wave :=
  let pt : Point := { func := f.func, block := c.block, vidx := c.place }
  (List.range (closes + 1)).foldl (fun x _ => x.logUndo .hzn 0 pt c.mask 0)
    (x.logUndo (.ctl f.pending f.cur f.kept []) 0 pt c.mask (8 * (f.pending.length + 1)))

/-- TAKING trap(RESERVED) at a word (06 R140, R141): the launch's handler is entered, when it names one, the word may
enter it, no handler frame stands on the stack and a frame is left; otherwise the block parks. -/
def State.takeReserved (s : State) (x : Site) (c : Cur) (word : BitVec 64) (res : Ty) : State :=
  let opc := opcOf word
  let f := fieldsOf word
  if x.wave.native.isSome then s.modWave x.w Wave.nativeFault
  else
  match x.launch.handler with
  | none => s.takeParkTrap x c.mask 1 (Lanes.all 0)
  | some h =>
    if neverHandled opc.toNat || x.wave.inHandler || 256 ≤ x.wave.frames.length then
      s.takeParkTrap x c.mask 1 (Lanes.all 0)
    else
      match s.calleeCode x h with
      | none => if x.wave.verdict then s.takeParkTrap x c.mask 5 (Lanes.all 0)
                else s.awaitTranslation x (firstKey x.launch.ident h x.block.die)
      | some t =>
        match t.blocks with
        | [] => s.takeParkTrap x c.mask 5 (Lanes.all 0)
        | b0 :: _ =>
          if b0.params ≠ [] then s.takeParkTrap x c.mask 5 (Lanes.all 0)
          else
            let info : TrapInfo :=
              { kind := 1, opc := opc, f := f, word := word, opA := operandBits c f.a, opB := operandBits c f.b,
                opC := operandBits c f.c, pmask := predLanes c f.p, point := x.wave.placePoint }
            let y := pushHandler x.wave h t.tid info c.mask res
            (s.touch t).setWave x.w
              (match x.wave.frames with
               | fr :: _ => if s.debugFrame fr then y.logLeave fr c 0 else y
               | [] => y)

/-- Return from a handler (06 R143): the current path's lanes have their results; then SELECT, which closes the frame
once no path is left. -/
def Wave.handlerReturn (x : Wave) (v : Lanes LaneBits) : Wave :=
  match x.frames with
  | [] => x
  | f :: r =>
    match f.cur with
    | none => x
    | some c =>
      ({ x with frames :=
          { f with cur := none, retMask := f.retMask ||| c.mask, ret := mergeLanes c.mask v f.ret } :: r }).select

end Sys2Proof.Machine
end

