-- ==== Sys2Proof/Machine/NativeRegs.lean ====
section
/-!
DEFINITION. The registers and latches that a native wave sees (05 R94-R98; 08 R175, R177): how a value of each type
stands in them, rotation, and the write of a result.
-/

namespace Sys2Proof.Machine

open Sys2Proof

/-- A native state of a budget with nothing in it and no stream. -/
def Native.blank (budget : Nat) : Native :=
  { budget := budget, v := [], s := [], k := [], latch := [], tok := [], seqs := [],
    loop := { lc := 0, ec := 0, sb := 0, rrb := 0, wb := 0, wsz := 0, pm := 0, dr := false, sm := false, cf := false, starts := [],
              opened := 0, backed := 0, closed := 0, tops := [], halted := false },
    cur := none, waits := [], outs := [], drain := [], rows := [], halves := [], vregs := [], held := none, leave := none }

/-- A stream at an address, with nothing issued. -/
def Seq.start (a : Nat) : Seq := { pc := a, stopped := false, cuts := 0, bun := 0, noSp := 0, pushes := [], popWait := none }

/-- The v number that a v field names in a stream, with the rotation of a configured loop (05 R105). -/
def Native.vnum (n : Native) (stream v : Nat) : Nat :=
  let l := n.loop
  let wb := l.wb.toNat
  let sz := l.wsz.toNat
  if l.cf && l.pm.getLsbD stream && wb ≤ v && v < wb + sz then wb + (v - wb + l.rrb.toNat) % sz else v

/-- A v register. -/
def Native.vreg (n : Native) (v : Nat) : Lanes Word := Tab.getD n.v (Lanes.all 0) v

/-- How many v names a value of a type takes: two for 64 bits (05 R96), fifty for a frag (08 R175), 32 for a tile, one row
per register (08 R177), and sixteen for a fmt (DESIGN CHOICE, log entry 31: its native form is not given). -/
def vNames (t : Ty) : Nat :=
  match t with
  | .frag => 50
  | .tile => 32
  | .fmt => 16
  | t => if t.bits == 64 then 2 else 1

/-- The lane k of a value in v names from a base, each named through `at_`. -/
def Native.vLane (n : Native) (t : Ty) (at_ : Nat → Nat) (k : Fin 32) : LaneBits :=
  match t with
  | .tile => BitVec.ofNat 1600 (ofDigits ((List.finRange 32).map fun j => ((n.vreg (at_ k.val)).get j).toNat))
  | t => BitVec.ofNat 1600 (ofDigits ((List.range (vNames t)).map fun j => ((n.vreg (at_ j)).get k).toNat) % 2 ^ t.bits)
where
  /-- The number of 32-bit digits, the lowest first. -/
  ofDigits : List Nat → Nat
    | [] => 0
    | d :: r => d + 2 ^ 32 * ofDigits r

/-- A value of a type that a source field names (05 R94). A latch holds its lanes as they were written; one read at another type gives
their low bits of that type's width (DESIGN CHOICE, log entry 35). -/
def Native.source (n : Native) (stream : Nat) (t : Ty) (f : BitVec 12) : Value :=
  let v := f.toNat
  if v < 2048 then { ty := t, x := Lanes.tab fun k => n.vLane t (fun j => n.vnum stream (v + j)) k }
  else
    match v / 256 with
    | 8 => Value.tab t fun k => ((Tab.getD n.latch (Lanes.all 0) (v % 8)).get k).toNat
    | 9 => Value.tab t fun _ => (Tab.getD n.s 0 (v % 256)).toNat
    | 10 => Value.tab t fun k => if (Tab.getD n.k 0 (v % 16)).has k.val then 1 else 0
    | _ => { ty := t, x := Lanes.tab fun k => n.vLane t (fun j => n.vnum stream (32 * (v % 16) + j)) k }

/-- Write the lanes of a mask of one v register. -/
def Native.setV (n : Native) (v : Nat) (m : LaneMask) (x : Fin 32 → Nat) : Native :=
  { n with v := n.v.put v (mergeLanes' m (Lanes.tab fun k => BitVec.ofNat 32 (x k)) (n.vreg v)) }
where
  /-- Lane k of the first where the mask has k. -/
  mergeLanes' (m : LaneMask) (a b : Lanes Word) : Lanes Word := Lanes.tab fun k => if m.has k.val then a.get k else b.get k

/-- Write the lanes of a mask of a value in v names. A tile's rows are lanes of the value and registers of the file. -/
def Native.setVs (n : Native) (t : Ty) (at_ : Nat → Nat) (m : LaneMask) (x : Value) : Native :=
  match t with
  | .tile => (List.finRange 32).foldl (fun n r =>
      if m.has r.val then n.setV (at_ r.val) (BitVec.allOnes 32) fun j => x.nat r / 2 ^ (32 * j.val) % 2 ^ 32 else n) n
  | t => (List.range (vNames t)).foldl (fun n j => n.setV (at_ j) m fun k => x.nat k / 2 ^ (32 * j) % 2 ^ 32) n

/-- The lanes of a pred as a mask. -/
def Value.lanesSet (v : Value) : LaneMask := LaneMask.tab fun i => (v.x[i]?.getD 0).getLsbD 0

/-- The v registers that a destination field names for a result of a type, as the rotation stands (05 R95, R105). -/
def Native.destNames (n : Native) (d : NDest) (t : Ty) : List Nat :=
  let num := d.dst.toNat % 2048
  if d.dst.getLsbD 11 || d.stream == 0 || t == .void || t == .pred then []
  else (List.range (vNames t)).map fun j => n.vnum d.stream ((if t == .tile then 32 * num else num) + j)

/-- A register or latch that an op of a native wave reads or writes. -/
inductive NReg where
  | v (n : Nat)
  | s (n : Nat)
  | k (n : Nat)
  | l (n : Nat)
deriving DecidableEq, Repr

/-- A register or latch as a number: v n as n, s n as 4096 + n, k n as 8192 + n, as a debug stop notes them (14 R318), and latch
n as 12288 + n. -/
def NReg.num (r : NReg) : Nat :=
  match r with
  | .v n => n
  | .s n => 4096 + n
  | .k n => 8192 + n
  | .l n => 12288 + n

/-- The latch of an op's slot (05 R98). -/
def NDest.latch (d : NDest) : Nat := 2 * d.stream + (if d.slotB then 1 else 0)

/-- The registers that an op in execution has still to write. -/
def NDest.regs (d : NDest) : List NReg :=
  let num := d.dst.toNat % 2048
  (if d.ty == .tile || d.ty == .void then [] else [.l d.latch]) ++
    (if d.ty == .void || d.dst.getLsbD 11 then []
     else if d.ty == .pred then [.k num]
     else if d.stream == 0 then [.s num]
     else d.names.map .v)

/-- The row half of the drain that an op of a half reads or writes (05 R104). -/
def halfKey (half : Bool) : Nat := if half then 1 else 0

/-- A tile has been written: the drain of a half that names it holds its value (05 R104). -/
def Native.setDrain (n : Native) (half : Bool) (m : Nat) (v : Value) : Native :=
  match Tab.get? n.drain (halfKey half) with
  | some (k, _) => if k == m then { n with drain := n.drain.put (halfKey half) (m, some v) } else n
  | none => n

/-- Write an op's latch in the op's lanes (05 R98, R102). A latch written under HALF = 1 holds lanes 16-31 alone (R114). -/
def Native.writeLatch (n : Native) (d : NDest) (x : Lanes LaneBits) : Native :=
  let old := Tab.getD n.latch (Lanes.all 0) d.latch
  let base := if d.half then Lanes.tab fun k => if k.val < 16 then 0 else old.get k else old
  let lat : Lanes LaneBits := Lanes.tab fun k => if d.mask.has k.val then x.get k else base.get k
  { n with latch := n.latch.put d.latch lat }

/-- The registers that an op writes in every lane no longer hold what a vault read gave. -/
def Native.overwrite (n : Native) (d : NDest) : Native :=
  if n.vregs != [] && (d.stream == 0 || d.mask == BitVec.allOnes 32) then
    { n with vregs := n.vregs.filter fun r => !(d.regs.map NReg.num).contains r }
  else n

/-- Write a result as a destination names it (05 R95, R98, R102): its register, unless write-back is suppressed, and its
slot's latch, in the op's lanes; the scalar stream writes whole registers. A tile's registers also feed the drain (05 R104). -/
def Native.write (n0 : Native) (d : NDest) (v : Value) : Native :=
  if d.ty == .void then n0
  else
    let n := n0.overwrite d
    let n1 := if d.ty == .tile then n else n.writeLatch d v.x
    let num := d.dst.toNat % 2048
    if d.dst.getLsbD 11 then n1
    else if d.ty == .pred then
      { n1 with k := n1.k.put num ((v.lanesSet &&& d.mask) ||| (Tab.getD n1.k 0 num &&& ~~~d.mask)) }
    else if d.stream == 0 then { n1 with s := n1.s.put num (BitVec.ofNat 64 (v.nat 0)) }
    else
      let n2 := n1.setVs d.ty (fun j => (d.names[j]?).getD 0) d.mask v
      if d.ty == .tile then
        n2.setDrain d.half num { ty := .tile, x := Lanes.tab fun k => n2.vLane .tile (fun j => (d.names[j]?).getD 0) k }
      else n2

/-- Is an opcode a matrix product? -/
def isProduct (opc : Nat) : Bool := opc == 0x118 || opc == 0x119

/-- The lanes of a half of an N die. -/
def halfLanes (half : Bool) : LaneMask := if half then 0xFFFF0000#32 else 0x0000FFFF#32

/-- Two values by halves: lanes 0-15 of the first, lanes 16-31 of the second; an absent value stands for nothing. -/
def mergeHalves (lo hi : Value) : Value :=
  if hi.ty == .void then lo else { hi with x := mergeLanes (halfLanes true) hi.x lo.x }

/-- A product's rows of one half on an N die have been computed. The two row halves are written together (08 R184), whichever is
computed first: rows of one half are kept, and feed that half's drain, until the other half has been computed. -/
def Native.writeRows (n : Native) (d : NDest) (v : Value) : Native :=
  match n.rows.find? fun e => e.1.half != d.half && e.1.isHalfOf d with
  | some e =>
    let lo := if d.half then e.2 else v
    let hi := if d.half then v else e.2
    let n1 := n.write { d with half := false, mask := e.1.mask ||| d.mask } (mergeHalves lo hi)
    let whole := (Tab.get? n1.drain 0).bind Prod.snd
    { (match whole with | some t => n1.setDrain true (d.dst.toNat % 2048) t | none => n1) with
      rows := n.rows.filter fun r => r != e }
  | none =>
    let t : Value := { v with x := mergeLanes d.mask v.x (Lanes.tab fun k => n.vLane .tile (fun j => (d.names[j]?).getD 0) k) }
    { n.setDrain d.half (d.dst.toNat % 2048) t with rows := n.rows ++ [(d, v)] }

/-- Is an opcode one of the store stream's with effects beyond registers: a store, an atomic, a combination or a fabric op? -/
def isEffect (opc : Nat) : Bool :=
  opc == 0x0E1 || opc == 0x0E3 || opc == 0x0E5 || (0x0E8 ≤ opc && opc ≤ 0x0F0) || opc == 0x106 || opc == 0x145 || opc == 0x146

/-- The first bundle of an op with effects that this op completes (12 R253). -/
def Native.firstHalf (n : Native) (d : NDest) : Option HalfOp :=
  if d.half then n.halves.find? fun h => h.mate == some d.bun && h.dest.isHalfOf d else none

/-- The result of an op: on an N die the two halves of a product, or of an op with effects, are written together. -/
def Native.writeHalf (n : Native) (narrow : Bool) (d : NDest) (v : Value) : Native :=
  if !narrow then n.write d v
  else if isProduct d.opc then n.writeRows d v
  else
    match n.firstHalf d with
    | some h => { (n.write { h.dest with ty := d.ty, names := d.names } v).write d v with halves := n.halves.erase h }
    | none => n.write d v

/-- A wave's op has its result. -/
def Wave.nativeDefine (x : Wave) (n : Native) (narrow : Bool) (v : Value) : Wave :=
  match n.cur with
  | some d => { x with native := some { n.writeHalf narrow d v with cur := none } }
  | none => x

/-! ## What an op has still to write -/

/-- The ops of a wave that wait, and its reads that have not returned. -/
def Native.inProgress (n : Native) : List NDest := n.cur.toList ++ n.waits.map NWait.dest ++ n.outs.map NOut.dest

/-- The ops whose results, reads or second half are still to come: those in progress, and first halves that wait. -/
def Native.pendingDests (n : Native) : List NDest := n.inProgress ++ n.rows.map Prod.fst ++ n.halves.map HalfOp.dest

/-- A register as a debug stop notes it: it notes no latch. -/
def NReg.num? (r : NReg) : Option Nat :=
  match r with
  | .l _ => none
  | r => some r.num

/-! ## The stream of an op (R101) -/

/-- Is a number in a range? -/
def inRange (lo hi n : Nat) : Bool := lo ≤ n && n ≤ hi

/-- May an op stand in a stream (R101)? -/
def streamOk (k opc : Nat) : Bool :=
  inRange 0x1C0 0x1C1 opc || inRange 0x1C5 0x1C8 opc || opc ≤ 0x01F ||
    (match k with
     | 0 =>
       opc == 0x020 || opc == 0x022 || opc == 0x023 || inRange 0x0C5 0x0C8 opc || inRange 0x100 0x105 opc ||
         inRange 0x110 0x114 opc || inRange 0x128 0x12D opc || inRange 0x134 0x138 opc || inRange 0x13C 0x140 opc ||
         inRange 0x147 0x152 opc || inRange 0x154 0x15D opc || opc == 0x1C9
     | 1 =>
       opc == 0x0E0 || opc == 0x0E2 || opc == 0x0E4 || opc == 0x0E6 || opc == 0x144 || opc == 0x11D || opc == 0x1C2 ||
         opc == 0x1C4
     | 2 =>
       inRange 0x040 0x0B6 opc || (inRange 0x118 0x11E opc && opc != 0x11D) || inRange 0x130 0x132 opc || opc == 0x1C2
     | _ =>
       opc == 0x0E1 || opc == 0x0E3 || opc == 0x0E5 || inRange 0x0E8 0x0F0 opc || opc == 0x145 || opc == 0x146 ||
         opc == 0x106 || opc == 0x1C2 || opc == 0x1C3)

/-- The stream that holds a portable word's op (05 R101): the compute stream for integer and address ops, which may stand in any;
the scalar stream for the words without a native form (DEDUCED, log entry 59). -/
def portableStream (opc : Nat) : Nat := if opc ≤ 0x01F then 2 else ([0, 1, 2, 3].find? fun k => streamOk k opc).getD 0

end Sys2Proof.Machine
end

