-- ==== Sys2Proof/Machine/Operands.lean ====
section
/-!
DEFINITION. The operand forms of portable instructions: which TYP, MOD and operand types an instruction accepts
(04 R74, R75, R82), the active lanes (R76), the pass-through (R77), and how an instruction ends at its place. One
wrapper, `runOp`, runs every instruction whose effect is a function of its operands.
-/

namespace Sys2Proof.Machine

open Sys2Proof

/-- What an operand field takes: nothing, one of some types, or one of some types or nothing (04 R74). -/
inductive Arg where
  | absent
  | need (ts : List Ty)
  | may (ts : List Ty)
deriving DecidableEq, Repr

/-- May an operand be absent? -/
def Arg.optional (a : Arg) : Bool := match a with | .may _ => true | _ => false

/-- What an inactive lane of the defined value holds (04 R77): the default pass-through (operand a when it has the
result type, else zero); zero; a named operand; operand b when it is given and otherwise a; or the defined value itself,
for the values that an instruction gives in every lane. -/
inductive Pass where
  | dflt | zero | opA | opB | opC | optB | every | everyPath
deriving DecidableEq, Repr

/-- The operand form of an instruction at one TYP and MOD. -/
structure Form where
  a : Arg
  b : Arg
  c : Arg
  pred : Bool
  res : Ty
  pass : Pass
deriving DecidableEq, Repr

/-- What an instruction's meaning is given: where its wave runs, its active lanes (04 R76) and the path's mask, its type
and modifier, and its operands; an absent operand is void. -/
structure OpIn where
  x : Site
  mask : LaneMask
  amask : LaneMask
  ty : Ty
  md : Nat
  a : Value
  b : Value
  c : Value
  f : Fields
deriving DecidableEq, Repr

/-- A memory record of an undo entry: lane, size code, address, old bytes (14 R316). -/
abbrev MemRec := Nat × Nat × Word64 × List Byte

/-- How an instruction's meaning ends. -/
inductive OpRes where
  /-- The place is defined and the wave stands after it. -/
  | done (s : State) (v : Value)
  /-- The same for a store or atomic, with the bytes it replaced (14 R316). -/
  | stored (s : State) (v : Value) (recs : List MemRec)
  /-- The wave waits at the place, as its mode says. -/
  | wait (s : State)
  /-- The instruction has itself moved the wave. -/
  | moved (s : State)
  /-- A trap, with the codes of trap(USER), before any effect (04 R83). -/
  | trap (k : Nat) (codes : Lanes Word)
  /-- A page fault at an address, before any effect (13 R267). -/
  | page (s : State) (va : Nat) (wr : Bool)
  /-- Poisoned data was read: an unrecoverable fault of the tile (22 R425). -/
  | poison (s : State)
  /-- The word is illegal for its operands' values: trap(RESERVED) (04 R82). -/
  | reserved
deriving DecidableEq, Repr

/-- Trap codes (04 R83). -/
def trapFormat : OpRes := .trap 2 (Lanes.all 0)
def trapAlign : OpRes := .trap 3 (Lanes.all 0)
def trapBounds : OpRes := .trap 4 (Lanes.all 0)
def trapMalform : OpRes := .trap 5 (Lanes.all 0)
def trapPriv : OpRes := .trap 6 (Lanes.all 0)

/-- An operation: its opcode, the result type that its description gives for each TYP it accepts (06 R140), its operand
form at each legal TYP and MOD, and its effect. -/
structure Op where
  opc : Nat
  res : Nat → Option Ty
  form : Nat → Nat → Option Form
  core : OpIn → State → OpRes

/-- The lanes that exist in a wave (09 R201). -/
def existMask (lanes w : Nat) : LaneMask := LaneMask.tab fun i => decide (32 * w + i < lanes)

/-- Fetch an operand: void when the form takes none and the field is 0; none when the field is illegal (04 R82). -/
def fetchArg (c : Cur) (a : Arg) (r : Ref) : Option Value :=
  match a with
  | .absent => if r == 0 then some Value.void else none
  | .need ts =>
    if r == 0 then none
    else
      match c.ref? r with
      | some v => if ts.contains v.ty then some v else none
      | none => none
  | .may ts =>
    if r == 0 then some Value.void
    else
      match c.ref? r with
      | some v => if ts.contains v.ty then some v else none
      | none => none

/-- The lanes at which a predicate field is 1, all lanes for 0; none when it names no pred (04 R76, R82). -/
def fetchPred (c : Cur) (allowed : Bool) (r : Ref) : Option LaneMask :=
  if r == 0 then some (BitVec.allOnes 32)
  else if !allowed then none
  else
    match c.ref? r with
    | some v => if v.ty == .pred then some (LaneMask.tab fun i => (v.x[i]?.getD 0).getLsbD 0) else none
    | none => none

/-- The operands of an instruction by its form, or none for an illegal field combination (04 R82). -/
def fetchOperands (fm : Form) (f : Fields) (x : Site) (c : Cur) (ty : Ty) : Option OpIn :=
  match fetchArg c fm.a f.a, fetchArg c fm.b f.b, fetchArg c fm.c f.c, fetchPred c fm.pred f.p with
  | some a, some b, some cc, some p =>
    some { x := x, mask := c.mask &&& p, amask := c.mask, ty := ty, md := f.md.toNat, a := a, b := b, c := cc, f := f }
  | _, _, _, _ => none

/-- The value that the place takes: the defined value in active lanes, the pass-through in the others (04 R77), and the
all-zero pattern in lanes that hold no path for the wave's whole life, but for `const`, `constw`, `param` and `id`
(09 R201). -/
def placeValue (fm : Form) (i : OpIn) (v : Value) : Value :=
  let ex := existMask i.x.launch.lanes i.x.w.wav
  let zero : Lanes LaneBits := Lanes.all 0
  let from_ (w : Value) : Lanes LaneBits := if w.ty == v.ty then w.x else zero
  match fm.pass with
  | .every => v
  | .everyPath => { v with x := mergeLanes ex v.x zero }
  | .dflt => { v with x := mergeLanes ex (mergeLanes i.mask v.x (from_ i.a)) zero }
  | .zero => { v with x := mergeLanes ex (mergeLanes i.mask v.x zero) zero }
  | .opA => { v with x := mergeLanes ex (mergeLanes i.mask v.x (from_ i.a)) zero }
  | .opB => { v with x := mergeLanes ex (mergeLanes i.mask v.x (from_ i.b)) zero }
  | .opC => { v with x := mergeLanes ex (mergeLanes i.mask v.x (from_ i.c)) zero }
  | .optB => { v with x := mergeLanes ex (mergeLanes i.mask v.x (from_ (if i.b.ty == .void then i.a else i.b))) zero }

/-! ## The undo log of debug-form code (14 R314-R316) -/

/-- The last value of a place in a frame. -/
def keptOf (f : Frame) (block place : Nat) : Option Value :=
  (f.kept.find? fun e => e.1 == block && e.2.1 == place).map fun e => e.2.2

/-- Keep a place's value, lane by lane: lanes outside the path keep what they held (R314). -/
def keepValue (f : Frame) (block place : Nat) (m : LaneMask) (v : Value) : Frame :=
  let v' : Value :=
    match keptOf f block place with
    | some o => if o.ty == v.ty then { v with x := mergeLanes m v.x o.x } else v
    | none => v
  { f with kept := (block, place, v') :: f.kept.filter fun e => !(e.1 == block && e.2.1 == place) }

/-- The bytes that one value takes in an undo entry (R316): all 32 lanes, a pred as one 4-byte mask. -/
def undoBytes (t : Ty) : Nat := if t == .void then 0 else if t == .pred then 4 else 4 * t.bits

/-- Is a redefined place of this type recorded as HZN (R316)? -/
def undoHznTy (t : Ty) : Bool := t == .frag || t == .tile || t == .fmt

/-- Opcodes whose instructions write a HZN entry (R316). -/
def undoHznOp (opc : Nat) : Bool :=
  (0x0C2 ≤ opc && opc ≤ 0x0C4) || opc == 0x0C8 || ((0x100 ≤ opc && opc ≤ 0x117) && opc != 0x104) || (0x118 ≤ opc && opc ≤ 0x119)
    || (0x128 ≤ opc && opc ≤ 0x12F) || opc == 0x134 || opc == 0x137 || opc == 0x13C || opc == 0x13D
    || (0x144 ≤ opc && opc ≤ 0x14B) || (0x154 ≤ opc && opc ≤ 0x15F)

/-- Log the entry of an instruction that defines its place, before it is defined. -/
def logPlace (x : Wave) (opc : Nat) (v : Value) (recs : List MemRec) : Wave :=
  match x.frames with
  | [] => x
  | f :: r =>
    match f.cur with
    | none => x
    | some c =>
      let p : Point := { func := f.func, block := c.block, vidx := c.place }
      let old := (keptOf f c.block c.place).filter fun o => o.ty != .void
      let hzn := undoHznOp opc || (undoHznTy v.ty && old.isSome)
      let x' :=
        if hzn then x.logUndo .hzn v.ty.code p c.mask 0
        else
          x.logUndo (.step old recs) v.ty.code p c.mask
            ((match old with
              | some o => undoBytes o.ty
              | none => 0) + 24 * recs.length)
      { x' with frames := keepValue f c.block c.place c.mask v :: r }

/-! ## Ending an instruction -/

/-- Must an instruction in progress finish before its wave can land (05 R108)? -/
def Wave.unfinished (x : Wave) : Bool :=
  x.sysReq.isSome ||
    (match x.mode with
     | .mma => true
     | .fab _ _ _ _ => true
     | .launch _ => true
     | .gear => true
     | _ => false)

/-- The places of a wave in the portable form that an op in progress or an outstanding read has still to write, by frame from the base
and place (14 R318). -/
def Wave.outstanding (x : Wave) : List (Nat × Nat) :=
  if x.native.isSome then []
  else
    (if x.unfinished then [(x.frames.length, x.placePoint.vidx)] else []) ++ (x.guse.filter fun e => e.1 != 0) ++
      (if x.vcnt == 0 then [] else x.vuse)

/-- What a debug stop at this tick notes of a partition's waves (14 R318): the places, and of waves in native code the registers, that
have a write outstanding. -/
def State.noteStop (s : State) (d : DebugStop) (ws : List WaveRef) : DebugStop :=
  { d with
    tick := s.tick
    pend := ws.flatMap fun w => match s.wave? w with | some x => x.outstanding.map fun e => (w, e.1, e.2) | none => []
    regs := ws.flatMap fun w =>
      match (s.wave? w).bind Wave.native with
      | some n => ((n.inProgress.flatMap NDest.regs).filterMap NReg.num?).map fun r => (w, r)
      | none => [] }

/-- A wave has run one portable instruction: a debugger's step command counts it, and ends with the last (14 R320). -/
def Wave.countStep (x : Wave) (now : Nat) : Wave :=
  match x.stepLeft with
  | some (n + 1) =>
    if n == 0 then { x with stepLeft := some 0, stepEnd := some (now, x.outstanding), stop := .requested } else { x with stepLeft := some n }
  | _ => x

/-- Define the wave's current place and let it run on after it. -/
def State.completePlace (s : State) (w : WaveRef) (opc : Nat) (v : Value) (recs : List MemRec) : State :=
  match s.site? w with
  | none => s
  | some y =>
    match y.wave.native, y.wave.top? with
    | some n, _ => s.setWave w ({ y.wave.nativeDefine n (narrowDie y.block.die) v with mode := .run } : Wave).refocus
    | none, none => s
    | none, some (f, _) =>
      let x1 := if s.debugFrame f && opc != 0x152 then logPlace y.wave opc v recs else y.wave
      s.setWave w (({ x1.define v with mode := .run } : Wave).countStep s.tick)

/-- A wave completes a progress point: its watchdog count starts anew, compared with the limit now set (09 R213). -/
def State.progress (s : State) (w : WaveRef) : State :=
  match s.launch? w.lid with
  | none => s
  | some l => s.modWave w fun x => { x with wdog := 0, wlim := (s.wdogs[l.ctx]?).getD 16777216 }

/-- This comes next: what an effect causes at once, before anything else of the agenda. -/
def State.raise (s : State) (a : Act) : State := { s with agenda := a :: s.agenda }

/-- The state after an instruction's meaning has ended, at its place. `word` is the instruction's own word, `res` the
type its trapped place would have (06 R140). -/
def settle (s : State) (x : Site) (c : Cur) (m : LaneMask) (opc : Nat) (word : BitVec 64) (res : Ty)
    (pv : Value → Value) (r : OpRes) : State :=
  match r with
  | .done s1 v => s1.completePlace x.w opc (pv v) []
  | .stored s1 v recs => s1.completePlace x.w opc (pv v) recs
  | .wait s1 => s1
  | .moved s1 => s1
  | .trap k codes => s.takeParkTrap x m k codes
  | .page s1 va wr => s1.takePageFault x m va wr
  | .poison s1 => s1.raise (.tileFault x.tile 4)
  | .reserved => s.takeReserved x c word res

/-- The type of a trapped place whose TYP the opcode does not accept (06 R140): TYP 1-11 as named, else void. -/
def fallbackTy (typ : Nat) : Ty := if 1 ≤ typ && typ ≤ 11 then (Ty.ofCode typ).getD .void else .void

/-- The type of the trapped place of an operation's word (06 R140). -/
def Op.resTy (op : Op) (typ : Nat) : Ty := (op.res typ).getD (fallbackTy typ)

/-- The word of an operation and its fields. -/
def Op.word (op : Op) (f : Fields) : BitVec 64 := wordOf (BitVec.ofNat 9 op.opc) f

/-- What an operation does at a wave's current place. -/
def Op.at (op : Op) (f : Fields) (x : Site) (c : Cur) (s : State) : State :=
  let res := op.resTy f.typ.toNat
  match Ty.ofCode f.typ.toNat, op.form f.typ.toNat f.md.toNat with
  | some ty, some fm =>
    match fetchOperands fm f x c ty with
    | some i => settle s x c i.mask op.opc (op.word f) res (placeValue fm i) (op.core i s)
    | none => s.takeReserved x c (op.word f) res
  | _, _ => s.takeReserved x c (op.word f) res

/-- Do something at the place of the wave that issues. -/
def atSite (s : State) (k : Site → Cur → State) : Host.Outcome State Fault Refusal :=
  match s.cur with
  | none => .fault .noWave
  | some w =>
    match s.site? w with
    | none => .fault .noWave
    | some x =>
      match x.wave.top? with
      | none => .fault .noWave
      | some (_, c) => .next (k x c)

/-- Run an operation in the wave that issues. -/
def runOp (op : Op) (f : Fields) (s : State) : Host.Outcome State Fault Refusal := atSite s fun x c => op.at f x c s

/-- Run an instruction whose fields hold no operands: legal or not, its result type, and its effect. -/
def runImm (opc : Nat) (ok : Bool) (res : Ty) (f : Fields) (g : OpIn → State → OpRes) (s : State) :
    Host.Outcome State Fault Refusal :=
  atSite s fun x c =>
    let word := wordOf (BitVec.ofNat 9 opc) f
    if ok then
      let i : OpIn :=
        { x := x, mask := c.mask, amask := c.mask, ty := res, md := f.md.toNat, a := Value.void, b := Value.void,
          c := Value.void, f := f }
      settle s x c c.mask opc word res (fun v => v) (g i s)
    else s.takeReserved x c word res

/-! ## Helpers of the meanings -/

/-- Types by kind. -/
def tyInt : List Ty := [.i32, .n32, .i64, .n64]
def tyInt32 : List Ty := [.i32, .n32]
def tyFlt : List Ty := [.f32, .f16, .bf16]
def tySli : List Ty := [.sli32, .sli16]
def Ty.signed (t : Ty) : Bool := t == .i32 || t == .i64
def Ty.isInt (t : Ty) : Bool := tyInt.contains t
def Ty.isFlt (t : Ty) : Bool := tyFlt.contains t

/-- The TYP codes of types. -/
def codesOf (ts : List Ty) : List Nat := ts.map Ty.code

/-- The result types of an operation whose result has its TYP, for the types it accepts. -/
def resSame (ts : List Ty) (typ : Nat) : Option Ty :=
  match Ty.ofCode typ with
  | some t => if ts.contains t then some t else none
  | none => none

/-- The result type `r` for the types accepted. -/
def resFixed (ts : List Ty) (r : Ty) (typ : Nat) : Option Ty :=
  match Ty.ofCode typ with
  | some t => if ts.contains t then some r else none
  | none => none

/-- A form for an accepted TYP, when the modifier is legal. -/
def formFor (ts : List Ty) (typ : Nat) (ok : Bool) (g : Ty → Form) : Option Form :=
  match Ty.ofCode typ with
  | some t => if ts.contains t && ok then some (g t) else none
  | none => none

/-- A value from a number in each lane. -/
def lanesOf (t : Ty) (f : Fin 32 → Nat) : Value := Value.tab t f

/-- The same number in every lane. -/
def splat (t : Ty) (n : Nat) : Value := Value.tab t fun _ => n

/-- A pred from a test in each lane. -/
def predOf (f : Fin 32 → Bool) : Value := Value.tab .pred fun i => if f i then 1 else 0

/-- An operand in the lowest-numbered lane of the active mask (09, 16 R333), as a number. -/
def OpIn.uni (i : OpIn) (v : Value) : Nat :=
  match i.amask.lowest with
  | some k => v.nat k
  | none => 0

/-- The lane of a value as a signed number of its type. -/
def toInt (t : Ty) (n : Nat) : Int :=
  if t.signed then (if n < 2 ^ (t.bits - 1) then (n : Int) else (n : Int) - (2 ^ t.bits : Nat)) else (n : Int)

/-- Wrap an exact integer to the type's width (04 R87). -/
def wrapTo (t : Ty) (z : Int) : Nat := (z % (2 ^ t.bits : Nat)).toNat

/-- The range of an integer type. -/
def tyMin (t : Ty) : Int := if t.signed then -(2 ^ (t.bits - 1) : Nat) else 0
def tyMax (t : Ty) : Int := if t.signed then (2 ^ (t.bits - 1) : Nat) - 1 else (2 ^ t.bits : Nat) - 1

/-- Clamp to the range of an integer type, and to its bits (04 R87). -/
def satTo (t : Ty) (z : Int) : Nat := wrapTo t (max (tyMin t) (min (tyMax t) z))

/-- Wrap, or saturate. -/
def wrapSat (sat : Bool) (t : Ty) (z : Int) : Nat := if sat then satTo t z else wrapTo t z

/-- The tile of an instruction. -/
def OpIn.tile (i : OpIn) : TileRef := i.x.tile

/-- Change the issuing wave. -/
def OpIn.modWave (i : OpIn) (s : State) (f : Wave → Wave) : State := s.modWave i.x.w f

end Sys2Proof.Machine
end

