-- ==== Sys2Proof/Machine/Flags.lean ====
section
/-!
DEFINITION. The two sticky status values of a wave: IEEE (02 R23) and SLI (03 R45), and how the active lanes' flags
enter them (07 R145).
-/

namespace Sys2Proof.Machine

open Sys2Proof

/-- The IEEE flags as bits (02 R23). -/
def fIV : Nat := 16
def fDZ : Nat := 8
def fOF : Nat := 4
def fUF : Nat := 2
def fIX : Nat := 1

/-- OR flags into the issuing wave's IEEE status. -/
def State.orIeee (s : State) (w : WaveRef) (fl : Nat) : State :=
  s.modWave w fun x => { x with ieee := x.ieee ||| BitVec.ofNat 5 fl }

/-- OR flags into the issuing wave's SLI status. -/
def State.orSli (s : State) (w : WaveRef) (fl : Nat) : State :=
  s.modWave w fun x => { x with sli := x.sli ||| BitVec.ofNat 5 fl }

/-- The flags of the active lanes together. -/
def lanesFlags (m : LaneMask) (g : Fin 32 → Nat) : Nat := m.list.foldl (fun a k => a ||| g k) 0

/-- Define a value from a result and flags in each lane, IEEE flags by the active lanes only (R145). -/
def doneIeee (t : Ty) (i : OpIn) (s : State) (g : Fin 32 → Nat × Nat) : OpRes :=
  .done (s.orIeee i.x.w (lanesFlags i.mask fun k => (g k).2)) (lanesOf t fun k => if i.mask.has k.val then (g k).1 else 0)

/-- The same with SLI flags. -/
def doneSli (t : Ty) (i : OpIn) (s : State) (g : Fin 32 → Nat × Nat) : OpRes :=
  .done (s.orSli i.x.w (lanesFlags i.mask fun k => (g k).2)) (lanesOf t fun k => if i.mask.has k.val then (g k).1 else 0)

end Sys2Proof.Machine
end

