-- ==== Sys2Proof/Machine/Trace.lean ====
section
/-!
DEFINITION. What the part hands to a die's trace engine (21 R413, R414, R416, R421): packets with their ticks, order
and accord references, and the trace mask that a wave follows. The engine itself stands in Machine/TraceOps.lean.
-/

namespace Sys2Proof.Machine

open Sys2Proof

/-- The order of a tile's packets of one tick (R416): tile, partition, slot. -/
def tileOrder (tile part slot : Nat) : Nat := 64 * tile + 32 * part + slot

/-- A block's accord value (R414). -/
def blockAccord (l : Launch) (blk : Nat) : Nat := l.lseq * 2 ^ 32 + blk

/-- A wave's handle without its accord index (R414). -/
def handleLow (wav tile : Nat) : Nat := wav * 128 + tile

/-- Hand over a packet that opens with the wave's handle. -/
def State.emitWave (s : State) (x : Site) (kind : Nat) (rest : List Byte) : State :=
  s.emit x.block.die
    { kind := kind, tick := s.tick, order := tileOrder x.block.tile (x.w.wav % 2) x.wave.slot,
      refs := [(1, 4, blockAccord x.launch x.w.blk)], body := leBytes 2 (handleLow x.w.wav x.block.tile) ++ rest }

/-- A trace mask after a `trc.on` or `trc.off`. -/
def TraceOp.apply (o : TraceOp) (m : BitVec 2) : BitVec 2 := if o.on then m ||| o.kinds else m &&& ~~~o.kinds

/-- What tells the events of one tick apart for the choice of R421: the wave, and the portable point at which it stands. -/
def State.traceSpot (s : State) (w : WaveRef) : List Nat :=
  match s.site? w with
  | some x => [w.lid, w.blk, w.wav, x.wave.point.func, x.wave.point.block, x.wave.point.vidx]
  | none => [w.lid, w.blk, w.wav]

/-- The trace mask that a wave follows (R421): its own changes at once, and those of others after 1,024 ticks. -/
def State.traceMask (s : State) (ctx : Nat) (w : WaveRef) : BitVec 2 :=
  match s.ctx? ctx with
  | none => 0
  | some c =>
    (c.tnext.filter fun o =>
      decide (o.wave = w ∨ o.tick + 1024 ≤ s.tick) || Config.traceEarly s.tick o.tick (s.traceSpot w)).foldl (fun m o => o.apply m)
        c.tmask

/-- Is BM traced for a site's wave? -/
def State.traceBM (s : State) (x : Site) : Bool := (s.traceMask x.launch.ctx x.w).getLsbD 0

/-- Is MK traced for a site's wave? -/
def State.traceMK (s : State) (x : Site) : Bool := (s.traceMask x.launch.ctx x.w).getLsbD 1

/-- The START packet of a wave (R413). -/
def State.emitStart (s : State) (x : Site) (again : Bool) : State :=
  if s.traceBM x then
    let p := x.wave.point
    s.emitWave x 4 (leBytes 2 p.func ++ leBytes 2 p.block ++ leBytes 2 p.vidx ++ leBytes 4 x.wave.mask.toNat ++
      [if again then 1#8 else 0#8])
  else s

/-- The BM or BMU packet of a `brc` (R413). -/
def State.emitBranch (s : State) (x : Site) (f : Frame) (c : Cur) (t1 t0 : LaneMask) : State :=
  if s.traceBM x then
    let at_ := leBytes 2 f.func ++ leBytes 2 c.block
    if t1 != 0 && t0 != 0 then s.emitWave x 5 (at_ ++ leBytes 4 c.mask.toNat ++ leBytes 4 t1.toNat)
    else s.emitWave x 6 (at_ ++ [if t1 != 0 then 1#8 else 0#8])
  else s

/-- The DBG packet of a debug instruction that acts (R413). -/
def State.emitDebug (s : State) (x : Site) (cause : Nat) : State :=
  let p := x.wave.placePoint
  s.emitWave x 11 (leBytes 1 cause ++ leBytes 2 p.func ++ leBytes 2 p.block ++ leBytes 2 p.vidx)

/-- The GEAR packet of a tile's change of divisors or rail (R413). -/
def State.emitGear (s : State) (t : TileRef) (new old : Nat) (fast : Bool) (cause : Nat) : State :=
  s.emit t.die
    { kind := 8, tick := s.tick, order := tileOrder t.tile 0 0, refs := [],
      body := leBytes 1 t.tile ++ leBytes 1 (new + 8 * old + (if fast then 64 else 0)) ++ leBytes 1 cause }

end Sys2Proof.Machine
end

