-- ==== Sys2Proof/Machine/Clock.lean ====
section
/-!
DEFINITION. Gears, rails and engine clocks (10): a tile's edge counts, its effective gear, how a change of gear is
decided and lands, the gear and clock instructions, and the passing of reference ticks.
-/

namespace Sys2Proof.Machine

open Sys2Proof

/-! ## Clocks (R216-R219, R227) -/

/-- The control divisor of a gear (R216). -/
def ctlDiv (g : Nat) : Nat := if g ≤ 1 then 8 else 2

/-- The engine divisor of a gear (R216). -/
def engDiv (g : Nat) : Nat := ([16, 12, 8, 6, 4, 3][g]?).getD 4

/-- Control and engine edges since device start, up to and with a tick (R227). -/
def Clock.ctlAt (c : Clock) (r : Nat) : Nat := c.ctl + (r - c.t0) / c.cdiv
def Clock.engAt (c : Clock) (r : Nat) : Nat := c.eng + (r - c.t0) / c.ediv

/-- The clock from a change edge on (R218, R219): a cycle in progress ends there and counts as a whole one. -/
def Clock.land (c : Clock) (e gd : Nat) (fast : Bool) : Clock :=
  { c with t0 := e, cdiv := ctlDiv gd, ediv := engDiv gd, fast := fast, gd := gd, ctl := c.ctl + ceilDiv (e - c.t0) c.cdiv, eng := c.eng + ceilDiv (e - c.t0) c.ediv, change := none }

/-- The tick of the first control edge strictly after a tick (R230). -/
def Clock.nextCtl (c : Clock) (r : Nat) : Nat := if r < c.t0 then c.t0 else c.t0 + c.cdiv * ((r - c.t0) / c.cdiv + 1)

/-- The release edge of a barrier that completes at T_c (R230, R231): the first control edge strictly after it; none while a rail
stall has yet to end, and at or after the end of one. -/
def Clock.releaseAt (c : Clock) (tc : Nat) : Option Nat :=
  match c.change with
  | some { stallEnd := some _, .. } => none
  | _ => some (c.nextCtl (max tc (c.stalled - 1)))

def State.ctlNow (s : State) (t : TileRef) : Nat := (s.tile t).clock.ctlAt s.tick
def State.engNow (s : State) (t : TileRef) : Nat := (s.tile t).clock.engAt s.tick

/-! ## The tile context word (17 R351) -/

def Tile.act (t : Tile) : Nat := bitsOf t.word.toNat 10 9
def Tile.pri (t : Tile) : Nat := bitsOf t.word.toNat 12 11
def Tile.sec (t : Tile) : Nat := bitsOf t.word.toNat 14 13
def Tile.dual (t : Tile) : Bool := t.word.getLsbD 15
def Tile.share (t : Tile) : Nat := bitsOf t.word.toNat 8 6

/-- The ticks of the running interval, which began at `start`, for which a context has been ACT on a tile (20 R399). -/
def Tile.actTicks (t : Tile) (start now c : Nat) : Nat :=
  Tab.getD t.acts 0 c + if t.act == c then now - max t.actAt start else 0

/-- The tile with another context word, whose ACT is another from now on. -/
def Tile.setWord (t : Tile) (start now : Nat) (w : BitVec 16) : Tile :=
  { t with word := w, acts := t.acts.put t.act (t.actTicks start now t.act), actAt := now }

/-- The tile with another active context. -/
def Tile.setAct (t : Tile) (start now c : Nat) : Tile :=
  t.setWord start now ((t.word &&& 0xF9FF#16) ||| BitVec.ofNat 16 (c % 4 * 512))

/-- The start of the running control interval (20 R394). -/
def State.intervalStart (s : State) : Nat := 56000 * s.interval

/-- The highest effective gear that a tile ran in the running interval (20 R395): one that took effect at this very tick has not yet
run. -/
def Clock.topGear (c : Clock) (start now : Nat) : Nat := if max c.t0 start < now then max c.gmax c.gd else c.gmax

/-- A context's own state on a tile, 4 and 0 before anything has been set (R223). -/
def Tile.ctx (t : Tile) (c : Nat) : TileCtx := Tab.getD t.ctxs TileCtx.reset c
def Tile.setCtx (t : Tile) (c : Nat) (x : TileCtx) : Tile := { t with ctxs := t.ctxs.put c x }

/-- Does the tile have a share for a context (17 R352)? -/
def Tile.hasShare (t : Tile) (c : Nat) : Bool := t.pri == c || (t.dual && t.sec == c)

/-- A tile's partitions, and its resident waves' entries. -/
def Tile.part (t : Tile) (odd : Bool) : Part := if odd then t.odd else t.even
def Tile.setPart (t : Tile) (odd : Bool) (p : Part) : Tile := if odd then { t with odd := p } else { t with even := p }
def Part.all (p : Part) : List Entry := p.active ++ p.pending
def Tile.waves (t : Tile) : List WaveRef := (t.even.all ++ t.odd.all).map Entry.wave

/-! ## The effective gear (R221) -/

/-- Gr of R221: min(Gp, H), Gp the requested gear as a missing grant leaves it, and H the lowest hold of the active context on the
tile. -/
def State.gearGr (s : State) (t : TileRef) : Nat :=
  let x := s.tile t
  let req := (x.ctx x.act).gear
  let gp := if req == 5 && !x.clock.grant then 4 else req
  let hs := x.clock.holds.filter fun h =>
    match s.launch? h.1 with
    | some l => l.ctx == x.act
    | none => false
  hs.foldl (fun g h => min g h.2.2) gp

/-- Gd = min(Gr, C) and the rail of R221: the rail is that of Gr, which no throttle changes. -/
def State.effGear (s : State) (t : TileRef) : Nat × Bool :=
  let gr := s.gearGr t
  (min gr (s.tile t).clock.cap, 2 ≤ gr)

/-- The cause that a change's packet names (21 R413): context switch, throttle, hold, grant, `gear`. -/
def firstCause (cs : List Nat) : Nat :=
  if cs.contains 4 then 4 else if cs.contains 1 then 1 else if cs.contains 3 then 3 else if cs.contains 2 then 2 else 0

/-- Let the waves of a tile that wait for the change edge go on (R225). -/
def State.wakeGear (s : State) (t : TileRef) : State :=
  (s.tile t).waves.foldl (fun s w =>
    match s.wave? w with
    | some x => (x.modes.filter fun m => m == .gear).foldl (fun s _ =>
        (s.focusOn w fun m _ => m == .gear).completePlace w 0x134 Value.void []) s
    | none => s) s

/-- Decide the tile's gear anew after a change of an input of R221 (R218, R220). A change that the new inputs take back
before its boundary is dropped, and a wave that waits for its edge goes
on. -/
def State.decideGear (s : State) (t : TileRef) (cause : Nat) : State :=
  let x := s.tile t
  let c := x.clock
  let same := s.effGear t == (c.gd, c.fast)
  match c.change with
  | none =>
    if same then s.setTile t { x with clock := { c with capWas := c.cap } }
    else
      let ch : GearChange :=
        { bound := 64 * (s.tick / 64 + 1), stallEnd := none, tgt := c.gd, tfast := c.fast, tcause := 0, tthr := false,
          causes := [cause] }
      s.setTile t { x with clock := { c with change := some ch } }
  | some ch =>
    if ch.stallEnd.isNone && same then (s.setTile t { x with clock := { c with change := none, capWas := c.cap } }).wakeGear t
    else s.setTile t { x with clock := { c with change := some { ch with causes := ch.causes ++ [cause] } } }

/-- Does the change of the cap since the running divisors were set change the divisors that take effect (R222)? Each gear has
divisors of its own. -/
def State.throttled (s : State) (t : TileRef) : Bool :=
  let gr := s.gearGr t
  let c := (s.tile t).clock
  min gr c.cap != min gr c.capWas

/-- A change of a tile's divisors or rail at its change edge (R218), with its packet; a throttle that changes the
divisors is counted (R222). -/
def State.landGear (s : State) (t : TileRef) (e gd : Nat) (fast : Bool) (cause : Nat) (thr : Bool) : State :=
  let x := s.tile t
  let s1 := s.emitGear t gd x.clock.gd fast cause
  s1.setTile t { x with clock := { x.clock.land e gd fast with capWas := x.clock.cap, gmax := x.clock.topGear s.intervalStart e },
                        throttles := if thr && !s.tileDead t then (x.throttles + 1) % 2 ^ 64 else x.throttles }

/-- GEAR_CHANGE_EDGE (R218): at the boundary, the gear that stands there takes effect, begins its rail stall, or is the
one already running. -/
def execGearChangeEdge (t : TileRef) (s : State) : Host.Outcome State Fault Refusal :=
  let x := s.tile t
  match x.clock.change with
  | some ch =>
    if ch.stallEnd.isNone && ch.bound ≤ s.tick then
      let (gd, fast) := s.effGear t
      if (gd, fast) == (x.clock.gd, x.clock.fast) then
        .next ((s.setTile t { x with clock := { x.clock with change := none, capWas := x.clock.cap } }).wakeGear t)
      else if fast == x.clock.fast then .next ((s.landGear t ch.bound gd fast (firstCause ch.causes) (s.throttled t)).wakeGear t)
      else
        let ch' : GearChange :=
          { ch with stallEnd := some (ch.bound + 392), tgt := gd, tfast := fast, tcause := firstCause ch.causes,
                    tthr := s.throttled t, causes := [] }
        .next (s.setTile t { x with clock := { x.clock with change := some ch', capWas := x.clock.cap } })
    else .next s
  | none => .next s

/-- RAIL_CHANGE_END (R218, R220, R231): the stall ends. When the gear decided anew is the one that ran before, the old
clock goes on; otherwise the stalled change lands, and a gear decided meanwhile has its own boundary. -/
def execRailChangeEnd (t : TileRef) (s : State) : Host.Outcome State Fault Refusal :=
  let x := s.tile t
  match x.clock.change with
  | some ch =>
    match ch.stallEnd with
    | some e =>
      if e ≤ s.tick then
        if s.effGear t == (x.clock.gd, x.clock.fast) then
          .next ((s.setTile t { x with clock := { x.clock with change := none, capWas := x.clock.cap, stalled := e } }).wakeGear t)
        else
          let s1 := s.landGear t e ch.tgt ch.tfast ch.tcause ch.tthr
          let s2 := s1.modTile t fun y => { y with clock := { y.clock with stalled := e, capWas := x.clock.capWas } }
          .next ((s2.decideGear t (firstCause ch.causes)).wakeGear t)
      else .next s
    | none => .next s
  | none => .next s

/-! ## Gear and clock instructions (R224-R229) -/

/-- A form of the scalar stream without a predicate: one TYP, and a result that every lane of the wave has. -/
def ctlForm (t : Nat) (ty : Ty) (ok : Bool) (a b c : Arg) : Option Form :=
  formFor [ty] t ok fun T => { a := a, b := b, c := c, pred := false, res := T, pass := .everyPath }

/-- A result that is the same in every lane. -/
def doneAll (s : State) (t : Ty) (n : Nat) : OpRes := .done s (splat t n)

/-- The place defined as void. -/
def doneVoid (s : State) : OpRes := .done s Value.void

/-- Change the state of the issuing wave's context on its tile. -/
def OpIn.modTileCtx (i : OpIn) (s : State) (g : TileCtx → TileCtx) : State :=
  s.modTile i.tile fun x => x.setCtx i.x.launch.ctx (g (x.ctx i.x.launch.ctx))

/-- A wave's place in the order of requests of one control cycle (R220): even partition before odd, lower slot first. -/
def Site.gearOrder (x : Site) : Nat := 16 * (x.w.wav % 2) + x.wave.slot

/-- Set the requested gear of a wave's context on its tile (R220, R225). Of requests in one control cycle the one that comes last in
their order stands. While the tile leaves the wave's context (17 R360) the request is only set: what is decided at the landing is the other
context's gear. -/
def OpIn.requestGear (i : OpIn) (s : State) : State :=
  let now := s.ctlNow i.tile
  let outdone := match (s.tile i.tile).lastGear with | some (c, o) => c == now && i.x.gearOrder < o | none => false
  if outdone then s
  else
    let s1 := (i.modTileCtx s fun c => { c with gear := i.md % 8 }).modTile i.tile fun x =>
      { x with lastGear := some (now, i.x.gearOrder) }
    let leaving :=
      match (s.tile i.tile).switch with
      | some w => w.landed.isNone && (s.tile i.tile).act == i.x.launch.ctx
      | none => false
    if leaving then s1 else s1.decideGear i.tile 0

/-- `gear` (R225): without a change pending, `.w` waits for nothing. -/
def coreGear (i : OpIn) (s : State) : OpRes :=
  let s1 := i.requestGear s
  if 8 ≤ i.md && ((s1.tile i.tile).clock.change).isSome then .wait (i.modWave s1 fun w => { w with mode := .gear })
  else doneVoid s1

def opGear : Op :=
  { opc := 0x134, res := resFixed [.void] .void, core := coreGear
    form := fun t m => ctlForm t .void (m < 16 && m % 8 ≤ 5) .absent .absent .absent }

/-- The word of `gear.rd` (R226). -/
def State.gearWord (s : State) (t : TileRef) (ctx : Nat) : Nat :=
  let x := s.tile t
  let gr := s.gearGr t
  let req := (x.ctx ctx).gear
  let gp := if (x.ctx x.act).gear == 5 && !x.clock.grant then 4 else (x.ctx x.act).gear
  let bit (b : Bool) (n : Nat) := if b then 2 ^ n else 0
  req + 8 * (s.effGear t).1 + bit x.clock.fast 6 + bit (x.clock.cap < gr) 7 + bit x.clock.grant 8 + bit (gr < gp) 9 +
    bit x.clock.change.isSome 10 + 2 ^ 16 * x.clock.cdiv + 2 ^ 21 * x.clock.ediv

def opGearRd : Op :=
  { opc := 0x135, res := resFixed [.n32] .n32
    form := fun t m => ctlForm t .n32 (m == 0) .absent .absent .absent
    core := fun i s => doneAll s .n32 (s.gearWord i.tile i.x.launch.ctx) }

/-- The reading of `clk` (R227). -/
def State.clkRead (s : State) (t : TileRef) (kind : Nat) : Nat :=
  match kind with
  | 0 => s.tick
  | 1 => s.ctlNow t
  | _ => s.engNow t

def opClk : Op :=
  { opc := 0x136, res := resFixed [.n64] .n64
    form := fun t m => ctlForm t .n64 (m ≤ 2) .absent .absent .absent
    core := fun i s => doneAll s .n64 (s.clkRead i.tile i.md) }

/-- `pace` (R228). -/
def corePace (i : OpIn) (s : State) : OpRes :=
  let gap := i.uni i.a
  if 65535 < gap then trapBounds
  else
    doneVoid (i.modTileCtx s fun c =>
      match i.md with
      | 0 => { c with pcpy := gap }
      | 1 => { c with pkv := gap }
      | 2 => { c with pmma := gap }
      | _ => { c with pfab := gap })

def opPace : Op :=
  { opc := 0x137, res := resFixed [.void] .void, core := corePace
    form := fun t m => ctlForm t .void (m ≤ 3) (.need [.n32]) .absent .absent }

/-- `boost.req` and `boost.rel` (R229). -/
def opBoost : Op :=
  { opc := 0x138, res := resFixed [.void] .void
    form := fun t m => ctlForm t .void (m ≤ 1) .absent .absent .absent
    core := fun i s => doneVoid (i.modTileCtx s fun c => { c with boost := i.md == 0 }) }

def execGear (f : Fields) (s : State) : Host.Outcome State Fault Refusal := runOp opGear f s
def execGearRd (f : Fields) (s : State) : Host.Outcome State Fault Refusal := runOp opGearRd f s
def execClk (f : Fields) (s : State) : Host.Outcome State Fault Refusal := runOp opClk f s
def execPace (f : Fields) (s : State) : Host.Outcome State Fault Refusal := runOp opPace f s
def execBoostReq (f : Fields) (s : State) : Host.Outcome State Fault Refusal := runOp opBoost f s
def execBoostRel (f : Fields) (s : State) : Host.Outcome State Fault Refusal := runOp opBoost f s

/-! ## Paced queues (R228) -/

/-- May a command of a paced queue start: is the gap since the last start over? -/
def State.paceOk (s : State) (t : TileRef) (q gap : Nat) : Bool :=
  match Tab.get? (s.tile t).starts q with
  | some l => decide (l + gap ≤ s.engNow t)
  | none => true

/-- Note the start of a command of a paced queue. -/
def State.noteStart (s : State) (t : TileRef) (q : Nat) : State :=
  s.modTile t fun x => { x with starts := x.starts.put q (s.engNow t) }

/-- The pacing registers of the issuing wave's context on its tile. -/
def OpIn.gaps (i : OpIn) (s : State) : TileCtx := (s.tile i.tile).ctx i.x.launch.ctx

/-! ## The passing of time -/

/-- Is a mode that of a progress point whose condition is unmet (09 R212)? -/
def WaveMode.isProgress (m : WaveMode) : Bool :=
  match m with
  | .barB => true
  | .barG _ _ _ => true
  | .wait _ _ _ _ _ _ => true
  | .cdrain _ _ => true
  | .ended => true
  | .released => true
  | _ => false

/-- Is a wave at a progress point whose condition is unmet (09 R212, R213)? -/
def Wave.atProgress (x : Wave) : Bool := x.modes.any WaveMode.isProgress

/-- The number of a tile in the table of tiles. -/
def tileOfKey (k : Nat) : TileRef := { die := k / 128, tile := k % 128 }

/-- Do a wave's control cycles count for its watchdog (09 R213)? -/
def Site.counts (x : Site) (t : Tile) (p : Part) : Bool :=
  x.block.phase == .resident && x.wave.stop != .landed && !x.wave.atProgress && p.dbg.isNone &&
    (!t.dual || t.act == x.launch.ctx)

/-- Count the control cycles of a partition's active waves between two ticks (09 R213). -/
def State.countPart (s : State) (t : Tile) (p : Part) (n : Nat) : State :=
  p.active.foldl (fun s e =>
    match s.site? e.wave with
    | some x => if x.counts t p then s.modWave e.wave fun w => { w with wdog := w.wdog + n } else s
    | none => s) s

/-- Reference ticks pass, with no change edge among them. -/
def State.passTime (s : State) (n : Nat) : State :=
  let s1 := s.tiles.foldl (fun s e =>
    let t := e.2
    let k := t.clock.ctlAt (s.tick + n) - t.clock.ctlAt s.tick
    (s.countPart t t.even k).countPart t t.odd k) s
  { s1 with tick := s.tick + n }

/-- The tick at which a tile's pending change is due. -/
def Clock.due (c : Clock) : Option Nat :=
  match c.change with
  | none => none
  | some ch => some (ch.stallEnd.getD ch.bound)

/-- The first tile whose change is due, by a tick. -/
def State.dueTile (s : State) (by_ : Nat) : Option (Nat × TileRef) :=
  s.tiles.foldl (fun best e =>
    match e.2.clock.due with
    | none => best
    | some d =>
      if by_ < d then best
      else
        match best with
        | some (d', _) => if d < d' then some (d, tileOfKey e.1) else best
        | none => some (d, tileOfKey e.1)) none

/-- Reference ticks pass up to the start of the next control interval, at which the power manager decides (20 R394) before they pass
further, on what its sensors measure when the world has given no reading. -/
def State.toInterval (s : State) (n : Nat) : State :=
  let e := 56000 * (s.interval + 1)
  if s.tick + n ≤ e then s.passTime n
  else
    let s1 := s.passTime (e - s.tick)
    { s1 with agenda := .interval :: .advance (n - (e - s.tick)) :: s1.agenda }

/-- Reference ticks pass (00 R6). A change edge on the way comes first, at its own tick (R218), and so does the start of a control
interval (20 R394). -/
def State.advance (s : State) (n : Nat) : State :=
  match s.dueTile (min (s.tick + n) (max s.tick (56000 * (s.interval + 1)))) with
  | none => s.toInterval n
  | some (d, t) =>
    let k := d - s.tick
    let s1 := s.passTime k
    let edge : Instr :=
      match (s.tile t).clock.change with
      | some ch => if ch.stallEnd.isSome then .railChangeEnd t else .gearChangeEdge t
      | none => .gearChangeEdge t
    { s1 with agenda := .event edge :: .advance (n - k) :: s1.agenda }

end Sys2Proof.Machine
end

