-- ==== Sys2Proof/Machine/Barrier.lean ====
section
/-!
DEFINITION. Group barriers (10 R230, R231; 13 R279): live waves and ended blocks, a block's group slots, arrivals, holds, and the
completion of a generation with its time.
-/

namespace Sys2Proof.Machine

open Sys2Proof

/-- Is a wave live: not ended? -/
def Wave.live (x : Wave) : Bool := x.mode != .ended && x.mode != .released

/-- Has a block ended (14 R305, 16 R332)? A killed or unfitting block has no live wave either. -/
def Block.ended (b : Block) : Bool := b.phase == .ended || b.waves.all fun x => !x.live

/-- Has a block of a launch ended? A block not yet started has not. -/
def Launch.blockEnded (l : Launch) (blk : Nat) : Bool :=
  match Tab.get? l.blocks blk with
  | some b => b.ended
  | none => false

/-- The group that an instruction names, or trap(BOUNDS) (R279). -/
def groupOf (l : Launch) (blk g : Nat) : Option Group :=
  match l.groups[g]? with
  | some gr => if gr.kind != 0 && gr.members.contains blk then some gr else none
  | none => none

/-- A block's slot of a group. -/
def Block.slotOf (b : Block) (g : Nat) : GroupSlot :=
  (b.slots.find? fun e => e.g == g).getD { g := g, arrived := false, gens := 0, passed := [] }

def Block.setSlot (b : Block) (e : GroupSlot) : Block :=
  { b with slots := if b.slots.any (fun x => x.g == e.g) then b.slots.map (fun x => if x.g == e.g then e else x)
                    else b.slots ++ [e] }

/-- Does a wave wait at a barrier of a group? -/
def Wave.atBarG (x : Wave) (g : Nat) : Bool :=
  match x.mode with
  | .barG h _ _ => h == g
  | _ => false

/-- A member that waits: it has arrived in the open generation. -/
def Launch.waiting (l : Launch) (g blk : Nat) : Bool :=
  match Tab.get? l.blocks blk with
  | some b => !b.ended && (b.slotOf g).arrived && (b.slotOf g).gens == Tab.getD l.gens 0 g
  | none => false

/-- A tile's holds are these; its gear is decided anew when its Gr changes (10 R231). -/
def State.setHolds (s : State) (t : TileRef) (hs : List (Nat × Nat × Nat)) : State :=
  let s1 := s.modTile t fun x => { x with clock := { x.clock with holds := hs } }
  if s1.gearGr t == s.gearGr t then s1 else s1.decideGear t 3

/-- The holds of a tile but those of a group's barrier. -/
def State.otherHolds (s : State) (t : TileRef) (lid g : Nat) : List (Nat × Nat × Nat) :=
  (s.tile t).clock.holds.filter fun e => !(e.1 == lid && e.2.1 == g)

/-- Set the hold of a group's barrier on a tile. -/
def State.hold (s : State) (t : TileRef) (lid g h : Nat) : State := s.setHolds t ((lid, g, h) :: s.otherHolds t lid g)

/-- Drop the hold of a group's barrier from a tile. -/
def State.unhold (s : State) (t : TileRef) (lid g : Nat) : State := s.setHolds t (s.otherHolds t lid g)

/-- Does a tile hold its gear for a group's barrier? -/
def State.groupHeld (s : State) (lid g : Nat) : Bool := s.tiles.any fun e => e.2.clock.holds.any fun h => h.1 == lid && h.2.1 == g

/-- A group's barrier has completed, at T_c: every tile drops its hold (10 R231). -/
def State.dropBarHolds (s : State) (lid g : Nat) : State :=
  if s.groupHeld lid g then s.tiles.foldl (fun s e => s.unhold (tileOfKey e.1) lid g) s else s

/-- A block's gear holds leave its tile. -/
def State.dropHolds (s : State) (t : TileRef) (lid : Nat) (b : Block) : State :=
  b.slots.foldl (fun s e => if e.arrived then s.unhold t lid e.g else s) s

/-- A group's barrier. -/
def Launch.bar (l : Launch) (g : Nat) : BarRec := Tab.getD l.bars { tc := 0, hb := none } g

/-- A block's arrival by `bar.g.lv` (10 R231): it reports its tile's Gr, and the tiles of all waiting members, its own among them, take
the lowest gear reported. -/
def State.arriveLv (s : State) (b : BlockRef) (g : Nat) : State :=
  match s.launch? b.lid, s.block? b with
  | some l, some blk =>
    match l.groups[g]? with
    | none => s
    | some gr =>
      let tiles := (gr.members.filter fun m => l.waiting g m).filterMap fun m =>
        (Tab.get? l.blocks m).bind fun x => if x.phase == .resident || x.phase == .parked then some x.tileRef else none
      let h := min (s.gearGr blk.tileRef) ((l.bar g).hb.getD 6)
      tiles.foldl (fun s t => s.hold t b.lid g h) (s.setLaunch b.lid { l with bars := l.bars.put g { l.bar g with hb := some h } })
  | _, _ => s

/-- A block that waits at a barrier with a hold has come to a tile: the tile takes the hold. -/
def State.holdAgain (s : State) (b : BlockRef) : State :=
  match s.launch? b.lid, s.block? b with
  | some l, some x =>
    x.slots.foldl (fun s e =>
      match (l.bar e.g).hb with
      | some h => if l.waiting e.g b.blk then s.hold x.tileRef b.lid e.g h else s
      | none => s) s
  | _, _ => s

/-- Has a member arrived in the open generation, or ended? -/
def Launch.joined (l : Launch) (g blk : Nat) : Bool := l.blockEnded blk || l.waiting g blk

/-- The dies on which a group's live members stand; a member that is swapped out counts on the die where it last stood (DESIGN CHOICE, log
entry 42). -/
def Launch.groupDies (l : Launch) (gr : Group) : List Nat :=
  (gr.members.filterMap fun m => (Tab.get? l.blocks m).bind fun x => if x.ended then none else some x.die).eraseDups

/-- The generation of a group completes when every member has arrived in it or has ended (13 R279): T_c is 21 ticks later when every
member is on one die, and 45 otherwise (10 R230). -/
def State.completeBar (s : State) (lid g : Nat) : State :=
  match s.launch? lid with
  | none => s
  | some l =>
    match l.groups[g]? with
    | none => s
    | some gr =>
      if gr.members.any (l.waiting g) && gr.members.all (l.joined g) then
        let tc := s.tick + (if (l.groupDies gr).length ≤ 1 then 21 else 45)
        s.setLaunch lid { l with gens := l.gens.put g (Tab.getD l.gens 0 g + 1), bars := l.bars.put g { tc := tc, hb := none } }
      else s

/-- The block arrives once every live wave of it stands at a barrier of the group (R279). -/
def State.arrive (s : State) (b : BlockRef) (g : Nat) : State :=
  match s.block? b with
  | none => s
  | some blk =>
    let e := blk.slotOf g
    if !e.arrived && blk.waves.any Wave.live && blk.waves.all fun x => !x.live || x.atBarG g then
      let lv := blk.waves.any fun x => match x.mode with | .barG h v _ => h == g && v | _ => false
      let s1 := s.setBlock b (blk.setSlot { e with arrived := true, passed := [] })
      (if lv then s1.arriveLv b g else s1).completeBar b.lid g
    else s

/-- A wave of a block has ended (13 R279): the others may have made the block arrive, and the end of a block may complete
generations that wait for it. -/
def State.afterWaveEnd (s : State) (b : BlockRef) : State :=
  match s.launch? b.lid, s.block? b with
  | some l, some x =>
    let gs := List.range l.groups.length
    if x.ended then gs.foldl (fun s g => s.completeBar b.lid g) s
    else (gs.filter fun g => x.waves.any fun w => w.atBarG g).foldl (fun s g => s.arrive b g) s
  | _, _ => s

end Sys2Proof.Machine
end

