-- ==== Sys2Proof/Machine/Sched.lean ====
section
/-!
DEFINITION. The two-level scheduler of a tile's partitions (09 R209-R215): active places, ready pending waves, swaps,
and when a wave's next instruction may issue.
-/

namespace Sys2Proof.Machine

open Sys2Proof

/-- A pending entry that may enter the active set (R210, R215; 17 R351): ready, not admitted in this control cycle, under no stop
request, of a block that is resident, and of the tile's active context, with no switch of contexts in progress (17 R353). -/
def State.mayEnter (s : State) (t : Tile) (now : Nat) (e : Entry) : Bool :=
  e.rt.isSome && e.from_ ≤ now && t.switch.isNone &&
    (match s.site? e.wave with
     | some x => x.block.phase == .resident && x.wave.stop == .none && (!t.dual || t.act == x.launch.ctx)
     | none => false)

/-- The ready pending entry with the smallest RT, ties to the lowest slot (R210). -/
def State.oldestReady (s : State) (t : Tile) (now : Nat) (es : List Entry) : Option Entry :=
  (es.filter (s.mayEnter t now)).foldl (fun best e =>
    match best with
    | none => some e
    | some b => if e.rt.getD 0 < b.rt.getD 0 || (e.rt == b.rt && e.slot < b.slot) then some e else best) none

/-- Move an entry into the active set, to issue four control cycles later, its ages 0 (R210, R211). -/
def Part.enter (p : Part) (e : Entry) (now : Nat) : Part :=
  { p with
    active := p.active ++ [{ e with from_ := now + 4, rt := none, ages := [0, 0, 0, 0] }]
    pending := p.pending.filter fun x => x.wave != e.wave }

/-- Fill the free active places of a partition (R210). The fuel is the number of places. -/
def fillPlaces (s : State) (t : Tile) (now : Nat) : Nat → Part → Part
  | 0, p => p
  | n + 1, p =>
    if 8 ≤ p.active.length || p.dbg.isSome then p
    else
      match s.oldestReady t now p.pending with
      | none => p
      | some e => fillPlaces s t now n (p.enter e now)

/-- Fill the free places of both partitions of a tile. -/
def State.refill (s : State) (t : TileRef) : State :=
  let x := s.tile t
  let now := s.ctlNow t
  s.setTile t { x with even := fillPlaces s x now 8 x.even, odd := fillPlaces s x now 8 x.odd }

/-- Fill the free places of every tile, as each control cycle does. -/
def State.refillAll (s : State) : State := s.tiles.foldl (fun s e => s.refill (tileOfKey e.1)) s

/-- Take a wave out of its partition's sets and fill the place (R210). -/
def Part.drop (p : Part) (w : WaveRef) : Part :=
  { p with active := p.active.filter fun e => e.wave != w, pending := p.pending.filter fun e => e.wave != w }

def State.dropEntry (s : State) (t : TileRef) (w : WaveRef) : State :=
  (s.modTile t fun x => { x with even := x.even.drop w, odd := x.odd.drop w }).refill t

/-- Clear the bypass latches of a wave (05 R98). -/
def Wave.clearLatches (x : Wave) : Wave :=
  match x.native with
  | some n => { x with native := some { n with latch := [] } }
  | none => x

/-- Exchange an active wave for the oldest ready pending one (R210): it becomes ready now, or blocked. -/
def State.swapPlace (s : State) (t : TileRef) (odd : Bool) (w : WaveRef) (ready : Bool) : State :=
  let x := s.tile t
  let p := x.part odd
  match p.active.find? (fun e => e.wave == w), s.oldestReady x (s.ctlNow t) p.pending with
  | some a, some e =>
    let now := s.ctlNow t
    let p1 := { p with active := p.active.filter fun y => y.wave != w }
    let p2 := p1.enter e now
    let p3 := { p2 with pending := p2.pending ++ [{ a with from_ := now, rt := if ready then some now else none }] }
    (s.setTile t (x.setPart odd p3)).modWave w Wave.clearLatches
  | _, _ => s

/-- A blocked pending wave becomes ready now (R210). -/
def Part.wake (p : Part) (w : WaveRef) (now : Nat) : Part :=
  { p with pending := p.pending.map fun e => if e.wave == w && e.rt.isNone then { e with rt := some now } else e }

/-- The dependence that a wave was blocked on has resolved (R210). -/
def State.wakeEntry (s : State) (w : WaveRef) : State :=
  match s.block? w.block with
  | none => s
  | some b =>
    let t := b.tileRef
    let now := s.ctlNow t
    (s.modTile t fun x => { x with even := x.even.wake w now, odd := x.odd.wake w now }).refill t

/-- A native wave ends when all four streams have halted (05 R91), and nothing that it has issued waits. -/
def State.endStopped (s : State) (w : WaveRef) : State :=
  match s.site? w with
  | none => s
  | some x =>
    match x.wave.native with
    | none => s
    | some n =>
      if n.seqs.all Seq.stopped && n.waits == [] && n.cur.isNone && n.leave.isNone && x.wave.mode == .run then
        ((s.setWave w { x.wave with frames := [], mode := .ended, native := none }).dropEntry x.tile w).afterWaveEnd w.block
      else s

/-- A waiting wave's instruction completes: its place is defined, and it may go on. -/
def State.release (s : State) (w : WaveRef) (opc : Nat) (v : Value) : State :=
  (s.completePlace w opc v []).endStopped w

/-- The value of a place that a waiting instruction defines, with zero in lanes that hold no path (R201). -/
def Site.inLanes (x : Site) (v : Value) : Value :=
  { v with x := mergeLanes (existMask x.launch.lanes x.w.wav) v.x (Lanes.all 0) }

/-- WATCHDOG (R213): the count has reached the limit it is compared with; the wave takes trap(WATCHDOG) at its safe
point and starts a new count. For a wave in native code it is a stop request (05 R108): the record's point and mask are those of the
safe point at which it lands. -/
def execWatchdog (w : WaveRef) (s : State) : Host.Outcome State Fault Refusal :=
  match s.site? w with
  | none => .next s
  | some x =>
    if x.wave.wlim ≤ x.wave.wdog && x.block.phase == .resident && x.wave.stop != .landed && x.wave.owed.isNone && !x.wave.atProgress &&
        (x.wave.native.isSome || !x.wave.unfinished) then
      let s1 :=
        if x.wave.native.isSome then s.stopWith x { x.record x.wave.placePoint x.wave.mask with kind := 2, trapk := 8 } .park
        else s.takeParkTrap x x.wave.mask 8 (Lanes.all 0)
      .next (s1.modWave w fun y => { y with wdog := 0, wlim := (s.wdogs[x.launch.ctx]?).getD 16777216 })
    else .next s

/-- May a wave's next instruction issue, when one of these entries is its own: past its swap, that waits for nothing and has not
landed, of a resident block, of the tile's active context, with its partition and its tile running (R209-R215; 10 R218; 17 R351)? -/
def State.canIssueFrom (s : State) (x : Site) (es : List Entry) : Bool :=
  let t := s.tile x.tile
  let p := t.part (x.w.wav % 2 == 1)
  let stalled := match t.clock.change with | some ch => ch.stallEnd.isSome | none => false
  s.started && x.block.phase == .resident && x.wave.mode == .run && x.wave.owed.isNone &&
    (x.wave.stop == .none || x.wave.sysReq.isSome) && (p.dbg.isNone || x.wave.stepLeft.isSome || x.wave.sysReq.isSome) &&
    !stalled && (!t.dual || t.act == x.launch.ctx) &&
    es.any fun e => e.wave == x.w && e.from_ ≤ s.ctlNow x.tile

/-- May a wave's next instruction issue: as an active wave? -/
def State.canIssue (s : State) (x : Site) : Bool := s.canIssueFrom x ((s.tile x.tile).part (x.w.wav % 2 == 1)).active

end Sys2Proof.Machine
end

