-- ==== Sys2Proof/Machine/Control.lean ====
section
/-!
DEFINITION. Control flow (06 R129-R143): branches, calls and returns, `exit`, `yield`, `trap`, and the handler's
`trapinfo` and `tret`.
-/

namespace Sys2Proof.Machine

open Sys2Proof

/-- The parameter types of a block of the function that a frame runs. -/
def State.paramsOf (s : State) (f : Frame) (b : Nat) : Option (List (BitVec 4)) :=
  match s.code? f with
  | none => none
  | some t => (t.blocks[b]?).map BlockCode.params

/-- The values that argument references name, when each is of its parameter's type (04 R69, R82). -/
def argValues (c : Cur) : List (BitVec 4) → List Ref → Option (List Value)
  | [], [] => some []
  | t :: ts, r :: rs =>
    if r == 0 then none
    else
      match c.ref? r with
      | none => none
      | some v =>
        if v.ty.code == t.toNat && v.ty != .void then (argValues c ts rs).map (v :: ·) else none
  | _, _ => none

/-- The path that carries arguments into a block (R131). -/
def mkPath (b : Nat) (m : LaneMask) (vs : List Value) : Path :=
  { block := b, mask := m, params := vs.map fun v => v.masked m }

/-! ## The undo log of control events (14 R316) -/

/-- Store a path's parameters in a debug-form frame, with the values they overwrite (14 R314, R316). -/
def keepParams (f : Frame) (p : Path) : Frame × List Value :=
  ((List.range p.params.length).zip p.params).foldl (fun a e =>
    (keepValue a.1 p.block e.1 p.mask e.2,
     a.2 ++ match keptOf f p.block e.1 with | some o => [o] | none => [])) (f, [])

/-- Log a `br` or `brc` that forms these paths, in a debug-form frame. -/
def Wave.logBranch (x : Wave) (f : Frame) (c : Cur) (ps : List Path) : Wave :=
  let g := ps.foldl (fun a p => let k := keepParams a.1 p; (k.1, a.2 ++ k.2)) (f, [])
  let pt : Point := { func := f.func, block := c.block, vidx := c.place }
  (x.logUndo (.ctl f.pending f.cur f.kept g.2) 0 pt c.mask
    (8 * (f.pending.length + 1) + (g.2.map fun o => undoBytes o.ty).sum)).setTop g.1

/-- Keep what a control event has defined in the top frame of a debug-form wave (14 R314): the parameters of a callee that it has
entered, or the value that a frame which has closed has returned. `before`: the number of frames before the event. -/
def Wave.keepMoved (y : Wave) (before : Nat) : Wave :=
  match y.frames with
  | [] => y
  | g :: r =>
    match g.cur with
    | none => y
    | some c =>
      if before < y.frames.length then
        { y with frames := (((List.range c.vals.length).zip c.vals.reverse).foldl (fun g e => keepValue g c.block e.1 c.mask e.2) g) :: r }
      else
        match c.vals with
        | v :: vs => if y.frames.length < before && c.vidx == vs.length + 1 then { y with frames := keepValue g c.block vs.length c.mask v :: r } else y
        | [] => y

/-- Move a wave by a control event that is no branch, with its log entries. -/
def State.moveWave (s : State) (x : Site) (f : Frame) (c : Cur) (y : Wave) : State :=
  let y1 := if s.debugFrame f then (y.logLeave f c (x.wave.frames.length - y.frames.length)).keepMoved x.wave.frames.length else y
  s.setWave x.w (y1.countStep s.tick)

/-! ## What an ended wave leaves (R136) -/

/-- Has a wave ended? -/
def Wave.isEnded (x : Wave) : Bool := x.mode == .ended || x.mode == .released

/-- A wave that has ended leaves its active place at once; its slot stays until its release (R136; 09 R210). -/
def State.afterEnd (s : State) (x : Site) : State :=
  match s.wave? x.w with
  | some y => if y.isEnded then (s.dropEntry x.tile x.w).afterWaveEnd x.w.block else s
  | none => s

/-! ## Branches (R132, R133) -/

def execBr (f : Fields) (aw : List ArgWord) (s : State) : Host.Outcome State Fault Refusal :=
  atSite s fun x c =>
    let word := wordOf 0x0C0#9 f
    match x.wave.frames with
    | [] => s
    | fr :: _ =>
      let legal := f.typ == 0 && f.a == 0 && f.target0 == 0 && !f.bit0 && f.md.toNat == aw.length
      match (if legal then s.paramsOf fr f.target1.toNat else none) with
      | none => s.takeReserved x c word .void
      | some tys =>
        match argValues c tys (argRefs aw) with
        | none => s.takeReserved x c word .void
        | some vs =>
          let p := mkPath f.target1.toNat c.mask vs
          let y := if s.debugFrame fr then x.wave.logBranch fr c [p] else x.wave
          s.setWave x.w ((y.leave [p]).countStep s.tick)

def execBrc (f : Fields) (aw : List ArgWord) (s : State) : Host.Outcome State Fault Refusal :=
  atSite s fun x c =>
    let word := wordOf 0x0C1#9 f
    match x.wave.frames with
    | [] => s
    | fr :: _ =>
      let legal := f.typ == 0 && f.a != 0 && !f.bit0 && f.md.toNat == aw.length
      let b1 := f.target1.toNat
      let b0 := f.target0.toNat
      match (if legal then fetchPred c true f.a else none), s.paramsOf fr b1, s.paramsOf fr b0 with
      | some p, some t1, some t0 =>
        let rs := argRefs aw
        match argValues c t1 (rs.take t1.length), argValues c t0 (rs.drop t1.length) with
        | some v1, some v0 =>
          let m1 := c.mask &&& p
          let m0 := c.mask &&& ~~~p
          let ps := (if m1 == 0 then [] else [mkPath b1 m1 v1]) ++ (if m0 == 0 then [] else [mkPath b0 m0 v0])
          let y := if s.debugFrame fr then x.wave.logBranch fr c ps else x.wave
          (s.emitBranch x fr c m1 m0).setWave x.w ((y.leave ps).countStep s.tick)
        | _, _ => s.takeReserved x c word .void
      | _, _, _ => s.takeReserved x c word .void

/-! ## Calls and returns (R134, R135) -/

/-- Push a call frame on a wave (R134). -/
def pushCall (x : Wave) (g tid : Nat) (t : Ty) (p : Path) : Wave :=
  let fr : Frame :=
    { kind := .call, func := g, tid := tid, pending := [p], cur := none, retMask := 0, ret := Lanes.all 0, retTy := t,
      trap := none, kept := [] }
  ({ x with frames := fr :: x.frames }).select

def execCall (f : Fields) (aw : List ArgWord) (s : State) : Host.Outcome State Fault Refusal :=
  atSite s fun x c =>
    let word := wordOf 0x0C2#9 f
    match x.wave.frames with
    | [] => s
    | fr :: _ =>
      let legal := f.typ.toNat ≤ 11 && f.a == 0 && f.target0 == 0 && !f.bit0 && f.md.toNat == aw.length
      let g := f.target1.toNat
      if !legal then s.takeReserved x c word .void
      else
        match (s.code? fr).bind fun t => (t.callees.find? fun e => e.1 == g).bind fun e => e.2 with
        | none => s.takeParkTrap x c.mask 5 (Lanes.all 0)
        | some tys =>
          match argValues c tys (argRefs aw) with
          | none => s.takeReserved x c word .void
          | some vs =>
            if 256 ≤ x.wave.frames.length then s.takeParkTrap x c.mask 4 (Lanes.all 0)
            else
              match s.calleeCode x g with
              | none => if x.wave.verdict then s.takeParkTrap x c.mask 5 (Lanes.all 0)
                        else s.awaitTranslation x (firstKey x.launch.ident g x.block.die)
              | some t =>
                (s.touch t).moveWave x fr c
                  (pushCall x.wave g t.tid ((Ty.ofCode f.typ.toNat).getD .void) (mkPath 0 c.mask vs))

/-- The value that `ret` carries: of its TYP, void for TYP 0 (R135). None when the fields are illegal. -/
def returned (f : Fields) (c : Cur) : Option Value :=
  if f.md != 0 || f.b != 0 || f.c != 0 || f.p != 0 || 11 < f.typ.toNat then none
  else if f.typ == 0 then (if f.a == 0 then some Value.void else none)
  else
    match Ty.ofCode f.typ.toNat with
    | some t => fetchArg c (.need [t]) f.a
    | none => none

/-- The current path's lanes leave the wave for good (R136), a progress point (09 R212). -/
def State.exitPath (s : State) (x : Site) (f : Frame) (c : Cur) : State :=
  ((s.moveWave x f c (x.wave.leave [])).progress x.w).afterEnd x

def execRet (f : Fields) (s : State) : Host.Outcome State Fault Refusal :=
  atSite s fun x c =>
    let word := wordOf 0x0C3#9 f
    match x.wave.frames with
    | [] => s
    | fr :: _ =>
      match returned f c, fr.kind with
      | some _, .base => s.exitPath x fr c
      | some v, .call =>
        if f.typ.toNat == fr.retTy.code then (s.moveWave x fr c (x.wave.handlerReturn v.x)).afterEnd x
        else s.takeReserved x c word .void
      | _, _ => s.takeReserved x c word .void

def execExit (f : Fields) (s : State) : Host.Outcome State Fault Refusal :=
  atSite s fun x c =>
    match x.wave.frames with
    | [] => s
    | fr :: _ =>
      if f.typ == 0 && f.md == 0 && f.a == 0 && f.b == 0 && f.c == 0 && f.p == 0 then s.exitPath x fr c
      else s.takeReserved x c (wordOf 0x0C4#9 f) .void

/-- The value whose bits `tret` records: that of field A, of any type but void, and nothing for A = 0. Every other
field is 0. None when the fields are illegal. -/
def recorded (f : Fields) (c : Cur) : Option Value :=
  if f.md != 0 || f.b != 0 || f.c != 0 || f.p != 0 || f.typ != 0 then none
  else if f.a == 0 then some Value.void
  else
    match c.ref? f.a with
    | none => none
    | some v => if v.ty != .void then some v else none

/-- `tret` (R143). -/
def execTret (f : Fields) (s : State) : Host.Outcome State Fault Refusal :=
  atSite s fun x c =>
    let word := wordOf 0x0C8#9 f
    match x.wave.frames with
    | [] => s
    | fr :: _ =>
      match recorded f c with
      | some v =>
        if fr.kind == .handler then (s.moveWave x fr c (x.wave.handlerReturn v.x)).afterEnd x
        else s.takeReserved x c word .void
      | none => s.takeReserved x c word .void

/-! ## yield, trap and trapinfo (R138, R139, R142) -/

/-- `yield` (R138): a progress point; the wave gives its active place to a ready pending wave, when there is one. -/
def coreYield (i : OpIn) (s : State) : OpRes :=
  .moved (((s.completePlace i.x.w 0x0C5 Value.void []).progress i.x.w).swapPlace i.tile (i.x.w.wav % 2 == 1) i.x.w true)

def opYield : Op :=
  { opc := 0x0C5, res := resFixed [.void] .void, core := coreYield
    form := fun t m => ctlForm t .void (m == 0) .absent .absent .absent }

/-- `trap` (R139): the codes of the active lanes; nothing with no active lane. -/
def coreTrap (i : OpIn) (s : State) : OpRes :=
  if i.mask == 0 then doneVoid s
  else .trap 7 (Lanes.tab fun k => if i.mask.has k.val && i.a.ty == .i32 then BitVec.ofNat 32 (i.a.nat k) else 0)

def opTrap : Op :=
  { opc := 0x0C6, res := resFixed [.void] .void, core := coreTrap
    form := fun t m => formFor [.void] t (m == 0) fun T =>
      { a := .may [.i32], b := .absent, c := .absent, pred := true, res := T, pass := .every } }

/-- The trap that opened the handler frame on a wave's stack (R142). -/
def Wave.trapInfo? (x : Wave) : Option TrapInfo :=
  match x.frames.find? fun f => f.kind == .handler with
  | some f => f.trap
  | none => none

/-- Is a selector's type legal (R142)? -/
def trapinfoOk (sel : Nat) (t : Ty) : Bool :=
  if sel ≤ 7 then t == .n32
  else if sel ≤ 10 then 2 ≤ t.code && t.code ≤ 11
  else if sel == 11 then t == .pred
  else if sel ≤ 14 then t == .n32
  else sel == 15 && t == .n64

/-- What a selector reads of a trap, in a lane (R142). -/
def TrapInfo.sel (i : TrapInfo) (sel : Nat) (k : Fin 32) : Nat :=
  match sel with
  | 0 => i.kind
  | 1 => i.opc.toNat
  | 2 => i.f.typ.toNat
  | 3 => i.f.md.toNat
  | 4 => i.f.a.toNat
  | 5 => i.f.b.toNat
  | 6 => i.f.c.toNat
  | 7 => i.f.p.toNat
  | 8 => (i.opA.get k).toNat
  | 9 => (i.opB.get k).toNat
  | 10 => (i.opC.get k).toNat
  | 11 => if i.pmask.has k.val then 1 else 0
  | 12 => i.point.func
  | 13 => i.point.block
  | 14 => i.point.vidx
  | _ => i.word.toNat

def coreTrapinfo (i : OpIn) (s : State) : OpRes :=
  .done s (lanesOf i.ty fun k =>
    match i.x.wave.trapInfo? with
    | some t => t.sel i.md k
    | none => 0)

/-- The types of `trapinfo`. -/
def tyTrapinfo : List Ty := [.pred, .i32, .n32, .i64, .n64, .f32, .f16, .bf16, .sli32, .sli16, .addr]

def opTrapinfo : Op :=
  { opc := 0x0C7, res := resSame tyTrapinfo, core := coreTrapinfo
    form := fun t m => formFor tyTrapinfo t (trapinfoOk m ((Ty.ofCode t).getD .void)) fun T =>
      { a := .absent, b := .absent, c := .absent, pred := false, res := T, pass := .everyPath } }

def execYield (f : Fields) (s : State) : Host.Outcome State Fault Refusal := runOp opYield f s
def execTrap (f : Fields) (s : State) : Host.Outcome State Fault Refusal := runOp opTrap f s
def execTrapinfo (f : Fields) (s : State) : Host.Outcome State Fault Refusal := runOp opTrapinfo f s

end Sys2Proof.Machine
end

