-- ==== Sys2Proof/Machine/Access.lean ====
section
/-!
DEFINITION. The checks that every access of a wave makes, in their order (13 R266, R267), and the reads and writes
behind them: global pages in aligned 16-byte pieces, and vault bytes.
-/

namespace Sys2Proof.Machine

open Sys2Proof

/-- The windows of the virtual space (11 R233). -/
inductive Win where
  | glob | all | die
deriving DecidableEq, Repr

/-- The window of an address. -/
def winOf (va : Nat) : Win :=
  if va % 2 ^ 56 / 2 ^ 32 == 0xFFFFFE then .all else if va % 2 ^ 56 / 2 ^ 32 == 0xFFFFFF then .die else .glob

/-- Is a memory key that of a vault byte? -/
def isVaultKey (k : Nat) : Bool := 2 ^ 52 ≤ k

/-- The vault spans of an access, piece by piece, or the trap of R234: bounds before alignment. -/
def State.vaultSpans (s : State) (x : Site) : List (Nat × Nat) → Except Nat (List (Nat × Nat))
  | [] => .ok []
  | (va, n) :: r =>
    match s.vaultAccess x va n, s.vaultSpans x r with
    | .error 4, _ => .error 4
    | _, .error 4 => .error 4
    | .error e, _ => .error e
    | _, .error e => .error e
    | .ok k, .ok ks => .ok ((k, n) :: ks)

/-- The pieces of a vault access: one of at most 16 bytes is one piece, which must not cross a 16-byte boundary; a
longer one is split into aligned 16-byte pieces (R234, 12 R252). -/
def vaultPieces (va n : Nat) : List (Nat × Nat) := if n ≤ 16 then [(va, n)] else pieces va n

/-- Check 3 of R267 over every access: the first trap of R234. -/
def State.vaultTrap (s : State) (x : Site) (as : List (Nat × Nat)) : Option Nat :=
  let es := (as.filter fun a => winOf a.1 != .glob).map fun a =>
    match s.vaultSpans x (vaultPieces a.1 a.2) with
    | .ok _ => 0
    | .error e => e
  if es.contains 4 then some 4 else if es.contains 3 then some 3 else none

/-- The port of an access of a wave (16 R345): that of the sequencer whose stream holds the instruction that makes it, for a portable wave
its next word. Without one, an access that writes is the store sequencer's, another the load sequencer's (DEDUCED, log entry 63). -/
def State.portOf (s : State) (x : Site) (wr : Bool) : Nat :=
  let k :=
    match x.wave.native, x.wave.top? with
    | some n, _ => n.cur.map NDest.stream
    | none, some (f, c) => (s.fetch f c).map fun (p : PlaceCode) => portableStream (opcOf p.word).toNat
    | none, none => none
  x.port (k.getD (if wr then 3 else 1))

/-- The memory spans of one access, or the faulting address. -/
def State.spansOf (s : State) (x : Site) (va n : Nat) (rd wr : Bool) : State × Except Nat (List (Nat × Nat)) :=
  if winOf va == .glob then s.translateN x.launch.ctx (s.portOf x wr) va n rd wr
  else
    match s.vaultSpans x (vaultPieces va n) with
    | .ok ks => (s, .ok ks)
    | .error _ => (s, .error va)

/-- The spans of accesses in order, or the first faulting address (check 5 of R267). -/
def State.allSpans (s : State) (x : Site) (rd wr : Bool) :
    List (Nat × Nat) → State × Except Nat (List (List (Nat × Nat)))
  | [] => (s, .ok [])
  | (va, n) :: r =>
    match s.spansOf x va n rd wr with
    | (s1, .error e) => (s1, .error e)
    | (s1, .ok ks) =>
      match State.allSpans s1 x rd wr r with
      | (s2, .ok rest) => (s2, .ok (ks :: rest))
      | (s2, .error e) => (s2, .error e)

/-- Is a span one of a vault other than that above a tile's cluster? -/
def isRemoteVault (t : TileRef) (k : Nat) : Bool :=
  isVaultKey k && (k - 2 ^ 52) / 2 ^ 24 != t.die * 32 + t.tile / 4

/-- Count an instruction's requests: one of the vault counter for each vault request (11 R238), of which those to other vaults
than that above the tile's cluster count for the long-latency rule, and one outstanding global read (09 R209). The place of a
portable wave's reads is noted for its uses. -/
def State.countRequests (s : State) (x : Site) (rd : Bool) (sp : List (List (Nat × Nat))) : State :=
  let nv := (sp.map fun ks => (ks.filter fun e => isVaultKey e.1).length).sum
  let nr := (sp.map fun ks => (ks.filter fun e => isRemoteVault x.tile e.1).length).sum
  let g := rd && sp.any fun ks => ks.any fun e => !isVaultKey e.1
  let here : Nat × Nat := (x.wave.frames.length, x.wave.placePoint.vidx)
  s.modWave x.w fun y =>
    { y with vcnt := y.vcnt + nv, rcnt := y.rcnt + nr, gcnt := if g then y.gcnt + 1 else y.gcnt
             guse := if g then y.guse ++ [here] else y.guse, vuse := if rd && nv != 0 then here :: y.vuse else y.vuse }

/-- The checks of R267 over accesses (address, bytes) of one instruction, in their order, before any effect: the spans
of memory, or how the instruction ends. A vault request that would take the counter past 65,535 waits (11 R238). -/
def State.access (s : State) (x : Site) (ws : List Win) (align : Nat) (rd wr : Bool) (as : List (Nat × Nat)) :
    Except OpRes (State × List (List (Nat × Nat))) :=
  if as.any fun a => 2 ^ 56 ≤ a.1 then .error trapBounds
  else if as.any fun a => !ws.contains (winOf a.1) then .error trapBounds
  else
    match s.vaultTrap x as with
    | some k => .error (.trap k (Lanes.all 0))
    | none =>
      if as.any fun a => a.1 % align != 0 then .error trapAlign
      else
        match s.allSpans x rd wr as with
        | (s1, .error va) => .error (.page s1 va wr)
        | (s1, .ok sp) =>
          let s2 := s1.countRequests x rd sp
          match s2.wave? x.w with
          | some y => if 65535 < y.vcnt then .error (.wait s1) else .ok (s2, sp)
          | none => .ok (s2, sp)

/-- Is any span of these poisoned? -/
def State.anyPoison (s : State) (sp : List (List (Nat × Nat))) : Bool := sp.any fun ks => s.spansPoisoned ks

/-- Read accesses of one instruction: the bytes of each. -/
def State.readAcc (s : State) (x : Site) (ws : List Win) (align : Nat) (as : List (Nat × Nat)) :
    Except OpRes (State × List (List Byte)) :=
  match s.access x ws align true false as with
  | .error r => .error r
  | .ok (s1, sp) => if s1.anyPoison sp then .error (.poison s1) else .ok (s1, sp.map s1.readSpans)

/-- The accord value of the block of a writing wave (21 R414). -/
def State.writerAccord (s : State) (by_ : Writer) : Option Nat :=
  by_.wave.bind fun e => (s.launch? e.1.lid).map fun l => blockAccord l e.1.blk

/-- Note who wrote a span, for the waits that watch a word of it (21 R419). -/
def State.noteWrite (s : State) (by_ : Writer) (k n : Nat) : State :=
  { s with waits := s.waits.map fun e =>
      if k < e.key + e.n && e.key < k + n then { e with writer := some by_, accord := s.writerAccord by_ } else e }

def State.noteSpans (s : State) (by_ : Writer) (ks : List (Nat × Nat)) : State :=
  ks.foldl (fun s e => s.noteWrite by_ e.1 e.2) s

/-- Write spans on a path of a wave. -/
def State.putSpans (s : State) (by_ : Writer) (ks : List (Nat × Nat)) (bs : List Byte) : State :=
  (s.writeSpans ks bs).noteSpans by_ ks

/-- The lane path of a site's wave as a writer. -/
def Site.laneWriter (x : Site) : Writer := { cls := 0, wave := some (x.w, x.tile) }

/-- Write accesses in order, each after the bytes it replaces have been read. -/
def State.writeAcc (s : State) (by_ : Writer) : List (List (Nat × Nat)) → List (List Byte) → State × List (List Byte)
  | ks :: r, bs :: t =>
    let old := s.readSpans ks
    let q := State.writeAcc (s.putSpans by_ ks bs) by_ r t
    (q.1, old :: q.2)
  | _, _ => (s, [])

/-- Is a class held in a tile's queues for a command of this number (13 R282)? -/
def Tile.fenced (t : Tile) (cls id : Nat) : Bool := t.fences.any fun f => f.2.1.getLsbD cls && f.2.2 ≤ id

/-- Every window (R266). -/
def winsAll : List Win := [.glob, .all, .die]

/-- The accesses of the active lanes: one of n bytes at each lane's address. -/
def OpIn.laneAcc (i : OpIn) (n : Nat) : List (Nat × Nat) := i.mask.list.map fun k => (i.a.nat k, n)

/-- The element of a list of the active lanes that stands for lane k. -/
def pickLane {α : Type} (m : LaneMask) (xs : List α) (k : Fin 32) : Option α :=
  ((m.list.zip xs).find? fun e => e.1 == k).map fun e => e.2

end Sys2Proof.Machine
end

