-- ==== Sys2Proof/Machine/Events.lean ====
section
/-!
DEFINITION. What the part itself writes for software: event records (18 R369), fault records (14 R311, 17 R350), and
the addresses of its own regions.
-/

namespace Sys2Proof.Machine

open Sys2Proof

/-- The memory key of a linear device offset below 768 GiB (18 R365). -/
def linKey? (l : Nat) : Option Nat :=
  if l < 768 * 2 ^ 30 then some (l / (96 * 2 ^ 30) * 2 ^ 37 + l % (96 * 2 ^ 30)) else none

/-- Bytes at a linear device offset, up to one die's end; zeros past the device memory. -/
def State.readLin (s : State) (l n : Nat) : List Byte :=
  (List.range n).map fun i => match linKey? (l + i) with | some k => Mem.read s.mem k | none => 0#8

/-- Who writes when the part itself writes. -/
def partWriter : Writer := { cls := 0, wave := none }

/-- Write bytes at a memory key as the part. -/
def State.putKey (s : State) (by_ : Writer) (k : Nat) (bs : List Byte) : State := s.putSpans by_ [(k, bs.length)] bs

/-- Write bytes in a context's global window from a die, as an access of a path: all, or none and the faulting address. -/
def State.putVa (s : State) (by_ : Writer) (ctx die va : Nat) (bs : List Byte) : State × Except Nat Unit :=
  match s.translateN ctx die va bs.length false true with
  | (s1, .ok ks) => (s1.putSpans by_ ks bs, .ok ())
  | (s1, .error e) => (s1, .error e)

/-! ## Event records (18 R369) -/

/-- Write an event record, or drop it when the ring is full. A ring that host software has not set up takes none. -/
def State.event (s : State) (code arg : Nat) (data : Nat) : State :=
  let b := s.bar0
  if b.evn < 2 || (b.evhead + 1) % b.evn == b.evtail then { s with evDropped := true }
  else
    let a := if s.evDropped then arg % 2 ^ 31 + 2 ^ 31 else arg % 2 ^ 32
    let bs := leBytes 8 data ++ leBytes 4 a ++ leBytes 4 code
    let s1 := match linKey? (b.evring.toNat + 16 * b.evhead) with | some k => s.putKey partWriter k bs | none => s
    { s1 with bar0 := { b with evhead := (b.evhead + 1) % b.evn }, evDropped := false, msix := true }

/-! ## Fault records (14 R311; 17 R350) -/

/-- A record's header, as a 512-bit number. -/
def FaultRec.header (r : FaultRec) : Nat :=
  let bit (b : Bool) : Nat := if b then 1 else 0
  r.blockId * 2 ^ 480 + r.lseq * 2 ^ 448 + r.wave * 2 ^ 443 + r.die * 2 ^ 440 + r.tile * 2 ^ 433 +
    r.point.func * 2 ^ 417 + r.point.block * 2 ^ 401 + r.point.vidx * 2 ^ 390 + r.mask.toNat * 2 ^ 358 +
    r.va % 2 ^ 56 * 2 ^ 302 + r.kind * 2 ^ 298 + r.trapk * 2 ^ 294 + r.cls * 2 ^ 292 + bit r.swap * 2 ^ 291 +
    bit r.wr * 2 ^ 290 + r.peer * 2 ^ 282 + r.fsts * 2 ^ 280 + bit r.eng * 2 ^ 279

/-- A record's 192 bytes. -/
def FaultRec.bytes (r : FaultRec) : List Byte :=
  leBytes 64 r.header ++ (List.finRange 32).flatMap fun i => leBytes 4 (r.lanes.get i).toNat

/-- What a try to write a record gives: its number in the ring, a full ring, or a page fault. -/
inductive RingRes where
  | wrote (k : Nat)
  | full
  | fault (va : Nat)
deriving DecidableEq, Repr

/-- Write a record into a context's fault ring and advance HEAD, or change nothing (R350). -/
def State.tryRecord (s : State) (ctx : Nat) (r : FaultRec) : State × RingRes :=
  match s.ctx? ctx with
  | none => (s, .full)
  | some c =>
    match s.readVa ctx r.die (c.fring + 4) 4 with
    | (s1, .error e) => (s1, .fault e)
    | (s1, .ok bs) =>
      let next := (c.head + 1) % c.frn
      if next == ofLe bs then (s1, .full)
      else
        let at_ := c.fring + 64 + 192 * c.head
        match s1.translateN ctx r.die at_ 192 false true with
        | (s2, .error e) => (s2, .fault e)
        | (s2, .ok ks) =>
          match s2.putVa partWriter ctx r.die c.fring (leBytes 4 next) with
          | (s3, .error e) => (s3, .fault e)
          | (s3, .ok _) => ((s3.putSpans partWriter ks r.bytes).modCtx ctx fun c => { c with head := next }, .wrote c.head)

/-- Note that a record has been written for its owner: a block's wave no longer owes it and its block waits for the
resolution of one that stopped it; a paused command waits for its resolution. -/
def State.recorded (s : State) (o : RecOwner) (k : Nat) : State :=
  match o with
  | .wave w => (s.modWave w fun x => { x with owed := none }).modBlock w.block fun b => { b with unresolved := b.unresolved ++ [k] }
  | .copy t id =>
    s.modTile t fun x => { x with copyQ := x.copyQ.map fun c => if c.id == id then { c with paused := some (some k) } else c }
  | .group lid g id =>
    s.modLaunch lid fun l => { l with cgrps := l.cgrps.map fun r =>
      if r.g == g then { r with issues := r.issues.map fun i => if i.id == id then { i with paused := some (some k) } else i }
      else r }
  | .kv t id =>
    s.modTile t fun x => { x with kvQ := x.kvQ.map fun c => if c.id == id then { c with paused := some (some k) } else c }
  | .code b =>
    s.modLaunch b.lid fun l => { l with admitFault := l.admitFault.map fun e => if e.1 == b.blk then (e.1, k :: e.2.1, e.2.2) else e }
  | .nobody => s

/-- Write a fault record for its owner. While the ring is full, or faults, the record is held in order, with one event
REGFAULT for the hold of a ring that faults (R350). -/
def State.fileRecord (s : State) (ctx : Nat) (r : FaultRec) (o : RecOwner) : State :=
  match s.ctx? ctx with
  | none => s
  | some c =>
    if c.held ≠ [] then s.setCtx ctx { c with held := c.held ++ [(r, o)] }
    else
      match s.tryRecord ctx r with
      | (s1, .wrote k) => s1.recorded o k
      | (s1, .full) => s1.modCtx ctx fun c => { c with held := [(r, o)] }
      | (s1, .fault va) =>
        (s1.modCtx ctx fun c => { c with held := [(r, o)], heldRaised := true }).event 5 (ctx + 16) va

/-- Write the records that a context's ring holds back, until one cannot be written. The fuel is their number. -/
def State.drainHeld (s : State) (ctx : Nat) : Nat → State
  | 0 => s
  | n + 1 =>
    match s.ctx? ctx with
    | none => s
    | some c =>
      match c.held with
      | [] => s.setCtx ctx { c with heldRaised := false }
      | (r, o) :: rest =>
        match s.tryRecord ctx r with
        | (s1, .wrote k) => State.drainHeld ((s1.modCtx ctx fun c => { c with held := rest, heldRaised := false }).recorded o k) ctx n
        | (s1, .full) => s1
        | (s1, .fault va) =>
          if c.heldRaised then s1
          else (s1.modCtx ctx fun c => { c with heldRaised := true }).event 5 (ctx + 16) va

end Sys2Proof.Machine
end

