-- ==== Sys2Proof/Machine/Engine.lean ====
section
/-!
DEFINITION. What the engines' commands share: the memory behind an engine access, reading and writing pieces of a copy
(12 R255, 13 R288), owed and failed completion words (13 R281), engine page faults and aborts (13 R292), and the
messages to a peer (18 R374-R377).
-/

namespace Sys2Proof.Machine

open Sys2Proof

/-! ## The memory behind an engine access -/

/-- What an engine access meets: memory, a page fault, or an address that has no memory for it. -/
inductive EngRes (α : Type) where
  | ok (a : α)
  | fault (va : Nat)
  | bad
deriving DecidableEq, Repr

/-- The spans of bytes of a block's own allocation: in the vault while it stands on a tile, and in its saved image
while it is swapped out (13 R290; 11 R236). -/
def State.ownSpans (s : State) (b : BlockRef) (off n : Nat) : State × EngRes (List (Nat × Nat)) :=
  match s.launch? b.lid, s.block? b with
  | some l, some x =>
    if l.vb4k * 4096 < off + n then (s, .bad)
    else if x.phase == .swapped then
      match s.ctx? l.ctx with
      | none => (s, .bad)
      | some c =>
        match s.translateN l.ctx x.die (c.swapa + 4096 * x.imgPage + x.imgVault + off) n true true with
        | (s1, .ok ks) => (s1, .ok ks)
        | (s1, .error e) => (s1, .fault e)
    else (s, .ok [(vaultKey x.die (x.tile / 4) (x.vbase + off), n)])
  | _, _ => (s, .bad)

/-- The spans of one access piece of an engine command, for a block's command on a die. -/
def State.engSpans (s : State) (b : BlockRef) (die va n : Nat) (rd wr : Bool) : State × EngRes (List (Nat × Nat)) :=
  match s.launch? b.lid with
  | none => (s, .bad)
  | some l =>
    match winOf va with
    | .glob =>
      if 2 ^ 56 ≤ va then (s, .bad)
      else
        match s.translateN l.ctx die va n rd wr with
        | (s1, .ok ks) => (s1, .ok ks)
        | (s1, .error e) => (s1, .fault e)
    | .die => if 2 ^ 56 ≤ va || bitsOf va 31 24 != 0 then (s, .bad) else s.ownSpans b (va % 2 ^ 24) n
    | .all =>
      let d := bitsOf va 31 29
      let v := bitsOf va 28 24
      let o := va % 2 ^ 24
      match s.ctx? l.ctx with
      | none => (s, .bad)
      | some c =>
        if 2 ^ 56 ≤ va || clustersOf d ≤ v || s.vaultRetired d v || o < c.vplo * 4096 || (c.vplo + c.vsh) * 4096 < o + n then
          (s, .bad)
        else (s, .ok [(vaultKey d v o, n)])

/-! ## Completion words (13 R281) -/

/-- The name by which the failure of a completion word is kept: a word of a block's allocation by its offset, so that it
follows the block. Words elsewhere have none. -/
def failKey (b : BlockRef) (va : Nat) : Option Nat :=
  match winOf va with
  | .die => some (2 ^ 80 + (b.lid * 2 ^ 32 + b.blk) * 2 ^ 24 + va % 2 ^ 24)
  | .all => some (vaultKey (bitsOf va 31 29) (bitsOf va 28 24) (va % 2 ^ 24))
  | .glob => none

/-- A word's command has ended without writing it, and whatever commands name the word later, it stays failed (R281). A word at a
peer has no waiter here. -/
def State.failWord (s : State) (w : OwedWord) : State :=
  if 2 ^ 56 ≤ w.va.toNat then s
  else
    match failKey w.by_.wave.block w.va.toNat with
    | some k => { s with failed := k :: s.failed.filter fun x => x != k }
    | none => s

/-- The status word of a record, which a note owes (R194; 12 R256). -/
def RowCmd.owed (c : RowCmd) : OwedWord := { by_ := c.by_, va := BitVec.ofNat 64 (c.recVa + 12), value := 0, peer := none }

/-- The status words that a tile's notes owe. -/
def Tile.rowOwed (t : Tile) : List OwedWord := (t.rowQ.filter fun c => c.unit != .pace).map RowCmd.owed

/-- Who writes when an engine of a tile writes for a wave that issued a command: the wave, on the path of a class (21 R419). -/
def Issuer.writer (i : Issuer) (t : TileRef) (cls : Nat) : Writer := { cls := cls, wave := some (i.wave, t) }

/-- Write a completion word of this device: a lane-path write of the wave whose command owes it (12 R256). -/
def State.writeWord (s : State) (t : TileRef) (w : OwedWord) : State × EngRes Unit :=
  match s.engSpans w.by_.wave.block t.die w.va.toNat 4 true true with
  | (s1, .ok ks) => (s1.putSpans (w.by_.writer t 0) ks (leBytes 4 w.value.toNat), .ok ())
  | (s1, .fault e) => (s1, .fault e)
  | (s1, .bad) => (s1, .bad)

/-! ## Pieces of a copy (12 R252, R255; 13 R288) -/

/-- The pieces of a range, as offsets from its start. -/
def offPieces (va n : Nat) : List (Nat × Nat) := (pieces va n).map fun e => (e.1 - va, e.2)

/-- The bytes of a pair that have been read, at offsets from o on; none when one is missing. -/
def CopyPair.bytes? (p : CopyPair) (o n : Nat) : Option (List Byte) :=
  (List.range n).mapM fun i => (p.buf.find? fun e => e.1 == o + i).map fun e => e.2

/-- Is one of the bytes of a pair poisoned? -/
def CopyPair.spoiled (p : CopyPair) (o n : Nat) : Bool := p.bad.any fun e => decide (e.1 < o + n ∧ o < e.1 + e.2)

/-- Read piece k of those that a pair has still to read. -/
def CopyPair.read (p : CopyPair) (s : State) (die k : Nat) : State × EngRes CopyPair :=
  match p.toRead[k]?, p.src with
  | some (o, n), some src =>
    match s.engSpans p.by_.wave.block die (src.toNat + o) n true false with
    | (s1, .ok ks) =>
      let bs := s1.readSpans ks
      (s1, .ok { p with toRead := p.toRead.eraseIdx k,
                        buf := p.buf ++ (List.range n).zipWith (fun i b => (o + i, b)) bs,
                        bad := if s1.spansPoisoned ks then (o, n) :: p.bad else p.bad })
    | (s1, .fault e) => (s1, .fault e)
    | (s1, .bad) => (s1, .bad)
  | _, _ => (s, .ok p)

/-- Write bytes of a pair on a path; poison goes with them (22 R427). -/
def State.putPiece (s : State) (by_ : Writer) (ks : List (Nat × Nat)) (bs : List Byte) (spoiled : Bool) : State :=
  let s1 := s.putSpans by_ ks bs
  if spoiled then ks.foldl (fun s e => s.addPoison e.1 e.2) s1 else s1

/-- Write piece k of those that a pair has still to write, once its bytes have been read. -/
def CopyPair.write (p : CopyPair) (s : State) (t : TileRef) (cls k : Nat) : State × EngRes CopyPair :=
  match p.toWrite[k]? with
  | some (o, n) =>
    match p.bytes? o n with
    | none => (s, .ok p)
    | some bs =>
      match s.engSpans p.by_.wave.block t.die (p.dst.toNat + o) n false true with
      | (s1, .ok ks) => (s1.putPiece (p.by_.writer t cls) ks bs (p.spoiled o n), .ok { p with toWrite := p.toWrite.eraseIdx k })
      | (s1, .fault e) => (s1, .fault e)
      | (s1, .bad) => (s1, .bad)
  | none => (s, .ok p)

/-- A pair whose accesses have not begun: reads of its source chunks, writes of its destination chunks. -/
def CopyPair.begin_ (p : CopyPair) : CopyPair :=
  { p with toRead := match p.src with | some a => offPieces a.toNat p.len | none => []
           toWrite := offPieces (p.dst.toNat % 2 ^ 56) p.len }

/-! ## Engine page faults and aborts (13 R292) -/

/-- A record that names the issuer of an engine command. -/
def State.engineRecord (s : State) (i : Issuer) (t : TileRef) (kind va : Nat) (wr eng : Bool) : FaultRec :=
  { blockId := i.wave.blk, lseq := (match s.launch? i.wave.lid with | some l => l.lseq | none => 0), wave := i.wave.wav,
    die := t.die, tile := t.tile, point := i.point, mask := i.mask, va := va, kind := kind, trapk := 0, cls := i.cls,
    swap := false, wr := wr, peer := 0, fsts := 0, eng := eng, lanes := Lanes.all 0 }

/-- The issuer of an instruction's command. -/
def OpIn.issuer (i : OpIn) : Issuer :=
  { wave := i.x.w, point := i.x.wave.placePoint, mask := i.amask, cls := i.x.launch.cls }

/-- The context of a launch. -/
def State.ctxOf (s : State) (lid : Nat) : Nat :=
  match s.launch? lid with
  | some l => l.ctx
  | none => 0

/-! ## Messages to a peer (18 R374-R377) -/

/-- The peer-table entry of an index, when it is valid. -/
def State.peer? (s : State) (p : Nat) : Option Peer :=
  let x := ofLe (s.readLin (s.bar0.ptab.toNat + 16 * p) 16)
  if bitsOf x 87 87 == 1 && bitsOf x 86 0 == 0 && p < 32 then
    some { links := bitsOf x 127 96, fid := bitsOf x 95 90, ctx := bitsOf x 89 88 }
  else none

/-- The entry that a copy's address names, read when the copy issues (R364). -/
def State.entryOf (s : State) (va : Nat) : Option Peer := if va < 2 ^ 56 then none else s.peer? (va / 2 ^ 56 - 1)

/-- The active transmit wavelengths (R371). -/
def Link.width (x : Link) : Nat := 4 * (x.groups.filter fun g => g == .on).length

/-- The received width: the peer's groups that are not parked. -/
def Link.rxWidth (x : Link) : Nat := 4 * (4 - ((List.range 4).filter fun g => x.peerParked.getLsbD g).length)

/-- The die of a link. -/
def linkDie (l : Nat) : Nat := l / 4

/-- The links that the valid entries of the peer table name, as a mask. -/
def State.peerLinks (s : State) : Nat := (List.range 32).foldl (fun m p => match s.peer? p with | some q => m ||| q.links | none => m) 0

/-- Does a link lead to a peer (R376)? -/
def State.hasPeer (s : State) (l : Nat) : Bool := s.peerLinks / 2 ^ l % 2 == 1

/-- May a link carry its width at its die's port divisor (R380)? -/
def State.mayCarry (s : State) (l : Nat) : Bool :=
  ((s.link l).width ≤ 8 && (s.link l).rxWidth ≤ 8) || ((s.die (linkDie l)).pd == 2 && (s.die (linkDie l)).pdStop.isNone)

/-- Is a link up? In recovery mode none is (22 R438). One without a peer is not (R380), unless it has messages left of one that it had; one that gains a peer comes up when its
die's divisor allows its width. -/
def State.linkUp (s : State) (l : Nat) : Bool := s.started && (s.link l).up && ((s.link l).live || (s.hasPeer l && s.mayCarry l))

/-- The up links of a LINKS field, ascending. -/
def State.upOf (s : State) (links : Nat) : List Nat :=
  (List.range 32).filter fun k => links / 2 ^ k % 2 == 1 && s.linkUp k

/-- The up links to a peer. -/
def State.upLinks (s : State) (p : Peer) : List Nat := s.upOf p.links

/-- The link that a message to a chunk takes among those of a LINKS field (R376). -/
def State.routeOf (s : State) (links va : Nat) : Option Nat :=
  let ls := s.upOf links
  ls[va / 16 % max 1 ls.length]?

/-- The link that a message to a chunk takes. -/
def State.route (s : State) (p : Peer) (va : Nat) : Option Nat := s.routeOf p.links va

/-- Does an index name a peer that can be reached? -/
def State.reachable (s : State) (p : Nat) : Bool :=
  match s.peer? p with
  | some q => s.upLinks q != []
  | none => false

/-- The virtual channel of a request (R377). -/
def State.requestVc (s : State) (lid : Nat) (cls : Nat) : Nat :=
  match s.ctx? (s.ctxOf lid) with
  | some c => if cls == 0 && c.c0vc then 0 else 1
  | none => 1

/-- A message of this device. -/
def State.message (s : State) (q : Peer) (mop vc tag rc aop va : Nat) (len : Nat) (payload : List Byte) : Message :=
  { mop := BitVec.ofNat 4 mop, vc := BitVec.ofNat 2 vc, src := s.bar0.fid, dst := BitVec.ofNat 6 q.fid,
    tag := BitVec.ofNat 12 tag, len := BitVec.ofNat 13 len, rc := BitVec.ofNat 2 rc, ctx := BitVec.ofNat 2 q.ctx,
    aop := BitVec.ofNat 4 aop, sts := 0, rsv := 0, va := BitVec.ofNat 56 va, payload := payload }

/-- Queue a message on a link, which keeps it whatever the peer table comes to hold (R364). -/
def State.queueMessage (s : State) (link : Nat) (o : Outgoing) : State := s.modLink link fun x => { x with live := true, txq := x.txq ++ [o] }

/-- Send a request by a peer-table entry and note that it is outstanding. The tag is the next one. -/
def State.sendRequest (s : State) (q : Peer) (mop vc rc aop : Nat) (o : FabOut) (payload : List Byte) : State :=
  match s.route q o.va with
  | none => s
  | some link =>
    let m := s.message q mop vc (s.nextTag % 4096) rc aop o.va (if payload == [] then o.size else payload.length) payload
    { s.queueMessage link { num := s.nextTag, links := q.links, msg := m } with
      fabOut := s.fabOut ++ [{ o with tag := s.nextTag % 4096, entry := q }], nextTag := s.nextTag + 1 }

end Sys2Proof.Machine
end

