-- ==== Sys2Proof/Machine/Integer.lean ====
section
/-!
DEFINITION. The integer and address group (06 R116-R128) and the constants, parameters and identifiers (04 R78-R81).
-/

namespace Sys2Proof.Machine

open Sys2Proof

/-- MOD[5] `.sat`, and a MOD that holds nothing else (06 R116). -/
def modSat (md : Nat) : Bool := md / 32 % 2 == 1
def onlySat (md : Nat) : Bool := md % 32 == 0

/-- Operands a, b and c of a lane as exact integers: `val(x, T)` (06 R116). -/
def OpIn.ia (i : OpIn) (k : Fin 32) : Int := toInt i.a.ty (i.a.nat k)
def OpIn.ib (i : OpIn) (k : Fin 32) : Int := toInt i.b.ty (i.b.nat k)
def OpIn.ic (i : OpIn) (k : Fin 32) : Int := toInt i.c.ty (i.c.nat k)

/-- Forms of one, two and three operands of type T with result T and pass-through a (06 R117). -/
def form1 (ts : List Ty) (t : Nat) (ok : Bool) : Option Form :=
  formFor ts t ok fun T => { a := .need [T], b := .absent, c := .absent, pred := true, res := T, pass := .opA }
def form2 (ts : List Ty) (t : Nat) (ok : Bool) : Option Form :=
  formFor ts t ok fun T => { a := .need [T], b := .need [T], c := .absent, pred := true, res := T, pass := .opA }
def form3 (ts : List Ty) (t : Nat) (ok : Bool) : Option Form :=
  formFor ts t ok fun T => { a := .need [T], b := .need [T], c := .need [T], pred := true, res := T, pass := .opA }

/-- R119: the exact result of each lane, wrapped or saturated once in the result type. -/
def intCore (r : Ty) (F : OpIn → Fin 32 → Int) (i : OpIn) (s : State) : OpRes :=
  .done s (lanesOf r fun k => wrapSat (modSat i.md) r (F i k))

/-- An operation of R119 with two operands. -/
def intOp2 (opc : Nat) (sat : Bool) (F : Ty → Int → Int → Int) : Op :=
  { opc := opc, res := resSame tyInt, form := fun t m => form2 tyInt t (if sat then onlySat m else m == 0),
    core := fun i s => intCore i.ty (fun i k => F i.ty (i.ia k) (i.ib k)) i s }

/-- An operation on bits, pred among the types (06 R121). -/
def bitOp2 (opc : Nat) (F : Nat → Nat → Nat) : Op :=
  { opc := opc, res := resSame (.pred :: tyInt), form := fun t m => form2 (.pred :: tyInt) t (m == 0),
    core := fun i s => .done s (lanesOf i.ty fun k => F (i.a.nat k) (i.b.nat k)) }

/-- Truncating division with the edge cases of R120, before wrap or saturation. -/
def divInt (t : Ty) (x y : Int) : Int :=
  if y = 0 then (if t.signed then (if 0 ≤ x then tyMax t else tyMin t) else tyMax t) else x.tdiv y

/-- The remainder with the edge cases of R120. -/
def remInt (x y : Int) : Int := if y = 0 then x else x.tmod y

def opAdd : Op := intOp2 0x000 true fun _ x y => x + y
def opSub : Op := intOp2 0x001 true fun _ x y => x - y
def opMul : Op := intOp2 0x002 true fun _ x y => x * y
def opMulhi : Op := intOp2 0x003 false fun t x y => (x * y).fdiv (2 ^ t.bits : Nat)
def opDiv : Op := intOp2 0x006 true divInt
def opRem : Op := intOp2 0x007 false fun _ x y => remInt x y
def opMin : Op := intOp2 0x00A false fun _ x y => min x y
def opMax : Op := intOp2 0x00B false fun _ x y => max x y

/-- The double-width type of a 32-bit type (06 R117). -/
def wideTy (t : Ty) : Ty := if t == .i32 then .i64 else .n64

def opMulw : Op :=
  { opc := 0x004
    res := fun t => (resSame tyInt32 t).map wideTy
    form := fun t m => formFor tyInt32 t (m == 0) fun T =>
      { a := .need [T], b := .need [T], c := .absent, pred := true, res := wideTy T, pass := .zero }
    core := fun i s => .done s (lanesOf (wideTy i.ty) fun k => wrapTo (wideTy i.ty) (i.ia k * i.ib k)) }

def opMad : Op :=
  { opc := 0x005, res := resSame tyInt, form := fun t m => form3 tyInt t (onlySat m),
    core := fun i s => intCore i.ty (fun i k => i.ia k * i.ib k + i.ic k) i s }

/-- The signed types of `neg` and `abs`. -/
def tySigned : List Ty := [.i32, .i64]

def opNeg : Op :=
  { opc := 0x008, res := resSame tySigned, form := fun t m => form1 tySigned t (onlySat m),
    core := fun i s => intCore i.ty (fun i k => -i.ia k) i s }

def opAbs : Op :=
  { opc := 0x009, res := resSame tySigned, form := fun t m => form1 tySigned t (onlySat m),
    core := fun i s => intCore i.ty (fun i k => ((i.ia k).natAbs : Int)) i s }

def opAnd : Op := bitOp2 0x00C fun x y => x &&& y
def opOr : Op := bitOp2 0x00D fun x y => x ||| y
def opXor : Op := bitOp2 0x00E fun x y => x ^^^ y

def opNot : Op :=
  { opc := 0x00F, res := resSame (.pred :: tyInt), form := fun t m => form1 (.pred :: tyInt) t (m == 0),
    core := fun i s => .done s (lanesOf i.ty fun k => (2 ^ i.ty.bits - 1) ^^^ i.a.nat k) }

/-- A shift or rotation: T by a whole n32 count (06 R122). -/
def shiftForm (t : Nat) (ok : Bool) : Option Form :=
  formFor tyInt t ok fun T => { a := .need [T], b := .need [.n32], c := .absent, pred := true, res := T, pass := .opA }

/-- `x × 2^s`, wrapped or saturated (R122). A count of the width or more gives the same as one just past it. -/
def shlInt (sat : Bool) (t : Ty) (x : Int) (n : Nat) : Nat :=
  wrapSat sat t (x * (2 ^ min n (2 * t.bits) : Nat))

/-- `floor (x / 2^s)` (R122). A count past every lane's bits gives the same as one that reaches them all. -/
def shrInt (t : Ty) (x : Int) (n : Nat) : Nat := wrapTo t (x.fdiv (2 ^ min n 1600 : Nat))

/-- The bits of x rotated left by q places in a width w. -/
def rotlBits (w x q : Nat) : Nat := (((x % 2 ^ w) <<< q) ||| ((x % 2 ^ w) >>> (w - q))) % 2 ^ w

def opShl : Op :=
  { opc := 0x010, res := resSame tyInt, form := fun t m => shiftForm t (onlySat m),
    core := fun i s => .done s (lanesOf i.ty fun k => shlInt (modSat i.md) i.ty (i.ia k) (i.b.nat k)) }

def opShr : Op :=
  { opc := 0x011, res := resSame tyInt, form := fun t m => shiftForm t (m == 0),
    core := fun i s => .done s (lanesOf i.ty fun k => shrInt i.ty (i.ia k) (i.b.nat k)) }

def opRot : Op :=
  { opc := 0x012, res := resSame tyInt, form := fun t m => shiftForm t (m ≤ 1),
    core := fun i s => .done s (lanesOf i.ty fun k =>
      let w := i.ty.bits
      let q := i.b.nat k % w
      rotlBits w (i.a.nat k) (if i.md == 1 then (w - q) % w else q)) }

/-- The number of set bits below bit n. -/
def popBits : Nat → Nat → Nat
  | 0, _ => 0
  | n + 1, x => x % 2 + popBits n (x / 2)

/-- The number of zero bits above the highest set bit of a w-bit x (06 R121). -/
def clzBits (w x : Nat) : Nat := if x % 2 ^ w = 0 then w else w - 1 - Nat.log2 (x % 2 ^ w)

/-- The number of zero bits below the lowest set bit (06 R121). -/
def ctzBits : Nat → Nat → Nat
  | 0, _ => 0
  | n + 1, x => if x % 2 = 1 then 0 else 1 + ctzBits n (x / 2)

/-- The bits of a w-bit x in reverse order. -/
def revBits : Nat → Nat → Nat
  | 0, _ => 0
  | n + 1, x => (x % 2) * 2 ^ n + revBits n (x / 2)

/-- A counting operation: T to n32 (06 R117). -/
def countOp (opc : Nat) (F : Nat → Nat → Nat) : Op :=
  { opc := opc
    res := resFixed tyInt .n32
    form := fun t m => formFor tyInt t (m == 0) fun T =>
      { a := .need [T], b := .absent, c := .absent, pred := true, res := .n32, pass := .zero }
    core := fun i s => .done s (lanesOf .n32 fun k => F i.ty.bits (i.a.nat k)) }

def opPopc : Op := countOp 0x013 popBits
def opClz : Op := countOp 0x014 clzBits
def opCtz : Op := countOp 0x015 ctzBits

def opBrev : Op :=
  { opc := 0x016, res := resSame tyInt, form := fun t m => form1 tyInt t (m == 0),
    core := fun i s => .done s (lanesOf i.ty fun k => revBits i.ty.bits (i.a.nat k)) }

/-- The position and length of a packed field operand (06 R123). -/
def fieldPos (w g : Nat) : Nat := min (g % 256) w
def fieldLen (w g : Nat) : Nat := min (g / 256 % 256) w

/-- `bfx` (R123): the field of the extended source, extended from its own top bit when T is signed. -/
def bfxBits (t : Ty) (x g : Nat) : Nat :=
  let w := t.bits
  let len := fieldLen w g
  let f := ((toInt t (x % 2 ^ w)).fdiv (2 ^ fieldPos w g : Nat)) % (2 ^ len : Nat)
  if len = 0 then 0
  else if t.signed && 2 ^ (len - 1) ≤ f then wrapTo t (f - (2 ^ len : Nat)) else wrapTo t f

/-- `bfi` (R123): the low bits of b in the field of a. -/
def bfiBits (w x y g : Nat) : Nat :=
  let pos := fieldPos w g
  let hi := min (pos + fieldLen w g) w
  let m := 2 ^ hi - 2 ^ pos
  (x &&& (2 ^ w - 1 - m)) ||| ((y <<< pos) &&& m)

def opBfx : Op :=
  { opc := 0x017, res := resSame tyInt, form := fun t m => shiftForm t (m == 0),
    core := fun i s => .done s (lanesOf i.ty fun k => bfxBits i.ty (i.a.nat k) (i.b.nat k)) }

def opBfi : Op :=
  { opc := 0x018
    res := resSame tyInt
    form := fun t m => formFor tyInt t (m == 0) fun T =>
      { a := .need [T], b := .need [T], c := .need [.n32], pred := true, res := T, pass := .opA }
    core := fun i s => .done s (lanesOf i.ty fun k => bfiBits i.ty.bits (i.a.nat k) (i.b.nat k) (i.c.nat k)) }

/-- A condition code on exact integers (06 R124). -/
def condInt (cc : Nat) (x y : Int) : Bool :=
  match cc with
  | 0 => x = y
  | 1 => x ≠ y
  | 2 => x < y
  | 3 => x ≤ y
  | 4 => x > y
  | _ => x ≥ y

/-- The types of `cmp`. -/
def tyCmp : List Ty := [.pred, .i32, .n32, .i64, .n64, .addr]

def opCmp : Op :=
  { opc := 0x019
    res := resFixed tyCmp .pred
    form := fun t m => formFor tyCmp t (if t == 1 then m ≤ 1 else m ≤ 5) fun T =>
      { a := .need [T], b := .need [T], c := .absent, pred := true, res := .pred, pass := .zero }
    core := fun i s => .done s (predOf fun k => condInt i.md (i.ia k) (i.ib k)) }

/-- The types of `sel`. -/
def tySel : List Ty := [.pred, .i32, .n32, .i64, .n64, .f32, .f16, .bf16, .sli32, .sli16, .addr]

def opSel : Op :=
  { opc := 0x01A
    res := resSame tySel
    form := fun t m => formFor tySel t (m == 0) fun T =>
      { a := .need [T], b := .need [T], c := .need [.pred], pred := true, res := T, pass := .opA }
    core := fun i s => .done s (lanesOf i.ty fun k => if i.c.nat k = 1 then i.a.nat k else i.b.nat k) }

/-- The result types of `ext`. -/
def tyExt : List Ty := [.i32, .n32, .i64, .n64, .addr]

def opExt : Op :=
  { opc := 0x01B
    res := resSame tyExt
    form := fun t m => formFor tyExt t (onlySat m) fun T =>
      { a := .need [.pred, .i32, .n32, .i64, .n64, .addr], b := .absent, c := .absent, pred := true, res := T,
        pass := .zero }
    core := fun i s => intCore i.ty (fun i k => i.ia k) i s }

/-- `aoff` (R127): within the 56-bit virtual space, the top byte kept. -/
def aoffBits (x : Nat) (o : Int) : Nat := x / 2 ^ 56 * 2 ^ 56 + (((x % 2 ^ 56 : Nat) : Int) + o).emod (2 ^ 56) |>.toNat

def opAoff : Op :=
  { opc := 0x01C
    res := resSame [.addr]
    form := fun t m => formFor [.addr] t (m ≤ 4) fun T =>
      { a := .need [T], b := .need tySigned, c := .absent, pred := true, res := T, pass := .opA }
    core := fun i s => .done s (lanesOf .addr fun k => aoffBits (i.a.nat k) (i.ib k * (2 ^ i.md : Nat))) }

def opAdiff : Op :=
  { opc := 0x01D
    res := resSame [.i64]
    form := fun t m => formFor [.i64] t (m ≤ 4) fun T =>
      { a := .need [.addr], b := .need [.addr], c := .absent, pred := true, res := T, pass := .zero }
    core := fun i s => .done s (lanesOf .i64 fun k =>
      wrapTo .i64 ((((i.a.nat k % 2 ^ 56 : Nat) : Int) - ((i.b.nat k % 2 ^ 56 : Nat) : Int)).fdiv (2 ^ i.md : Nat))) }

/-- A vault-window address of R128 in one lane, or none when it breaks a limit. -/
def vaddrBits (loc : Bool) (d v o : Nat) : Option Nat :=
  if loc then (if o < 2 ^ 24 then some (0xFFFFFF * 2 ^ 32 + o) else none)
  else if d ≤ 7 && v < clustersOf d && o < 2 ^ 24 then some (0xFFFFFE * 2 ^ 32 + d * 2 ^ 29 + v * 2 ^ 24 + o)
  else none

def opVaddr : Op :=
  { opc := 0x01E
    res := resSame [.addr]
    form := fun t m => formFor [.addr] t (m ≤ 1) fun T =>
      { a := if m == 1 then .absent else .need [.n32], b := if m == 1 then .absent else .need [.n32], c := .need [.n32],
        pred := true, res := T, pass := .zero }
    core := fun i s =>
      let g (k : Fin 32) := vaddrBits (i.md == 1) (i.a.nat k) (i.b.nat k) (i.c.nat k)
      if i.mask.list.all fun k => (g k).isSome then .done s (lanesOf .addr fun k => (g k).getD 0) else trapBounds }

/-- Byte k of a lane, extended by the type's signedness (06 R119). -/
def byteInt (t : Ty) (x k : Nat) : Int :=
  let b := x >>> (8 * k) % 256
  if t.signed && 128 ≤ b then (b : Int) - 256 else (b : Int)

def opDp4 : Op :=
  { opc := 0x01F, res := resSame tyInt32, form := fun t m => form3 tyInt32 t (onlySat m),
    core := fun i s => intCore i.ty (fun i k =>
      i.ic k + ((List.range 4).foldl (fun z j => z + byteInt i.ty (i.a.nat k) j * byteInt i.ty (i.b.nat k) j) 0)) i s }

def execAdd (f : Fields) (s : State) : Host.Outcome State Fault Refusal := runOp opAdd f s
def execSub (f : Fields) (s : State) : Host.Outcome State Fault Refusal := runOp opSub f s
def execMul (f : Fields) (s : State) : Host.Outcome State Fault Refusal := runOp opMul f s
def execMulhi (f : Fields) (s : State) : Host.Outcome State Fault Refusal := runOp opMulhi f s
def execMulw (f : Fields) (s : State) : Host.Outcome State Fault Refusal := runOp opMulw f s
def execMad (f : Fields) (s : State) : Host.Outcome State Fault Refusal := runOp opMad f s
def execDiv (f : Fields) (s : State) : Host.Outcome State Fault Refusal := runOp opDiv f s
def execRem (f : Fields) (s : State) : Host.Outcome State Fault Refusal := runOp opRem f s
def execNeg (f : Fields) (s : State) : Host.Outcome State Fault Refusal := runOp opNeg f s
def execAbs (f : Fields) (s : State) : Host.Outcome State Fault Refusal := runOp opAbs f s
def execMin (f : Fields) (s : State) : Host.Outcome State Fault Refusal := runOp opMin f s
def execMax (f : Fields) (s : State) : Host.Outcome State Fault Refusal := runOp opMax f s
def execAnd (f : Fields) (s : State) : Host.Outcome State Fault Refusal := runOp opAnd f s
def execOr (f : Fields) (s : State) : Host.Outcome State Fault Refusal := runOp opOr f s
def execXor (f : Fields) (s : State) : Host.Outcome State Fault Refusal := runOp opXor f s
def execNot (f : Fields) (s : State) : Host.Outcome State Fault Refusal := runOp opNot f s
def execShl (f : Fields) (s : State) : Host.Outcome State Fault Refusal := runOp opShl f s
def execShr (f : Fields) (s : State) : Host.Outcome State Fault Refusal := runOp opShr f s
def execRot (f : Fields) (s : State) : Host.Outcome State Fault Refusal := runOp opRot f s
def execPopc (f : Fields) (s : State) : Host.Outcome State Fault Refusal := runOp opPopc f s
def execClz (f : Fields) (s : State) : Host.Outcome State Fault Refusal := runOp opClz f s
def execCtz (f : Fields) (s : State) : Host.Outcome State Fault Refusal := runOp opCtz f s
def execBrev (f : Fields) (s : State) : Host.Outcome State Fault Refusal := runOp opBrev f s
def execBfx (f : Fields) (s : State) : Host.Outcome State Fault Refusal := runOp opBfx f s
def execBfi (f : Fields) (s : State) : Host.Outcome State Fault Refusal := runOp opBfi f s
def execCmp (f : Fields) (s : State) : Host.Outcome State Fault Refusal := runOp opCmp f s
def execSel (f : Fields) (s : State) : Host.Outcome State Fault Refusal := runOp opSel f s
def execExt (f : Fields) (s : State) : Host.Outcome State Fault Refusal := runOp opExt f s
def execAoff (f : Fields) (s : State) : Host.Outcome State Fault Refusal := runOp opAoff f s
def execAdiff (f : Fields) (s : State) : Host.Outcome State Fault Refusal := runOp opAdiff f s
def execVaddr (f : Fields) (s : State) : Host.Outcome State Fault Refusal := runOp opVaddr f s
def execDp4 (f : Fields) (s : State) : Host.Outcome State Fault Refusal := runOp opDp4 f s

/-! ## Constants, parameters and identifiers (04 R78-R81) -/

/-- The value of `const.T` (R78): the low bits, i64 sign-extended from bit 32. -/
def constBits (t : Ty) (imm : Nat) : Nat :=
  if t == .i64 && 2 ^ 32 ≤ imm then imm + (2 ^ 64 - 2 ^ 33) else imm % 2 ^ t.bits

/-- The type that a TYP code names, void for none. -/
def tyOf (typ : BitVec 4) : Ty := (Ty.ofCode typ.toNat).getD .void

/-- `const` (R78) in every lane. -/
def coreConst (imm : Nat) (i : OpIn) (s : State) : OpRes := .done s (splat i.ty (constBits i.ty imm))

/-- The types that `const` accepts (R78), for the type of a trapped place. -/
def tyConst : List Ty := [.pred, .i32, .n32, .i64, .n64, .f32, .f16, .bf16, .sli32, .sli16, .addr]

def execConst (f : Fields) (s : State) : Host.Outcome State Fault Refusal :=
  runImm 0x020 (constImmOk f.typ.toNat f.imm33.toNat && f.md == 0 && f.p == 0)
    ((resSame tyConst f.typ.toNat).getD (fallbackTy f.typ.toNat)) f (coreConst f.imm33.toNat) s

/-- `constw` (R79): (J << sh) taken to the type's width, in every lane. -/
def execConstw (f : Fields) (s : State) : Host.Outcome State Fault Refusal :=
  runImm 0x021 ((tyExt.contains (tyOf f.typ)) && f.md.toNat ≤ 20)
    ((resSame tyExt f.typ.toNat).getD (fallbackTy f.typ.toNat)) f
    (fun i s => .done s (splat i.ty (f.imm44.toNat * 2 ^ f.md.toNat))) s

/-- The types of `param` (R80). -/
def tyParam : List Ty := [.i32, .n32, .i64, .n64, .f32, .f16, .bf16, .sli32, .sli16, .addr]

/-- `param` (R80): the value at a byte offset of the parameter snapshot. -/
def coreParam (off : Nat) (i : OpIn) (s : State) : OpRes :=
  let n := i.ty.bits / 8
  if off % n != 0 then trapAlign
  else if i.x.launch.params.length < off + n then trapBounds
  else .done s (splat i.ty (ofLe ((i.x.launch.params.drop off).take n)))

def execParam (f : Fields) (s : State) : Host.Outcome State Fault Refusal :=
  runImm 0x022 (tyParam.contains (tyOf f.typ) && f.md == 0 && f.a == 0 && f.p == 0)
    ((resSame tyParam f.typ.toNat).getD (fallbackTy f.typ.toNat)) f (coreParam f.off22.toNat) s

/-- The table indexes of the groups of a block, in ascending order (09 R204). -/
def groupsOf (l : Launch) (blk : Nat) : List Nat :=
  (List.range l.groups.length).filter fun g =>
    match l.groups[g]? with
    | some gr => gr.members.contains blk
    | none => false

/-- The rank of a block among ascending members (09 R204). -/
def rankIn (ms : List Nat) (blk : Nat) : Nat := (ms.filter fun m => m < blk).length

/-- The k-th group of a block, with its members. -/
def kthGroup (l : Launch) (blk k : Nat) : Option (Nat × List Nat) :=
  match (groupsOf l blk)[k]? with
  | some g => (l.groups[g]?).map fun gr => (g, gr.members)
  | none => none

/-- The identifier K of R81 for a lane. -/
def idValue (x : Site) (k lane : Nat) : Nat :=
  let none_ := 0xFFFFFFFF
  match k with
  | 0 => lane
  | 1 => x.w.wav
  | 2 => ceilDiv x.launch.lanes 32
  | 3 => x.w.blk
  | 4 => x.launch.nblock
  | 17 => x.block.tile
  | 18 => x.block.die
  | 19 => x.launch.ctx
  | n =>
    if n ≤ 8 then
      match kthGroup x.launch x.w.blk (n - 5) with
      | some (g, _) => g
      | none => none_
    else if n ≤ 12 then
      match kthGroup x.launch x.w.blk (n - 9) with
      | some (_, ms) => rankIn ms x.w.blk
      | none => none_
    else
      match kthGroup x.launch x.w.blk (n - 13) with
      | some (_, ms) => ms.length
      | none => 0

/-- `id` (R81). -/
def coreId (k : Nat) (i : OpIn) (s : State) : OpRes := .done s (lanesOf i.ty fun l => idValue i.x k l.val)

def execId (f : Fields) (s : State) : Host.Outcome State Fault Refusal :=
  runImm 0x023 (f.md.toNat ≤ 19 && f.typ == (if f.md == 4 then 5 else 3) && f.a == 0 && f.b == 0 && f.c == 0 && f.p == 0)
    ((resSame [.n32, .n64] f.typ.toNat).getD (fallbackTy f.typ.toNat)) f (coreId f.md.toNat) s

end Sys2Proof.Machine
end

