-- ==== Sys2Proof/Machine/Ieee.lean ====
section
/-!
DEFINITION. Exact values, the IEEE formats (02 R20-R23) with `in()` and `rnd()` (07 R145), the narrow formats and
`to_fmt` (02 R24-R26).
-/

namespace Sys2Proof.Machine

open Sys2Proof

/-- An exact value: NaN, an infinity, or ±(num / den) × 2^e, where num = 0 is a zero of that sign. -/
inductive Exact where
  | nan
  | inf (neg : Bool)
  | fin (neg : Bool) (num den : Nat) (e : Int)
deriving DecidableEq, Repr

/-- A binary format with a sign, `eb` exponent bits and `mb` fraction bits. -/
structure FloatFmt where
  eb : Nat
  mb : Nat
deriving DecidableEq, Repr

/-- The IEEE formats (R20). -/
def floatFmt : Ty → FloatFmt
  | .f16 => { eb := 5, mb := 10 }
  | .bf16 => { eb := 8, mb := 7 }
  | _ => { eb := 8, mb := 23 }

def FloatFmt.bias (f : FloatFmt) : Nat := 2 ^ (f.eb - 1) - 1
def FloatFmt.width (f : FloatFmt) : Nat := 1 + f.eb + f.mb
/-- The exponent of the smallest normal. -/
def FloatFmt.emin (f : FloatFmt) : Int := 1 - (f.bias : Int)
/-- The bits of the infinity and of the canonical quiet NaN, sign 0 (R20, R22). -/
def FloatFmt.infBits (f : FloatFmt) : Nat := (2 ^ f.eb - 1) * 2 ^ f.mb
def FloatFmt.nanBits (f : FloatFmt) : Nat := f.infBits + 2 ^ (f.mb - 1)
def FloatFmt.signBit (f : FloatFmt) : Nat := 2 ^ (f.eb + f.mb)

namespace Exact

def isNan : Exact → Bool
  | .nan => true
  | _ => false

def isInf : Exact → Bool
  | .inf _ => true
  | _ => false

def isZero : Exact → Bool
  | .fin _ n _ _ => n == 0
  | _ => false

def sign : Exact → Bool
  | .nan => false
  | .inf s => s
  | .fin s _ _ _ => s

def neg : Exact → Exact
  | .nan => .nan
  | .inf s => .inf (!s)
  | .fin s n d e => .fin (!s) n d e

def abs : Exact → Exact
  | .nan => .nan
  | .inf _ => .inf false
  | .fin _ n d e => .fin false n d e

/-- An integer. -/
def ofInt (z : Int) : Exact := .fin (decide (z < 0)) z.natAbs 1 0

def zero : Exact := .fin false 0 1 0
def one : Exact := .fin false 1 1 0

/-- The value times 2^k. -/
def scale (x : Exact) (k : Int) : Exact :=
  match x with
  | .fin s n d e => .fin s n d (e + k)
  | y => y

/-- The signed numerator of a finite value over a common denominator and exponent. -/
def numOver (x : Exact) (d : Nat) (e : Int) : Int :=
  match x with
  | .fin s n d' e' =>
    let m : Int := ((n * (d / d') * 2 ^ (e' - e).toNat : Nat) : Int)
    if s then -m else m
  | _ => 0

/-- The exact sum; an exact zero takes the sign that IEEE 754 gives: the common sign of two zeros, else −0 under .rd
(rounding code 3) and +0 otherwise. An infinity less itself is invalid: none. -/
def add (rd : Nat) (x y : Exact) : Option Exact :=
  match x, y with
  | .nan, _ => some .nan
  | _, .nan => some .nan
  | .inf a, .inf b => if a == b then some (.inf a) else none
  | .inf a, _ => some (.inf a)
  | _, .inf b => some (.inf b)
  | .fin a n d e, .fin b n' d' e' =>
    let e0 := min e e'
    let dd := d * d'
    let z := (Exact.fin a n d e).numOver dd e0 + (Exact.fin b n' d' e').numOver dd e0
    if z = 0 then some (.fin (if n == 0 && n' == 0 && a == b then a else rd == 3) 0 1 0)
    else some (.fin (decide (z < 0)) z.natAbs dd e0)

/-- The exact product; zero times infinity is invalid: none. -/
def mul (x y : Exact) : Option Exact :=
  match x, y with
  | .nan, _ => some .nan
  | _, .nan => some .nan
  | .inf a, .inf b => some (.inf (a != b))
  | .inf a, .fin b n _ _ => if n == 0 then none else some (.inf (a != b))
  | .fin a n _ _, .inf b => if n == 0 then none else some (.inf (a != b))
  | .fin a n d e, .fin b n' d' e' => some (.fin (a != b) (n * n') (d * d') (e + e'))

/-- The sign of x − y for values that are no NaN: −1, 0 or 1; zeros are equal. -/
def cmp (x y : Exact) : Int :=
  match x, y with
  | .inf a, .inf b => if a == b then 0 else if a then -1 else 1
  | .inf a, _ => if a then -1 else 1
  | _, .inf b => if b then 1 else -1
  | .fin a n d e, .fin b n' d' e' =>
    let e0 := min e e'
    let dd := d * d'
    (((Exact.fin a n d e).numOver dd e0) - ((Exact.fin b n' d' e').numOver dd e0)).sign
  | _, _ => 0

end Exact

/-! ## Decoding and rounding -/

/-- The value of a bit pattern of an IEEE format. -/
def FloatFmt.value (f : FloatFmt) (x : Nat) : Exact :=
  let s := x / f.signBit % 2 == 1
  let e := x / 2 ^ f.mb % 2 ^ f.eb
  let m := x % 2 ^ f.mb
  if e == 2 ^ f.eb - 1 then (if m == 0 then .inf s else .nan)
  else if e == 0 then .fin s m 1 (f.emin - (f.mb : Int))
  else .fin s (2 ^ f.mb + m) 1 ((e : Int) - (f.bias : Int) - (f.mb : Int))

/-- Is a pattern a signalling NaN (R22)? -/
def FloatFmt.isSnan (f : FloatFmt) (x : Nat) : Bool :=
  x / 2 ^ f.mb % 2 ^ f.eb == 2 ^ f.eb - 1 && x % 2 ^ f.mb != 0 && x / 2 ^ (f.mb - 1) % 2 == 0

/-- Is a pattern a subnormal? -/
def FloatFmt.isSub (f : FloatFmt) (x : Nat) : Bool := x / 2 ^ f.mb % 2 ^ f.eb == 0 && x % 2 ^ f.mb != 0

/-- Are subnormals flushed: .ftz, or bf16 (R21)? -/
def flushes (t : Ty) (ftz : Bool) : Bool := ftz || t == .bf16

/-- `in(x, T, ftz)` (R145): the value read and its flags. -/
def readIn (t : Ty) (ftz : Bool) (x : Nat) : Exact × Nat :=
  let f := floatFmt t
  if f.isSub x && flushes t ftz then (.fin (x / f.signBit % 2 == 1) 0 1 0, 0)
  else (f.value x, if f.isSnan x then fIV else 0)

/-- floor(log2 (n / d)) for positive n and d. -/
def floorLog2 (n d : Nat) : Int :=
  let k : Int := (Nat.log2 n : Int) - (Nat.log2 d : Int)
  let a := n * 2 ^ (-k).toNat
  let b := d * 2 ^ k.toNat
  if b ≤ a then k else k - 1

/-- n × 2^sh / d as a whole number and a remainder over its divisor. -/
def divShift (n d : Nat) (sh : Int) : Nat × Nat × Nat :=
  let a := n * 2 ^ sh.toNat
  let b := d * 2 ^ (-sh).toNat
  (a / b, a % b, b)

/-- Does a rounding code round a magnitude with whole part q and remainder r over d up (R21)? -/
def roundsUp (rd : Nat) (neg : Bool) (q r d : Nat) : Bool :=
  match rd with
  | 0 => decide (d < 2 * r) || (2 * r == d && q % 2 == 1)
  | 1 => false
  | 2 => !neg && r != 0
  | _ => neg && r != 0

/-- A positive value n / d × 2^e rounded to a multiple of 2^q: the multiple, and whether it is inexact. -/
def roundAt (rd : Nat) (neg : Bool) (n d : Nat) (e q : Int) : Nat × Bool :=
  let r := divShift n d (e - q)
  (if roundsUp rd neg r.1 r.2.1 r.2.2 then r.1 + 1 else r.1, r.2.1 != 0)

/-- The bits of a magnitude m × 2^q of a format, m with at most mb + 1 bits and q its unit. -/
def FloatFmt.pack (f : FloatFmt) (neg : Bool) (m : Nat) (q : Int) : Nat :=
  let s := if neg then f.signBit else 0
  if m < 2 ^ f.mb then s + m
  else s + ((q + (f.mb : Int) + (f.bias : Int)).toNat) * 2 ^ f.mb + (m - 2 ^ f.mb)

/-- The result of an overflow (R145). -/
def FloatFmt.overflow (f : FloatFmt) (rd : Nat) (neg : Bool) : Nat :=
  let s := if neg then f.signBit else 0
  let toInf := rd == 0 || (rd == 2 && !neg) || (rd == 3 && neg)
  s + (if toInf then f.infBits else f.infBits - 1)

/-- `rnd(v, T, rd, ftz)` (R145): the bits delivered and the flags. That a bf16 result would be subnormal (02 R21) is judged by the test that
R145 states for f32 and f16 with .ftz, after rounding with an unbounded exponent (DESIGN CHOICE, log entry 69). -/
def rnd (t : Ty) (rd : Nat) (ftz : Bool) (v : Exact) : Nat × Nat :=
  let f := floatFmt t
  match v with
  | .nan => (f.nanBits, 0)
  | .inf s => (f.infBits + (if s then f.signBit else 0), 0)
  | .fin s n d e =>
    if n = 0 then ((if s then f.signBit else 0), 0)
    else
      let E := floorLog2 n d + e
      let tiny := decide (E < f.emin)
      let flush := tiny && flushes t ftz
      let q := (if flush then E else max E f.emin) - (f.mb : Int)
      let r := roundAt rd s n d e q
      let m := if r.1 = 2 ^ (f.mb + 1) then 2 ^ f.mb else r.1
      let q' := if r.1 = 2 ^ (f.mb + 1) then q + 1 else q
      if flush then
        if q' + (f.mb : Int) < f.emin then ((if s then f.signBit else 0), fUF + fIX)
        else (f.pack s m q', fUF + fIX)
      else if (f.bias : Int) < q' + (f.mb : Int) then (f.overflow rd s, fOF + fIX)
      else (f.pack s m q', if r.2 then (if tiny then fUF + fIX else fIX) else 0)

/-- `rnd` of a result that may be invalid: the canonical NaN with IV. -/
def rndOpt (t : Ty) (rd : Nat) (ftz : Bool) (v : Option Exact) : Nat × Nat :=
  match v with
  | some x => rnd t rd ftz x
  | none => ((floatFmt t).nanBits, fIV)

/-- A value delivered as in() read it, unrounded (R149, R159). -/
def deliver (t : Ty) (x : Exact) : Nat := (rnd t 0 false x).1

/-! ## Roots and quotients -/

/-- The exact quotient of values, with division by zero: the value, or none when invalid, and the flags. -/
def exactDiv (x y : Exact) : Option Exact × Nat :=
  match x, y with
  | .nan, _ => (some .nan, 0)
  | _, .nan => (some .nan, 0)
  | .inf _, .inf _ => (none, 0)
  | .inf a, .fin b _ _ _ => (some (.inf (a != b)), 0)
  | .fin a _ _ _, .inf b => (some (.fin (a != b) 0 1 0), 0)
  | .fin a n d e, .fin b n' d' e' =>
    if n' = 0 then (if n = 0 then (none, 0) else (some (.inf (a != b)), fDZ))
    else (some (.fin (a != b) (n * d') (d * n') (e - e')), 0)

/-- A square root by bits: the largest r of k bits with r × r ≤ n. -/
def sqrtBits (n : Nat) : Nat → Nat → Nat
  | 0, r => r
  | k + 1, r => let r' := r + 2 ^ k; sqrtBits n k (if r' * r' ≤ n then r' else r)

/-- floor(√n). -/
def isqrt (n : Nat) : Nat := sqrtBits n (Nat.log2 n / 2 + 1) 0

/-- √(n / d × 2^e) for positive n and d, to 80 bits with a sticky last bit: it rounds as the exact root does. -/
def sqrtSticky (n d : Nat) (e : Int) : Exact :=
  let e2 := if e % 2 == 0 then e else e - 1
  let n2 := if e % 2 == 0 then n else 2 * n
  let sh : Nat := 200 + 2 * Nat.log2 d
  let a := n2 * 2 ^ sh / d
  let r := isqrt a
  let sticky := if r * r == a && n2 * 2 ^ sh % d == 0 then 0 else 1
  .fin false (2 * r + sticky) 1 ((e2 - (sh : Int)) / 2 - 1)

/-- √x (R147): √(−0) = −0; a negative x is invalid. -/
def exactSqrt (x : Exact) : Option Exact :=
  match x with
  | .nan => some .nan
  | .inf s => if s then none else some (.inf false)
  | .fin s n d e => if n = 0 then some (.fin s 0 1 0) else if s then none else some (sqrtSticky n d e)

/-- 1 / √x (R147). -/
def exactRsqrt (x : Exact) : Option Exact × Nat :=
  match x with
  | .nan => (some .nan, 0)
  | .inf s => (if s then none else some (.fin false 0 1 0), 0)
  | .fin s n d e =>
    if n = 0 then (some (.inf s), fDZ) else if s then (none, 0) else (some (sqrtSticky d n (-e)), 0)

/-! ## Narrow formats (02 R24-R26) -/

/-- The element formats by FMT code (R39): width, exponent bits, fraction bits, bias; integers have eb = 0. -/
structure ElemFmt where
  code : Nat
  width : Nat
  isFloat : Bool
  signed : Bool
  eb : Nat
  mb : Nat
  bias : Nat
deriving DecidableEq, Repr

/-- The format of an FMT code 0-8 (R24, R39). -/
def elemFmt (code : Nat) : ElemFmt :=
  match code with
  | 0 => { code := 0, width := 8, isFloat := true, signed := true, eb := 4, mb := 3, bias := 7 }
  | 1 => { code := 1, width := 8, isFloat := true, signed := true, eb := 5, mb := 2, bias := 15 }
  | 2 => { code := 2, width := 6, isFloat := true, signed := true, eb := 2, mb := 3, bias := 1 }
  | 3 => { code := 3, width := 6, isFloat := true, signed := true, eb := 3, mb := 2, bias := 3 }
  | 4 => { code := 4, width := 4, isFloat := true, signed := true, eb := 2, mb := 1, bias := 1 }
  | 5 => { code := 5, width := 8, isFloat := false, signed := true, eb := 0, mb := 0, bias := 0 }
  | 6 => { code := 6, width := 8, isFloat := false, signed := false, eb := 0, mb := 0, bias := 0 }
  | 7 => { code := 7, width := 4, isFloat := false, signed := true, eb := 0, mb := 0, bias := 0 }
  | _ => { code := 8, width := 4, isFloat := false, signed := false, eb := 0, mb := 0, bias := 0 }

/-- The exact decoding dec() of an element code (R19, R24). -/
def decodeElem (f : ElemFmt) (x : Nat) : Exact :=
  let x := x % 2 ^ f.width
  if f.isFloat then
    let s := x / 2 ^ (f.width - 1) % 2 == 1
    let e := x / 2 ^ f.mb % 2 ^ f.eb
    let m := x % 2 ^ f.mb
    if f.code == 0 && e == 15 && m == 7 then .nan
    else if f.code == 1 && e == 31 then (if m == 0 then .inf s else .nan)
    else if e == 0 then .fin s m 1 (1 - (f.bias : Int) - (f.mb : Int))
    else .fin s (2 ^ f.mb + m) 1 ((e : Int) - (f.bias : Int) - (f.mb : Int))
  else
    .ofInt (if f.signed && 2 ^ (f.width - 1) ≤ x then (x : Int) - (2 ^ f.width : Nat) else (x : Int))

/-- The exponent of the smallest normal, and of the largest finite value, of a narrow float. -/
def ElemFmt.emin (f : ElemFmt) : Int := 1 - (f.bias : Int)

/-- The code of the largest finite value of a narrow float, sign 0 (R24). -/
def ElemFmt.maxCode (f : ElemFmt) : Nat :=
  match f.code with
  | 0 => 0x7E
  | 1 => 0x7B
  | _ => 2 ^ (f.width - 1) - 1

/-- `to_fmt(x, f, rd)` (R26): the code and the flags. -/
def toFmt (x : Exact) (f : ElemFmt) (rd : Nat) : Nat × Nat :=
  let sgn (s : Bool) : Nat := if s then 2 ^ (f.width - 1) else 0
  match x with
  | .nan => (if f.code == 0 then 0x7F else if f.code == 1 then 0x7E else 0, fIV)
  | .inf s =>
    if f.isFloat then
      if f.code == 1 then (if s then 0xFC else 0x7C, 0) else (sgn s + f.maxCode, fOF + fIX)
    else if f.signed then (if s then 2 ^ (f.width - 1) else 2 ^ (f.width - 1) - 1, fOF + fIX)
    else (if s then 0 else 2 ^ f.width - 1, fOF + fIX)
  | .fin s n d e =>
    if n = 0 then (if f.isFloat then sgn s else 0, 0)
    else if f.isFloat then
      let E := floorLog2 n d + e
      let q := max E f.emin - (f.mb : Int)
      let r := roundAt rd s n d e q
      let m := if r.1 = 2 ^ (f.mb + 1) then 2 ^ f.mb else r.1
      let q' := if r.1 = 2 ^ (f.mb + 1) then q + 1 else q
      let code : Int :=
        if m < 2 ^ f.mb then (m : Int) else (q' + (f.mb : Int) + (f.bias : Int)) * (2 ^ f.mb : Nat) + (m : Int) - (2 ^ f.mb : Nat)
      if (f.maxCode : Int) < code then (sgn s + f.maxCode, fOF + fIX)
      else (sgn s + code.toNat, if r.2 then (if E < f.emin then fUF + fIX else fIX) else 0)
    else
      let r := roundAt rd s n d e 0
      let v : Int := if s then -(r.1 : Int) else (r.1 : Int)
      let lo : Int := if f.signed then -(2 ^ (f.width - 1) : Nat) else 0
      let hi : Int := if f.signed then (2 ^ (f.width - 1) : Nat) - 1 else (2 ^ f.width : Nat) - 1
      if hi < v then (hi.toNat, fOF + fIX)
      else if v < lo then ((lo % (2 ^ f.width : Nat)).toNat, fOF + fIX)
      else ((v % (2 ^ f.width : Nat)).toNat, if r.2 then fIX else 0)

end Sys2Proof.Machine
end

