-- ==== Sys2Proof/Machine/Special.lean ====
section
/-!
DEFINITION. The ten special functions (07 R153): the exact value of the function, rounded once to nearest even. The
value is enclosed between two rationals by integer series at growing precision until both ends round alike.
-/

namespace Sys2Proof.Machine

open Sys2Proof

/-! ## Fixed-point series: a number x stands for x / 2^P -/

/-- Σ x^(2k+1) / (2k+1) with alternating or equal signs, from the term `t` on; `x2` is x². -/
def oddSeries (P : Nat) (x2 : Int) (alt : Bool) : Nat → Nat → Int → Int → Int
  | 0, _, _, acc => acc
  | f + 1, k, t, acc =>
    if t = 0 then acc
    else
      let term := t / ((2 * k + 1 : Nat) : Int)
      let acc' := if alt && k % 2 == 1 then acc - term else acc + term
      oddSeries P x2 alt f (k + 1) (t * x2 / (2 ^ P : Nat)) acc'

/-- atanh(1/n) and atan(1/n). -/
def atanhInv (P n : Nat) : Int :=
  let one : Int := (2 ^ P : Nat)
  oddSeries P (one / ((n * n : Nat) : Int)) false P 0 (one / (n : Int)) 0
def atanInv (P n : Nat) : Int :=
  let one : Int := (2 ^ P : Nat)
  oddSeries P (one / ((n * n : Nat) : Int)) true P 0 (one / (n : Int)) 0

/-- ln 2 and π. -/
def ln2Fix (P : Nat) : Int := 2 * atanhInv P 3
def piFix (P : Nat) : Int := 16 * atanInv P 5 - 4 * atanInv P 239

/-- Σ x^k / k!, from the term t of index k on. -/
def expSeries (P : Nat) (x : Int) : Nat → Nat → Int → Int → Int
  | 0, _, _, acc => acc
  | f + 1, k, t, acc =>
    if t = 0 then acc else expSeries P x f (k + 1) (t * x / (2 ^ P : Nat) / ((k + 1 : Nat) : Int)) (acc + t)

/-- e^x for 0 ≤ x < 1. -/
def expFix (P : Nat) (x : Int) : Int := expSeries P x (2 * P) 0 (2 ^ P : Nat) 0

/-- Σ ± x^(2k+j) / (2k+j)!, alternating: sin for j = 1 from t = x, cos for j = 0 from t = 1. -/
def trigSeries (P : Nat) (x2 : Int) : Nat → Nat → Int → Int → Int
  | 0, _, _, acc => acc
  | f + 1, k, t, acc =>
    if t = 0 then acc
    else trigSeries P x2 f (k + 2) (-(t * x2 / (2 ^ P : Nat) / (((k + 1) * (k + 2) : Nat) : Int))) (acc + t)

def sinFix (P : Nat) (x : Int) : Int := trigSeries P (x * x / (2 ^ P : Nat)) P 1 x 0
def cosFix (P : Nat) (x : Int) : Int := trigSeries P (x * x / (2 ^ P : Nat)) P 0 (2 ^ P : Nat) 0

/-- Σ x^(2k+1) / (1·3·5·…·(2k+1)). -/
def phiSeries (P : Nat) (x2 : Int) : Nat → Nat → Int → Int → Int
  | 0, _, _, acc => acc
  | f + 1, k, t, acc =>
    if t = 0 then acc
    else phiSeries P x2 f (k + 1) (t * x2 / (2 ^ P : Nat) / ((2 * k + 3 : Nat) : Int)) (acc + t)

/-- A finite value as a fixed-point number. -/
def toFix (P : Nat) (n d : Nat) (e : Int) (neg : Bool) : Int :=
  let m : Int := ((divShift n d (e + (P : Int))).1 : Int)
  if neg then -m else m

/-- ln of a positive n × 2^e, as a fixed-point number. -/
def lnFix (P n : Nat) (e : Int) : Int :=
  let L := Nat.log2 n
  -- n = 2^L × y with 1 ≤ y < 2; ln y = 2 atanh ((y − 1) / (y + 1))
  let z : Int := (((n - 2 ^ L) * 2 ^ P / (n + 2 ^ L) : Nat) : Int)
  2 * oddSeries P (z * z / (2 ^ P : Nat)) false P 0 z 0 + (e + (L : Int)) * ln2Fix P

/-- e^x at precision P: the mantissa and its binary exponent. -/
def expParts (P : Nat) (x : Int) : Int × Int :=
  let l := ln2Fix P
  let k := x.fdiv l
  (expFix P (x - k * l), k)

/-- An enclosure: lower and upper mantissas in units of 2^q. -/
structure Enclosure where
  lo : Int
  hi : Int
  q : Int
deriving DecidableEq, Repr

/-- The enclosure of a fixed-point number with the slack that the series leave. -/
def enclose (x q : Int) : Enclosure := { lo := x - 2 ^ 24, hi := x + 2 ^ 24, q := q }

/-- An exact value from a mantissa and unit. -/
def ofMant (z q : Int) : Exact := .fin (decide (z < 0)) z.natAbs 1 q

/-- The functions by number: exp2, log2, exp, log, sin, cos, tanh, sigm, gelu, silu. -/
inductive Fn where
  | exp2 | log2 | exp | log | sin | cos | tanh | sigm | gelu | silu
deriving DecidableEq, Repr

/-- The quotient of fixed-point numbers. -/
def divFix (P : Nat) (a b : Int) : Int := a * (2 ^ P : Nat) / b

/-- e^(−|x|) as a fixed-point number. -/
def expNegAbs (P : Nat) (ax : Int) : Int :=
  let r := expParts P (-ax)
  r.1 * (2 ^ r.2.toNat : Nat) / (2 ^ (-r.2).toNat : Nat)

/-- The standard normal distribution at x. -/
def normCdf (P : Nat) (x : Int) : Int :=
  let one : Int := (2 ^ P : Nat)
  let ax : Int := (x.natAbs : Int)
  let x2 := x * x / one
  let root : Int := (isqrt (2 * (piFix P).toNat * 2 ^ P) : Int)
  let s := phiSeries P x2 (4 * P + 1024) 0 ax 0
  let g := expParts P (-(x2 / 2))
  let h := divFix P (s * g.1 / one / (2 ^ (-g.2).toNat : Nat)) root
  if x < 0 then one / 2 - h else one / 2 + h

/-- An enclosure of F(x) for a finite non-zero x = ±n / 1 × 2^e at precision P. -/
def encloseFn (P : Nat) (F : Fn) (neg : Bool) (n : Nat) (e : Int) : Enclosure :=
  let one : Int := (2 ^ P : Nat)
  let x := toFix P n 1 e neg
  let ax : Int := (x.natAbs : Int)
  let unit : Int := -(P : Int)
  match F with
  | .exp2 =>
    let k := x.fdiv one
    enclose (expFix P ((x - k * one) * ln2Fix P / one)) (k + unit)
  | .exp => let r := expParts P x; enclose r.1 (r.2 + unit)
  | .log => enclose (lnFix P n e) unit
  | .log2 => enclose (divFix P (lnFix P n e) (ln2Fix P)) unit
  | .sin | .cos =>
    let Q := P + 192
    let half := piFix Q / 2
    let xq := toFix Q n 1 e neg
    let k := (2 * xq + half).fdiv (2 * half)
    let r := (xq - k * half) / (2 ^ 192 : Nat)
    let j := (k + (if F == .cos then 1 else 0)) % 4
    let y := if j == 0 then sinFix P r else if j == 1 then cosFix P r else if j == 2 then -sinFix P r else -cosFix P r
    enclose y unit
  | .tanh =>
    let g := expNegAbs P (2 * ax)
    let h := divFix P (one - g) (one + g)
    enclose (if neg then -h else h) unit
  | .sigm =>
    let g := expNegAbs P ax
    enclose (divFix P (if neg then g else one) (one + g)) unit
  | .silu =>
    let g := expNegAbs P ax
    enclose (x * divFix P (if neg then g else one) (one + g) / one) unit
  | .gelu => enclose (x * normCdf P x / one) unit

/-- Round the enclosed value at growing precision until both ends agree in sign, bits and flags. -/
def zivRound (t : Ty) (ftz : Bool) (F : Fn) (neg : Bool) (n : Nat) (e : Int) : List Nat → Nat × Nat
  | [] => (0, fIX)
  | P :: r =>
    let c := encloseFn P F neg n e
    let lo := rnd t 0 ftz (ofMant c.lo c.q)
    let hi := rnd t 0 ftz (ofMant c.hi c.q)
    if lo == hi && decide ((c.lo < 0) = (c.hi < 0)) then lo else zivRound t ftz F neg n e r

/-- The precisions tried. -/
def zivLadder : List Nat := [256, 512, 1024, 2048, 4096]

/-- A value a hair below or above one whose nearest neighbours are far: it rounds as the exact function does. -/
def justBelow (n : Nat) (e : Int) (neg : Bool) : Exact := .fin neg (n * 2 ^ 300 - 1) 1 (e - 300)

/-- A magnitude far below every format's range, and one far above. -/
def farBelow (neg : Bool) : Exact := .fin neg 1 1 (-400)
def farAbove : Exact := .fin false 1 1 400

/-- Is n × 2^e an integer, and which? -/
def intValue? (n : Nat) (e : Int) (neg : Bool) : Option Int :=
  let q := divShift n 1 e
  if q.2.1 == 0 then some (if neg then -(q.1 : Int) else (q.1 : Int)) else none

/-- F(x) rounded to nearest even in T for a finite non-zero x (R153). Arguments at which the result lies beyond every
format or within a hair of a limit are taken there directly. -/
def specialFinite (t : Ty) (ftz : Bool) (F : Fn) (neg : Bool) (n : Nat) (e : Int) : Nat × Nat :=
  let E := floorLog2 n 1 + e
  let ziv (_ : Unit) := zivRound t ftz F neg n e zivLadder
  match F with
  | .exp2 =>
    if 9 ≤ E then rnd t 0 ftz (if neg then farBelow false else farAbove)
    else
      match intValue? n e neg with
      | some k => rnd t 0 ftz (.fin false 1 1 k)
      | none => ziv ()
  | .exp => if 8 ≤ E then rnd t 0 ftz (if neg then farBelow false else farAbove) else ziv ()
  | .log => if neg then ((floatFmt t).nanBits, fIV) else if (ofMant n e).cmp Exact.one == 0 then (0, 0) else ziv ()
  | .log2 =>
    if neg then ((floatFmt t).nanBits, fIV)
    else if n == 2 ^ Nat.log2 n then rnd t 0 ftz (Exact.ofInt (e + (Nat.log2 n : Int)))
    else ziv ()
  | .sin | .cos => ziv ()
  | .tanh => if 7 ≤ E then rnd t 0 ftz (justBelow 1 0 neg) else ziv ()
  | .sigm => if 8 ≤ E then rnd t 0 ftz (if neg then farBelow false else justBelow 1 0 false) else ziv ()
  | .gelu => if 4 ≤ E then rnd t 0 ftz (if neg then farBelow true else justBelow n e false) else ziv ()
  | .silu => if 8 ≤ E then rnd t 0 ftz (if neg then farBelow true else justBelow n e false) else ziv ()

/-- A special function of a lane (R153): the result and its flags. -/
def special (t : Ty) (ftz : Bool) (F : Fn) (bits : Nat) : Nat × Nat :=
  let r := readIn t ftz bits
  let f := floatFmt t
  let z (s : Bool) : Nat := if s then f.signBit else 0
  match r.1 with
  | .nan => (f.nanBits, r.2)
  | .inf s =>
    match F with
    | .exp2 | .exp => (if s then 0 else f.infBits, 0)
    | .log2 | .log => if s then (f.nanBits, fIV) else (f.infBits, 0)
    | .sin | .cos => (f.nanBits, fIV)
    | .tanh => (deliver t (.fin s 1 1 0), 0)
    | .sigm => (if s then 0 else deliver t Exact.one, 0)
    | .gelu | .silu => (if s then f.signBit else f.infBits, 0)
  | .fin s n d e =>
    if n = 0 then
      match F with
      | .exp2 | .exp | .cos => (deliver t Exact.one, 0)
      | .log2 | .log => (f.infBits + f.signBit, fDZ)
      | .sin | .tanh | .gelu | .silu => (z s, 0)
      | .sigm => (deliver t (.fin false 1 2 0), 0)
    else specialFinite t ftz F s (n / d) e

end Sys2Proof.Machine
end

