-- ==== Sys2Proof/Machine/Float.lean ====
section
/-!
DEFINITION. The vector float group (07 R145-R154).
-/

namespace Sys2Proof.Machine

open Sys2Proof

/-- Fields of an IEEE modifier (04 R75). -/
def modRd (md : Nat) : Nat := md / 16
def modFtz (md : Nat) : Bool := md / 8 % 2 == 1

/-- Legal IEEE modifiers: any rounding code or none, and flush, with nothing else (07 R146). -/
def mdRdFtz (md : Nat) : Bool := md % 8 == 0
def mdFtz (md : Nat) : Bool := md % 8 == 0 && md / 16 == 0

/-- An operand read by in(): its value and flags (R145). -/
def OpIn.inA (i : OpIn) (k : Fin 32) : Exact × Nat := readIn i.ty (modFtz i.md) (i.a.nat k)
def OpIn.inB (i : OpIn) (k : Fin 32) : Exact × Nat := readIn i.ty (modFtz i.md) (i.b.nat k)
def OpIn.inC (i : OpIn) (k : Fin 32) : Exact × Nat := readIn i.ty (modFtz i.md) (i.c.nat k)

/-- Round an exact result, invalid when none, and add the flags of reading and of the operation. A NaN operand gives the
canonical NaN with no flag but that of reading (R147). -/
def finish (t : Ty) (md fl : Nat) (v : Option Exact) : Nat × Nat :=
  let r := rndOpt t (modRd md) (modFtz md) v
  (r.1, r.2 ||| fl)

/-- Is any of these a NaN? -/
def anyNan (xs : List Exact) : Bool := xs.any Exact.isNan

/-- Two operands through a function of exact values (R147). -/
def flt2 (F : Nat → Exact → Exact → Option Exact × Nat) (i : OpIn) (k : Fin 32) : Nat × Nat :=
  let x := i.inA k
  let y := i.inB k
  if anyNan [x.1, y.1] then ((floatFmt i.ty).nanBits, x.2 ||| y.2)
  else
    let r := F (modRd i.md) x.1 y.1
    finish i.ty i.md (r.2 ||| x.2 ||| y.2) r.1

/-- One operand through a function of exact values. -/
def flt1 (F : Exact → Option Exact × Nat) (i : OpIn) (k : Fin 32) : Nat × Nat :=
  let x := i.inA k
  if x.1.isNan then ((floatFmt i.ty).nanBits, x.2)
  else
    let r := F x.1
    finish i.ty i.md (r.2 ||| x.2) r.1

def fltOp2 (opc : Nat) (F : Nat → Exact → Exact → Option Exact × Nat) : Op :=
  { opc := opc, res := resSame tyFlt, form := fun t m => form2 tyFlt t (mdRdFtz m),
    core := fun i s => doneIeee i.ty i s (flt2 F i) }

def fltOp1 (opc : Nat) (F : Exact → Option Exact × Nat) : Op :=
  { opc := opc, res := resSame tyFlt, form := fun t m => form1 tyFlt t (mdRdFtz m),
    core := fun i s => doneIeee i.ty i s (flt1 F i) }

def opFadd : Op := fltOp2 0x040 fun rd x y => (x.add rd y, 0)
def opFsub : Op := fltOp2 0x041 fun rd x y => (x.add rd y.neg, 0)
def opFmul : Op := fltOp2 0x042 fun _ x y => (x.mul y, 0)
def opFdiv : Op := fltOp2 0x044 fun _ x y => exactDiv x y
def opFsqrt : Op := fltOp1 0x045 fun x => (exactSqrt x, 0)
def opFrsq : Op := fltOp1 0x046 exactRsqrt
def opFrcp : Op := fltOp1 0x047 fun x => exactDiv Exact.one x

/-- x × y + z exactly, or none when invalid. -/
def exactFma (rd : Nat) (x y z : Exact) : Option Exact :=
  match x.mul y with
  | none => none
  | some p => p.add rd z

/-- `fma` with a NaN operand: the canonical NaN; IV only for a signalling NaN (R147). -/
def flt3 (F : Nat → Exact → Exact → Exact → Option Exact) (i : OpIn) (k : Fin 32) : Nat × Nat :=
  let x := i.inA k
  let y := i.inB k
  let z := i.inC k
  let fl := x.2 ||| y.2 ||| z.2
  if anyNan [x.1, y.1, z.1] then ((floatFmt i.ty).nanBits, fl)
  else finish i.ty i.md fl (F (modRd i.md) x.1 y.1 z.1)

def opFma : Op :=
  { opc := 0x043, res := resSame tyFlt, form := fun t m => form3 tyFlt t (mdRdFtz m),
    core := fun i s => doneIeee i.ty i s (flt3 exactFma i) }

/-- x + z × (y − x), computed exactly (R147). Invalid are ∞ − ∞ in y − x and 0 × ∞; a last sum of ∞ − ∞ is NaN, with no flag
beyond those of rnd. -/
def exactLerp (rd : Nat) (x y z : Exact) : Option Exact :=
  match y.add rd x.neg with
  | none => none
  | some d =>
    match z.mul d with
    | none => none
    | some p => some ((x.add rd p).getD .nan)

def opFlerp : Op :=
  { opc := 0x05F, res := resSame tyFlt, form := fun t m => form3 tyFlt t (mdRdFtz m),
    core := fun i s => doneIeee i.ty i s (flt3 exactLerp i) }

/-- Is x less than y, −0 taken as less than +0 (R149)? -/
def fltLess (x y : Exact) : Bool :=
  let c := x.cmp y
  decide (c < 0) || (c == 0 && x.isZero && y.isZero && x.sign && !y.sign)

/-- fmin or fmax of two values as in() read them (R149). -/
def fltMinMax (t : Ty) (mx : Bool) (x y : Exact × Nat) : Nat × Nat :=
  let fl := x.2 ||| y.2
  if x.1.isNan && y.1.isNan then ((floatFmt t).nanBits, fl)
  else if x.1.isNan then (deliver t y.1, fl)
  else if y.1.isNan then (deliver t x.1, fl)
  else (deliver t (if (if mx then fltLess x.1 y.1 else fltLess y.1 x.1) then y.1 else x.1), fl)

def opFmin : Op :=
  { opc := 0x048, res := resSame tyFlt, form := fun t m => form2 tyFlt t (mdFtz m),
    core := fun i s => doneIeee i.ty i s fun k => fltMinMax i.ty false (i.inA k) (i.inB k) }

def opFmax : Op :=
  { opc := 0x049, res := resSame tyFlt, form := fun t m => form2 tyFlt t (mdFtz m),
    core := fun i s => doneIeee i.ty i s fun k => fltMinMax i.ty true (i.inA k) (i.inB k) }

/-- An operation on the sign bit alone (R150): `sg` gives the new sign from the signs of a and b. -/
def signOp (opc : Nat) (two : Bool) (sg : Bool → Bool → Bool) : Op :=
  { opc := opc
    res := resSame tyFlt
    form := fun t m => if two then form2 tyFlt t (mdFtz m) else form1 tyFlt t (mdFtz m)
    core := fun i s => doneIeee i.ty i s fun k =>
      let f := floatFmt i.ty
      let x := i.inA k
      let y := if two then i.inB k else (Exact.zero, 0)
      let sb := i.b.nat k / f.signBit % 2 == 1
      let m := deliver i.ty x.1.abs
      if x.1.isNan then (f.nanBits, x.2 ||| y.2)
      else (m + (if sg x.1.sign sb then f.signBit else 0), x.2 ||| y.2) }

def opFneg : Op := signOp 0x04A false fun a _ => !a
def opFabs : Op := signOp 0x04B false fun _ _ => false
def opFcopys : Op := signOp 0x05C true fun _ b => b

/-- A condition of `fcmp` (R148). -/
def fltCond (cc : Nat) (x y : Exact) : Bool :=
  if x.isNan || y.isNan then cc == 1 || cc == 6
  else
    let c := x.cmp y
    match cc with
    | 0 => c == 0
    | 1 => c != 0
    | 2 => decide (c < 0)
    | 3 => decide (c ≤ 0)
    | 4 => decide (0 < c)
    | 5 => decide (0 ≤ c)
    | 6 => false
    | _ => true

def opFcmp : Op :=
  { opc := 0x04C
    res := resFixed tyFlt .pred
    form := fun t m => formFor tyFlt t (m / 16 == 0) fun T =>
      { a := .need [T], b := .need [T], c := .absent, pred := true, res := .pred, pass := .zero }
    core := fun i s => doneIeee .pred i s fun k =>
      let x := i.inA k
      let y := i.inB k
      let cc := i.md % 8
      let iv := if 2 ≤ cc && cc ≤ 5 && anyNan [x.1, y.1] then fIV else 0
      (if fltCond cc x.1 y.1 then 1 else 0, x.2 ||| y.2 ||| iv) }

/-- The class bit of a pattern (R152). -/
def fltClass (t : Ty) (ftz : Bool) (x : Nat) : Nat :=
  let f := floatFmt t
  let s := x / f.signBit % 2 == 1
  let e := x / 2 ^ f.mb % 2 ^ f.eb
  let m := x % 2 ^ f.mb
  if e == 2 ^ f.eb - 1 then
    (if m != 0 then (if f.isSnan x then 0 else 1) else if s then 2 else 9)
  else if e != 0 then (if s then 3 else 8)
  else if m == 0 || flushes t ftz then (if s then 5 else 6)
  else (if s then 4 else 7)

def opFclass : Op :=
  { opc := 0x04D
    res := resFixed tyFlt .n32
    form := fun t m => formFor tyFlt t (mdFtz m) fun T =>
      { a := .need [T], b := .absent, c := .absent, pred := true, res := .n32, pass := .zero }
    core := fun i s => .done s (lanesOf .n32 fun k => 2 ^ fltClass i.ty (modFtz i.md) (i.a.nat k)) }

/-- A special function (R153). -/
def specialOp (opc : Nat) (F : Fn) : Op :=
  { opc := opc, res := resSame tyFlt, form := fun t m => form1 tyFlt t (mdFtz m),
    core := fun i s => doneIeee i.ty i s fun k => special i.ty (modFtz i.md) F (i.a.nat k) }

def opFexp2 : Op := specialOp 0x04E .exp2
def opFlog2 : Op := specialOp 0x04F .log2
def opFexp : Op := specialOp 0x050 .exp
def opFlog : Op := specialOp 0x051 .log
def opFsin : Op := specialOp 0x052 .sin
def opFcos : Op := specialOp 0x053 .cos
def opFtanh : Op := specialOp 0x054 .tanh
def opFsigm : Op := specialOp 0x055 .sigm
def opFgelu : Op := specialOp 0x056 .gelu
def opFsilu : Op := specialOp 0x057 .silu

/-- A value rounded to an integral value in a direction (R151); zero keeps its sign. -/
def integral (rd : Nat) (x : Exact) : Exact :=
  match x with
  | .fin s n d e => if n = 0 then x else .fin s (roundAt rd s n d e 0).1 1 0
  | y => y

/-- An operation of R151, whose direction is fixed or the rounding code's. -/
def integralOp (opc : Nat) (dir : Option Nat) : Op :=
  { opc := opc
    res := resSame tyFlt
    form := fun t m => form1 tyFlt t (if dir.isSome then mdFtz m else mdRdFtz m)
    core := fun i s => doneIeee i.ty i s fun k =>
      let x := i.inA k
      (deliver i.ty (integral (dir.getD (modRd i.md)) x.1), x.2) }

def opFfloor : Op := integralOp 0x058 (some 3)
def opFceil : Op := integralOp 0x059 (some 2)
def opFround : Op := integralOp 0x05A none
def opFtrunc : Op := integralOp 0x05B (some 1)

/-- `fscale` (R147): a power of two beyond every format's reach acts as the nearest that is not. -/
def opFscale : Op :=
  { opc := 0x05D
    res := resSame tyFlt
    form := fun t m => formFor tyFlt t (mdRdFtz m) fun T =>
      { a := .need [T], b := .need [.i32], c := .absent, pred := true, res := T, pass := .opA }
    core := fun i s => doneIeee i.ty i s fun k =>
      let x := i.inA k
      let n := max (-1024) (min 1024 (i.ib k))
      finish i.ty i.md x.2 (some (x.1.scale n)) }

/-- The sum of exact values with its sign of zero (R145), or none when invalid. -/
def sumExact (rd : Nat) : List Exact → Option Exact
  | [] => some Exact.zero
  | [x] => some x
  | x :: r =>
    match sumExact rd r with
    | none => none
    | some y => x.add rd y

/-- z + x0·y0 + x1·y1 of `fdot2`, exactly. A zero sum of zeros of one sign keeps it. -/
def exactDot2 (rd : Nat) (x0 y0 x1 y1 z : Exact) : Option Exact :=
  match x0.mul y0, x1.mul y1 with
  | some p, some q =>
    if anyNan [p, q, z] then some .nan
    else
      match sumExact rd [z, p, q] with
      | none => none
      | some v =>
        if v.isZero then
          let allZero := p.isZero && q.isZero && z.isZero
          some (.fin (if allZero && p.sign == q.sign && q.sign == z.sign then z.sign else rd == 3) 0 1 0)
        else some v
  | _, _ => none

def opFdot2 : Op :=
  { opc := 0x05E
    res := resFixed [.f16, .bf16] .f32
    form := fun t m => formFor [.f16, .bf16] t (mdRdFtz m) fun _ =>
      { a := .need [.n32], b := .need [.n32], c := .need [.f32], pred := true, res := .f32, pass := .opC }
    core := fun i s => doneIeee .f32 i s fun k =>
      let g (v : Nat) := readIn i.ty (modFtz i.md) v
      let x0 := g (i.a.nat k % 65536)
      let x1 := g (i.a.nat k / 65536)
      let y0 := g (i.b.nat k % 65536)
      let y1 := g (i.b.nat k / 65536)
      let z := readIn .f32 (modFtz i.md) (i.c.nat k)
      let fl := x0.2 ||| x1.2 ||| y0.2 ||| y1.2 ||| z.2
      if anyNan [x0.1, x1.1, y0.1, y1.1, z.1] then ((floatFmt .f32).nanBits, fl)
      else finish .f32 i.md fl (exactDot2 (modRd i.md) x0.1 y0.1 x1.1 y1.1 z.1) }

/-- A whole-wave form of TYP n32 or void without operands. -/
def bareForm (t : Ty) (res : Ty) (pass : Pass) (typ : Nat) (ok : Bool) : Option Form :=
  formFor [t] typ ok fun _ => { a := .absent, b := .absent, c := .absent, pred := false, res := res, pass := pass }

def opFstat : Op :=
  { opc := 0x060, res := resSame [.n32], form := fun t m => bareForm .n32 .n32 .everyPath t (m == 0),
    core := fun i s => .done s (splat .n32 i.x.wave.ieee.toNat) }

def opFclr : Op :=
  { opc := 0x061, res := resSame [.void], form := fun t m => bareForm .void .void .zero t (m == 0),
    core := fun i s => .done (i.modWave s fun x => { x with ieee := 0 }) Value.void }

def execFadd (f : Fields) (s : State) : Host.Outcome State Fault Refusal := runOp opFadd f s
def execFsub (f : Fields) (s : State) : Host.Outcome State Fault Refusal := runOp opFsub f s
def execFmul (f : Fields) (s : State) : Host.Outcome State Fault Refusal := runOp opFmul f s
def execFma (f : Fields) (s : State) : Host.Outcome State Fault Refusal := runOp opFma f s
def execFdiv (f : Fields) (s : State) : Host.Outcome State Fault Refusal := runOp opFdiv f s
def execFsqrt (f : Fields) (s : State) : Host.Outcome State Fault Refusal := runOp opFsqrt f s
def execFrsq (f : Fields) (s : State) : Host.Outcome State Fault Refusal := runOp opFrsq f s
def execFrcp (f : Fields) (s : State) : Host.Outcome State Fault Refusal := runOp opFrcp f s
def execFmin (f : Fields) (s : State) : Host.Outcome State Fault Refusal := runOp opFmin f s
def execFmax (f : Fields) (s : State) : Host.Outcome State Fault Refusal := runOp opFmax f s
def execFneg (f : Fields) (s : State) : Host.Outcome State Fault Refusal := runOp opFneg f s
def execFabs (f : Fields) (s : State) : Host.Outcome State Fault Refusal := runOp opFabs f s
def execFcmp (f : Fields) (s : State) : Host.Outcome State Fault Refusal := runOp opFcmp f s
def execFclass (f : Fields) (s : State) : Host.Outcome State Fault Refusal := runOp opFclass f s
def execFexp2 (f : Fields) (s : State) : Host.Outcome State Fault Refusal := runOp opFexp2 f s
def execFlog2 (f : Fields) (s : State) : Host.Outcome State Fault Refusal := runOp opFlog2 f s
def execFexp (f : Fields) (s : State) : Host.Outcome State Fault Refusal := runOp opFexp f s
def execFlog (f : Fields) (s : State) : Host.Outcome State Fault Refusal := runOp opFlog f s
def execFsin (f : Fields) (s : State) : Host.Outcome State Fault Refusal := runOp opFsin f s
def execFcos (f : Fields) (s : State) : Host.Outcome State Fault Refusal := runOp opFcos f s
def execFtanh (f : Fields) (s : State) : Host.Outcome State Fault Refusal := runOp opFtanh f s
def execFsigm (f : Fields) (s : State) : Host.Outcome State Fault Refusal := runOp opFsigm f s
def execFgelu (f : Fields) (s : State) : Host.Outcome State Fault Refusal := runOp opFgelu f s
def execFsilu (f : Fields) (s : State) : Host.Outcome State Fault Refusal := runOp opFsilu f s
def execFfloor (f : Fields) (s : State) : Host.Outcome State Fault Refusal := runOp opFfloor f s
def execFceil (f : Fields) (s : State) : Host.Outcome State Fault Refusal := runOp opFceil f s
def execFround (f : Fields) (s : State) : Host.Outcome State Fault Refusal := runOp opFround f s
def execFtrunc (f : Fields) (s : State) : Host.Outcome State Fault Refusal := runOp opFtrunc f s
def execFcopys (f : Fields) (s : State) : Host.Outcome State Fault Refusal := runOp opFcopys f s
def execFscale (f : Fields) (s : State) : Host.Outcome State Fault Refusal := runOp opFscale f s
def execFdot2 (f : Fields) (s : State) : Host.Outcome State Fault Refusal := runOp opFdot2 f s
def execFlerp (f : Fields) (s : State) : Host.Outcome State Fault Refusal := runOp opFlerp f s
def execFstat (f : Fields) (s : State) : Host.Outcome State Fault Refusal := runOp opFstat f s
def execFclr (f : Fields) (s : State) : Host.Outcome State Fault Refusal := runOp opFclr f s

end Sys2Proof.Machine
end

