-- ==== Sys2Proof/Machine/Sli.lean ====
section
/-!
DEFINITION. Symmetric level-index arithmetic: the reference algorithms of 03 R42-R60 and the instructions of 07
R156-R157.
-/

namespace Sys2Proof.Machine

open Sys2Proof

/-! ## Internal values (R46): a truncated significand of 41 bits, with a sticky bit beside every result -/

/-- The internal value z × 2^e. -/
structure Dy where
  z : Int
  e : Int
deriving DecidableEq, Repr

/-- A result and its sticky bit passed on to a function, whose sticky bit is added. -/
def stickyThen {α β : Type} (x : α × Bool) (f : α → β × Bool) : β × Bool :=
  let y := f x.1
  (y.1, x.2 || y.2)

def Dy.zero : Dy := { z := 0, e := 0 }
def Dy.ofInt (n : Int) : Dy := { z := n, e := 0 }
def Dy.one : Dy := Dy.ofInt 1

/-- rtz() to 40 fraction bits of the significand, with underflow to 0 below 2^−(2^30) (R46). -/
def Dy.trunc (z e : Int) : Dy × Bool :=
  if z = 0 then (Dy.zero, false)
  else
    let n := z.natAbs
    let L := Nat.log2 n
    let k := L - 40
    let q := n / 2 ^ k
    if e + (L : Int) < -(2 ^ 30 : Nat) then (Dy.zero, true)
    else ({ z := if z < 0 then -(q : Int) else (q : Int), e := e + (k : Int) }, n % 2 ^ k != 0)

/-- The exponent just above a value's leading bit. -/
def topOf (z e : Int) : Int := e + (Nat.log2 z.natAbs : Int) + 1

/-- An exact sum of z1 × 2^e1 and z2 × 2^e2 as a mantissa and exponent. A term far below the other's last bit and its
41 significant bits is replaced by one of its sign that truncates alike. -/
def sumDy (z1 e1 z2 e2 : Int) : Int × Int :=
  if z1 = 0 then (z2, e2)
  else if z2 = 0 then (z1, e1)
  else
    let t1 := topOf z1 e1
    let t2 := topOf z2 e2
    let lim1 := min e1 (t1 - 60) - 200
    let lim2 := min e2 (t2 - 60) - 200
    let b := if t2 < lim1 then (z2.sign, lim1) else (z2, e2)
    let a := if t1 < lim2 then (z1.sign, lim2) else (z1, e1)
    let lo := min a.2 b.2
    (a.1 * (2 ^ (a.2 - lo).toNat : Nat) + b.1 * (2 ^ (b.2 - lo).toNat : Nat), lo)

def Dy.add (x y : Dy) : Dy × Bool := let r := sumDy x.z x.e y.z y.e; Dy.trunc r.1 r.2
def Dy.mul (x y : Dy) : Dy × Bool := Dy.trunc (x.z * y.z) (x.e + y.e)
def Dy.neg (x : Dy) : Dy := { x with z := -x.z }
def Dy.abs (x : Dy) : Dy := { x with z := (x.z.natAbs : Int) }

/-- Is a value below 2^k in magnitude? -/
def Dy.magBelow (x : Dy) (k : Int) : Bool := x.z == 0 || decide (topOf x.z x.e ≤ k)

/-- Is a value at least 1? -/
def Dy.geOne (x : Dy) : Bool := decide (0 < x.z) && decide (0 < topOf x.z x.e)

/-- ln 2 and 1/ln 2 rounded to nearest even at 80 fraction bits (R46). -/
def ln2Const : Int := 837963523372001241319908
def invLn2Const : Int := 1744111284760651037637904

/-- rne() of n/d as an internal value, for constants below 1 (R46). -/
def rneDy (neg : Bool) (n d : Nat) : Dy :=
  let k : Int := 40 - floorLog2 n d
  let m : Int := ((roundAt 0 false n d 0 (-k)).1 : Int)
  { z := if neg then -m else m, e := -k }

def dyC3 : Dy := rneDy false 1 3
def dyC5 : Dy := rneDy false 1 5
def dyD3 : Dy := rneDy false 1 6
def dyD4n : Dy := rneDy true 1 24
def dyD5 : Dy := rneDy false 1 120

/-! ## Tables and primitives (R47, R48) -/

/-- x / 2^k to nearest, for x that is no tie. -/
def rneShift (x : Int) (k : Nat) : Int := (2 * x + (2 ^ k : Nat)).fdiv (2 ^ (k + 1) : Nat)

/-- ETAB[i] and LTAB[i] (R47), from series at 120 fraction bits. -/
def etab (i : Nat) : Int := rneShift (expFix 120 (-((i : Int) * (2 ^ 111 : Nat)))) 80
def ltab (i : Nat) : Int := rneShift (lnFix 120 (512 + i) (-9)) 80

/-- INTERP (R47): t in [0, 1]; the value in units of 2^−40. -/
def interp (tab : Nat → Int) (t : Dy) : Int × Bool :=
  if t.z = 0 then (tab 0, false)
  else
    let den : Int := (2 ^ (-(t.e + 8)).toNat : Nat)
    let num : Int := t.z * (2 ^ (t.e + 8).toNat : Nat)
    let j := min (num / den) 255
    let u := num - j * den
    let p0 := tab (2 * j).toNat
    let p1 := tab (2 * j + 1).toNat
    let p2 := tab (2 * j + 2).toNat
    let c1 := -3 * p0 + 4 * p1 - p2
    let c2 := 2 * p0 - 4 * p1 + 2 * p2
    let n := p0 * den * den + u * (c1 * den + u * c2)
    (n / (den * den), n % (den * den) != 0)

/-- EXP (R48). -/
def sliExp (y : Dy) : Dy × Bool :=
  if y.z < 0 && !y.magBelow 31 && !(y.z.natAbs == 2 ^ Nat.log2 y.z.natAbs && topOf y.z y.e == 32) then (Dy.zero, true)
  else
    let a := y.z * invLn2Const
    let k := y.e - 80
    let m : Int := if 0 ≤ k then a * (2 ^ k.toNat : Nat) else -((-a).fdiv (2 ^ (-k).toNat : Nat))
    let r := sumDy (m * ln2Const) (-80) (-y.z) y.e
    stickyThen (Dy.trunc r.1 r.2) fun f =>
      stickyThen
        (if f.z < 0 then
          (let r2 := sumDy f.z f.e ln2Const (-80)
           let t := Dy.trunc r2.1 r2.2
           ((t.1, m + 1), t.2))
        else ((f, m), false))
        fun fm => stickyThen (interp etab fm.1) fun v => Dy.trunc v (fm.2 - 40)

/-- e^−d for d of DIFF, none standing for BIG (R48). -/
def sliExpNeg (d : Option Dy) : Dy × Bool :=
  match d with
  | none => (Dy.zero, true)
  | some y => sliExp y.neg

/-- LN (R48), v > 0. -/
def sliLn (v : Dy) : Dy × Bool :=
  let L := Nat.log2 v.z.natAbs
  let w : Dy := { z := v.z - (2 ^ L : Nat), e := -(L : Int) }
  stickyThen (interp ltab w) fun q =>
    let r := sumDy ((v.e + (L : Int)) * ln2Const) (-80) q (-40)
    Dy.trunc r.1 r.2

/-- c + x × a, each operation truncated. -/
def hornerStep (x a c : Dy) : Dy × Bool := stickyThen (x.mul a) fun p => c.add p

/-- q × (1 + q × (c2 + q × (c3 + q × (c4 + q × c5)))). -/
def hornerFive (q c2 c3 c4 c5 : Dy) : Dy × Bool :=
  stickyThen (hornerStep q c5 c4) fun a =>
    stickyThen (hornerStep q a c3) fun b =>
      stickyThen (hornerStep q b c2) fun c =>
        stickyThen (hornerStep q c Dy.one) fun d => q.mul d

def dyHalfN : Dy := { z := -1, e := -1 }
def dyQuartN : Dy := { z := -1, e := -2 }

/-- LN1P (R48). -/
def sliLn1p (q : Dy) : Dy × Bool :=
  if q.magBelow (-8) then hornerFive q dyHalfN dyC3 dyQuartN dyC5
  else stickyThen (Dy.one.add q) sliLn

/-- EM1 (R48); none is BIG. -/
def sliEm1 (d : Option Dy) : Dy × Bool :=
  match d with
  | none => (Dy.one, true)
  | some x =>
    if x.magBelow (-8) then hornerFive x dyHalfN dyD3 dyD4n dyD5
    else stickyThen (sliExp x.neg) fun y => Dy.one.add y.neg

/-- Apply EXP n times. -/
def sliExpIter : Nat → Dy → Dy × Bool
  | 0, v => (v, false)
  | n + 1, v => stickyThen (sliExp v) (sliExpIter n)

/-- 1 and 5 as level indexes with 40 fraction bits. -/
def liOne : Nat := 2 ^ 40
def liFive : Nat := 5 * 2 ^ 40

/-- PHI (R48): t < 5 in units of 2^−40. -/
def sliPhi (t : Nat) : Dy × Bool := sliExpIter (t / liOne) (Dy.trunc ((t % liOne : Nat) : Int) (-40)).1

/-- PSI (R48): the level index in units of 2^−40. A value below 2^(2^30) falls below 1 within 8 logarithms. -/
def sliPsi : Nat → Dy → Nat × Bool
  | 0, _ => (0, false)
  | f + 1, v =>
    if v.geOne then
      stickyThen (sliLn v) fun w =>
        let r := sliPsi f w
        (liOne + r.1, r.2)
    else if v.magBelow (-60) then (0, v.z != 0)
    else
      let r := divShift v.z.natAbs 1 (v.e + 40)
      (r.1, r.2.1 != 0)

/-! ## Helpers (R49) -/

/-- DIFF: none is BIG. -/
def sliDiff (a b : Nat) : Option Dy × Bool :=
  if a = b then (some Dy.zero, false)
  else if a < liFive then
    stickyThen (sliPhi a) fun x => stickyThen (sliPhi b) fun y =>
      let r := x.add y.neg
      (some r.1, r.2)
  else (none, false)

/-- LIFT; the fuel exceeds the level. -/
def sliLift : Nat → Nat → Dy → (Nat × Bool) × Bool
  | 0, t, _ => ((t, false), false)
  | f + 1, t, h =>
    if h.z = 0 then ((t, false), false)
    else if t < liFive then
      stickyThen (sliPhi t) fun p => stickyThen (p.add h) fun v =>
        stickyThen (sliPsi 12 v.abs) fun w => ((w, decide (v.z < 0)), false)
    else
      stickyThen (sliDiff (t - liOne) 0) fun d => stickyThen (sliExpNeg d) fun x => stickyThen (h.mul x) fun q =>
        stickyThen (sliLn1p q) fun g => stickyThen (sliLift f (t - liOne) g) fun w => ((liOne + w.1, false), false)

/-- SUMPHI; `minus` is e = −1. -/
def sliSumPhi (t1 : Nat) (minus : Bool) (t2 : Nat) : Nat × Bool :=
  let sg (q : Dy) : Dy := if minus then q.neg else q
  if t2 = 0 then (t1, false)
  else if t1 < liFive then
    stickyThen (sliPhi t1) fun x => stickyThen (sliPhi t2) fun y => stickyThen (x.add (sg y)) (sliPsi 12)
  else
    stickyThen
      (if t2 < liOne then
        stickyThen (sliDiff (t1 - liOne) 0) fun d => stickyThen (sliExpNeg d) fun x =>
          ({ z := (t2 : Int), e := -40 } : Dy).mul x
      else stickyThen (sliDiff (t1 - liOne) (t2 - liOne)) sliExpNeg)
      fun q => stickyThen (sliLn1p (sg q)) fun g => stickyThen (sliLift 12 (t1 - liOne) g) fun w => (liOne + w.1, false)

/-! ## Patterns and rounding (R42, R50) -/

/-- The SLI flags as bits (R45). -/
def sUP : Nat := 16
def sDN : Nat := 8
def sFLIP : Nat := 4
def sTOP : Nat := 2
def sINX : Nat := 1

/-- The fraction bits of an SLI type. -/
def sliFb (t : Ty) : Nat := if t == .sli16 then 11 else 27

/-- What an SLI pattern stands for (R42): zero, INV, or an ordinary value with its level index in units of 2^−40. -/
inductive SliVal where
  | zero
  | inv
  | ord (sign recip : Bool) (s : Nat)
deriving DecidableEq, Repr

/-- The pattern of sign, reciprocal bit, level code and fraction. -/
def sliPattern (fb : Nat) (sign recip : Bool) (code frac : Nat) : Nat :=
  (if sign then 2 ^ (fb + 4) else 0) + (if recip then 2 ^ (fb + 3) else 0) + code * 2 ^ fb + frac

def sliZeroBits (fb : Nat) : Nat := 2 ^ (fb + 3)
def sliInvBits (fb : Nat) : Nat := 2 ^ (fb + 4) + 2 ^ (fb + 3)
def sliLargest (fb : Nat) (sign : Bool) : Nat := sliPattern fb sign false 7 (2 ^ fb - 1)

/-- Decode a pattern (R42). -/
def sliDecode (fb x : Nat) : SliVal :=
  if x = sliZeroBits fb then .zero
  else if x = sliInvBits fb then .inv
  else
    .ord (x / 2 ^ (fb + 4) % 2 == 1) (x / 2 ^ (fb + 3) % 2 == 1)
      ((x / 2 ^ fb % 8 + 1) * liOne + x % 2 ^ fb * 2 ^ (40 - fb))

/-- The level of an ordinary pattern (R42). -/
def sliLevel (s : Nat) : Nat := s / liOne

/-- ROUNDSLI (R50): the pattern and INX. -/
def roundSli (fb : Nat) (sign recip : Bool) (s : Nat) (sticky : Bool) : Nat × Nat :=
  let q0 := s / 2 ^ (40 - fb)
  let rem := s % 2 ^ (40 - fb)
  let half := 2 ^ (39 - fb)
  let q := if half < rem || (rem == half && (sticky || q0 % 2 == 1)) then q0 + 1 else q0
  let inx := rem != 0 || sticky
  let tooBig := decide (9 * 2 ^ fb ≤ q)
  let q' := if tooBig then 9 * 2 ^ fb - 1 else q
  let recip' := recip && q' != 2 ^ fb
  (sliPattern fb sign recip' (q' / 2 ^ fb - 1) (q' % 2 ^ fb), if inx || tooBig then sINX else 0)

/-- The flags that R45 gives for a result beside INX: UP, DN and FLIP against the operands that are neither zero nor
INV, and TOP; in every combination of `red` and `scan` too, 19 R388's sentence on one program notwithstanding (DEDUCED, log entry
74). -/
def sliOrdFlags (fb r : Nat) (ops : List SliVal) : Nat :=
  match sliDecode fb r with
  | .ord _ rr rs =>
    let os := ops.filterMap fun v => match v with | .ord _ c s => some (c, sliLevel s) | _ => none
    let L := sliLevel rs
    (if os ≠ [] && os.all (fun o => decide (o.2 < L)) then sUP else 0)
      + (if os ≠ [] && os.all (fun o => decide (L < o.2)) then sDN else 0)
      + (if os ≠ [] && os.all (fun o => o.1 != rr) then sFLIP else 0)
      + (if L = 8 then sTOP else 0)
  | _ => 0

/-- Order of magnitudes (R51). -/
def sliKey (recip : Bool) (s : Nat) : Int := if recip then 2 * (liOne : Int) - (s : Int) else (s : Int)

/-! ## Operations (R51-R54) -/

/-- SLI_ADD of ordinary operands whose magnitudes satisfy |x| ≥ |y|. -/
def sliAddOrd (fb : Nat) (xs xr : Bool) (x : Nat) (ys yr : Bool) (y : Nat) : Nat × Nat :=
  let tx := x - liOne
  let ty := y - liOne
  let d : Option Dy × Bool :=
    if !xr && !yr then sliDiff tx ty
    else if !xr then
      (if tx < liFive && ty < liFive then
        stickyThen (sliPhi tx) fun a => stickyThen (sliPhi ty) fun b => let r := a.add b; (some r.1, r.2)
      else (none, false))
    else sliDiff ty tx
  let r : (Nat × Bool) × Bool :=
    stickyThen d fun d =>
      stickyThen (if xs == ys then stickyThen (sliExpNeg d) sliLn1p else stickyThen (sliEm1 d) sliLn) fun g =>
        sliLift 12 tx (if xr then g.neg else g)
  roundSli fb xs (xr != r.1.2) (liOne + r.1.1) r.2

/-- SLI_ADD (R51, R54): the pattern and the flags. -/
def sliAdd (fb a b : Nat) : Nat × Nat :=
  match sliDecode fb a, sliDecode fb b with
  | .inv, _ => (sliInvBits fb, 0)
  | _, .inv => (sliInvBits fb, 0)
  | .zero, _ => (b, 0)
  | _, .zero => (a, 0)
  | .ord s1 r1 x, .ord s2 r2 y =>
    if s1 != s2 && r1 == r2 && x == y then (sliZeroBits fb, 0)
    else
      let r :=
        if sliKey r1 x < sliKey r2 y then sliAddOrd fb s2 r2 y s1 r1 x else sliAddOrd fb s1 r1 x s2 r2 y
      (r.1, r.2 ||| sliOrdFlags fb r.1 [.ord s1 r1 x, .ord s2 r2 y])

/-- SLI_NEG without flags (R53). -/
def sliNegBits (fb a : Nat) : Nat :=
  match sliDecode fb a with
  | .zero => sliZeroBits fb
  | .inv => sliInvBits fb
  | .ord s _ _ => if s then a - 2 ^ (fb + 4) else a + 2 ^ (fb + 4)

/-- SLI_SUB (R51). -/
def sliSub (fb a b : Nat) : Nat × Nat := sliAdd fb a (sliNegBits fb b)

/-- SLI_MUL_DIV (R52) of ordinary operands. -/
def sliMulDivOrd (fb : Nat) (div : Bool) (s1 r1 : Bool) (x : Nat) (s2 r2 : Bool) (y : Nat) : Nat × Nat :=
  let n1 := r1
  let n2 := r2 != div
  let t1 := x - liOne
  let t2 := y - liOne
  let sg := s1 != s2
  let c := if t1 < t2 then (n2, t2, n1, t1) else (n1, t1, n2, t2)
  if c.2.1 == c.2.2.2 && c.1 != c.2.2.1 then (sliPattern fb sg false 0 0, 0)
  else
    let w := sliSumPhi c.2.1 (c.1 != c.2.2.1) c.2.2.2
    roundSli fb sg c.1 (liOne + w.1) w.2

/-- SLI_MUL and SLI_DIV (R52, R54). -/
def sliMul (fb a b : Nat) : Nat × Nat :=
  match sliDecode fb a, sliDecode fb b with
  | .inv, _ => (sliInvBits fb, 0)
  | _, .inv => (sliInvBits fb, 0)
  | .zero, _ => (sliZeroBits fb, 0)
  | _, .zero => (sliZeroBits fb, 0)
  | .ord s1 r1 x, .ord s2 r2 y =>
    let r := sliMulDivOrd fb false s1 r1 x s2 r2 y
    (r.1, r.2 ||| sliOrdFlags fb r.1 [.ord s1 r1 x, .ord s2 r2 y])

def sliDiv (fb a b : Nat) : Nat × Nat :=
  match sliDecode fb a, sliDecode fb b with
  | .inv, _ => (sliInvBits fb, 0)
  | _, .inv => (sliInvBits fb, 0)
  | .zero, .zero => (sliZeroBits fb, sINX)
  | .zero, _ => (sliZeroBits fb, 0)
  | .ord s _ _, .zero => (sliLargest fb s, sTOP + sINX)
  | .ord s1 r1 x, .ord s2 r2 y =>
    let r := sliMulDivOrd fb true s1 r1 x s2 r2 y
    (r.1, r.2 ||| sliOrdFlags fb r.1 [.ord s1 r1 x, .ord s2 r2 y])

/-- TOP for an exact result of level 8 (R53). -/
def sliTop (s : Nat) : Nat := if sliLevel s = 8 then sTOP else 0

/-- SLI_NEG, SLI_ABS and SLI_RCP (R53). -/
def sliNeg (fb a : Nat) : Nat × Nat :=
  match sliDecode fb a with
  | .ord _ _ s => (sliNegBits fb a, sliTop s)
  | _ => (sliNegBits fb a, 0)

def sliAbs (fb a : Nat) : Nat × Nat :=
  match sliDecode fb a with
  | .zero => (sliZeroBits fb, 0)
  | .inv => (sliInvBits fb, 0)
  | .ord _ _ s => (a % 2 ^ (fb + 4), sliTop s)

def sliRcp (fb a : Nat) : Nat × Nat :=
  match sliDecode fb a with
  | .zero => (sliLargest fb false, sTOP + sINX)
  | .inv => (sliInvBits fb, 0)
  | .ord _ r s =>
    if s = liOne then (a, 0)
    else (if r then a - 2 ^ (fb + 3) else a + 2 ^ (fb + 3), sFLIP + sliTop s)

/-- The order of two values that are not INV (R157), as a signed key of each. -/
def sliOrder (v : SliVal) : Int × Int :=
  match v with
  | .ord s r x => if s then (-1, -sliKey r x) else (1, sliKey r x)
  | _ => (0, 0)

def sliCompare (x y : SliVal) : Int :=
  let a := sliOrder x
  let b := sliOrder y
  if a.1 < b.1 then -1 else if b.1 < a.1 then 1 else (a.2 - b.2).sign

/-- sli.cmp (R157). -/
def sliCond (cc fb a b : Nat) : Bool :=
  match sliDecode fb a, sliDecode fb b with
  | .inv, _ => cc == 1
  | _, .inv => cc == 1
  | x, y => condInt cc (sliCompare x y) 0

/-- sli.min and sli.max (R157). -/
def sliMinMax (mx : Bool) (fb a b : Nat) : Nat :=
  match sliDecode fb a, sliDecode fb b with
  | .inv, _ => sliInvBits fb
  | _, .inv => sliInvBits fb
  | x, y =>
    let c := sliCompare x y
    if (if mx then decide (c < 0) else decide (0 < c)) then b else a

/-- sli.lvl (R157). -/
def sliLvl (fb a : Nat) : Nat :=
  match sliDecode fb a with
  | .zero => 0x20
  | .inv => 0x40
  | .ord _ r s => sliLevel s + (if r then 16 else 0)

/-! ## Conversions (R58-R60) -/

/-- From IEEE (R58): the pattern, the IEEE flags and the SLI flags. -/
def sliOfIeee (fb : Nat) (x : Exact × Nat) : Nat × Nat × Nat :=
  match x.1 with
  | .nan => (sliInvBits fb, x.2, 0)
  | .inf _ => (sliInvBits fb, x.2, 0)
  | .fin s n d e =>
    if n = 0 then (sliZeroBits fb, x.2, 0)
    else
      let r := stickyThen (sliLn { z := ((n / d : Nat) : Int), e := e }) fun y =>
        stickyThen (sliPsi 12 y.abs) fun w => ((w, decide (y.z < 0)), false)
      let p := roundSli fb s r.1.2 (liOne + r.1.1) r.2
      (p.1, x.2, p.2 ||| (sliOrdFlags fb p.1 [] &&& sTOP))

/-- Into IEEE (R59): the bits and the IEEE flags. -/
def sliToIeee (fb a : Nat) (t : Ty) (ftz : Bool) : Nat × Nat :=
  match sliDecode fb a with
  | .inv => ((floatFmt t).nanBits, fIV)
  | .zero => (0, 0)
  | .ord sg r s =>
    let u := s - liOne
    if 4 * liOne ≤ u then
      (if r then rnd t 0 ftz (farBelow sg) else rnd t 0 ftz (.fin sg 1 1 400))
    else
      let v := stickyThen (sliPhi u) fun y => sliExp (if r then y.neg else y)
      rnd t 0 ftz (.fin sg (2 * v.1.z.natAbs + (if v.2 then 1 else 0)) 1 (max (-2000) (v.1.e - 1)))

/-- Between SLI formats (R60): the pattern and the SLI flags. -/
def sliConvert (fbFrom fbTo a : Nat) : Nat × Nat :=
  match sliDecode fbFrom a with
  | .zero => (sliZeroBits fbTo, 0)
  | .inv => (sliInvBits fbTo, 0)
  | .ord sg r s =>
    let p := roundSli fbTo sg r s false
    (p.1, p.2 ||| (sliOrdFlags fbTo p.1 [] &&& sTOP))

/-! ## The instructions (07 R156) -/

def sliOp2 (opc : Nat) (F : Nat → Nat → Nat → Nat × Nat) : Op :=
  { opc := opc, res := resSame tySli, form := fun t m => form2 tySli t (m == 0),
    core := fun i s => doneSli i.ty i s fun k => F (sliFb i.ty) (i.a.nat k) (i.b.nat k) }

def sliOp1 (opc : Nat) (F : Nat → Nat → Nat × Nat) : Op :=
  { opc := opc, res := resSame tySli, form := fun t m => form1 tySli t (m == 0),
    core := fun i s => doneSli i.ty i s fun k => F (sliFb i.ty) (i.a.nat k) }

def opSliAdd : Op := sliOp2 0x080 sliAdd
def opSliSub : Op := sliOp2 0x081 sliSub
def opSliMul : Op := sliOp2 0x082 sliMul
def opSliDiv : Op := sliOp2 0x083 sliDiv
def opSliNeg : Op := sliOp1 0x084 sliNeg
def opSliAbs : Op := sliOp1 0x085 sliAbs
def opSliRcp : Op := sliOp1 0x086 sliRcp

def opSliCmp : Op :=
  { opc := 0x087
    res := resFixed tySli .pred
    form := fun t m => formFor tySli t (m ≤ 5) fun T =>
      { a := .need [T], b := .need [T], c := .absent, pred := true, res := .pred, pass := .zero }
    core := fun i s => .done s (predOf fun k => sliCond i.md (sliFb i.ty) (i.a.nat k) (i.b.nat k)) }

def opSliMin : Op := sliOp2 0x088 fun fb a b => (sliMinMax false fb a b, 0)
def opSliMax : Op := sliOp2 0x089 fun fb a b => (sliMinMax true fb a b, 0)

def opSliStat : Op :=
  { opc := 0x08A, res := resSame [.n32], form := fun t m => bareForm .n32 .n32 .everyPath t (m == 0),
    core := fun i s => .done s (splat .n32 i.x.wave.sli.toNat) }

def opSliClr : Op :=
  { opc := 0x08B, res := resSame [.void], form := fun t m => bareForm .void .void .zero t (m == 0),
    core := fun i s => .done (i.modWave s fun x => { x with sli := 0 }) Value.void }

def opSliLvl : Op :=
  { opc := 0x08C
    res := resSame [.n32]
    form := fun t m => formFor [.n32] t (m == 0) fun _ =>
      { a := .need tySli, b := .absent, c := .absent, pred := true, res := .n32, pass := .zero }
    core := fun i s => .done s (lanesOf .n32 fun k => sliLvl (sliFb i.a.ty) (i.a.nat k)) }

def opSliSq : Op := sliOp1 0x08D fun fb a => sliMul fb a a

def execSliAdd (f : Fields) (s : State) : Host.Outcome State Fault Refusal := runOp opSliAdd f s
def execSliSub (f : Fields) (s : State) : Host.Outcome State Fault Refusal := runOp opSliSub f s
def execSliMul (f : Fields) (s : State) : Host.Outcome State Fault Refusal := runOp opSliMul f s
def execSliDiv (f : Fields) (s : State) : Host.Outcome State Fault Refusal := runOp opSliDiv f s
def execSliNeg (f : Fields) (s : State) : Host.Outcome State Fault Refusal := runOp opSliNeg f s
def execSliAbs (f : Fields) (s : State) : Host.Outcome State Fault Refusal := runOp opSliAbs f s
def execSliRcp (f : Fields) (s : State) : Host.Outcome State Fault Refusal := runOp opSliRcp f s
def execSliCmp (f : Fields) (s : State) : Host.Outcome State Fault Refusal := runOp opSliCmp f s
def execSliMin (f : Fields) (s : State) : Host.Outcome State Fault Refusal := runOp opSliMin f s
def execSliMax (f : Fields) (s : State) : Host.Outcome State Fault Refusal := runOp opSliMax f s
def execSliStat (f : Fields) (s : State) : Host.Outcome State Fault Refusal := runOp opSliStat f s
def execSliClr (f : Fields) (s : State) : Host.Outcome State Fault Refusal := runOp opSliClr f s
def execSliLvl (f : Fields) (s : State) : Host.Outcome State Fault Refusal := runOp opSliLvl f s
def execSliSq (f : Fields) (s : State) : Host.Outcome State Fault Refusal := runOp opSliSq f s

end Sys2Proof.Machine
end

