-- ==== Sys2Proof/Machine/Lane.lean ====
section
/-!
DEFINITION. Lane exchange, reductions and scans (07 R168-R173).
-/

namespace Sys2Proof.Machine

open Sys2Proof

/-- A lane of an operand by a number that may fall outside 0-31. -/
def Value.natAt (v : Value) (k : Nat) : Nat := (v.x[k]?.getD 0).toNat

/-- The source lane of `shfl` in a lane (R169), none when it falls outside. -/
def shflSource (mode lane b : Nat) : Option Nat :=
  match mode with
  | 0 => some (b % 32)
  | 1 => if b ≤ lane then some (lane - b) else none
  | 2 => if lane + b < 32 then some (lane + b) else none
  | _ => some (lane ^^^ (b % 32))

def opShfl : Op :=
  { opc := 0x0B0, res := resSame tySel
    form := fun t m => formFor tySel t (m ≤ 3) fun T =>
      { a := .need [T], b := .need [.n32], c := .absent, pred := true, res := T, pass := .opA }
    core := fun i s => .done s (lanesOf i.ty fun k =>
      match shflSource i.md k.val (i.b.nat k) with
      | some j => i.a.natAt j
      | none => i.a.nat k) }

def opBcast : Op :=
  { opc := 0x0B5, res := resSame tySel, form := fun t m => form1 tySel t (m ≤ 31)
    core := fun i s => .done s (splat i.ty (i.a.natAt i.md)) }

def opLsel : Op :=
  { opc := 0x0B6, res := resSame tySel, form := fun t m => form1 tySel t (m ≤ 1)
    core := fun i s =>
      match (if i.md == 1 then i.mask.highest else i.mask.lowest) with
      | some k => .done s (splat i.ty (i.a.nat k))
      | none => .done s (Value.zero i.ty) }

/-- The answer of `vote` (R171). -/
def voteValue (kind : Nat) (m : LaneMask) (a : Value) : Nat :=
  let ones := m.list.filter fun k => a.nat k == 1
  match kind with
  | 0 => if ones ≠ [] then 1 else 0
  | 1 => if ones.length = m.list.length then 1 else 0
  | 2 => if ones = [] ∨ ones.length = m.list.length then 1 else 0
  | _ => (ones.map fun k => 2 ^ k.val).sum

def opVote : Op :=
  { opc := 0x0B1, res := resSame [.pred, .n32]
    form := fun t m => formFor [.pred, .n32] t (m ≤ 3 && (t == 3) == (m == 3)) fun T =>
      { a := .need [.pred], b := .absent, c := .absent, pred := true, res := T, pass := .zero }
    core := fun i s => .done s (splat i.ty (voteValue i.md i.mask i.a)) }

/-- `gtrans` (R173): the source lane and slot of a lane's slot. -/
def gtransSource (n i t : Nat) : Nat × Nat :=
  let q := i * n + t
  let col := q / 4
  let row := q % 4
  (8 * row + col / n, col % n)

def gtransLane (size : Nat) (a : Value) (i : Nat) : Nat :=
  let w := ([8, 16, 32][size]?).getD 32
  let n := 32 / w
  ((List.range n).map fun t =>
    let s := gtransSource n i t
    (a.natAt s.1 / 2 ^ (w * s.2) % 2 ^ w) * 2 ^ (w * t)).sum

def opGtrans : Op :=
  { opc := 0x0B4, res := resSame [.n32], form := fun t m => form1 [.n32] t (m ≤ 2)
    core := fun i s => .done s (lanesOf .n32 fun k => gtransLane i.md i.a k.val) }

/-! ## red and scan (R172) -/

/-- A value of the tree with the IEEE and SLI flags of its evaluation; no value is ABSENT. -/
structure TreeVal where
  v : Option Nat
  ieee : Nat
  sli : Nat
deriving DecidableEq, Repr

/-- OP of two values of a type: the bits and the flags. -/
def treeOp (t : Ty) (op : Nat) (ftz : Bool) (x y : Nat) : Nat × Nat × Nat :=
  if t.isFlt then
    let a := readIn t ftz x
    let b := readIn t ftz y
    match op with
    | 0 =>
      if anyNan [a.1, b.1] then ((floatFmt t).nanBits, a.2 ||| b.2, 0)
      else let r := rndOpt t 0 ftz (a.1.add 0 b.1); (r.1, r.2 ||| a.2 ||| b.2, 0)
    | 1 =>
      if anyNan [a.1, b.1] then ((floatFmt t).nanBits, a.2 ||| b.2, 0)
      else let r := rndOpt t 0 ftz (a.1.mul b.1); (r.1, r.2 ||| a.2 ||| b.2, 0)
    | n => let r := fltMinMax t (n == 3) a b; (r.1, r.2, 0)
  else if t.isInt then
    let a := toInt t x
    let b := toInt t y
    match op with
    | 0 => (wrapTo t (a + b), 0, 0)
    | 1 => (wrapTo t (a * b), 0, 0)
    | 2 => (wrapTo t (min a b), 0, 0)
    | 3 => (wrapTo t (max a b), 0, 0)
    | 4 => (x &&& y, 0, 0)
    | 5 => (x ||| y, 0, 0)
    | _ => (x ^^^ y, 0, 0)
  else
    let fb := sliFb t
    match op with
    | 0 => let r := sliAdd fb x y; (r.1, 0, r.2)
    | 1 => let r := sliMul fb x y; (r.1, 0, r.2)
    | n => (sliMinMax (n == 3) fb x y, 0, 0)

/-- `comb` (R172): ABSENT passes the other value through; the flags are those of this evaluation alone. -/
def comb (t : Ty) (op : Nat) (ftz : Bool) (x y : Option Nat) : TreeVal :=
  match x, y with
  | some a, some b => let r := treeOp t op ftz a b; { v := some r.1, ieee := r.2.1, sli := r.2.2 }
  | some a, none => { v := some a, ieee := 0, sli := 0 }
  | none, y => { v := y, ieee := 0, sli := 0 }

/-- The next level of nodes. -/
def pairUp (t : Ty) (op : Nat) (ftz : Bool) : List TreeVal → List TreeVal
  | x :: y :: r => comb t op ftz x.v y.v :: pairUp t op ftz r
  | _ => []

/-- The levels of nodes 0 to n. -/
def treeLevels (t : Ty) (op : Nat) (ftz : Bool) : Nat → List TreeVal → List (List TreeVal)
  | 0, l => [l]
  | n + 1, l => l :: treeLevels t op ftz n (pairUp t op ftz l)

/-- `node(l, k)`. -/
def nodeAt (ls : List (List TreeVal)) (l k : Nat) : Option Nat :=
  match ls[l]? with
  | some r => (r[k]?).bind TreeVal.v
  | none => none

/-- `prefix(n)`: the levels from 5 down, with the flags of its evaluations. -/
def prefixFrom (t : Ty) (op : Nat) (ftz : Bool) (ls : List (List TreeVal)) (n : Nat) : Nat → Nat → TreeVal → TreeVal
  | 0, _, acc => acc
  | l + 1, base, acc =>
    if n.testBit l then
      let r := comb t op ftz acc.v (nodeAt ls l (base / 2 ^ l))
      prefixFrom t op ftz ls n l (base + 2 ^ l) { r with ieee := r.ieee ||| acc.ieee, sli := r.sli ||| acc.sli }
    else prefixFrom t op ftz ls n l base acc

/-- The identity of an operation (R172). -/
def treeIdent (t : Ty) (op : Nat) : Nat :=
  if t.isFlt then
    let f := floatFmt t
    match op with
    | 0 => 0
    | 1 => f.bias * 2 ^ f.mb
    | 2 => f.infBits
    | _ => f.signBit + f.infBits
  else if t.isInt then
    match op with
    | 1 => 1
    | 2 => wrapTo t (tyMax t)
    | 3 => wrapTo t (tyMin t)
    | 4 => 2 ^ t.bits - 1
    | _ => 0
  else
    match op with
    | 0 => sliZeroBits (sliFb t)
    | 1 => 0
    | 2 => sliLargest (sliFb t) false
    | _ => sliLargest (sliFb t) true

/-- The nodes of an instruction's tree, from its active lanes. -/
def treeOf (i : OpIn) : List (List TreeVal) :=
  treeLevels i.ty (i.md % 8) (i.md / 16 == 1) 5
    ((List.finRange 32).map fun k => { v := if i.mask.has k.val then some (i.a.nat k) else none, ieee := 0, sli := 0 })

/-- The flags of every node together. -/
def treeFlags (ls : List (List TreeVal)) : Nat × Nat :=
  ls.flatten.foldl (fun a n => (a.1 ||| n.ieee, a.2 ||| n.sli)) (0, 0)

/-- Define a value with IEEE and SLI flags. -/
def doneFlags (i : OpIn) (s : State) (fl : Nat × Nat) (g : Fin 32 → Nat) : OpRes :=
  .done ((s.orIeee i.x.w fl.1).orSli i.x.w fl.2) (lanesOf i.ty fun k => if i.mask.has k.val then g k else 0)

def coreRed (i : OpIn) (s : State) : OpRes :=
  let ls := treeOf i
  doneFlags i s (treeFlags ls) fun _ => (nodeAt ls 5 0).getD 0

def coreScan (i : OpIn) (s : State) : OpRes :=
  let ls := treeOf i
  let ex := i.md / 8 % 2 == 1
  let ps := (List.range 32).map fun k =>
    if i.mask.has k then
      prefixFrom i.ty (i.md % 8) (i.md / 16 == 1) ls (if ex then k else k + 1) 6 0 { v := none, ieee := 0, sli := 0 }
    else { v := none, ieee := 0, sli := 0 }
  let fl := treeFlags (ps :: ls)
  doneFlags i s fl fun k => (((ps[k.val]?).bind TreeVal.v)).getD (treeIdent i.ty (i.md % 8))

/-- The types of `red` and `scan`, and their modifiers. -/
def tyTree : List Ty := tyInt ++ tyFlt ++ tySli

def treeMdOk (t : Nat) (m : Nat) (excl : Bool) : Bool :=
  let ty := (Ty.ofCode t).getD .void
  m < 32 && m % 8 ≠ 7 && (m % 8 ≤ 3 || ty.isInt) && (excl || m / 8 % 2 == 0) && (m < 16 || ty.isFlt)

def treeForm (excl : Bool) (t m : Nat) : Option Form :=
  formFor tyTree t (treeMdOk t m excl) fun T =>
    { a := .need [T], b := .may [T], c := .absent, pred := true, res := T, pass := .optB }

def opScan : Op := { opc := 0x0B2, res := resSame tyTree, form := treeForm true, core := coreScan }
def opRed : Op := { opc := 0x0B3, res := resSame tyTree, form := treeForm false, core := coreRed }

def execShfl (f : Fields) (s : State) : Host.Outcome State Fault Refusal := runOp opShfl f s
def execVote (f : Fields) (s : State) : Host.Outcome State Fault Refusal := runOp opVote f s
def execScan (f : Fields) (s : State) : Host.Outcome State Fault Refusal := runOp opScan f s
def execRed (f : Fields) (s : State) : Host.Outcome State Fault Refusal := runOp opRed f s
def execGtrans (f : Fields) (s : State) : Host.Outcome State Fault Refusal := runOp opGtrans f s
def execBcast (f : Fields) (s : State) : Host.Outcome State Fault Refusal := runOp opBcast f s
def execLsel (f : Fields) (s : State) : Host.Outcome State Fault Refusal := runOp opLsel f s

end Sys2Proof.Machine
end

