-- ==== Sys2Proof/Machine/Memory.lean ====
section
/-!
DEFINITION. Loads, stores, prefetches and atomics (13 R268-R275). Fragment loads stand with the matrix group.
-/

namespace Sys2Proof.Machine

open Sys2Proof

/-- The size of a size code in bytes (R268). -/
def sizeBytes (c : Nat) : Nat := 2 ^ c

/-- The types that a size code allows (R268); a tile row is loaded, and a pair stored, at 16 bytes. -/
def sizeOk (store : Bool) (t : Ty) (c : Nat) : Bool :=
  match c with
  | 0 => t.isInt
  | 1 => t.isInt || [Ty.f16, .bf16, .sli16].contains t
  | 2 => t.isInt || t == .f32 || t == .sli32
  | 3 => t == .i64 || t == .n64 || t == .addr
  | 4 => if store then t == .i64 || t == .n64 else t == .tile
  | _ => false

/-- The types of stores, and of loads. -/
def tyStore : List Ty := [.i32, .n32, .i64, .n64, .f32, .f16, .bf16, .sli32, .sli16, .addr]
def tyLoad : List Ty := tyStore ++ [.tile]

/-- MOD of a load or store: [5:4] reuse, [3] 0, [2:0] size. -/
def mdSize (m : Nat) : Nat := m % 8
def mdMemOk (m : Nat) : Bool := m / 8 % 2 == 0

/-- The bits of a loaded lane (R269): sign- or zero-extended from n bytes. -/
def loadBits (t : Ty) (n x : Nat) : Nat :=
  if t.signed && 2 ^ (8 * n - 1) ≤ x then x + (2 ^ t.bits - 2 ^ (8 * n)) else x

/-- `ld.g` and `ld.va` (R269). -/
def coreLoad (ws : List Win) (i : OpIn) (s : State) : OpRes :=
  if i.mask == 0 then .done s (Value.zero i.ty)
  else
    let n := sizeBytes (mdSize i.md)
    match s.readAcc i.x ws n (i.laneAcc n) with
    | .error r => r
    | .ok (s1, bs) => .done s1 (lanesOf i.ty fun k => loadBits i.ty n (ofLe ((pickLane i.mask bs k).getD [])))

def loadOp (opc : Nat) (ws : List Win) : Op :=
  { opc := opc, res := resSame tyLoad, core := coreLoad ws
    form := fun t m => formFor tyLoad t (mdMemOk m && sizeOk false ((Ty.ofCode t).getD .void) (mdSize m)) fun T =>
      { a := .need [.addr], b := .absent, c := .absent, pred := true, res := T, pass := .zero } }

/-- The bytes that a lane stores (R269). -/
def storeBytes (i : OpIn) (n : Nat) (k : Fin 32) : List Byte :=
  if n == 16 then leBytes 8 (i.b.nat k) ++ leBytes 8 (i.c.nat k) else leBytes n (i.b.nat k)

/-- The undo records of a store or atomic (14 R316): lane, size code, address, old bytes. -/
def undoRecs (i : OpIn) (c : Nat) (old : List (List Byte)) : List MemRec :=
  (i.mask.list.zip old).map fun e => (e.1.val, c, BitVec.ofNat 64 (i.a.nat e.1), e.2)

/-- `st.g` and `st.va` (R269): in ascending lane order, so the highest lane's byte remains. -/
def coreStore (ws : List Win) (i : OpIn) (s : State) : OpRes :=
  if i.mask == 0 then doneVoid s
  else
    let n := sizeBytes (mdSize i.md)
    match s.access i.x ws n false true (i.laneAcc n) with
    | .error r => r
    | .ok (s1, sp) =>
      let q := s1.writeAcc i.x.laneWriter sp (i.mask.list.map fun k => storeBytes i n k)
      .stored q.1 Value.void (undoRecs i (mdSize i.md) q.2)

def storeOp (opc : Nat) (ws : List Win) : Op :=
  { opc := opc, res := resFixed tyStore .void, core := coreStore ws
    form := fun t m => formFor tyStore t (mdMemOk m && sizeOk true ((Ty.ofCode t).getD .void) (mdSize m)) fun T =>
      { a := .need [.addr], b := .need [T], c := if mdSize m == 4 then .need [T] else .absent, pred := true,
        res := .void, pass := .every } }

def opLdG : Op := loadOp 0x0E0 [.glob]
def opStG : Op := storeOp 0x0E1 [.glob]
def opLdVa : Op := loadOp 0x0E2 [.all, .die]
def opStVa : Op := storeOp 0x0E3 [.all, .die]

/-- Element j of a tile row. -/
def tileElem (row j : Nat) : Nat := row / 2 ^ (32 * j) % 2 ^ 32

/-- The bytes that `st.tile` writes of a row, and the flags of its conversions (R272). -/
def tileRowBytes (form row : Nat) : List Byte × Nat :=
  if form == 0 then (leBytes 128 row, 0)
  else
    let t : Ty := if form == 1 then .bf16 else .f16
    let es := (List.range 32).map fun j =>
      let x := readIn .f32 false (tileElem row j)
      let r := rnd t 0 false x.1
      (r.1, r.2 ||| x.2)
    (es.flatMap fun e => leBytes 2 e.1, es.foldl (fun a e => a ||| e.2) 0)

def coreStTile (i : OpIn) (s : State) : OpRes :=
  if i.mask == 0 then doneVoid s
  else
    let form := i.md % 4
    let n := if form == 0 then 128 else 64
    match s.access i.x winsAll 16 false true (i.laneAcc n) with
    | .error r => r
    | .ok (s1, sp) =>
      let rows := i.mask.list.map fun k => tileRowBytes form (i.b.nat k)
      let q := s1.writeAcc i.x.laneWriter sp (rows.map fun e => e.1)
      .stored (q.1.orIeee i.x.w (rows.foldl (fun a e => a ||| e.2) 0)) Value.void (undoRecs i 4 q.2)

def opStTile : Op :=
  { opc := 0x0E5, res := resFixed [.tile] .void, core := coreStTile
    form := fun t m => formFor [.tile] t (m / 4 % 4 == 0 && m % 4 ≤ 2) fun _ =>
      { a := .need [.addr], b := .need [.tile], c := .absent, pred := true, res := .void, pass := .every } }

/-- `pf.g` (R273): checks 1 and 2 of R267 only; no architected effect. -/
def corePfG (i : OpIn) (s : State) : OpRes :=
  if i.mask.list.any fun k => 2 ^ 56 ≤ i.a.nat k || winOf (i.a.nat k) != .glob then trapBounds else doneVoid s

def opPfG : Op :=
  { opc := 0x0E6, res := resFixed [.void] .void, core := corePfG
    form := fun t m => formFor [.void] t (m % 16 == 0) fun _ =>
      { a := .need [.addr], b := .absent, c := .absent, pred := true, res := .void, pass := .every } }

/-! ## Atomics (R274, R275) -/

/-- One lane's read-modify-write after another, in ascending lane order: the old values. -/
def atomLanes (by_ : Writer) (n : Nat) (F : Fin 32 → Nat → Nat) :
    List (Fin 32) → List (List (Nat × Nat)) → State → State × List (List Byte)
  | k :: ks, sp :: sps, s =>
    let old := s.readSpans sp
    let q := atomLanes by_ n F ks sps (s.putSpans by_ sp (leBytes n (F k (ofLe old))))
    (q.1, old :: q.2)
  | _, _, s => (s, [])

def coreAtom (F : OpIn → Fin 32 → Nat → Nat) (i : OpIn) (s : State) : OpRes :=
  if i.mask == 0 then .done s (Value.zero i.ty)
  else
    let n := i.ty.bits / 8
    match s.access i.x winsAll n true true (i.laneAcc n) with
    | .error r => r
    | .ok (s1, sp) =>
      if s1.anyPoison sp then .poison s1
      else
        let q := atomLanes i.x.laneWriter n (F i) i.mask.list sp s1
        .stored q.1 (lanesOf i.ty fun k => ofLe ((pickLane i.mask q.2 k).getD [])) (undoRecs i (Nat.log2 n) q.2)

def atomOp (opc : Nat) (ts : List Ty) (cas : Bool) (F : OpIn → Fin 32 → Nat → Nat) : Op :=
  { opc := opc, res := resSame ts, core := coreAtom F
    form := fun t m => formFor ts t (m % 16 == 0) fun T =>
      { a := .need [.addr], b := .need [T], c := if cas then .need [T] else .absent, pred := true, res := T,
        pass := .zero } }

/-- An atomic on exact integers, wrapped. -/
def atomInt (G : Int → Int → Int) (i : OpIn) (k : Fin 32) (old : Nat) : Nat :=
  wrapTo i.ty (G (toInt i.ty old) (i.ib k))

/-- The types of `atom.xchg` and `atom.cas`. -/
def tyXchg : List Ty := [.i32, .n32, .i64, .n64, .f32, .sli32, .addr]

/-- `rnd(in(x) + in(y), f32, 0, 0)` without flags (R274, R275). -/
def addF32 (x y : Nat) : Nat :=
  let a := (readIn .f32 false x).1
  let b := (readIn .f32 false y).1
  if anyNan [a, b] then (floatFmt .f32).nanBits else (rndOpt .f32 0 false (a.add 0 b)).1

def opAtomAdd : Op := atomOp 0x0E8 tyInt false (atomInt fun x y => x + y)
def opAtomMin : Op := atomOp 0x0E9 tyInt false (atomInt fun x y => min x y)
def opAtomMax : Op := atomOp 0x0EA tyInt false (atomInt fun x y => max x y)
def opAtomAnd : Op := atomOp 0x0EB tyInt false fun i k old => old &&& i.b.nat k
def opAtomOr : Op := atomOp 0x0EC tyInt false fun i k old => old ||| i.b.nat k
def opAtomXor : Op := atomOp 0x0ED tyInt false fun i k old => old ^^^ i.b.nat k
def opAtomXchg : Op := atomOp 0x0EE tyXchg false fun i k _ => i.b.nat k
def opAtomCas : Op := atomOp 0x0EF tyXchg true fun i k old => if old = i.b.nat k then i.c.nat k else old
def opAtomFadd : Op := atomOp 0x0F0 [.f32] false fun i k old => addF32 old (i.b.nat k)

def execLdG (f : Fields) (s : State) : Host.Outcome State Fault Refusal := runOp opLdG f s
def execStG (f : Fields) (s : State) : Host.Outcome State Fault Refusal := runOp opStG f s
def execLdVa (f : Fields) (s : State) : Host.Outcome State Fault Refusal := runOp opLdVa f s
def execStVa (f : Fields) (s : State) : Host.Outcome State Fault Refusal := runOp opStVa f s
def execStTile (f : Fields) (s : State) : Host.Outcome State Fault Refusal := runOp opStTile f s
def execPfG (f : Fields) (s : State) : Host.Outcome State Fault Refusal := runOp opPfG f s
def execAtomAdd (f : Fields) (s : State) : Host.Outcome State Fault Refusal := runOp opAtomAdd f s
def execAtomMin (f : Fields) (s : State) : Host.Outcome State Fault Refusal := runOp opAtomMin f s
def execAtomMax (f : Fields) (s : State) : Host.Outcome State Fault Refusal := runOp opAtomMax f s
def execAtomAnd (f : Fields) (s : State) : Host.Outcome State Fault Refusal := runOp opAtomAnd f s
def execAtomOr (f : Fields) (s : State) : Host.Outcome State Fault Refusal := runOp opAtomOr f s
def execAtomXor (f : Fields) (s : State) : Host.Outcome State Fault Refusal := runOp opAtomXor f s
def execAtomXchg (f : Fields) (s : State) : Host.Outcome State Fault Refusal := runOp opAtomXchg f s
def execAtomCas (f : Fields) (s : State) : Host.Outcome State Fault Refusal := runOp opAtomCas f s
def execAtomFadd (f : Fields) (s : State) : Host.Outcome State Fault Refusal := runOp opAtomFadd f s

/-! ## Completions of accesses (11 R238, R247, R248) -/

/-- PTS_ADVANCE (11 R247): a wave's logical clock advances by one. -/
def execPtsAdvance (w : WaveRef) (s : State) : Host.Outcome State Fault Refusal :=
  .next (s.modWave w fun x => { x with pts := x.pts + 1 })

end Sys2Proof.Machine
end

