-- ==== Sys2Proof/Machine/Sync.lean ====
section
/-!
DEFINITION. Synchronisation (13 R277-R285): block and group barriers, `wait`, `xfence`, `cdrain` and `gred`, with the
events that end their waits.
-/

namespace Sys2Proof.Machine

open Sys2Proof

/-- Release the waves of a block that wait in a mode. -/
def State.releaseWaves (s : State) (b : BlockRef) (opc : Nat) (p : Wave → Bool) : State :=
  match s.block? b with
  | none => s
  | some blk =>
    (List.range blk.waves.length).foldl (fun s i =>
      match s.wave? (b.wave i) with
      | some x => if p x then (s.release (b.wave i) opc Value.void).progress (b.wave i) else s
      | none => s) s

/-- The form of a synchronisation instruction without a predicate (R277). -/
def syncForm (t m : Nat) (a : Arg) : Option Form := ctlForm t .void (m == 0) a .absent .absent

/-! ## bar.b (R278) -/

/-- The wave stands at `bar.b`: its arrival. -/
def coreBarB (i : OpIn) (s : State) : OpRes := .wait (i.modWave s fun w => { w with mode := .barB })

def opBarB : Op :=
  { opc := 0x100, res := resFixed [.void] .void, form := fun t m => syncForm t m .absent, core := coreBarB }

/-- Does every live wave of a block stand at `bar.b`? -/
def Block.allAtBarB (b : Block) : Bool :=
  b.waves.any (fun x => x.mode == .barB) && b.waves.all fun x => !x.live || x.mode == .barB

/-- BAR_B_RELEASE (R278). -/
def execBarBRelease (b : BlockRef) (s : State) : Host.Outcome State Fault Refusal :=
  match s.block? b with
  | some blk => .next (if blk.allAtBarB then s.releaseWaves b 0x100 (fun x => x.mode == .barB) else s)
  | none => .next s

/-! ## bar.g and bar.g.lv (R279; 10 R231) -/

/-- A wave of a block passes a completed generation: the slot closes once every live wave has passed. -/
def Block.pass (b : Block) (g wav : Nat) : Block :=
  let e := b.slotOf g
  let p := wav :: e.passed
  if (List.range b.waves.length).all fun i =>
      p.contains i || (match b.waves[i]? with | some x => !x.live | none => true) then
    b.setSlot { e with arrived := false, gens := e.gens + 1, passed := [] }
  else b.setSlot { e with passed := p }

/-- Is a `gred` round complete: every member has contributed or ended (R285)? -/
def Launch.gredDone (l : Launch) (r : GredRound) : Bool :=
  match l.groups[r.g]? with
  | some gr => gr.members.all fun m => l.blockEnded m || r.contrib.any fun e => e.1 == m
  | none => false

/-- Does a complete `gred` round of a group still wait to be written (R285)? -/
def Launch.gredOwed (l : Launch) (g : Nat) : Bool := l.greds.any fun r => r.g == g && l.gredDone r

/-- `bar.g` (R279): a re-issue passes a generation that has completed, once its complete `gred` rounds have been written (R285). -/
def coreBarG (lv : Bool) (i : OpIn) (s : State) : OpRes :=
  let g := i.uni i.a
  match groupOf i.x.launch i.x.w.blk g with
  | none => trapBounds
  | some _ =>
    let e := i.x.block.slotOf g
    if e.arrived && e.gens < Tab.getD i.x.launch.gens 0 g && (i.x.launch.bar g).tc ≤ s.tick && !i.x.launch.gredOwed g &&
        !e.passed.contains i.x.w.wav then
      .moved (((s.modBlock i.x.w.block fun b => b.pass g i.x.w.wav).completePlace i.x.w 0x101 Value.void []).progress i.x.w)
    else .wait ((i.modWave s fun w => { w with mode := .barG g lv none }).arrive i.x.w.block g)

def opBarG : Op :=
  { opc := 0x101, res := resFixed [.void] .void, form := fun t m => syncForm t m (.need [.n32]), core := coreBarG false }
def opBarGLv : Op :=
  { opc := 0x102, res := resFixed [.void] .void, form := fun t m => syncForm t m (.need [.n32]), core := coreBarG true }

/-- The waves of a member that stand at the barrier of a completed generation and have not passed it: one that has passed it by its
re-issue may stand at the next (R279). -/
def Block.standing (b : Block) (g : Nat) : List Nat :=
  (List.range b.waves.length).filter fun i =>
    !(b.slotOf g).passed.contains i && (match b.waves[i]? with | some w => w.atBarG g | none => false)

/-- Has a resident member of a group waves that stand at a completed generation whose release they have not passed? -/
def State.unpassed (_s : State) (_lid : Nat) (l : Launch) (g : Nat) (b : Block) : Bool :=
  let e := b.slotOf g
  e.arrived && e.gens < Tab.getD l.gens 0 g && !b.ended && b.phase == .resident && b.standing g != []

/-- The tick of a member's release edge (10 R230), when it is known. -/
def State.releaseTick (s : State) (l : Launch) (g : Nat) (b : Block) : Option Nat := (s.tile b.tileRef).clock.releaseAt (l.bar g).tc

/-- Release one member of a completed generation at its release edge: its standing waves pass. -/
def State.releaseMember (s : State) (lid g : Nat) (blk : Nat) : State :=
  let b : BlockRef := { lid := lid, blk := blk }
  match s.launch? lid, s.block? b with
  | some l, some x =>
    if s.unpassed lid l g x && (match s.releaseTick l g x with | some r => r ≤ s.tick | none => false) then
      let s1 := (x.standing g).foldl (fun s i => s.modBlock b fun y => y.pass g i) s
      (x.standing g).foldl (fun s i => (s.release (b.wave i) 0x101 Value.void).progress (b.wave i)) s1
    else s
  | _, _ => s

/-- Has a group's barrier completed, its T_c passed, with no member that waits in an open generation? -/
def State.barOver (s : State) (l : Launch) (gr : Group) (g : Nat) : Bool := !gr.members.any (l.waiting g) && (l.bar g).tc ≤ s.tick

/-- GROUP_BARRIER_RELEASE (R279; 10 R230, R231): at T_c every tile drops the barrier's hold, and every member of a completed generation whose
release edge has come is released, once every complete `gred` round of the group has been written (R285). -/
def execGroupBarrierRelease (lid : Nat) (g : Nat) (s : State) : Host.Outcome State Fault Refusal :=
  let s0 := s.completeBar lid g
  match s0.launch? lid with
  | none => .next s
  | some l =>
    match l.groups[g]? with
    | none => .next s
    | some gr =>
      if l.gredOwed g then .next s0
      else .next (gr.members.foldl (fun s m => s.releaseMember lid g m) (if s0.barOver l gr g then s0.dropBarHolds lid g else s0))

/-- The first release edge among a launch's waiting members, or T_c of a barrier with holds: its tick and the group (10 R230, R231). -/
def State.nextRelease (s : State) (lid : Nat) (l : Launch) : Option (Nat × Nat × Nat) :=
  let ticks := (List.range l.groups.length).flatMap fun g =>
    match l.groups[g]? with
    | none => []
    | some gr =>
      if l.gredOwed g then []
      else
        (if s.groupHeld lid g && !gr.members.any (l.waiting g) then [(max (l.bar g).tc s.tick, lid, g)] else []) ++
        gr.members.filterMap fun m => (Tab.get? l.blocks m).bind fun b =>
          if s.unpassed lid l g b then (s.releaseTick l g b).map fun r => (max r s.tick, lid, g) else none
  ticks.foldl (fun best e => match best with | some b => if e.1 < b.1 then some e else best | none => some e) none

/-- The first release edge by a tick, of any launch. -/
def State.dueRelease (s : State) (by_ : Nat) : Option (Nat × Nat × Nat) :=
  s.launches.foldl (fun best e =>
    match s.nextRelease e.1 e.2 with
    | some r => if r.1 ≤ by_ && (match best with | some b => r.1 < b.1 | none => true) then some r else best
    | none => best) none

/-- Reference ticks pass up to the first change edge, release edge or interval start (10 R218, R230; 20 R394); a change edge comes
before a release of its tick, and both before the interval's decision. -/
def State.elapse (s : State) (n : Nat) : State :=
  match s.dueRelease (s.tick + n) with
  | none => s.advance n
  | some (r, lid, g) =>
    if (s.dueTile r).isSome || 56000 * (s.interval + 1) < r then s.advance n
    else
      let s1 := s.passTime (r - s.tick)
      { s1 with agenda := .event (.groupBarrierRelease lid g) :: .advance (n - (r - s.tick)) :: s1.agenda }

/-! ## wait (R280, R281) -/

/-- One comparison read: the word and its memory key. -/
def State.readWord (s : State) (x : Site) (va n : Nat) : Except OpRes (State × Nat × Nat) :=
  match s.access x winsAll n true false [(va, n)] with
  | .error r => .error r
  | .ok (s1, sp) =>
    if s1.anyPoison sp then .error (.poison s1)
    else
      match sp.flatten with
      | (k, m) :: r => .ok (s1, ofLe (s1.readSpans ((k, m) :: r)), k)
      | [] => .ok (s1, 0, 0)

/-- The status of a `wait` whose read gave a word, or none when it sleeps on. -/
def waitStatus (s : State) (ty : Ty) (cc : Nat) (v w : Nat) (owed : Option Nat) (timeout elapsed : Nat) : Option Nat :=
  if condInt cc (toInt ty w) (toInt ty v) then some 0
  else if (match owed with | some k => s.failed.contains k | none => false) then some 2
  else if timeout != 0 && timeout ≤ elapsed then some 1
  else none

/-- The flag-wait packet of a `wait` that had blocked (21 R419). -/
def State.emitFw (s : State) (x : Site) (va start status : Nat) (rec_ : Option WaitRec) : State :=
  let waited := min (2 ^ 32 - 1) (s.ctlNow x.tile - start)
  let wr := if status == 0 then rec_.bind WaitRec.writer else none
  let cls := if status == 0 then (match wr with | some u => u.cls | none => 7) else 7
  let base := leBytes 2 (handleLow x.w.wav x.block.tile) ++ leBytes 7 (va % 2 ^ 56) ++ leBytes 4 waited ++
    leBytes 1 (status + 16 * cls)
  let own := (1, 4, blockAccord x.launch x.w.blk)
  let tail : List (Nat × Nat × Nat) × List Byte :=
    match wr.bind Writer.wave, rec_.bind WaitRec.accord with
    | some (w, t), some a => ([own, (16, 4, a)], leBytes 1 t.die ++ leBytes 2 (handleLow w.wav t.tile))
    | _, _ => ([own], leBytes 1 0xFF ++ leBytes 2 0xFFFF)
  s.emit x.block.die
    { kind := 9, tick := s.tick, order := tileOrder x.block.tile (x.w.wav % 2) x.wave.slot, refs := tail.1,
      body := base ++ tail.2 }

/-- `wait` (R280): met at its first read, or the wave sleeps. One that ends at an unmet first read writes its packet (21 R419). -/
def coreWait (i : OpIn) (s : State) : OpRes :=
  let va := i.uni i.a
  let n := i.b.ty.bits / 8
  let timeout := if i.c.ty == .void then 0 else i.uni i.c
  match s.readWord i.x va n with
  | .error r => r
  | .ok (s1, w, k) =>
    match waitStatus s1 i.b.ty (i.md % 8) (i.uni i.b) w (failKey i.x.w.block va) timeout 0 with
    | some st =>
      .done ((if st == 0 then s1 else s1.emitFw i.x va (s1.ctlNow i.tile) st none).progress i.x.w) (splat .n32 st)
    | none =>
      let m : WaveMode :=
        .wait (BitVec.ofNat 64 va) (BitVec.ofNat 64 (i.uni i.b)) (i.md % 8) i.b.ty timeout (s1.ctlNow i.tile)
      .wait { i.modWave s1 fun y => { y with mode := m } with
        waits := { wave := i.x.w, key := k, n := n, writer := none, accord := none } :: s1.waits }

def opWait : Op :=
  { opc := 0x103, res := resFixed [.n32] .n32, core := coreWait
    form := fun t m => ctlForm t .n32 (m ≤ 5) (.need [.addr]) (.need tyInt) (.may [.n32]) }

/-- The packets of the sleeping `wait`s of a wave that an unrecoverable fault of its tile ends (21 R419, R424). -/
def State.failWaits (s : State) (w : WaveRef) : State :=
  match s.site? w with
  | none => s
  | some x =>
    x.wave.modes.foldl (fun s m =>
      match m with
      | .wait va _ _ _ _ start => s.emitFw x va.toNat start 2 none
      | _ => s) s

/-- End a sleeping `wait` with a status. -/
def State.endWait (s : State) (x : Site) (va start status : Nat) : State :=
  let r := s.waits.find? fun e => e.wave == x.w
  let s1 := s.emitFw x va start status r
  let s2 := { s1 with waits := s1.waits.filter fun e => e.wave != x.w }
  (s2.release x.w 0x103 (x.inLanes (splat .n32 status))).progress x.w

/-- WAIT_WAKE (R280): the sleeping wave makes its next comparison read. -/
def execWaitWake (w : WaveRef) (s : State) : Host.Outcome State Fault Refusal :=
  match s.site? w with
  | none => .next s
  | some x =>
    match x.wave.mode with
    | .wait va v cc ty timeout start =>
      match s.readWord x va.toNat (ty.bits / 8) with
      | .error (.page s1 a _) => .next (s1.takePageFault x x.wave.mask a false)
      | .error (.poison s1) => .next (s1.raise (.tileFault x.tile 4))
      | .error (.trap k codes) => .next (s.takeParkTrap x x.wave.mask k codes)
      | .error _ => .next s
      | .ok (s1, word, _) =>
        match waitStatus s1 ty cc v.toNat word (failKey w.block va.toNat) timeout (s1.ctlNow x.tile - start) with
        | some st => .next (s1.endWait x va.toNat start st)
        | none => .next s1
    | _ => .next s

/-! ## xfence and cdrain (R282, R283; 12 R257, R258) -/

/-- Has a copy command accesses left to place? -/
def CopyCmd.unplaced (c : CopyCmd) : Bool := !c.started || c.pairs.any fun p => p.toRead != [] || p.toWrite != []

/-- Does a drain of a channel by a tile at a number cover a command: did the tile issue its first slice on the channel before (R283)? -/
def CopyCmd.covered (c : CopyCmd) (t : TileRef) (ch upTo : Nat) : Bool := c.chans.any fun e => e.1 == t && e.2.1 == ch && e.2.2 < upTo

/-- Do the slices of a command on a channel have accesses left? -/
def CopyCmd.undrained (c : CopyCmd) (ch : Nat) : Bool :=
  (!c.started || c.pairs.any fun p => p.ch == ch && (p.toRead != [] || p.toWrite != []))

/-- Has a member's own slice of a group copy landed in every member that has not ended without issuing? -/
def GrpRound.finished (r : GrpRound) (l : Launch) (members : List Nat) (i : GrpIssue) : Bool :=
  i.started && i.toWrite == [] &&
    members.all fun m => i.opened.contains (members.idxOf m) || (l.blockEnded m && !r.issues.any fun e => e.blk == m)

/-- Has every member issued in a round, or ended? -/
def GrpRound.closed (r : GrpRound) (l : Launch) (members : List Nat) : Bool :=
  members.all fun m => l.blockEnded m || r.issues.any fun i => i.blk == m

/-- Is a slice of a group copy that a tile issued before a number still unplaced? -/
def State.grpPending (s : State) (t : TileRef) (upTo : Nat) : Bool :=
  s.launches.any fun e => e.2.cgrps.any fun r => r.issues.any fun i =>
    i.id < upTo && i.tile == t && !i.ended &&
      (match e.2.groups[r.g]? with
       | some gr => !r.finished e.2 gr.members i
       | none => false)

/-- Is a slice on a channel still unissued or unplaced of a group copy that a tile issued on the channel before a number (R283)? -/
def State.grpUndrained (s : State) (t : TileRef) (upTo ch : Nat) : Bool :=
  s.launches.any fun e => e.2.cgrps.any fun r =>
    (r.issues.any fun i => i.id < upTo && i.tile == t && i.ch == ch) &&
      (match e.2.groups[r.g]? with
       | some gr => !r.closed e.2 gr.members || r.issues.any fun i => i.ch == ch && !i.ended && !r.finished e.2 gr.members i
       | none => false)

/-- Is a message of a copy command to a peer unacknowledged? -/
def State.sentPending (s : State) (t : TileRef) (c : CopyCmd) : Bool := s.fabOut.any fun o => o.tile == t && o.cmd == some c.id

/-- Have the copies that a `cdrain` covers all been placed (12 R257)? A collective stands in the queue of the tile that issued its first slice, which
need not be the tile that its block has come to. -/
def State.drained (s : State) (t : TileRef) (ch upTo : Nat) : Bool :=
  !(s.tiles.any fun e => e.2.copyQ.any fun c => c.covered t ch upTo && (c.undrained ch || s.sentPending (tileOfKey e.1) c)) &&
    !s.grpUndrained t upTo ch

def coreCdrain (i : OpIn) (s : State) : OpRes :=
  if s.drained i.tile i.md s.nextId then .done (s.progress i.x.w) Value.void
  else .wait (i.modWave s fun w => { w with mode := .cdrain i.md s.nextId })

def opCdrain : Op :=
  { opc := 0x105, res := resFixed [.void] .void, core := coreCdrain
    form := fun t m => ctlForm t .void (m ≤ 7) .absent .absent .absent }

/-- CDRAIN_DONE (R283). -/
def execCdrainDone (w : WaveRef) (s : State) : Host.Outcome State Fault Refusal :=
  match s.site? w with
  | none => .next s
  | some x =>
    match x.wave.mode with
    | .cdrain ch upTo =>
      .next (if s.drained x.tile ch upTo then (s.release w 0x105 Value.void).progress w else s)
    | _ => .next s

/-- Does a command write to a peer? -/
def CopyCmd.atPeer (c : CopyCmd) : Bool :=
  (c.pairs.any fun p => 2 ^ 56 ≤ p.dst.toNat) || c.words.any fun w => 2 ^ 56 ≤ w.va.toNat

/-- Has a command writes to a peer that it has not sent? -/
def CopyCmd.unsent (c : CopyCmd) : Bool :=
  c.atPeer && (!c.started || (c.pairs.any fun p => 2 ^ 56 ≤ p.dst.toNat && p.toWrite != []) || c.words.any fun w => 2 ^ 56 ≤ w.va.toNat)

/-- Has a wave a matrix op in progress that issued before a number: a product in flight, in focus or not, or an op between the quarters of its
format block? While a fence holds the class none begins, and without such a fence one that begins later only delays its end. -/
def Wave.matrixBefore (x : Wave) (upTo : Nat) : Bool :=
  let early (g : Option Staged) : Bool := match g with | some g => g.id < upTo | none => false
  early x.staged || (match x.native with | some n => n.waits.any fun e => early e.staged | none => false) || x.quarters != [] || x.quartersB != []

/-- Have the accesses of the classes in a mask that the tile issued before a number all been placed (12 R258)? -/
def State.placedBefore (s : State) (t : TileRef) (x : BitVec 8) (upTo : Nat) : Bool :=
  let tl := s.tile t
  (!x.getLsbD 1 || (!(tl.copyQ.any fun c => c.id < upTo && c.unplaced) && !s.grpPending t upTo)) &&
  (!x.getLsbD 2 || !(tl.waves.any fun w =>
    match s.wave? w with
    | some y => y.matrixBefore upTo
    | none => false)) &&
  (!x.getLsbD 3 || !(tl.rowQ.any fun c => c.id < upTo)) &&
  (!x.getLsbD 4 || !(tl.kvQ.any fun c => c.id < upTo && c.ops != [])) &&
  (!x.getLsbD 5 || !((s.fabOut.any fun o => o.tile == t && o.id < upTo) || tl.copyQ.any fun c => c.id < upTo && c.unsent))

def coreXfence (i : OpIn) (s : State) : OpRes :=
  let m := i.uni i.a
  let x := BitVec.ofNat 8 m
  let y := BitVec.ofNat 8 (m / 256)
  if 65536 ≤ m || x.getLsbD 6 || x.getLsbD 7 || y.getLsbD 6 || y.getLsbD 7 then .reserved
  else if s.placedBefore i.tile x s.nextId then doneVoid s
  else
    let s1 := s.modTile i.tile fun t => { t with fences := (i.x.w, y, s.nextId) :: t.fences }
    .wait (i.modWave s1 fun w => { w with mode := .xfence x y s.nextId })

def opXfence : Op :=
  { opc := 0x104, res := resFixed [.void] .void, core := coreXfence, form := fun t m => syncForm t m (.need [.n32]) }

/-- Lift a wave's fence of a number from its tile's queues. -/
def State.unfence (s : State) (t : TileRef) (w : WaveRef) (upTo : Nat) : State :=
  s.modTile t fun x => { x with fences := x.fences.filter fun f => !(f.1 == w && f.2.2 == upTo) }

/-- Have the accesses that a mode's fence covers all been placed? -/
def State.fencePassed (s : State) (t : TileRef) (m : WaveMode) : Bool :=
  match m with
  | .xfence x _ upTo => s.placedBefore t x upTo
  | _ => false

/-- XFENCE_DONE (R282): of the fences of the wave whose accesses have been placed, the one that issued first ends. -/
def execXfenceDone (w : WaveRef) (s : State) : Host.Outcome State Fault Refusal :=
  match s.site? w with
  | none => .next s
  | some x =>
    let s1 := s.focusOn w fun m _ => s.fencePassed x.tile m
    match (s1.wave? w).map Wave.mode with
    | some (.xfence m _ upTo) =>
      .next (if s.placedBefore x.tile m upTo then (s1.unfence x.tile w upTo).release w 0x104 Value.void else s)
    | _ => .next s

/-! ## gred (R284, R285) -/

/-- Is an operation allowed for a type (R284)? -/
def gredOk (t : Ty) (op : Nat) : Bool :=
  op == 0 || op == 2 || op == 3 || ((op == 4 || op == 5 || op == 6) && t.isInt)

def tyGred : List Ty := [.i32, .n32, .i64, .n64, .f32, .sli32]

/-- The block's contribution (R285): node(5, 0) over the active lanes. -/
def gredValue (i : OpIn) : Nat := (nodeAt (treeOf { i with md := i.md % 8, a := i.b }) 5 0).getD 0

def coreGred (i : OpIn) (s : State) : OpRes :=
  match i.mask.lowest with
  | none => doneVoid s
  | some k =>
    let g := i.c.nat k
    let va := i.a.nat k
    let n := i.ty.bits / 8
    match groupOf i.x.launch i.x.w.blk g with
    | none => trapBounds
    | some _ =>
      match s.access i.x [.glob, .all] n true true [(va, n)] with
      | .error r => r
      | .ok (s1, _) =>
        let l := i.x.launch
        let add (e : GredRound) : GredRound := { e with contrib := e.contrib ++ [(i.x.w.blk, gredValue i)] }
        let key := BitVec.ofNat 64 va
        match l.greds.find? fun e => e.g == g && e.va == key with
        | some e =>
          if e.contrib.any fun c => c.1 == i.x.w.blk then .wait s
          else if e.ty != i.ty || e.op != i.md % 8 then trapFormat
          else
            doneVoid (s1.modLaunch i.x.w.lid fun l =>
              { l with greds := l.greds.map fun e => if e.g == g && e.va == key then add e else e })
        | none =>
          if 4 ≤ (l.greds.filter fun e => e.g == g).length then .wait s
          else
            doneVoid (s1.modLaunch i.x.w.lid fun l =>
              { l with greds := l.greds ++
                [add { g := g, va := key, ty := i.ty, op := i.md % 8, contrib := [], wave := i.x.w }] })

def opGred : Op :=
  { opc := 0x106, res := resFixed tyGred .void, core := coreGred
    form := fun t m => formFor tyGred t (m < 8 && gredOk ((Ty.ofCode t).getD .void) m) fun T =>
      { a := .need [.addr], b := .need [T], c := .need [.n32], pred := true, res := .void, pass := .every } }

/-- Combine contributions in the order given; the blocks that it does not name come after it, as they stand. -/
def combine (t : Ty) (op : Nat) (cs : List (Nat × Nat)) (order : List Nat) : Option Nat :=
  let first := order.eraseDups.filterMap fun b => (cs.find? fun e => e.1 == b)
  let rest := cs.filter fun e => !order.contains e.1
  match first ++ rest with
  | [] => none
  | e :: r => some (r.foldl (fun a c => (treeOp t op false a c.2).1) e.2)

/-- A round of a `gred` is over. -/
def State.dropRound (s : State) (lid g : Nat) (va : Word64) : State :=
  s.modLaunch lid fun l => { l with greds := l.greds.filter fun e => !(e.g == g && e.va == va) }

/-- GRED_ROUND_COMPLETE (R285): the combined result is written as one read-modify-write; poison in the word is consumed by the tile of the
round's first wave (22 R425). The order of combination is
the event's, because the spec does not determine it. -/
def execGredRoundComplete (lid : Nat) (g : Nat) (va : Word64) (order : List Nat) (s : State) :
    Host.Outcome State Fault Refusal :=
  match s.launch? lid with
  | none => .next s
  | some l =>
    match l.greds.find? fun e => e.g == g && e.va == va with
    | none => .next s
    | some e =>
      if !l.gredDone e then .next s
      else
        match s.site? e.wave, combine e.ty e.op e.contrib order with
        | some x, some v =>
          match s.spansOf x va.toNat (e.ty.bits / 8) true true with
          | (s1, .ok ks) =>
            if s1.spansPoisoned ks then .next ((s1.dropRound lid g va).raise (.tileFault x.tile 4)) else
            let old := ofLe (s1.readSpans ks)
            let s2 := s1.putSpans x.laneWriter ks (leBytes (e.ty.bits / 8) (treeOp e.ty e.op false old v).1)
            .next (s2.dropRound lid g va)
          | (s1, .error _) => .next s1
        | _, _ => .next s

def execBarB (f : Fields) (s : State) : Host.Outcome State Fault Refusal := runOp opBarB f s
def execBarG (f : Fields) (s : State) : Host.Outcome State Fault Refusal := runOp opBarG f s
def execBarGLv (f : Fields) (s : State) : Host.Outcome State Fault Refusal := runOp opBarGLv f s
def execWait (f : Fields) (s : State) : Host.Outcome State Fault Refusal := runOp opWait f s
def execXfence (f : Fields) (s : State) : Host.Outcome State Fault Refusal := runOp opXfence f s
def execCdrain (f : Fields) (s : State) : Host.Outcome State Fault Refusal := runOp opCdrain f s
def execGred (f : Fields) (s : State) : Host.Outcome State Fault Refusal := runOp opGred f s

end Sys2Proof.Machine
end

