-- ==== Sys2Proof/Machine/Copy.lean ====
section
/-!
DEFINITION. The copy group (13 R286-R293): `cpy.blk`, `cpy.grp`, `cpy.w` and `cpy.fill`, the placing of their accesses
piece by piece (12 R255), and the events of the copy engine.
-/

namespace Sys2Proof.Machine

open Sys2Proof

/-! ## The checks at issue (R287, R288) -/

/-- What an address of a copy names. -/
inductive CopyRole where
  | src | dst | word
deriving DecidableEq, Repr

/-- An address that an active lane names, with its bytes and its alignment. -/
structure CopyAddr where
  role : CopyRole
  va : Nat
  n : Nat
  align : Nat
deriving DecidableEq, Repr

/-- The parts of a range that lie within one aligned 16 MiB unit, the span of one vault's window. -/
def vaultUnits (va n : Nat) : List (Nat × Nat) :=
  let k := 2 ^ 24 - va % 2 ^ 24
  if n ≤ k then [(va, n)] else [(va, k), (va + k, n - k)]

/-- Check 3 of R267 over a range: the bounds of its first and last byte in each vault window that it meets. -/
def State.rangeTrap (s : State) (x : Site) (va n : Nat) : Bool :=
  (vaultUnits va (max 1 n)).any fun e =>
    winOf e.1 != .glob &&
      ((match s.vaultAccess x e.1 1 with | .ok _ => false | .error _ => true) ||
       (match s.vaultAccess x (e.1 + e.2 - 1) 1 with | .ok _ => false | .error _ => true))

/-- The address bits of a copy address, without its peer field. -/
def CopyAddr.low (a : CopyAddr) : Nat := a.va % 2 ^ 56
def CopyAddr.peer (a : CopyAddr) : Nat := a.va / 2 ^ 56

/-- Check 2 of R267: the windows of R266 for a copy's addresses. -/
def CopyAddr.windowOk (a : CopyAddr) : Bool :=
  let w := winOf a.low
  let v := winOf (a.low + a.n - 1)
  !(a.peer != 0 && (w == .die || v == .die)) && !(a.role == .word && w == .glob)

/-- Does a command name a completion word on a peer to which none of its payload goes (R266; 12 R263)? -/
def strayWord (dsts words : List Nat) : Bool := words.any fun w => 2 ^ 56 ≤ w && dsts.all fun d => d / 2 ^ 56 != w / 2 ^ 56

/-- The checks of R288 over the addresses of an instruction: the trap of the first that fails. -/
def State.copyTrap (s : State) (x : Site) (as : List CopyAddr) : Option OpRes :=
  if as.any fun a => (a.peer != 0 && a.role == .src) || 32 < a.peer || 2 ^ 56 < a.low + a.n then some trapBounds
  else if as.any fun a => !a.windowOk then some trapBounds
  else if as.any fun a => a.peer != 0 && !s.reachable (a.peer - 1) then some trapBounds
  else if as.any fun a => a.peer == 0 && s.rangeTrap x a.low a.n then some trapBounds
  else if as.any fun a => a.va % a.align != 0 then some trapAlign
  else none

/-- The fields of the control operand (R287). -/
def ctlCw (c : Nat) : Bool := bitsOf c 40 40 == 1
def ctlGrp (c : Nat) : Nat := bitsOf c 39 32
def ctlLen (c : Nat) : Nat := c % 2 ^ 32

/-- Is a control operand reserved? GRP is used by payload lanes of `cpy.grp` alone. -/
def ctlReserved (grp : Bool) (c : Nat) : Bool := c / 2 ^ 41 != 0 || (ctlGrp c != 0 && (!grp || ctlCw c))

/-- The trap of the control operands of lanes that are read, if any. -/
def ctlTrap (i : OpIn) (grp : Bool) (ks : List (Fin 32)) : Option OpRes :=
  if ks.any fun k => ctlReserved grp (i.c.nat k) then some .reserved
  else if ks.any fun k => !ctlCw (i.c.nat k) && 2 ^ 24 < ctlLen (i.c.nat k) then some trapBounds
  else if 1 < (ks.filter fun k => ctlCw (i.c.nat k)).length then some trapBounds
  else none

/-! ## The tile's copy queue (R288, R289) -/

/-- The commands in a tile's copy queue, group copies included. -/
def State.copyCount (s : State) (t : TileRef) : Nat :=
  (s.tile t).copyQ.length +
    (s.launches.map fun e => (e.2.cgrps.map fun r => (r.issues.filter fun i =>
      i.tile == t && !i.ended &&
        (match e.2.groups[r.g]? with
         | some gr => !(r.finished e.2 gr.members i)
         | none => false)).length).sum).sum

/-- A pair of a lane. -/
def OpIn.pair (i : OpIn) (s : State) (k : Fin 32) (src : Option Nat) (dst len : Nat) (bytes : List Byte) : CopyPair :=
  { by_ := i.issuer, ch := i.md % 8, lane := k.val, src := src.map fun a => BitVec.ofNat 64 a, dst := BitVec.ofNat 64 dst,
    len := len, toRead := [], toWrite := [], buf := (List.range bytes.length).zip bytes, bad := [],
    peer := s.entryOf dst }

/-- A completion word that a lane names. -/
def OpIn.owed (i : OpIn) (s : State) (va n : Nat) : OwedWord :=
  { by_ := i.issuer, va := BitVec.ofNat 64 va, value := BitVec.ofNat 32 n, peer := s.entryOf va }

/-- A command of the issuing wave, before it starts. -/
def OpIn.command (i : OpIn) (s : State) (kind : CopyKind) (ps : List CopyPair) (ws : List OwedWord) : CopyCmd :=
  { id := s.nextId, kind := kind, ctx := i.x.launch.ctx, block := i.x.w.block, round := i.x.wave.cpyBlk, reuse := i.md / 16,
    issued := [i.x.w.wav], chans := [(i.tile, i.md % 8, s.nextId)], pairs := ps, words := ws, gap := (i.gaps s).pcpy, started := false,
    paused := none }

/-- Enqueue a command, or wait while the queue is full. -/
def OpIn.enqueue (i : OpIn) (s : State) (kind : CopyKind) (ps : List CopyPair) (ws : List OwedWord) : OpRes :=
  if 32 ≤ s.copyCount i.tile then .wait s
  else
    let c := i.command s kind ps ws
    let s1 := s.modTile i.tile fun t => { t with copyQ := t.copyQ ++ [c] }
    doneVoid { s1 with nextId := s.nextId + 1 }

/-- A block's collective of a round, and the tile whose queue holds it. -/
def State.roundCmd (s : State) (b : BlockRef) (round : Nat) : Option (TileRef × CopyCmd) :=
  s.tiles.findSome? fun e => (e.2.copyQ.find? fun c => c.kind == CopyKind.blk && c.block == b && c.round == round).map fun c => (tileOfKey e.1, c)

/-- The tile whose queue holds a block's collective of a round. -/
def State.roundAt (s : State) (b : BlockRef) (round : Nat) : Option TileRef := (s.roundCmd b round).map fun e => e.1

/-- Has every wave of a block issued its slice, or ended (R289)? -/
def State.issuedAll (s : State) (b : BlockRef) (issued : List Nat) : Bool :=
  match s.block? b with
  | some x => (List.range x.waves.length).all fun k =>
      issued.contains k || (match x.waves[k]? with | some w => !w.live | none => true)
  | none => true

/-- Would the slice of the issuing wave make its collective whole with a completion word on a peer to which the command copies nothing? The
payload of a slice that names the word alone is that of the other waves (R266, R289). -/
def OpIn.strayBlk (i : OpIn) (s : State) (dsts words : List Nat) : Bool :=
  let (is_, ds, ws) :=
    match s.roundCmd i.x.w.block i.x.wave.cpyBlk with
    | some (_, c) => (c.issued, c.pairs.map fun p => p.dst.toNat, c.words.map fun w => w.va.toNat)
    | none => ([], [], [])
  s.issuedAll i.x.w.block (is_ ++ [i.x.w.wav]) && strayWord (ds ++ dsts) (ws ++ words)

/-- Join a slice to a collective, as issue `num` of a tile on its channel. -/
def CopyCmd.join (c : CopyCmd) (t : TileRef) (wav ch num : Nat) (ps : List CopyPair) (ws : List OwedWord) : CopyCmd :=
  { c with issued := c.issued ++ [wav],
           chans := if c.chans.any (fun e => e.1 == t && e.2.1 == ch) then c.chans else c.chans ++ [(t, ch, num)],
           pairs := c.pairs ++ ps, words := c.words ++ ws }

/-! ## The instructions -/

def coreCpyBlk (i : OpIn) (s : State) : OpRes :=
  let ks := i.mask.list
  let pay := ks.filter fun k => !ctlCw (i.c.nat k)
  let cws := ks.filter fun k => ctlCw (i.c.nat k)
  let as := pay.flatMap (fun k => [CopyAddr.mk .src (i.a.nat k) (ctlLen (i.c.nat k)) 1, CopyAddr.mk .dst (i.b.nat k) (ctlLen (i.c.nat k)) 1])
    ++ cws.map fun k => CopyAddr.mk .word (i.b.nat k) 4 4
  if (ctlTrap i false ks).isNone && i.strayBlk s (pay.map i.b.nat) (cws.map i.b.nat) then trapBounds
  else
  match ctlTrap i false ks, s.copyTrap i.x as with
  | some r, _ => r
  | none, some r => r
  | none, none =>
    let ps := pay.map fun k => i.pair s k (some (i.a.nat k)) (i.b.nat k) (ctlLen (i.c.nat k)) []
    let ws := cws.map fun k => i.owed s (i.b.nat k) (ctlLen (i.c.nat k))
    let r :=
      match s.roundAt i.x.w.block i.x.wave.cpyBlk with
      | some t =>
        let add (c : CopyCmd) : CopyCmd :=
          if c.kind == CopyKind.blk && c.block == i.x.w.block && c.round == i.x.wave.cpyBlk then c.join i.tile i.x.w.wav (i.md % 8) s.nextId ps ws
          else c
        let s1 := s.modTile t fun x => { x with copyQ := x.copyQ.map add }
        doneVoid { s1 with nextId := s.nextId + 1 }
      | none => i.enqueue s .blk ps ws
    match r with
    | .done s1 v => .done (i.modWave s1 fun w => { w with cpyBlk := w.cpyBlk + 1 }) v
    | r => r

def coreCpyW (i : OpIn) (s : State) : OpRes :=
  if i.mask == 0 then doneVoid s
  else
    let n := i.ty.bits / 8
    match s.copyTrap i.x (i.mask.list.map fun k => CopyAddr.mk .dst (i.a.nat k) n n) with
    | some r => r
    | none => i.enqueue s .w (i.mask.list.map fun k => i.pair s k none (i.a.nat k) n (leBytes n (i.b.nat k))) []

/-- Byte k of a filled region at an address (R291). -/
def fillBytes (va pat n : Nat) : List Byte :=
  (List.range n).map fun k => BitVec.ofNat 8 (pat >>> (8 * ((va + k) % 4)))

def coreCpyFill (i : OpIn) (s : State) : OpRes :=
  if i.mask == 0 then doneVoid s
  else
    let ks := i.mask.list
    let pay := ks.filter fun k => !ctlCw (i.c.nat k)
    let cws := ks.filter fun k => ctlCw (i.c.nat k)
    let as := pay.map (fun k => CopyAddr.mk .dst (i.a.nat k) (ctlLen (i.c.nat k)) 1)
      ++ cws.map fun k => CopyAddr.mk .word (i.a.nat k) 4 4
    if (ctlTrap i false ks).isNone && strayWord (pay.map i.a.nat) (cws.map i.a.nat) then trapBounds
    else
    match ctlTrap i false ks, s.copyTrap i.x as with
    | some r, _ => r
    | none, some r => r
    | none, none =>
      i.enqueue s .fill
        (pay.map fun k => i.pair s k none (i.a.nat k) (ctlLen (i.c.nat k)) (fillBytes (i.a.nat k) (i.b.nat k) (ctlLen (i.c.nat k))))
        (cws.map fun k => i.owed s (i.a.nat k) (ctlLen (i.c.nat k)))

/-! ### cpy.grp (R290) -/

/-- The bounds of rank r's slice of a region for n members. -/
def sliceAt (r len n : Nat) : Nat := 16 * (r * len / (16 * n))

/-- The member number of a block in a group. -/
def Group.rank (g : Group) (blk : Nat) : Nat := g.members.idxOf blk

/-- An issue begins to write to every member that has issued. -/
def GrpIssue.open_ (i : GrpIssue) (r : GrpRound) (g : Group) : GrpIssue :=
  let rank := g.rank i.blk
  let lo := sliceAt rank r.len g.members.length
  r.issues.foldl (fun i e =>
    let m := g.rank e.blk
    if i.opened.contains m then i
    else { i with opened := i.opened ++ [m],
                  toWrite := i.toWrite ++ (offPieces (e.dst.toNat + lo) i.slice.len).map fun p => (m, p.1, p.2) }) i

/-- Every started issue of a round begins to write to the members that have issued. -/
def GrpRound.refresh (r : GrpRound) (g : Group) : GrpRound :=
  { r with issues := r.issues.map fun i => if i.started then i.open_ r g else i }

/-- Put a round in the place of the n-th round of a launch. -/
def State.setRound (s : State) (lid n : Nat) (r : GrpRound) : State :=
  s.modLaunch lid fun l => { l with cgrps := l.cgrps.set n r }

def coreCpyGrp (i : OpIn) (s : State) : OpRes :=
  let ks := i.mask.list
  let cws := ks.filter fun k => ctlCw (i.c.nat k)
  let pay := (ks.find? fun k => !ctlCw (i.c.nat k))
  let read := cws ++ pay.toList
  match ctlTrap i true read, pay with
  | some r, _ => r
  | none, none => trapBounds
  | none, some k =>
    let len := ctlLen (i.c.nat k)
    let g := ctlGrp (i.c.nat k)
    let l := i.x.launch
    match groupOf l i.x.w.blk g with
    | none => trapBounds
    | some gr =>
      if len == 0 || len % 16 != 0 then trapBounds
      else if winOf (i.b.nat k) != .die || cws.any fun k => winOf (i.b.nat k) != .die then trapBounds
      else
        match s.copyTrap i.x ([CopyAddr.mk .src (i.a.nat k) len 1, CopyAddr.mk .dst (i.b.nat k) len 1] ++
            cws.map fun k => CopyAddr.mk .word (i.b.nat k) 4 4) with
        | some r => r
        | none =>
          let n := l.cgrps.findIdx fun r => r.g == g && !r.closed l gr.members
          let r0 : GrpRound := (l.cgrps[n]?).getD { g := g, len := len, issues := [] }
          if r0.issues.any fun e => e.blk == i.x.w.blk then .wait s
          else if r0.len != len then trapBounds
          else if 32 ≤ s.copyCount i.tile then .wait s
          else
            let rank := gr.rank i.x.w.blk
            let lo := sliceAt rank len gr.members.length
            let hi := sliceAt (rank + 1) len gr.members.length
            let w := cws.head?.map fun k => (BitVec.ofNat 64 (i.b.nat k), BitVec.ofNat 32 (ctlLen (i.c.nat k)))
            let e : GrpIssue :=
              { id := s.nextId, blk := i.x.w.blk, tile := i.tile, by_ := i.issuer, ch := i.md % 8,
                dst := BitVec.ofNat 64 (i.b.nat k), word := w,
                slice := i.pair s k (some (i.a.nat k + lo)) (i.b.nat k) (hi - lo) [], gap := (i.gaps s).pcpy, started := false, opened := [],
                toWrite := [], paused := none, ended := false }
            let r1 := ({ r0 with issues := r0.issues ++ [e] }).refresh gr
            let s1 := { s with nextId := s.nextId + 1 }
            doneVoid (s1.modLaunch i.x.w.lid fun l =>
              { l with cgrps := if n < l.cgrps.length then l.cgrps.set n r1 else l.cgrps ++ [r1] })

def copyOp (opc : Nat) (ts : List Ty) (b : Ty → Arg) (ctl : Bool) (core : OpIn → State → OpRes) : Op :=
  { opc := opc, res := resFixed ts .void, core := core
    form := fun t m => formFor ts t (m / 8 % 2 == 0) fun T =>
      { a := .need [.addr], b := b T, c := if ctl then .need [.n64] else .absent, pred := true, res := .void,
        pass := .every } }

def opCpyBlk : Op := copyOp 0x110 [.void] (fun _ => .need [.addr]) true coreCpyBlk
def opCpyGrp : Op := copyOp 0x111 [.void] (fun _ => .need [.addr]) true coreCpyGrp
def opCpyW : Op := copyOp 0x112 [.n32, .n64] (fun T => .need [T]) false coreCpyW
def opCpyFill : Op := copyOp 0x114 [.void] (fun _ => .need [.n32]) true coreCpyFill

def execCpyBlk (f : Fields) (s : State) : Host.Outcome State Fault Refusal := runOp opCpyBlk f s
def execCpyGrp (f : Fields) (s : State) : Host.Outcome State Fault Refusal := runOp opCpyGrp f s
def execCpyW (f : Fields) (s : State) : Host.Outcome State Fault Refusal := runOp opCpyW f s
def execCpyFill (f : Fields) (s : State) : Host.Outcome State Fault Refusal := runOp opCpyFill f s

/-! ## The copy engine (R289, R292, R293) -/

/-- A command of a tile's queue. -/
def State.copy? (s : State) (t : TileRef) (id : Nat) : Option CopyCmd := (s.tile t).copyQ.find? fun c => c.id == id

def State.modCopy (s : State) (t : TileRef) (id : Nat) (g : CopyCmd → CopyCmd) : State :=
  s.modTile t fun x => { x with copyQ := x.copyQ.map fun c => if c.id == id then g c else c }

/-- Take a command out of a tile's queue. -/
def State.dropCopy (s : State) (t : TileRef) (id : Nat) : State :=
  s.modTile t fun x => { x with copyQ := x.copyQ.filter fun c => c.id != id }

/-- May a queued command start: its slices are all issued (R289) and no fence holds its class (R282)? -/
def State.copyReady (s : State) (t : TileRef) (c : CopyCmd) : Bool :=
  let whole := c.kind != CopyKind.blk || s.issuedAll c.block c.issued
  !c.started && whole && !(s.tile t).fenced 1 c.id && !(c.atPeer && (s.tile t).fenced 5 c.id)

/-- The place of a pair in (wave, lane) order. -/
def CopyPair.order (p : CopyPair) : Nat := 32 * p.by_.wave.wav + p.lane

/-- A pair put into its place. -/
def insertPair (p : CopyPair) : List CopyPair → List CopyPair
  | [] => [p]
  | q :: r => if p.order < q.order then p :: q :: r else q :: insertPair p r

/-- The aligned 4 KiB units of a range, as offsets from its start (R288). -/
def unitsFrom : Nat → Nat → Nat → Nat → List (Nat × Nat)
  | 0, _, _, _ => []
  | f + 1, va, o, n =>
    if n == 0 then []
    else
      let k := min n (4096 - (va + o) % 4096)
      (o, k) :: unitsFrom f va (o + k) (n - k)

/-- A pair at the start of its command; a peer's range is written by messages. -/
def CopyPair.start (p : CopyPair) : CopyPair :=
  let q := p.begin_
  if 2 ^ 56 ≤ p.dst.toNat then { q with toWrite := unitsFrom (p.len / 4096 + 2) (p.dst.toNat % 2 ^ 56) 0 p.len } else q

/-- A copy command pauses on an engine page fault (R292). -/
def State.pauseCopy (s : State) (t : TileRef) (c : CopyCmd) (i : Issuer) (va : Nat) (wr : Bool) : State :=
  (s.modCopy t c.id fun c => { c with paused := some none }).fileRecord c.ctx (s.engineRecord i t 0 va wr true) (.copy t c.id)

/-- Take the messages of a command that no link has begun to send out of the queues: their bytes are never written (R292). One that is sent, or
begun, keeps its response. -/
def State.unsend (s : State) (t : TileRef) (id : Nat) : State :=
  let mine (o : FabOut) (q : Outgoing) : Bool :=
    o.tile == t && o.cmd == some id && q.num % 4096 == o.tag && q.msg.mop.toNat == o.mop && q.msg.dst.toNat == o.entry.fid
  let held (x : Link) : List Outgoing := if x.txoff == 0 then [] else x.txq.take 1
  let rest (x : Link) : List Outgoing := x.txq.drop (held x).length
  let lost := s.links.flatMap fun e => (rest e.2).filter fun q => s.fabOut.any fun o => mine o q
  { s with
    links := s.links.map fun e => (e.1, { e.2 with txq := held e.2 ++ (rest e.2).filter fun q => !lost.contains q })
    fabOut := s.fabOut.filter fun o => !lost.any fun q => mine o q }

/-- A copy command ends as aborted (R292). -/
def State.abortCopy (s : State) (t : TileRef) (c : CopyCmd) (i : Issuer) : State :=
  (c.words.foldl State.failWord ((s.unsend t c.id).dropCopy t c.id)).fileRecord c.ctx (s.engineRecord i t 3 0 false false) .nobody

/-- The completion word of a command that stands on a peer to which the command copies nothing, when the end of a wave made the command whole (R266, R289). -/
def CopyCmd.stray? (c : CopyCmd) : Option OwedWord :=
  c.words.find? fun w => strayWord (c.pairs.map fun p => p.dst.toNat) [w.va.toNat]

/-- COPY_COMMAND_START (R289, R293): the first queued command that may start does so, once the gap of its pacing register
is over (10 R228). A whole command with a completion word on a peer to which it copies nothing is aborted (DESIGN CHOICE, log entry 71). -/
def execCopyCommandStart (t : TileRef) (s : State) : Host.Outcome State Fault Refusal :=
  match (s.tile t).copyQ.find? (s.copyReady t) with
  | none => .next s
  | some c =>
    if !s.paceOk t 0 c.gap then .next s
    else
      match c.stray? with
      | some w => .next (s.abortCopy t c w.by_)
      | none =>
        let ps := c.pairs.foldl (fun r p => insertPair p r) []
        .next ((s.noteStart t 0).modCopy t c.id fun c => { c with started := true, pairs := ps.map CopyPair.start })

/-- Do two pieces of one command's destinations share a byte? Equal low address bits first; then the memory itself. -/
def State.sameBytes (s : State) (t : TileRef) (p q : CopyPair) (a b : Nat × Nat) : Bool :=
  let x := p.dst.toNat + a.1
  let y := q.dst.toNat + b.1
  if x < y + b.2 && y < x + a.2 then true
  else if 2 ^ 56 ≤ x || 2 ^ 56 ≤ y then false
  else if !(x % 4096 < y % 4096 + b.2 && y % 4096 < x % 4096 + a.2) then false
  else
    match (s.engSpans p.by_.wave.block t.die x a.2 false true).2, (s.engSpans q.by_.wave.block t.die y b.2 false true).2 with
    | .ok ks, .ok js => ks.any fun k => js.any fun j => k.1 < j.1 + j.2 && j.1 < k.1 + k.2
    | _, _ => false

/-- Must a write piece wait for one of an earlier pair that shares a byte with it (R288)? -/
def State.heldBack (s : State) (t : TileRef) (c : CopyCmd) (n : Nat) (p : CopyPair) (a : Nat × Nat) : Bool :=
  ((c.pairs.take n).any fun q => q.toWrite.any fun b => s.sameBytes t p q a b) ||
    (2 ^ 56 ≤ p.dst.toNat && s.fabOut.any fun o => o.tile == t && o.cmd == some c.id &&
      o.peer + 1 == p.dst.toNat / 2 ^ 56 && o.va < p.dst.toNat % 2 ^ 56 + a.1 + a.2 && p.dst.toNat % 2 ^ 56 + a.1 < o.va + o.size)

/-- Send one piece of a peer destination as a copy-write message (R288). Without an up link, the tile meets an
unrecoverable fault (18 R375). -/
def State.sendPiece (s : State) (t : TileRef) (c : CopyCmd) (p : CopyPair) (mop o : Nat) (bs : List Byte) : State :=
  match p.peer with
  | some q =>
    if s.upLinks q != [] then
      s.sendRequest q mop 3 c.reuse 0
        { id := c.id, tag := 0, mop := mop, by_ := p.by_, tile := t, lane := p.lane, peer := p.dst.toNat / 2 ^ 56 - 1, entry := q,
          va := p.dst.toNat % 2 ^ 56 + o, size := bs.length, ty := .void, cmd := some c.id } bs
    else s.raise (.tileFault t 5)
  | none => s

/-- Replace pair n of a command. -/
def State.setPair (s : State) (t : TileRef) (id n : Nat) (p : CopyPair) : State :=
  s.modCopy t id fun c => { c with pairs := c.pairs.set n p }

/-- Place read piece k of pair n of a running command. -/
def State.copyRead (s : State) (t : TileRef) (id n k : Nat) : State :=
  match s.copy? t id with
  | none => s
  | some c =>
    if !c.started || c.paused.isSome then s
    else
      match c.pairs[n]? with
      | none => s
      | some p =>
        match p.read s t.die k with
        | (s1, .ok q) => s1.setPair t id n q
        | (s1, .fault va) => s1.pauseCopy t c p.by_ va false
        | (s1, .bad) => s1.abortCopy t c p.by_

/-- Place write piece k of pair n of a running command. -/
def State.copyWrite (s : State) (t : TileRef) (id n k : Nat) : State :=
  match s.copy? t id with
  | none => s
  | some c =>
    if !c.started || c.paused.isSome then s
    else
      match c.pairs[n]? with
      | none => s
      | some p =>
        match p.toWrite[k]? with
        | none => s
        | some a =>
          if s.heldBack t c n p a then s
          else if 2 ^ 56 ≤ p.dst.toNat then
            match p.bytes? a.1 a.2 with
            | none => s
            | some bs => (s.sendPiece t c p 7 a.1 bs).setPair t id n { p with toWrite := p.toWrite.eraseIdx k }
          else
            match p.write s t 1 k with
            | (s1, .ok q) => s1.setPair t id n q
            | (s1, .fault va) => s1.pauseCopy t c p.by_ va true
            | (s1, .bad) => s1.abortCopy t c p.by_

/-- Place every access of a command that is left, in its own order. -/
def State.copyRest (s : State) (t : TileRef) (c : CopyCmd) : State :=
  let idx := (List.range c.pairs.length).zip c.pairs
  let s1 := idx.foldl (fun s e => (List.range e.2.toRead.length).foldl (fun s _ => s.copyRead t c.id e.1 0) s) s
  idx.foldl (fun s e => (List.range e.2.toWrite.length).foldl (fun s _ => s.copyWrite t c.id e.1 0) s) s1

/-- Write or send the completion words of a command whose payload is placed. -/
def State.copyWords (s : State) (t : TileRef) (c : CopyCmd) : List OwedWord → State
  | [] => s
  | w :: r =>
    let left (s : State) : State := s.modCopy t c.id fun c => { c with words := r }
    if 2 ^ 56 ≤ w.va.toNat then
      let p : CopyPair :=
        { by_ := w.by_, ch := 0, lane := 0, src := none, dst := w.va, len := 4, toRead := [], toWrite := [], buf := [], bad := [],
          peer := w.peer }
      State.copyWords (left (s.sendPiece t c p 8 0 (leBytes 4 w.value.toNat))) t c r
    else
      match s.writeWord t w with
      | (s1, .ok _) => State.copyWords (left s1) t c r
      | (s1, .fault va) => s1.pauseCopy t c w.by_ va true
      | (s1, .bad) => s1.abortCopy t c w.by_

/-- COPY_COMMAND_COMPLETE (R293; 12 R256): the accesses left are placed; once every write to a peer is placed too, the
completion words are written, and the command leaves the queue when nothing of it is outstanding. -/
def execCopyCommandComplete (t : TileRef) (id : Nat) (s : State) : Host.Outcome State Fault Refusal :=
  match s.copy? t id with
  | none => .next s
  | some c =>
    if !c.started || c.paused.isSome then .next s
    else
      let s1 := s.copyRest t c
      match s1.copy? t id with
      | none => .next s1
      | some c1 =>
        if c1.paused.isSome || c1.unplaced || s1.sentPending t c1 then .next s1
        else
          let s2 := s1.copyWords t c1 c1.words
          match s2.copy? t id with
          | none => .next s2
          | some c2 => .next (if c2.words == [] && !s2.sentPending t c2 then s2.dropCopy t id else s2)

/-! ## Group copies (R290) -/

/-- Where an issue of a group copy stands: the launch, its group, the number of its round, the round, and the issue. -/
structure GrpAt where
  launch : Launch
  grp : Group
  n : Nat
  round : GrpRound
  issue : GrpIssue
deriving DecidableEq, Repr

/-- The first round of a group with an issue of this kind. -/
def State.grpAt (s : State) (lid g : Nat) (p : GrpIssue → Bool) : Option GrpAt :=
  match s.launch? lid with
  | none => none
  | some l =>
    match l.groups[g]? with
    | none => none
    | some gr =>
      let n := l.cgrps.findIdx fun r => r.g == g && r.issues.any p
      match l.cgrps[n]? with
      | none => none
      | some r =>
        match r.issues.find? p with
        | none => none
        | some i => some { launch := l, grp := gr, n := n, round := r, issue := i }

/-- Change one issue in its round. -/
def State.setIssue (s : State) (lid : Nat) (a : GrpAt) (i : GrpIssue) : State :=
  s.setRound lid a.n { a.round with issues := a.round.issues.map fun e => if e.id == i.id then i else e }

/-- A group copy pauses on an engine page fault (R292). -/
def State.pauseGrp (s : State) (lid g : Nat) (a : GrpAt) (va : Nat) (wr : Bool) : State :=
  (s.setIssue lid a { a.issue with paused := some none }).fileRecord a.launch.ctx
    (s.engineRecord a.issue.by_ a.issue.tile 0 va wr true) (.group lid g a.issue.id)

/-- The completion word of a member, as an owed word. -/
def GrpIssue.owedWord (i : GrpIssue) : Option OwedWord :=
  i.word.map fun w => { by_ := i.by_, va := w.1, value := w.2, peer := none }

/-- A group copy ends as aborted (R292): its own word is never written. -/
def State.abortGrp (s : State) (lid : Nat) (a : GrpAt) : State :=
  let s1 := s.setIssue lid a { a.issue with ended := true, toWrite := [], word := none }
  let s2 := match a.issue.owedWord with | some w => s1.failWord w | none => s1
  s2.fileRecord a.launch.ctx (s.engineRecord a.issue.by_ a.issue.tile 3 0 false false) .nobody

/-- Start an issue, when no fence holds its class and its gap is over: its slice is read, and written to the members that
have issued. -/
def State.startGrp (s : State) (lid : Nat) (a : GrpAt) : State :=
  if a.issue.started || (s.tile a.issue.tile).fenced 1 a.issue.id || !s.paceOk a.issue.tile 0 a.issue.gap then s
  else
    let i := { a.issue with started := true, slice := { a.issue.slice.begin_ with toWrite := [] } }
    let put (e : GrpIssue) : GrpIssue := if e.id == i.id then i else e
    (s.noteStart a.issue.tile 0).setRound lid a.n (({ a.round with issues := a.round.issues.map put } : GrpRound).refresh a.grp)

/-- Read piece k of a member's slice. -/
def State.grpRead (s : State) (lid g id k : Nat) : State :=
  match s.grpAt lid g fun i => i.id == id with
  | none => s
  | some a0 =>
    let s0 := s.startGrp lid a0
    match s0.grpAt lid g fun i => i.id == id with
    | none => s0
    | some a =>
      if !a.issue.started || a.issue.paused.isSome || a.issue.ended then s0
      else
        match a.issue.slice.read s0 a.issue.tile.die k with
        | (s1, .ok q) => s1.setIssue lid a { a.issue with slice := q }
        | (s1, .fault va) => s1.pauseGrp lid g a va false
        | (s1, .bad) => s1.abortGrp lid a

/-- Write piece k of those that a member's slice has left, in the allocation of the member that it names. -/
def State.grpWrite (s : State) (lid g id k : Nat) : State :=
  match s.grpAt lid g fun i => i.id == id with
  | none => s
  | some a =>
    if !a.issue.started || a.issue.paused.isSome || a.issue.ended then s
    else
      match a.issue.toWrite[k]? with
      | none => s
      | some (m, o, n) =>
        match a.issue.slice.bytes? o n, (a.grp.members[m]?).bind fun b => a.round.issues.find? fun e => e.blk == b with
        | some bs, some e =>
          let lo := sliceAt (a.grp.rank a.issue.blk) a.round.len a.grp.members.length
          match s.ownSpans { lid := lid, blk := e.blk } (e.dst.toNat % 2 ^ 24 + lo + o) n with
          | (s1, .ok ks) =>
            (s1.putPiece (a.issue.by_.writer a.issue.tile 1) ks bs (a.issue.slice.spoiled o n)).setIssue lid a { a.issue with toWrite := a.issue.toWrite.eraseIdx k }
          | (s1, .fault va) => s1.pauseGrp lid g a va true
          | (s1, .bad) => s1.abortGrp lid a
        | _, _ => s

/-- Have all slices of a closed round landed at a member? The slice of an ended member that was never sent counts. -/
def GrpAt.landedAt (a : GrpAt) : Bool :=
  let m := a.grp.rank a.issue.blk
  a.round.closed a.launch a.grp.members && a.round.issues.all fun i =>
    (i.opened.contains m && !(i.toWrite.any fun e => e.1 == m) && !i.ended) || (i.ended && a.launch.blockEnded i.blk)

/-- Write a member's completion word once every slice has landed there. -/
def State.grpWord (s : State) (lid g blk : Nat) : State :=
  match s.grpAt lid g fun i => i.blk == blk && i.word.isSome with
  | none => s
  | some a =>
    if !a.landedAt || a.issue.paused.isSome then s
    else
      match a.issue.owedWord with
      | none => s
      | some w =>
        match s.writeWord a.issue.tile w with
        | (s1, .ok _) => s1.setIssue lid a { a.issue with word := none }
        | (s1, .fault va) => s1.pauseGrp lid g a va true
        | (s1, .bad) => s1.abortGrp lid a

/-- Drop the rounds of a launch whose every slice has landed and whose every word is written. -/
def State.dropRounds (s : State) (lid : Nat) : State :=
  s.modLaunch lid fun l => { l with cgrps := l.cgrps.filter fun r =>
    match l.groups[r.g]? with
    | some gr => !(r.closed l gr.members && r.issues.all fun i => i.ended || (r.finished l gr.members i && i.word.isNone))
    | none => false }

/-- CPY_GRP_SLICE_LAND (R290): what is left of block src's slice is read and written in block dst's allocation, in the
oldest round in which it has not landed there; then dst's completion word, once all slices have landed. -/
def execCpyGrpSliceLand (lid : Nat) (g : Nat) (src : Nat) (dst : Nat) (s : State) : Host.Outcome State Fault Refusal :=
  match s.launch? lid with
  | none => .next s
  | some l =>
    match l.groups[g]? with
    | none => .next s
    | some gr =>
      let m := gr.rank dst
      let at_ : GrpIssue → Bool := fun i =>
        i.blk == src && !i.ended && (!i.opened.contains m || i.toWrite.any fun e => e.1 == m)
      let s3 :=
        match s.grpAt lid g at_ with
        | none => s
        | some a0 =>
          let id := a0.issue.id
          let s0 := s.startGrp lid a0
          match s0.grpAt lid g fun i => i.id == id with
          | none => s0
          | some a =>
            let s1 := (List.range a.issue.slice.toRead.length).foldl (fun s _ => State.grpRead s lid g id 0) s0
            (List.range a.issue.toWrite.length).reverse.foldl (fun s k =>
              match (a.issue.toWrite[k]?) with
              | some (j, _, _) => if j == m then s.grpWrite lid g id k else s
              | none => s) s1
      .next ((s3.grpWord lid g dst).dropRounds lid)

end Sys2Proof.Machine
end

