-- ==== Sys2Proof/Machine/Image.lean ====
section
/-!
DEFINITION. How a wave's portable state is laid out in memory: value records and the undo log of dumps (14 R315, R316,
R319), and the wave records of swap-out images (17 R358, R359), with the liveness of values that the images hold.
-/

namespace Sys2Proof.Machine

open Sys2Proof

/-- A number as bytes, padded with zeros to a multiple of n. -/
def padTo (n : Nat) (bs : List Byte) : List Byte := bs ++ List.replicate (n * ceilDiv bs.length n - bs.length) 0#8

/-- A flag as a bit. -/
def bit01 (b : Bool) : Nat := if b then 1 else 0

/-- The mask of a pred's lanes. -/
def predMask (v : Value) : LaneMask := LaneMask.tab fun i => (v.x[i]?.getD 0).getLsbD 0

/-- A value's lanes in lane order at the type's size (14 R319): a pred as one 4-byte mask, a fmt once. -/
def Value.bytes (v : Value) : List Byte :=
  match v.ty with
  | .void => []
  | .pred => leBytes 4 (predMask v).toNat
  | .fmt => leBytes 64 ((v.x[0]?.getD 0).toNat)
  | t => (List.finRange 32).flatMap fun k => leBytes (t.bits / 8) (v.nat k)

/-- A value record (14 R319; 17 R359): its header, then the lanes. -/
def valueRecord (vidx frame own : Nat) (pend : Bool) (v : Value) : List Byte :=
  leBytes 8 (vidx * 2 ^ 53 + v.ty.code * 2 ^ 49 + bit01 pend * 2 ^ 48 + frame * 2 ^ 40 + own * 2 ^ 32) ++ v.bytes

/-! ## The undo log's bytes (14 R315, R316) -/

/-- The lanes of an old value in an undo entry: all 32 of them at the type's size. -/
def oldLanes (v : Value) : List Byte :=
  match v.ty with
  | .pred => leBytes 4 (predMask v).toNat
  | t => (List.finRange 32).flatMap fun k => leBytes (t.bits / 8) (v.nat k)

/-- A memory record. -/
def memRecBytes (m : MemRec) : List Byte :=
  leBytes 8 (m.1 * 2 ^ 59 + m.2.1 * 2 ^ 56 + m.2.2.1.toNat % 2 ^ 56) ++ m.2.2.2 ++ List.replicate (16 - m.2.2.2.length) 0#8

/-- A path of a CTL entry. -/
def undoPath (block : Nat) (m : LaneMask) : List Byte := leBytes 8 (block + m.toNat * 2 ^ 16)

/-- An entry's payload. -/
def UndoKind.payload (k : UndoKind) : List Byte :=
  match k with
  | .step old mem => (match old with | some v => oldLanes v | none => []) ++ mem.flatMap memRecBytes
  | .ctl pending cur _ olds =>
    (pending.flatMap fun p => undoPath p.block p.mask) ++ (match cur with | some c => undoPath c.block c.mask | none => []) ++
      olds.flatMap oldLanes
  | .hzn => []

/-- An entry's header. -/
def UndoEntry.header (e : UndoEntry) : Nat :=
  let k := match e.kind with | .step _ _ => 1 | .ctl _ _ _ _ => 2 | .hzn => 3
  let old := match e.kind with | .step o _ => bit01 o.isSome | _ => 0
  let nmem := match e.kind with | .step _ m => m.length | _ => 0
  k * 2 ^ 124 + old * 2 ^ 123 + (e.len / 16 - 1) * 2 ^ 117 + e.ty * 2 ^ 113 + e.point.func * 2 ^ 97 + e.point.block * 2 ^ 81 +
    e.point.vidx * 2 ^ 70 + nmem * 2 ^ 64 + e.mask.toNat * 2 ^ 32 + e.seq

/-- A wave's undo log, the oldest entry first. -/
def Wave.undoBytes (x : Wave) : List Byte :=
  x.undo.reverse.flatMap fun e => padTo 16 (leBytes 16 e.header ++ e.kind.payload)

/-! ## Liveness -/

/-- Does an opcode's word hold a target, an immediate or a selector in place of all four references (04 R66, R72,
R78-R80)? -/
def holdsImm (opc : Nat) : Bool := opc == 0x020 || opc == 0x021 || opc == 0x022 || opc == 0x0C0 || opc == 0x0C2

/-- The references of a placed word. -/
def placeRefs (p : PlaceCode) : List Ref :=
  let f := fieldsOf p.word
  let opc := (opcOf p.word).toNat
  (if holdsImm opc then [] else if opc == 0x0C1 then [f.a] else [f.a, f.b, f.c, f.p]) ++ argRefs p.args

/-- Is place n of a block used at place q, or at one after it? -/
def usedFrom (b : BlockCode) (q n : Nat) : Bool :=
  ((List.range b.code.length).zip b.code).any fun e =>
    let at_ := b.params.length + e.1
    q ≤ at_ && (placeRefs e.2).any fun r => r != 0 && at_ == n + r.toNat

/-- The live places of a path that stands at place q, with their values: those that a word from q on uses. -/
def State.livePlaces (s : State) (f : Frame) (c : Cur) (q : Nat) : List (Nat × Value) :=
  let vs := (List.range c.vals.length).zip c.vals.reverse
  match (s.code? f).bind fun t => t.blocks[c.block]? with
  | some b => vs.filter fun e => e.2.ty != .void && usedFrom b q e.1
  | none => vs.filter fun e => e.2.ty != .void

/-! ## Wave records of an image (17 R359) -/

/-- A frame record; `below` is the place at which the frame below it stands. -/
def frameRecord (f : Frame) (below : Nat) : List Byte :=
  let k := match f.kind with | .base => 0 | .call => 1 | .handler => 2
  leBytes 16 (k * 2 ^ 126 + f.func * 2 ^ 110 + f.retMask.toNat * 2 ^ 78 + below * 2 ^ 67)

/-- A path of an image: its frame counted from the base, its block and mask, whether it is current or suspended, and the
values that go with it. -/
structure ImgPath where
  frame : Nat
  block : Nat
  mask : LaneMask
  cur : Bool
  susp : Bool
  vals : List (Nat × Value)
deriving DecidableEq, Repr

/-- The paths of a wave, base frame first: in each frame its current or suspended path, then the pending ones. -/
def State.imgPaths (s : State) (x : Wave) : List ImgPath :=
  let fs := x.frames.reverse
  let n := fs.length
  ((List.range n).zip fs).flatMap fun e =>
    let top := e.1 + 1 == n
    let own : List ImgPath :=
      match e.2.cur with
      | none => []
      | some c =>
        [{ frame := e.1, block := c.block, mask := c.mask, cur := top, susp := !top,
           vals := s.livePlaces e.2 c (if top then c.place else c.place + 1) }]
    own ++ e.2.pending.map fun p =>
      { frame := e.1, block := p.block, mask := p.mask, cur := false, susp := false,
        vals := (List.range p.params.length).zip p.params }

/-- A path record. -/
def ImgPath.bytes (p : ImgPath) : List Byte :=
  leBytes 8 (p.block + p.mask.toNat * 2 ^ 16 + p.frame * 2 ^ 48 + bit01 p.cur * 2 ^ 56 + bit01 p.susp * 2 ^ 57)

/-- A lane vector of 64-bit numbers as an n64 value. -/
def n64Value (x : Lanes Word64) : Value := { ty := .n64, x := Lanes.tab fun k => (x.get k).setWidth 1600 }

/-- The value records of a wave: those of its paths, the return values recorded so far, and the traps of its handler
frames. -/
def State.imgValues (s : State) (x : Wave) : List (List Byte) :=
  let ps := s.imgPaths x
  let ofPaths := ((List.range ps.length).zip ps).flatMap fun e =>
    e.2.vals.map fun v => valueRecord v.1 (x.frames.length - 1 - e.2.frame) (if e.2.cur then 0 else e.1 + 1) false v.2
  let ofFrames := ((List.range x.frames.length).zip x.frames).flatMap fun e =>
    let ret : List (List Byte) :=
      if e.2.kind == .call && e.2.retMask != 0 && e.2.retTy != .void then
        [valueRecord 0 e.1 0xFE false { ty := e.2.retTy, x := e.2.ret }]
      else []
    let trap : List (List Byte) :=
      match e.2.trap with
      | some t =>
        [valueRecord 0 e.1 0xFF false (n64Value t.opA), valueRecord 1 e.1 0xFF false (n64Value t.opB),
         valueRecord 2 e.1 0xFF false (n64Value t.opC), valueRecord 3 e.1 0xFF false (n64Value (Lanes.all t.word))]
      | none => []
    ret ++ trap
  ofPaths ++ ofFrames

/-- A wave record (R359). -/
def State.waveRecord (s : State) (wav : Nat) (x : Wave) : List Byte :=
  let fs := x.frames.reverse
  let ps := s.imgPaths x
  let vs := s.imgValues x
  let ulog := if s.debugWave x then x.undoBytes else []
  let h := wav * 2 ^ 507 + fs.length * 2 ^ 498 + ps.length * 2 ^ 482 + vs.length * 2 ^ 466 + x.ieee.toNat * 2 ^ 461 +
    x.sli.toNat * 2 ^ 456 + x.tau.toNat * 2 ^ 424 + x.ofs.toNat * 2 ^ 392 + x.point.vidx * 2 ^ 381 + ulog.length * 2 ^ 368
  let belows := 0 :: fs.map fun f => match f.cur with | some c => c.place | none => 0
  leBytes 64 h ++ ((fs.zip belows).flatMap fun e => frameRecord e.1 e.2) ++ (ps.flatMap ImgPath.bytes) ++ vs.flatten ++ ulog

/-! ## Block images (17 R358) -/

/-- A group slot in the header. -/
def slotBits (l : Launch) (b : Block) (blk k : Nat) : Nat :=
  match ((List.range l.groups.length).filter fun g =>
      match l.groups[g]? with | some gr => gr.members.contains blk | none => false)[k]? with
  | none => 0
  | some g =>
    let e := (b.slots.find? fun e => e.g == g).getD { g := g, arrived := false, gens := 0, passed := [] }
    2 ^ 41 + bit01 e.arrived * 2 ^ 40 + e.gens % 2 ^ 32 * 2 ^ 8 + g % 256

/-- A block header with its image's length in pages. -/
def blockHeader (l : Launch) (b : Block) (blk npage nwave : Nat) (flt : Bool) : List Byte :=
  leBytes 64 (0x5349 * 2 ^ 496 + 2 ^ 488 + nwave * 2 ^ 480 + blk * 2 ^ 448 + l.lseq * 2 ^ 416 + npage * 2 ^ 384 + b.cls * 2 ^ 382 +
    bit01 flt * 2 ^ 381 + l.vb4k * 2 ^ 368 + ((List.range 4).map fun k => slotBits l b blk k * 2 ^ (326 - 42 * k)).sum)

/-- The wave records of a block, each on a 64-byte boundary: those of the waves that have not ended. -/
def State.blockWaves (s : State) (b : Block) : List (List Byte) :=
  ((List.range b.waves.length).zip b.waves).filterMap fun e =>
    if e.2.isEnded then none else some (padTo 64 (s.waveRecord e.1 e.2))

end Sys2Proof.Machine
end

