-- ==== Sys2Proof/Machine/Crc.lean ====
section
/-!
DEFINITION. CRC-32C, which flits (18 R373) and the section table of a flacon (22 R435) carry.
-/

namespace Sys2Proof.Machine

open Sys2Proof

/-- Eight shifts of the reflected register. -/
def crcByte : Nat → BitVec 32 → BitVec 32
  | 0, c => c
  | n + 1, c => crcByte n (if c.getLsbD 0 then (c >>> 1) ^^^ 0x82F63B78#32 else c >>> 1)

/-- The register after bytes. -/
def crcFold : List Byte → BitVec 32 → BitVec 32
  | [], c => c
  | b :: r, c => crcFold r (crcByte 8 (c ^^^ b.setWidth 32))

/-- CRC-32C of bytes in memory order. -/
def crc32c (bs : List Byte) : BitVec 32 := ~~~(crcFold bs 0xFFFFFFFF#32)

end Sys2Proof.Machine
end

