-- ==== Sys2Proof/Machine/Fabric.lean ====
section
/-!
DEFINITION. The fabric (18 R371-R386): the fabric access instructions, the link instructions and the states of links,
and the messages and flits that arrive.
-/

namespace Sys2Proof.Machine

open Sys2Proof

/-! ## Fabric access instructions (R382, R383) -/

/-- The checks of R383 at issue, for accesses of n bytes at an alignment. -/
def fabTrap (i : OpIn) (s : State) (n : Nat) : Option OpRes :=
  let as := i.mask.list.map fun k => i.a.nat k
  let ps := as.map fun a => a / 2 ^ 56
  if ps.any fun p => p < 1 || 32 < p || (s.peer? (p - 1)).isNone || some p != ps.head? then some trapBounds
  else if as.any fun a => winOf (a % 2 ^ 56) != .glob then some trapBounds
  else if ps.any fun p => !s.reachable (p - 1) then some trapBounds
  else if as.any fun a => a % n != 0 then some trapAlign
  else none

/-- Do a fence or the pacing register hold back a fabric access (13 R282; 10 R228)? -/
def OpIn.fabHeld (i : OpIn) (s : State) : Bool := (s.tile i.tile).fenced 5 s.nextId || !s.paceOk i.tile 3 (i.gaps s).pfab

/-- Send one message for each active lane, in ascending lane order; the channel follows the class that the block has now (R377). -/
def OpIn.sendLanes (i : OpIn) (s : State) (mop aop n : Nat) (payload : Fin 32 → List Byte) : State :=
  let vc := s.requestVc i.x.w.lid i.x.block.cls
  let s1 := i.mask.list.foldl (fun s k =>
    let a := i.a.nat k
    match s.entryOf a with
    | none => s
    | some q =>
      let o : FabOut :=
        { id := s.nextId, tag := 0, mop := mop, by_ := i.issuer, tile := i.tile, lane := k.val, peer := a / 2 ^ 56 - 1, entry := q,
          va := a % 2 ^ 56, size := n, ty := i.ty, cmd := none }
      s.sendRequest q mop vc (i.md / 16) aop o (payload k)) (s.noteStart i.tile 3)
  { s1 with nextId := s1.nextId + 1 }

/-- The wave waits for the responses of its lanes to the messages of a number. -/
def OpIn.awaitFab (i : OpIn) (id : Nat) (s : State) : OpRes :=
  .wait (i.modWave s fun w => { w with mode := .fab id i.mask i.ty (Lanes.all 0) })

/-- `fab.ld`. -/
def coreFabLd (i : OpIn) (s : State) : OpRes :=
  let n := sizeBytes (mdSize i.md)
  if i.mask == 0 then .done s (Value.zero i.ty)
  else if i.fabHeld s then .wait s
  else
    match fabTrap i s n with
    | some r => r
    | none => i.awaitFab s.nextId (i.sendLanes s 1 0 n fun _ => [])

def opFabLd : Op :=
  { opc := 0x144, res := resSame tyStore, core := coreFabLd
    form := fun t m => formFor tyStore t (mdMemOk m && sizeOk false ((Ty.ofCode t).getD .void) (mdSize m)) fun T =>
      { a := .need [.addr], b := .absent, c := .absent, pred := true, res := T, pass := .zero } }

/-- `fab.st`: the wave runs on once its messages are queued. -/
def coreFabSt (i : OpIn) (s : State) : OpRes :=
  let n := sizeBytes (mdSize i.md)
  if i.mask == 0 then doneVoid s
  else if i.fabHeld s then .wait s
  else
    match fabTrap i s n with
    | some r => r
    | none => doneVoid (i.sendLanes s 2 0 n fun k => storeBytes i n k)

def opFabSt : Op :=
  { opc := 0x145, res := resFixed tyStore .void, core := coreFabSt
    form := fun t m => formFor tyStore t (mdMemOk m && sizeOk true ((Ty.ofCode t).getD .void) (mdSize m)) fun T =>
      { a := .need [.addr], b := .need [T], c := if mdSize m == 4 then .need [T] else .absent, pred := true,
        res := .void, pass := .every } }

/-- The types of a fabric atomic (R382; 13 R274). -/
def fabAtomOk (t : Ty) (op : Nat) : Bool :=
  if op ≤ 5 then t.isInt else if op ≤ 7 then tyXchg.contains t else op == 8 && t == .f32

/-- The operands that an atomic message carries. -/
def fabAtomPayload (i : OpIn) (n : Nat) (k : Fin 32) : List Byte :=
  leBytes n (i.b.nat k) ++ (if i.md % 16 == 7 then leBytes n (i.c.nat k) else [])

/-- `fab.atom`. -/
def coreFabAtom (i : OpIn) (s : State) : OpRes :=
  let n := i.ty.bits / 8
  if i.mask == 0 then .done s (Value.zero i.ty)
  else if i.fabHeld s then .wait s
  else
    match fabTrap i s n with
    | some r => r
    | none => i.awaitFab s.nextId (i.sendLanes s 3 (i.md % 16) n (fabAtomPayload i n))

def opFabAtom : Op :=
  { opc := 0x146, res := resSame tyXchg, core := coreFabAtom
    form := fun t m => formFor tyXchg t (fabAtomOk ((Ty.ofCode t).getD .void) (m % 16)) fun T =>
      { a := .need [.addr], b := .need [T], c := if m % 16 == 7 then .need [T] else .absent, pred := true, res := T,
        pass := .zero } }

def execFabLd (f : Fields) (s : State) : Host.Outcome State Fault Refusal := runOp opFabLd f s
def execFabSt (f : Fields) (s : State) : Host.Outcome State Fault Refusal := runOp opFabSt f s
def execFabAtom (f : Fields) (s : State) : Host.Outcome State Fault Refusal := runOp opFabAtom f s

/-! ## Responses (R374, R383) -/

/-- Note a lane whose access was not placed. -/
def addFabFail (o : FabOut) (sts : Nat) : List FabFail → List FabFail
  | [] => [{ id := o.id, mask := 1#32 <<< o.lane, lane := o.lane, va := o.va, sts := sts }]
  | e :: r =>
    if e.id == o.id then
      { e with mask := e.mask ||| (1#32 <<< o.lane), lane := min e.lane o.lane,
               va := if o.lane < e.lane then o.va else e.va, sts := if o.lane < e.lane then sts else e.sts } :: r
    else e :: addFabFail o sts r

/-- The fault record of a fabric instruction that had lanes not placed (14 R311, KIND 1). -/
def State.fabRecord (s : State) (o : FabOut) (e : FabFail) : FaultRec :=
  { s.engineRecord o.by_ o.tile 1 e.va false false with
    peer := o.peer, fsts := e.sts, lanes := Lanes.tab fun k => if e.mask.has k.val then 1 else 0 }

/-- Is a mode that of a fabric instruction of a number? -/
def WaveMode.isFabOf (m : WaveMode) (id : Nat) : Bool := match m with | .fab i _ _ _ => i == id | _ => false

/-- A lane's response gives its data to the instruction that waits. -/
def State.fabLane (s : State) (o : FabOut) (data : Nat) : State :=
  (s.focusOn o.by_.wave fun m _ => m.isFabOf o.id).modWave o.by_.wave fun w =>
    match w.mode with
    | .fab id left ty acc =>
      let acc' : Lanes LaneBits := Lanes.tab fun k => if k.val == o.lane then BitVec.ofNat 1600 data else acc.get k
      if id == o.id then { w with mode := .fab id (left &&& ~~~(1#32 <<< o.lane)) ty acc' } else w
    | _ => w

/-- A wave whose lanes have all answered goes on. -/
def State.fabDone (s : State) (w : WaveRef) (opc : Nat) : State :=
  match s.site? w with
  | none => s
  | some x =>
    match x.wave.mode with
    | .fab _ left ty acc => if left == 0 then s.release w opc (x.inLanes { ty := ty, x := acc }) else s.settleFocus w
    | _ => s

/-- The response to an outstanding request: its lane has data and a status; after the last response of an instruction,
its record is filed and its wave goes on. -/
def State.fabAnswer (s : State) (o : FabOut) (sts data opc : Nat) : State :=
  let s1 := { s with fabOut := s.fabOut.erase o }
  let s2 := if sts == 0 then s1 else { s1 with fabFail := addFabFail o sts s1.fabFail }
  let s3 := s2.fabLane o (if sts == 0 then data else 0)
  let s4 :=
    if s3.fabOut.any fun e => e.id == o.id then s3
    else
      match s3.fabFail.find? fun e => e.id == o.id with
      | none => s3
      | some e =>
        { s3 with fabFail := s3.fabFail.filter fun g => g.id != o.id }.fileRecord (s3.ctxOf o.by_.wave.lid) (s3.fabRecord o e) .nobody
  s4.fabDone o.by_.wave opc

/-- The outstanding request that a response answers: its tag, from the target it was sent to (R364). -/
def State.asked (s : State) (m : Message) (mops : List Nat) : Option FabOut :=
  s.fabOut.find? fun o => o.tag == m.tag.toNat && mops.contains o.mop && o.entry.fid == m.src.toNat

/-- Is an arriving message well formed and meant for this device (R363, R374), which answers none in recovery mode (22 R438)? -/
def State.mine (s : State) (m : Message) : Bool := s.started && m.rsv == 0 && 1 ≤ m.mop.toNat && m.mop.toNat ≤ 8 && m.dst == s.bar0.fid

/-- A message that is not is discarded and counted (R374). -/
def State.discard (s : State) : State := { s with discarded := (s.discarded + 1) % 2 ^ 64 }

/-- READ_RESPONSE (R374, R383). -/
def execReadResponse (m : Message) (s : State) : Host.Outcome State Fault Refusal :=
  if !s.mine m then .next s.discard
  else
    match s.asked m [1] with
    | none => .next s.discard
    | some o => .next (s.fabAnswer o m.sts.toNat (loadBits o.ty o.size (ofLe (m.payload.take o.size))) 0x144)

/-- Is a request one of a flacon's writes to a peer (22 R434)? -/
def State.ofFlacon (s : State) (o : FabOut) : Bool :=
  match (s.wave? o.by_.wave).bind Wave.sysReq with
  | some (.flacon id _ _) => o.cmd == some id
  | _ => false

/-- A write of a flacon to a peer has failed. -/
def State.failFlacon (s : State) (o : FabOut) : State :=
  s.modWave o.by_.wave fun w =>
    match w.sysReq with
    | some (.flacon id t b) => { w with sysReq := some (.flacon id t (b || o.cmd == some id)) }
    | _ => w

/-- WRITE_ACKNOWLEDGEMENT (R374, R383): of a `fab.st` lane, of a copy's write, whose failure aborts the copy (13 R292), or of a flacon's. -/
def execWriteAcknowledgement (m : Message) (s : State) : Host.Outcome State Fault Refusal :=
  if !s.mine m then .next s.discard
  else
    match s.asked m [2, 7, 8] with
    | none => .next s.discard
    | some o =>
      match o.cmd with
      | none => .next (s.fabAnswer o m.sts.toNat 0 0x145)
      | some id =>
        let s1 := { s with fabOut := s.fabOut.erase o }
        if m.sts == 0 then .next s1
        else
          match s1.copy? o.tile id with
          | some c => .next (s1.abortCopy o.tile c o.by_)
          | none => .next (s1.failFlacon o)

/-- ATOMIC_RESPONSE (R374, R383). -/
def execAtomicResponse (m : Message) (s : State) : Host.Outcome State Fault Refusal :=
  if !s.mine m then .next s.discard
  else
    match s.asked m [3] with
    | none => .next s.discard
    | some o => .next (s.fabAnswer o m.sts.toNat (ofLe (m.payload.take o.size)) 0x146)

/-! ## Requests of a peer (R374; 12 R263; 13 R266) -/

/-- The die on which a peer's access binds its pages (DESIGN CHOICE, log entry 21): R343 names none. -/
def fabricDie : Nat := 0

/-- The memory spans of a peer's access, or the status that it returns: 1 for a page fault, 2 for an address that the
message may not name, a vault check that fails, or a context that is not resident. -/
def State.peerSpans (s : State) (m : Message) (n : Nat) (rd wr vault : Bool) : State × Except Nat (List (Nat × Nat)) :=
  let va := m.va.toNat
  match s.ctx? m.ctx.toNat with
  | none => (s, .error 2)
  | some c =>
    match winOf va with
    | .glob =>
      match s.translateN m.ctx.toNat fabricDie va n rd wr with
      | (s1, .ok ks) => (s1, .ok ks)
      | (s1, .error _) => (s1, .error 1)
    | .die => (s, .error 2)
    | .all =>
      let d := bitsOf va 31 29
      let v := bitsOf va 28 24
      let o := va % 2 ^ 24
      if !vault || clustersOf d ≤ v || s.vaultRetired d v || o < c.vplo * 4096 || (c.vplo + c.vsh) * 4096 < o + n then
        (s, .error 2)
      else (s, .ok [(vaultKey d v o, n)])

/-- Answer a request: on a link to the sender, with the request's tag. -/
def State.respond (s : State) (m : Message) (mop sts : Nat) (payload : List Byte) : State :=
  match (List.range 32).find? fun p => (match s.peer? p with | some q => q.fid == m.src.toNat && s.reachable p | none => false) with
  | none => s
  | some p =>
    match s.peer? p with
    | none => s
    | some q =>
      match s.route q m.va.toNat with
      | none => s
      | some link =>
        let r := s.message { q with ctx := 0 } mop 2 m.tag.toNat 0 0 m.va.toNat payload.length payload
        s.queueMessage link { num := s.nextTag, links := q.links, msg := { r with sts := BitVec.ofNat 4 sts } }

/-- A peer as a writer of a path class. -/
def peerWriter : Writer := { cls := 5, wave := none }

/-- FAB_READ (R374). -/
def execFabRead (m : Message) (s : State) : Host.Outcome State Fault Refusal :=
  if !s.mine m then .next s.discard
  else
    match s.peerSpans m m.len.toNat true false false with
    | (s1, .error e) => .next (s1.respond m 4 e [])
    | (s1, .ok ks) => .next (s1.respond m 4 0 (s1.readSpans ks))

/-- FAB_WRITE (R374). -/
def execFabWrite (m : Message) (s : State) : Host.Outcome State Fault Refusal :=
  if !s.mine m then .next s.discard
  else
    match s.peerSpans m m.len.toNat false true false with
    | (s1, .error e) => .next (s1.respond m 5 e [])
    | (s1, .ok ks) => .next ((s1.putSpans peerWriter ks (m.payload.take m.len.toNat)).respond m 5 0 [])

/-- The new value of a peer's atomic on n bytes (13 R275). The message names no type: signedness of a minimum or maximum
is a free value. -/
def peerAtom (aop n old b c : Nat) (signed : Bool) : Nat :=
  let ty : Ty := if signed then (if n == 8 then .i64 else .i32) else (if n == 8 then .n64 else .n32)
  match aop with
  | 0 => (old + b) % 2 ^ (8 * n)
  | 1 => wrapTo ty (min (toInt ty old) (toInt ty b))
  | 2 => wrapTo ty (max (toInt ty old) (toInt ty b))
  | 3 => old &&& b
  | 4 => old ||| b
  | 5 => old ^^^ b
  | 6 => b
  | 7 => if old = b then c else old
  | _ => addF32 old b

/-- FAB_ATOMIC (R374): one read-modify-write. -/
def execFabAtomic (m : Message) (s : State) : Host.Outcome State Fault Refusal :=
  if !s.mine m || 8 < m.aop.toNat then .next s.discard
  else
    let n := if m.aop == 7 then m.len.toNat / 2 else m.len.toNat
    match s.peerSpans m n true true false with
    | (s1, .error e) => .next (s1.respond m 6 e [])
    | (s1, .ok ks) =>
      let old := ofLe (s1.readSpans ks)
      let new := peerAtom m.aop.toNat n old (ofLe (m.payload.take n)) (ofLe ((m.payload.drop n).take n)) (Config.peerSigned s1.fresh)
      .next (((s1.putSpans peerWriter ks (leBytes n new)).draw).respond m 6 0 (leBytes n old))

/-- COPY_WRITE (R374; 13 R266): the bytes are written, or the message is discarded with its status. -/
def execCopyWrite (m : Message) (s : State) : Host.Outcome State Fault Refusal :=
  if !s.mine m then .next s.discard
  else
    match s.peerSpans m m.len.toNat false true true with
    | (s1, .error e) => .next (s1.respond m 5 e [])
    | (s1, .ok ks) => .next ((s1.putSpans peerWriter ks (m.payload.take m.len.toNat)).respond m 5 0 [])

/-- COMPLETION_WRITE (R374; 12 R256): a lane-path write. -/
def execCompletionWrite (m : Message) (s : State) : Host.Outcome State Fault Refusal :=
  if !s.mine m then .next s.discard
  else
    match s.peerSpans m 4 false true true with
    | (s1, .error e) => .next (s1.respond m 5 e [])
    | (s1, .ok ks) => .next ((s1.putSpans partWriter ks (m.payload.take 4)).respond m 5 0 [])

/-! ## Links: groups, width and the port divisor (R371-R381) -/

/-- The state of a group. -/
def Link.grp (x : Link) (g : Nat) : GroupState := (x.groups[g]?).getD .off

def Link.setGrp (x : Link) (g : Nat) (v : GroupState) : Link := { x with groups := x.groups.set g v }

/-- Is a group on its way from OFF to ON? -/
def GroupState.coming : GroupState → Bool
  | .waking _ => true
  | .locking _ => true
  | .ready => true
  | .on => false
  | .off => false

/-- The active transmit wavelengths in order, as (fibre, wavelength) (R372). -/
def Link.waves (x : Link) (l : Nat) : List (Nat × Nat) :=
  [4 * l, 4 * l + 1].flatMap fun f => ((List.range 8).filter fun v => x.grp (v / 2) == .on).map fun v => (f, v)

/-- Where beat b goes: active wavelength b mod W, in slot floor(b / W) (R372). -/
def beatAt (ws : List (Nat × Nat)) (b : Nat) : BeatAt :=
  let e := (ws[b % ws.length]?).getD (0, 0)
  { fibre := e.1, wave := e.2, slot := b / ws.length }

/-- The link's width has changed: beats are numbered from 0 again after the gap of 28 ticks (R372), and the peer is told (R373). -/
def Link.rewidth (x : Link) (now : Nat) : Link := { x with retrain := some (now + 28), beat := 0, announce := true }

/-- The stream bytes of a message (R374). -/
def streamLen (m : Message) : Nat := 16 + 16 * ceilDiv m.payload.length 16

/-- DEPTH in flits (R379). -/
def Link.depth (x : Link) : Nat := ceilDiv ((x.txq.map fun o => streamLen o.msg).sum - x.txoff) 240

/-- The links of a die. -/
def dieLinks (d : Nat) : List Nat := [4 * d, 4 * d + 1, 4 * d + 2, 4 * d + 3]

/-- Does every link of a die carry at most 8 wavelengths each way? One that is down meets this (R380; 20 R406). -/
def State.dieQuiet (s : State) (d : Nat) : Bool :=
  (dieLinks d).all fun l => !s.linkUp l || ((s.link l).width ≤ 8 && (s.link l).rxWidth ≤ 8)

/-- Note that a link's width has changed in the running interval. -/
def State.noteWidth (s : State) (d : Nat) : State :=
  let q := s.dieQuiet d
  s.modDie d fun x => { x with pdQuiet := x.pdQuiet && q }

/-- Begin the next waiting PD change of a die, when none is in progress and no width change is (R380). -/
def State.nextPd (s : State) (d : Nat) : State :=
  let x := s.die d
  match x.pdStop, x.pdWant with
  | none, v :: r =>
    if v == x.pd then s.setDie d { x with pdWant := r }
    else if v == 4 && (dieLinks d).any fun l => (s.link l).retrain.isSome || (s.link l).parking != 0 then s
    else s.setDie d { x with pdWant := r, pdStop := some (s.tick + 64, v) }
  | _, _ => s

/-- Ask for a PD change of a die. -/
def State.wantPd (s : State) (d v : Nat) : State :=
  let x := s.die d
  let last := (x.pdWant.getLast?).getD (match x.pdStop with | some e => e.2 | none => x.pd)
  if last == v then s else (s.setDie d { x with pdWant := x.pdWant ++ [v] }).nextPd d

/-- Does anything that a link has sent, or is to send, wait for its peer? -/
def State.linkBusy (s : State) (l : Nat) : Bool :=
  let x := s.link l
  x.txq != [] || x.unacked != [] || s.fabOut.any fun o => o.entry.links / 2 ^ l % 2 == 1

/-- A link that has gained a peer comes up where the port divisor allows its width, and asks for PD 2 elsewhere (R380); one whose peer the
table no longer names is down once nothing of it is outstanding (R364). -/
def State.syncLink (s : State) (peers l : Nat) : State :=
  let x := s.link l
  let peer := peers / 2 ^ l % 2 == 1
  if x.live then (if peer || s.linkBusy l then s else s.setLink l { x with live := false })
  else if !x.up || !peer then s
  else if s.mayCarry l then s.setLink l { x with live := true }
  else s.wantPd (linkDie l) 2

/-- The links as the peer table has them, before time passes; a die one of whose links then carries more than 8 wavelengths is not quiet in
this interval (20 R406). -/
def State.syncLinks (s : State) : State :=
  let s1 := (List.range 32).foldl (fun s l => s.syncLink s.peerLinks l) s
  (List.range 8).foldl (fun s d => if (s.die d).pdQuiet && !s.dieQuiet d then s.noteWidth d else s) s1

/-- A PD change of a die is over: its links tell peers that wait for readiness (R380). -/
def State.tellPeers (s : State) (d : Nat) : State :=
  (dieLinks d).foldl (fun s l => if (s.link l).peerWaking == 0 then s else s.modLink l fun x => { x with announce := true }) s

/-- PD_STOP_END (R380): the 64 ticks have passed, and the new divisor is in effect. -/
def execPdStopEnd (die : Nat) (s : State) : Host.Outcome State Fault Refusal :=
  match (s.die die).pdStop with
  | some (e, v) =>
    if e ≤ s.tick then .next (((s.modDie die fun d => { d with pd := v, pdStop := none }).tellPeers die).nextPd die) else .next s
  | none => .next s

/-- Will the width exceed 8 with the groups that are on, or on the way? -/
def Link.wide (x : Link) : Bool :=
  2 < (x.groups.filter fun g => match g with | .off => false | _ => true).length

/-- Wake a group (R378): one that is not OFF is left alone. -/
def State.wakeGroup (s : State) (l g : Nat) : State :=
  let x := s.link l
  if x.grp g == .off then
    let y := { x.setGrp g (.waking s.tick) with peerReady := x.peerReady &&& ~~~(1#4 <<< g), announce := true }
    let s1 := s.setLink l y
    if y.wide then s1.wantPd (linkDie l) 2 else s1
  else s

/-- The port cycle of a die's links at a tick (R379, R380). -/
def State.portCycle (s : State) (l tick : Nat) : Nat := tick / max 1 (s.die (linkDie l)).pd

/-- A link as a request of a port cycle finds it: those of earlier cycles are over. -/
def Link.inCycle (x : Link) (c : Nat) : Link := if x.reqCycle == c then x else { x with reqCycle := c, parkNow := 0, woken := 0 }

/-- A wake by instruction: it follows every park of its port cycle, so a park of this cycle that waits for the width change is undone
(R379, R387). -/
def State.askWake (s : State) (l g : Nat) : State :=
  let x := (s.link l).inCycle (s.portCycle l s.tick)
  let b : BitVec 4 := 1#4 <<< g
  (s.setLink l { x with woken := x.woken ||| b, parkNow := x.parkNow &&& ~~~b,
                        parking := if x.parkNow.getLsbD g then x.parking &&& ~~~b else x.parking }).wakeGroup l g

/-- Park a group (R378): an ON group waits for the width change; one on its way goes OFF at once. A wake of the group in the same port
cycle comes after the park (R379). -/
def State.parkGroup (s : State) (l g : Nat) : State :=
  let x := (s.link l).inCycle (s.portCycle l s.tick)
  let b : BitVec 4 := 1#4 <<< g
  let off (s : State) : State :=
    let s1 := s.setLink l (x.setGrp g .off)
    if x.woken.getLsbD g then s1.wakeGroup l g else s1
  match x.grp g with
  | .on => s.setLink l (if x.woken.getLsbD g then x else { x with parking := x.parking ||| b, parkNow := x.parkNow ||| b })
  | .off => s.setLink l x
  | .waking t => if s.portCycle l t == s.portCycle l s.tick then s.setLink l x else off s
  | _ => off s

/-- The groups of a mask. -/
def groupList (m : Nat) : List Nat := (List.range 4).filter fun g => m / 2 ^ g % 2 == 1

/-- WIDTH_CHANGE (R372, R378): parked groups leave the width, ready groups join it, and the link retrains. A join to
more than 8 wavelengths, and a link that comes up with more either way, wait for PD 2 (R380). Group 0's joining, and nothing else,
brings a link that was down up (R381). -/
def execWidthChange (link : Nat) (s : State) : Host.Outcome State Fault Refusal :=
  let x := s.link link
  let parked := { x with parking := 0, groups := (List.range 4).map fun g => if x.parking.getLsbD g && x.grp g == .on then .off else x.grp g }
  let joined := { parked with groups := parked.groups.map fun g => if g == .ready then .on else g }
  let d := s.die (linkDie link)
  let mayJoin := (joined.width ≤ 8 && (x.up || joined.rxWidth ≤ 8)) || (d.pd == 2 && d.pdStop.isNone)
  let y := if mayJoin then joined else parked
  if y.groups == x.groups then .next (s.setLink link parked)
  else
    let rises := !x.up && x.grp 0 == .ready && y.grp 0 == .on
    let s1 := (s.setLink link { y.rewidth s.tick with up := x.up || rises, live := x.live || rises }).noteWidth (linkDie link)
    if rises then
      .next (s1.event 4 link (match (List.range 32).find? fun p =>
          (match s1.peer? p with | some q => q.links / 2 ^ link % 2 == 1 | none => false) with
        | some p => (match s1.peer? p with | some q => q.fid | none => 0)
        | none => 0))
    else .next s1

/-- RETRAIN_END (R372): the gap after a width change ends; a PD change that waited for it may begin (R380). -/
def execRetrainEnd (link : Nat) (s : State) : Host.Outcome State Fault Refusal :=
  match (s.link link).retrain with
  | some e => if e ≤ s.tick then .next ((s.modLink link fun x => { x with retrain := none }).nextPd (linkDie link)) else .next s
  | none => .next s

/-- LASER_START_DONE (R378). -/
def execLaserStartDone (link : Nat) (grp : Nat) (s : State) : Host.Outcome State Fault Refusal :=
  match (s.link link).grp grp with
  | .waking t => if t + 2520 ≤ s.tick then .next (s.modLink link fun x => x.setGrp grp (.locking (t + 2520))) else .next s
  | _ => .next s

/-- The rings of a group on a link's fibres, as numbers in the table of rings (R381). -/
def groupRings (link grp : Nat) : List (Nat × Nat) :=
  [4 * link, 4 * link + 1, 4 * link + 2, 4 * link + 3].flatMap fun f =>
    [2 * grp, 2 * grp + 1, 2 * grp + 8, 2 * grp + 9].map fun r => (f, r)

/-- RING_LOCK_DONE (R378): a group that has locked is READY once its peer is. -/
def execRingLockDone (link : Nat) (grp : Nat) (s : State) : Host.Outcome State Fault Refusal :=
  let x := s.link link
  match x.grp grp with
  | .locking t =>
    if t + 1960 ≤ s.tick && (grp == 0 || x.peerReady.getLsbD grp) then
      let s1 := (groupRings link grp).foldl (fun s e => s.setRing e.1 e.2 { s.ring e.1 e.2 with locked := true }) s
      let y := x.setGrp grp .ready
      let s2 := s1.setLink link y
      .next (if y.wide || (grp == 0 && !y.up && 8 < y.rxWidth) then s2.wantPd (linkDie link) 2 else s2)
    else .next s
  | _ => .next s

/-- PEER_READINESS (R378, R380): the peer announces that it receives a group. -/
def execPeerReadiness (link : Nat) (grp : Nat) (s : State) : Host.Outcome State Fault Refusal :=
  .next (s.modLink link fun x => { x with peerReady := x.peerReady ||| (1#4 <<< grp) })

/-- THRESHOLD_WAKE (R379). -/
def execThresholdWake (link : Nat) (s : State) : Host.Outcome State Fault Refusal :=
  let x := s.link link
  if x.thr != 0 && x.thr ≤ x.depth && s.hasPeer link then .next ((List.range 4).foldl (fun s g => s.wakeGroup link g) s)
  else .next s

/-! ## A link that goes down (R375, R381) -/

/-- The fabric identity of the peer that a link leads to. -/
def State.linkPeer (s : State) (l : Nat) : Option Nat :=
  (List.range 32).find? fun p => match s.peer? p with | some q => q.links / 2 ^ l % 2 == 1 | none => false

/-- Put a message at the front of a link's queue, behind one that has begun. -/
def Link.putFirst (x : Link) (o : Outgoing) : Link :=
  { x with txq := if x.txoff == 0 then o :: x.txq else x.txq.take 1 ++ o :: x.txq.drop 1 }

/-- What a link that goes down keeps: a wake in progress is abandoned (R387), its queues are empty, and the numbering of flits and the credits start again when it comes
up (DESIGN CHOICE, log entry 66). -/
def Link.fallen (x : Link) : Link :=
  { x with up := false, live := false, groups := x.groups.map (fun g => if g.coming then .off else g), txq := [], txoff := 0, unacked := [], replay := [], again := [], fails := 0, tries := 0, asking := false,
           announce := false, rx := [], fseq := 0, rseq := 0, acked := 0, credits := Link.reset.credits, returns := Link.reset.returns }

/-- A link goes down: its messages go to the other links of their peer, before later ones; a tile with an access outstanding to
a peer that none is left to meets an unrecoverable fault, and a flacon's write to such a peer fails. -/
def State.linkDown (s : State) (l : Nat) : State :=
  let x := s.link l
  let ms := (x.unacked.map fun e => e.2) ++ x.txq
  let fid := match s.linkPeer l with | some p => (match s.peer? p with | some q => q.fid | none => 0) | none => 0
  let s1 := (s.setLink l x.fallen).event 3 l fid
  let s2 := ms.reverse.foldl (fun s o =>
    match s.routeOf o.links o.msg.va.toNat with
    | some k => s.modLink k fun y => { y.putFirst o with live := true }
    | none => s) s1
  let lost := s.fabOut.filter fun o => o.entry.links / 2 ^ l % 2 == 1 && s2.upLinks o.entry == []
  let own := lost.filter fun o => !s.ofFlacon o
  let s3 := (lost.filter s.ofFlacon).foldl (fun s o => { s with fabOut := s.fabOut.erase o }.failFlacon o) s2
  (own.map fun o => o.tile).eraseDups.foldl (fun s t => s.raise (.tileFault t 5)) s3

/-- LOSS_OF_LOCK (R381). A link without a peer changes only in its rings (R386). A filter of a receiving fibre concerns the link only in group 0. -/
def execLossOfLock (fibre : Nat) (ring : Nat) (s : State) : Host.Outcome State Fault Refusal :=
  let l := fibre / 4
  let g := ring % 8 / 2
  let s1 := s.setRing fibre ring { s.ring fibre ring with locked := false }
  let x := s1.link l
  if !(s.hasPeer l || x.live) then .next s1
  else if g == 0 then
    if x.grp 0 == .on then .next ((s1.linkDown l).modLink l fun y => y.setGrp 0 (.locking s.tick)) else .next s1
  else if fibre % 4 < 2 && x.grp g == .on then
    let y := { x.setGrp g .off with parking := x.parking &&& ~~~(1#4 <<< g) }
    .next (((s1.setLink l (if x.up then y.rewidth s.tick else y)).noteWidth (linkDie l)).wakeGroup l g)
  else .next s1

/-! ## Flits (R373, R375) -/

/-- A message as a byte stream (R374): the 16 bytes of its header, then the payload padded with zeros. -/
def messageStream (m : Message) : List Byte :=
  let h := m.mop ++ m.vc ++ m.src ++ m.dst ++ m.tag ++ m.len ++ m.rc ++ m.ctx ++ m.aop ++ m.sts ++ m.rsv ++ m.va
  leBytes 16 h.toNat ++ m.payload ++ List.replicate (16 * ceilDiv m.payload.length 16 - m.payload.length) 0#8

/-- A message from a header and the bytes that follow it. -/
def messageOf (h : Nat) (payload : List Byte) : Message :=
  let f (hi lo w : Nat) : BitVec w := BitVec.ofNat w (bitsOf h hi lo)
  { mop := f 127 124 4, vc := f 123 122 2, src := f 121 116 6, dst := f 115 110 6, tag := f 109 98 12, len := f 97 85 13,
    rc := f 84 83 2, ctx := f 82 81 2, aop := f 80 77 4, sts := f 76 73 4, rsv := f 72 56 17, va := f 55 0 56,
    payload := payload }

/-- Does a message of a MOP carry its LEN bytes? A read request names the length it wants. -/
def carries (mop : Nat) : Bool := mop != 1

/-- Take the whole messages from the front of a stream: units of zeros are padding. The fuel is the stream's length. -/
def takeMessages : Nat → List Byte → List Message × List Byte
  | 0, bs => ([], bs)
  | n + 1, bs =>
    if bs.length < 16 then ([], bs)
    else
      let h := ofLe (bs.take 16)
      if h == 0 then takeMessages n (bs.drop 16)
      else
        let len := bitsOf h 97 85
        let k := if carries (bitsOf h 127 124) then len else 0
        let whole := 16 + 16 * ceilDiv k 16
        if bs.length < whole then ([], bs)
        else
          let r := takeMessages n (bs.drop whole)
          (messageOf h ((bs.drop 16).take k) :: r.1, r.2)

/-- The bytes that a flit's CRC covers: header bits [127:32] and beats 1-15. -/
def flitCovered (f : Flit) : List Byte :=
  leBytes 12 (f.ftype ++ f.fseq ++ f.ack ++ f.cvc ++ f.cred ++ f.rsv).toNat ++ f.beats

/-- Is a flit received intact (R373)? -/
def flitIntact (f : Flit) : Bool := f.ftype.toNat ≤ 2 && f.beats.length == 240 && crc32c (flitCovered f) == f.crc

/-- Is FSEQ a at or before b, in the window of 64? -/
def seqLe (a b : Nat) : Bool := (b + 65536 - a) % 65536 < 32768

/-- The peer has received every flit up to an FSEQ. -/
def Link.acknowledge (x : Link) (a : Nat) : Link :=
  let left := x.replay.filter fun e => !seqLe e.fseq.toNat a
  { x with acked := a, replay := left, again := x.again.filter fun e => !seqLe e.fseq.toNat a,
           unacked := x.unacked.filter fun e => !seqLe e.1 a, tries := if left.length < x.replay.length then 0 else x.tries }

/-- Return credits of a virtual channel for a message that has arrived (R373). -/
def addReturn (cs : List Nat) (m : Message) : List Nat :=
  cs.set m.vc.toNat ((cs[m.vc.toNat]?).getD 0 + streamLen m / 16)

/-- The wavelengths that a link will receive on once the groups that the peer wakes have joined. -/
def Link.rxComing (x : Link) : Nat :=
  4 * (4 - ((List.range 4).filter fun g => x.peerParked.getLsbD g && !x.peerWaking.getLsbD g).length)

/-- The peer asks for a replay: the flits that it has not acknowledged are sent again, in FSEQ order; after 16 replays in a row that
failed the link goes down (R375). With no flit held there is nothing to replay. -/
def State.replayAsked (s : State) (l : Nat) : State :=
  if (s.link l).replay == [] then s
  else if 16 ≤ (s.link l).tries then s.linkDown l
  else s.modLink l fun x => { x with again := x.replay, tries := x.tries + 1, announce := true }

/-- What a control flit announces (R373, R378, R380): the peer's width, the groups that it wakes, its readiness, and that it asks for a
replay. Groups that make the received width exceed 8 ask for PD 2. -/
def State.control (s : State) (l : Nat) (y : Link) (bs : List Byte) : State :=
  let z := { y with peerParked := Config.flitParked bs &&& 0xE, peerWaking := Config.flitWaking bs &&& 0xE,
                    announce := y.announce || Config.flitWaking bs &&& 0xE != 0 }
  let s1 := (s.setLink l z).noteWidth (linkDie l)
  let s2 := if 8 < z.rxComing then s1.wantPd (linkDie l) 2 else s1
  let s3 := s2.modLink l fun x => { x with peerReady := x.peerReady ||| Config.flitReady bs }
  if Config.flitAsks bs then s3.replayAsked l else s3

/-- FLIT_RECEIVE (R373, R375): a flit that is not intact is discarded and a replay asked for; when the last of 16 replays in a row has failed
too the link goes down. An intact one returns acknowledgement and credits; a data flit in sequence adds to the message stream; a control flit
announces. -/
def execFlitReceive (link : Nat) (fl : Flit) (s : State) : Host.Outcome State Fault Refusal :=
  let x := s.link link
  if !s.linkUp link then .next s
  else if !flitIntact fl then
    if 16 ≤ x.fails && !x.asking then .next (s.linkDown link)
    else .next (s.setLink link { x with asking := true, announce := true })
  else
    let v := fl.cvc.toNat
    let y := { x.acknowledge fl.ack.toNat with
      credits := x.credits.set v ((x.credits[v]?).getD 0 + fl.cred.toNat) }
    if fl.ftype == 2 then .next (s.control link y fl.beats)
    else if fl.ftype == 1 && fl.fseq.toNat == (x.rseq + 1) % 65536 then
      let r := takeMessages ((y.rx ++ fl.beats).length + 1) (y.rx ++ fl.beats)
      let s1 := s.setLink link { y with rseq := fl.fseq.toNat, fails := 0, rx := r.2, returns := r.1.foldl addReturn y.returns }
      .next { s1 with agenda := r.1.map Act.arrive ++ s1.agenda }
    else .next (s.setLink link y)

/-- A message that has arrived whole is acted on by its MOP (R374). -/
def State.deliver (m : Message) (s : State) : Host.Outcome State Fault Refusal :=
  match m.mop.toNat with
  | 1 => execFabRead m s
  | 2 => execFabWrite m s
  | 3 => execFabAtomic m s
  | 4 => execReadResponse m s
  | 5 => execWriteAcknowledgement m s
  | 6 => execAtomicResponse m s
  | 7 => execCopyWrite m s
  | 8 => execCompletionWrite m s
  | _ => .next s.discard

/-- Is a message a request, or a write of a copy? -/
def msgAsks (m : Message) : Bool := match m.mop.toNat with | 4 => false | 5 => false | 6 => false | _ => true

/-- Do two messages for one device touch a common aligned 16-byte chunk? -/
def msgsMeet (m n : Message) : Bool :=
  m.dst == n.dst && m.va.toNat / 16 ≤ (n.va.toNat + max 1 n.len.toNat - 1) / 16 && n.va.toNat / 16 ≤ (m.va.toNat + max 1 m.len.toNat - 1) / 16

/-- Must a request on link l wait: an earlier one to a common chunk is still queued, or stands unacknowledged on another link
(R375; 12 R263)? -/
def State.sendHeld (s : State) (l : Nat) (o : Outgoing) : Bool :=
  let before (e : Outgoing) : Bool := msgAsks e.msg && e.num < o.num && msgsMeet e.msg o.msg
  msgAsks o.msg && s.links.any fun e =>
    e.2.txq.any before || (e.1 != l && e.2.unacked.any fun u => before u.2)

/-- May message k of a link's queue begin (R377): it is the first of its virtual channel, its credits are there, and no earlier request
holds it? -/
def State.mayBegin (s : State) (l k : Nat) : Bool :=
  let x := s.link l
  match x.txq[k]? with
  | none => false
  | some o =>
    ((x.txq.take k).all fun e => e.msg.vc != o.msg.vc) && streamLen o.msg / 16 ≤ (x.credits[o.msg.vc.toNat]?).getD 0 && !s.sendHeld l o

/-- The message that begins next: a response before any request (R377), then in order of arrival (DESIGN CHOICE, log entry 66). -/
def State.nextToSend (s : State) (l : Nat) : Option Nat :=
  let ks := (List.range (s.link l).txq.length).filter (s.mayBegin l)
  match ks.find? (fun k => match (s.link l).txq[k]? with | some o => o.msg.vc == 2 | none => false) with
  | some k => some k
  | none => ks.head?

/-- Begin message k: it comes to the front and spends its credits. -/
def Link.beginSend (x : Link) (k : Nat) : Link :=
  match x.txq[k]? with
  | none => x
  | some o =>
    let v := o.msg.vc.toNat
    { x with txq := o :: x.txq.eraseIdx k, credits := x.credits.set v ((x.credits[v]?).getD 0 - streamLen o.msg / 16) }

/-- Fill a flit's 240 bytes from the message stream: the state, the bytes, and the messages whose last byte is among them. The fuel is
the number of messages that a flit can hold, and one. -/
def State.fillFlit (l : Nat) : Nat → State → List Byte → List Outgoing → State × List Byte × List Outgoing
  | 0, s, bs, ms => (s, bs, ms)
  | f + 1, s, bs, ms =>
    let s1 :=
      if (s.link l).txoff != 0 then s else match s.nextToSend l with | some k => s.modLink l fun x => x.beginSend k | none => s
    let x := s1.link l
    let go := x.txoff != 0 || (s.nextToSend l).isSome
    match x.txq with
    | [] => (s, bs, ms)
    | o :: r =>
      let part := ((messageStream o.msg).drop x.txoff).take (240 - bs.length)
      if !go || bs.length == 240 then (s, bs, ms)
      else if x.txoff + part.length < streamLen o.msg then (s1.setLink l { x with txoff := x.txoff + part.length }, bs ++ part, ms)
      else State.fillFlit l f (s1.setLink l { x with txq := r, txoff := 0 }) (bs ++ part) (ms ++ [o])

/-- The virtual channel whose credits the next flit returns. -/
def Link.returnVc (x : Link) : Nat := ((List.range 4).find? fun v => (x.returns[v]?).getD 0 != 0).getD 0

/-- A flit that the link sends: its header with acknowledgement, returned credits and CRC (R373), and 240 bytes. -/
def Link.flit (x : Link) (ftype fseq : Nat) (bs : List Byte) : Flit :=
  let v := x.returnVc
  let f : Flit :=
    { ftype := BitVec.ofNat 8 ftype, fseq := BitVec.ofNat 16 fseq, ack := BitVec.ofNat 16 x.rseq, cvc := BitVec.ofNat 2 v,
      cred := BitVec.ofNat 14 (min 16383 ((x.returns[v]?).getD 0)), rsv := 0, crc := 0, beats := (bs ++ List.replicate 240 0#8).take 240 }
  { f with crc := crc32c (flitCovered f) }

/-- The credits that a flit has returned are no longer owed. -/
def Link.returned (x : Link) : Link :=
  let v := x.returnVc
  { x with returns := x.returns.set v ((x.returns[v]?).getD 0 - min 16383 ((x.returns[v]?).getD 0)) }

/-- Put a flit on the fibres: its 16 beats follow those before it (R372). -/
def Link.transmit (x : Link) (l : Nat) (f : Flit) : Link :=
  { x with out := x.out ++ [(f, (List.range 16).map fun b => beatAt (x.waves l) (x.beat + b))], beat := x.beat + 16 }

/-- The groups that the peer wakes and for which this die is ready: PD 2 has returned where they make the received width exceed 8
(R380). -/
def State.readyFor (s : State) (l : Nat) : BitVec 4 :=
  let d := s.die (linkDie l)
  if (s.link l).rxComing ≤ 8 || (d.pd == 2 && d.pdStop.isNone) then (s.link l).peerWaking else 0

/-- The groups of a link in some state, as a mask. -/
def Link.groupMask (x : Link) (p : GroupState → Bool) : Nat := ((List.range 4).map fun g => if p (x.grp g) then 2 ^ g else 0).sum

/-- Send the control flit that the link owes (R373, R380). One that asks for a replay counts it, until a flit in sequence arrives. -/
def State.sendControl (s : State) (l : Nat) : State :=
  let x := s.link l
  let bs := Config.controlBeats (BitVec.ofNat 4 (x.groupMask fun g => g != .on)) (BitVec.ofNat 4 (x.groupMask GroupState.coming)) (s.readyFor l)
    x.asking
  s.setLink l { (x.transmit l (x.flit 2 x.fseq bs)).returned with
    announce := false, asking := false, fails := if x.asking then x.fails + 1 else x.fails }

/-- A link sends its next flit (R372, R373): one of a replay, a control flit that it owes, a data flit with up to 240 bytes of the
message stream, kept for replay, or an idle one. Nothing moves while the link is down, retrains, or its die's PD changes; no data flit
begins while 64 are held. -/
def State.sendFlit (s : State) (l : Nat) : State :=
  let x := s.link l
  if !s.linkUp l || x.retrain.isSome || (s.die (linkDie l)).pdStop.isSome then s
  else
    match x.again with
    | f :: r => s.setLink l ({ x with again := r }.transmit l f)
    | [] =>
      if x.announce then s.sendControl l
      else
        let q := if 64 ≤ x.replay.length then (s, [], []) else State.fillFlit l 16 s [] []
        let y := q.1.link l
        if q.2.1 == [] then s.setLink l (x.transmit l (x.flit 0 x.fseq [])).returned
        else
          let seq := (x.fseq + 1) % 65536
          let f := x.flit 1 seq q.2.1
          q.1.setLink l { (y.transmit l f).returned with
            fseq := seq, replay := y.replay ++ [f], unacked := y.unacked ++ q.2.2.map fun o => (seq, o) }

/-! ## Link instructions (R385, R386) -/

/-- The form of a link instruction. -/
def linkForm (t m : Nat) (ty : Ty) (ok : Bool) (b c : Arg) : Option Form := ctlForm t ty (ok && m ≤ 1) (.need [.n32]) b c

/-- `lk.park` and `lk.wake`. A link without a peer keeps its state. -/
def coreLkGroups (wake : Bool) (i : OpIn) (s : State) : OpRes :=
  let l := i.uni i.a
  let m := i.uni i.b
  if 31 < l || m % 2 == 1 || 16 ≤ m then trapBounds
  else if !s.hasPeer l then doneVoid s
  else doneVoid ((groupList m).foldl (fun s g => if wake then s.askWake l g else s.parkGroup l g) s)

def opLkPark : Op :=
  { opc := 0x147, res := resFixed [.void] .void, core := coreLkGroups false
    form := fun t m => linkForm t m .void (m == 0) (.need [.n32]) .absent }
def opLkWake : Op :=
  { opc := 0x148, res := resFixed [.void] .void, core := coreLkGroups true
    form := fun t m => linkForm t m .void (m == 0) (.need [.n32]) .absent }

/-- `lk.heat`, of the system class (04 R90): the ring's lock is re-acquired within 1,960 ticks, also where it had been lost. -/
def coreLkHeat (i : OpIn) (s : State) : OpRes :=
  if !i.x.launch.sys then trapPriv
  else
    let f := i.uni i.a
    let r := i.uni i.b
    let v := i.uni i.c
    if 127 < f || 15 < r || 4095 < v then trapBounds
    else doneVoid (s.setRing f r { s.ring f r with setpoint := BitVec.ofNat 12 v, locked := true, changed := some s.tick, relock := s.tick + 1960 })

def opLkHeat : Op :=
  { opc := 0x149, res := resFixed [.void] .void, core := coreLkHeat
    form := fun t m => linkForm t m .void (m == 0) (.need [.n32]) (.need [.n32]) }

/-- The word of `lk.stat.st`. -/
def State.linkWord (s : State) (l : Nat) : Nat :=
  let x := s.link l
  let bit (b : Bool) (n : Nat) : Nat := if b then 2 ^ n else 0
  min 255 x.depth + 2 ^ 8 * x.thr + 2 ^ 16 * x.groupMask (fun g => g == .off) +
    2 ^ 20 * x.groupMask GroupState.coming +
    2 ^ 24 * x.peerParked.toNat + bit (s.linkUp l) 28 + bit x.retrain.isSome 29 + bit ((s.die (linkDie l)).pd == 4) 30

/-- `lk.stat` (R386). The photodiode's reading is free; the drive stands within 256 codes of the setpoint (R381). -/
def coreLkStat (i : OpIn) (s : State) : OpRes :=
  if i.md == 0 then
    let l := i.uni i.a
    if 31 < l then trapBounds else doneAll s .n32 (s.linkWord l)
  else
    let f := i.uni i.a
    let r := i.uni i.b
    if 127 < f || 15 < r then trapBounds
    else
      let x := s.ring f r
      let lo := x.setpoint.toNat - 256
      let hi := min 4095 (x.setpoint.toNat + 256)
      let drive := lo + (Config.drive s.fresh).toNat % (hi - lo + 1)
      let s1 := (s.setRing f r { x with drive := BitVec.ofNat 12 drive }).draw
      doneAll s1 .n32 ((Config.photodiode s.fresh).toNat + (if x.locked && (x.relock ≤ s.tick || Config.relocked s.fresh) then 2 ^ 12 else 0) + 2 ^ 13 * drive)

def opLkStat : Op :=
  { opc := 0x14A, res := resFixed [.n32] .n32, core := coreLkStat
    form := fun t m => linkForm t m .n32 true (if m == 1 then .need [.n32] else .absent) .absent }

/-- `lk.thr`. -/
def coreLkThr (i : OpIn) (s : State) : OpRes :=
  let l := i.uni i.a
  let v := i.uni i.b
  if 31 < l || 255 < v then trapBounds else doneVoid (s.modLink l fun x => { x with thr := v })

def opLkThr : Op :=
  { opc := 0x14B, res := resFixed [.void] .void, core := coreLkThr
    form := fun t m => linkForm t m .void (m == 0) (.need [.n32]) .absent }

def execLkPark (f : Fields) (s : State) : Host.Outcome State Fault Refusal := runOp opLkPark f s
def execLkWake (f : Fields) (s : State) : Host.Outcome State Fault Refusal := runOp opLkWake f s
def execLkHeat (f : Fields) (s : State) : Host.Outcome State Fault Refusal := runOp opLkHeat f s
def execLkStatSt (f : Fields) (s : State) : Host.Outcome State Fault Refusal := runOp opLkStat f s
def execLkStatPd (f : Fields) (s : State) : Host.Outcome State Fault Refusal := runOp opLkStat f s
def execLkThr (f : Fields) (s : State) : Host.Outcome State Fault Refusal := runOp opLkThr f s

end Sys2Proof.Machine
end

