-- ==== Sys2Proof/Machine/Launch.lean ====
section
/-!
DEFINITION. Launches (16 R326-R337): the launch record and its checks, acceptance and the cut of the grid, status words,
and the launch and context instructions.
-/

namespace Sys2Proof.Machine

open Sys2Proof

/-! ## The launch record (R326, R327) -/

/-- The fields of a launch record. -/
structure LaunchRec where
  code : Nat
  param : Nat
  gtab : Nat
  staddr : Nat
  deps : List Nat
  nbm1 : Nat
  entry : Nat
  hfunc : Nat
  plen : Nat
  nlm1 : Nat
  ngrp : Nat
  vb4k : Nat
  piv : Nat
  cls : Nat
  hv : Bool
  sys : Bool
  ver : Nat
  magic : Nat
  rsv : Nat
  /-- The eight range entries as 128-bit numbers. -/
  ranges : List Nat
deriving DecidableEq, Repr

/-- A record from its 2,048 bits. -/
def launchRecOf (x : Nat) : LaunchRec :=
  { code := bitsOf x 1023 960, param := bitsOf x 959 896, gtab := bitsOf x 895 832, staddr := bitsOf x 831 768,
    deps := [bitsOf x 767 704, bitsOf x 703 640, bitsOf x 639 576, bitsOf x 575 512], nbm1 := bitsOf x 511 480,
    entry := bitsOf x 479 464, hfunc := bitsOf x 463 448, plen := bitsOf x 447 435, nlm1 := bitsOf x 434 424,
    ngrp := bitsOf x 423 415, vb4k := bitsOf x 414 402, piv := bitsOf x 401 386, cls := bitsOf x 385 384,
    hv := bitsOf x 383 383 == 1, sys := bitsOf x 382 382 == 1, ver := bitsOf x 375 368, magic := bitsOf x 367 352,
    rsv := bitsOf x 381 376 + bitsOf x 351 0, ranges := (List.range 8).map fun e => bitsOf x (1024 + 128 * e + 127) (1024 + 128 * e) }

/-- A range entry, when it is valid. -/
def rangeOf (r : Nat) : Option RangeEntry :=
  if r % 2 == 1 then
    some { lo := bitsOf r 127 96, hi := bitsOf r 95 64, dmask := BitVec.ofNat 8 (bitsOf r 63 56),
           mmask := BitVec.ofNat 8 (bitsOf r 55 48) }
  else none

/-- Check 1 of R329. A GTAB other than 0 beside NGRP 0, which R326 refuses, is refused here, and so are bits [61:56] of a DEP field of
any MODE (DEDUCED, log entry 32). -/
def LaunchRec.formatOk (r : LaunchRec) : Bool :=
  r.magic == 0x4C52 && r.ver == 1 && r.rsv == 0 && r.code < 2 ^ 56 && r.param < 2 ^ 56 && r.gtab < 2 ^ 56 &&
    (r.ngrp != 0 || r.gtab == 0) && (r.deps.all fun d => bitsOf d 61 56 == 0) &&
    r.code % 64 == 0 && r.param % 16 == 0 && r.ranges.all fun e => if e % 2 == 1 then bitsOf e 47 1 == 0 else e == 0

/-- Check 2 of R329. -/
def LaunchRec.limitOk (r : LaunchRec) : Bool := r.plen ≤ 4096 && r.vb4k ≤ 4096 && r.nlm1 ≤ 1023

/-- Sort ranges by their first block. -/
def insertRange (e : RangeEntry) : List RangeEntry → List RangeEntry
  | [] => [e]
  | f :: r => if e.lo ≤ f.lo then e :: f :: r else f :: insertRange e r

/-- Do sorted ranges cover the blocks from `next` to the last, each once (R327)? -/
def covers (next last : Nat) : List RangeEntry → Bool
  | [] => next == last + 1
  | e :: r => e.lo == next && e.lo ≤ e.hi && e.hi ≤ last && e.dmask != 0 && covers (e.hi + 1) last r

/-- The valid range entries of a record. -/
def LaunchRec.entries (r : LaunchRec) : List RangeEntry := r.ranges.filterMap rangeOf

/-- Check 3 of R329. -/
def LaunchRec.rangeOk (r : LaunchRec) : Bool :=
  covers 0 r.nbm1 (r.entries.foldl (fun l e => insertRange e l) [])

/-! ## Live dies and the cut (R330; 17 R352) -/

/-- The live tiles of a die that have a share for a context (17 R352), ascending. -/
def State.liveTiles (s : State) (ctx die : Nat) : List TileRef :=
  ((List.range (tilesOf die)).map fun j => ({ die := die, tile := j } : TileRef)).filter fun t =>
    !s.tileDead t && (s.tile t).hasShare ctx

/-- The dies of a mask that are live for a context, ascending. -/
def State.liveDies (s : State) (ctx : Nat) (m : BitVec 8) : List Nat :=
  (List.range 8).filter fun d => m.getLsbD d && s.liveTiles ctx d != []

/-- The number of blocks in ranges. -/
def rangesLen (rs : List (Nat × Nat)) : Nat := (rs.map fun e => e.2 + 1 - e.1).sum

/-- The blocks number a up to b, b excluded, of ranges in ascending order, as ranges. -/
def rangesCut : List (Nat × Nat) → Nat → Nat → List (Nat × Nat)
  | [], _, _ => []
  | (lo, hi) :: r, a, b =>
    let n := hi + 1 - lo
    let x := lo + min a n
    let y := lo + min b n
    (if x < y then [(x, y - 1)] else []) ++ rangesCut r (a - n) (b - n)

/-- Divide blocks among dies by their live tile counts (R330). -/
def State.cut (s : State) (ctx e : Nat) (rs : List (Nat × Nat)) (dies : List Nat) : List SubGrid :=
  let n := rangesLen rs
  let cs := dies.map fun d => (s.liveTiles ctx d).length
  let c := cs.sum
  (List.range dies.length).filterMap fun i =>
    match dies[i]? with
    | none => none
    | some d =>
      let c0 := (cs.take i).sum
      let c1 := (cs.take (i + 1)).sum
      let part := rangesCut rs (n * c0 / c) (n * c1 / c)
      if part == [] then none else some { entry := e, die := d, ranges := part }

/-- The sub-grids of a launch at acceptance. -/
def State.grid (s : State) (ctx : Nat) (es : List RangeEntry) : List SubGrid :=
  ((List.range es.length).zip es).flatMap fun e => s.cut ctx e.1 [(e.2.lo, e.2.hi)] (s.liveDies ctx e.2.dmask)

/-! ## Status words (R328) -/

/-- The die on which the accesses of the launch front-end and of the host path bind their pages (16 R343). -/
def frontDie : Nat := 0

/-- The 16 bytes of a status word. -/
def statusBytes (lseq code state : Nat) : List Byte := leBytes 1 state ++ leBytes 1 code ++ leBytes 10 0 ++ leBytes 4 lseq

/-- Write a launch's status word. A write that faults is owed, with one event for it (R328). -/
def State.putStatus (s : State) (lid state : Nat) : State :=
  match s.launch? lid with
  | none => s
  | some l =>
    match s.putVa { cls := 0, wave := none } l.ctx frontDie l.staddr (statusBytes l.lseq l.code8 state) with
    | (s1, .ok _) => s1.modLaunch lid fun l => { l with state := state, owedState := none }
    | (s1, .error va) =>
      let s2 := s1.modLaunch lid fun l => { l with owedState := some state }
      if l.owedState.isSome then s2 else s2.event 5 (l.ctx + 48) va

/-! ## Group tables (09 R203-R205) -/

/-- The four ranges of a group entry. -/
def groupRanges (x : Nat) : List (Nat × Nat) :=
  (List.range 4).map fun r => (bitsOf x (319 - 64 * r) (288 - 64 * r), bitsOf x (287 - 64 * r) (256 - 64 * r))

/-- Check 2 of R205 for one entry. -/
def groupReservedOk (x : Nat) : Bool :=
  let kind := bitsOf x 1 0
  let used := if kind == 1 then bitsOf x 3 2 + 1 else 0
  kind != 3 && bitsOf x 63 4 == 0 && (kind == 1 || bitsOf x 3 2 == 0) && (kind == 2 || bitsOf x 383 320 == 0) &&
    bitsOf x 383 376 == 0 && ((groupRanges x).drop used).all fun e => e == (0, 0)

/-- The ranges that an entry of KIND 1 uses. -/
def usedRanges (x : Nat) : List (Nat × Nat) := if bitsOf x 1 0 == 1 then (groupRanges x).take (bitsOf x 3 2 + 1) else []

/-- The members of a bitmap (R204). -/
def bitmapMembers (bs : List Byte) (n : Nat) : List Nat :=
  (List.range n).filter fun b => ((bs[b / 8]?).getD 0#8).getLsbD (b % 8)

/-- Read the bitmap of an entry of KIND 2; none when a page of it faults. -/
def State.readMembers (s : State) (ctx n : Nat) (x : Nat) : State × Option (List Nat) :=
  match bitsOf x 1 0 with
  | 1 => (s, some ((List.range n).filter fun b => (usedRanges x).any fun e => decide (e.1 ≤ b ∧ b ≤ e.2)))
  | 2 =>
    if bitsOf x 383 320 % 8 != 0 then (s, none)
    else
      match s.readVa ctx frontDie (bitsOf x 383 320) ((n + 7) / 8) with
      | (s1, .ok bs) => (s1, some (bitmapMembers bs n))
      | (s1, .error _) => (s1, none)
  | _ => (s, some [])

def State.readAllMembers (s : State) (ctx n : Nat) : List Nat → State × Option (List Group)
  | [] => (s, some [])
  | x :: r =>
    match s.readMembers ctx n x with
    | (s1, none) => (s1, none)
    | (s1, some m) =>
      match State.readAllMembers s1 ctx n r with
      | (s2, some gs) => (s2, some ({ kind := bitsOf x 1 0, members := m } :: gs))
      | (s2, none) => (s2, none)

/-- The groups of a table, or the code with which R205 refuses the launch. -/
def State.readGroups (s : State) (ctx : Nat) (r : LaunchRec) : State × Except Nat (List Group) :=
  if r.ngrp == 0 then (if r.gtab % 16 != 0 then (s, .error 0x10) else (s, .ok []))
  else if 256 < r.ngrp || r.gtab % 16 != 0 then (s, .error 0x10)
  else
    match s.readVa ctx frontDie r.gtab (48 * r.ngrp) with
    | (s1, .error _) => (s1, .error 0x13)
    | (s1, .ok bs) =>
      let xs := (List.range r.ngrp).map fun g => ofLe ((bs.drop (48 * g)).take 48)
      if !xs.all groupReservedOk then (s1, .error 0x11)
      else if xs.any fun x => (usedRanges x).any fun e => !(e.1 ≤ e.2 && e.2 ≤ r.nbm1) then (s1, .error 0x12)
      else
        match s1.readAllMembers ctx (r.nbm1 + 1) xs with
        | (s2, none) => (s2, .error 0x13)
        | (s2, some gs) =>
          if gs.any fun g => g.kind != 0 && g.members == [] then (s2, .error 0x14)
          else if gs.any fun g => g.members.any fun b => 4 < (gs.filter fun h => h.members.contains b).length then
            (s2, .error 0x15)
          else (s2, .ok gs)

/-! ## Acceptance (R328, R329) -/

/-- Check 6 of R329 for one dependency. -/
def depOk (staddr d : Nat) : Bool :=
  let mode := bitsOf d 63 62
  let a := bitsOf d 55 0
  mode == 0 || (mode != 3 && bitsOf d 61 56 == 0 && a % 16 == 0 && isGlobal a && a != staddr)

/-- The dependencies that a record names. -/
def depsOf (r : LaunchRec) : List Dep :=
  r.deps.filterMap fun d =>
    if bitsOf d 63 62 == 0 then none
    else some { fin := bitsOf d 63 62 == 2, va := BitVec.ofNat 64 (bitsOf d 55 0), done := false, raised := false }

/-- Read the parameter area (04 R80). -/
def State.readParams (s : State) (ctx die : Nat) (r : LaunchRec) : State × Option (List Byte) :=
  let n := min r.plen 4096
  if n == 0 then (s, some [])
  else if 2 ^ 56 ≤ r.param then (s, none)
  else
    match s.readVa ctx die r.param n with
    | (s1, .ok bs) => (s1, some bs)
    | (s1, .error _) => (s1, none)

/-- Can a whole access be made without a page fault? -/
def State.mappedRead (s : State) (ctx va n : Nat) : State × Bool :=
  if n == 0 then (s, true)
  else
    match s.translateN ctx frontDie va n true false with
    | (s1, .ok _) => (s1, true)
    | (s1, .error _) => (s1, false)

/-- Check 7 of R329, with the header's IDENT when the header is well formed. -/
def State.checkCode (s : State) (ctx : Nat) (r : LaunchRec) : State × Option Nat :=
  match s.readVa ctx frontDie r.code 64 with
  | (s1, .error _) => (s1, none)
  | (s1, .ok h) =>
    match s1.mappedRead ctx r.gtab (48 * r.ngrp) with
    | (s2, false) => (s2, none)
    | (s2, true) =>
      match s2.mappedRead ctx r.param r.plen with
      | (s3, false) => (s3, none)
      | (s3, true) =>
        match mpfHeader? h with
        | none => (s3, some (bitsOf (ofLe h) 511 448))
        | some (ident, nf, _) => if r.entry < nf && (!r.hv || r.hfunc < nf) then (s3, some ident) else (s3, none)

/-- The code of the first of checks 1 to 6 that fails, 0 when none does. -/
def State.earlyCode (s : State) (ctx : Nat) (r : LaunchRec) (sys : Bool) : Nat :=
  if !r.formatOk then 1
  else if !r.limitOk then 2
  else if !r.rangeOk then 3
  else if r.entries.any fun e => s.liveDies ctx e.dmask == [] then 4
  else if r.sys && !sys then 5
  else if r.deps.any fun d => !depOk r.staddr d then 6
  else 0

/-- A launch of a record, before its acceptance. -/
def launchOf (r : LaunchRec) (ctx ident lseq : Nat) (params : List Byte) : Launch :=
  { lseq := lseq, ctx := ctx, code := r.code, ident := ident, staddr := r.staddr, params := params, nblock := r.nbm1 + 1,
    lanes := r.nlm1 + 1, entry := r.entry, handler := if r.hv then some r.hfunc else none, vb4k := r.vb4k, piv := r.piv,
    cls := r.cls, sys := r.sys, ranges := r.entries, groups := [], deps := depsOf r, state := 0, owedState := none,
    code8 := 0, subs := [], blocks := [], gens := [], bars := [], greds := [], cgrps := [], admitFault := [], admitBad := [] }

/-- Note a launch under the next launch identity. -/
def State.addLaunch (s : State) (l : Launch) : State := { s.setLaunch s.nextLid l with nextLid := s.nextLid + 1 }

/-- Refuse a launch with a code (R329). -/
def State.refuse (s : State) (lid code : Nat) : State :=
  (s.modLaunch lid fun l => { l with code8 := code, subs := [] }).putStatus lid 4

/-- The next sequence number (R328). -/
def nextSeq (n : Nat) : Nat := if n == 2 ^ 32 - 1 then 1 else n + 1

/-- Accept a record (R329): the state, and the LSEQ that `launch` delivers. `given`: the snapshot that `launch` took. The front-end takes
that of another record first, and whole, in the step that accepts it (04 R80; DESIGN CHOICE, log entry 64). -/
def State.accept (s : State) (rec_ : List Byte) (ctx : Nat) (sys : Bool) (given : Option (List Byte)) : State × Nat :=
  let r := launchRecOf (ofLe rec_)
  let bad (s : State) : State × Nat :=
    ({ s with refused := s.refused.set ctx (((s.refused[ctx]?).getD 0 + 1) % 2 ^ 64) }, 0)
  let sp : State × Option (List Byte) :=
    match given with
    | some p => (s, some p)
    | none => s.readParams ctx frontDie r
  let s1 := sp.1
  if 2 ^ 56 ≤ r.staddr || r.staddr % 16 != 0 || !isGlobal r.staddr then bad s1
  else
    match s1.translateN ctx frontDie r.staddr 16 false true with
    | (s2, .error _) => bad s2
    | (s2, .ok _) =>
      let lid := s2.nextLid
      let early := s2.earlyCode ctx r sys
      if early != 0 then ((s2.addLaunch (launchOf r ctx 0 0 [])).refuse lid early, 0)
      else
        match s2.checkCode ctx r with
        | (s3, none) => ((s3.addLaunch (launchOf r ctx 0 0 [])).refuse lid 7, 0)
        | (s3, some ident) =>
          let lseq := s3.nextLseq
          let s4 := { s3.addLaunch (launchOf r ctx ident lseq (sp.2.getD [])) with nextLseq := nextSeq lseq }
          let s5 := s4.putStatus lid 1
          match s5.readGroups ctx r with
          | (s6, .error c) => (s6.refuse lid c, lseq)
          | (s6, .ok gs) => (s6.modLaunch lid fun l => { l with groups := gs, subs := s6.grid ctx l.ranges }, lseq)

/-! ## Dependencies, triggers and ends (R331, R332) -/

/-- Has a launch been refused, or ended? -/
def Launch.isOver (l : Launch) : Bool := 3 ≤ l.state

/-- May a launch's blocks be admitted (R331, R347)? -/
def Launch.eligible (l : Launch) : Bool := !l.isOver && l.code8 == 0 && l.deps.all Dep.done

/-- Read a dependency's status word (R331). -/
def State.readDep (s : State) (lid ctx i : Nat) (d : Dep) : State :=
  if d.done then s
  else
    let put (s : State) (d : Dep) : State := s.modLaunch lid fun l => { l with deps := l.deps.set i d }
    match s.readVa ctx frontDie d.va.toNat 16 with
    | (s1, .ok bs) => if (if d.fin then 3 else 2) ≤ ofLe (bs.take 1) then put s1 { d with done := true } else s1
    | (s1, .error va) => if d.raised then s1 else (put s1 { d with raised := true }).event 5 (ctx + 64) va

/-- DEPENDENCY_REREAD (R331): the front-end reads again the status words that a launch waits for. -/
def execDependencyReread (lid : Nat) (s : State) : Host.Outcome State Fault Refusal :=
  match s.launch? lid with
  | none => .next s
  | some l =>
    if l.isOver then .next s
    else .next (((List.range l.deps.length).zip l.deps).foldl (fun s e => s.readDep lid l.ctx e.1 e.2) s)

/-- Does a command that a block's waves issued still owe a completion word (R332)? -/
def State.owesWords (s : State) (b : BlockRef) : Bool :=
  (s.tiles.any fun t =>
    (t.2.copyQ.any fun c => c.words.any fun w => w.by_.wave.block == b) ||
    (t.2.kvQ.any fun c => c.block == b) || t.2.rowOwed.any fun w => w.by_.wave.block == b) ||
  (s.fabOut.any fun o => o.mop == 8 && o.by_.wave.block == b && (s.tile o.tile).copyQ.any fun c => o.cmd == some c.id) ||
  (match s.launch? b.lid with
   | some l => l.cgrps.any fun r => r.issues.any fun i => i.blk == b.blk && !i.ended && i.word.isSome
   | none => false)

/-- Has a block ended, with its completion words (R332)? A killed block owes none. -/
def State.blockOver (s : State) (lid : Nat) (l : Launch) (blk : Nat) : Bool :=
  match Tab.get? l.blocks blk with
  | some b => b.ended && (b.killed || !s.owesWords { lid := lid, blk := blk })
  | none => false

/-- Has a block triggered, or ended (R332)? -/
def State.blockTriggered (s : State) (lid : Nat) (l : Launch) (blk : Nat) : Bool :=
  match Tab.get? l.blocks blk with
  | some b => b.triggered || s.blockOver lid l blk
  | none => false

/-- Does every block of a launch stand in its table, with a property? -/
def Launch.allBlocks (l : Launch) (p : Nat → Bool) : Bool := l.blocks.length == l.nblock && l.blocks.all fun e => p e.1

/-- LAUNCH_TRIGGERED (R332): STATE 2 is written after every block's trigger; with every block's end, only STATE 3 is. A
write of STATE 2 that has faulted is tried again (R328). -/
def execLaunchTriggered (lid : Nat) (s : State) : Host.Outcome State Fault Refusal :=
  match s.launch? lid with
  | none => .next s
  | some l =>
    if l.state == 1 && l.code8 == 0 && l.allBlocks (s.blockTriggered lid l) && !l.allBlocks (s.blockOver lid l) then
      .next (s.putStatus lid 2)
    else .next s

/-- LAUNCH_ENDED (R332): STATE 3 is written after every block's end. A write of STATE 3 or 4 that has faulted is tried
again (R328). -/
def execLaunchEnded (lid : Nat) (s : State) : Host.Outcome State Fault Refusal :=
  match s.launch? lid with
  | none => .next s
  | some l =>
    if l.owedState == some 4 then .next (s.putStatus lid 4)
    else if (l.state == 1 || l.state == 2) && l.code8 == 0 && l.allBlocks (s.blockOver lid l) then .next (s.putStatus lid 3)
    else .next s

/-! ## Launch and context instructions (R333-R337) -/

/-- The parameter snapshot that `launch` takes at its place (R334): lane-path loads of up to 4,096 bytes of the area. An area that the
front-end will refuse wherever it lies (R329: PARAM no multiple of 16, or not in the global window) is not read. -/
def OpIn.snapshot (i : OpIn) (s : State) (r : LaunchRec) : Except OpRes (State × List Byte) :=
  let n := min r.plen 4096
  if n == 0 || r.param % 16 != 0 || !isGlobal (r.param + n - 1) then .ok (s, [])
  else
    match s.readAcc i.x [.glob] 16 [(r.param, n)] with
    | .ok (s1, bs) => .ok (s1, bs.flatten)
    | .error e => .error e

/-- The record that `launch` reads (R334): sixteen loads, all of the global window, from a multiple of 64. -/
def OpIn.readRecord (i : OpIn) (s : State) : Except OpRes (State × List Byte) :=
  let a := i.uni i.a
  let as := (List.range 16).map fun k => (a + 16 * k, 16)
  if as.any fun e => 2 ^ 56 ≤ e.1 || winOf e.1 != .glob then .error trapBounds
  else if a % 64 != 0 then .error trapAlign
  else
    match s.readAcc i.x [.glob] 16 as with
    | .ok (s1, bs) => .ok (s1, bs.flatten)
    | .error e => .error e

/-- `launch` (R334): the record and the parameter snapshot are read at the place; the wave waits for the front-end. -/
def coreLaunch (i : OpIn) (s : State) : OpRes :=
  match i.readRecord s with
  | .error r => r
  | .ok (s1, bs) =>
    let ctx := i.x.launch.ctx
    match s1.ctx? ctx with
    | none => .wait s
    | some c =>
      if 256 ≤ c.dlq.length then .wait s
      else
        match i.snapshot s1 (launchRecOf (ofLe bs)) with
        | .error e => e
        | .ok (s2, ps) =>
          let q : LaunchReq := { num := s2.nextId, record := bs, params := ps, sys := i.x.launch.sys, wave := i.x.w }
          let s3 := s2.modCtx ctx fun c => { c with dlq := c.dlq ++ [q] }
          .wait { i.modWave s3 fun w => { w with mode := .launch s3.nextId } with nextId := s3.nextId + 1 }

def opLaunch : Op :=
  { opc := 0x13C, res := resFixed [.n32] .n32, core := coreLaunch
    form := fun t m => ctlForm t .n32 (m == 0) (.need [.addr]) .absent .absent }

/-- `trig` (R335). -/
def coreTrig (i : OpIn) (s : State) : OpRes := doneVoid (s.modBlock i.x.w.block fun b => { b with triggered := true })

def opTrig : Op :=
  { opc := 0x13D, res := resFixed [.void] .void, core := coreTrig
    form := fun t m => ctlForm t .void (m == 0) .absent .absent .absent }

/-- What `lwait` delivers of a status word (R336), when its condition is met. -/
def lwaitMet (fin : Bool) (bs : List Byte) : Option Nat :=
  let st := ofLe (bs.take 1)
  if (if fin then 3 else 2) ≤ st then some (st + 256 * ofLe ((bs.drop 1).take 1)) else none

/-- What it delivers when its timeout ends it. -/
def lwaitOut (bs : List Byte) : Nat := ofLe (bs.take 1) + 256 * ofLe ((bs.drop 1).take 1) + 2 ^ 16

/-- `lwait` (R336). -/
def coreLwait (i : OpIn) (s : State) : OpRes :=
  let va := i.uni i.a
  let timeout := if i.b.ty == .void then 0 else i.uni i.b
  match s.readAcc i.x [.glob] 16 [(va, 16)] with
  | .error r => r
  | .ok (s1, bs) =>
    match lwaitMet (i.md == 1) bs.flatten with
    | some v => .done s1 (splat .n32 v)
    | none =>
      .wait (i.modWave s1 fun w => { w with mode := .lwait (BitVec.ofNat 64 va) (i.md == 1) timeout (s1.ctlNow i.tile) })

def opLwait : Op :=
  { opc := 0x13E, res := resFixed [.n32] .n32, core := coreLwait
    form := fun t m => ctlForm t .n32 (m ≤ 1) (.need [.addr]) (.may [.n32]) .absent }

/-- LWAIT_WAKE (R336): the sleeping wave reads its word again. -/
def execLwaitWake (w : WaveRef) (s : State) : Host.Outcome State Fault Refusal :=
  match s.site? w with
  | none => .next s
  | some x =>
    match x.wave.mode with
    | .lwait va fin timeout start =>
      match s.readAcc x [.glob] 16 [(va.toNat, 16)] with
      | .error (.page s1 a _) => .next (s1.takePageFault x x.wave.mask a false)
      | .error (.poison s1) => .next (s1.raise (.tileFault x.tile 4))
      | .error _ => .next s
      | .ok (s1, bs) =>
        match lwaitMet fin bs.flatten with
        | some v => .next (s1.release w 0x13E (x.inLanes (splat .n32 v)))
        | none =>
          if timeout != 0 && timeout ≤ s1.ctlNow x.tile - start then
            .next (s1.release w 0x13E (x.inLanes (splat .n32 (lwaitOut bs.flatten))))
          else .next s1
    | _ => .next s

/-- `ctxid` (R337). -/
def opCtxid : Op :=
  { opc := 0x13F, res := resFixed [.n32] .n32
    form := fun t m => ctlForm t .n32 (m ≤ 3) .absent .absent .absent
    core := fun i s =>
      doneAll s .n32
        (match i.md with
         | 0 => i.x.launch.lseq
         | 1 => i.x.block.cls
         | 2 => if i.x.launch.sys then 1 else 0
         | _ => match s.ctx? i.x.launch.ctx with | some c => (if c.dbg then 1 else 0) | none => 0) }

/-- `prio` (R337). -/
def corePrio (i : OpIn) (s : State) : OpRes :=
  let c := i.uni i.a
  if 3 < c || (c < i.x.block.cls && !i.x.launch.sys) then trapBounds
  else doneVoid (s.modBlock i.x.w.block fun b => { b with cls := c })

def opPrio : Op :=
  { opc := 0x140, res := resFixed [.void] .void, core := corePrio
    form := fun t m => ctlForm t .void (m == 0) (.need [.n32]) .absent .absent }

def execLaunch (f : Fields) (s : State) : Host.Outcome State Fault Refusal := runOp opLaunch f s
def execTrig (f : Fields) (s : State) : Host.Outcome State Fault Refusal := runOp opTrig f s
def execLwait (f : Fields) (s : State) : Host.Outcome State Fault Refusal := runOp opLwait f s
def execCtxid (f : Fields) (s : State) : Host.Outcome State Fault Refusal := runOp opCtxid f s
def execPrio (f : Fields) (s : State) : Host.Outcome State Fault Refusal := runOp opPrio f s

end Sys2Proof.Machine
end

