-- ==== Sys2Proof/Machine/Power.lean ====
section
/-!
DEFINITION. Power, current and thermal control (20 R394-R406): the cap in effect and the floors, the control interval,
the thermal trip, and the system instructions `sys.cap` and `sys.floor`.
-/

namespace Sys2Proof.Machine

open Sys2Proof

/-! ## The cap and the floors (R400, R401) -/

/-- The transmit wavelengths whose laser is on. -/
def State.lasersOn (s : State) : Nat :=
  ((List.range 32).map fun l => 4 * ((s.link l).groups.filter fun g => g != .off).length).sum

/-- Pidle in W, as recomputed at an interval start (R400). -/
def State.idleNow (s : State) : Nat := ceilDiv (s.pbase + 96 * s.lasersOn) 1000

/-- The cap in effect for a requested cap. -/
def capFor (q idle : Nat) : Nat := if q < idle then idle else min q 2400

def State.capNow (s : State) : Nat := capFor s.capQ s.pidle

/-- The floor of a context number, and the sum over the resident contexts. -/
def State.floor (s : State) (c : Nat) : Nat := (s.floors[c]?).getD 0
def State.floorSum (s : State) : Nat := (s.ctxs.map fun e => s.floor e.1).sum

/-- Does a power, a number of mW over a denominator, lie above a context's effective floor (R401), exactly? -/
def State.aboveFloor (s : State) (c : Nat) (pc : Nat × Nat) : Bool :=
  if s.floorSum ≤ s.capNow then s.floor c * 1000 * pc.2 < pc.1 else s.floor c * s.capNow * 1000 * pc.2 < pc.1 * s.floorSum

/-- The floors are scaled anew after a change of the cap, a floor or the resident contexts: an event when they exceed the
cap (R401). -/
def State.rescale (s : State) : State := if s.capNow < s.floorSum then s.event 0x12 s.floorSum s.capNow else s

/-- The status word of `sys.cap` and `sys.floor` (R403). -/
def State.powerWord (s : State) : Nat :=
  let sts := if s.capNow < s.floorSum then 3 else if 2400 < s.capQ then 2 else if s.capQ < s.pidle then 1 else 0
  s.pidle * 2 ^ 20 + sts * 2 ^ 16 + s.capNow

/-- `sys.cap` (R400, R402). An interval that starts in its control cycle still uses the old cap (R407). -/
def coreSysCap (i : OpIn) (s : State) : OpRes :=
  if !i.x.launch.sys then trapPriv
  else
    let q := i.uni i.a
    let old := if s.tick < s.capPrev.1 then s.capPrev.2 else s.capQ
    let s1 := { s with capQ := q, capPrev := ((s.tile i.tile).clock.nextCtl s.tick, old) }
    let s2 := if q < s1.pidle then s1.event 0x10 q s1.pidle else if 2400 < q then s1.event 0x11 q 2400 else s1
    let s3 := s2.rescale
    doneAll s3 .n32 s3.powerWord

def opSysCap : Op :=
  { opc := 0x154, res := resFixed [.n32] .n32, core := coreSysCap
    form := fun t m => ctlForm t .n32 (m == 0) (.need [.n32]) .absent .absent }

/-- `sys.floor` (R401, R402). -/
def coreSysFloor (i : OpIn) (s : State) : OpRes :=
  if !i.x.launch.sys then trapPriv
  else
    let c := i.uni i.a
    let w := i.uni i.b
    if 3 < c || 2400 < w then trapBounds
    else
      let s1 := { s with floors := s.floors.set c w }.rescale
      doneAll s1 .n32 s1.powerWord

def opSysFloor : Op :=
  { opc := 0x155, res := resFixed [.n32] .n32, core := coreSysFloor
    form := fun t m => ctlForm t .n32 (m == 0) (.need [.n32]) (.need [.n32]) .absent }

def execSysCap (f : Fields) (s : State) : Host.Outcome State Fault Refusal := runOp opSysCap f s
def execSysFloor (f : Fields) (s : State) : Host.Outcome State Fault Refusal := runOp opSysFloor f s

/-! ## The control interval (R394-R399) -/

/-- The thermal band of a temperature in 0.25 degrees C (R397). -/
def band (t : Nat) : Nat :=
  if 432 ≤ t then 0 else if 416 ≤ t then 1 else if 400 ≤ t then 2 else if 380 ≤ t then 3 else if 360 ≤ t then 4 else 5

/-- low of a ceiling, in 0.25 degrees C. -/
def lowOf (c : Nat) : Nat := ([432, 416, 400, 380, 360][c]?).getD 0

/-- The fast-rail current limit of a die's clusters in mA (R396). -/
def railLimit (die : Nat) : Nat := if narrowDie die then 16000 else 24000

/-- The tiles of a cluster. -/
def clusterTiles (c : ClusterRef) : List TileRef :=
  (List.range 4).map fun j => { die := c.die, tile := 4 * c.cl + j }

/-- The clusters that are not retired: the manager decides for each of them (R396). -/
def State.liveClusters (s : State) : List ClusterRef :=
  ((List.range 8).flatMap fun d => (List.range (clustersOf d)).map fun c => ({ die := d, cl := c } : ClusterRef)).filter fun c =>
    !s.clusterDead c

/-- The measurements of a cluster over interval k - 1: the reading that the world gives, or what the sensors measure
(DESIGN CHOICE, log entry 75). -/
def readingOf (inp : PowerInputs) (k : Nat) (c : ClusterRef) : ClusterInputs :=
  (inp.clusters.find? fun m => m.cl == c).getD
    { cl := c, t := Config.clusterTemp k c.die c.cl, i := Config.clusterCurrent k c.die c.cl, pw := Config.clusterPower k c.die c.cl }

/-- A standing boost request of some tile's active context (R395). -/
def State.wantsBoost (s : State) (c : ClusterRef) : Bool :=
  (clusterTiles c).any fun t => !(s.tile t).retired && ((s.tile t).ctx (s.tile t).act).boost

/-- The highest effective gear that a tile of a cluster ran in the interval that ends (R395). -/
def State.topGear (s : State) (c : ClusterRef) : Nat :=
  (clusterTiles c).foldl (fun g t => if (s.tile t).retired then g else max g ((s.tile t).clock.topGear s.intervalStart s.tick)) 0

/-- The ticks of the interval that ends for which a context was ACT, summed over a cluster's tiles (R399). -/
def State.actTicks (s : State) (c : ClusterRef) (ctx : Nat) : Nat :=
  ((clusterTiles c).map fun t => if (s.tile t).retired then 0 else (s.tile t).actTicks s.intervalStart s.tick ctx).sum

/-- Add two fractions. -/
def addFrac (a b : Nat × Nat) : Nat × Nat := if a.2 == b.2 then (a.1 + b.1, a.2) else (a.1 * b.2 + b.1 * a.2, a.2 * b.2)

/-- Pc of R399 as a fraction of mW: each cluster's power is split over the contexts by the time each was ACT on its tiles, and the
clusters' parts are added. -/
def State.ctxPower (s : State) (inp : PowerInputs) (k ctx : Nat) : Nat × Nat :=
  s.liveClusters.foldl (fun pc c =>
    let total := ((List.range 4).map fun x => s.actTicks c x).sum
    if total == 0 then pc else addFrac pc ((readingOf inp k c).pw * s.actTicks c ctx, total)) (0, 1)

/-- Pc of the four context numbers. -/
def State.ctxPowers (s : State) (inp : PowerInputs) (k : Nat) : List (Nat × Nat) := (List.range 4).map fun c => s.ctxPower inp k c

/-- over(cl) of R399: `pcs` is the power attributed to each context. -/
def State.overFloor (s : State) (c : ClusterRef) (pcs : List (Nat × Nat)) : Bool :=
  let above (k : Nat) : Bool := s.aboveFloor k ((pcs[k]?).getD (0, 1))
  (List.range 4).any (fun k => 0 < s.actTicks c k && above k) || !s.ctxs.any fun e => above e.1

/-- The ceilings and the grant of a cluster. -/
structure Ceil where
  ct : Nat
  cr : Nat
  cp : Nat
  grant : Bool
  susp : Bool
deriving DecidableEq, Repr

/-- INTERVAL of R396 for one cluster: temperature, current, current limit, power in mW, cap in W, over(cl), G, and req. -/
def ceilStep (x : Ceil) (t i il p cap : Nat) (above : Bool) (g : Nat) (req : Bool) : Ceil :=
  let b := band t
  let ct := if b < x.ct then b else if x.ct < 5 && t + 12 < lowOf x.ct then x.ct + 1 else x.ct
  let cr := if il < i then min x.cr (g - 1) else if x.cr < 5 && 10 * i ≤ 9 * il then x.cr + 1 else x.cr
  let cp :=
    if 1000 * cap < p && above then min x.cp (g - 1)
    else if x.cp < 5 && 100 * p ≤ 97 * 1000 * cap then x.cp + 1
    else x.cp
  let thr := ct < 5 || min cr cp < 5
  let gs : Bool × Bool :=
    if !req then (false, false)
    else if thr then (if x.grant then (false, true) else (x.grant, x.susp))
    else if 100 * p ≤ 95 * 1000 * cap && t < 340 then (true, false)
    else if x.grant && (1000 * cap < p || 360 ≤ t) then (false, x.susp)
    else (x.grant, x.susp)
  { ct := ct, cr := cr, cp := cp, grant := gs.1, susp := gs.2 }

/-- Set the ceiling and the grant of every tile of a cluster (R396; R221). Both inputs stand before the gear is decided, so that a
change that both cause carries both causes (21 R413). -/
def State.setCeiling (s : State) (c : ClusterRef) (cap : Nat) (grant : Bool) : State :=
  (clusterTiles c).foldl (fun s t =>
    let k := (s.tile t).clock
    let s1 := s.modTile t fun x => { x with clock := { x.clock with cap := cap, grant := grant } }
    let s2 := if k.cap == cap then s1 else s1.decideGear t 1
    if k.grant == grant then s2 else s2.decideGear t 2) s

/-- A cluster's ceilings and its grant as they stand. -/
def Cluster.ceil (c : Cluster) : Ceil := { ct := c.ct, cr := c.cr, cp := c.cp, grant := c.grant, susp := c.susp }

/-- What INTERVAL decides for a cluster at the start of interval k (R395, R396). -/
def State.ceilOf (s : State) (inp : PowerInputs) (k : Nat) (pcs : List (Nat × Nat)) (c : ClusterRef) : Ceil :=
  let m := readingOf inp k c
  ceilStep (s.cluster c).ceil m.t m.i (railLimit c.die) inp.p s.capNow (s.overFloor c pcs) (s.topGear c) (s.wantsBoost c)

/-- A decision for a cluster takes its place, with the counters of R404. -/
def State.applyCeil (s : State) (m : ClusterInputs) (cl : ClusterRef) (y : Ceil) (req : Bool) : State :=
  let c := s.cluster cl
  let s1 := s.setCluster cl
    { c with ct := y.ct, cr := y.cr, cp := y.cp, grant := y.grant, susp := y.susp, t := m.t, i := m.i }
  let count (s : State) (b : Bool) (n : Nat) : State := if b then s.countCluster cl n else s
  let s2 := count (count s1 (y.ct < 5) 0x41) (min y.cr y.cp < 5) 0x42
  let s3 := count (count s2 (!c.grant && y.grant) 0x43) (c.grant && !y.grant && y.susp) 0x44
  let s4 := count s3 (c.grant && !y.grant && !y.susp && req) 0x45
  s4.setCeiling cl (min y.ct (min y.cr y.cp)) y.grant

/-- Pidle is recomputed, and a cap below it is raised again, with its event (R400); the floors are scaled again whenever the cap in
effect has changed (R401). -/
def State.idleStart (s : State) : State :=
  let old := s.capNow
  let s1 := { s with pidle := s.idleNow }
  let s2 := if s1.capQ < s1.pidle && old < s1.capNow then s1.event 0x10 s1.capQ s1.pidle else s1
  if s1.capNow == old then s2 else s2.rescale

/-- The port divisor of a die at an interval start (R406). -/
def State.portInterval (s : State) (d : Nat) : State :=
  let quiet := s.dieQuiet d
  let way := (dieLinks d).any fun l => (s.link l).groups.any GroupState.coming
  let s1 := if (s.die d).pdQuiet && quiet && !way then s.wantPd d 4 else s
  s1.modDie d fun x => { x with pdQuiet := quiet }

/-- A new interval begins for what is measured over it. -/
def State.newInterval (s : State) : State :=
  { s with
    interval := s.interval + 1
    tiles := s.tiles.map fun e => (e.1, { e.2 with acts := [], clock := { e.2.clock with gmax := 0 } }) }

/-- The requested cap that an interval uses (R403, R407). -/
def State.capAt (s : State) (k : Nat) : Nat := if 56000 * k < s.capPrev.1 then s.capPrev.2 else s.capQ

/-- What the manager decides on at the start of interval k: the measured power and energy, the cap that this interval uses, and Pidle. -/
def State.measured (s : State) (inp : PowerInputs) : State :=
  { s with lastP := inp.p, energy := s.energy + inp.p, capQ := s.capAt (s.interval + 1) }.idleStart

/-- CONTROL_INTERVAL (R394-R401, R404, R406): at the start of the next interval k, on the measurements of interval k - 1, for every live
cluster. All clusters start the interval together: each decision is taken on what stood before any of them. -/
def execControlInterval (inp : PowerInputs) (s : State) : Host.Outcome State Fault Refusal :=
  if s.tick < 56000 * (s.interval + 1) then .next s
  else
    let k := s.interval + 1
    let s1 := s.measured inp
    let pcs := s1.ctxPowers inp k
    let s2 := s1.liveClusters.foldl (fun t c => t.applyCeil (readingOf inp k c) c (s1.ceilOf inp k pcs c) (s1.wantsBoost c)) s1
    .next { ((List.range 8).foldl (fun s d => s.portInterval d) s2).newInterval with capQ := s.capQ }

/-- THERMAL_TRIP (R398): at once, with its counter and its event. -/
def execThermalTrip (cl : ClusterRef) (reading : Nat) (s : State) : Host.Outcome State Fault Refusal :=
  if reading < 432 then .next s
  else
    let s1 := (s.modCluster cl fun c => { c with ct := 0 }).countCluster cl 0x46
    .next ((s1.setCeiling cl 0 (s.cluster cl).grant).event 0x13 (cl.cl + 32 * cl.die) reading)

end Sys2Proof.Machine
end

