-- ==== Sys2Proof/Machine/TraceOps.lean ====
section
/-!
DEFINITION. The trace instructions and counters (21 R420-R423), and the die's trace engine: packets into frames, frames
into the ring (21 R410-R418).
-/

namespace Sys2Proof.Machine

open Sys2Proof

/-! ## Trace instructions (R420-R423) -/

/-- `trc.mark` (R421). -/
def coreTrcMark (i : OpIn) (s : State) : OpRes :=
  doneVoid (if s.traceMK i.x then s.emitWave i.x 10 (leBytes 4 (i.uni i.a)) else s)

def opTrcMark : Op :=
  { opc := 0x14C, res := resFixed [.void] .void, core := coreTrcMark
    form := fun t m => ctlForm t .void (m == 0) (.need [.n32]) .absent .absent }

/-- `trc.on` and `trc.off` (R421): the issuing wave follows at once, the others later. -/
def coreTrc (on : Bool) (i : OpIn) (s : State) : OpRes :=
  let o : TraceOp := { wave := i.x.w, on := on, kinds := BitVec.ofNat 2 i.md, tick := s.tick }
  doneVoid (s.modCtx i.x.launch.ctx fun c => { c with tnext := c.tnext ++ [o] })

def trcOp (opc : Nat) (on : Bool) : Op :=
  { opc := opc, res := resFixed [.void] .void, core := coreTrc on
    form := fun t m => ctlForm t .void (1 ≤ m && m ≤ 3) .absent .absent .absent }

def opTrcOn : Op := trcOp 0x14D true
def opTrcOff : Op := trcOp 0x14E false

/-- A counter's reading (R423), for a tile, its cluster and die, and a context. -/
def State.counter (s : State) (n : Nat) (t : TileRef) (c : ClusterRef) (d ctx : Nat) : Nat :=
  let e := (s.die d).trace
  if 0x20 ≤ n && n ≤ 0x27 then Tab.getD (s.cluster c).cnt 0 n
  else if n == 0x30 then (s.refused[ctx]?).getD 0
  else if n == 0x40 then (s.tile t).throttles
  else if 0x41 ≤ n && n ≤ 0x46 then Tab.getD (s.cluster c).cnt 0 n
  else if n == 0x47 then s.energy / 50000 % 2 ^ 64
  else if n == 0x48 then s.pidle
  else if n == 0x49 then (s.cluster c).t
  else if n == 0x4A then (s.cluster c).i
  else if n == 0x4B then s.lastP
  else if n == 0x50 then e.nframes % 2 ^ 64
  else if n == 0x51 then e.ndrop % 2 ^ 64
  else if n == 0x52 then e.npkt % 2 ^ 64
  else if n == 0x53 then e.nsync % 2 ^ 64
  else 0

/-- Is a counter a tile's, or a cluster's (R423)? -/
def tileCounter (n : Nat) : Bool := n == 0x40
def clusterCounter (n : Nat) : Bool := (0x20 ≤ n && n ≤ 0x27) || (0x41 ≤ n && n ≤ 0x46) || n == 0x49 || n == 0x4A

/-- `cnt.rd` (R422). IDX is judged by the counter's own scope. -/
def coreCntRd (i : OpIn) (s : State) : OpRes :=
  let v := i.uni i.a
  let n := bitsOf v 7 0
  let d := bitsOf v 11 9
  let j := bitsOf v 18 12
  let ctx := i.x.launch.ctx
  if bitsOf v 31 19 != 0 then .reserved
  else if bitsOf v 8 8 == 0 then doneAll s .n64 (s.counter n i.tile i.tile.cluster i.tile.die ctx)
  else if (tileCounter n && tilesOf d ≤ j) || (clusterCounter n && clustersOf d ≤ j) then trapBounds
  else doneAll s .n64 (s.counter n { die := d, tile := j } { die := d, cl := j } d ctx)

def opCntRd : Op :=
  { opc := 0x151, res := resFixed [.n64] .n64, core := coreCntRd
    form := fun t m => ctlForm t .n64 (m == 0) (.need [.n32]) .absent .absent }

def execTrcMark (f : Fields) (s : State) : Host.Outcome State Fault Refusal := runOp opTrcMark f s
def execTrcOn (f : Fields) (s : State) : Host.Outcome State Fault Refusal := runOp opTrcOn f s
def execTrcOff (f : Fields) (s : State) : Host.Outcome State Fault Refusal := runOp opTrcOff f s
def execCntRd (f : Fields) (s : State) : Host.Outcome State Fault Refusal := runOp opCntRd f s

/-- TRACE_MASK_APPLY (R421): the other waves follow the changes of 1,024 ticks ago. -/
def execTraceMaskApply (ctx : Nat) (s : State) : Host.Outcome State Fault Refusal :=
  .next (s.modCtx ctx fun c =>
    let due := c.tnext.takeWhile fun o => o.tick + 1024 ≤ s.tick
    { c with tmask := due.foldl (fun m o => o.apply m) c.tmask, tnext := c.tnext.drop due.length })

/-! ## The engine (R411-R418) -/

/-- The bytes of a frame's 32-byte header. -/
def frameHeader (die fseq used : Nat) : List Byte :=
  leBytes 32 (0x534C * 2 ^ 240 + 2 ^ 232 + die * 2 ^ 229 + fseq % 2 ^ 64 * 2 ^ 160 + used * 2 ^ 144)

/-- A frame's bytes: its header, its packets, and zeros. -/
def frameBytes (die fseq : Nat) (packets : List Byte) : List Byte :=
  let bs := frameHeader die fseq (32 + packets.length) ++ packets
  bs ++ List.replicate (4096 - bs.length) 0#8

/-- Close the running frame (R417, R418): into the buffer, or dropped whole when the buffer is full. -/
def TraceEng.close (e : TraceEng) (die : Nat) : TraceEng :=
  if e.frame == [] then e
  else
    let e1 := { e with frame := [], accord := [], fseq := (e.fseq + 1) % 2 ^ 64 }
    if 4 ≤ e.buf.length then { e1 with loss := e.loss + 1, ndrop := e.ndrop + 1 }
    else { e1 with buf := e.buf ++ [frameBytes die e.fseq e.frame], loss := 0 }

/-- The fewest bytes that hold a number (R412). -/
def fewest (n : Nat) : Nat :=
  if n == 0 then 0 else if n < 2 ^ 8 then 1 else if n < 2 ^ 16 then 2 else if n < 2 ^ 24 then 3 else 4

/-- Add a packet's bytes to the running frame. -/
def TraceEng.add (e : TraceEng) (bs : List Byte) : TraceEng :=
  { e with frame := e.frame ++ bs, sinceSync := e.sinceSync + 1 }

/-- A SYNC packet, which sets the tick base. -/
def TraceEng.sync (e : TraceEng) (tick : Nat) : TraceEng :=
  { e with frame := e.frame ++ leBytes 1 8 ++ leBytes 8 tick, sinceSync := 0, last := tick, restart := false,
           nsync := e.nsync + 1 }

/-- A SYNC after 4,096 packets since the last one (R415). -/
def TraceEng.due (e : TraceEng) (tick : Nat) : TraceEng := if 4096 ≤ e.sinceSync then e.sync tick else e

/-- The opening of a frame: SYNC, then LOSS when frames have been dropped (R415, R418). -/
def TraceEng.start (e : TraceEng) (tick : Nat) : TraceEng :=
  if e.frame == [] then
    let e1 := e.sync tick
    if e1.loss == 0 then e1 else e1.add (leBytes 1 16 ++ leBytes 4 e1.loss)
  else e

/-- The accord table after a use of a value (R414): its index, the table with the value as the latest used, and whether
it had to be defined. -/
def useAccord (t : List (Nat × Nat)) (v : Nat) : Nat × List (Nat × Nat) × Bool :=
  match t.find? fun e => e.2 == v with
  | some e => (e.1, e :: t.filter fun f => f.1 != e.1, false)
  | none =>
    if t.length < 16 then (t.length, (t.length, v) :: t, true)
    else
      match t.getLast? with
      | some l => (l.1, (l.1, v) :: t.dropLast, true)
      | none => (0, [(0, v)], true)

/-- Put a number into bits of a byte of a list. -/
def orByte (bs : List Byte) (k bit n : Nat) : List Byte :=
  bs.set k ((bs[k]?.getD 0#8) ||| BitVec.ofNat 8 (n * 2 ^ bit))

/-- The values that a packet names: their indexes go into its payload, with a DEF before the packet for each one that is
not in the table. -/
def TraceEng.refs (e : TraceEng) (tick : Nat) : List (Nat × Nat × Nat) → List Byte → TraceEng × List Byte
  | [], body => (e, body)
  | (k, bit, v) :: r, body =>
    let u := useAccord e.accord v
    let e1 := { e with accord := u.2.1 }
    let e2 := if u.2.2 then (e1.due tick).add (leBytes 1 24 ++ leBytes 1 u.1 ++ leBytes 8 v) else e1
    TraceEng.refs e2 tick r (orByte body k bit u.1)

/-- Write one packet into the running frame, with the packets that must stand before it. -/
def TraceEng.put (e : TraceEng) (p : Packet) : TraceEng :=
  let e0 := e.start p.tick
  let e1 := if e0.restart || 2 ^ 32 ≤ p.tick - e0.last then e0.sync p.tick else e0
  let q := e1.refs p.tick p.refs p.body
  let e2 := q.1.due p.tick
  let n := fewest (p.tick - e2.last)
  { e2.add (leBytes 1 (8 * p.kind + n) ++ leBytes n (p.tick - e2.last) ++ q.2) with last := p.tick }

/-- Write a packet, in a new frame when it does not fit the running one (R412, R424), or comes 56,000 ticks or more after the
packet before it (R417). -/
def TraceEng.write (e : TraceEng) (die : Nat) (p : Packet) : TraceEng :=
  let e0 := if e.last + 56000 ≤ p.tick then e.close die else e
  let e1 := e0.put p
  if e1.frame.length ≤ 4064 then e1 else (e0.close die).put p

/-- Put a packet in its place by tick and order (R416). -/
def insertPacket (p : Packet) : List Packet → List Packet
  | [] => [p]
  | q :: r => if p.tick < q.tick || (p.tick == q.tick && p.order < q.order) then p :: q :: r else q :: insertPacket p r

/-- Write every held packet that has been held long enough. -/
def TraceEng.writeHeld (e : TraceEng) (die now held : Nat) : TraceEng :=
  let due := (e.held.filter fun p => decide (p.tick + held ≤ now)).foldl (fun l p => insertPacket p l) []
  let e1 := { e with held := e.held.filter fun p => decide ¬(p.tick + held ≤ now) }
  let e2 := due.foldl (fun e p => e.write die p) e1
  if due == [] then e2 else { e2 with lastWrite := e2.last }

/-- TRACE_PACKET_WRITE (R416): packets held for 1,024 ticks, in tick order. -/
def execTracePacketWrite (die : Nat) (s : State) : Host.Outcome State Fault Refusal :=
  .next (s.modDie die fun d => { d with trace := d.trace.writeHeld die s.tick 1024 })

/-- Has the engine's last packet stood for 56,000 ticks with none after it, those held among them (R417)? -/
def TraceEng.quiet (e : TraceEng) (now : Nat) : Bool :=
  e.lastWrite + 56000 ≤ now && e.held.all fun p => e.lastWrite + 56000 ≤ p.tick

/-- TRACE_FRAME_CLOSE (R417): 56,000 ticks have passed with no packet. -/
def execTraceFrameClose (die : Nat) (s : State) : Host.Outcome State Fault Refusal :=
  .next (s.modDie die fun d => if d.trace.quiet s.tick then { d with trace := d.trace.close die } else d)

/-- A checkpoint begins: the packets held are written, and the frames are closed (R417). -/
def State.closeTraces (s : State) : State :=
  (List.range 8).foldl (fun s d =>
    s.modDie d fun x => { x with trace := (x.trace.writeHeld d s.tick 0).close d }) s

/-- The memory key of a die's trace region (22 R442). -/
def traceBase (die : Nat) : Nat := die * 2 ^ 37 + 0x16FC000000

/-- The oldest buffered frame of a die goes to the ring, when the ring is not full, and WIDX advances after it (R410, R418). -/
def State.frameWrite (s : State) (die : Nat) : State :=
  let e := (s.die die).trace
  match e.buf with
  | [] => s
  | b :: r =>
    let ridx := s.numKey (traceBase die + 4) 4
    let next := (e.widx + 1) % 16383
    if next == (if 16383 ≤ ridx then 0 else ridx) then s
    else
      let s1 := s.putKey partWriter (traceBase die + 4096 * (1 + e.widx)) b
      let s2 := s1.putKey partWriter (traceBase die) (leBytes 4 next)
      s2.modDie die fun d => { d with trace := { d.trace with buf := r, widx := next, nframes := d.trace.nframes + 1 } }

/-- TRACE_FRAME_WRITE. -/
def execTraceFrameWrite (die : Nat) (s : State) : Host.Outcome State Fault Refusal := .next (s.frameWrite die)

/-- A reset of the dies begins, and the reference clock stops: the held packets are written, the frames are closed, and those in the buffers go
to the rings (R417, R424). -/
def State.stopTraces (s : State) : State :=
  (List.range 8).foldl (fun s d => (List.range 4).foldl (fun s _ => s.frameWrite d) s) s.closeTraces

end Sys2Proof.Machine
end

