-- ==== Sys2Proof/Machine/Debug.lean ====
section
/-!
DEFINITION. Debug stops and dumps, UNDO, the debugger's commands, and the debug instructions (14 R317-R322).
-/

namespace Sys2Proof.Machine

open Sys2Proof

/-! ## Stops (R318) -/

/-- Is a context's debug bit set? -/
def State.debugOn (s : State) (ctx : Nat) : Bool :=
  match s.ctx? ctx with
  | some c => c.dbg
  | none => false

/-- Ask a wave to stop. -/
def Wave.askStop (x : Wave) : Wave :=
  if x.mode == .released || x.mode == .ended || x.stop != .none then x else { x with stop := .requested }

/-- A debug stop of a partition for a context's debug region. A partition under a stop already is left as it is. -/
def State.debugStop (s : State) (t : TileRef) (odd : Bool) (ctx cause : Nat) : State :=
  let p := (s.tile t).part odd
  if !s.debugOn ctx || p.dbg.isSome then s
  else
    let d : DebugStop := { cause := cause, ctx := ctx, tick := s.tick, dumped := false, pend := [], regs := [], place := 0, len := 0, recs := [] }
    p.all.foldl (fun s e => s.modWave e.wave Wave.askStop)
      (s.modTile t fun x => x.setPart odd { p with dbg := some (s.noteStop d (p.all.map Entry.wave)) })

/-! ## The dump (R319) -/

/-- The entries of a partition in slot order: the order of the wave records. -/
def Part.bySlot (p : Part) : List Entry := (List.range 16).filterMap fun k => p.all.find? fun e => e.slot == k

/-- The value records of a frame: the values of its block, of the top frame 0 upwards. -/
def frameValues (frame : Nat) (f : Frame) (pend : Nat → Bool) : List (Bool × List Byte) :=
  match f.cur with
  | none => []
  | some c =>
    ((List.range c.vals.length).zip c.vals.reverse).filterMap fun e =>
      if e.2.ty == .void then none
      else
        let q := pend e.1
        some (q, valueRecord e.1 frame 0 q e.2)

/-- A wave record of a dump. -/
def dumpWave (x : Site) (pend : List (WaveRef × Nat × Nat)) : List Byte :=
  let vs := ((List.range x.wave.frames.length).zip x.wave.frames).flatMap fun e =>
    frameValues e.1 e.2 fun k => pend.contains (x.w, x.wave.frames.length - e.1, k)
  let p := x.wave.point
  let log := x.wave.undoBytes
  leBytes 64 (x.w.blk * 2 ^ 480 + x.w.wav * 2 ^ 475 + p.func * 2 ^ 459 + p.block * 2 ^ 443 + p.vidx * 2 ^ 432 +
      x.wave.mask.toNat * 2 ^ 400 + x.wave.frames.length * 2 ^ 391 + vs.length * 2 ^ 375 + x.wave.ieee.toNat * 2 ^ 370 +
      x.wave.sli.toNat * 2 ^ 365 + (vs.filter fun e => e.1).length * 2 ^ 349 + log.length * 2 ^ 336) ++
    (vs.flatMap fun e => e.2) ++ log

/-- The records that fit in n bytes, whole. -/
def takeRecords : Nat → List (List Byte) → List (List Byte)
  | _, [] => []
  | n, r :: rs => if r.length ≤ n then r :: takeRecords (n - r.length) rs else []

/-- The wave records of a dump. -/
def State.dumpWaves (s : State) (ws : List WaveRef) (pend : List (WaveRef × Nat × Nat)) : List (List Byte) :=
  ws.filterMap fun w => (s.site? w).map fun x => dumpWave x pend

/-- Where the next dump of a context stands: after the dumps of its other stopped partitions (DESIGN CHOICE, log entry
24). -/
def State.dumpPlace (s : State) (ctx : Nat) : Nat :=
  s.tiles.foldl (fun n t =>
    [t.2.even, t.2.odd].foldl (fun n p =>
      match p.dbg with
      | some d => if d.ctx == ctx && d.dumped then max n (64 * ceilDiv (d.place + d.len) 64) else n
      | none => n) n) 0

/-- Write the wave records of a stopped partition again after its stop record, or a new dump with its stop record: of the waves that the
partition holds then, in slot order. -/
def State.writeDump (s : State) (t : TileRef) (odd : Bool) (d : DebugStop) (head : Bool) : State :=
  match s.ctx? d.ctx with
  | none => s
  | some c =>
    let p := (s.tile t).part odd
    let ws := if head then p.bySlot.map Entry.wave else d.recs
    let all := s.dumpWaves ws d.pend
    let fit := takeRecords (64 * c.dbgn - d.place - 64) all
    let stop := leBytes 64 (d.tick % 2 ^ 64 * 2 ^ 448 + t.die * 2 ^ 445 + t.tile * 2 ^ 438 + bit01 odd * 2 ^ 437 + d.cause * 2 ^ 433 +
      all.length * 2 ^ 427 + bit01 (fit.length < all.length) * 2 ^ 426)
    let bs := fit.flatten
    let s1 := s.modTile t fun x => x.setPart odd { p with dbg := some { d with dumped := true, len := 64 + bs.length, recs := ws } }
    if 64 * c.dbgn < d.place + 64 then s1
    else
      let q := if head then (d.place, stop ++ bs) else (d.place + 64, bs)
      if q.2 == [] then s1 else (s1.putVa partWriter d.ctx t.die (c.dbga + q.1) q.2).1

/-- Has every wave of a partition landed, or ended? -/
def State.partLanded (s : State) (p : Part) : Bool :=
  p.all.all fun e =>
    match s.wave? e.wave with
    | some x => x.stop == .landed || x.isEnded
    | none => true

/-- A debug stop whose waves have all landed writes its dump. -/
def State.dumpLanded (s : State) (t : TileRef) (odd : Bool) : State :=
  let p := (s.tile t).part odd
  match p.dbg with
  | some d => if !d.dumped && s.partLanded p then s.writeDump t odd { d with place := s.dumpPlace d.ctx } true else s
  | none => s

/-- The same once the last wave that had not landed has ended instead: a step that ends with its wave stops at that tick (R318, R320). -/
def State.dumpEnded (s : State) (t : TileRef) (odd : Bool) : State :=
  let p := (s.tile t).part odd
  match p.dbg with
  | some d =>
    if !d.dumped && s.partLanded p then
      s.writeDump t odd { d with place := s.dumpPlace d.ctx, tick := if d.cause == 3 then s.tick else d.tick } true
    else s
  | none => s

/-! ## UNDO (R317) -/

/-- Write the memory records of an entry, highest lane first; none when a write would fault. -/
def State.undoMem (s : State) (x : Site) : List MemRec → Option State
  | [] => some s
  | m :: r =>
    match s.spansOf x m.2.2.1.toNat m.2.2.2.length false true with
    | (s1, .ok ks) => State.undoMem (s1.putSpans x.laneWriter ks m.2.2.2) x r
    | (_, .error _) => none

/-- The frame after an entry has been undone. -/
def undoFrame (f : Frame) (e : UndoEntry) : Frame :=
  match e.kind, f.cur with
  | .step old _, some c =>
    let t := (Ty.ofCode e.ty).getD .void
    let v := old.getD (Value.zero t)
    { f with
      cur := some { c with mask := e.mask, vidx := e.point.vidx, vals := c.vals.drop (c.vals.length - e.point.vidx) }
      kept := (e.point.block, e.point.vidx, v) :: f.kept.filter fun k => !(k.1 == e.point.block && k.2.1 == e.point.vidx) }
  | .ctl pending cur kept _, _ => { f with pending := pending, cur := cur, kept := kept }
  | _, _ => f

/-- Undo the newest entry of a wave; none when there is none, or it may not be passed, or a write would fault. -/
def State.undoOne (s : State) (w : WaveRef) : Option State :=
  match s.site? w with
  | none => none
  | some x =>
    match x.wave.undo, x.wave.frames with
    | e :: r, f :: fs =>
      match e.kind with
      | .hzn => none
      | .step _ mem =>
        match s.undoMem x mem.reverse with
        | some s1 => some (s1.modWave w fun y => { y with undo := r, frames := undoFrame f e :: fs, mode := .run })
        | none => none
      | .ctl _ _ _ _ => some (s.modWave w fun y => { y with undo := r, frames := undoFrame f e :: fs, mode := .run })
    | _, _ => none

/-- UNDO of n entries, as far as it goes, with how many were undone. -/
def State.undoMany (s : State) (w : WaveRef) : Nat → State × Nat
  | 0 => (s, 0)
  | n + 1 =>
    match s.undoOne w with
    | none => (s, 0)
    | some s1 =>
      let r := State.undoMany s1 w n
      (r.1, r.2 + 1)

/-- UNDO of a wave: the fuel is the length of its log. -/
def State.undo (s : State) (w : WaveRef) (n : Nat) : State × Nat :=
  match s.wave? w with
  | none => (s, 0)
  | some x => s.undoMany w (min n x.undo.length)

/-! ## The debug instructions (R321, R322) -/

/-- `dbg.brk`. -/
def coreDbgBrk (i : OpIn) (s : State) : OpRes :=
  if !s.debugOn i.x.launch.ctx || i.mask == 0 then doneVoid s
  else
    let s1 := (s.completePlace i.x.w 0x14F Value.void []).emitDebug i.x 0
    .moved (s1.debugStop i.tile (i.x.w.wav % 2 == 1) i.x.launch.ctx 0)

def opDbgBrk : Op :=
  { opc := 0x14F, res := resFixed [.void] .void, core := coreDbgBrk
    form := fun t m => formFor [.void] t (m == 0) fun T =>
      { a := .absent, b := .absent, c := .absent, pred := true, res := T, pass := .every } }

/-- `dbg.stop`. -/
def coreDbgStop (i : OpIn) (s : State) : OpRes :=
  if !s.debugOn i.x.launch.ctx then doneVoid s
  else
    let odd := i.x.w.wav % 2 == 1
    let ctx := i.x.launch.ctx
    let s1 := (s.completePlace i.x.w 0x150 Value.void []).emitDebug i.x 1
    let s2 := s1.debugStop i.tile odd ctx 1
    .moved (if i.md == 1 then s2.debugStop i.tile (!odd) ctx 1 else s2)

def opDbgStop : Op :=
  { opc := 0x150, res := resFixed [.void] .void, core := coreDbgStop
    form := fun t m => ctlForm t .void (m ≤ 1) .absent .absent .absent }

/-- `dbg.undo`: when an entry has been undone, the wave goes on from the restored point. -/
def coreDbgUndo (i : OpIn) (s : State) : OpRes :=
  let n := i.uni i.a
  if !s.debugOn i.x.launch.ctx || n == 0 then doneVoid s
  else
    match (s.emitDebug i.x 2).undo i.x.w n with
    | (s1, 0) => doneVoid s1
    | (s1, _ + 1) => .moved s1

def opDbgUndo : Op :=
  { opc := 0x152, res := resFixed [.void] .void, core := coreDbgUndo
    form := fun t m => ctlForm t .void (m == 0) (.need [.n32]) .absent .absent }

def execDbgBrk (f : Fields) (s : State) : Host.Outcome State Fault Refusal := runOp opDbgBrk f s
def execDbgStop (f : Fields) (s : State) : Host.Outcome State Fault Refusal := runOp opDbgStop f s
def execDbgUndo (f : Fields) (s : State) : Host.Outcome State Fault Refusal := runOp opDbgUndo f s

/-! ## The debugger (R318, R320) -/

/-- DEBUG_INTERFACE_STOP (R318): for the context active on the tile. -/
def execDebugInterfaceStop (t : TileRef) (odd : Bool) (s : State) : Host.Outcome State Fault Refusal :=
  .next ((s.debugStop t odd (s.tile t).act 2).dumpLanded t odd)

/-- The command in a stopped partition's stop record, once its dump is written: CMD, CWAVE and CARG. -/
def State.debugCmd (s : State) (t : TileRef) (odd : Bool) : Option (DebugStop × Nat × Nat × Nat) :=
  match ((s.tile t).part odd).dbg with
  | none => none
  | some d =>
    match s.ctx? d.ctx with
    | none => none
    | some c =>
      match (s.readVa d.ctx t.die (c.dbga + d.place) 64).2 with
      | .ok bs =>
        let x := ofLe bs
        if d.dumped then some (d, bitsOf x 423 416, bitsOf x 415 400, bitsOf x 383 352) else none
      | .error _ => none

/-- Let a landed wave go on, when its block neither parks nor is swapped out. -/
def State.unland (s : State) (w : WaveRef) : State :=
  match s.site? w with
  | none => s
  | some x =>
    if x.wave.stop != .none && x.block.fate.isNone && x.block.phase == .resident && x.wave.owed.isNone then
      s.setWave w { x.wave with stop := .none, stepLeft := none, stepEnd := none }
    else s

/-- DEBUG_RESUME (R320): CMD 1. -/
def execDebugResume (t : TileRef) (odd : Bool) (s : State) : Host.Outcome State Fault Refusal :=
  match s.debugCmd t odd with
  | some (_, 1, _, _) =>
    let p := (s.tile t).part odd
    let s1 := s.modTile t fun x => x.setPart odd { p with dbg := none }
    .next ((p.all.foldl (fun s e => s.unland e.wave) s1).refill t)
  | _ => .next s

/-- The wave of a record of the dump. -/
def Part.recordWave (p : Part) (k : Nat) : Option WaveRef := p.dbg.bind fun d => d.recs[k]?

/-- The entry of the wave of a record, while the partition holds it. -/
def Part.recordEntry (p : Part) (k : Nat) : Option Entry := (p.recordWave k).bind fun w => p.all.find? fun e => e.wave == w

/-- DEBUG_STEP (R320): CMD 2. The wave has the issue it needs; the others stay halted. A wave that has landed in native code steps in
the portable form, from the point at which it stands. -/
def execDebugStep (t : TileRef) (odd : Bool) (s : State) : Host.Outcome State Fault Refusal :=
  match s.debugCmd t odd with
  | some (d, 2, k, n) =>
    let p := (s.tile t).part odd
    match p.recordEntry k with
    | none => .next s
    | some e =>
      match s.site? e.wave with
      | none => .next s
      | some x =>
        if x.wave.stop == .landed && x.block.fate.isNone && x.block.phase == .resident && x.wave.owed.isNone then
          let d1 : DebugStop := { d with dumped := false, cause := 3, tick := s.tick, pend := [], regs := [] }
          let p1 : Part := { p.drop e.wave with dbg := some d1 }
          let p2 : Part := { p1 with active := p1.active ++ [{ e with from_ := s.ctlNow t, rt := none }] }
          let s1 := s.modTile t fun y => y.setPart odd p2
          .next (s1.setWave e.wave { x.wave with stop := if n == 0 then .requested else .none, stepLeft := some n, stepEnd := none, native := none })
        else .next s
  | _ => .next s

/-- DEBUG_UNDO (R320): CMD 3. The dump is rewritten. -/
def execDebugUndo (t : TileRef) (odd : Bool) (s : State) : Host.Outcome State Fault Refusal :=
  match s.debugCmd t odd with
  | some (d, 3, k, n) =>
    match ((s.tile t).part odd).recordWave k with
    | none => .next s
    | some w => .next ((s.undo w n).1.writeDump t odd d false)
  | _ => .next s

end Sys2Proof.Machine
end

