-- ==== Sys2Proof/Machine/Kv.lean ====
section
/-!
DEFINITION. The key-value engine (13 R294-R297): `kvcommit`, the placing of its accesses, and its completion.
-/

namespace Sys2Proof.Machine

open Sys2Proof

/-- The fields of a descriptor (R294). -/
structure KvDesc where
  ktab : Nat
  vtab : Nat
  path : Nat
  clen : Nat
  rel : Nat
  rowb : Nat
  nspec : Nat
  npath : Nat
  magic : Nat
  rsv : Nat
  ver : Nat
deriving DecidableEq, Repr

/-- A descriptor from its 512 bits. -/
def kvDescOf (x : Nat) : KvDesc :=
  { ktab := bitsOf x 511 448, vtab := bitsOf x 447 384, path := bitsOf x 383 320, clen := bitsOf x 319 256,
    rel := bitsOf x 255 192, rowb := bitsOf x 191 160, nspec := bitsOf x 159 144, npath := bitsOf x 143 128,
    magic := bitsOf x 127 112, rsv := bitsOf x 111 8, ver := bitsOf x 7 0 }

/-- Steps 3 to 6 of R295 that the descriptor's bits alone decide. -/
def KvDesc.trap? (d : KvDesc) : Option OpRes :=
  let top (a : Nat) : Bool := 2 ^ 56 ≤ a
  if d.path % 2 != 0 || d.rel % 8 != 0 then some trapAlign
  else if d.magic != 0x4B56 then some trapFormat
  else if d.ver != 1 || d.rsv != 0 || top d.ktab || top d.vtab || top d.path || top d.clen || top d.rel then some .reserved
  else if d.rowb % 16 != 0 || d.rowb < 16 || 65536 < d.rowb || d.nspec < 1 || 256 < d.nspec || d.npath < 1 ||
      d.nspec < d.npath || winOf d.clen == .glob then some trapBounds
  else none

/-- Is a path strictly increasing? -/
def pathRising : List Nat → Bool
  | a :: b :: r => decide (a < b) && pathRising (b :: r)
  | _ => true

/-- The little-endian numbers of n bytes each in a byte list. -/
def numsOf (n : Nat) (bs : List Byte) (count : Nat) : List Nat :=
  (List.range count).map fun k => ofLe ((bs.drop (n * k)).take n)

/-- The statements of a commit (R296), with P the committed length. -/
def kvOps (d : KvDesc) (p : Nat) (ns : List Nat) : List KvOp :=
  let tabs := d.ktab :: (if d.vtab == 0 then [] else [d.vtab])
  let moves := tabs.flatMap fun t => ((List.range ns.length).zip ns).filterMap fun e =>
    if e.2 == e.1 then none else some (KvOp.move (BitVec.ofNat 64 t) (p + e.2) (p + e.1) none none none)
  let lo := ceilDiv (p + ns.length) 16
  let hi := (p + d.nspec - 1) / 16
  let qs := (List.range (hi + 1 - lo)).map fun k => lo + k
  let rels := tabs.flatMap fun t => qs.map fun q => (t, q)
  moves ++ ((List.range rels.length).zip rels).map (fun e => KvOp.release (BitVec.ofNat 64 e.2.1) e.2.2 e.1 none (d.rel == 0) false)
    ++ (if d.rel == 0 then [] else [KvOp.count rels.length])

/-- `kvcommit` (R295): its lane-path reads and checks in their order, and the command. -/
def coreKvcommit (i : OpIn) (s : State) : OpRes :=
  let a := i.uni i.a
  match s.readAcc i.x winsAll 64 [(a, 64)] with
  | .error r => r
  | .ok (s1, b) =>
    let d := kvDescOf (ofLe b.flatten)
    match d.trap? with
    | some r => r
    | none =>
      match s1.readAcc i.x [.all, .die] 4 [(d.clen, 4)] with
      | .error r => r
      | .ok (s2, c) =>
        match s2.readAcc i.x winsAll 1 (pieces d.path (2 * d.npath)) with
        | .error r => r
        | .ok (s3, q) =>
          let p := ofLe c.flatten
          let ns := numsOf 2 q.flatten d.npath
          if !pathRising ns || ns.any fun n => d.nspec ≤ n then trapBounds
          else if 2 ^ 32 - 1 < p + d.nspec then trapBounds
          else
            let w := i.owed s3 d.clen (p + d.npath)
            let k : KvCmd :=
              { id := s3.nextId, by_ := i.issuer, ctx := i.x.launch.ctx, block := i.x.w.block, rel := BitVec.ofNat 64 d.rel,
                rowb := d.rowb, ops := kvOps d p ns, owed := w, gap := (i.gaps s3).pkv, started := false, paused := none }
            let s4 := s3.modTile i.tile fun t => { t with kvQ := t.kvQ ++ [k] }
            doneVoid { s4 with nextId := s4.nextId + 1 }

def opKvcommit : Op :=
  { opc := 0x113, res := resFixed [.void] .void, core := coreKvcommit
    form := fun t m => ctlForm t .void (m % 16 == 0) (.need [.addr]) .absent .absent }

def execKvcommit (f : Fields) (s : State) : Host.Outcome State Fault Refusal := runOp opKvcommit f s

/-! ## The engine (R296) -/

/-- How one access of a statement ends: the statement changed, or none when it is complete; a page fault; an address
without memory; a table entry of 0 that a move needs. -/
inductive KvRes where
  | ok (op : Option KvOp)
  | fault (va : Nat) (wr : Bool)
  | abort
  | poison
deriving DecidableEq, Repr

/-- Read bytes on the key-value path. -/
def State.kvRead (s : State) (k : KvCmd) (die va n : Nat) : State × EngRes (List Byte × Bool) :=
  match s.engSpans k.block die va n true false with
  | (s1, .ok ks) => (s1, .ok (s1.readSpans ks, s1.spansPoisoned ks))
  | (s1, .fault e) => (s1, .fault e)
  | (s1, .bad) => (s1, .bad)

/-- Write bytes on the key-value path. -/
def State.kvWrite (s : State) (k : KvCmd) (t : TileRef) (va : Nat) (bs : List Byte) (g : Option KvOp) : State × KvRes :=
  match s.engSpans k.block t.die va bs.length false true with
  | (s1, .ok ks) => (s1.putSpans (k.by_.writer t 4) ks bs, .ok g)
  | (s1, .fault e) => (s1, .fault e true)
  | (s1, .bad) => (s1, .abort)

/-- Read a table entry and go on with it. -/
def State.kvEntry (s : State) (k : KvCmd) (die va : Nat) (g : Word64 → KvRes) : State × KvRes :=
  match s.kvRead k die va 8 with
  | (s1, .ok (bs, bad)) => (s1, if bad then .poison else g (BitVec.ofNat 64 (ofLe bs)))
  | (s1, .fault e) => (s1, .fault e false)
  | (s1, .bad) => (s1, .abort)

/-- The address of a table's entry for a position's page. -/
def entryVa (tab : Word64) (q : Nat) : Nat := tab.toNat + 8 * q

/-- A row's copy, once both its pages are known. -/
def rowPair (k : KvCmd) (p q : Nat) (ep eq : Word64) : CopyPair :=
  CopyPair.begin_
    { by_ := k.by_, ch := 0, lane := 0, src := some (ep + BitVec.ofNat 64 (k.rowb * (p % 16))),
      dst := eq + BitVec.ofNat 64 (k.rowb * (q % 16)), len := k.rowb, toRead := [], toWrite := [], buf := [], bad := [], peer := none }

/-- Place access j of a statement. The first accesses of a move read its two table entries; of a release, its entry. -/
def State.kvAccess (s : State) (k : KvCmd) (t : TileRef) (op : KvOp) (j : Nat) : State × KvRes :=
  match op with
  | .move tab p q none eq row =>
    s.kvEntry k t.die (entryVa tab (p / 16)) fun e => if e == 0 then .abort else .ok (some (.move tab p q (some e) eq row))
  | .move tab p q (some ep) none row =>
    s.kvEntry k t.die (entryVa tab (q / 16)) fun e => if e == 0 then .abort else .ok (some (.move tab p q (some ep) (some e) row))
  | .move tab p q (some ep) (some eq) none => (s, .ok (some (.move tab p q (some ep) (some eq) (some (rowPair k p q ep eq)))))
  | .move tab p q (some ep) (some eq) (some r) =>
    if j < r.toRead.length then
      match r.read s t.die j with
      | (s1, .ok r') => (s1, .ok (some (.move tab p q (some ep) (some eq) (some r'))))
      | (s1, .fault va) => (s1, .fault va false)
      | (s1, .bad) => (s1, .abort)
    else
      match r.write s t 4 (j - r.toRead.length) with
      | (s1, .ok r') =>
        (s1, .ok (if r'.toRead == [] && r'.toWrite == [] then none else some (.move tab p q (some ep) (some eq) (some r'))))
      | (s1, .fault va) => (s1, .fault va true)
      | (s1, .bad) => (s1, .abort)
  | .release tab q cnt none listed zeroed =>
    s.kvEntry k t.die (entryVa tab q) fun e => .ok (some (.release tab q cnt (some e) listed zeroed))
  | .release tab q cnt (some e) listed zeroed =>
    if !listed && (j == 0 || zeroed) then
      s.kvWrite k t (k.rel.toNat + 8 + 8 * cnt) (leBytes 8 e.toNat)
        (if zeroed then none else some (.release tab q cnt (some e) true zeroed))
    else if !zeroed then
      s.kvWrite k t (entryVa tab q) (leBytes 8 0) (if listed then none else some (.release tab q cnt (some e) listed true))
    else (s, .ok none)
  | .count n => s.kvWrite k t k.rel.toNat (leBytes 8 n) none

def State.kv? (s : State) (t : TileRef) (id : Nat) : Option KvCmd := (s.tile t).kvQ.find? fun c => c.id == id

def State.modKv (s : State) (t : TileRef) (id : Nat) (g : KvCmd → KvCmd) : State :=
  s.modTile t fun x => { x with kvQ := x.kvQ.map fun c => if c.id == id then g c else c }

/-- A command pauses on an engine page fault (R292). -/
def State.pauseKv (s : State) (t : TileRef) (k : KvCmd) (va : Nat) (wr : Bool) : State :=
  (s.modKv t k.id fun c => { c with paused := some none }).fileRecord k.ctx (s.engineRecord k.by_ t 0 va wr true) (.kv t k.id)

/-- A command ends as aborted (R292, R296). -/
def State.abortKv (s : State) (t : TileRef) (k : KvCmd) : State :=
  ((s.modTile t fun x => { x with kvQ := x.kvQ.filter fun c => c.id != k.id }).failWord k.owed).fileRecord k.ctx
    (s.engineRecord k.by_ t 3 0 false false) .nobody

/-- Start a command that has not started, once the gap of its pacing register is over and no earlier one waits to start
(10 R228). -/
def State.startKv (s : State) (t : TileRef) (id : Nat) : State :=
  match (s.tile t).kvQ.find? fun c => !c.started with
  | some c =>
    if c.id == id && s.paceOk t 1 c.gap && !(s.tile t).fenced 4 id then
      (s.noteStart t 1).modKv t id fun c => { c with started := true }
    else s
  | none => s

/-- Place access j of the statement at the head of a command. The statements' accesses stand in the order of the
statements. -/
def State.kvStep (s0 : State) (t : TileRef) (id j : Nat) : State :=
  let s := s0.startKv t id
  match s.kv? t id with
  | none => s
  | some k =>
    if !k.started || k.paused.isSome || (s.tile t).fenced 4 id then s
    else
      match k.ops with
      | [] => s
      | op :: r =>
        match s.kvAccess k t op j with
        | (s1, .ok (some op')) => s1.modKv t id fun c => { c with ops := op' :: r }
        | (s1, .ok none) => s1.modKv t id fun c => { c with ops := r }
        | (s1, .fault va wr) => s1.pauseKv t k va wr
        | (s1, .abort) => s1.abortKv t k
        | (s1, .poison) => (s1.modKv t id fun c => { c with paused := some none }).raise (.tileFault t 4)

/-- The accesses that a statement can take at most. -/
def KvOp.size (rowb : Nat) : KvOp → Nat
  | .move _ _ _ _ _ _ => 2 * (rowb / 16 + 2) + 3
  | .release _ _ _ _ _ _ => 3
  | .count _ => 1

/-- KVCOMMIT_COMPLETE (R296): the accesses left are placed, and then the committed length, the completion word. -/
def execKvcommitComplete (t : TileRef) (id : Nat) (s0 : State) : Host.Outcome State Fault Refusal :=
  let s := s0.startKv t id
  match s.kv? t id with
  | none => .next s
  | some k =>
    let n := (k.ops.map (KvOp.size k.rowb)).sum
    let s1 := (List.range n).foldl (fun s _ => s.kvStep t id 0) s
    match s1.kv? t id with
    | none => .next s1
    | some k1 =>
      if !k1.started || k1.ops != [] || k1.paused.isSome || (s1.tile t).fenced 4 id then .next s1
      else
        match s1.writeWord t k1.owed with
        | (s2, .ok _) => .next (s2.modTile t fun x => { x with kvQ := x.kvQ.filter fun c => c.id != id })
        | (s2, .fault va) => .next (s2.pauseKv t k1 va true)
        | (s2, .bad) => .next (s2.abortKv t k1)

/-! ## ENGINE_PAGE_FAULT (R292) -/

/-- The first access left of a pair that takes a page fault: its address, and whether it writes. -/
def CopyPair.faulting (p : CopyPair) (s : State) (die : Nat) : Option (Nat × Bool) :=
  let try_ (base : Nat) (wr : Bool) (e : Nat × Nat) : Option (Nat × Bool) :=
    if 2 ^ 56 ≤ base then none
    else
      match (s.engSpans p.by_.wave.block die (base + e.1) e.2 (!wr) wr).2 with
      | .fault va => some (va, wr)
      | _ => none
  match (match p.src with | some a => p.toRead.findSome? (try_ a.toNat false) | none => none) with
  | some r => some r
  | none => p.toWrite.findSome? (try_ p.dst.toNat true)

/-- ENGINE_PAGE_FAULT (R292): an access of a copy or `kvcommit` that is left to place faults, and its command pauses. -/
def execEnginePageFault (t : TileRef) (id : Nat) (s : State) : Host.Outcome State Fault Refusal :=
  match s.copy? t id, s.kv? t id with
  | some c, _ =>
    if !c.started || c.paused.isSome then .next s
    else
      match c.pairs.findSome? fun p => (p.faulting s t.die).map fun r => (p.by_, r) with
      | some (i, va, wr) => .next (s.pauseCopy t c i va wr)
      | none => .next s
  | none, some k =>
    if !k.started || k.paused.isSome then .next s
    else
      match k.ops with
      | op :: _ =>
        match (s.kvAccess k t op 0).2 with
        | .fault va wr => .next (s.pauseKv t k va wr)
        | _ => .next s
      | [] => .next s
  | none, none => .next s

end Sys2Proof.Machine
end

