-- ==== Sys2Proof/Machine/Quant.lean ====
section
/-!
DEFINITION. Conversions (07 R159, R160) and quantisation (07 R161-R166) over the format block's halves, the keyed
Hadamard transform and the companding curve (02 R27-R41).
-/

namespace Sys2Proof.Machine

open Sys2Proof

/-! ## cvt and bitc -/

/-- A float to an integer type (R159): the bits and the flags. -/
def fltToInt (t : Ty) (rd : Nat) (x : Exact × Nat) : Nat × Nat :=
  match x.1 with
  | .nan => (0, fIV ||| x.2)
  | .inf s => (wrapTo t (if s then tyMin t else tyMax t), fOF ||| fIX ||| x.2)
  | .fin s n d e =>
    if n = 0 then (0, x.2)
    else
      let r := roundAt rd s n d e 0
      let z : Int := if s then -(r.1 : Int) else (r.1 : Int)
      if z < tyMin t then (wrapTo t (tyMin t), fOF ||| fIX ||| x.2)
      else if tyMax t < z then (wrapTo t (tyMax t), fOF ||| fIX ||| x.2)
      else (wrapTo t z, (if r.2 then fIX else 0) ||| x.2)

/-- `cvt` of one lane: the bits, the IEEE flags and the SLI flags; the pair is legal. -/
def cvtLane (src dst : Ty) (rd : Nat) (ftz : Bool) (x : Nat) : Nat × Nat × Nat :=
  if src.isFlt then
    let v := readIn src ftz x
    if dst.isFlt then
      if src == dst then (deliver dst v.1, v.2, 0)
      else let r := rnd dst rd ftz v.1; (r.1, r.2 ||| v.2, 0)
    else if dst.isInt then let r := fltToInt dst rd v; (r.1, r.2, 0)
    else sliOfIeee (sliFb dst) v
  else if src.isInt then let r := rnd dst rd ftz (.ofInt (toInt src x)); (r.1, r.2, 0)
  else if dst.isFlt then let r := sliToIeee (sliFb src) x dst ftz; (r.1, r.2, 0)
  else let r := sliConvert (sliFb src) (sliFb dst) x; (r.1, 0, r.2)

/-- Is a pair legal, with its rounding code and flush (R159)? -/
def cvtOk (src dst : Ty) (rd : Nat) (ftz : Bool) : Bool :=
  if src.isFlt then
    if dst.isFlt then src != dst || rd == 0
    else if dst.isInt then true
    else rd == 0
  else if src.isInt then dst.isFlt
  else if dst.isFlt then rd == 0
  else tySli.contains dst && src != dst && rd == 0 && !ftz

/-- The types of `cvt`. -/
def tyCvt : List Ty := tyInt ++ tyFlt ++ tySli

def coreCvt (i : OpIn) (s : State) : OpRes :=
  if cvtOk i.a.ty i.ty (modRd i.md) (modFtz i.md) then
    let g (k : Fin 32) := cvtLane i.a.ty i.ty (modRd i.md) (modFtz i.md) (i.a.nat k)
    let s1 := (s.orIeee i.x.w (lanesFlags i.mask fun k => (g k).2.1)).orSli i.x.w (lanesFlags i.mask fun k => (g k).2.2)
    .done s1 (lanesOf i.ty fun k => if i.mask.has k.val then (g k).1 else 0)
  else .reserved

def opCvt : Op :=
  { opc := 0x0A0, res := resSame tyCvt, core := coreCvt
    form := fun t m => formFor tyCvt t (m % 8 == 0) fun T =>
      { a := .need (tyCvt.filter fun src => cvtOk src T (modRd m) (modFtz m)), b := .absent, c := .absent, pred := true, res := T, pass := .zero } }

/-- The width classes of `bitc` (R160). -/
def bitcClass (t : Ty) : List Ty :=
  if [Ty.i32, .n32, .f32, .sli32].contains t then [.i32, .n32, .f32, .sli32]
  else if [Ty.f16, .bf16, .sli16].contains t then [.f16, .bf16, .sli16]
  else [.i64, .n64, .addr]

def tyBitc : List Ty := [.i32, .n32, .i64, .n64, .f32, .f16, .bf16, .sli32, .sli16, .addr]

def opBitc : Op :=
  { opc := 0x0A1, res := resSame tyBitc
    form := fun t m => formFor tyBitc t (m == 0) fun T =>
      { a := .need (bitcClass T), b := .absent, c := .absent, pred := true, res := T, pass := .zero }
    core := fun i s => .done s (lanesOf i.ty fun k => i.a.nat k) }

/-! ## The format block's halves (02 R39) -/

/-- One operand half of a format block. -/
structure Half where
  scladdr : Nat
  tbladdr : Nat
  seed : BitVec 64
  tscale : Nat
  sstride : Nat
  fmt : Nat
  xform : Nat
  tsen : Bool
  blen : Nat
  rsv : Nat
deriving DecidableEq, Repr

/-- The fields of a half from its 256 bits. -/
def halfOf (x : Nat) : Half :=
  { scladdr := bitsOf x 255 192, tbladdr := bitsOf x 191 128, seed := BitVec.ofNat 64 (bitsOf x 127 64),
    tscale := bitsOf x 63 32, sstride := bitsOf x 31 16, fmt := bitsOf x 15 12, xform := bitsOf x 11 10,
    tsen := bitsOf x 9 9 == 1, blen := bitsOf x 8 7, rsv := bitsOf x 6 0 }

/-- The half of a fmt value: 0 A, 1 B. -/
def fmtHalf (fmt : Nat) (h : Nat) : Half := halfOf (fmt / 2 ^ (256 * h) % 2 ^ 256)

/-! ## The keyed transform (02 R34, R35) -/

/-- One step of the sign generator (R34). -/
def xsStep (s : BitVec 64) : BitVec 64 :=
  let a := s ^^^ (s <<< 13)
  let b := a ^^^ (a >>> 7)
  b ^^^ (b <<< 17)

/-- A linear map of 64-bit words, by the images of its single-bit words. -/
abbrev BitMap := List (BitVec 64)

def BitMap.app (m : BitMap) (x : BitVec 64) : BitVec 64 :=
  (m.zip (List.range 64)).foldl (fun a e => if x.getLsbD e.2 then a ^^^ e.1 else a) 0

def BitMap.sq (m : BitMap) : BitMap := m.map m.app

/-- The map of one step. -/
def xsMap : BitMap := (List.range 64).map fun k => xsStep (1#64 <<< k)

/-- n steps by repeated squaring of the map; the fuel is the number of bits of n. -/
def xsIter : Nat → Nat → BitMap → BitVec 64 → BitVec 64
  | 0, _, _, s => s
  | _ + 1, 0, _, s => s
  | f + 1, n, m, s => xsIter f (n / 2) m.sq (if n % 2 == 1 then m.app s else s)

/-- The sign word of K block b (R34). -/
def signWord (seed : BitVec 64) (b : Nat) : BitVec 32 :=
  (xsIter 34 (b + 1) xsMap (if seed == 0 then 1 else seed)).setWidth 32

/-- The exact sum and product, a NaN when invalid. -/
def exSum (x y : Exact) : Exact := (x.add 0 y).getD .nan
def exProd (x y : Exact) : Exact := (x.mul y).getD .nan
def exQuot (x y : Exact) : Exact := (exactDiv x y).1.getD .nan

/-- The constant 0x3E35_04F3 (R35). -/
def hadConst : Exact := (floatFmt .f32).value 0x3E3504F3

/-- Σj (−1)^popcount(j & k) × x[j], exactly. R35 gives no sign for an exact zero: it has the sign `z`, that
of R145's zero sums (DESIGN CHOICE, log entry 68). -/
def hadSum (z : Bool) (x : List Exact) (k : Nat) : Exact :=
  let u := ((List.range 32).zip x).foldl (fun u e =>
    exSum u (if popBits 6 (e.1 &&& k) % 2 == 1 then e.2.neg else e.2)) Exact.zero
  if u.isZero then .fin z 0 1 0 else u

/-- Is any of these a NaN or an infinity? -/
def anySpecial (xs : List Exact) : Bool := xs.any fun x => x.isNan || x.isInf

/-- `hdt(x, b, seed)` (R35). -/
def hdt (z : Bool) (x : List Exact) (b : Nat) (seed : BitVec 64) : List Exact :=
  if anySpecial x then List.replicate 32 .nan
  else
    let sw := signWord seed b
    let d := ((List.range 32).zip x).map fun e => if sw.getLsbD e.1 then e.2.neg else e.2
    (List.range 32).map fun k => exProd (hadSum z d k) hadConst

/-- The inverse transform of `hadm.inv` (07 R165), before rounding. -/
def hdtInv (z : Bool) (y : List Exact) (b : Nat) (seed : BitVec 64) : List Exact :=
  if anySpecial y then List.replicate 32 .nan
  else
    let sw := signWord seed b
    (List.range 32).map fun j =>
      let u := exProd (hadSum z y j) hadConst
      if sw.getLsbD j && !u.isZero then u.neg else u

/-! ## The companding curve (02 R36) -/

/-- A companding table: X and Y as exact values. -/
structure Compand where
  xs : List Exact
  ys : List Exact
deriving DecidableEq, Repr

def strictlyRising : List Exact → Bool
  | x :: y :: r => Exact.cmp x y < 0 && strictlyRising (y :: r)
  | _ => true

/-- The table of 136 bytes, none when it is not valid (R36). -/
def compandOf (bs : List Byte) : Option Compand :=
  let w (k : Nat) : Nat := ofLe ((bs.drop (4 * k)).take 4)
  let xs := (List.range 17).map fun k => (floatFmt .f32).value (w k)
  let ys := (List.range 17).map fun k => (floatFmt .f32).value (w (17 + k))
  if w 0 == 0 && w 17 == 0 && !anySpecial xs && !anySpecial ys && strictlyRising xs && strictlyRising ys then
    some { xs := xs, ys := ys }
  else none

/-- The curve on a magnitude: the segment's straight line, exactly. -/
def curve (xs ys : List Exact) (z : Exact) : Exact :=
  match z with
  | .nan => .nan
  | .inf _ => .inf false
  | .fin _ _ _ _ =>
    let i := ((List.range 16).filter fun i => 0 ≤ Exact.cmp z ((xs[i]?).getD .zero)).getLast?.getD 0
    let x0 := (xs[i]?).getD .zero
    let x1 := (xs[i + 1]?).getD .zero
    let y0 := (ys[i]?).getD .zero
    let y1 := (ys[i + 1]?).getD .zero
    exSum y0 (exQuot (exProd (exSum z x0.neg) (exSum y1 y0.neg)) (exSum x1 x0.neg))

/-- The curve with the sign carried through. -/
def signed (s : Bool) (x : Exact) : Exact := if s then x.neg else x

def Compand.fwd (c : Compand) (x : Exact) : Exact := signed x.sign (curve c.xs c.ys x.abs)
def Compand.inv (c : Compand) (x : Exact) : Exact := signed x.sign (curve c.ys c.xs x.abs)

/-- An element as operand fetch forms it under XFORM 2 (R36): an f32 rounded to nearest even, with no flag. -/
def Compand.fetch (c : Compand) (x : Exact) : Exact :=
  if x.isNan then .nan else (floatFmt .f32).value (rnd .f32 0 false (c.inv x)).1

/-- Read the companding table that a half names, when its transform is 2 (R37, R40; 07 R162). -/
def State.readTable (s : State) (x : Site) (h : Half) : Except OpRes (State × Option Compand) :=
  if h.xform != 2 then .ok (s, none)
  else if (s.tile x.tile).fenced 2 s.nextId then .error (.wait s)
  else if h.tbladdr % 8 != 0 then .error trapAlign
  else
    match s.readAcc x winsAll 8 [(h.tbladdr, 136)] with
    | .error r => .error r
    | .ok (s1, bs) =>
      match compandOf bs.flatten with
      | none => .error trapFormat
      | some c => .ok (s1, some c)

/-! ## Block scales (02 R30) -/

/-- emax of a format (R30). -/
def emaxOf (fmt : Nat) : Int := ([8, 15, 2, 4, 2, 6, 7, 2, 3][fmt]?).getD 0

/-- The magnitude order of finite values: their maximum. -/
def maxMag : List Exact → Exact
  | [] => .zero
  | x :: r => let m := maxMag r; if 0 < Exact.cmp x.abs m then x.abs else m

/-- The scale byte that the part chooses for a block (R30). -/
def scaleOf (xs : List Exact) (fmt : Nat) : Nat :=
  if anySpecial xs then 0xFF
  else
    match maxMag xs with
    | .fin _ n d e =>
      if n = 0 then 0 else (min 254 (max 0 (floorLog2 n d + e - emaxOf fmt + 127))).toNat
    | _ => 0xFF

/-! ## qz, xscl, dq, hadm (07 R161-R165) -/

/-- The half that MOD[0] names of the fmt operand b. -/
def OpIn.half (i : OpIn) : Half :=
  match i.mask.lowest with
  | some k => fmtHalf (i.b.nat k) (i.md % 2)
  | none => fmtHalf 0 0

/-- The block index: operand c in the lowest-numbered active lane (R161). -/
def OpIn.blk (i : OpIn) : Nat :=
  match i.mask.lowest with
  | some k => i.c.nat k
  | none => 0

/-- The block's inputs: in() of the active lanes, +0 elsewhere, and the flags of reading. -/
def OpIn.blockIn (i : OpIn) : List Exact × Nat :=
  let g (k : Fin 32) := if i.mask.has k.val then readIn i.a.ty (modFtz i.md) (i.a.nat k) else (Exact.zero, 0)
  ((List.finRange 32).map fun k => (g k).1, lanesFlags i.mask fun k => (g k).2)

/-- Steps of R163 up to the scale: the values, whether the tensor scale is bad, and e. -/
def quantBlock (h : Half) (z : Bool) (blk : Nat) (x : List Exact) : List Exact × Bool × Nat :=
  let t := (floatFmt .f32).value h.tscale
  let bad := h.tsen && (t.isNan || t.isInf || t.isZero)
  let x1 := if h.tsen && !bad then x.map fun v => exQuot v t else x
  let x2 := if h.xform == 1 then hdt z x1 blk h.seed else x1
  (x2, bad, if bad then 0xFF else scaleOf x2 h.fmt)

def coreQuant (scaleOnly : Bool) (i : OpIn) (s : State) : OpRes :=
  if i.mask == 0 then .done s (Value.zero .n32)
  else
    let h := i.half
    if 8 < h.fmt then trapFormat
    else
      match s.readTable i.x h with
      | .error r => r
      | .ok (s1, tab) =>
        let rd := modRd i.md
        let inp := i.blockIn
        let q := quantBlock h (rd == 3) i.blk inp.1
        let code (k : Fin 32) : Nat × Nat :=
          if q.2.2 == 0xFF then (0, 0)
          else
            let v := ((q.1[k.val]?).getD .zero).scale (127 - (q.2.2 : Int))
            toFmt (match tab with | some c => c.fwd v | none => v) (elemFmt h.fmt) rd
        let fl := inp.2 ||| (if q.2.1 then fIV else 0)
        if scaleOnly then .done (s1.orIeee i.x.w fl) (lanesOf .n32 fun _ => q.2.2)
        else
          .done (s1.orIeee i.x.w (fl ||| lanesFlags i.mask fun k => (code k).2))
            (lanesOf .n32 fun k => if i.mask.has k.val then (code k).1 + 256 * q.2.2 else 0)

def quantOp (opc : Nat) (scaleOnly : Bool) (ok : Nat → Bool) : Op :=
  { opc := opc, res := resFixed [.n32] .n32, core := coreQuant scaleOnly
    form := fun t m => formFor [.n32] t (ok m) fun T =>
      { a := .need tyFlt, b := .need [.fmt], c := .need [.n32], pred := true, res := T, pass := .zero } }

def opQz : Op := quantOp 0x0A2 false fun m => m % 8 ≤ 1
def opXscl : Op := quantOp 0x0A6 true fun m => m % 8 ≤ 1 && m / 16 == 0

/-- `dq` of one lane (R164). T is read as it stands: a signalling NaN in it raises no flag (DESIGN CHOICE, log entry 70). -/
def dqLane (t : Ty) (rd : Nat) (ftz : Bool) (h : Half) (tab : Option Compand) (a : Nat) : Nat × Nat :=
  let e := a / 256 % 256
  let v := decodeElem (elemFmt h.fmt) a
  if e == 0xFF || v.isNan then ((floatFmt t).nanBits, 0)
  else
    let w := match tab with | some c => c.fetch v | none => v
    let ts := if h.tsen then (floatFmt .f32).value h.tscale else Exact.one
    rndOpt t rd ftz ((ts.mul w).map fun y => y.scale ((e : Int) - 127))

def coreDq (i : OpIn) (s : State) : OpRes :=
  if i.mask == 0 then .done s (Value.zero i.ty)
  else
    let h := i.half
    if 8 < h.fmt then trapFormat
    else
      match s.readTable i.x h with
      | .error r => r
      | .ok (s1, tab) => doneIeee i.ty i s1 fun k => dqLane i.ty (modRd i.md) (modFtz i.md) h tab (i.a.nat k)

def opDq : Op :=
  { opc := 0x0A3, res := resSame tyFlt, core := coreDq
    form := fun t m => formFor tyFlt t (m % 8 ≤ 1) fun T =>
      { a := .need [.n32], b := .need [.fmt], c := .absent, pred := true, res := T, pass := .zero } }

def coreHadm (i : OpIn) (s : State) : OpRes :=
  if i.mask == 0 then .done s (Value.zero i.ty)
  else
    let h := i.half
    let inv := i.md / 2 % 2 == 1
    let rd := modRd i.md
    let ftz := modFtz i.md
    let inp := i.blockIn
    if h.xform == 1 then
      let y := if inv then hdtInv (rd == 3) inp.1 i.blk h.seed else hdt (rd == 3) inp.1 i.blk h.seed
      let fl := inp.2 ||| (if inp.1.any Exact.isInf then fIV else 0)
      doneIeee .f32 i (s.orIeee i.x.w fl) fun k => rnd .f32 rd ftz ((y[k.val]?).getD .zero)
    else
      match s.readTable i.x h with
      | .error r => r
      | .ok (s1, tab) =>
        doneIeee .f32 i s1 fun k =>
          let x := readIn .f32 ftz (i.a.nat k)
          match tab with
          | none => (deliver .f32 x.1, x.2)
          | some c =>
            if x.1.isNan then ((floatFmt .f32).nanBits, x.2)
            else let r := rnd .f32 rd ftz (if inv then c.inv x.1 else c.fwd x.1); (r.1, r.2 ||| x.2)

def opHadm : Op :=
  { opc := 0x0A7, res := resSame [.f32], core := coreHadm
    form := fun t m => formFor [.f32] t (m % 8 ≤ 3) fun T =>
      { a := .need [T], b := .need [.fmt], c := .need [.n32], pred := true, res := T, pass := .opA } }

/-! ## pkn and upkn (R166) -/

/-- The width of a width code. -/
def packWidth (m : Nat) : Nat := ([8, 6, 4][m]?).getD 8

/-- The packed row of the 32 lanes' codes. -/
def packRow (w : Nat) (a : Value) : Nat :=
  (List.finRange 32).foldl (fun r k => r + (a.nat k % 2 ^ w) * 2 ^ (k.val * w)) 0

/-- The row that lanes 0 to w − 1 hold. -/
def rowOfLanes (w : Nat) (a : Value) : Nat :=
  (List.finRange 32).foldl (fun r k => if k.val < w then r + a.nat k * 2 ^ (32 * k.val) else r) 0

def opPkn : Op :=
  { opc := 0x0A4, res := resFixed [.n32] .n32
    form := fun t m => formFor [.n32] t (m ≤ 2) fun T =>
      { a := .need [.n32], b := .absent, c := .absent, pred := true, res := T, pass := .zero }
    core := fun i s =>
      let w := packWidth i.md
      let r := packRow w i.a
      .done s (lanesOf .n32 fun k => if k.val < w then r / 2 ^ (32 * k.val) % 2 ^ 32 else 0) }

def opUpkn : Op :=
  { opc := 0x0A5, res := resSame tyInt32
    form := fun t m => formFor tyInt32 t (m ≤ 2) fun T =>
      { a := .need [.n32], b := .absent, c := .absent, pred := true, res := T, pass := .zero }
    core := fun i s =>
      let w := packWidth i.md
      let r := rowOfLanes w i.a
      .done s (lanesOf i.ty fun k =>
        let x := r / 2 ^ (k.val * w) % 2 ^ w
        if i.ty == .i32 && 2 ^ (w - 1) ≤ x then x + (2 ^ 32 - 2 ^ w) else x) }

def execCvt (f : Fields) (s : State) : Host.Outcome State Fault Refusal := runOp opCvt f s
def execBitc (f : Fields) (s : State) : Host.Outcome State Fault Refusal := runOp opBitc f s
def execQz (f : Fields) (s : State) : Host.Outcome State Fault Refusal := runOp opQz f s
def execDq (f : Fields) (s : State) : Host.Outcome State Fault Refusal := runOp opDq f s
def execPkn (f : Fields) (s : State) : Host.Outcome State Fault Refusal := runOp opPkn f s
def execUpkn (f : Fields) (s : State) : Host.Outcome State Fault Refusal := runOp opUpkn f s
def execXscl (f : Fields) (s : State) : Host.Outcome State Fault Refusal := runOp opXscl f s
def execHadm (f : Fields) (s : State) : Host.Outcome State Fault Refusal := runOp opHadm f s

end Sys2Proof.Machine
end

