-- ==== Sys2Proof/Machine/Matrix.lean ====
section
/-!
DEFINITION. The matrix group (08 R175-R188) and `ld.frag` (13 R271): format blocks, matrix products from their issue to
their completion, and the moves between tiles, fragments and lanes.
-/

namespace Sys2Proof.Machine

open Sys2Proof

/-! ## Fragments and format blocks (R175, R176; 02 R37-R40) -/

/-- A lane of a frag: its row's bytes as a number, and FBA. -/
def fragLane (row fba : Nat) : Nat := row % 2 ^ 1536 + fba % 2 ^ 64 * 2 ^ 1536
def fragRow (x : Nat) : Nat := x % 2 ^ 1536
def fragFba (x : Nat) : Nat := x / 2 ^ 1536 % 2 ^ 64

/-- The element width that counts for K (R176), and the bytes of a 32-element block. -/
def elemWidth (fmt : Nat) : Nat := ([8, 8, 6, 6, 4, 8, 8, 4, 4, 8, 16, 16][fmt]?).getD 8
def blockBytes (fmt : Nat) : Nat := ([32, 32, 24, 24, 16, 32, 32, 16, 16, 8, 64, 64][fmt]?).getD 32

/-- K of a product, and an operand's row length in bytes (R176). -/
def prodK (fa fb : Nat) : Nat := 1536 / max (elemWidth fa) (elemWidth fb)
def rowBytes (fmt k : Nat) : Nat := k / 32 * blockBytes fmt

/-- A reserved field of a half (R40): SCLADDR, SSTRIDE and BLEN are ignored for FMT 10 and 11. -/
def Half.reserved (h : Half) : Bool :=
  h.rsv != 0 || 12 ≤ h.fmt || h.xform == 3 || 2 ^ 56 ≤ h.tbladdr ||
    (h.fmt < 10 && (h.blen != 1 || 2 ^ 56 ≤ h.scladdr))

/-- A format error of a half (R37, R39). -/
def Half.formatError (h : Half) : Bool :=
  (h.fmt == 9 && (h.xform == 1 || h.xform == 2)) || (10 ≤ h.fmt && h.xform != 0)

/-- Is the table that a half reads misaligned (R40)? -/
def Half.tableOff (h : Half) : Bool := (h.fmt == 9 && h.tbladdr % 256 != 0) || (h.xform == 2 && h.tbladdr % 8 != 0)

/-- The checks of a format block's own fields, in their order (R37, R40), with one more between the reserved and the
format checks: the declared format of a product. -/
def blockTrap (fmt : Nat) (declared : Bool) : Option OpRes :=
  let a := fmtHalf fmt 0
  let b := fmtHalf fmt 1
  if a.reserved || b.reserved then some .reserved
  else if !declared then some trapFormat
  else if a.formatError || b.formatError then some trapFormat
  else if a.tableOff || b.tableOff then some trapAlign
  else none

/-- The requests of the tile-fetch path count in no vault completion counter (11 R238); a read of global memory at issue counts for
the long-latency rule (09 R209). -/
def State.keepVcnt (s s0 : State) (w : WaveRef) : State :=
  match s0.wave? w with
  | some x0 => s.modWave w fun x => { x with vcnt := x0.vcnt, vuse := x0.vuse }
  | none => s

/-- Read a format block at an address: its bits, on the lane path (R179) or on the tile-fetch path (02 R41). -/
def State.readBlock (s : State) (x : Site) (lane : Bool) (va : Nat) : Except OpRes (State × Nat) :=
  match s.readAcc x winsAll 64 [(va, 64)] with
  | .error r => .error r
  | .ok (s1, bs) =>
    let r : State × Nat := (if lane then s1 else s1.keepVcnt s x.w, ofLe bs.flatten)
    .ok r

/-- Read a format block at the issue of an instruction that takes it through the tile-fetch path (02 R41): one aligned 16-byte quarter at
each attempt, so that stores of others may fall between; the instruction goes on once it has all four. -/
def State.fetchBlock (s : State) (x : Site) (va : Nat) : Except OpRes (State × Nat) :=
  match s.readBlock x false va with
  | .error r => .error r
  | .ok (s1, b) =>
    let k := x.wave.quarters.length
    let qs := x.wave.quarters ++ [bitsOf b (128 * k + 127) (128 * k)]
    let s2 := s1.modWave x.w fun w => { w with quarters := if k < 3 then qs else [] }
    let whole := qs[0]?.getD 0 + 2 ^ 128 * qs[1]?.getD 0 + 2 ^ 256 * qs[2]?.getD 0 + 2 ^ 384 * qs[3]?.getD 0
    if k < 3 then .error (.wait s2) else .ok (s2, whole)

/-- An operand in the lowest-numbered active lane of an instruction. -/
def OpIn.low (i : OpIn) (v : Value) : Nat :=
  match i.mask.lowest with
  | some k => v.nat k
  | none => 0

/-- `fmtld` (R179): the block in every lane (04 R73) that holds a path; zero in the others (09 R201). -/
def coreFmtld (i : OpIn) (s : State) : OpRes :=
  if i.mask == 0 then .done s (Value.zero .fmt)
  else
    match s.readBlock i.x true (i.low i.a) with
    | .error r => r
    | .ok (s1, b) =>
      match blockTrap b true with
      | some r => r
      | none => .done s1 (splat .fmt b)

def opFmtld : Op :=
  { opc := 0x11D, res := resFixed [.fmt] .fmt, core := coreFmtld
    form := fun t m => formFor [.fmt] t (m == 0) fun _ =>
      { a := .need [.addr], b := .absent, c := .absent, pred := true, res := .fmt, pass := .everyPath } }

/-- `ld.frag` (13 R271). -/
def coreLdFrag (i : OpIn) (s : State) : OpRes :=
  if i.mask == 0 then .done s (Value.zero .frag)
  else
    let fb := i.low i.b
    match s.readBlock i.x true fb with
    | .error r => r
    | .ok (s1, b) =>
      match blockTrap b true with
      | some r => r
      | none =>
        let h := fmtHalf b (i.md % 2)
        let n := rowBytes h.fmt (prodK (fmtHalf b 0).fmt (fmtHalf b 1).fmt)
        match s1.readAcc i.x winsAll 16 (i.laneAcc n) with
        | .error r => r
        | .ok (s2, bs) =>
          .done s2 (lanesOf .frag fun k =>
            fragLane (if i.mask.has k.val then ofLe ((pickLane i.mask bs k).getD []) else 0) fb)

def opLdFrag : Op :=
  { opc := 0x0E4, res := resFixed [.frag] .frag, core := coreLdFrag
    form := fun t m => formFor [.frag] t (m / 2 % 8 == 0) fun _ =>
      { a := .need [.addr], b := .need [.addr], c := .absent, pred := true, res := .frag, pass := .everyPath } }

/-- Row i of a tile converted into 64 bytes of a fragment, and its flags (R188). -/
def tcvtRow (t : Ty) (rd : Nat) (ftz : Bool) (row : Nat) : Nat × Nat :=
  let es := (List.range 32).map fun j =>
    let x := readIn .f32 ftz (tileElem row j)
    let r := rnd t rd ftz x.1
    (r.1, r.2 ||| x.2)
  (ofLe (es.flatMap fun e => leBytes 2 e.1), es.foldl (fun a e => a ||| e.2) 0)

/-- A lane's row with the bytes of a slot replaced. -/
def putSlot (row slot bits : Nat) : Nat :=
  let lo := row % 2 ^ (512 * slot)
  lo + bits % 2 ^ 512 * 2 ^ (512 * slot) + row / 2 ^ (512 * (slot + 1)) * 2 ^ (512 * (slot + 1))

/-- `tcvt` (R188). -/
def coreTcvt (i : OpIn) (s : State) : OpRes :=
  if i.mask == 0 then .done s (if i.c.ty == .frag then i.c else Value.zero .frag)
  else
    let b := i.low i.b
    if i.x.wave.quarters == [] && (s.tile i.tile).fenced 2 s.nextId then .wait s
    else
      match s.fetchBlock i.x b with
      | .error r => r
      | .ok (s1, blk) =>
        match blockTrap blk true with
        | some r => r
        | none =>
          let h := fmtHalf blk (i.md / 4 % 2)
          if h.fmt != 10 && h.fmt != 11 then trapFormat
          else
            let t : Ty := if h.fmt == 10 then .bf16 else .f16
            let r (k : Fin 32) : Nat × Nat := tcvtRow t (i.md / 16) (i.md / 8 % 2 == 1) (i.a.nat k)
            .done (s1.orIeee i.x.w (lanesFlags i.mask fun k => (r k).2)) (lanesOf .frag fun k =>
              let row := if i.c.ty == .frag then fragRow (i.c.nat k) else 0
              fragLane (if i.mask.has k.val then putSlot row (i.md % 4) (r k).1 else row) b)

def opTcvt : Op :=
  { opc := 0x11E, res := resFixed [.frag] .frag, core := coreTcvt
    form := fun t m => formFor [.frag] t (m % 4 != 3) fun _ =>
      { a := .need [.tile], b := .need [.addr], c := .may [.frag], pred := true, res := .frag, pass := .everyPath } }

/-! ## Tiles (R187) -/

def opTzero : Op :=
  { opc := 0x11A, res := resFixed [.tile] .tile, core := fun _ s => .done s (Value.zero .tile)
    form := fun t m => formFor [.tile] t (m == 0) fun _ =>
      { a := .absent, b := .absent, c := .absent, pred := false, res := .tile, pass := .zero } }

/-- The types of `textr` and `tins`. -/
def tyTelem : List Ty := [.i32, .n32, .f32]

def opTextr : Op :=
  { opc := 0x11B, res := resSame tyTelem
    core := fun i s => .done s (lanesOf i.ty fun k => tileElem (i.a.nat k) (i.b.nat k % 32))
    form := fun t m => formFor tyTelem t (m == 0) fun T =>
      { a := .need [.tile], b := .need [.n32], c := .absent, pred := true, res := T, pass := .zero } }

/-- A row with one element replaced. -/
def putElem (row j v : Nat) : Nat :=
  row % 2 ^ (32 * j) + v % 2 ^ 32 * 2 ^ (32 * j) + row / 2 ^ (32 * (j + 1)) * 2 ^ (32 * (j + 1))

def opTins : Op :=
  { opc := 0x11C, res := resFixed [.tile] .tile
    core := fun i s => .done s (lanesOf .tile fun k => putElem (i.a.nat k) (i.c.nat k % 32) (i.b.nat k))
    form := fun t m => formFor [.tile] t (m == 0) fun _ =>
      { a := .need [.tile], b := .need tyTelem, c := .need [.n32], pred := true, res := .tile, pass := .opA } }

/-! ## The matrix product at issue (R180) -/

/-- The address of the format block of operand a: that of the lowest-numbered active lane. -/
def OpIn.fba (i : OpIn) : Nat := fragFba (i.low i.a)

/-- The bytes of a B column of `mma.l2`. -/
def l2Bytes (blk : Nat) : Nat := rowBytes (fmtHalf blk 1).fmt (prodK (fmtHalf blk 0).fmt (fmtHalf blk 1).fmt)

/-- The checks of R180 that follow those of the block's own fields. -/
def productTrap (i : OpIn) (l2 : Bool) (blk : Nat) : Option OpRes :=
  let a := fmtHalf blk 0
  let b := fmtHalf blk 1
  let int (h : Half) : Bool := 5 ≤ h.fmt && h.fmt ≤ 8 && !h.tsen
  if i.md % 2 == 1 && !(int a && int b) then some trapFormat
  else if l2 && (List.finRange 32).any fun k => i.b.nat k % 16 != 0 then some trapAlign
  else if l2 && (List.finRange 32).any fun k =>
      2 ^ 56 ≤ i.b.nat k || !isGlobal (i.b.nat k) || !isGlobal (i.b.nat k + l2Bytes blk - 1) then some trapBounds
  else none

/-- `mma` and `mma.l2` at issue (R180): the format block is read and checked; the product is then in flight. A fence holds an op that has not
begun to read its block (12 R258). A product that follows one that a fault ended is counted (14 R306); a product in native code is
issued again in the portable form, which meets the fault. -/
def coreMma (l2 : Bool) (i : OpIn) (s : State) : OpRes :=
  if i.mask == 0 then .done s i.c
  else if (i.x.wave.quarters == [] && (s.tile i.tile).fenced 2 s.nextId) || !s.paceOk i.tile 2 (i.gaps s).pmma then .wait s
  else
    let s0 := if i.x.wave.replay then (i.modWave s fun w => { w with replay := false }).countCluster i.tile.cluster 0x27 else s
    match s0.fetchBlock i.x i.fba with
    | .error (.page s1 va wr) => .page (i.modWave s1 fun w => { w with replay := w.native.isNone }) va wr
    | .error r => r
    | .ok (s1, blk) =>
      match blockTrap blk ((fmtHalf blk 0).fmt == i.md / 2 % 16) with
      | some r => r
      | none =>
        match productTrap i l2 blk with
        | some r => r
        | none =>
          let g : Staged :=
            { id := s1.nextId, l2 := l2, md := i.f.md, mask := i.mask, a := i.a, b := i.b, c := i.c,
              fmt := BitVec.ofNat 512 blk, fetched := [] }
          .wait { i.modWave (s1.noteStart i.tile 2) fun w => { w with staged := some g, mode := .mma } with nextId := s1.nextId + 1 }

def mmaOp (opc : Nat) (l2 : Bool) : Op :=
  { opc := opc, res := resFixed [.tile] .tile, core := coreMma l2
    form := fun t m => formFor [.tile] t (m / 2 % 16 < 12) fun _ =>
      { a := .need [.frag], b := .need [if l2 then .addr else .frag], c := .need [.tile], pred := true, res := .tile,
        pass := .opC } }

def opMma : Op := mmaOp 0x118 false
def opMmaL2 : Op := mmaOp 0x119 true

def execLdFrag (f : Fields) (s : State) : Host.Outcome State Fault Refusal := runOp opLdFrag f s
def execFmtld (f : Fields) (s : State) : Host.Outcome State Fault Refusal := runOp opFmtld f s
def execTcvt (f : Fields) (s : State) : Host.Outcome State Fault Refusal := runOp opTcvt f s
def execTzero (f : Fields) (s : State) : Host.Outcome State Fault Refusal := runOp opTzero f s
def execTextr (f : Fields) (s : State) : Host.Outcome State Fault Refusal := runOp opTextr f s
def execTins (f : Fields) (s : State) : Host.Outcome State Fault Refusal := runOp opTins f s
def execMma (f : Fields) (s : State) : Host.Outcome State Fault Refusal := runOp opMma f s
def execMmaL2 (f : Fields) (s : State) : Host.Outcome State Fault Refusal := runOp opMmaL2 f s

/-! ## What the product reads while it runs (R183) -/

/-- The bytes that a product reads of one half: its table, the scales of its lines, and the columns of `mma.l2`. -/
def Staged.reads (g : Staged) : List (Nat × Nat) :=
  let fmt := g.fmt.toNat
  let nb := prodK (fmtHalf fmt 0).fmt (fmtHalf fmt 1).fmt / 32
  let half (h : Half) (lines : List (Fin 32)) : List (Nat × Nat) :=
    (if h.fmt == 9 then [(h.tbladdr, 1024)] else if h.xform == 2 then [(h.tbladdr, 136)] else []) ++
      (if h.fmt < 10 then lines.map fun k => (h.scladdr + k.val * h.sstride, nb) else [])
  half (fmtHalf fmt 0) g.mask.list ++ half (fmtHalf fmt 1) (List.finRange 32) ++
    (if g.l2 then (List.finRange 32).map fun k => (g.b.nat k, l2Bytes fmt) else [])

/-- The aligned 16-byte chunks of those bytes. -/
def Staged.chunks (g : Staged) : List Nat :=
  (g.reads.flatMap fun e => (List.range ((e.1 % 16 + e.2 + 15) / 16)).map fun j => e.1 / 16 * 16 + 16 * j).eraseDups

/-- Read one chunk on the tile-fetch path. -/
def State.fetchChunk (s : State) (x : Site) (va : Nat) : Except OpRes (State × List Byte) :=
  match s.access x winsAll 16 true false [(va, 16)] with
  | .error r => .error r
  | .ok (s1, sp) =>
    if s1.anyPoison sp then .error (.poison s1)
    else
      let r : State × List Byte := ({ s with tlb := s1.tlb, walks := s1.walks, spareFrames := s1.spareFrames, mem := s1.mem }, (sp.map s1.readSpans).flatten)
      .ok r

/-- The product of a wave in flight ends with no effect (R184): its fault or trap is the wave's. -/
def State.endProduct (s : State) (x : Site) (m : LaneMask) (r : OpRes) : State :=
  let y := { x.wave with staged := none, mode := .run }
  match r with
  | .page s1 va wr =>
    let z := { y with replay := y.native.isNone }
    (s1.setWave x.w z).takePageFault { x with wave := z } m va wr
  | .poison s1 => s1.raise (.tileFault x.tile 4)
  | .trap k codes => (s.setWave x.w y).takeParkTrap { x with wave := y } m k codes
  | _ => s

/-- The tile fetch unit reads a chunk of a product in flight, at a position of its own (12 R255). -/
def State.fetchFor (s0 : State) (w : WaveRef) (va : Nat) : State :=
  let needs (g : Staged) : Bool := g.chunks.contains va && !(g.fetched.any fun e => e.1 == va)
  let s := s0.focusOn w fun _ g => match g with | some g => needs g | none => false
  match s.site? w with
  | none => s0
  | some x =>
    match x.wave.staged with
    | none => s0
    | some g =>
      if !needs g || (s.tile x.tile).fenced 2 g.id then s0
      else
        match s.fetchChunk x va with
        | .error r => s.endProduct x g.mask r
        | .ok (s1, bs) => (s1.modWave w fun y => { y with staged := some { g with fetched := (va, bs) :: g.fetched } }).settleFocus w

/-- The bytes at an address from chunks that have been read. -/
def fromChunks (cs : List (Nat × List Byte)) (va n : Nat) : List Byte :=
  (List.range n).map fun j =>
    let a := va + j
    match cs.find? fun e => e.1 == a / 16 * 16 with
    | some (_, bs) => (bs[a % 16]?).getD 0#8
    | none => 0#8

/-! ## The product (R181, R182) -/

/-- Every finite element is a whole multiple of 2^elemUnit. -/
def elemUnit : Int := -160

/-- A line of an operand: its elements in units of 2^elemUnit by block, its scale bytes, its infinite elements (index,
negative), whether an element or a scale byte makes it NaN. -/
structure Line where
  z : List (List Int)
  sc : List Nat
  inf : List (Nat × Bool)
  nan : Bool
deriving DecidableEq, Repr

/-- Element k of a packed row (R25). -/
def packedElem (row w k : Nat) : Nat := row / 2 ^ (w * k) % 2 ^ w

/-- Coordinate j of a q2c index's point (02 R32), times 4. -/
def q2cElem (word idx j : Nat) : Int :=
  let c0 : Nat := word / 2 ^ (4 * j) % 16
  let c : Int := if 8 ≤ c0 then (c0 : Int) - 16 else c0
  let par := ((List.range 7).map fun k => idx / 2 ^ (k + 1) % 2).sum % 2
  let flip := if j < 7 then idx / 2 ^ (j + 1) % 2 else par
  (if flip == 1 then -c else c) * 4 + (if idx % 2 == 1 then 1 else 0)

/-- The elements of a line as exact values (R181, elt). -/
def lineElems (h : Half) (ftz : Bool) (row k : Nat) (table : List Byte) (tab : Option Compand) : List Exact :=
  (List.range k).map fun j =>
    if h.fmt == 9 then
      let idx := row / 2 ^ (16 * (j / 8)) % 2 ^ 16
      let word := ofLe ((table.drop (4 * (idx / 256))).take 4)
      (Exact.ofInt (q2cElem word idx (j % 8))).scale (-2)
    else if h.fmt == 10 then (readIn .bf16 ftz (packedElem row 16 j)).1
    else if h.fmt == 11 then (readIn .f16 ftz (packedElem row 16 j)).1
    else
      let v := decodeElem (elemFmt h.fmt) (packedElem row (elemWidth h.fmt) j)
      match tab with
      | some c => c.fetch v
      | none => v

/-- A finite element in units of 2^elemUnit. -/
def inUnits (x : Exact) : Int :=
  match x with
  | .fin _ _ _ _ => x.numOver 1 elemUnit
  | _ => 0

/-- A list cut into parts of 32. -/
def blocksOf {α : Type} (xs : List α) (n : Nat) : List (List α) := (List.range n).map fun b => (xs.drop (32 * b)).take 32

def lineOf (es : List Exact) (sc : List Nat) : Line :=
  let idx := (List.range es.length).zip es
  { z := blocksOf (es.map inUnits) (es.length / 32), sc := sc,
    inf := idx.filterMap fun e => match e.2 with | .inf s => some (e.1, s) | _ => none,
    nan := es.any Exact.isNan || sc.any fun b => b == 0xFF }

/-- The line's element k as a sign: 0 zero, else its sign. -/
def Line.signAt (l : Line) (k : Nat) : Int :=
  match l.inf.find? fun e => e.1 == k with
  | some (_, s) => if s then -1 else 1
  | none => ((((l.z[k / 32]?).getD [])[k % 32]?).getD 0).sign

/-- The sum S of R181 before the tensor scales. -/
def dot (a b : Line) : Exact :=
  if a.nan || b.nan then .nan
  else
    let ks := (a.inf.map fun e => e.1) ++ b.inf.map fun e => e.1
    if ks == [] then
      let terms := (List.range a.z.length).map fun q =>
        let blk := (((a.z[q]?).getD []).zip ((b.z[q]?).getD [])).foldl (fun acc e => acc + e.1 * e.2) (0 : Int)
        blk * (2 ^ (((a.sc[q]?).getD 127) + ((b.sc[q]?).getD 127)) : Nat)
      (Exact.ofInt (terms.foldl (fun acc e => acc + e) 0)).scale (2 * elemUnit - 254)
    else
      let ss := ks.map fun k => a.signAt k * b.signAt k
      if ss.contains 0 || (ss.contains 1 && ss.contains (-1)) then .nan else .inf (ss.contains (-1))

/-- The tensor scale of a half (R181, ts). -/
def tensorScale (h : Half) : Exact := if h.tsen then (floatFmt .f32).value h.tscale else Exact.one

/-- S with the tensor scales; an exact zero is +0. -/
def scaled (s ta tb : Exact) : Exact :=
  let v := exProd (exProd ta tb) s
  if v.isZero then Exact.zero else v

/-- `rne_int` of a finite value. -/
def rneInt (x : Exact) : Int :=
  match x with
  | .fin s n d e =>
    let r := (roundAt 0 s n d e 0).1
    if s then -(r : Int) else r
  | _ => 0

/-- One element of the result (R181, R182). `unbounded`: the value with the i32 accumulator where an element is infinite, which R182 leaves
out (DESIGN CHOICE, log entry 72). -/
def accumulate (int ftz : Bool) (c : Nat) (s : Exact) (unbounded : Option Nat) : Nat :=
  if int then
    match unbounded with
    | some v => v
    | none =>
    if s.isNan then 0x80000000 else satTo .i32 (rneInt (exSum (Exact.ofInt (toInt .i32 c)) s))
  else
    let x := (readIn .f32 ftz c).1
    if x.isNan || s.isNan then (floatFmt .f32).nanBits else (rndOpt .f32 0 ftz (x.add 0 s)).1

/-- The whole product from what has been read: the tile, or trap(FORMAT) for a companding table that is not valid. -/
def Staged.product (g : Staged) (cs : List (Nat × List Byte)) : Option Value :=
  let fmt := g.fmt.toNat
  let ha := fmtHalf fmt 0
  let hb := fmtHalf fmt 1
  let k := prodK ha.fmt hb.fmt
  let ftz := g.md.toNat / 32 == 1
  let table (h : Half) : List Byte := if h.fmt == 9 then fromChunks cs h.tbladdr 1024 else []
  let tab (h : Half) : Option (Option Compand) :=
    if h.xform == 2 then (compandOf (fromChunks cs h.tbladdr 136)).map some else some none
  match tab ha, tab hb with
  | some pa, some pb =>
    let scales (h : Half) (i : Nat) : List Nat :=
      if h.fmt < 10 then (fromChunks cs (h.scladdr + i * h.sstride) (k / 32)).map BitVec.toNat else List.replicate (k / 32) 127
    let col (j : Fin 32) : Nat := if g.l2 then ofLe (fromChunks cs (g.b.nat j) (l2Bytes fmt)) else fragRow (g.b.nat j)
    let bl := (List.finRange 32).map fun j => lineOf (lineElems hb ftz (col j) k (table hb) pb) (scales hb j.val)
    let ta := tensorScale ha
    let tb := tensorScale hb
    some (lanesOf .tile fun i =>
      if !g.mask.has i.val then g.c.nat i
      else
        let al := lineOf (lineElems ha ftz (fragRow (g.a.nat i)) k (table ha) pa) (scales ha i.val)
        ((List.range 32).zip bl).foldl (fun acc e =>
          acc + accumulate (g.md.toNat % 2 == 1) ftz (tileElem (g.c.nat i) e.1) (scaled (dot al e.2) ta tb)
            (if !al.nan && !e.2.nan && (al.inf != [] || e.2.inf != []) then some (Config.unboundedSum g.id i.val e.1).toNat else none)
              * 2 ^ (32 * e.1)) 0)
  | _, _ => none

/-- Read the chunks that have not been read yet. -/
def State.fetchRest (s : State) (x : Site) (got : List (Nat × List Byte)) :
    List Nat → Except OpRes (State × List (Nat × List Byte))
  | [] => .ok (s, got)
  | va :: r =>
    if got.any fun e => e.1 == va then State.fetchRest s x got r
    else
      match s.fetchChunk x va with
      | .error e => .error e
      | .ok (s1, bs) => State.fetchRest s1 x ((va, bs) :: got) r

/-- MMA_COMPLETE (R181, R184): what the product has still to read is read, and its result is written whole, or the
instruction ends with no effect. -/
def execMmaComplete (w : WaveRef) (s0 : State) : Host.Outcome State Fault Refusal :=
  let s := s0.focusOn w fun m _ => m == .mma
  match s.site? w with
  | none => .next s0
  | some x =>
    match x.wave.staged with
    | none => .next s0
    | some g =>
      if x.wave.mode != .mma || (s.tile x.tile).fenced 2 g.id then .next s0
      else
        match s.fetchRest x g.fetched g.chunks with
        | .error r => .next (s.endProduct x g.mask r)
        | .ok (s1, cs) =>
          match g.product cs with
          | none => .next (s.endProduct x g.mask trapFormat)
          | some v =>
            .next ((s1.modWave w fun y => { y with staged := none }).release w (if g.l2 then 0x119 else 0x118) (x.inLanes v))

end Sys2Proof.Machine
end

