-- ==== Sys2Proof/Machine/Row.lean ====
section
/-!
DEFINITION. The row engine (08 R189-R194): the notes and their checks, the order in which they start, and what they
compute.
-/

namespace Sys2Proof.Machine

open Sys2Proof

/-! ## The commands (R189, R190) -/

/-- Does an address lie in the vault above the issuing tile's cluster, through either window (R190)? -/
def Site.aboveUs (x : Site) (va : Nat) : Bool :=
  winOf va == .die || (winOf va == .all && bitsOf va 31 29 == x.block.die && bitsOf va 28 24 == x.block.tile / 4)

/-- The memory key of a range of n bytes in the vault above the issuing tile's cluster, through either window, when it
passes the window checks (R190). -/
def State.rowKey (s : State) (x : Site) (va n : Nat) : Option Nat :=
  let last := va + n - 1
  if 2 ^ 56 ≤ va || winOf va != winOf last || !x.aboveUs va || !x.aboveUs last then none
  else
    match s.vaultAccess x va 1, s.vaultAccess x last 1 with
    | .ok k, .ok k' => if k' == k + n - 1 then some k else none
    | _, _ => none

/-- Do two ranges share a byte? -/
def rangesMeet (a n b m : Nat) : Bool := decide (a < b + m ∧ b < a + n)

/-- The bytes of an element. -/
def elemBytes (bf : Bool) : Nat := if bf then 2 else 4

/-- Commands of a tile's row queue that have not started. -/
def Tile.rowWaiting (t : Tile) : Nat := (t.rowQ.filter fun c => c.start.isNone).length

/-- Enqueue a command, or wait while the queue is full. -/
def State.enqueueRow (s : State) (i : OpIn) (c : RowCmd) : OpRes :=
  if 16 ≤ (s.tile i.tile).rowWaiting then .wait s
  else
    let c1 := { c with id := s.nextId, arrive := s.engNow i.tile + 1 }
    doneVoid { s.modTile i.tile fun t => { t with rowQ := t.rowQ ++ [c1] } with nextId := s.nextId + 1 }

/-- A command of the issuing wave with its captured row configuration. -/
def OpIn.rowCmd (i : OpIn) (u : RowUnit) : RowCmd :=
  { id := 0, unit := u, by_ := i.issuer, ctx := i.x.launch.ctx, bf := i.md % 2 == 1, row := 0, recVa := 0, out := 0, n := 0,
    tau := i.x.wave.tau, gap := 0, key := 0, arrive := 0, start := none, fin := 0, got := [], outs := none, status := 0 }

/-- A note (R190). -/
def coreNote (u : RowUnit) (i : OpIn) (s : State) : OpRes :=
  let row := i.uni i.a
  let rc := i.uni i.b
  let n := i.uni i.c
  let bf := i.md % 2 == 1
  let es := elemBytes bf
  let base := u == .base
  let ofs := toInt .i32 i.x.wave.ofs.toNat
  let out := ((row : Int) + ofs) % (2 ^ 64 : Nat)
  if n < 1 || 8192 < n then trapBounds
  else if row % es != 0 || rc % 16 != 0 then trapAlign
  else if base && ofs % (es : Int) != 0 then trapAlign
  else
    match s.rowKey i.x row (n * es), s.rowKey i.x rc 16, (if base then s.rowKey i.x out.toNat (n * es) else some 0) with
    | some kr, some kc, some ko =>
      if rangesMeet kr (n * es) kc 16 || (base && rangesMeet ko (n * es) kc 16) then trapBounds
      else
        let c := { i.rowCmd u with row := row, recVa := rc, out := if base then out.toNat else row, n := n, key := (failKey i.x.w.block rc).getD 0 }
        s.enqueueRow i c
    | _, _, _ => trapBounds

def noteOp (opc : Nat) (u : RowUnit) : Op :=
  { opc := opc, res := resFixed [.void] .void, core := coreNote u
    form := fun t m => ctlForm t .void (m ≤ 1) (.need [.addr]) (.need [.addr]) (.need [.n32]) }

def opRowTop : Op := noteOp 0x128 .top
def opRowHeart : Op := noteOp 0x129 .heart
def opRowBase : Op := noteOp 0x12A .base

def coreRowPace (i : OpIn) (s : State) : OpRes :=
  if 65535 < i.uni i.a then trapBounds else s.enqueueRow i { i.rowCmd .pace with gap := i.uni i.a }

def opRowPace : Op :=
  { opc := 0x12B, res := resFixed [.void] .void, core := coreRowPace
    form := fun t m => ctlForm t .void (m == 0) (.need [.n32]) .absent .absent }

/-- Is a row-engine command of a wave outstanding on any tile? -/
def State.rowPending (s : State) (w : WaveRef) : Bool := s.tiles.any fun e => e.2.rowQ.any fun c => c.by_.wave == w

def coreRowSync (i : OpIn) (s : State) : OpRes :=
  if s.rowPending i.x.w then .wait (i.modWave s fun w => { w with mode := .rowSync }) else doneVoid s

def opRowSync : Op :=
  { opc := 0x12C, res := resFixed [.void] .void, core := coreRowSync
    form := fun t m => ctlForm t .void (m == 0) .absent .absent .absent }

/-- `row.cfg` (R190): τ is a finite, positive, normal f32. -/
def coreRowCfg (i : OpIn) (s : State) : OpRes :=
  let tau := i.uni i.a
  if tau < 0x00800000 || 0x7F7FFFFF < tau then trapFormat
  else doneVoid (i.modWave s fun w => { w with tau := BitVec.ofNat 32 tau, ofs := BitVec.ofNat 32 (i.uni i.b) })

def opRowCfg : Op :=
  { opc := 0x12D, res := resFixed [.void] .void, core := coreRowCfg
    form := fun t m => ctlForm t .void (m == 0) (.need [.f32]) (.need [.i32]) .absent }

def execRowTop (f : Fields) (s : State) : Host.Outcome State Fault Refusal := runOp opRowTop f s
def execRowHeart (f : Fields) (s : State) : Host.Outcome State Fault Refusal := runOp opRowHeart f s
def execRowBase (f : Fields) (s : State) : Host.Outcome State Fault Refusal := runOp opRowBase f s
def execRowPace (f : Fields) (s : State) : Host.Outcome State Fault Refusal := runOp opRowPace f s
def execRowSync (f : Fields) (s : State) : Host.Outcome State Fault Refusal := runOp opRowSync f s
def execRowCfg (f : Fields) (s : State) : Host.Outcome State Fault Refusal := runOp opRowCfg f s

/-- ROW_SYNC_DONE (R194). -/
def execRowSyncDone (w : WaveRef) (s : State) : Host.Outcome State Fault Refusal :=
  match s.wave? w with
  | none => .next s
  | some x => .next (if x.mode == .rowSync && !s.rowPending w then s.release w 0x12C Value.void else s)

/-! ## The order of notes (R193) -/

/-- The duration of a note in engine cycles. -/
def rowDuration (narrow : Bool) (u : RowUnit) (n : Nat) : Nat :=
  let c := ceilDiv n (if narrow then 16 else 32)
  match u with
  | .top => 6 + c
  | .heart => 20 + 2 * c
  | .base => 10 + c
  | .pace => 0

def RowUnit.index : RowUnit → Nat
  | .top => 0 | .heart => 1 | .base => 2 | .pace => 3

/-- start_j of the command at the head of those not yet started, when an earlier note of its record is done (R193). -/
def Tile.rowStart (t : Tile) (c : RowCmd) : Option Nat :=
  if c.unit != .pace && t.rowQ.any fun e => e.id < c.id && e.unit != .pace && e.key == c.key then none
  else
    let p := (t.ctx c.ctx).prow
    some (max (max c.arrive (if t.rowLast == 0 then 0 else t.rowLast + p)) ((t.rowFree[c.unit.index]?).getD 0))

/-- ROW_NOTE_START (R193): the oldest command that has not started does so, once its cycle has come. A pacing change
takes effect and is done. -/
def execRowNoteStart (t : TileRef) (s : State) : Host.Outcome State Fault Refusal :=
  let x := s.tile t
  match x.rowQ.find? fun c => c.start.isNone with
  | none => .next s
  | some c =>
    match x.rowStart c with
    | none => .next s
    | some st =>
      if s.engNow t < st || x.fenced 3 c.id then .next s
      else if c.unit == .pace then
        .next (s.setTile t { x.setCtx c.ctx { x.ctx c.ctx with prow := c.gap } with
          rowLast := st, rowQ := x.rowQ.filter fun e => e.id != c.id })
      else
        let fin := st + rowDuration (narrowDie t.die) c.unit c.n
        .next (s.setTile t { x with
          rowLast := st
          rowFree := x.rowFree.set c.unit.index fin
          rowQ := x.rowQ.map fun e => if e.id == c.id then { e with start := some st, fin := fin } else e })

/-! ## What the notes compute (R191, R192) -/

/-- A bf16 pattern widened to f32 bits: a pattern of exponent field 0 is a zero of its own sign (02 R21). -/
def widenBf16 (x : Nat) : Nat := if (floatFmt .bf16).isSub x then x / 2 ^ 15 * 2 ^ 31 else x * 65536

/-- Element k of a row as f32 bits. -/
def rowElems (bf : Bool) (bs : List Byte) (n : Nat) : List Nat :=
  if bf then (numsOf 2 bs n).map widenBf16 else numsOf 4 bs n

/-- The value of f32 bits. -/
def f32Val (x : Nat) : Exact := (floatFmt .f32).value x

/-- f32 bits as the bytes of a stored element (R192, `rnd(·, EF)`). -/
def storeElem (bf : Bool) (x : Nat) : List Byte :=
  if bf then leBytes 2 (rnd .bf16 0 false (f32Val x)).1 else leBytes 4 x

def isNan32 (x : Nat) : Bool := (f32Val x).isNan

/-- The row's maximum (R192, TOP). -/
def rowTop (xs : List Nat) : Nat :=
  match xs with
  | [] => 0
  | x :: r => r.foldl (fun m y => (fltMinMax .f32 true (readIn .f32 false m) (readIn .f32 false y)).1) x

/-- The exponential of an element (R192, HEART). -/
def heartElem (tau m x : Nat) : Nat :=
  let d := ((f32Val x).add 0 (f32Val m).neg).bind fun v => (f32Val tau).mul v
  (special .f32 false .exp (rndOpt .f32 0 false d).1).1

/-- The sum of 32 exponentials in the tree of 07 R172. -/
def heartTree (es : List Nat) : Option Nat :=
  let leaf (o : Option Nat) : TreeVal := { v := o.map fun e => (sliOfIeee 27 (readIn .f32 false e)).1, ieee := 0, sli := 0 }
  nodeAt (treeLevels .sli32 0 false 5 ((List.range 32).map fun l => leaf es[l]?)) 5 0

/-- The sum of a row's exponentials (R192). -/
def heartSum (es : List Nat) : Nat :=
  (blocksOf es (ceilDiv es.length 32)).foldl (fun a b =>
    match heartTree b with
    | some v => (sliAdd 27 a v).1
    | none => a) (sliZeroBits 27)

/-- What a note writes of its row or output, and of its record's payload, and its status word (R192). -/
def RowCmd.compute (c : RowCmd) (row rc : List Byte) : List (Nat × List Byte) × Nat :=
  let xs := rowElems c.bf row c.n
  let r := ofLe rc
  let st := bitsOf r 127 96
  match c.unit with
  | .top => ([(c.recVa, leBytes 4 (rowTop xs)), (c.recVa + 8, leBytes 4 c.n)], 1 + (if xs.any isNan32 then 8 else 0))
  | .heart =>
    let m := r % 2 ^ 32
    if m == 0xFF800000 then
      ([(c.row, xs.flatMap fun _ => storeElem c.bf 0), (c.recVa + 4, leBytes 4 (sliZeroBits 27))], st ||| 16 ||| 2)
    else
      let es := xs.map (heartElem c.tau.toNat m)
      ([(c.row, es.flatMap (storeElem c.bf)), (c.recVa + 4, leBytes 4 (heartSum es))], st ||| 2)
  | .base =>
    let sum := bitsOf r 63 32
    let out : List Byte :=
      match sliDecode 27 sum with
      | .zero => xs.flatMap fun _ => storeElem c.bf 0
      | .inv => xs.flatMap fun _ => storeElem c.bf (floatFmt .f32).nanBits
      | .ord _ _ _ =>
        let f := f32Val (sliToIeee 27 (sliRcp 27 sum).1 .f32 false).1
        xs.flatMap fun x => leBytes (elemBytes c.bf) (rndOpt (if c.bf then .bf16 else .f32) 0 false ((f32Val x).mul f)).1
    ([(c.out, out)], st ||| 4)
  | .pace => ([], 0)

/-- Byte runs cut at the boundaries of aligned 16-byte chunks. -/
def cutPieces (ws : List (Nat × List Byte)) : List (Nat × List Byte) :=
  ws.flatMap fun w => (pieces w.1 w.2.length).map fun p => (p.1, (w.2.drop (p.1 - w.1)).take p.2)

/-- The pieces that a note reads: its row and its record. -/
def RowCmd.reads (c : RowCmd) : List (Nat × Nat) := pieces c.row (c.n * elemBytes c.bf) ++ [(c.recVa, 16)]

/-- The bytes of a range from the pieces read. -/
def gotBytes (got : List (Nat × List Byte)) (ps : List (Nat × Nat)) : List Byte :=
  ps.flatMap fun p => match got.find? fun e => e.1 == p.1 with | some (_, bs) => bs | none => List.replicate p.2 0#8

/-- A row command of a tile, and its change. -/
def State.row? (s : State) (t : TileRef) (id : Nat) : Option RowCmd := (s.tile t).rowQ.find? fun c => c.id == id
def State.modRow (s : State) (t : TileRef) (id : Nat) (g : RowCmd → RowCmd) : State :=
  s.modTile t fun x => { x with rowQ := x.rowQ.map fun c => if c.id == id then g c else c }

/-- The pieces of a note not yet read. -/
def RowCmd.toRead (c : RowCmd) : List (Nat × Nat) := c.reads.filter fun p => !(c.got.any fun e => e.1 == p.1)

/-- Read piece k of those a note has still to read. Poisoned data is consumed (22 R425). -/
def State.rowRead (s : State) (t : TileRef) (id k : Nat) : State :=
  match s.row? t id with
  | none => s
  | some c =>
    if c.start.isNone then s
    else
      match c.toRead[k]? with
      | none => s
      | some (va, n) =>
        match s.engSpans c.by_.wave.block t.die va n true false with
        | (s1, .ok ks) =>
          if s1.spansPoisoned ks then s1.raise (.tileFault t 4)
          else s1.modRow t id fun c => { c with got := c.got ++ [(va, s1.readSpans ks)] }
        | (s1, _) => s1

/-- Fix what a note writes, once it has read everything. -/
def RowCmd.settle (c : RowCmd) : RowCmd :=
  if c.outs.isSome || c.toRead ≠ [] then c
  else
    let ps := c.reads
    let r := c.compute (gotBytes c.got (ps.take (ps.length - 1))) (gotBytes c.got [(c.recVa, 16)])
    { c with outs := some (cutPieces r.1), status := r.2 }

/-- Write piece k of those a note has still to write. -/
def State.rowWrite (s : State) (t : TileRef) (id k : Nat) : State :=
  match s.row? t id with
  | none => s
  | some c0 =>
    if c0.start.isNone then s
    else
      let c := c0.settle
      match c.outs with
      | none => s
      | some ws =>
        match ws[k]? with
        | none => if c == c0 then s else s.modRow t id fun _ => c
        | some (va, bs) =>
          match s.engSpans c.by_.wave.block t.die va bs.length true true with
          | (s1, .ok ks) =>
            (s1.putSpans (c.by_.writer t 3) ks bs).modRow t id fun _ => { c with outs := some (ws.eraseIdx k) }
          | (s1, _) => s1

/-- ROW_NOTE_DONE (R192, R194): what the note has left to read and to write is read and written, and then its status
word. The waiting notes of its record start no earlier than its end (R193). -/
def execRowNoteDone (t : TileRef) (id : Nat) (s : State) : Host.Outcome State Fault Refusal :=
  match s.row? t id with
  | none => .next s
  | some c =>
    if c.start.isNone || s.engNow t < c.fin then .next s
    else
      let s1 := (List.range c.toRead.length).foldl (fun s _ => s.rowRead t id 0) s
      let s2 := s1.rowWrite t id (2 ^ 32)
      match s2.row? t id with
      | none => .next s2
      | some c1 =>
        match c1.outs with
        | none => .next s2
        | some ws =>
          let s3 := (List.range ws.length).foldl (fun s _ => s.rowWrite t id 0) s2
          match s3.row? t id with
          | none => .next s3
          | some c2 =>
            if c2.outs != some [] then .next s3
            else
              match s3.writeWord t { c2.owed with value := BitVec.ofNat 32 c2.status } with
              | (s4, .ok _) =>
                .next (s4.modTile t fun x => { x with
                  rowQ := (x.rowQ.filter fun e => e.id != id).map fun e =>
                    if e.key == c.key && e.unit != .pace then { e with arrive := max e.arrive c.fin } else e })
              | (s4, _) => .next s4

end Sys2Proof.Machine
end

