-- ==== Sys2Proof/Machine/Repair.lean ====
section
/-!
DEFINITION. Containment and retirement (22 R425-R429): the end of blocks that cannot run, unrecoverable faults of a tile,
retired units, and the re-cut of sub-grids (16 R330).
-/

namespace Sys2Proof.Machine

open Sys2Proof

/-! ## Blocks that end without running on (14 R305, R312; 22 R426) -/

/-- The waves of a block (09 R200). -/
def wavesOf (lanes : Nat) : Nat := ceilDiv lanes 32

/-- A wave that ends as `exit` ends it: its slot is released once its vault completion counter is zero (06 R136). -/
def Wave.kill (x : Wave) : Wave :=
  { x with frames := [], mode := if x.mode == .released || x.vcnt == 0 then .released else .ended, stop := .none, owed := none, native := none, staged := none, stepLeft := none, stepEnd := none,
           sysReq := none }

/-- A block that has ended as killed: its vault allocation is free once every slot is. -/
def Block.kill (b : Block) : Block :=
  { b with phase := if b.waves.all fun x => x.mode == .released || x.vcnt == 0 then .ended else .resident, waves := b.waves.map Wave.kill, killed := true, fate := none, unresolved := [], awaitsCode := false,
           ready := false, triggered := true }

/-- A wave that has not begun. -/
def Wave.fresh (lanes w entry tid limit : Nat) (params : List Value) : Wave :=
  { slot := 0
    frames :=
      [{ kind := .base, func := entry, tid := tid, pending := [{ block := 0, mask := existMask lanes w, params := params }],
         cur := none, retMask := 0, ret := Lanes.all 0, retTy := .void, trap := none, kept := [] }]
    mode := .run, stop := .none, owed := none, ieee := 0, sli := 0, tau := 0x3F800000, ofs := 0, vcnt := 0, gcnt := 0, rcnt := 0, guse := [], vuse := [],
    wdog := 0, wlim := limit, pts := 0, native := none, undo := [], undoSeq := 0, staged := none, quarters := [], quartersB := [], replay := false,
    verdict := false, cpyBlk := 0, stepLeft := none, stepEnd := none, sysReq := none }

/-- A block of waves before its first instruction. -/
def Block.fresh (l : Launch) (home die tid limit : Nat) : Block :=
  { cls := l.cls, heldCls := l.cls, home := home, phase := .resident, die := die, tile := 127
    waves := (List.range (wavesOf l.lanes)).map fun w => (Wave.fresh l.lanes w l.entry tid limit []).select
    vbase := 0, spill := 0, budget := 16, fate := none, unresolved := [], killed := false, awaitsCode := false,
    ready := false, seats := [], slots := [], triggered := false, swapRaised := false, madeWay := none, imgPage := 0, imgLen := 0, imgVault := 0, order := 0 }

/-- The record of a wave of a block that ends because it fits nowhere (14 R311, KIND 4). -/
def unfitRecord (l : Launch) (blk w die : Nat) : FaultRec :=
  { blockId := blk, lseq := l.lseq, wave := w, die := die, tile := 127, point := { func := l.entry, block := 0, vidx := 0 },
    mask := existMask l.lanes w, va := 0, kind := 4, trapk := 0, cls := l.cls, swap := false, wr := false, peer := 0,
    fsts := 0, eng := false, lanes := Lanes.all 0 }

/-- The page bitmap of a context's swap area (17 R358) with a run of pages in use, or not. None when it cannot be read
and written. -/
def State.markPages (s : State) (ctx die first n : Nat) (used : Bool) : Option State :=
  match s.ctx? ctx with
  | none => none
  | some c =>
    let len := (c.swapn + 7) / 8
    match s.readVa ctx die c.swapa len with
    | (_, .error _) => none
    | (s1, .ok bs) =>
      let x := ofLe bs
      let run := (2 ^ n - 1) * 2 ^ first
      let y := if used then x ||| run else x - (x &&& run)
      match s1.putVa partWriter ctx die c.swapa (leBytes len y) with
      | (s2, .ok _) => some s2
      | (_, .error _) => none

/-- Free the pages of a block's swap image (17 R358). Where the bitmap faults, they are freed at a later try. -/
def State.freeImage (s : State) (ctx : Nat) (b : Block) : State :=
  if b.imgLen == 0 then s
  else
    match s.markPages ctx b.die b.imgPage b.imgLen false with
    | some s1 => s1
    | none => s.modCtx ctx fun c => { c with unfreed := c.unfreed ++ [(b.imgPage, b.imgLen)] }

/-- Does a block wait in a checkpoint (R434)? -/
def Block.inCkpt (b : Block) : Bool :=
  b.waves.any fun w => match w.sysReq with | some (.ckpt _ _ _ _) => true | some (.flacon _ _ _) => true | _ => false

/-- A block ends as killed: it leaves its tile's partitions, and its image, when it is swapped out. A checkpoint that it waited
in holds the front-end no longer. -/
def State.killBlock (s : State) (b : BlockRef) : State :=
  match s.block? b with
  | none => s
  | some x =>
    if x.ended then s.setBlock b { x with phase := x.kill.phase, waves := x.kill.waves } else
    let s1 := if x.phase == .swapped then s.freeImage (s.ctxOf b.lid) x else s
    let s2 := { s1.setBlock b { x.kill with imgLen := 0 } with quiesced := s1.quiesced && !x.inCkpt }
    let drop (s : State) (i : Nat) : State :=
      { (s.modTile x.tileRef fun t =>
          { t with even := t.even.drop (b.wave i), odd := t.odd.drop (b.wave i),
                   fences := t.fences.filter fun f => f.1 != b.wave i }) with
        waits := s.waits.filter fun e => e.wave != b.wave i }
    let s3 := (List.range x.waves.length).foldl drop s2
    let s4 := if x.phase == .ended || x.phase == .swapped then s3 else (s3.refill x.tileRef).dropHolds x.tileRef b.lid x
    s4.afterWaveEnd b

/-- Ranges without one block. -/
def rangesDrop (k : Nat) (rs : List (Nat × Nat)) : List (Nat × Nat) :=
  rs.flatMap fun e =>
    if e.1 ≤ k && k ≤ e.2 then (if e.1 < k then [(e.1, k - 1)] else []) ++ (if k < e.2 then [(k + 1, e.2)] else []) else [e]

/-- A block that starts, or ends without starting, leaves its sub-grid (16 R330). -/
def Launch.startBlock (l : Launch) (blk : Nat) : Launch :=
  { l with subs := l.subs.map fun g => { g with ranges := rangesDrop blk g.ranges } }

/-- A block ends because no die can take it, with a record for each of its waves (14 R305, R311; 16 R330). -/
def State.endUnfit (s : State) (lid blk die : Nat) : State :=
  match s.launch? lid with
  | none => s
  | some l =>
    let b : BlockRef := { lid := lid, blk := blk }
    let base : Block := (Tab.get? l.blocks blk).getD (Block.fresh l die die 0 0)
    let s0 := if base.phase == .swapped then s.freeImage l.ctx base else s
    let s1 := s0.setBlock b { base.kill with killed := false, imgLen := 0 }
    let s2 := s1.modLaunch lid fun l =>
      { l.startBlock blk with admitFault := l.admitFault.filter fun e => e.1 != blk, admitBad := l.admitBad.filter fun e => e != blk }
    ((List.range (wavesOf l.lanes)).foldl (fun s w => s.fileRecord l.ctx (unfitRecord l blk w die) .nobody) s2).afterWaveEnd b

/-! ## The re-cut of sub-grids (16 R330) -/

/-- The numbers of blocks in ranges. -/
def rangesList (rs : List (Nat × Nat)) : List Nat := rs.flatMap fun e => (List.range (e.2 + 1 - e.1)).map fun i => e.1 + i

/-- Put a range into its place among ascending ones. -/
def insertSpan (e : Nat × Nat) : List (Nat × Nat) → List (Nat × Nat)
  | [] => [e]
  | f :: r => if e.1 ≤ f.1 then e :: f :: r else f :: insertSpan e r

/-- Give a die blocks of a range entry: they join its sub-grid of that entry, in ascending order. -/
def addSub (g : SubGrid) : List SubGrid → List SubGrid
  | [] => [g]
  | x :: r =>
    if x.entry == g.entry && x.die == g.die then { x with ranges := g.ranges.foldl (fun l e => insertSpan e l) x.ranges } :: r
    else x :: addSub g r

/-- Cut a sub-grid again whose die has ceased to be live for its launch: over the live dies of DMASK, or of MMASK; with
none, its blocks end. -/
def State.recutSub (s : State) (lid : Nat) (l : Launch) (g : SubGrid) : State :=
  if s.liveTiles l.ctx g.die != [] then s
  else
    match l.ranges[g.entry]? with
    | none => s
    | some e =>
      let d := s.liveDies l.ctx e.dmask
      let m := s.liveDies l.ctx e.mmask
      let s1 := s.modLaunch lid fun l => { l with subs := l.subs.filter fun x => x != g }
      if d != [] || m != [] then
        s1.modLaunch lid fun l =>
          { l with subs := (s.cut l.ctx g.entry g.ranges (if d != [] then d else m)).foldl (fun r x => addSub x r) l.subs }
      else (rangesList g.ranges).foldl (fun s b => s.endUnfit lid b g.die) s1

/-- The entry of a block's range. -/
def Launch.entryOf (l : Launch) (blk : Nat) : Option RangeEntry := l.ranges.find? fun e => e.lo ≤ blk && blk ≤ e.hi

/-- The dies on which a swapped-out block may re-enter: its sub-grid's, and those of MMASK. -/
def Launch.homes (l : Launch) (blk home : Nat) : List Nat :=
  (List.range 8).filter fun d => d == home || (match l.entryOf blk with | some e => e.mmask.getLsbD d | none => false)

/-- Is every tile of a die retired? -/
def State.dieDead (s : State) (d : Nat) : Bool :=
  (List.range (tilesOf d)).all fun j => s.tileDead { die := d, tile := j }

/-- A swapped-out block whose dies are all retired ends (16 R330). -/
def State.endStray (s : State) (b : BlockRef) : State :=
  match s.launch? b.lid, s.block? b with
  | some l, some x => if x.phase == .swapped && (l.homes b.blk x.home).all s.dieDead then s.endUnfit b.lid b.blk x.home else s
  | _, _ => s

/-- End the swapped-out blocks of a launch whose dies are all retired; the others choose anew where a die that they wait for is no longer
live. -/
def State.endHomeless (s : State) (lid : Nat) (l : Launch) : State :=
  let stay (b : Block) : Block :=
    if b.phase == .swapped && b.seats.any fun d => s.liveTiles l.ctx d == [] then { b with seats := [] } else b
  let s1 := s.modLaunch lid fun l => { l with blocks := l.blocks.map fun e => (e.1, stay e.2) }
  l.blocks.foldl (fun s e => s.endStray { lid := lid, blk := e.1 }) s1

/-- Cut again every sub-grid whose die has ceased to be live for its launch. -/
def State.recut (s : State) : State :=
  s.launches.foldl (fun s e =>
    if e.2.isOver || e.2.code8 != 0 then s
    else (e.2.subs.foldl (fun s g => s.recutSub e.1 e.2 g) s).endHomeless e.1 e.2) s

/-! ## Retired units (R429) -/

/-- The unit operand of `sys.retire` (R431). -/
def unitWord (kind die idx : Nat) : Nat := kind + 4 * die + 32 * idx
def unitKind (u : Nat) : Nat := bitsOf u 1 0
def unitDie (u : Nat) : Nat := bitsOf u 4 2
def unitIdx (u : Nat) : Nat := bitsOf u 11 5

/-- The tiles of a unit. -/
def unitTiles (u : Nat) : List TileRef :=
  match unitKind u with
  | 0 => [{ die := unitDie u, tile := unitIdx u }]
  | 1 => clusterTiles { die := unitDie u, cl := unitIdx u }
  | _ => (List.range (tilesOf (unitDie u))).map fun j => { die := unitDie u, tile := j }

/-- Is a unit retired, by itself or with a larger one? -/
def State.unitDead (s : State) (u : Nat) : Bool :=
  match unitKind u with
  | 0 => s.tileDead { die := unitDie u, tile := unitIdx u }
  | 1 => (s.cluster { die := unitDie u, cl := unitIdx u }).retired || (s.die (unitDie u)).retired
  | _ => (s.die (unitDie u)).retired

/-- Set the flag of a unit in the retirement map. -/
def State.flagUnit (s : State) (u : Nat) : State :=
  match unitKind u with
  | 0 => s.modTile { die := unitDie u, tile := unitIdx u } fun x => { x with retired := true }
  | 1 => s.modCluster { die := unitDie u, cl := unitIdx u } fun x => { x with retired := true }
  | _ => s.modDie (unitDie u) fun x => { x with retired := true }

/-- Retire a unit: the persistent map, and the idle base power, which is lowered by the unit's measured share (20
R400). -/
def State.retire (s : State) (u cause : Nat) : State :=
  let s1 := s.flagUnit u
  { s1 with retired := s1.retired ++ [(u, cause, s.tick)], pbase := s1.pbase - Config.idleShare s1.fresh, fresh := s1.fresh + 1 }

/-- Ask a block for a swap-out whatever its class and its present fate (17 R354; 22 R429). -/
def Block.forceSwap (b : Block) : Block := { b.stopAll .swapOut with fate := some .swapOut }

/-- Ask every block on some tiles, of some contexts, for a swap-out. -/
def State.emptyTiles (s : State) (ts : List TileRef) (ctxs : Nat → Bool) : State :=
  { s with launches := s.launches.map fun e =>
      if ctxs e.2.ctx then
        (e.1, { e.2 with blocks := e.2.blocks.map fun b =>
          if (b.2.phase == .resident || b.2.phase == .parked) && ts.contains b.2.tileRef && !b.2.ended then
            (b.1, b.2.forceSwap)
          else b })
      else e }

/-- Does a block with a live wave stand on some tiles, of some contexts? -/
def State.occupied (s : State) (ts : List TileRef) (ctxs : Nat → Bool) : Bool :=
  s.launches.any fun e => ctxs e.2.ctx && e.2.blocks.any fun b =>
    (b.2.phase == .resident || b.2.phase == .parked) && ts.contains b.2.tileRef && !b.2.ended

/-! ## Unrecoverable faults of a tile (R425, R426) -/

/-- The words that a tile's commands owe. -/
def Tile.owed (t : Tile) : List OwedWord := (t.copyQ.flatMap fun c => c.words) ++ (t.kvQ.map fun k => k.owed) ++ t.rowOwed

/-- The group copies that a tile issued end, and their words fail. -/
def State.endGroupCopies (s : State) (t : TileRef) : State :=
  let words := s.launches.flatMap fun e => e.2.cgrps.flatMap fun r => r.issues.filterMap fun i =>
    if i.tile == t && !i.ended then i.owedWord else none
  let s1 := words.foldl (fun s w => s.failWord w) s
  { s1 with launches := s1.launches.map fun e =>
      (e.1, { e.2 with cgrps := e.2.cgrps.map fun r =>
        { r with issues := r.issues.map fun i => if i.tile == t then { i with ended := true, word := none } else i } }) }

/-- The blocks that stand on a tile. -/
def State.blocksOn (s : State) (t : TileRef) : List BlockRef :=
  s.launches.flatMap fun e => e.2.blocks.filterMap fun b =>
    if (b.2.phase == .resident || b.2.phase == .parked) && b.2.tileRef == t then some { lid := e.1, blk := b.1 } else none

/-- Does nothing stand on a tile, and has it no command in progress? -/
def State.tileIdle (s : State) (t : TileRef) : Bool :=
  (s.blocksOn t).isEmpty && (s.tile t).copyQ.isEmpty && (s.tile t).kvQ.isEmpty && (s.tile t).rowQ.isEmpty &&
    !s.launches.any fun e => e.2.cgrps.any fun r => r.issues.any fun i => i.tile == t && !i.ended

/-- A tile meets an unrecoverable fault: its blocks end as killed, its commands end and their words fail, and it is
retired. One that retirement is still emptying meets it too (R441). -/
def State.tileDown (s : State) (t : TileRef) (cause : Nat) : State :=
  if s.tileDead t && s.tileIdle t then s
  else
    let sw := (s.blocksOn t).foldl (fun s b =>
      (List.range (match s.block? b with | some x => x.waves.length | none => 0)).foldl (fun s i => s.failWaits (b.wave i)) s) s
    let s0 := (s.blocksOn t).foldl (fun s b => s.modBlock b fun x => { x with waves := x.waves.map fun w => { w with vcnt := 0 } }) sw
    let s1 := (s.blocksOn t).foldl State.killBlock s0
    let s2 := (s1.tile t).owed.foldl (fun s w => s.failWord w) s1
    let s3 := s2.endGroupCopies t
    let s4 := { s3 with fabOut := s3.fabOut.filter fun o => o.tile != t }
    let s5 := s4.modTile t fun x =>
      { x with even := Part.reset, odd := Part.reset, copyQ := [], kvQ := [], rowQ := [], fences := [], switch := none,
               reassign := none }
    let s6 := if s.tileDead t then s5 else s5.retire (unitWord 0 t.die t.tile) cause
    (s6.event 0x20 (t.tile + 128 * t.die) cause).recut

/-- UNRECOVERABLE_FAULT (R425, R426). -/
def execUnrecoverableFault (t : TileRef) (cause : Nat) (s : State) : Host.Outcome State Fault Refusal :=
  .next (s.tileDown t cause)

end Sys2Proof.Machine
end

