-- ==== Sys2Proof/Machine/Host.lean ====
section
/-!
DEFINITION. The host side (18 R361-R370): the register page, the CXL.mem window, the submission queues and the
front-end's turns, the management endpoint, and the summary (22 R439).
-/

namespace Sys2Proof.Machine

open Sys2Proof

/-! ## Queues (R367, R368) -/

/-- Does a queue's QEN bit stand? -/
def State.qenBit (s : State) (q : Nat) : Bool := s.bar0.qen.getLsbD q

/-- Set or clear a queue's QEN bit. -/
def State.setQen (s : State) (q : Nat) (on : Bool) : State :=
  let m : BitVec 16 := 1#16 <<< q
  { s with bar0 := { s.bar0 with qen := if on then s.bar0.qen ||| m else s.bar0.qen &&& ~~~m } }

/-- The part disables a queue with an event. -/
def State.dropQueue (s : State) (q code data : Nat) : State :=
  ((s.setQen q false).setQueue q { s.queue q with enabled := false }).event code q data

/-- A queue's descriptor, when it keeps the table of R367. -/
def queueOf (x : Nat) : Option Queue :=
  let ring := bitsOf x 511 448
  let tail := bitsOf x 447 384
  let head := bitsOf x 383 320
  let n := bitsOf x 319 307
  if bitsOf x 15 0 == 0x5351 && bitsOf x 302 16 == 0 && ring < 2 ^ 56 && ring % 4096 == 0 && tail < 2 ^ 56 && tail % 4 == 0 &&
      head < 2 ^ 56 && head % 4 == 0 && 1 ≤ n && n ≤ 4096 && 2 ^ n.log2 == n then
    some { ring := ring, tail := tail, head := head, nrec := n, ctx := bitsOf x 306 305, sys := bitsOf x 304 304 == 1,
           hp := bitsOf x 303 303 == 1, enabled := true, hcount := 0, headRead := false, lastTail := 0,
           headOwed := false, headRaised := false }
  else none

/-- Read the head word of a queue whose context is resident, once (R364, R368). -/
def State.readHead (s : State) (q : Nat) : State :=
  let x := s.queue q
  if x.headRead || (s.ctx? x.ctx).isNone then s
  else
    match s.readVa x.ctx frontDie x.head 4 with
    | (s1, .ok bs) => s1.setQueue q { x with hcount := ofLe bs, headRead := true }
    | (s1, .error va) => s1.dropQueue q 2 va

/-- A QEN bit goes from 0 to 1: the descriptor and the head word are read. -/
def State.enableQueue (s : State) (q : Nat) : State :=
  let s1 := s.setQen q true
  match queueOf (ofLe (s1.readLin (s1.bar0.qtab.toNat + 64 * q) 64)) with
  | none => s1.dropQueue q 2 0
  | some x => (s1.setQueue q x).readHead q

/-- Write one QEN bit (R364). -/
def State.writeQen (s : State) (q : Nat) (on : Bool) : State :=
  if on then (if s.qenBit q then s else s.enableQueue q)
  else (s.setQen q false).setQueue q { s.queue q with enabled := false }

/-- Write the head word; one that faults is tried again at each turn, with one event (R368). -/
def State.writeHead (s : State) (q : Nat) : State :=
  let x := s.queue q
  match s.putVa partWriter x.ctx frontDie x.head (leBytes 4 x.hcount) with
  | (s1, .ok _) => s1.setQueue q { x with headOwed := false, headRaised := false }
  | (s1, .error va) =>
    let s2 := s1.setQueue q { x with headOwed := true, headRaised := true }
    if x.headRaised then s2 else s2.event 2 q va

/-- SERVE (R368): the state, and whether a record has been accepted. -/
def State.serve (s : State) (q : Nat) : State × Bool :=
  let s0 := if (s.queue q).headOwed then s.writeHead q else s.readHead q
  let x := s0.queue q
  if !x.enabled || x.headOwed || !x.headRead then (s0, false)
  else
    match s0.readVa x.ctx frontDie x.tail 4 with
    | (s1, .error va) => (s1.dropQueue q 2 va, false)
    | (s1, .ok bs) =>
      let t := ofLe bs
      let s2 := s1.setQueue q { x with lastTail := t }
      let n := (t + 2 ^ 32 - x.hcount) % 2 ^ 32
      if x.nrec < n then (s2.dropQueue q 1 t, false)
      else if n == 0 then (s2, false)
      else
        match s2.readVa x.ctx frontDie (x.ring + 256 * (x.hcount % x.nrec)) 256 with
        | (s3, .error va) => (s3.dropQueue q 2 va, false)
        | (s3, .ok rec_) =>
          let s4 := (s3.accept rec_ x.ctx x.sys none).1
          ((s4.setQueue q { s4.queue q with hcount := (x.hcount + 1) % 2 ^ 32 }).writeHead q, true)

/-- May the front-end serve a queue? -/
def State.servable (s : State) (q : Nat) : Bool := (s.queue q).enabled && (s.ctx? (s.queue q).ctx).isSome

/-- Serve the queues of a list, each once. -/
def State.serveAll (s : State) (qs : List Nat) : State := qs.foldl (fun s q => if s.servable q then (s.serve q).1 else s) s

/-- Serve one record of the first queue of a list that has one; the round goes on after it. -/
def State.serveOne (s : State) : List Nat → State
  | [] => s
  | q :: r =>
    if !s.servable q then s.serveOne r
    else
      match s.serve q with
      | (s1, true) => { s1 with rr := (q + 1) % 16 }
      | (s1, false) => State.serveOne s1 r

/-- Accept the first record of a context's device launch queue (16 R334): the wave that waits for it takes the LSEQ. -/
def State.serveDevice (s : State) (ctx : Nat) : State :=
  match s.ctx? ctx with
  | none => s
  | some c =>
    match c.dlq with
    | [] => s
    | r :: rest =>
      let s1 := s.setCtx ctx { c with dlq := rest }
      let a := s1.accept r.record ctx r.sys (some r.params)
      match a.1.site? r.wave with
      | some x =>
        if x.wave.modes.contains (.launch r.num) then
          (a.1.focusOn r.wave fun m _ => m == .launch r.num).release r.wave 0x13C (x.inLanes (splat .n32 a.2))
        else a.1
      | none => a.1

/-- QUEUE_SERVE_TURN (R368): one record of each HP queue, of each device launch queue, and of one other queue. -/
def execQueueServeTurn (s : State) : Host.Outcome State Fault Refusal :=
  if s.quiesced || !s.started then .next s
  else
    let s1 := s.serveAll ((List.range 16).filter fun q => (s.queue q).hp)
    let s2 := (List.range 4).foldl State.serveDevice s1
    .next (s2.serveOne (((List.range 16).map fun i => (s2.rr + i) % 16).filter fun q => !(s2.queue q).hp))

/-- TAIL_SNOOP (R368): the front-end reads a tail word again. -/
def execTailSnoop (q : Nat) (s : State) : Host.Outcome State Fault Refusal :=
  if !s.servable q || !s.started then .next s
  else
    let x := s.queue q
    match s.readVa x.ctx frontDie x.tail 4 with
    | (s1, .ok bs) => .next (s1.setQueue q { x with lastTail := ofLe bs })
    | (s1, .error va) => .next (s1.dropQueue q 2 va)

/-! ## The register page (R363, R364) -/

/-- A read of the page at an aligned offset (R363): other offsets and bits read 0. -/
def State.bar0Read (s : State) (off : Nat) : Word64 :=
  match off with
  | 0x000 => 0x4B580000000000A1#64
  | 0x008 => s.bar0.qtab
  | 0x010 => s.bar0.qen.setWidth 64
  | 0x018 => s.bar0.ptab
  | 0x020 => s.bar0.win
  | 0x028 => s.bar0.evring
  | 0x030 => BitVec.ofNat 64 s.bar0.evn
  | 0x038 => BitVec.ofNat 64 s.bar0.evhead
  | 0x040 => BitVec.ofNat 64 s.bar0.evtail
  | 0x048 => s.bar0.fid.setWidth 64
  | _ => 0

/-- The bits of a written value that a register holding a multiple of n keeps (R363): the others read 0. -/
def multipleOf (n : Nat) (v : Word64) : Word64 := BitVec.ofNat 64 (v.toNat / n * n)

/-- A write of the page takes effect, while the part answers more than the management endpoint (22 R438). -/
def State.modBar0 (s : State) (f : Bar0 → Bar0) : State := if s.started then { s with bar0 := f s.bar0 } else s

/-- QTAB_WRITE: ignored while a queue is enabled. -/
def execQtabWrite (v : Word64) (s : State) : Host.Outcome State Fault Refusal :=
  .next (s.modBar0 fun b => if b.qen == 0 then { b with qtab := multipleOf 1024 v } else b)

/-- QEN_WRITE. -/
def execQenWrite (v : Word64) (s : State) : Host.Outcome State Fault Refusal :=
  .next (if s.started then (List.range 16).foldl (fun s q => s.writeQen q (v.getLsbD q)) s else s)

/-- PTAB_WRITE: entries are read at each access. -/
def execPtabWrite (v : Word64) (s : State) : Host.Outcome State Fault Refusal := .next (s.modBar0 fun b => { b with ptab := multipleOf 512 v })

/-- The fields of WIN in units of 256 MiB. -/
def winSize (v : Word64) : Nat := bitsOf v.toNat 47 32
def winBase (v : Word64) : Nat := bitsOf v.toNat 15 0

/-- WIN_WRITE (R365): ignored when the window would pass the device memory; undefined bits read 0. -/
def execWinWrite (v : Word64) (s : State) : Host.Outcome State Fault Refusal :=
  .next (s.modBar0 fun b => if 3072 < winBase v + winSize v then b else { b with win := v &&& 0x0000FFFF0000FFFF#64 })

/-- EVRING_WRITE, of EVRING or EVN: EVHEAD starts again at 0. A ring of fewer than 2 records is not accepted (DESIGN CHOICE, log entry
67). -/
def execEvringWrite (evn : Bool) (v : Word64) (s : State) : Host.Outcome State Fault Refusal :=
  .next (s.modBar0 fun b =>
    if !evn then { b with evring := multipleOf 64 v, evhead := 0 }
    else if v.toNat % 2 ^ 16 < 2 then b
    else { b with evn := v.toNat % 2 ^ 16, evhead := 0 })

/-- EVTAIL_WRITE. -/
def execEvtailWrite (v : Word64) (s : State) : Host.Outcome State Fault Refusal :=
  .next (s.modBar0 fun b => { b with evtail := v.toNat % 2 ^ 16 })

/-- FID_WRITE: messages sent from now on carry it. -/
def execFidWrite (v : Word64) (s : State) : Host.Outcome State Fault Refusal :=
  .next (s.modBar0 fun b => { b with fid := v.setWidth 6 })

/-- BAR0_OTHER_WRITE: a write of a read-only register, or of none, is ignored. -/
def execBar0OtherWrite (_off : Nat) (_v : Word64) (s : State) : Host.Outcome State Fault Refusal := .next s

/-! ## The window (R365) -/

/-- The host as a writer. -/
def hostWriter : Writer := { cls := 6, wave := none }

/-- The memory key of a byte of the window: none beyond WSIZE. -/
def State.winKey (s : State) (off : Nat) : Option Nat :=
  if off < winSize s.bar0.win * 2 ^ 28 then linKey? (winBase s.bar0.win * 2 ^ 28 + off) else none

/-- The parts of an access within each 64-byte data unit. The fuel is their number at most. -/
def unitParts : Nat → Nat → Nat → List (Nat × Nat)
  | 0, _, _ => []
  | _ + 1, _, 0 => []
  | f + 1, off, n =>
    let k := min n (64 - off % 64)
    (off, k) :: unitParts f (off + k) (n - k)

/-- One data unit of a host read: the whole unit of 64 bytes gives the poisoned-data response when one of its bytes is poisoned (22 R427). -/
def State.hostUnit (s : State) (off n : Nat) : HostUnit :=
  match s.winKey off with
  | none => { bytes := [], poisoned := true }
  | some k => if s.poisoned (k - off % 64) 64 then { bytes := [], poisoned := true } else { bytes := s.readKey k n, poisoned := false }

/-- CXL_MEM_READ. -/
def execCxlMemRead (off : Nat) (n : Nat) (s : State) : Host.Outcome State Fault Refusal :=
  if s.started then .next { s with hostOut := s.hostOut ++ (unitParts (n + 1) off n).map fun e => s.hostUnit e.1 e.2 }
  else .next s

/-- Does a memory key lie in a translation store (22 R442)? -/
def inStore (k : Nat) : Bool := k < 2 ^ 40 && 0x1700000000 ≤ k % 2 ^ 37

/-- CXL_MEM_WRITE: discarded beyond the window and in a translation store. -/
def execCxlMemWrite (off : Nat) (bytes : List Byte) (s : State) : Host.Outcome State Fault Refusal :=
  if s.started then
    .next ((unitParts (bytes.length + 1) off bytes.length).foldl (fun s e =>
      match s.winKey e.1 with
      | none => s
      | some k => if inStore k then s else s.putKey hostWriter k ((bytes.drop (e.1 - off)).take e.2)) s)
  else .next s

/-- CXL_LINK_RETRAIN (R361, R362): a supported rate and width. -/
def execCxlLinkRetrain (rate : Nat) (width : Nat) (s : State) : Host.Outcome State Fault Refusal :=
  if [128, 64, 32].contains rate && [16, 8, 4].contains width then .next { s with cxl := { rate := rate, width := width } }
  else .next s

/-! ## The summary (22 R439) -/

/-- A record of 64 bytes: its kind, and what it holds as the part lays it out. -/
def summaryRecord (kind : Nat) (xs : List Nat) : List Byte :=
  let bs := (Config.summaryBody kind xs).take 63
  leBytes 1 kind ++ bs ++ List.replicate (63 - bs.length) 0#8

/-- How many blocks of a launch have ended. -/
def Launch.endedCount (l : Launch) : Nat := (l.blocks.filter fun e => e.2.ended).length

/-- Has a launch been accepted, and not ended? -/
def Launch.running (l : Launch) : Bool := l.code8 == 0 && !l.isOver

def State.summaryCtx (s : State) : List (List Byte) :=
  s.ctxs.map fun e =>
    summaryRecord 1 [e.1, e.2.desc, if e.2.dbg then 1 else 0, e.2.c0slot, e.2.c0reg, e.2.c0vb, if e.2.c0pin then 1 else 0,
      if e.2.c0vc then 1 else 0, (s.launches.filter fun l => l.2.ctx == e.1 && l.2.running).length]

def State.summaryQueues (s : State) : List (List Byte) :=
  (List.range 16).map fun q =>
    summaryRecord 2 [q, if s.qenBit q then 1 else 0, (s.queue q).hcount, (s.queue q).lastTail]

def State.summaryLaunches (s : State) : List (List Byte) :=
  (s.launches.filter fun e => e.2.running).map fun e =>
    summaryRecord 3 [e.2.lseq, e.2.ctx, e.2.state, e.2.endedCount]

def State.summaryBlocks (s : State) : List (List Byte) :=
  s.launches.flatMap fun e => (e.2.blocks.filter fun b => b.2.phase == .parked || b.2.phase == .swapped).map fun b =>
    summaryRecord 4 [e.2.lseq, b.1, b.2.cls, b.2.die, if b.2.phase == .swapped then b.2.imgPage else b.2.tile,
      b.2.unresolved.length]

def State.summaryUnits (s : State) : List (List Byte) :=
  (s.retired.map fun e => summaryRecord 5 [0, e.1, e.2.1, e.2.2]) ++
    s.unspared.map fun e => summaryRecord 5 ([1, e.1, e.2.1, e.2.2.1, e.2.2.2] ++ Config.rowFrames e.1 e.2.1)

def State.summaryDies (s : State) : List (List Byte) :=
  (List.range 8).map fun d =>
    summaryRecord 6 ([d, s.capNow] ++ s.floors ++ [s.pidle, d * 2 ^ 37 + 0x16FC000000, d * 2 ^ 37 + 0x1700000000] ++
      (List.range (clustersOf d)).flatMap fun c =>
        let x := s.cluster { die := d, cl := c }
        [min x.ct (min x.cr x.cp), if x.grant then 1 else 0])

def State.summaryLinks (s : State) : List (List Byte) :=
  (List.range 32).map fun l =>
    summaryRecord 7 [l, s.linkWord l, ((List.range 32).map fun p =>
      match s.peer? p with | some q => if q.links / 2 ^ l % 2 == 1 then q.fid + 1 else 0 | none => 0).foldl max 0]

/-- The summary's bytes: its header, then the records in kind order. -/
def State.summaryBytes (s : State) : List Byte :=
  let rs := s.summaryCtx ++ s.summaryQueues ++ s.summaryLaunches ++ s.summaryBlocks ++ s.summaryUnits ++ s.summaryDies ++
    s.summaryLinks
  leBytes 64 (0x5359 * 2 ^ 496 + 2 ^ 488 + rs.length % 2 ^ 16 * 2 ^ 472 + s.tick % 2 ^ 64 * 2 ^ 408 +
    (Config.firmwareVersion s.fw.version.toNat).toNat * 2 ^ 376) ++ rs.flatten

/-! ## The management endpoint (R370; 22 R436, R438) -/

/-- An answer of the endpoint. -/
def State.answer (s : State) (bs : List Byte) : State := { s with mgmtOut := s.mgmtOut ++ [bs] }

/-- MCTP_BASE_CONTROL. -/
def execMctpBaseControl (req : List Byte) (s : State) : Host.Outcome State Fault Refusal :=
  .next (s.draw.answer (Config.mctpAnswer req s.fresh))

/-- IDENTITY. -/
def execIdentity (s : State) : Host.Outcome State Fault Refusal := .next (s.draw.answer (Config.identityAnswer s.fresh))

/-- SENSOR_READINGS. -/
def execSensorReadings (s : State) : Host.Outcome State Fault Refusal := .next (s.draw.answer (Config.sensorAnswer s.fresh))

/-- EVENT_RING_MIRROR: the ring's records. -/
def execEventRingMirror (s : State) : Host.Outcome State Fault Refusal :=
  .next (s.answer (s.readLin s.bar0.evring.toNat (16 * s.bar0.evn)))

/-- SUMMARY. -/
def execSummary (s : State) : Host.Outcome State Fault Refusal := .next (s.answer s.summaryBytes)

/-- CLEAR_RETIREMENT: applied at the next cold start. -/
def execClearRetirement (s : State) : Host.Outcome State Fault Refusal := .next { s with clearRetired := true }

/-- Put a piece of an image at its offset. -/
def putPieceAt (image : List Byte) (off : Nat) (bs : List Byte) : List Byte :=
  image.take off ++ List.replicate (off - image.length) 0#8 ++ bs ++ image.drop (off + bs.length)

/-- RECOVERY_LOAD (22 R438): the last piece completes the image, which replaces the held one once its digest checks and
runs from the next cold start. -/
def execRecoveryLoad (pc : FirmwarePiece) (s : State) : Host.Outcome State Fault Refusal :=
  let img := putPieceAt s.fw.loading pc.off pc.bytes
  if !pc.last then .next { s with fw := { s.fw with loading := img } }
  else if Config.digest img == pc.digest then
    .next { s with fw := { s.fw with loading := [], image := img, digest := pc.digest, pending := some (img, pc.digest) } }
  else .next { s with fw := { s.fw with loading := [] } }

end Sys2Proof.Machine
end

