-- ==== Sys2Proof/Machine/Flacon.lean ====
section
/-!
DEFINITION. The flacon (22 R434-R436) and the starts of the part (22 R437, R438).
-/

namespace Sys2Proof.Machine

open Sys2Proof

/-! ## Moving contents -/

/-- The bytes of a span move to another, with their poison (22 R427). -/
def State.copyKeys (s : State) (src dst n : Nat) : State :=
  let inside (k lo : Nat) : Bool := lo ≤ k && k < lo + n
  let moved := s.mem.filter fun e => inside e.1 src
  let cleared := s.mem.filter fun e => !inside e.1 dst
  let bad := s.poison.filter fun g => g < src + n && src < g + 16
  let s1 := { s with mem := moved.foldl (fun m e => Mem.write m (dst + (e.1 - src)) e.2) cleared,
                     poison := s.poison.filter fun g => !(dst ≤ g && g + 16 ≤ dst + n) }
  bad.foldl (fun s g => s.addPoison (dst + (g - src)) (min 16 n)) s1

/-! ## Sections (R435) -/

/-- A section: its kind, die and vault, its destination, its offset there and its length. -/
structure Section where
  kind : Nat
  die : Nat
  vlt : Nat
  dest : Nat
  off : Nat
  len : Nat
deriving DecidableEq, Repr

/-- The bytes of a die's device memory that a flacon holds: all but the reserved regions (R442). -/
def dieBytes : Nat := 0x16FC000000

/-- A list in the order that a number stands for, and back. -/
def shuffle {α : Type} (seed : Nat) : List α → List α
  | [] => []
  | x :: r => (shuffle (seed / (r.length + 1)) r).insertIdx (seed % (r.length + 1)) x

def unshuffle {α : Type} (seed : Nat) : Nat → List α → List α
  | 0, _ => []
  | n + 1, l => (l[seed % (n + 1)]?).toList ++ unshuffle (seed / (n + 1)) n (l.eraseIdx (seed % (n + 1)))

/-- Bytes in the order of a flacon, and back. -/
def flaconPack (bs : List Byte) : List Byte := shuffle (Config.flaconOrder bs.length) bs
def flaconUnpack (bs : List Byte) : List Byte := unshuffle (Config.flaconOrder bs.length) bs.length bs

/-- Lists of numbers as bytes, each list behind its length, and back. -/
def listBytes (xs : List (List Nat)) : List Byte := xs.flatMap fun l => leBytes 8 l.length ++ l.flatMap fun n => leBytes 8 n
def bytesLists : Nat → List Byte → List (List Nat)
  | 0, _ => []
  | f + 1, bs =>
    if bs.length < 8 then []
    else
      let n := ofLe (bs.take 8)
      let r := bs.drop 8
      ((List.range n).map fun i => ofLe ((r.drop (8 * i)).take 8)) :: bytesLists f (r.drop (8 * n))

/-- A device state as the bytes of its section, and back (R435). -/
def stateBytes (xs : List (List Nat)) : List Byte := flaconPack (listBytes xs)
def stateOf (bs : List Byte) : List (List Nat) := bytesLists 7 (flaconUnpack bs)

/-- What the device state section holds. -/
def State.deviceState (s : State) : List (List Nat) :=
  [[s.capQ], s.floors, s.l3, s.retired.flatMap fun e => [e.1, e.2.1, e.2.2], s.rings.flatMap fun e => [e.1, e.2.setpoint.toNat],
    s.tiles.flatMap fun e => [e.1, e.2.word.toNat], s.ctxs.flatMap fun e => [e.1, e.2.desc]]

/-- The sections of a flacon before they are placed. -/
def State.sections (s : State) : List Section :=
  let mem := (List.range 8).map fun d => ({ kind := 1, die := d, vlt := 0, dest := 0, off := 0, len := dieBytes } : Section)
  let vlt := (List.range 8).flatMap fun d => ((List.range (clustersOf d)).filter fun v => !s.vaultRetired d v).map fun v =>
    ({ kind := 2, die := d, vlt := v, dest := 0, off := 0, len := 2 ^ 24 } : Section)
  mem ++ vlt ++
    [{ kind := 3, die := 0, vlt := 0, dest := 0, off := 0, len := (listBytes s.deviceState).length }]

/-- Deal sections round-robin over the targets, each behind the earlier ones of its target. -/
def dealSections (targets : List Nat) : Nat → Tab Nat → List Section → List Section
  | _, _, [] => []
  | i, offs, x :: r =>
    let d := (targets[i % max 1 targets.length]?).getD 0
    let o := Tab.getD offs 0 d
    { x with dest := d, off := o } :: dealSections targets (i + 1) (offs.put d (o + x.len)) r

/-- The bytes of the header and the section table. -/
def tableLen (n : Nat) : Nat := 64 + 32 * n

/-- The placed sections: the host target's stand behind the header and the table. -/
def State.layout (s : State) (pmask : Nat) : List Section :=
  let xs := s.sections
  let targets := 0 :: ((List.range 32).filter fun p => pmask / 2 ^ p % 2 == 1).map fun p => p + 1
  dealSections targets 0 [(0, tableLen xs.length)] xs

/-- A section table entry of 32 bytes. -/
def Section.entry (x : Section) : List Byte :=
  flaconPack (leBytes 1 x.kind ++ leBytes 1 x.die ++ leBytes 1 x.vlt ++ leBytes 1 x.dest ++ leBytes 8 x.off ++ leBytes 8 x.len ++ leBytes 12 0)

/-- The bytes at the host target. -/
def hostLen (xs : List Section) : Nat := tableLen xs.length + ((xs.filter fun x => x.dest == 0).map fun x => x.len).sum

/-- The memory key of a section's contents in the device. -/
def Section.key (x : Section) : Nat := if x.kind == 1 then x.die * 2 ^ 37 else vaultKey x.die x.vlt 0

/-- Write a section to the host target. -/
def State.saveHost (s : State) (tgt : Nat) (state : List Byte) (x : Section) : State :=
  if x.kind == 3 then s.writeKey (tgt + x.off) state else s.copyKeys x.key (tgt + x.off) x.len

/-- Send a section to a peer as copy writes of up to 4,096 bytes, which the peer answers (18 R374). -/
def State.savePeer (s : State) (o : FabOut) (ptgt : Nat) (state : List Byte) (x : Section) : State :=
  (List.range (ceilDiv x.len 4096)).foldl (fun s i =>
    let n := min 4096 (x.len - 4096 * i)
    let bs := if x.kind == 3 then (state.drop (4096 * i)).take n else s.readKey (x.key + 4096 * i) n
    match s.peer? (x.dest - 1) with
    | none => s
    | some q => s.sendRequest q 7 3 0 0 { o with peer := x.dest - 1, entry := q, va := ptgt + x.off + 4096 * i, size := n } bs) s

/-- The 64-byte header. -/
def flaconHeader (tick : Nat) (xs : List Section) : List Byte :=
  let table := xs.flatMap Section.entry
  leBytes 64 (0x464C * 2 ^ 496 + 2 ^ 488 + xs.length % 256 * 2 ^ 480 + tick % 2 ^ 64 * 2 ^ 416 + hostLen xs % 2 ^ 64 * 2 ^ 352 +
    (crc32c table).toNat * 2 ^ 320)

/-- Write a flacon (R434, R435): the status, while the peers have still to answer for the sections that they are sent. -/
def State.writeFlacon (s : State) (by_ : Issuer) (t : TileRef) (tgt tlen pmask ptgt : Nat) : State × Nat :=
  let xs := s.layout pmask
  if tlen < hostLen xs then (s, 1)
  else if tgt / 2 ^ 48 != 1 || tgt % 4096 != 0 ||
      ((List.range 32).any fun p => pmask / 2 ^ p % 2 == 1 && !s.reachable p) then (s, 2)
  else
    let state := stateBytes s.deviceState
    let o : FabOut :=
      { id := s.nextId, tag := 0, mop := 7, by_ := by_, tile := t, lane := 0, peer := 0, entry := { links := 0, fid := 0, ctx := 0 }, va := 0,
        size := 0, ty := .n32, cmd := some s.nextId }
    let s1 := xs.foldl (fun t x => if x.dest == 0 then t.saveHost tgt state x else t.savePeer o ptgt state x) { s with nextId := s.nextId + 1 }
    (s1.writeKey tgt (flaconHeader s.tick xs ++ xs.flatMap Section.entry), 0)

/-! ## Restoring a flacon (R436) -/

/-- A section from its table entry. -/
def sectionOf (bs : List Byte) : Section :=
  let x := flaconUnpack bs
  let num (k n : Nat) : Nat := ofLe ((x.drop k).take n)
  { kind := num 0 1, die := num 1 1, vlt := num 2 1, dest := num 3 1, off := num 4 8, len := num 12 8 }

/-- Pairs and triples of a list of numbers. -/
def pairsOf : List Nat → List (Nat × Nat)
  | a :: b :: r => (a, b) :: pairsOf r
  | _ => []
def triplesOf : List Nat → List (Nat × Nat × Nat)
  | a :: b :: c :: r => (a, b, c) :: triplesOf r
  | _ => []

/-- Apply a device state. -/
def State.applyDevice (s : State) (x : List (List Nat)) : State :=
  let at_ (i : Nat) : List Nat := (x[i]?).getD []
  let units := triplesOf (at_ 3)
  let s1 := { s with capQ := (at_ 0).headD s.capQ, floors := at_ 1, l3 := at_ 2, retired := units }
  let s2 := units.foldl (fun s u => s.flagUnit u.1) s1
  let s3 := (pairsOf (at_ 4)).foldl (fun s e =>
    s.setRing (e.1 / 16) (e.1 % 16) { s.ring (e.1 / 16) (e.1 % 16) with setpoint := BitVec.ofNat 12 e.2 }) s2
  (pairsOf (at_ 5)).foldl (fun s e =>
    let t : TileRef := { die := e.1 / 128, tile := e.1 % 128 }
    s.modTile t fun y => { y with word := BitVec.ofNat 16 e.2 }) s3

/-- A section's bytes as a restore reads them: at the host target, or back from its peer. -/
def State.sectionBytes (s : State) (base : Nat) (x : Section) : List Byte :=
  if x.dest == 0 then s.readKey (base + x.off) x.len else (List.range x.len).map fun i => Config.peerSection x.dest x.off i

/-- Write a section back. -/
def State.loadSection (s : State) (base : Nat) (x : Section) : State :=
  if x.kind == 3 then s
  else if x.dest == 0 then s.copyKeys (base + x.off) x.key x.len
  else s.writeKey x.key (s.sectionBytes base x)

/-- Restore a flacon, or change nothing when it is refused. -/
def State.restore (s : State) (base : Nat) : State :=
  let h := s.numKey base 64
  let n := bitsOf h 487 480
  let table := s.readKey (base + 64) (32 * n)
  let xs := (List.range n).map fun i => sectionOf ((table.drop (32 * i)).take 32)
  let dev := ((xs.filter fun x => x.kind == 3).map fun x => stateOf (s.sectionBytes base x)).headD []
  let live (u : Nat) : Bool := !(triplesOf ((dev[3]?).getD [])).any fun e => e.1 == u
  if bitsOf h 511 496 != 0x464C || bitsOf h 495 488 != 1 || bitsOf h 351 320 != (crc32c table).toNat ||
      s.retired.any fun e => live e.1 then s
  else
    (xs.foldl (fun s x => s.loadSection base x) s).applyDevice dev

/-- FLACON_LOAD (R436): after a start, before any context is resident. -/
def execFlaconLoad (base : Nat) (s : State) : Host.Outcome State Fault Refusal :=
  .next (if s.ctxs == [] && base / 2 ^ 48 == 1 then s.restore base else s)

/-! ## Starts (R437, R438) -/

/-- Is a memory key one of device memory, or of host memory? -/
def isDeviceKey (k : Nat) : Bool := k < 2 ^ 40
def isHostKey (k : Nat) : Bool := k / 2 ^ 48 == 1

/-- Firmware verification: the part enters recovery mode when the check fails, or a load was interrupted. -/
def Firmware.verify (f : Firmware) (cold : Bool) : Firmware :=
  let bad := Config.digest f.image != f.digest || f.loading != []
  { f with
    loading := []
    recovery := bad
    pending := if cold then none else f.pending
    version := if cold && f.pending.isSome then f.version + 1 else f.version }

/-- What both starts leave, once the traces have been written out (21 R417): no context, vaults, caches and stores empty, links trained, the register page and counters 0;
the firmware, the retirement map and what the outside holds stay, and so do the counts of corrected errors by which a cold
start spares rows (22 R428 names no span for them: DESIGN CHOICE, log entry 46). -/
def State.startFrom (s : State) (cold : Bool) (keep : Nat → Bool) (units : List (Nat × Nat × Nat)) : State :=
  let fw := s.fw.verify cold
  let s0 := s.stopTraces
  let s1 : State :=
    { State.reset with
      fresh := s.fresh
      agenda := s.agenda
      mem := s0.mem.filter fun e => keep e.1
      poison := s0.poison.filter keep
      started := !fw.recovery
      nextId := s.nextId
      nextLid := s.nextLid
      hostOut := s.hostOut
      mgmtOut := s.mgmtOut
      cxl := s.cxl
      fw := fw
      retired := units
      clearRetired := s.clearRetired && !cold
      rowErr := s.rowErr }
  units.foldl (fun s u => s.flagUnit u.1) s1

/-- The rows that a cold start's scan replaces (R428): those that fail and those whose corrected errors have reached 16. -/
def State.badRows (s : State) (failing : List (Nat × Nat)) : List (Nat × Nat) :=
  (failing ++ (s.rowErr.filter fun e => 16 ≤ e.2.2).map fun e => (e.1, e.2.1)).eraseDups

/-- Why a row finds no spare: it is listed for its corrected errors, or fails the test (DESIGN CHOICE, log entry 46: the codes 0 and 1). -/
def rowCause (failing : List (Nat × Nat)) (e : Nat × Nat) : Nat := if failing.contains e then 1 else 0

/-- Replace a row by a spare of its channel, while one remains; one that finds none is kept with its cause and the tick (R439). -/
def State.spareRow (cause : Nat × Nat → Nat) (s : State) (e : Nat × Nat) : State :=
  if (s.spared.filter fun x => x.1 == e.1).length < 64 then { s with spared := s.spared ++ [e] }.event 0x22 e.1 e.2
  else { s with unspared := s.unspared ++ [(e.1, e.2, cause e, s.tick)] }

/-- COLD_START: the stack repair comes before the reset of the event ring and the register page. -/
def execColdStart (inp : StartInputs) (s : State) : Host.Outcome State Fault Refusal :=
  let units := if s.clearRetired then [] else s.retired
  let s0 := (s.badRows inp.failingRows).foldl (State.spareRow (rowCause inp.failingRows)) { s with spared := [], unspared := [] }
  let s2 := { s0.startFrom true isHostKey units with rowErr := [], spared := s0.spared, unspared := s0.unspared }
  let s3 := inp.sweep.foldl (fun s e =>
    s.setRing (e.1 / 16) (e.1 % 16) { Ring.reset with setpoint := e.2, drive := e.2, flash := e.2 }) s2
  let s4 := { s3 with pbase := inp.pbase, trained := true }
  .next { s4 with pidle := s4.idleNow }

/-- Is a key one of the 16 bytes of a die's trace control frame that hold its fields (21 R410)? -/
def isTraceControl (k : Nat) : Bool := isDeviceKey k && traceBase (k / 2 ^ 37) ≤ k && k < traceBase (k / 2 ^ 37) + 16

/-- WARM_START: it keeps the other device-span state, and the rings start from the stored setpoints. The trace rings start at 0. -/
def execWarmStart (_inp : StartInputs) (s : State) : Host.Outcome State Fault Refusal :=
  if !s.trained then .next s
  else
    let s1 := s.startFrom false (fun k => isHostKey k || (isDeviceKey k && !isTraceControl k)) s.retired
    let rings := s.rings.map fun e => (e.1, { Ring.reset with setpoint := e.2.flash, drive := e.2.flash, flash := e.2.flash })
    let s2 := { s1 with rings := rings, capQ := s.capQ, floors := s.floors, l3 := s.l3, pbase := s.pbase, spared := s.spared,
                          unspared := s.unspared, trained := true }
    .next { s2 with pidle := s2.idleNow }

/-- POWER_REMOVAL: the firmware, the retirement map and the flash copies of the setpoints and of the training results stay (00 R5). -/
def execPowerRemoval (s : State) : Host.Outcome State Fault Refusal :=
  let s1 := s.startFrom false isHostKey s.retired
  .next { s1 with
    fw := s.fw, started := false, trained := s.trained, clearRetired := s.clearRetired,
    rings := s.rings.map fun e => (e.1, { Ring.reset with flash := e.2.flash, setpoint := e.2.flash }) }

/-- HEATER_FLASH_WRITE (18 R381): a setpoint reaches its flash copy. -/
def execHeaterFlashWrite (fibre : Nat) (ring : Nat) (s : State) : Host.Outcome State Fault Refusal :=
  let x := s.ring fibre ring
  .next (s.setRing fibre ring { x with flash := x.setpoint, changed := none })

end Sys2Proof.Machine
end

