-- ==== Sys2Proof/Machine/System.lean ====
section
/-!
DEFINITION. The system instructions (22 R430-R434): retirement, contexts and tile words (17 R349-R354), page migration
(16 R347), L3 targets, the watchdog limit, queue control, the summary and the checkpoint.
-/

namespace Sys2Proof.Machine

open Sys2Proof

/-- A system instruction's form: n32, no predicate (R430). -/
def sysForm (t : Nat) (ok : Bool) (a b : Arg) : Option Form := ctlForm t .n32 ok a b .absent

/-- A system operation: outside a launch with system privilege it takes trap(PRIV) (04 R90). -/
def sysOp (opc : Nat) (a b : Arg) (core : OpIn → State → OpRes) : Op :=
  { opc := opc, res := resFixed [.n32] .n32, form := fun t m => sysForm t (m == 0) a b
    core := fun i s => if !i.x.launch.sys then trapPriv else core i s }

/-- The instruction ends with its status. -/
def OpIn.sysDone (i : OpIn) (s : State) (n : Nat) : OpRes :=
  doneAll (i.modWave s fun w => { w with sysReq := none }) .n32 n

/-- The instruction waits; the wave looks again when it issues next. -/
def OpIn.sysWait (i : OpIn) (s : State) (r : SysReq) : OpRes := .wait (i.modWave s fun w => { w with sysReq := some r })

/-! ## sys.retire (R429, R431) -/

def coreSysRetire (i : OpIn) (s : State) : OpRes :=
  let u := i.uni i.a
  match i.x.wave.sysReq with
  | some (.retire v) => if s.occupied (unitTiles v) (fun _ => true) then .wait s else i.sysDone s 0
  | _ =>
    if u / 2 ^ 12 != 0 || unitKind u == 3 then .reserved
    else if (unitKind u == 0 && tilesOf (unitDie u) ≤ unitIdx u) || (unitKind u == 1 && clustersOf (unitDie u) ≤ unitIdx u) then
      trapBounds
    else if s.quiesced then .wait s
    else if s.unitDead u then i.sysDone s 1
    else if (unitTiles u).contains i.tile then i.sysDone s 2
    else
      let s1 := ((s.retire u 0).event 0x21 u 0).emptyTiles (unitTiles u) fun _ => true
      i.sysWait s1.recut (.retire u)

def opSysRetire : Op := sysOp 0x156 (.need [.n32]) .absent coreSysRetire

/-! ## sys.ctx (R432; 17 R349-R354, R360) -/

/-- Is a descriptor one that R349 accepts, given the partitions of the resident contexts? -/
def State.descOk (s : State) (x : Nat) : Bool :=
  let ptroot := bitsOf x 1023 960
  let vplo := bitsOf x 575 563
  let vsh := bitsOf x 562 550
  let vphi := bitsOf x 549 537
  let at_ (hi lo n : Nat) : Bool := bitsOf x hi lo < 2 ^ 56 && bitsOf x hi lo % n == 0
  ptroot < 2 ^ 52 && ptroot % 2048 == 0 && at_ 959 896 64 && at_ 895 832 4096 && 2 ≤ bitsOf x 831 800 && at_ 799 736 64 &&
    2 ≤ bitsOf x 735 720 && at_ 719 656 64 && at_ 639 576 16 && vplo + vsh ≤ vphi && vphi ≤ 4096 && bitsOf x 536 534 ≤ 4 &&
    bitsOf x 533 526 ≤ 128 && 32 * bitsOf x 536 534 * bitsOf x 533 526 ≤ 1024 && 4 * bitsOf x 525 513 ≤ vphi - vplo - vsh &&
    bitsOf x 501 32 == 0 && bitsOf x 31 16 == 0x4358 && bitsOf x 15 8 == 0 && bitsOf x 7 0 == 1 &&
    s.ctxs.all fun e => vphi ≤ vplo || e.2.vphi ≤ e.2.vplo || vphi ≤ e.2.vplo || e.2.vphi ≤ vplo

/-- The context that a descriptor makes. -/
def contextOf (va x : Nat) : Context :=
  { desc := va, ptroot := bitsOf x 1023 960, fpdir := bitsOf x 959 896, swapa := bitsOf x 895 832, swapn := bitsOf x 831 800,
    fring := bitsOf x 799 736, frn := bitsOf x 735 720, dbga := bitsOf x 719 656, dbgn := bitsOf x 655 640,
    tsa := bitsOf x 639 576, vplo := bitsOf x 575 563, vsh := bitsOf x 562 550, vphi := bitsOf x 549 537,
    c0slot := bitsOf x 536 534, c0reg := bitsOf x 533 526, c0vb := bitsOf x 525 513, c0pin := bitsOf x 512 512 == 1,
    c0vc := bitsOf x 511 511 == 1, slice := bitsOf x 509 502, dbg := bitsOf x 510 510 == 1, tmask := 2, tnext := [],
    head := 0, held := [], heldRaised := false, unfreed := [], dlq := [], retiring := false }

/-- A tile record (17 R354) as a 128-bit number, and the set that one holds. -/
def tileRecord (x : TileCtx) : Nat :=
  x.pcpy * 2 ^ 112 + x.pkv * 2 ^ 96 + x.pmma * 2 ^ 80 + x.pfab * 2 ^ 64 + x.prow * 2 ^ 48 + x.gear
def tileRecordOf (r : Nat) : TileCtx :=
  { gear := if bitsOf r 2 0 ≤ 5 then bitsOf r 2 0 else 4, pcpy := bitsOf r 127 112, pkv := bitsOf r 111 96,
    pmma := bitsOf r 95 80, pfab := bitsOf r 79 64, prow := bitsOf r 63 48, boost := false }

/-- Where a context's record of a tile stands. -/
def tileRecordVa (tsa : Nat) (t : TileRef) : Nat := tsa + 16 * (96 * t.die + t.tile)

/-- Write a context's record of a tile. One that cannot be written without a page fault is left as it is (DESIGN CHOICE,
log entry 33). -/
def State.putTileRecord (s : State) (ctx die : Nat) (t : TileRef) (x : TileCtx) : State :=
  match s.ctx? ctx with
  | none => s
  | some c => (s.putVa partWriter ctx die (tileRecordVa c.tsa t) (leBytes 16 (tileRecord x))).1

/-- Every tile of the part. -/
def allTiles : List TileRef := (List.range 8).flatMap fun d => (List.range (tilesOf d)).map fun j => { die := d, tile := j }

/-- A context becomes resident: its tile records, and its sets on the tiles that name it, take the values of R223. The tiles have left reset
long since, and their T0 stands (DESIGN CHOICE, log entry 42). -/
def State.makeResident (s : State) (ctx die va x : Nat) : State :=
  let s1 := s.setCtx ctx (contextOf va x)
  let s2 := allTiles.foldl (fun s t => s.putTileRecord ctx die t TileCtx.reset) s1
  let s3 := s2.tiles.foldl (fun s e =>
    let t := tileOfKey e.1
    (s.modTile t fun y => { y with ctxs := y.ctxs.del ctx }).decideGear t 0) s2
  s3.rescale

/-- Is a context quiescent (16 R347): no launch of it, of those named, between STATE 1 and STATE 3? -/
def State.quiescent (s : State) (ctx before : Nat) : Bool :=
  !s.launches.any fun e => e.1 < before && e.2.ctx == ctx && e.2.running

/-- Does a wave of a resident or parked block run a translation (01 R13)? -/
def State.runsTid (s : State) (tid : Nat) : Bool :=
  s.launches.any fun e => e.2.blocks.any fun b =>
    (b.2.phase == .resident || b.2.phase == .parked) && b.2.waves.any fun w => w.frames.any fun f => f.tid == tid

/-- The cluster of a key. -/
def clusterOfKey (k : Nat) : ClusterRef := { die := k / 32, cl := k % 32 }

/-- The lines of a translation leave the caches, each counted and traced at its cluster (14 R306). -/
def State.dropLines (s : State) (t : Translation) : State :=
  s.clusters.foldl (fun s e =>
    let c := clusterOfKey e.1
    let s1 := s.modCluster c fun x => { x with lines := x.lines.filter fun l => l.1 != t.tid }
    ((e.2.lines.filter fun l => l.1 == t.tid)).foldl (fun s _ => (s.countCluster c 0x21).emitXlat c 2 t.key) s1) s

/-- A translation leaves its die's store, and so do its lines the caches (14 R301, R306): counted and traced at a cluster. -/
def State.evict (s : State) (c : ClusterRef) (t : Translation) : State :=
  ((State.dropLines { s with store := s.store.filter fun u => u.tid != t.tid } t).countCluster c 0x22).emitXlat c 2 t.key

/-- Discard translations. No request asks for it: it counts at cluster 0 of the die (DESIGN CHOICE, log entry 61). -/
def State.dropStore (s : State) (p : Translation → Bool) : State :=
  (s.store.filter p).foldl (fun s t => s.evict { die := t.die, cl := 0 } t) s

/-- Translations that have been discarded or replaced leave the store once no wave runs them (01 R13; 14 R301). -/
def State.sweep (s : State) : State :=
  if s.store.any fun t => t.stale then s.dropStore fun t => t.stale && !s.runsTid t.tid else s

/-- Does a memory key lie in a vault partition of a context (11 R235)? -/
def inPartition (s : State) (ctx k : Nat) : Bool :=
  match s.ctx? ctx with
  | some c => isVaultKey k && k < 2 ^ 80 && 4096 * c.vplo ≤ k % 2 ^ 24 && k % 2 ^ 24 < 4096 * c.vphi
  | none => false

/-- A context is retired (17 R352, R360): its translations, cached translations, reservations and partition end, and so do its
gear, its pacing and its boost request on every tile; its tile words stand. A frame kept after a lost binding (16 R343) and a binding in
progress stay under the context's number (DESIGN CHOICE, log entry 73). -/
def State.retireCtx (s : State) (ctx : Nat) : State :=
  let s1 := (s.dropStore fun t => t.ctx == ctx).dropTlb ctx
  let s2 : State :=
    { s1 with
      ctxs := s1.ctxs.del ctx
      tiles := s1.tiles.map fun e => (e.1, { e.2 with ctxs := e.2.ctxs.del ctx })
      clusters := s1.clusters.map fun e => (e.1, e.2.forget fun r => r.ctx == ctx) }
  let s3 := { s2 with failed := s2.failed.filter fun k => !inPartition s ctx k }
  (s3.tiles.foldl (fun s e => s.decideGear (tileOfKey e.1) 0) s3).rescale

/-- The contexts that a tile word gives a share. -/
def wordOwners (w : Nat) : List Nat := if bitsOf w 15 15 == 1 then [bitsOf w 12 11, bitsOf w 14 13] else [bitsOf w 12 11]

/-- Is a tile word one that R351 accepts? -/
def wordOk (w : Nat) : Bool :=
  w < 2 ^ 16 && w % 64 == 0 &&
    (bitsOf w 15 15 == 0 || (1 ≤ bitsOf w 8 6 && bitsOf w 8 6 ≤ 3 && bitsOf w 14 13 != bitsOf w 12 11))

/-- Swap out the blocks of the contexts that a tile's waiting word takes it from (17 R354), once no switch runs. -/
def State.beginReassign (s : State) (t : TileRef) : State :=
  let x := s.tile t
  match x.reassign with
  | none => s
  | some w =>
    if x.switch.isSome then s
    else s.emptyTiles [t] fun c => x.hasShare c && !(wordOwners w.toNat).contains c

/-- The debug bit of a context changes (14 R301, R314): its translations are discarded, those that waves run once none does. -/
def State.setDebug (s : State) (ctx : Nat) (on : Bool) : State :=
  match s.ctx? ctx with
  | none => s
  | some c =>
    if c.dbg == on then s
    else
      let s1 := s.setCtx ctx { c with dbg := on }
      State.sweep { s1 with store := s1.store.map fun t => if t.ctx == ctx then { t with stale := true } else t }

/-- `.mk`: the descriptor is read at the place. -/
def coreCtxMk (i : OpIn) (s : State) : OpRes :=
  let c := i.uni i.a
  let va := i.uni i.b
  if 3 < c then trapBounds
  else
    match s.readAcc i.x [.glob] 16 [(va, 128)] with
    | .error r => r
    | .ok (s1, bs) =>
      let x := ofLe bs.flatten
      if (s1.ctx? c).isSome then i.sysDone s1 2
      else if va % 64 != 0 || !s1.descOk x then i.sysDone s1 1
      else i.sysDone (s1.makeResident c i.x.block.die va x) 0

/-- `.ret`. -/
def coreCtxRet (i : OpIn) (s : State) : OpRes :=
  let c := i.uni i.a
  if 3 < c then trapBounds
  else if (s.ctx? c).isNone then i.sysDone s 2
  else if s.quiescent c s.nextLid then i.sysDone (s.retireCtx c) 0
  else i.sysWait s (.ctxRet c)

/-- `.tile`. -/
def coreCtxTile (i : OpIn) (s : State) : OpRes :=
  let a := i.uni i.a
  let w := i.uni i.b
  let t : TileRef := { die := bitsOf a 10 8, tile := bitsOf a 6 0 }
  if a / 2 ^ 11 != 0 || bitsOf a 7 7 != 0 then .reserved
  else if tilesOf t.die ≤ t.tile then trapBounds
  else if !wordOk w then i.sysDone s 1
  else if (wordOwners w).any fun c => (s.ctx? c).isNone then i.sysDone s 2
  else i.sysDone ((s.modTile t fun x => { x with reassign := some (BitVec.ofNat 16 w) }).beginReassign t) 0

/-- `.dbg`. -/
def coreCtxDbg (i : OpIn) (s : State) : OpRes :=
  let c := i.uni i.a
  if 3 < c then trapBounds
  else if (s.ctx? c).isNone then i.sysDone s 2
  else i.sysDone (s.setDebug c (i.uni i.b % 2 == 1)) 0

/-- `sys.ctx`, by MOD. -/
def opSysCtx : Op :=
  { opc := 0x15C, res := resFixed [.n32] .n32
    form := fun t m => sysForm t (m ≤ 3) (.need [.n32])
      (match m with | 0 => .need [.addr] | 1 => .absent | _ => .need [.n32])
    core := fun i s =>
      if !i.x.launch.sys then trapPriv
      else
        match i.md with
        | 0 => coreCtxMk i s
        | 1 => coreCtxRet i s
        | 2 => coreCtxTile i s
        | _ => coreCtxDbg i s }

/-! ## sys.migr (R433; 16 R347) -/

/-- Can an access be made? The instruction's own check of the regions that its request names. -/
def State.reachesVa (s : State) (x : Site) (va n : Nat) (rd wr : Bool) : State × Except OpRes Unit :=
  if n == 0 then (s, .ok ())
  else
    match s.access x [.glob] 1 rd wr [(va, n)] with
    | .error r => (s, .error r)
    | .ok (s1, _) => ({ s with tlb := s1.tlb, walks := s1.walks, spareFrames := s1.spareFrames, mem := s1.mem }, .ok ())

def coreSysMigr (i : OpIn) (s : State) : OpRes :=
  match i.x.wave.sysReq with
  | some (.migrated n) => i.sysDone s n
  | some (.migr _ _ _ _ _ _) => .wait s
  | _ =>
    match s.readAcc i.x [.glob] 16 [(i.uni i.a, 32)] with
    | .error r => r
    | .ok (s1, bs) =>
      let x := ofLe bs.flatten
      let npg := bitsOf x 127 96
      let list := bitsOf x 255 192
      let rel := bitsOf x 191 128
      if 65536 < npg then trapBounds
      else
        match s1.reachesVa i.x list (8 * npg) true true with
        | (_, .error r) => r
        | (s2, .ok _) =>
          match s2.reachesVa i.x rel (if npg == 0 then 0 else 8 * npg + 8) false true with
          | (_, .error r) => r
          | (s3, .ok _) =>
            i.sysWait s3 (.migr (bitsOf x 92 91) (bitsOf x 95 93) list rel npg s3.nextLid)

def opSysMigr : Op := sysOp 0x159 (.need [.addr]) .absent coreSysMigr

/-- The leaf that a die's walk finds for an address of a context's global window (16 R340, R347). -/
def State.pageOf (s : State) (ctx die va : Nat) : Option Leaf :=
  match s.ctx? ctx with
  | none => none
  | some c => if isGlobal va then (walkFrom s (s.walkCache ctx die) va 4 c.ptroot).map Prod.fst else none

/-- What becomes of one page: migrated with its old frame, left as it is, or skipped. -/
inductive PageMove where
  | moved (s : State) (old : Nat)
  | left
  | skipped
deriving DecidableEq, Repr

/-- Migrate one page (R347): a frame of the target die, the contents, every replica of the entry, and the cached
translations of the page. -/
def State.movePage (s : State) (ctx die va : Nat) : PageMove :=
  match s.pageOf ctx die va with
  | none => .skipped
  | some l =>
    if !pteBacked l.e then .left
    else
      let size := pteSize l.e
      match s.takeFrame ctx die size, paKey? (ptePa l.e) with
      | some (s1, f), some old =>
        let s2 := s1.copyKeys old f (2 ^ pageBits size)
        let n := pageReplicas size
        let e := l.e % 256 + die * 256 + f
        match paKey? (l.pa - 8 * (l.idx % n)) with
        | none => .skipped
        | some fk =>
          let s3 := (List.range n).foldl (fun s i => s.writeKey (fk + 8 * i) (leBytes 8 e)) s2
          let page := va - va % 2 ^ pageBits size
          .moved { s3 with tlb := s3.tlb.filter fun t => !(t.ctx == ctx && t.page == page) } (ptePa l.e)
      | _, _ => .skipped

/-- Migrate the pages of a list, in order: the state and the old frames, the last first. A skipped page's list entry gets
bit 63. -/
def State.movePages (s : State) (x : Site) (ctx die list : Nat) : List Nat → State × List Nat
  | [] => (s, [])
  | k :: r =>
    let at_ := list + 8 * k
    match s.readVa x.launch.ctx x.block.die at_ 8 with
    | (s1, .error _) => State.movePages s1 x ctx die list r
    | (s1, .ok bs) =>
      match s1.movePage ctx die (ofLe bs) with
      | .moved s2 old =>
        let q := State.movePages s2 x ctx die list r
        (q.1, old :: q.2)
      | .left => State.movePages s1 x ctx die list r
      | .skipped =>
        let v := ofLe bs % 2 ^ 63 + 2 ^ 63
        State.movePages (s1.putVa partWriter x.launch.ctx x.block.die at_ (leBytes 8 v)).1 x ctx die list r

/-- MIGRATION_APPLY (R347): the context is quiescent; the pages move, the old frames are listed behind their count, and
the instruction completes with the count of pages migrated. A request for no page only drops the context's cached
translations (R346). -/
def execMigrationApply (w : WaveRef) (s : State) : Host.Outcome State Fault Refusal :=
  match s.site? w with
  | none => .next s
  | some x =>
    match x.wave.sysReq with
    | some (.migr ctx die list rel npg before) =>
      if !s.quiescent ctx before then .next s
      else if npg == 0 then .next ((s.dropTlb ctx).modWave w fun y => { y with sysReq := some (.migrated 0) })
      else
        let q := s.movePages x ctx die list (List.range npg)
        let bs := leBytes 8 q.2.length ++ q.2.flatMap fun f => leBytes 8 f
        let s1 := (q.1.putVa partWriter x.launch.ctx x.block.die rel bs).1
        .next (s1.modWave w fun y => { y with sysReq := some (.migrated q.2.length) })
    | _ => .next s

/-! ## sys.l3cls, sys.wdog, sys.q (R433; 11 R246; 09 R213; 18 R368) -/

/-- Lower the last targets, T3 first, until the sum is 64 (11 R246). -/
def fitTargets (t0 t1 t2 t3 : Nat) : List Nat :=
  let excess (n : Nat) : Nat := n - 64
  let d3 := min t3 (excess (t0 + t1 + t2 + t3))
  let u3 := t3 - d3
  let d2 := min t2 (excess (t0 + t1 + t2 + u3))
  let u2 := t2 - d2
  let d1 := min t1 (excess (t0 + t1 + u2 + u3))
  [t0, t1 - d1, u2, u3]

def coreSysL3cls (i : OpIn) (s : State) : OpRes :=
  let v := i.uni i.a
  let t (k : Nat) : Nat := v / 2 ^ (7 * k) % 128
  if v / 2 ^ 28 != 0 then .reserved
  else if [0, 1, 2, 3].any fun k => 64 < t k then trapBounds
  else i.sysDone { s with l3 := fitTargets (t 0) (t 1) (t 2) (t 3) } 0

def opSysL3cls : Op := sysOp 0x15A (.need [.n32]) .absent coreSysL3cls

def coreSysWdog (i : OpIn) (s : State) : OpRes :=
  let c := i.uni i.a
  let n := i.uni i.b
  if 3 < c || n < 2 ^ 16 || 2 ^ 32 < n then trapBounds else i.sysDone { s with wdogs := s.wdogs.set c n } 0

def opSysWdog : Op := sysOp 0x15B (.need [.n32]) (.need [.n64]) coreSysWdog

def coreSysQ (i : OpIn) (s : State) : OpRes :=
  let v := i.uni i.a
  if v / 32 != 0 then .reserved else i.sysDone (s.writeQen (v % 16) (v / 16 % 2 == 1)) 0

def opSysQ : Op := sysOp 0x15D (.need [.n32]) .absent coreSysQ

/-! ## sys.rsync (R439) -/

def coreSysRsync (i : OpIn) (s : State) : OpRes :=
  let va := i.uni i.a
  match s.readAcc i.x [.glob] 16 [(va, 16)] with
  | .error r => r
  | .ok (s1, _) =>
    let bs := s.summaryBytes
    if i.uni i.b < bs.length then i.sysDone s1 (bs.length % 2 ^ 31 + 2 ^ 31)
    else
      match s.access i.x [.glob] 16 false true [(va, bs.length)] with
      | .error r => r
      | .ok (s2, sp) => i.sysDone (s2.putSpans i.x.laneWriter sp.flatten bs) (bs.length % 2 ^ 32)

def opSysRsync : Op := sysOp 0x158 (.need [.addr]) (.need [.n32]) coreSysRsync

/-! ## sys.ckpt (R434; 21 R417) -/

/-- Is a message to a peer that holds sections of a flacon still unanswered? -/
def State.flaconWaits (s : State) (id : Nat) : Bool := s.fabOut.any fun o => o.cmd == some id

/-- Has every other launch reached STATE 3 or 4, and has every engine command of the block completed? -/
def State.ckptReady (s : State) (b : BlockRef) : Bool :=
  (s.launches.all fun e => e.1 == b.lid || e.2.isOver) && !s.owesWords b &&
    !(s.tiles.any fun t =>
      (t.2.copyQ.any fun c => c.block == b) || (t.2.kvQ.any fun c => c.block == b) ||
        t.2.rowQ.any fun c => c.by_.wave.block == b) &&
    !(s.launches.any fun e => e.1 == b.lid && e.2.cgrps.any fun r => r.issues.any fun i => i.blk == b.blk && !i.ended)

def coreSysCkpt (i : OpIn) (s : State) : OpRes :=
  match i.x.wave.sysReq with
  | some (.ckpt tgt tlen pmask ptgt) =>
    if !s.ckptReady i.x.w.block then .wait s
    else
      match s.writeFlacon i.issuer i.tile tgt tlen pmask ptgt with
      | (s1, n) =>
        if n == 0 && s1.flaconWaits s.nextId then i.sysWait s1 (.flacon s.nextId s.tick false)
        else i.sysDone ({ s1 with quiesced := false }.event 0x23 n s.tick) n
  | some (.flacon id tick bad) =>
    if s.flaconWaits id then .wait s
    else
      let n := if bad then 2 else 0
      i.sysDone ({ s with quiesced := false }.event 0x23 n tick) n
  | _ =>
    if 1 < i.x.launch.nblock then i.sysDone s 3
    else
      match s.readAcc i.x [.glob] 16 [(i.uni i.a, 64)] with
      | .error r => r
      | .ok (s1, bs) =>
        let x := ofLe bs.flatten
        i.sysWait ({ s1 with quiesced := true } : State).closeTraces
          (.ckpt (bitsOf x 511 448) (bitsOf x 447 384) (bitsOf x 383 352) (bitsOf x 351 288))

def opSysCkpt : Op := sysOp 0x157 (.need [.addr]) .absent coreSysCkpt

def execSysRetire (f : Fields) (s : State) : Host.Outcome State Fault Refusal := runOp opSysRetire f s
def execSysCkpt (f : Fields) (s : State) : Host.Outcome State Fault Refusal := runOp opSysCkpt f s
def execSysRsync (f : Fields) (s : State) : Host.Outcome State Fault Refusal := runOp opSysRsync f s
def execSysMigr (f : Fields) (s : State) : Host.Outcome State Fault Refusal := runOp opSysMigr f s
def execSysL3cls (f : Fields) (s : State) : Host.Outcome State Fault Refusal := runOp opSysL3cls f s
def execSysWdog (f : Fields) (s : State) : Host.Outcome State Fault Refusal := runOp opSysWdog f s
def execSysCtxMk (f : Fields) (s : State) : Host.Outcome State Fault Refusal := runOp opSysCtx f s
def execSysCtxRet (f : Fields) (s : State) : Host.Outcome State Fault Refusal := runOp opSysCtx f s
def execSysCtxTile (f : Fields) (s : State) : Host.Outcome State Fault Refusal := runOp opSysCtx f s
def execSysCtxDbg (f : Fields) (s : State) : Host.Outcome State Fault Refusal := runOp opSysCtx f s
def execSysQ (f : Fields) (s : State) : Host.Outcome State Fault Refusal := runOp opSysQ f s

end Sys2Proof.Machine
end

