-- ==== Sys2Proof/Machine/Tree.lean ====
section
/-!
DEFINITION. The token-tree instructions (08 R195-R198): ancestor bitmaps, the attention mask, and the masked fill.
-/

namespace Sys2Proof.Machine

open Sys2Proof

/-- The parent of node j (R196): byte j mod 8 of lane j / 8, active or not. -/
def parentOf (v : Value) (j : Nat) : Nat := (v.x[j / 8]?.getD 0).toNat / 2 ^ (8 * (j % 8)) % 256

/-- The ancestor sets of the first nodes (R196), as 256-bit numbers. -/
def ancestors (v : Value) : Nat → List Nat
  | 0 => []
  | j + 1 =>
    let as := ancestors v j
    as ++ [2 ^ j ||| (if j == 0 then 0 else (as[parentOf v j]?).getD 0)]

/-- `tanc` (R196). -/
def coreTanc (i : OpIn) (s : State) : OpRes :=
  match i.mask.lowest with
  | none => .done s (Value.zero .tile)
  | some l =>
    let n := i.c.nat l
    if n < 1 || 256 < n then trapBounds
    else if (List.range n).any fun j => 0 < j && j ≤ parentOf i.a j then trapBounds
    else
      let as := ancestors i.a n
      .done s (lanesOf .tile fun k => (as[i.b.nat k]?).getD 0)

def opTanc : Op :=
  { opc := 0x130, res := resFixed [.tile] .tile, core := coreTanc
    form := fun t m => formFor [.tile] t (m == 0) fun _ =>
      { a := .need [.n64], b := .need [.n32], c := .need [.n32], pred := true, res := .tile, pass := .zero } }

/-- Is key column j allowed for a query row (R197)? -/
def keyAllowed (row kb p j : Nat) : Bool :=
  kb + j < p || (kb + j - p < 256 && (row / 2 ^ (kb + j - p)) % 2 == 1)

/-- `tmask` (R197). -/
def coreTmask (i : OpIn) (s : State) : OpRes :=
  match i.mask.lowest with
  | none => .done s (Value.zero .n32)
  | some l =>
    .done s (lanesOf .n32 fun k =>
      ((List.range 32).filter (keyAllowed (i.a.nat k) (i.b.nat l) (i.c.nat l))).foldl (fun a j => a + 2 ^ j) 0)

def opTmask : Op :=
  { opc := 0x131, res := resFixed [.n32] .n32, core := coreTmask
    form := fun t m => formFor [.n32] t (m == 0) fun _ =>
      { a := .need [.tile], b := .need [.n32], c := .need [.n32], pred := true, res := .n32, pass := .zero } }

/-- A row of `tsel` (R198). -/
def selRow (row m fill : Nat) : Nat :=
  (List.range 32).foldl (fun a j => a + (if m / 2 ^ j % 2 == 1 then tileElem row j else fill) * 2 ^ (32 * j)) 0

def opTsel : Op :=
  { opc := 0x132, res := resFixed [.tile] .tile
    core := fun i s => .done s (lanesOf .tile fun k => selRow (i.a.nat k) (i.b.nat k) (i.c.nat k))
    form := fun t m => formFor [.tile] t (m == 0) fun _ =>
      { a := .need [.tile], b := .need [.n32], c := .need [.i32, .n32, .f32], pred := true, res := .tile, pass := .opA } }

def execTanc (f : Fields) (s : State) : Host.Outcome State Fault Refusal := runOp opTanc f s
def execTmask (f : Fields) (s : State) : Host.Outcome State Fault Refusal := runOp opTmask f s
def execTsel (f : Fields) (s : State) : Host.Outcome State Fault Refusal := runOp opTsel f s

end Sys2Proof.Machine
end

