-- ==== Sys2Proof/Machine/Registry.lean ====
section
/-!
DEFINITION. Every operation whose effect is a function of its operands, by opcode: what the translator knows of a word
before it runs (04 R82), and what a native op does (05 R92).
-/

namespace Sys2Proof.Machine

open Sys2Proof

/-- The integer and address group. -/
def opsInteger : List Op :=
  [opAdd, opSub, opMul, opMulhi, opDiv, opRem, opMin, opMax, opMulw, opMad, opNeg, opAbs, opAnd, opOr, opXor,
   opNot, opShl, opShr, opRot, opPopc, opClz, opCtz, opBrev, opBfx, opBfi, opCmp, opSel, opExt, opAoff,
   opAdiff, opVaddr, opDp4]

/-- The vector float group. -/
def opsFloat : List Op :=
  [opFadd, opFsub, opFmul, opFdiv, opFsqrt, opFrsq, opFrcp, opFma, opFlerp, opFmin, opFmax, opFneg, opFabs,
   opFcopys, opFcmp, opFclass, opFexp2, opFlog2, opFexp, opFlog, opFsin, opFcos, opFtanh, opFsigm, opFgelu,
   opFsilu, opFfloor, opFceil, opFround, opFtrunc, opFscale, opFdot2, opFstat, opFclr]

/-- The SLI group. -/
def opsSli : List Op :=
  [opSliAdd, opSliSub, opSliMul, opSliDiv, opSliNeg, opSliAbs, opSliRcp, opSliCmp, opSliMin, opSliMax,
   opSliStat, opSliClr, opSliLvl, opSliSq]

/-- The conversion and quantise group. -/
def opsQuant : List Op :=
  [opCvt, opBitc, opQz, opXscl, opDq, opHadm, opPkn, opUpkn]

/-- The lane exchange group. -/
def opsLane : List Op :=
  [opShfl, opBcast, opLsel, opVote, opGtrans, opScan, opRed]

/-- The control flow group. -/
def opsControl : List Op :=
  [opYield, opTrap, opTrapinfo]

/-- The memory group. -/
def opsMemory : List Op :=
  [opLdG, opStG, opLdVa, opStVa, opStTile, opPfG, opAtomAdd, opAtomMin, opAtomMax, opAtomAnd, opAtomOr,
   opAtomXor, opAtomXchg, opAtomCas, opAtomFadd]

/-- The synchronisation group. -/
def opsSync : List Op :=
  [opBarB, opBarG, opBarGLv, opWait, opCdrain, opXfence, opGred]

/-- The copy group. -/
def opsCopy : List Op :=
  [opCpyBlk, opCpyGrp, opCpyW, opCpyFill]

/-- The key-value commit group. -/
def opsKv : List Op :=
  [opKvcommit]

/-- The matrix group. -/
def opsMatrix : List Op :=
  [opFmtld, opLdFrag, opTcvt, opTzero, opTextr, opTins, opMma, opMmaL2]

/-- The row engine group. -/
def opsRow : List Op :=
  [opRowTop, opRowHeart, opRowBase, opRowPace, opRowSync, opRowCfg]

/-- The token tree group. -/
def opsTree : List Op :=
  [opTanc, opTmask, opTsel]

/-- The gear and clock group. -/
def opsClock : List Op :=
  [opGear, opGearRd, opClk, opPace, opBoost]

/-- The launch and context group. -/
def opsLaunch : List Op :=
  [opLaunch, opTrig, opLwait, opCtxid, opPrio]

/-- The fabric group. -/
def opsFabric : List Op :=
  [opFabLd, opFabSt, opFabAtom, opLkPark, opLkWake, opLkHeat, opLkStat, opLkThr]

/-- The trace group. -/
def opsTraceOps : List Op :=
  [opTrcMark, opTrcOn, opTrcOff, opCntRd]

/-- The debug group. -/
def opsDebug : List Op :=
  [opDbgBrk, opDbgStop, opDbgUndo]

/-- The power group. -/
def opsPower : List Op :=
  [opSysCap, opSysFloor]

/-- The system group. -/
def opsSystem : List Op :=
  [opSysRetire, opSysCtx, opSysMigr, opSysL3cls, opSysWdog, opSysQ, opSysRsync, opSysCkpt]

/-- Every group (04 R89). -/
def registry : List Op :=
  opsInteger ++ opsFloat ++ opsSli ++ opsQuant ++ opsLane ++ opsControl ++ opsMemory ++
    opsSync ++ opsCopy ++ opsKv ++ opsMatrix ++ opsRow ++ opsTree ++ opsClock ++
    opsLaunch ++ opsFabric ++ opsTraceOps ++ opsDebug ++ opsPower ++ opsSystem

/-- The operation of an opcode. -/
def opOf (opc : Nat) : Option Op := registry.find? fun o => o.opc == opc

end Sys2Proof.Machine
end

