-- ==== Sys2Proof/Machine/Places.lean ====
section
/-!
DEFINITION. What the portable code alone says of a place (04 R70, R82; 06 R140): the type that its word defines, whether the
word is illegal wherever it runs, and the value of an instruction that has no effect but its value (05 R112, KIND 4).
-/

namespace Sys2Proof.Machine

open Sys2Proof

/-- Opcodes whose words a dictionary override makes illegal whatever its bits (06 R133): `br`, `brc`, `call`, `const`,
`constw`, `param`. -/
def ovrIllegal (opc : Nat) : Bool := (0x0C0 ≤ opc && opc ≤ 0x0C2) || (0x020 ≤ opc && opc ≤ 0x022)

/-- The type of the trapped place of a word that is no instruction (06 R140). -/
def wordResTy (w : BitVec 64) : Ty := fallbackTy (fieldsOf w).typ.toNat

/-- The result type of an operation that the registry does not hold. -/
def immResTy (opc typ : Nat) : Option Ty :=
  match opc with
  | 0x020 => resSame tyConst typ
  | 0x021 => resSame tyExt typ
  | 0x022 => resSame tyParam typ
  | 0x023 => resSame [.n32, .n64] typ
  | 0x0C2 => if typ ≤ 11 then Ty.ofCode typ else none
  | _ => some .void

/-- The type that a placed word's place has (04 R73; 06 R140). -/
def placeTy (p : PlaceCode) : Ty :=
  let opc := (opcOf p.word).toNat
  let typ := (fieldsOf p.word).typ.toNat
  if p.ovr && ovrIllegal opc then wordResTy p.word
  else
    match decodeWord p.word p.args with
    | .error _ => wordResTy p.word
    | .ok _ =>
      match opOf opc with
      | some o => o.resTy typ
      | none => (immResTy opc typ).getD (wordResTy p.word)

/-- The types of a block's places, in order. -/
def BlockCode.tys (b : BlockCode) : List Ty :=
  (b.params.map fun c => (Ty.ofCode c.toNat).getD .void) ++ b.code.map placeTy

/-! ## Words that are illegal wherever they run (04 R82) -/

/-- The type that a back-reference names, of places in reverse order. -/
def tyRef (tys : List Ty) (r : Ref) : Option Ty := if r == 0 then none else tys[r.toNat - 1]?

/-- Does an operand field fit its form? -/
def argFits (tys : List Ty) (a : Arg) (r : Ref) : Bool :=
  match a with
  | .absent => r == 0
  | .need ts => match tyRef tys r with | some t => ts.contains t | none => false
  | .may ts => r == 0 || (match tyRef tys r with | some t => ts.contains t | none => false)

/-- Does a predicate field fit? -/
def predFits (tys : List Ty) (allowed : Bool) (r : Ref) : Bool := r == 0 || (allowed && tyRef tys r == some .pred)

/-- Do references name values of parameter types? -/
def argTysFit (tys : List Ty) : List (BitVec 4) → List Ref → Bool
  | [], [] => true
  | t :: ts, r :: rs =>
    (match tyRef tys r with | some u => u.code == t.toNat && u != .void | none => false) && argTysFit tys ts rs
  | _, _ => false

/-- Does a control word fit: `br`, `brc`, `call`, `ret`, `exit`, `tret`? -/
def ctlFits (t : Translation) (tys : List Ty) (p : PlaceCode) : Bool :=
  let f := fieldsOf p.word
  let np (b : Nat) : Option (List (BitVec 4)) := (t.blocks[b]?).map BlockCode.params
  let rs := argRefs p.args
  match (opcOf p.word).toNat with
  | 0x0C0 =>
    f.typ == 0 && f.a == 0 && f.target0 == 0 && !f.bit0 &&
      (match np f.target1.toNat with | some ts => argTysFit tys ts rs | none => false)
  | 0x0C1 =>
    f.typ == 0 && !f.bit0 && argFits tys (.need [.pred]) f.a &&
      (match np f.target1.toNat, np f.target0.toNat with
       | some t1, some t0 => argTysFit tys t1 (rs.take t1.length) && argTysFit tys t0 (rs.drop t1.length)
       | _, _ => false)
  | 0x0C2 =>
    f.typ.toNat ≤ 11 && f.a == 0 && f.target0 == 0 && !f.bit0 &&
      (match (t.callees.find? fun e => e.1 == f.target1.toNat).bind fun e => e.2 with
       | some ts => argTysFit tys ts rs
       | none => true)
  | 0x0C8 =>
    f.md == 0 && f.b == 0 && f.c == 0 && f.p == 0 && f.typ == 0 &&
      (f.a == 0 || (match tyRef tys f.a with | some t => t != .void | none => false))
  | 0x0C4 => f.typ == 0 && f.md == 0 && f.a == 0 && f.b == 0 && f.c == 0 && f.p == 0
  | _ =>
    f.md == 0 && f.b == 0 && f.c == 0 && f.p == 0 && f.typ.toNat ≤ 11 &&
      (if f.typ == 0 then f.a == 0
       else match Ty.ofCode f.typ.toNat with | some u => argFits tys (.need [u]) f.a | none => false)

/-- Does a word whose fields hold an immediate or a selector break R78-R81? -/
def immFits (opc : Nat) (f : Fields) : Bool :=
  match opc with
  | 0x020 => constImmOk f.typ.toNat f.imm33.toNat && f.md == 0 && f.p == 0
  | 0x021 => tyExt.contains (tyOf f.typ) && f.md.toNat ≤ 20
  | 0x022 => tyParam.contains (tyOf f.typ) && f.md == 0 && f.a == 0 && f.p == 0
  | _ => f.md.toNat ≤ 19 && f.typ == (if f.md == 4 then 5 else 3) && f.a == 0 && f.b == 0 && f.c == 0 && f.p == 0

/-- Does a placed word take trap(RESERVED) whatever its operands' values, after places of these types, the latest first? -/
def illegalWord (t : Translation) (tys : List Ty) (p : PlaceCode) : Bool :=
  let opc := (opcOf p.word).toNat
  let f := fieldsOf p.word
  if p.ovr && ovrIllegal opc then true
  else
    match decodeWord p.word p.args with
    | .error _ => true
    | .ok _ =>
      match opOf opc with
      | some o =>
        match o.form f.typ.toNat f.md.toNat with
        | some fm => !(argFits tys fm.a f.a && argFits tys fm.b f.b && argFits tys fm.c f.c && predFits tys fm.pred f.p)
        | none => true
      | none => if 0x020 ≤ opc && opc ≤ 0x023 then !immFits opc f else !ctlFits t tys p

/-- The number of a block's illegal words. -/
def illegalInBlock (t : Translation) (b : BlockCode) : Nat :=
  (b.code.foldl (fun a p => (placeTy p :: a.1, if illegalWord t a.1 p then a.2 + 1 else a.2))
    ((b.params.map fun c => (Ty.ofCode c.toNat).getD .void).reverse, 0)).2

/-- The number of a translation's words for which the translator emits the trap path (14 R306, R307). -/
def Translation.illegal (t : Translation) : Nat := (t.blocks.map (illegalInBlock t)).sum

/-! ## Values computed anew -/

/-- The effect of an opcode that the registry does not hold and whose word holds an immediate. -/
def immCore (opc : Nat) (f : Fields) : Option (OpIn → State → OpRes) :=
  match opc with
  | 0x020 => some (coreConst f.imm33.toNat)
  | 0x021 => some fun i s => .done s (splat i.ty (f.imm44.toNat * 2 ^ f.md.toNat))
  | 0x022 => some (coreParam f.off22.toNat)
  | 0x023 => some (coreId f.md.toNat)
  | _ => none

/-- The value that an ended instruction defined. -/
def OpRes.value? : OpRes → Option Value
  | .done _ v => some v
  | _ => none

/-- The value of a placed word in a wave, given the values of its operands. -/
def placeResult (s : State) (x : Site) (p : PlaceCode) (m : LaneMask) (ref : Ref → Option Value) : Option Value :=
  let opc := (opcOf p.word).toNat
  let f := fieldsOf p.word
  match Ty.ofCode f.typ.toNat with
  | none => none
  | some ty =>
    let i : OpIn :=
      { x := x, mask := m, amask := m, ty := ty, md := f.md.toNat, a := Value.void, b := Value.void, c := Value.void, f := f }
    match immCore opc f with
    | some g => (g i s).value?
    | none =>
      match opOf opc with
      | none => none
      | some o =>
        match o.form f.typ.toNat f.md.toNat with
        | none => none
        | some fm =>
          let get (r : Ref) : Value := if r == 0 then Value.void else (ref r).getD Value.void
          let pm : LaneMask := if f.p == 0 then BitVec.allOnes 32 else (get f.p).lanesSet
          let j : OpIn := { i with mask := m &&& pm, a := get f.a, b := get f.b, c := get f.c }
          ((o.core j s).value?).map (placeValue fm j)

end Sys2Proof.Machine
end

