-- ==== Sys2Proof/Machine/SideEntry.lean ====
section
/-!
DEFINITION. The side tables of translations (05 R110-R112): the header, the index, the entries and their location records.
-/

namespace Sys2Proof.Machine

open Sys2Proof

/-! ## Entries (R110-R112) -/

/-- The record of where one live value stands. -/
structure LocRec where
  vidx : Nat
  kind : Nat
  pay : Nat
deriving DecidableEq, Repr

/-- An entry. -/
structure SideEntry where
  addr : List Nat
  tok : Nat
  sb : Nat
  point : Point
  amk : Nat
  lca : Nat
  lcb : Nat
  res : Bool
  wb : Nat
  wsz : Nat
  ec : Nat
  pm : Nat
  cf : Bool
  locs : List LocRec
  consts : List Nat
deriving DecidableEq, Repr

/-- A location record (R112), when its KIND and PAY are legal. -/
def locRec? (x : Nat) : Option LocRec :=
  let k := bitsOf x 20 18
  let p := bitsOf x 17 0
  let ok : Bool :=
    match k with
    | 0 => bitsOf p 15 11 == 0
    | 1 => bitsOf p 14 8 == 0
    | 2 => true
    | 3 => bitsOf p 17 8 == 0
    | 4 => bitsOf p 6 0 == 0
    | _ => false
  if ok then some { vidx := bitsOf x 31 21, kind := k, pay := p } else none

/-- All of a list's results, or none. -/
def allSome {α : Type} : List (Option α) → Option (List α)
  | [] => some []
  | some a :: r => (allSome r).map (a :: ·)
  | none :: _ => none

/-- An entry (R111) from the bytes that begin it; none when it breaks a rule. -/
def sideEntry? (bs : List Byte) : Option SideEntry :=
  let x := ofLe (bs.take 48)
  let nloc := bitsOf x 157 147
  let nconst := bitsOf x 146 139
  let sb := bitsOf x 207 201
  let word (k : Nat) : Nat := ofLe ((bs.drop (48 + 4 * k)).take 4)
  if bitsOf x 83 0 != 0 || !(sb == 0 || (List.range 7).any fun i => sb == 2 ^ i) then none
  else
    match allSome ((List.range nloc).map fun k => locRec? (word k)) with
    | none => none
    | some locs =>
      some
        { addr := [bitsOf x 383 352, bitsOf x 351 320, bitsOf x 319 288, bitsOf x 287 256], tok := bitsOf x 255 208, sb := sb
          point := { func := bitsOf x 200 185, block := bitsOf x 184 169, vidx := bitsOf x 168 158 }
          amk := bitsOf x 138 135, lca := bitsOf x 134 124, lcb := bitsOf x 123 113, res := bitsOf x 112 112 == 1
          wb := bitsOf x 111 101, wsz := bitsOf x 100 92, ec := bitsOf x 91 89, pm := bitsOf x 88 85, cf := bitsOf x 84 84 == 1
          locs := locs, consts := (List.range nconst).map fun k => ofLe ((bs.drop (48 + 4 * nloc + 8 * k)).take 8) }

/-- The greatest length of an entry. -/
def entryMax : Nat := 48 + 4 * 2047 + 8 * 255

/-- An entry's registers and constants exist: an s number below 256, a k number below 16, a constant below NCONST (R111, R112);
its rotating slots have a window to stand in. -/
def SideEntry.numbersOk (e : SideEntry) : Bool :=
  e.locs.all fun r =>
    match r.kind with
    | 0 =>
      let num := bitsOf r.pay 10 0
      match bitsOf r.pay 17 16 with
      | 1 => num < 256
      | 2 => num < 16
      | 3 => num < 16
      | _ => true
    | 1 => e.wsz != 0
    | 3 => bitsOf r.pay 7 0 < e.consts.length
    | _ => true

/-- The number of entries of a translation's side table. -/
def State.sideCount (s : State) (t : Translation) : Nat := bitsOf (s.numKey (t.base + t.side) 16) 127 96

/-- The header of a translation's side table keeps its rules (R110), and no line of it is in error (01 R13). -/
def State.sideOk (s : State) (t : Translation) : Bool :=
  let h := s.numKey (t.base + t.side) 16
  bitsOf h 31 16 == 0x5354 && bitsOf h 15 0 == 0 && bitsOf h 127 96 != 0 && bitsOf h 95 64 % 4 == 0 && bitsOf h 63 32 % 64 == 0 &&
    !s.poisoned (t.base + t.side) 16

/-- An entry of a translation's side table by its place in the index, whose byte offsets count from the table's header, as IDXOFF does
(DEDUCED, log entry 36); none when the table breaks a rule, or the bytes read are in
error (01 R13). -/
def State.sideEntry (s : State) (t : Translation) (k : Nat) : Option SideEntry :=
  let at_ := t.base + t.side
  let idx := at_ + bitsOf (s.numKey at_ 16) 95 64 + 4 * k
  let e := at_ + s.numKey idx 4
  if !s.sideOk t || s.sideCount t ≤ k || s.poisoned idx 4 then none
  else
    match sideEntry? (s.readKey e entryMax) with
    | none => none
    | some r => if r.numbersOk && !s.poisoned e (48 + 4 * r.locs.length + 8 * r.consts.length) then some r else none

/-- What a search of a side table gives: the entry; none there; or a table that breaks a rule (R110-R112). -/
inductive Found where
  | entry (e : SideEntry)
  | missing
  | broken
deriving DecidableEq, Repr

/-- The first entry of a side table with a property. The fuel counts the entries left. -/
def State.findEntry (s : State) (t : Translation) (p : SideEntry → Bool) : Nat → Found
  | 0 => if s.sideOk t then .missing else .broken
  | n + 1 =>
    match s.sideEntry t (s.sideCount t - (n + 1)) with
    | none => .broken
    | some e => if p e then .entry e else State.findEntry s t p n

/-- Does a translation have native code? -/
def Translation.hasCode (t : Translation) : Bool := 0 < t.codeLen

/-- The entry at which a wave stands: the addresses of its streams and its stage bits. -/
def SideEntry.matches (e : SideEntry) (n : Native) : Bool := e.addr == n.seqs.map Seq.pc && e.sb == n.loop.sb.toNat

end Sys2Proof.Machine
end

