-- ==== Sys2Proof/Machine/Native.lean ====
section
/-!
DEFINITION. Native bundles (05): the fields of an op slot, what makes a bundle illegal, the native-only operations, the issue of
a bundle, token pushes, and the loop engine. Portable operations run in slots with the effects that their own definitions
give them.
-/

namespace Sys2Proof.Machine

open Sys2Proof

/-! ## Slots: streams and modifiers (R97, R101) -/

/-- A stream's number. -/
def streamNum (st : Stream) : Nat := match st with | .scalar => 0 | .load => 1 | .compute => 2 | .store => 3

/-- Is an opcode of the lane exchange group (R114)? -/
def isExchange (opc : Nat) : Bool := inRange 0x0B0 0x0B6 opc

/-- The modifier classes of R75 that a native op can have. -/
inductive ModClass where
  | ieee | integer | memory | other
deriving DecidableEq, Repr

/-- The class of an opcode (04 R89). -/
def modClass (opc : Nat) : ModClass :=
  if opc ≤ 0x03F then .integer
  else if inRange 0x040 0x07F opc || inRange 0x0A0 0x0AF opc then .ieee
  else if inRange 0x0E0 0x0FF opc || inRange 0x110 0x117 opc || inRange 0x144 0x146 opc then .memory
  else .other

/-- The portable MOD that a short modifier stands for (R97). -/
def modOfShort (c : ModClass) (m : BitVec 4) : Nat :=
  let x := m.toNat
  match c with
  | .ieee => x / 4 * 16 + x / 2 % 2 * 8 + x % 2
  | .integer => x / 8 * 32 + x % 8
  | .memory => x / 4 * 16 + x % 4
  | .other => x

/-- Does a MOD fit the short modifier (R97)? -/
def modFits (c : ModClass) (md : Nat) : Bool :=
  match c with
  | .ieee => md / 2 % 4 == 0
  | .integer => md / 8 % 4 == 0
  | .memory => md / 4 % 4 == 0
  | .other => md < 16

/-- The MOD of a slot. -/
def slotMd (sl : Slot) (opc : Nat) : Nat :=
  match sl.ext with
  | some e => e.modx.toNat
  | none => modOfShort (modClass opc) sl.mods

/-! ## Sources and destinations (R94-R96) -/

/-- May a source field of an integer or address op stand in a stream: on s and k in the scalar stream, on v and k in the compute
stream (R101)? -/
def fieldInStream (k opc : Nat) (f : BitVec 12) : Bool :=
  0x01F < opc || ((k != 0 || 2048 ≤ f.toNat) && (k != 2 || f.toNat / 256 != 9))

/-- Can a source field of a class hold a value of a type? A drain is no operand but where R104 allows it. -/
def classHolds (f : BitVec 12) (t : Ty) : Bool :=
  let v := f.toNat
  if v < 2048 then t != .pred && t != .tile
  else
    match v / 256 with
    | 8 => t != .tile
    | 9 => t != .pred && t != .tile && t != .frag && t != .fmt
    | 10 => t == .pred
    | 11 => t == .tile
    | _ => false

/-- Is a v number legal for a value of a type (R96; 08 R175)? -/
def Native.vFits (n : Native) (t : Ty) (v : Nat) : Bool := v + vNames t ≤ n.budget && ((t.bits != 64 && t != .frag) || v % 2 == 0)

/-- Is an accumulator tile within the budget (R96)? -/
def Native.mFits (n : Native) (m : Nat) : Bool := 32 * (m + 1) ≤ n.budget

/-- Is a source field legal for a value of a type (R94, R96, R100)? -/
def Native.srcFits (n : Native) (t : Ty) (f : BitVec 12) : Bool :=
  let v := f.toNat
  classHolds f t &&
    (if v < 2048 then n.vFits t v
     else
       match v / 256 with
       | 8 => v % 256 < 8
       | 9 => true
       | 10 => v % 256 < 16
       | _ => v % 256 < 16 && n.mFits (v % 16))

/-- The drain of a row half that a source field names, of a tile within the budget: the last matrix op of the stream is one with that
tile as its destination (R104). None: native-illegal. -/
def Native.drainOf (n : Native) (half : Bool) (f : BitVec 12) : Option (Option Value) :=
  let m := f.toNat % 256
  if f.toNat / 256 != 12 || 16 ≤ m || !n.mFits m then none
  else
    match Tab.get? n.drain (halfKey half) with
    | some (k, v) => if k == m then some v else none
    | none => none

/-- The value of a source field that takes one of some types: of the type that its register's class leaves, or of one of
those that it leaves (`pick`). None: native-illegal. -/
def Native.operand (n : Native) (k : Nat) (ts : List Ty) (f : BitVec 12) (pick : Nat) : Option Value :=
  let cs := ts.filter fun t => n.srcFits t f
  match cs[if cs.length ≤ 1 then 0 else pick % cs.length]? with
  | some t => some (n.source k t f)
  | none => none

/-- The value of a source field by its form. A field 0 gives an operand that the instruction may go without as absent
(DESIGN CHOICE, log entry 35). -/
def Native.arg (n : Native) (k : Nat) (a : Arg) (f : BitVec 12) (pick : Nat) : Option Value :=
  match a with
  | .absent => if f == 0 then some Value.void else none
  | .need ts => n.operand k ts f pick
  | .may ts => if f == 0 then some Value.void else n.operand k ts f pick

/-- Is a destination field legal for a result of a type in a stream (R95, R96)? The class follows from the result's type, which
is what TYP names but for results of type pred of ops whose TYP is that of their operands (DESIGN CHOICE, log entry 35). -/
def Native.dstFits (n : Native) (k : Nat) (t : Ty) (d : BitVec 12) : Bool :=
  let num := d.toNat % 2048
  if t == .void then d == 0
  else if d.getLsbD 11 then num == 0 && t != .tile
  else if t == .pred then num < 16
  else if k == 0 then t != .tile && t != .frag && t != .fmt && num < 256
  else if t == .tile then num < 16 && n.mFits num
  else n.vFits t num

/-! ## Portable operations in slots -/

/-- Is an op's stage on (R102, R105)? -/
def Native.stageOn (n : Native) (stg : Nat) : Bool := stg == 0 || n.loop.sb.getLsbD (stg - 1)

/-- The lanes of an op (R102, R114): the scalar stream ignores k0. An op of a HALF bundle has that half's lanes alone, `qz`, `xscl` and
`hadm` among them, each of whose halves is a block of its own (DESIGN CHOICE, log entry 35). -/
def Native.opMask (n : Native) (narrow half : Bool) (k opc : Nat) : LaneMask :=
  if k == 0 then BitVec.allOnes 32
  else
    let k0 := Tab.getD n.k 0 0
    if !narrow || isExchange opc then k0 else k0 &&& halfLanes half

/-- Does a portable op of these fields use the pair form (R93)? -/
def needsPair (opc : Nat) (c : Value) (md : Nat) : Bool :=
  opc == 0x020 || opc == 0x022 || opc == 0x023 || c.ty != .void || !modFits (modClass opc) md

/-- The portable fields of an immediate op (R97). -/
def immFields (opc : Nat) (sl : Slot) (e : SlotExt) : Fields :=
  let i := e.imm.toNat
  let w : Nat :=
    match opc with
    | 0x020 => i % 2 ^ 33 * 2 ^ 11
    | 0x022 => i % 2 ^ 22 * 2 ^ 11
    | _ => 0
  fieldsOf (BitVec.ofNat 64 (sl.typ.toNat * 2 ^ 50 + (if opc == 0x023 then e.modx.toNat else 0) * 2 ^ 44 + w))

/-- The registers of a source field that holds a value of a type. A drain reads no register (R104). -/
def Native.fieldRegs (n : Native) (stream : Nat) (t : Ty) (f : BitVec 12) : List NReg :=
  let v := f.toNat
  let vs (b : Nat) : List NReg := (List.range (vNames t)).map fun j => .v (n.vnum stream (b + j))
  if t == .void then []
  else if v < 2048 then vs v
  else
    match v / 256 with
    | 8 => [.l (v % 8)]
    | 9 => [.s (v % 256)]
    | 10 => [.k (v % 16)]
    | 12 => []
    | _ => (List.range 32).map fun j => .v (n.vnum stream (32 * (v % 16) + j))

/-- What a slot's portable op does: its input, its result type, its effect, the drain that it reads, and the registers that it
reads; none: native-illegal. -/
structure SlotOp where
  i : OpIn
  res : Ty
  core : OpIn → State → OpRes
  drain : Option (Option Value)
  regs : List NReg

/-- Read a portable op's slot. -/
def slotOp (x : Site) (n : Native) (d : NDest) (opc : Nat) (sl : Slot) (m : LaneMask) (fresh : Nat) : Option SlotOp :=
  let base (ty : Ty) (md : Nat) (f : Fields) : OpIn :=
    { x := x, mask := m, amask := if d.stream == 0 then m else Tab.getD n.k 0 0, ty := ty, md := md, a := Value.void,
      b := Value.void, c := Value.void, f := f }
  match Ty.ofCode sl.typ.toNat with
  | none => none
  | some ty =>
    if inRange 0x020 0x023 opc then
      match sl.ext with
      | none => none
      | some e =>
        let f := immFields opc sl e
        let lim := if opc == 0x020 then 2 ^ 33 else if opc == 0x022 then 2 ^ 22 else 1
        if immFits opc f && opc != 0x021 && e.imm.toNat < lim && (opc == 0x023 || e.modx == 0) && e.sc == 0 && sl.mods == 0 &&
            sl.sa == 0 && sl.sb == 0 && n.dstFits d.stream ty sl.dst then
          (immCore opc f).map fun g =>
            { i := base ty f.md.toNat f, res := ty, core := g, drain := none, regs := [] }
        else none
    else
      match opOf opc with
      | none => none
      | some o =>
        let md := slotMd sl opc
        match o.form sl.typ.toNat md with
        | none => none
        | some fm =>
          let sc : BitVec 12 := match sl.ext with | some e => e.sc | none => 0
          let isDrain := isProduct opc && sl.sa.toNat / 256 == 12
          let here (g : Arg) (r : BitVec 12) : Bool := g == .absent || (g.optional && r == 0) || fieldInStream d.stream opc r
          if isDrain && (n.drainOf d.half sl.sa).isNone then none
          else
            match (if isDrain then some (Value.zero .frag) else n.arg d.stream fm.a sl.sa (Config.nativeTy fresh)),
                n.arg d.stream fm.b sl.sb (Config.nativeTy (fresh + 1)), n.arg d.stream fm.c sc (Config.nativeTy (fresh + 2)) with
            | some a, some b, some c =>
              let pair := needsPair opc c md
              let extOk := match sl.ext with | some e => pair && e.imm == 0 && sl.mods == 0 | none => !pair
              if extOk && n.dstFits d.stream fm.res sl.dst && here fm.a sl.sa && here fm.b sl.sb && here fm.c sc then
                let i : OpIn := { base ty md { typ := sl.typ, md := BitVec.ofNat 6 md, a := 0, b := 0, c := 0, p := 0 } with a := a, b := b, c := c }
                some
                  { i := i, res := fm.res, core := o.core, drain := if isDrain then n.drainOf d.half sl.sa else none
                    regs := (if isDrain then [] else n.fieldRegs d.stream a.ty sl.sa) ++ n.fieldRegs d.stream b.ty sl.sb ++ n.fieldRegs d.stream c.ty sc }
              else none
            | _, _, _ => none

/-- A product whose operand a is a tile's drain (R104): operand a is what `tcvt` of the tile with .rn delivers, under the
format block that the drain's operand names. -/
def SlotOp.drained (o : SlotOp) (l2 : Bool) (tile : Value) (fba : Nat) (s : State) : OpRes :=
  match coreTcvt { o.i with a := tile, b := splat .addr fba, c := Value.void, md := 0 } s with
  | .done s1 a => coreMma l2 { o.i with a := a } s1
  | r => r

/-- The operations that a narrow die lacks natively (R115): a q2c product, XFORM 1 in the half that `qz`, `xscl` and `hadm` name,
and `tanc`. `fba`: the address of the product's format block. -/
def lackedOnNarrow (opc : Nat) (o : SlotOp) (fba : Nat) (s : State) : Bool :=
  match opc with
  | 0x130 => true
  | 0x0A2 => o.i.half.xform == 1
  | 0x0A6 => o.i.half.xform == 1
  | 0x0A7 => o.i.half.xform == 1
  | 0x118 => q2c
  | 0x119 => q2c
  | _ => false
where
  /-- Does the format block of the product's operand a name q2c? -/
  q2c : Bool :=
    match s.readBlock o.i.x false fba with
    | .ok (_, b) => (fmtHalf b 0).fmt == 9 || (fmtHalf b 1).fmt == 9
    | .error _ => false

/-- Is a matrix op of the compute stream (R104)? -/
def isMatrixOp (opc : Nat) : Bool := inRange 0x118 0x11E opc && opc != 0x11D

/-- What the drains of the compute stream are after a matrix op has issued: that of the op's row half is the op's own. -/
def Native.drainAfter (n : Native) (d : NDest) (opc : Nat) (res : Ty) : Tab (Nat × Option Value) :=
  if d.stream != 2 || !isMatrixOp opc then n.drain
  else if res == .tile then n.drain.put (halfKey d.half) (d.dst.toNat % 2048, none)
  else n.drain.del (halfKey d.half)

/-- The reads that an op has begun and that have not returned: its pushes, and what reads its result, wait for them. Registers that
a vault read gives wait for the vault completion counter (13 R270). -/
def State.noteOut (s0 s : State) (w : WaveRef) (d : NDest) : State :=
  match s0.wave? w, s.wave? w with
  | some x0, some x =>
    match x.native with
    | none => s
    | some n =>
      let g := x.gcnt - x0.gcnt
      let v := x.vcnt - x0.vcnt
      if d.ty == .void || g + v == 0 then s
      else
        s.setWave w { x with native := some { n with outs := n.outs ++ [{ dest := d, left := g, vleft := v }]
                                                     vregs := if v == 0 then n.vregs else n.vregs ++ d.regs.map NReg.num } }
  | _, _ => s

/-- `tret` in a slot: its fields are checked, and it leaves native code for its portable point (R143). -/
def tretOk (n : Native) (d : NDest) (sl : Slot) : Bool :=
  d.stream == 0 && sl.ext.isNone && sl.typ == 0 && sl.mods == 0 && sl.dst == 0 && sl.sb == 0 &&
    (sl.sa == 0 || allTys.any fun u => n.srcFits u sl.sa)
where
  /-- The types that a value can have. -/
  allTys : List Ty := (List.range 15).filterMap fun c => if c == 0 then none else Ty.ofCode c

/-- The first bundle whose op this op of a second bundle completes (12 R253): none on a W die, or without one. -/
def Native.firstOf (n : Native) (narrow : Bool) (d : NDest) : Option HalfOp :=
  if narrow && isEffect d.opc && d.half then
    n.halves.find? fun h => (h.mate == none || h.mate == some d.bun) && h.dest.isHalfOf d
  else none

/-- The first bundle's op is part of that of a second bundle with this number. -/
def Native.joinHalf (n : Native) (h : Option HalfOp) (bun : Nat) : Native :=
  { n with halves := n.halves.map fun e => if some e == h then { e with mate := some bun } else e }

/-- An op's input with the operands and lanes of its first bundle. -/
def OpIn.withFirst (i : OpIn) (h : Option HalfOp) : OpIn :=
  match h with
  | none => i
  | some h =>
    { i with mask := h.dest.mask ||| i.mask, a := mergeHalves h.a i.a, b := mergeHalves h.b i.b, c := mergeHalves h.c i.c }

/-- Run a portable op in its slot: none when it is native-illegal. On an N die an op with effects beyond registers takes its operands from
its two bundles and runs in the second, so that every lane is checked before any takes effect (12 R253). `tret` and the traps of R307 leave native code, and take
effect at the portable point. -/
def State.runPortable (s : State) (x : Site) (n : Native) (d : NDest) (opc : Nat) (sl : Slot) (narrow : Bool) : Option State :=
  let m := if d.stream == 0 then existMask x.launch.lanes x.w.wav else d.mask
  if opc == 0x0C8 then
    (if tretOk n d sl then
      some (s.modWave x.w fun y => Wave.nativeFault { y with native := y.native.map fun g => { g with cur := some d } })
    else none)
  else
    match slotOp x n d opc sl m s.fresh with
    | none => none
    | some o =>
      let fba := if o.drain.isSome then (Config.drainFba (s.fresh + 3)).toNat else o.i.fba
      if narrow && lackedOnNarrow opc o fba s then none
      else
        let d' := { d with ty := o.res, names := n.destNames { d with ty := o.res } o.res }
        let s0 : State := { s with fresh := s.fresh + 4 }
        if narrow && isEffect opc && !d.half then
          some (s0.modWave x.w fun y =>
            { y with native := y.native.map fun g =>
                { g with cur := none, halves := g.halves ++ [{ dest := d', a := o.i.a, b := o.i.b, c := o.i.c, mate := none }] } })
        else
          let h := n.firstOf narrow d'
          let i := o.i.withFirst h
          let s1 := s0.modWave x.w fun y =>
            { y with native := y.native.map fun g => { g.joinHalf h d.bun with cur := some d', drain := g.drainAfter d opc o.res } }
          let r :=
            match o.drain with
            | some t => o.drained (opc == 0x119) (t.getD (Value.zero .tile)) fba s1
            | none => o.core i s1
          some (s1.noteOut (settle s1 x { block := 0, mask := i.mask, vidx := 0, vals := [] } i.mask opc 0 o.res (fun v => v) r) x.w d')

/-! ## Native-only operations (R99) -/

/-- A signed displacement in bundles of 24 bits. -/
def disp24 (hi lo : BitVec 12) : Int := ((hi ++ lo : BitVec 24)).toInt

/-- The address that a displacement of a bundle leads to, when it stays in the code. -/
def jumpTo (len addr : Nat) (disp : Int) : Option Nat :=
  let a : Int := addr + 16 * disp
  if 0 ≤ a && a + 16 ≤ len then some a.toNat else none

/-- Put a stream at an address. -/
def Native.goto (n : Native) (k a : Nat) : Native :=
  match n.seqs[k]? with
  | some q => { n with seqs := n.seqs.set k { q with pc := a } }
  | none => n

/-- The s register that a field names. -/
def Native.sreg (n : Native) (f : BitVec 12) : Word64 := Tab.getD n.s 0 (f.toNat % 256)

/-- Where a wave's spill area stands (R99; 09 R206): behind the block's own vault bytes. -/
def Site.spillKey (x : Site) (off : Nat) : Nat :=
  vaultKey x.block.die (x.block.tile / 4) (x.block.vbase + x.launch.vb4k * 4096 + x.w.wav * x.block.spill + off)

/-- The bytes of a v register. -/
def regBytes (v : Lanes Word) : List Byte := (List.finRange 32).flatMap fun k => leBytes 4 (v.get k).toNat

/-- A v register from its bytes. -/
def regOfBytes (bs : List Byte) : Lanes Word := Lanes.tab fun k => BitVec.ofNat 32 (ofLe ((bs.drop (4 * k.val)).take 4))

/-- Write a register's lanes of a mask to the spill area. -/
def State.spillReg (s : State) (k : Nat) (v : Lanes Word) (m : LaneMask) : State :=
  (LaneMask.list m).foldl (fun s i => s.writeKey (k + 4 * i.val) (leBytes 4 (v.get i).toNat)) s

/-- The value of a type in the spill area: its v names one after the other. -/
def State.spillValue (s : State) (t : Ty) (k : Nat) : Value :=
  let n : Native := { Native.blank 64 with v := (List.range (vNames t)).map fun j => (j, regOfBytes (s.readKey (k + 128 * j) 128)) }
  { ty := t, x := Lanes.tab fun i => n.vLane t (fun j => j) i }

/-- The spill offset of a slot. One beyond the wave's spill bytes, of which R99 says nothing, is an encoding that breaks the rules, and so
native-illegal (DESIGN CHOICE, log entry 35). -/
def spillOff (x : Site) (t : Ty) (sl : Slot) : Option Nat :=
  match sl.ext with
  | some e => let o := 64 * e.imm.toNat; if o + 128 * vNames t ≤ x.block.spill then some o else none
  | none => none

/-- The type of a slot. -/
def slotTy (sl : Slot) : Ty := (Ty.ofCode sl.typ.toNat).getD .void

/-- What a native-only op does to a wave: `n` holds the registers as they stood before the bundle (R102), `d` says where the
op stands, `len` is the code's length. None: native-illegal. -/
abbrev NativeOp := Site → Native → NDest → Nat → Slot → State → Option State

/-- Write an op's result. -/
def State.nativeResult (s : State) (x : Site) (d : NDest) (v : Value) : State :=
  s.modWave x.w fun y =>
    match y.native with
    | some g => { y with native := some (g.write { d with ty := v.ty, names := g.destNames { d with ty := v.ty } v.ty } v) }
    | none => y

/-- Change a wave's native state. -/
def State.modNative (s : State) (w : WaveRef) (g : Native → Native) : State :=
  s.modWave w fun y => { y with native := y.native.map g }

/-- `nop`. -/
def effNop : NativeOp := fun _ _ _ _ sl s => if (Instr.nop sl).slotWf then some s else none

/-- `mov`. In the scalar stream the whole register is copied: the 64 bits of an s register. -/
def effMov : NativeOp := fun x n d _ sl s =>
  let t := slotTy sl
  let whole : Ty := if d.stream == 0 && sl.sa.toNat / 256 == 9 then .n64 else t
  if (Instr.mov sl).slotWf && n.srcFits t sl.sa && n.dstFits d.stream t sl.dst then
    some (s.nativeResult x d (n.source d.stream whole sl.sa))
  else none

/-- `bcs`. -/
def effBcs : NativeOp := fun x n d _ sl s =>
  if (Instr.bcs sl).slotWf && d.stream != 0 && n.srcFits (slotTy sl) sl.sa && n.dstFits d.stream (slotTy sl) sl.dst then
    some (s.nativeResult x d (n.source d.stream (slotTy sl) sl.sa))
  else none

/-- `spst`: the 32 lanes, or on an N die the half's (log entry 35). -/
def effSpst : NativeOp := fun x n d _ sl s =>
  if (Instr.spst sl).slotWf && d.stream == 3 && n.srcFits (slotTy sl) sl.sa then
    match spillOff x (slotTy sl) sl with
    | none => none
    | some o =>
      let m : LaneMask := if !narrowDie x.block.die then BitVec.allOnes 32 else halfLanes d.half
      some ((List.range (vNames (slotTy sl))).foldl (fun s j =>
        s.spillReg (x.spillKey (o + 128 * j)) (n.vreg (n.vnum d.stream (sl.sa.toNat + j))) m) s)
  else none

/-- `spld`. Poison in the spill area is an unrecoverable fault of the tile (22 R425). -/
def effSpld : NativeOp := fun x n d _ sl s =>
  if (Instr.spld sl).slotWf && d.stream == 1 && n.dstFits d.stream (slotTy sl) sl.dst && (slotTy sl) != .pred && (slotTy sl) != .tile then
    match spillOff x (slotTy sl) sl with
    | none => none
    | some o =>
      let s1 := s.nativeResult x d (s.spillValue (slotTy sl) (x.spillKey o))
      some (if s.poisoned (x.spillKey o) (128 * vNames (slotTy sl)) then s1.raise (.tileFault x.tile 4) else s1)
  else none

/-- `jmp`. -/
def effJmp : NativeOp := fun x _ d len sl s =>
  if (Instr.jmp sl).slotWf then
    match jumpTo len d.addr (disp24 sl.dst sl.sa) with
    | some a => some (s.modNative x.w fun g => g.goto d.stream a)
    | none => none
  else none

/-- The condition of `jc`, on k0's bits of the lanes of its bundle (R99, R114). -/
def Native.jcMet (n : Native) (d : NDest) (sl : Slot) : Bool :=
  let k0 := if d.stream == 0 then Tab.getD n.k 0 0 else d.mask
  let k := Tab.getD n.k 0 (sl.dst.toNat % 16)
  match sl.mods.toNat with
  | 0 => n.sreg sl.dst != 0
  | 1 => k0 &&& k != 0
  | _ => k0 &&& ~~~k == 0

/-- `jc`. -/
def effJc : NativeOp := fun x n d len sl s =>
  if (Instr.jc sl).slotWf then
    match jumpTo len d.addr (disp24 sl.sa sl.sb) with
    | some a => some (if n.jcMet d sl then s.modNative x.w fun g => g.goto d.stream a else s)
    | none => none
  else none

/-- `jal`: an s register takes the address after the bundle, and the slot's latch in the op's lanes. -/
def effJal : NativeOp := fun x _ d len sl s =>
  if (Instr.jal sl).slotWf then
    match jumpTo len d.addr (disp24 sl.sa sl.sb) with
    | some a =>
      let r := BitVec.ofNat 64 (d.addr + 16)
      some (s.modNative x.w fun g =>
        { (g.goto d.stream a).writeLatch d (Lanes.all (r.setWidth 1600)) with s := g.s.put (sl.dst.toNat % 256) r })
    | none => none
  else none

/-- `jr`. -/
def effJr : NativeOp := fun x n d len sl s =>
  if (Instr.jr sl).slotWf then
    let a := (n.sreg sl.sa).toNat % 2 ^ 32
    if a % 16 == 0 && a + 16 ≤ len then some (s.modNative x.w fun g => g.goto d.stream a) else none
  else none

/-- `lcfg` (R105). -/
def effLcfg : NativeOp := fun x n d _ sl s =>
  match sl.ext with
  | some e =>
    let i := e.imm
    let wb := i.extractLsb' 0 11
    let wsz := i.extractLsb' 11 9
    if (Instr.lcfg sl).slotWf && d.stream == 0 && wb.toNat + wsz.toNat ≤ n.budget then
      some (s.modNative x.w fun g =>
        { g with loop := { g.loop with lc := (n.sreg sl.sa).setWidth 32, wb := wb, wsz := wsz, ec := i.extractLsb' 20 3,
                                       pm := i.extractLsb' 23 4, sb := 0, rrb := 0, cf := true } })
    else none
  | none => none

/-- The effect of a native-only opcode. -/
def nativeEff (opc : Nat) : Option NativeOp :=
  match opc with
  | 0x1C0 => some effNop
  | 0x1C1 => some effMov
  | 0x1C2 => some effBcs
  | 0x1C3 => some effSpst
  | 0x1C4 => some effSpld
  | 0x1C5 => some effJmp
  | 0x1C6 => some effJc
  | 0x1C7 => some effJal
  | 0x1C8 => some effJr
  | 0x1C9 => some effLcfg
  | _ => none

/-! ## The issue of a bundle (R100-R103) -/

/-- How the issue of an op, or of a bundle, ends: illegal; a fault or trap of the op at `d`; not done, to be tried again; done; or
issued and waiting. -/
inductive SlotRes where
  | illegal
  | faulted (d : NDest)
  | retry (s : State)
  | fin (s : State)
  | waits (s : State)
deriving DecidableEq, Repr

/-- How an op has ended, from the wave after it. -/
def State.slotRes (s0 s : State) (w : WaveRef) (d : NDest) : SlotRes :=
  match (s0.wave? w).bind Wave.native, s.wave? w with
  | some n0, some y =>
    match y.native with
    | none => .fin s
    | some n =>
      if n.leave != n0.leave || n.held != n0.held then .faulted d
      else if y.mode != .run then .waits s
      else if n.cur.isSome then .retry s
      else .fin s
  | _, _ => .fin s

/-- Run one slot. An op whose stage predicate is off does nothing (R102), but its encoding is checked (R100). -/
def State.runSlot (s : State) (x : Site) (n : Native) (d : NDest) (len opc : Nat) (sl : Slot) : SlotRes :=
  let narrow := narrowDie x.block.die
  if !streamOk d.stream opc then .illegal
  else
    match (match nativeEff opc with | some g => g x n d len sl s | none => s.runPortable x n d opc sl narrow) with
    | none => .illegal
    | some s1 => if n.stageOn sl.stg.toNat then s.slotRes s1 x.w d else .fin s

/-- The ops that wait join those that wait already. -/
def State.unfocus (s : State) (w : WaveRef) : State := s.modWave w Wave.unfocus

/-- The end of a bundle after a slot that is done: `q` is that of the other slot after it, `alone` that of the other slot on its
own. A bundle of which one op cannot be done yet is tried again whole; what that op has begun is kept. -/
def SlotRes.after (q alone : SlotRes) (s : State) : SlotRes :=
  match q with
  | .retry _ => (match alone with | .retry s2 => .retry s2 | _ => .retry s)
  | q => q

/-- Is the end of an op that of an illegal encoding? -/
def SlotRes.isIllegal (r : SlotRes) : Bool := match r with | .illegal => true | _ => false

/-- Change the state in which an op has left the machine. -/
def SlotRes.map (r : SlotRes) (f : State → State) : SlotRes :=
  match r with
  | .retry s => .retry (f s)
  | .fin s => .fin (f s)
  | .waits s => .waits (f s)
  | r => r

/-- A wave as the op of its other slot sees it: each slot's op has read quarters of a format block of its own (02 R41). -/
def Wave.otherSlot (x : Wave) : Wave := { x with quarters := x.quartersB, quartersB := x.quarters }

/-- Run the op of a slot with its slot's own progress. -/
def State.runOwnSlot (s : State) (x : Site) (n : Native) (d : NDest) (len opc : Nat) (sl : Slot) : SlotRes :=
  if d.slotB then
    ((s.modWave x.w Wave.otherSlot).runSlot { x with wave := x.wave.otherSlot } n d len opc sl).map fun s => s.modWave x.w Wave.otherSlot
  else s.runSlot x n d len opc sl

/-- Run the slots of a bundle: each on the registers before it (R102). An op that waits stands beside those of other bundles and
of the other slot. -/
def State.runSlots (s : State) (x : Site) (n : Native) (len : Nat) : List (NDest × Nat × Slot) → SlotRes
  | [] => .fin s
  | (d, opc, sl) :: r =>
    match s.runOwnSlot x n d len opc sl with
    | .illegal => .illegal
    | .faulted e => .faulted e
    | .retry s1 => .retry s1
    | .fin s1 => (State.runSlots s1 x n len r).after (State.runSlots s x n len r) s
    | .waits s1 => (State.runSlots (s1.unfocus x.w) x n len r).after (State.runSlots s x n len r) s

/-- Are a bundle's header bits and the place of its ops legal (R91, R100, R114)? -/
def bundleHeadOk (b : Bundle) (narrow : Bool) (k : Nat) : Bool :=
  b.rsv == 0 && b.lec.toNat ≤ 3 && (!b.half || (narrow && k != 0 && b.slots.all fun e => !isExchange e.1.toNat)) &&
    (b.lec != 2 || b.sp)

/-- A stream holds an SP bundle at least once per 64 bundles (01 R15). -/
def Seq.spDue (q : Seq) (b : Bundle) : Bool := !b.sp && 63 ≤ q.noSp

/-- The destinations of a bundle's slots. -/
def bundleDests (b : Bundle) (n : Native) (narrow : Bool) (k addr : Nat) : List (NDest × Nat × Slot) :=
  let q := (n.seqs[k]?).getD (Seq.start addr)
  ((List.range b.slots.length).zip b.slots).map fun e =>
    let opc := e.2.1.toNat
    let sl := e.2.2
    ({ stream := k, slotB := e.1 == 1, half := b.half, addr := addr, bun := q.bun, sp := b.sp, cuts := q.cuts, pop := b.pop,
       stg := sl.stg.toNat, opc := opc, dst := sl.dst, names := [], ty := .void, mask := n.opMask narrow b.half k opc }, opc, sl)

/-- Set a stream's bit. -/
def setBit4 (m : BitVec 4) (k : Nat) : BitVec 4 := m ||| (1#4 <<< k)

/-- A stream moves past a bundle: its address, its cut, its pushes, its loop code, and the tokens it pops. -/
def Native.passBundle (n : Native) (k addr : Nat) (b : Bundle) : Native :=
  match n.seqs[k]? with
  | none => n
  | some q =>
    let q1 : Seq :=
      { pc := addr + 16, stopped := b.stop, cuts := if b.sp then q.cuts + 1 else q.cuts, bun := q.bun + 1
        noSp := if b.sp then 0 else q.noSp + 1
        pushes := if b.push == 0 then q.pushes else q.pushes ++ [(q.bun, b.push)], popWait := none }
    let l := n.loop
    let l1 : Loop :=
      match b.lec.toNat with
      | 1 => { l with opened := setBit4 l.opened k, tops := (if l.tops.length == 4 then l.tops else [0, 0, 0, 0]).set k (addr + 16) }
      | 2 => { l with backed := setBit4 l.backed k }
      | 3 => { l with closed := setBit4 l.closed k }
      | _ => l
    { n with seqs := n.seqs.set k q1, loop := l1 }.popTokens k b.pop (· - 1)

/-- A tile meets a native-illegal bundle (R100): the translation is discarded, and the tile takes an unrecoverable fault. -/
def State.illegalNative (s : State) (x : Site) (tid : Nat) : State :=
  let s1 := match s.store.find? fun t => t.tid == tid with | some t => s.evict x.tile.cluster t | none => s
  s1.raise (.tileFault x.tile 3)

/-- What a native wave reports of its place (01 R10): the portable point of the safe point that a stream passes, with its mask. -/
def Wave.atEntry (x : Wave) (n : Native) (e : SideEntry) : Wave :=
  match x.frames with
  | [] => x
  | f :: r =>
    { x with frames := { f with cur := some { block := e.point.block, mask := Tab.getD n.k 0 e.amk, vidx := e.point.vidx,
                                              vals := List.replicate e.point.vidx Value.void } } :: r }

/-- The entry of the safe point before a bundle of stream k at an address. -/
def State.entryAt (s : State) (tr : Translation) (n : Native) (k addr : Nat) : Option SideEntry :=
  match s.findEntry tr (fun e => e.addr[k]? == some addr && (e.sb == n.loop.sb.toNat || e.sb == 0)) (s.sideCount tr) with
  | .entry e => some e
  | _ => none

/-- Issue a bundle of a stream that stands at `addr`, in the code of a translation. Every slot's encoding is checked before any op runs
(R100). -/
def State.issueBundle (s : State) (x : Site) (n : Native) (tr : Translation) (k addr : Nat) (b : Bundle) : State :=
  let narrow := narrowDie x.block.die
  if !bundleHeadOk b narrow k || (match n.seqs[k]? with | some q => q.spDue b | none => true) then s.illegalNative x tr.tid
  else
    let w0 := match (if b.sp then s.entryAt tr n k addr else none) with | some e => x.wave.atEntry n e | none => x.wave
    let w1 := w0.unfocus
    let n1 := (w1.native.getD n).passBundle k addr b
    let s1 := s.setWave x.w { w1 with native := some n1 }
    let x1 : Site := { x with wave := w1 }
    let ds := bundleDests b n narrow k addr
    if ds.any fun e => (s1.runOwnSlot x1 n e.1 tr.codeLen e.2.1 e.2.2).isIllegal then s.illegalNative x tr.tid
    else
    match s1.runSlots x1 n tr.codeLen ds with
    | .illegal => s.illegalNative x tr.tid
    | .faulted d => s.setWave x.w (Wave.nativeFault { w1 with native := w1.native.map fun g => { g with cur := some d } })
    | .retry s2 =>
      s2.modWave x.w fun y =>
        Wave.refocus { y with native := y.native.map fun g => { g with seqs := n.seqs, tok := n.tok, loop := n.loop, drain := n.drain, cur := none } }
    | .waits s2 => s2.settleFocus x.w
    | .fin s2 => (s2.settleFocus x.w).endStopped x.w

/-! ## When a bundle may issue (R102, R103, R107; 09 R210, R211) -/

/-- The bundle at an address of a translation's code; none when it lies outside. -/
def State.bundleAt (s : State) (t : Translation) (pc : Nat) : Option Bundle :=
  if pc % 16 == 0 && pc + 16 ≤ t.codeLen then some (bundleOf (BitVec.ofNat 128 (ofLe (s.readKey (t.base + pc) 16)))) else none

/-- The line of a translation that holds an address. -/
def lineOfPc (t : Translation) (pc : Nat) : Nat × Nat := (t.tid, pc / 256)

/-- The registers that a native-only op reads. -/
def nativeOnlyRegs (n : Native) (d : NDest) (opc : Nat) (sl : Slot) : List NReg :=
  match opc with
  | 0x1C1 => n.fieldRegs d.stream (slotTy sl) sl.sa
  | 0x1C2 => n.fieldRegs d.stream (slotTy sl) sl.sa
  | 0x1C3 => n.fieldRegs d.stream (slotTy sl) sl.sa
  | 0x1C6 => if sl.mods == 0 then [.s (sl.dst.toNat % 256)] else [.k (sl.dst.toNat % 16)]
  | 0x1C8 => [.s (sl.sa.toNat % 256)]
  | 0x1C9 => [.s (sl.sa.toNat % 256)]
  | _ => []

/-- The registers that a slot reads, those of its operands and, outside the scalar stream, k0; none while a drain that it names has no value
yet. -/
def slotRegs (x : Site) (n : Native) (d : NDest) (opc : Nat) (sl : Slot) (fresh : Nat) : Option (List NReg) :=
  if !n.stageOn sl.stg.toNat then some []
  else
    let k0 : List NReg := if d.stream == 0 then [] else [.k 0]
    match nativeEff opc with
    | some _ => some (k0 ++ nativeOnlyRegs n d opc sl)
    | none =>
      match slotOp x n d opc sl d.mask fresh with
      | some o => if o.drain == some none then none else some (k0 ++ o.regs)
      | none => some k0

/-- Has an op still to write a register that an op of another bundle of its stream reads? On an N die an op reads and writes its own half
of a v or k register alone (R114). -/
def NDest.owes (e d : NDest) (narrow : Bool) (r : NReg) : Bool :=
  e.stream == d.stream && e.regs.contains r &&
    (!narrow || e.half == d.half || isExchange e.opc || isExchange d.opc ||
     (match r with | .s _ => true | .l _ => true | _ => false))

/-- Does a register wait for the vault completion counter to be zero (11 R238; 13 R270)? -/
def Site.vaultHolds (x : Site) (n : Native) (r : NReg) : Bool := 0 < x.wave.vcnt && n.vregs.contains r.num

/-- Has every source of a bundle been written that an earlier bundle of its stream writes, and those that vault reads give all returned
(R102)? -/
def State.sourcesDone (s : State) (x : Site) (n : Native) (k addr : Nat) (b : Bundle) : Bool :=
  let narrow := narrowDie x.block.die
  let ds := bundleDests b n narrow k addr
  ((List.range ds.length).zip ds).all fun e =>
    match slotRegs x n e.2.1 e.2.2.1 e.2.2.2 (s.fresh + 4 * e.1) with
    | some rs => rs.all fun r => !(n.pendingDests.any fun d => d.owes e.2.1 narrow r) && !x.vaultHolds n r
    | none => false

/-- Is an opcode one whose accesses take the lane path (12 R256, R258)? -/
def isLanePath (opc : Nat) : Bool := inRange 0x0E0 0x0F0 opc || opc == 0x106 || opc == 0x11D

/-- Does an `xfence` whose later side names the lane path hold a bundle of the wave (12 R258)? -/
def Wave.fenceHolds (x : Wave) (k : Nat) (b : Bundle) : Bool :=
  (k == 1 || k == 3) && b.slots.any (fun e => isLanePath e.1.toNat) &&
    x.modes.any fun m => match m with | .xfence _ y _ => y.getLsbD 0 | _ => false

/-- Does every queue that POP names hold a token? -/
def Native.canPop (n : Native) (k : Nat) (pop : BitVec 3) : Bool :=
  (List.range 3).all fun j => !pop.getLsbD j || 0 < Tab.getD n.tok 0 (popQueue k j)

/-- Does every queue that PUSH names have room, tokens on the way counted? -/
def Native.canPush (n : Native) (k : Nat) (q : Seq) (push : BitVec 3) : Bool :=
  (List.range 3).all fun j =>
    !push.getLsbD j || Tab.getD n.tok 0 (3 * k + j) + (q.pushes.filter fun p => p.2.getLsbD j).length < 15

/-- The least and the greatest number of cuts that the streams of a set have passed (R107). -/
def minCuts (qs : List Seq) : Nat := qs.foldl (fun a q => min a q.cuts) ((qs.head?.map Seq.cuts).getD 0)
def maxCuts (qs : List Seq) : Nat := qs.foldl (fun a q => max a q.cuts) 0

/-- The streams that take part in the loop. -/
def Native.loopSeqs (n : Native) : List Seq :=
  (((List.range n.seqs.length).zip n.seqs).filter fun e => n.loop.pm.getLsbD e.1).map fun e => e.2

/-- Does a stop let the loop run its pipeline out first (R108, R109)? -/
def Native.draining (n : Native) (stop : Bool) : Bool := n.loop.cf && (n.loop.dr || (stop && 1 < n.loop.inFlight))

/-- Is a bundle of a stream the second half of a product on an N die whose first half has issued? The two row halves are written together
(08 R184), so that no stop lands between them. -/
def Native.secondHalf (n : Native) (k : Nat) (b : Bundle) : Bool :=
  b.half && b.slots.any fun e =>
    isProduct e.1.toNat && (n.inProgress ++ n.rows.map Prod.fst).any fun d =>
      !d.half && d.stream == k && d.opc == e.1.toNat && d.dst == e.2.dst

/-- Does a stop, or an event that waits at its cut, hold a stream before this bundle (R108)? Where the pipeline runs out first, the
streams outside the loop hold at the cut at which those of the loop stand. -/
def Native.heldBack (n : Native) (k : Nat) (q : Seq) (b : Bundle) (stop : Bool) : Bool :=
  (match n.leave with
   | some (f, c, _) => k == f || (b.sp && q.cuts + 1 == c)
   | none => false) ||
  (stop && b.sp && !n.secondHalf k b &&
    (if n.draining stop then !n.loop.pm.getLsbD k && maxCuts n.loopSeqs ≤ q.cuts else q.cuts == maxCuts n.seqs))

/-- What stands before a stream: nothing to issue, a pop that waits, code that breaks a rule, a bundle in error (01 R13), or a
bundle that can issue. -/
inductive Ready where
  | no
  | popWait
  | illegal
  | error
  | yes (b : Bundle) (addr : Nat)
deriving DecidableEq, Repr

/-- May a wave issue native code of a stream at all: as `canIssue`, but that ops may wait, other than one at which the scalar
stream stands for that stream itself (09 R209; 10 R225; 13 R282), and a stop may still have to land? -/
def State.nativeRuns (s : State) (x : Site) (k : Nat) : Bool :=
  match x.wave.native with
  | none => false
  | some n =>
    let stands := x.wave.modes.any WaveMode.standsScalar
    let stops := x.wave.stop == .requested
    !(k == 0 && stands) &&
      let p := (s.tile x.tile).part (x.w.wav % 2 == 1)
      s.canIssueFrom { x with wave := { x.wave with mode := if n.cur.isSome && x.wave.live then .run else x.wave.mode,
                                                    stop := if stops then .none else x.wave.stop,
                                                    owed := if stops then none else x.wave.owed,
                                                    stepLeft := if stops then some 0 else x.wave.stepLeft } }
        (if stops then p.all else p.active)

/-- Do the conditions of R102 allow a stream to issue a bundle? -/
def State.mayGo (s : State) (x : Site) (n : Native) (k : Nat) (q : Seq) (b : Bundle) : Bool :=
  n.canPop k b.pop && n.canPush k q b.push && s.sourcesDone x n k q.pc b

/-- What stands before stream k of a wave. -/
def State.ready (s : State) (x : Site) (k : Nat) : Ready :=
  match x.wave.native, x.wave.frames with
  | some n, f :: _ =>
    match n.seqs[k]?, s.code? f with
    | some q, some t =>
      if !s.nativeRuns x k || q.stopped || (n.loop.halted && n.loop.pm.getLsbD k) || n.loop.opened.getLsbD k ||
          n.loop.backed.getLsbD k || n.loop.closed.getLsbD k then
        .no
      else if !(s.cluster x.tile.cluster).lines.contains (lineOfPc t q.pc) then .no
      else if s.poisoned (t.base + q.pc) 16 then .error
      else
        match s.bundleAt t q.pc with
        | none => .illegal
        | some b =>
          if n.heldBack k q b (x.wave.stop == .requested) || (b.lec == 1 && !n.loop.cf) || minCuts n.seqs + 2 < q.cuts ||
              x.wave.fenceHolds k b then .no
          else if !n.canPop k b.pop then .popWait
          else if !s.mayGo x n k q b then .no
          else .yes b q.pc
    | _, _ => .no
  | _, _ => .no

/-- Use a line of a cluster's cache (14 R300). -/
def State.useLine (s : State) (c : ClusterRef) (l : Nat × Nat) : State :=
  s.modCluster c fun x => { x with lines := if x.lines.contains l then l :: x.lines.filter (· != l) else x.lines }

/-! ## Token pushes (R103) -/

/-- Have the ops of a bundle of stream k, by its number, completed: nothing of it waits, and its reads have returned? -/
def Native.bundleDone (n : Native) (k bun : Nat) : Bool := n.pendingDests.all fun d => d.stream != k || d.bun != bun

/-- TOKEN_PUSH: of the bundles of a stream whose ops have completed, the oldest adds its tokens. -/
def execTokenPush (w : WaveRef) (st : Stream) (s : State) : Host.Outcome State Fault Refusal :=
  let k := streamNum st
  match s.wave? w with
  | none => .next s
  | some x =>
    match x.native with
    | none => .next s
    | some n =>
      match n.seqs[k]? with
      | none => .next s
      | some q =>
        match q.pushes.find? fun p => n.bundleDone k p.1 with
        | none => .next s
        | some e =>
          let tok := (List.range 3).foldl (fun t j =>
            if e.2.getLsbD j then t.put (3 * k + j) (Tab.getD t 0 (3 * k + j) + 1) else t) n.tok
          .next (s.setWave w { x with native := some { n with tok := tok, seqs := n.seqs.set k { q with pushes := q.pushes.erase e } } })

/-! ## The loop engine (R105, R106, R108, R109) -/

/-- Record an iteration's start: the engine keeps the last seven. -/
def Loop.note (l : Loop) : Loop := { l with starts := ((l.rrb, l.lc) :: l.starts).take 7 }

/-- Has every stream of PM set its bit? -/
def Loop.all (l : Loop) (m : BitVec 4) : Bool := m != 0 && m &&& l.pm == l.pm

/-- OPEN_STEP. After a halt for a held event, the iteration that it starts is the one whose start the engine has restored,
which the trip count no longer includes (DEDUCED, log entry 36). -/
def Native.openStep (n : Native) : Native :=
  let l := n.loop
  let again := l.halted && n.held.isSome
  let go := again || l.lc != 0
  let l1 : Loop :=
    { l with sb := if go then 1 else 0, lc := if go && !again then l.lc - 1 else l.lc, opened := l.opened &&& ~~~l.pm, halted := false,
             dr := false, sm := n.held.isSome }
  { n with loop := l1.note, held := none }

/-- The streams of PM stand at an address each. -/
def Native.toTops (n : Native) : Native :=
  { n with seqs := ((List.range n.seqs.length).zip n.seqs).map fun e =>
      if n.loop.pm.getLsbD e.1 then { e.2 with pc := (n.loop.tops[e.1]?).getD e.2.pc } else e.2 }

/-- BACK_STEP. `stop`: a stop request of the wave stands. -/
def Native.backStep (n : Native) (stop : Bool) : Native :=
  let l := n.loop
  let dr := l.dr || (stop && 1 < l.inFlight)
  let rrb := if l.wsz == 0 then l.rrb else BitVec.ofNat 8 ((l.rrb.toNat + l.wsz.toNat - 1) % l.wsz.toNat)
  let go := l.lc != 0 && !dr && !l.sm
  let sb := ((l.sb <<< 1) ||| (if go then 1 else 0)) &&& BitVec.ofNat 7 (2 * 2 ^ l.ec.toNat - 1)
  let l1 := Loop.note { l with rrb := rrb, sb := sb, lc := if go then l.lc - 1 else l.lc, dr := dr, backed := l.backed &&& ~~~l.pm }
  let held := n.held.map (· + 1)
  if sb == 0 && (dr || l.sm) then
    let st := (l1.starts[held.getD l.ec.toNat]?).getD (l1.rrb, l1.lc)
    { n with loop := { l1 with rrb := st.1, lc := st.2, halted := true, sm := false }, held := held }.toTops
  else if sb != 0 then { n with loop := l1, held := held }.toTops
  else { n with loop := l1, held := held }

/-- OPEN_STEP (R106): once every stream of PM has issued OPEN, and again when the wave leaves a halt. -/
def execOpenStep (w : WaveRef) (s : State) : Host.Outcome State Fault Refusal :=
  match s.wave? w with
  | none => .next s
  | some x =>
    match x.native with
    | none => .next s
    | some n =>
      if n.loop.cf && (n.loop.all n.loop.opened || (n.loop.halted && x.stop == .none && n.leave.isNone)) then
        .next (s.setWave w { x with native := some n.openStep })
      else .next s

/-- BACK_STEP (R106): once every stream of PM has issued BACK. -/
def execBackStep (w : WaveRef) (s : State) : Host.Outcome State Fault Refusal :=
  match s.wave? w with
  | none => .next s
  | some x =>
    match x.native with
    | none => .next s
    | some n =>
      if n.loop.all n.loop.backed then .next (s.setWave w { x with native := some (n.backStep (x.stop == .requested)) })
      else .next s

/-- LOOP_CLOSE (R106): once every stream of PM has issued CLOSE. -/
def execLoopClose (w : WaveRef) (s : State) : Host.Outcome State Fault Refusal :=
  match s.wave? w with
  | none => .next s
  | some x =>
    match x.native with
    | none => .next s
    | some n =>
      if n.loop.all n.loop.closed then
        .next (s.setWave w { x with native := some { n with loop := { n.loop with cf := false, closed := 0 } } })
      else .next s

/-! ## A native-only op on its own -/

/-- A wave of which no op waits, with no op in execution. -/
def Wave.atRest (x : Wave) : Wave :=
  if x.mode == .run then { x with native := x.native.map fun n => { n with cur := none } } else x

/-- Run a native-only op as the op of slot A in the wave that issues: as a bundle of its own at the address where its stream stands, that
of the op that the wave's native state names as in execution, or the op's own. -/
def runNative (opc k : Nat) (sl : Slot) (s : State) : Host.Outcome State Fault Refusal :=
  match s.cur with
  | none => .fault .noWave
  | some w =>
    match s.site? w with
    | none => .fault .noWave
    | some x0 =>
      let x : Site := { x0 with wave := x0.wave.atRest }
      match x.wave.native, x.wave.frames with
      | some n, f :: _ =>
        match n.seqs[k]?, s.code? f with
        | some q, some t =>
          let b : Bundle :=
            { sp := false, stop := false, push := 0, pop := 0, lec := 0, half := false, rsv := 0, slots := [(BitVec.ofNat 9 opc, sl)] }
          .next (s.issueBundle x n t k q.pc b)
        | _, _ => .fault .noNative
      | _, _ => .fault .noNative

/-- The stream of the op in execution, or the one in which an op stands by default. -/
def State.opStream (s : State) (k : Nat) : Nat :=
  match (s.cur.bind s.wave?).bind Wave.native with
  | some n => (n.cur.map NDest.stream).getD k
  | none => k

def execNop (sl : Slot) (s : State) : Host.Outcome State Fault Refusal := runNative 0x1C0 (s.opStream 0) sl s
def execMov (sl : Slot) (s : State) : Host.Outcome State Fault Refusal := runNative 0x1C1 (s.opStream 0) sl s
def execBcs (sl : Slot) (s : State) : Host.Outcome State Fault Refusal := runNative 0x1C2 (s.opStream 1) sl s
def execSpst (sl : Slot) (s : State) : Host.Outcome State Fault Refusal := runNative 0x1C3 3 sl s
def execSpld (sl : Slot) (s : State) : Host.Outcome State Fault Refusal := runNative 0x1C4 1 sl s
def execJmp (sl : Slot) (s : State) : Host.Outcome State Fault Refusal := runNative 0x1C5 (s.opStream 0) sl s
def execJc (sl : Slot) (s : State) : Host.Outcome State Fault Refusal := runNative 0x1C6 (s.opStream 0) sl s
def execJal (sl : Slot) (s : State) : Host.Outcome State Fault Refusal := runNative 0x1C7 (s.opStream 0) sl s
def execJr (sl : Slot) (s : State) : Host.Outcome State Fault Refusal := runNative 0x1C8 (s.opStream 0) sl s
def execLcfg (sl : Slot) (s : State) : Host.Outcome State Fault Refusal := runNative 0x1C9 0 sl s

end Sys2Proof.Machine
end

