-- ==== Sys2Proof/Machine/SideTable.lean ====
section
/-!
DEFINITION. Side tables (05 R110-R113): reading one from the translation store, saving a native wave to its portable state, and
resuming a wave in native code.
-/

namespace Sys2Proof.Machine

open Sys2Proof

/-! ## Saving (R113) -/

/-- The record of a place. -/
def SideEntry.loc (e : SideEntry) (k : Nat) : Option LocRec := e.locs.find? fun r => r.vidx == k

/-- The v number of a rotating slot. -/
def rotSlot (wb wsz rrb pay : Nat) : Nat := wb + (bitsOf pay 7 0 + bitsOf pay 17 15 + rrb) % wsz

/-- The value that a location of KIND 0 to 3 holds, of a type. -/
def State.locValue (s : State) (x : Site) (n : Native) (e : SideEntry) (t : Ty) (r : LocRec) : Value :=
  let regs (b : Nat) : Value := { ty := t, x := Lanes.tab fun i => n.vLane t (fun j => b + j) i }
  match r.kind with
  | 0 =>
    let num := bitsOf r.pay 10 0
    match bitsOf r.pay 17 16 with
    | 0 => regs num
    | 1 => Value.tab t fun _ => (Tab.getD n.s 0 (num % 256)).toNat
    | 2 => Value.tab t fun k => if (Tab.getD n.k 0 (num % 16)).has k.val then 1 else 0
    | _ => regs (32 * num)
  | 1 => regs (rotSlot n.loop.wb.toNat n.loop.wsz.toNat n.loop.rrb.toNat r.pay)
  | 2 => s.spillValue t (x.spillKey (64 * r.pay))
  | _ => Value.tab t fun _ => (e.consts[bitsOf r.pay 7 0]?).getD 0

/-- The value of a place of a block through an entry: none for a place that no record names. The fuel bounds the chain of
values computed anew (KIND 4): each has a record of its own. -/
def State.sideValue (s : State) (x : Site) (n : Native) (e : SideEntry) (b : BlockCode) : Nat → Nat → Option Value
  | 0, _ => none
  | fuel + 1, k =>
    match e.loc k with
    | none => none
    | some r =>
      match (b.tys)[k]? with
      | none => none
      | some t =>
        if r.kind != 4 then some (s.locValue x n e t r)
        else
          let at_ := bitsOf r.pay 17 7
          match b.code[at_ - b.params.length]? with
          | none => none
          | some p =>
            placeResult s x p (Tab.getD n.k 0 e.amk) fun ref => State.sideValue s x n e b fuel (at_ - ref.toNat)

/-- The block of a translation at which an entry stands. -/
def SideEntry.block (e : SideEntry) (t : Translation) : BlockCode :=
  (t.blocks[e.point.block]?).getD { params := [], code := [] }

/-- The path of a wave at an entry: its block, its active mask from k(AMK), its place, and its live values. -/
def State.sideCur (s : State) (x : Site) (n : Native) (e : SideEntry) (t : Translation) : Cur :=
  let b := e.block t
  { block := e.point.block, mask := Tab.getD n.k 0 e.amk, vidx := e.point.vidx,
    vals := ((List.range e.point.vidx).map fun k => (s.sideValue x n e b (e.locs.length + 1) k).getD Value.void).reverse }

/-- The entry at which a native wave stands, with its translation; none when no entry describes the place, or the table breaks a
rule. -/
def State.entryHere (s : State) (x : Site) (n : Native) : Option (SideEntry × Translation) :=
  match x.wave.frames with
  | f :: _ =>
    match s.code? f with
    | none => none
    | some t =>
      match s.findEntry t (fun e => e.matches n) (s.sideCount t) with
      | .entry e => some (e, t)
      | _ => none
  | [] => none

/-- Bring a native wave's portable state up to the entry at which it stands (R110, R113; 01 R14); none when there is none: an
unrecoverable fault of the tile. -/
def State.saveNative (s : State) (x : Site) : Option Wave :=
  match x.wave.native, x.wave.frames with
  | some n, f :: r =>
    match s.entryHere x n with
    | some (e, t) => some { x.wave with frames := { f with cur := some (s.sideCur x n e t) } :: r }
    | none => none
  | _, _ => none

/-- Is a spilled live value of the entry at which a native wave stands poisoned (22 R425)? -/
def State.spillsBad (s : State) (x : Site) : Bool :=
  match x.wave.native with
  | none => false
  | some n =>
    match s.entryHere x n with
    | some (e, t) => e.locs.any fun r =>
        r.kind == 2 && s.poisoned (x.spillKey (64 * r.pay)) (128 * vNames (((e.block t).tys[r.vidx]?).getD .void))
    | none => false

/-- The registers of a location, as a debug stop numbers them (14 R318). -/
def locNums (n : Native) (t : Ty) (r : LocRec) : List Nat :=
  let regs (b : Nat) : List Nat := (List.range (vNames t)).map (b + ·)
  match r.kind with
  | 0 =>
    let num := bitsOf r.pay 10 0
    match bitsOf r.pay 17 16 with
    | 0 => regs num
    | 1 => [4096 + num]
    | 2 => [8192 + num]
    | _ => regs (32 * num)
  | 1 => regs (rotSlot n.loop.wb.toNat n.loop.wsz.toNat n.loop.rrb.toNat r.pay)
  | _ => []

/-- The values whose locations at the entry where a native wave has landed are registers that had a write outstanding at the debug stop
of its partition are pending (14 R318). -/
def State.notePend (s : State) (x : Site) : State :=
  match x.wave.native with
  | none => s
  | some n =>
    match s.entryHere x n with
    | none => s
    | some (e, t) =>
      let tys := (e.block t).tys
      let odd := x.w.wav % 2 == 1
      s.modTile x.tile fun y =>
        let p := y.part odd
        y.setPart odd { p with dbg := p.dbg.map fun d =>
          let mine := d.regs.filterMap fun r => if r.1 == x.w then some r.2 else none
          let hit := e.locs.filter fun r => (locNums n ((tys[r.vidx]?).getD .void) r).any fun k => mine.contains k
          { d with pend := d.pend ++ hit.map (fun r => (x.w, x.wave.frames.length, r.vidx)), regs := d.regs.filter fun r => r.1 != x.w } }

/-- Does a stream stand before a bundle that is a safe point? -/
def State.beforeSp (s : State) (x : Site) (q : Seq) : Bool :=
  match x.wave.frames with
  | f :: _ =>
    match s.code? f with
    | some t => match s.bundleAt t q.pc with | some b => b.sp | none => false
    | none => false
  | [] => false

/-- Do a native wave's streams all stand before their bundles of one cut, with every push settled and nothing in progress,
or, those of the loop, halted at its top (R106-R108)? -/
def State.atCut (s : State) (x : Site) (n : Native) : Bool :=
  let idle := x.wave.mode == .run && x.wave.gcnt == 0 && n.inProgress == [] && n.seqs.all (fun q => q.pushes == []) && n.loop.opened == 0 &&
    n.loop.backed == 0 && n.loop.closed == 0
  let at_ (e : Nat × Seq) : Bool :=
    if n.loop.halted && n.loop.pm.getLsbD e.1 then true else e.2.cuts == maxCuts n.seqs && s.beforeSp x e.2
  idle && n.rows == [] && (n.loop.halted || n.loop.inFlight ≤ 1) && ((List.range n.seqs.length).zip n.seqs).all at_

/-- Has code broken a rule of safe points (01 R15): an event at a bundle that is none, or at a cut that a stream has passed
(DEDUCED, log entry 36)? -/
def Native.badLeave (n : Native) : Bool :=
  match n.leave with
  | some (_, c, _) => c == 0 || n.seqs.any fun q => c ≤ q.cuts
  | none => false

/-- A native wave that has met a fault or trap, and whose streams all stand at its cut, stops before the instruction at its
portable point (R107-R109; 14 R308): it goes on in the portable form, which meets the event with its effects. -/
def State.leaveNative (s : State) (w : WaveRef) : State :=
  match s.site? w with
  | none => s
  | some x =>
    match x.wave.native with
    | none => s
    | some n =>
      if n.badLeave then s.illegalNative x ((x.wave.frames.head?.map Frame.tid).getD 0)
      else if n.leave.isSome && s.atCut x n then
        if s.spillsBad x then s.raise (.tileFault x.tile 4)
        else
        match s.saveNative x with
        | some y => s.setWave w { y with native := none }
        | none => s.raise (.tileFault x.tile 2)
      else s

/-! ## Resuming in native code (R113) -/

/-- Place a value at a location. -/
def Native.place (n : Native) (r : LocRec) (v : Value) : Native :=
  let all : LaneMask := BitVec.allOnes 32
  match r.kind with
  | 0 =>
    let num := bitsOf r.pay 10 0
    match bitsOf r.pay 17 16 with
    | 0 => n.setVs v.ty (fun j => num + j) all v
    | 1 => { n with s := n.s.put (num % 256) (BitVec.ofNat 64 (v.nat 0)) }
    | 2 => { n with k := n.k.put (num % 16) v.lanesSet }
    | _ => n.setVs v.ty (fun j => 32 * num + j) all v
  | 1 =>
    let b := rotSlot n.loop.wb.toNat n.loop.wsz.toNat 0 r.pay
    n.setVs v.ty (fun j => b + j) all v
  | _ => n

/-- Place a value in the spill area. -/
def State.placeSpill (s : State) (x : Site) (r : LocRec) (v : Value) : State :=
  if r.kind != 2 then s
  else
    let g := (Native.blank 64).setVs v.ty (fun j => j) (BitVec.allOnes 32) v
    (List.range (vNames v.ty)).foldl (fun s j =>
      s.spillReg (x.spillKey (64 * r.pay + 128 * j)) (g.vreg j) (BitVec.allOnes 32)) s

/-- The loop top of a stream that stands at an address inside a loop: the bundle after the nearest one with LEC OPEN before it;
the address itself when there is none. The fuel counts bundles. -/
def State.loopTop (s : State) (t : Translation) (a : Nat) : Nat → Nat → Nat
  | 0, _ => a
  | fuel + 1, pc =>
    match s.bundleAt t pc with
    | some b => if b.lec == 1 then pc + 16 else if pc < 16 then a else State.loopTop s t a fuel (pc - 16)
    | none => a

/-- Does a stream that stands at an address stand at a loop top: behind a bundle with LEC OPEN (R106)? -/
def State.atTop (s : State) (t : Translation) (a : Nat) : Bool :=
  16 ≤ a && (match s.bundleAt t (a - 16) with | some b => b.lec == 1 | none => false)

/-- Does an entry stand at the halt of a configured loop: no stage on, and every stream of PM at its loop top? -/
def State.entryHalted (s : State) (t : Translation) (e : SideEntry) : Bool :=
  e.cf && e.sb == 0 && ((List.range e.addr.length).zip e.addr).all fun a => !(BitVec.ofNat 4 e.pm).getLsbD a.1 || s.atTop t a.2

/-- The native state of a wave that resumes at an entry (R113). At the halt of a configured loop the OPEN step runs again (R106; DEDUCED,
log entry 36). -/
def resumeNative (e : SideEntry) (budget : Nat) (tops : List Nat) (halted : Bool) (c : Cur) : Native :=
  let lane0 (k : Nat) : Nat :=
    match (c.vals.reverse)[k]? with | some v => v.nat ((c.mask.lowest).getD 0) | none => 0
  let lc : Word :=
    if e.lca == 0x7FF then 0
    else BitVec.ofNat 32 (lane0 e.lca) - (if e.lcb == 0x7FF then 0 else BitVec.ofNat 32 (lane0 e.lcb))
  let b := Native.blank budget
  let n : Native :=
    { b with
      tok := (List.range 12).map fun q => (q, bitsOf e.tok (4 * q + 3) (4 * q))
      seqs := e.addr.map Seq.start
      loop :=
        { b.loop with
          lc := lc, ec := BitVec.ofNat 3 e.ec, sb := if e.cf then BitVec.ofNat 7 e.sb else 0, wb := BitVec.ofNat 11 e.wb
          wsz := BitVec.ofNat 9 e.wsz, pm := BitVec.ofNat 4 e.pm, cf := e.cf, tops := tops, halted := halted } }
  let n1 := e.locs.foldl (fun n r =>
    match (c.vals.reverse)[r.vidx]? with
    | some v => if v.ty == .void then n else n.place r v
    | none => n) n
  { n1 with k := (n1.k.put e.amk c.mask).put 0 c.mask }

/-- A resident wave that stands at a portable point enters the native code of its translation, through the entry for resuming
there (R113). A table that breaks a rule, or that has no such entry, is an unrecoverable fault of the tile (R110-R112); a
translation without native code leaves the wave in the portable form, as does debug-form code (DESIGN CHOICE, log entry 36). -/
def State.enterNative (s : State) (w : WaveRef) : State :=
  match s.site? w with
  | none => s
  | some x =>
    match x.wave.native, x.wave.frames with
    | none, f :: _ =>
      match s.code? f, f.cur with
      | some t, some c =>
        let here (e : SideEntry) : Bool := e.res && e.point == { func := f.func, block := c.block, vidx := c.place }
        if x.wave.mode != .run || x.wave.stop != .none || x.wave.stepLeft.isSome || x.block.phase != .resident || !t.hasCode || t.debug
            || x.wave.sysReq.isSome then s
        else
          match s.findEntry t here (s.sideCount t) with
          | .entry e =>
            let s1 := e.locs.foldl (fun s r =>
              match (c.vals.reverse)[r.vidx]? with
              | some v => if v.ty == .void then s else s.placeSpill x r v
              | none => s) s
            let tops := if e.cf then e.addr.map fun a => s.loopTop t a (a / 16 + 1) a else []
            s1.setWave w { x.wave with native := some (resumeNative e t.key.budget tops (s.entryHalted t e) c) }
          | _ => s.raise (.tileFault x.tile 2)
      | _, _ => s
    | _, _ => s

end Sys2Proof.Machine
end

