-- ==== Sys2Proof/Machine/Active.lean ====
section
/-!
DEFINITION. Who issues, and who gives its place (09 R209-R212): the next word of a portable wave and what it waits for, PICK with
its ages, the waves that are blocked long, the swaps of the active sets, and what a returned access wakes.
-/

namespace Sys2Proof.Machine

open Sys2Proof

/-! ## What a portable word waits for (05 R102; 11 R238) -/

/-- The back-references of a placed word (04 R70): none in a word whose fields hold an immediate or a selector. -/
def wordRefs (p : PlaceCode) : List Ref :=
  let opc := (opcOf p.word).toNat
  let f := fieldsOf p.word
  let rs :=
    if inRange 0x020 0x023 opc then []
    else if opc == 0x0C0 || opc == 0x0C2 then argRefs p.args
    else if opc == 0x0C1 then f.a :: argRefs p.args
    else [f.a, f.b, f.c, f.p]
  rs.filter fun r => r != 0

/-- Does the word that a wave executes next use one of these places, by frame depth and place? -/
def Wave.uses (x : Wave) (c : Cur) (p : PlaceCode) (us : List (Nat × Nat)) : Bool :=
  (wordRefs p).any fun r => r.toNat ≤ c.place && us.contains (x.frames.length, c.place - r.toNat)

/-- Does a word wait for reads: one whose value is a global read's that has not returned (05 R102), or a vault read's while the
wave's vault completion counter is above zero (11 R238)? -/
def Wave.dataWaits (x : Wave) (c : Cur) (p : PlaceCode) : Bool := x.uses c p x.guse || (0 < x.vcnt && x.uses c p x.vuse)

/-- The instruction word that a wave stands before, in the portable form. -/
def State.wordAt (s : State) (w : WaveRef) : Option (Cur × PlaceCode) :=
  match s.site? w with
  | none => none
  | some x =>
    match x.wave.native, x.wave.top? with
    | none, some (f, c) => (s.fetch f c).map fun p => (c, p)
    | _, _ => none

/-- Does a portable wave wait for data before its next word? -/
def State.waitsData (s : State) (x : Site) : Bool :=
  match s.wordAt x.w with
  | some (c, p) => x.wave.dataWaits c p
  | none => false

/-- The instruction word that a wave issues next, when it may issue one. A wave that runs native code issues bundles
instead (05 R102). -/
def State.nextPlace (s : State) (w : WaveRef) : Option PlaceCode :=
  match s.site? w with
  | none => none
  | some x =>
    if !s.canIssue x then none
    else
      match s.wordAt w with
      | some (c, p) => if x.wave.dataWaits c p then none else some p
      | none => none

/-! ## PICK (R211) -/

/-- Can a wave issue in stream k: its next bundle there, or its next portable word when its op stands there? -/
def State.issuesIn (s : State) (w : WaveRef) (k : Nat) : Bool :=
  match s.site? w with
  | none => false
  | some x =>
    match x.wave.native with
    | some _ => (match s.ready x k with | .yes _ _ => true | .illegal => true | .error => true | _ => false)
    | none => (match s.nextPlace w with | some p => portableStream (opcOf p.word).toNat == k | none => false)

/-- The waves of a partition that can issue in a stream: active ones, and pending ones in native code that a stop request still has to
land (14 R318). -/
def State.candidates (s : State) (p : Part) (k : Nat) : List Entry := p.all.filter fun e => s.issuesIn e.wave k

/-- PICK: the entry of the largest age, ties to the lowest slot. -/
def pickEntry (k : Nat) : List Entry → Option Entry
  | [] => none
  | e :: r =>
    match pickEntry k r with
    | none => some e
    | some b =>
      let ae := (e.ages[k]?).getD 0
      let ab := (b.ages[k]?).getD 0
      if ab < ae || (ab == ae && e.slot < b.slot) then some e else some b

/-- The ages after a pick. -/
def agePart (p : Part) (k : Nat) (c : List Entry) (w : WaveRef) : Part :=
  { p with active := p.active.map fun e =>
      if e.wave == w then { e with ages := e.ages.set k 0 }
      else if c.any (fun x => x.wave == e.wave) then { e with ages := e.ages.set k (min ((e.ages[k]?).getD 0 + 1) 63) }
      else e }

/-- Is a wave the one that its partition picks for a stream? -/
def State.picks (s : State) (t : TileRef) (w : WaveRef) (k : Nat) : Bool :=
  match pickEntry k (s.candidates ((s.tile t).part (w.wav % 2 == 1)) k) with
  | some e => e.wave == w
  | none => false

/-- A partition has picked a wave for a stream. -/
def State.picked (s : State) (t : TileRef) (w : WaveRef) (k : Nat) : State :=
  let odd := w.wav % 2 == 1
  let c := s.candidates ((s.tile t).part odd) k
  s.modTile t fun y => y.setPart odd (agePart (y.part odd) k c w)

/-- A stream's pop begins to wait, or waits no longer (R209). -/
def State.markPopWait (s : State) (x : Site) (k : Nat) : State :=
  let waits := s.ready x k == .popWait
  s.modNative x.w fun n =>
    match n.seqs[k]? with
    | some q =>
      if waits == q.popWait.isSome then n
      else { n with seqs := n.seqs.set k { q with popWait := if waits then some (s.ctlNow x.tile) else none } }
    | none => n

/-- The wave that a partition picks for a stream issues its next bundle there. A portable one issues its next word. -/
def State.bundleIssue (s : State) (t : TileRef) (odd : Bool) (k : Nat) : State :=
  let p := (s.tile t).part odd
  let s0 := p.active.foldl (fun s e =>
    match s.site? e.wave with
    | some x => if x.wave.native.isSome then s.markPopWait x k else s
    | none => s) s
  match pickEntry k (s.candidates p k) with
  | none => s0
  | some e =>
    match s0.site? e.wave with
    | none => s0
    | some x =>
      match x.wave.native, x.wave.frames with
      | some n, f :: _ =>
        let s1 := s0.picked t e.wave k
        match s1.code? f with
        | none => s1
        | some tr =>
          match s0.ready x k with
          | .yes b addr => ((s1.useLine t.cluster (lineOfPc tr addr)).touch tr).issueBundle x n tr k addr b
          | .illegal => s1.illegalNative x tr.tid
          | .error => s1.raise (.tileFault x.tile 2)
          | _ => s1
      | _, _ => s0.raise (.wave e.wave)

/-- BUNDLE_ISSUE (R211): waves that have met a fault or trap in native code, and stand at its safe point, leave it; one whose streams have all
halted has ended (05 R91). -/
def execBundleIssue (t : TileRef) (odd : Bool) (st : Stream) (s : State) : Host.Outcome State Fault Refusal :=
  let s1 := ((s.tile t).part odd).all.foldl (fun s e => (s.leaveNative e.wave).endStopped e.wave) s
  .next (s1.bundleIssue t odd (streamNum st))

/-! ## Blocked long (R209) -/

def WaveMode.isFab (m : WaveMode) : Bool := match m with | .fab _ _ _ _ => true | _ => false

/-- The opcode of `fab.ld`: of the fabric instructions the one whose answer R209 lists. -/
def fabLdOpc : Nat := 0x144

/-- Has a stream's pop waited for 24 control cycles or more (R209)? -/
def State.popExpired (s : State) (x : Site) (k : Nat) : Bool :=
  match (x.wave.native.bind fun n => n.seqs[k]?).bind Seq.popWait with
  | some c => c + 24 ≤ s.ctlNow x.tile && s.ready x k == .popWait
  | none => false

/-- Does an op of a native wave wait for what R209 lists: a read of global memory or of a remote vault that has not returned, the answer
of a `fab.ld`, or the condition of an instruction at which the scalar stream stands? -/
def Site.longOp (x : Site) (n : Native) (d : NDest) : Bool :=
  (n.outs.any fun o => o.dest == d && (0 < o.left || (0 < o.vleft && 0 < x.wave.rcnt))) ||
    ((n.cur.toList.map fun e => (e, x.wave.mode)) ++ n.waits.map fun e => (e.dest, e.mode)).any fun e =>
      e.1 == d && (e.2.isScalarWait || (e.2.isFab && d.opc == fabLdOpc))

/-- Does a source of a bundle of stream k wait for such an op? -/
def State.sourceLong (s : State) (x : Site) (n : Native) (k addr : Nat) (b : Bundle) : Bool :=
  let narrow := narrowDie x.block.die
  let ds := bundleDests b n narrow k addr
  ((List.range ds.length).zip ds).any fun e =>
    match slotRegs x n e.2.1 e.2.2.1 e.2.2.2 (s.fresh + 4 * e.1) with
    | some rs => rs.any fun r =>
        (n.pendingDests.any fun d => d.owes e.2.1 narrow r && x.longOp n d) || (x.vaultHolds n r && 0 < x.wave.rcnt)
    | none => n.inProgress.any fun d => isProduct d.opc && x.longOp n d

/-- Does the wait of stream k for its next bundle trace back to what R209 lists: directly, or through the wave's own token queues and
registers? An empty queue waits for the ops of the bundles that push into it, and without one for its source stream; a full queue
waits for its consumer. The fuel bounds the chain by the number of streams. -/
def State.waitsLong (s : State) (x : Site) (n : Native) (t : Translation) : Nat → Nat → Bool
  | 0, _ => false
  | f + 1, k =>
    match n.seqs[k]? with
    | none => false
    | some q =>
      if q.stopped then false
      else if k == 0 && x.wave.modes.any WaveMode.isScalarWait then true
      else
        match s.bundleAt t q.pc with
        | none => false
        | some b =>
          s.sourceLong x n k q.pc b || s.popExpired x k ||
          ((List.range 3).any fun j =>
            b.pop.getLsbD j && Tab.getD n.tok 0 (popQueue k j) == 0 &&
              (let g := popQueue k j / 3
               match n.seqs[g]? with
               | none => false
               | some r =>
                 let ps := r.pushes.filter fun p => p.2.getLsbD (popQueue k j % 3)
                 if ps == [] then State.waitsLong s x n t f g
                 else ps.any fun p => n.pendingDests.any fun d => d.stream == g && d.bun == p.1 && x.longOp n d)) ||
          ((List.range 3).any fun j =>
            b.push.getLsbD j && 15 ≤ Tab.getD n.tok 0 (3 * k + j) + (q.pushes.filter fun p => p.2.getLsbD j).length &&
              State.waitsLong s x n t f ((k + 1 + j) % 4))

/-- Is an active wave blocked long (R209)? A native wave: its compute stream's wait traces back to what R209 lists; once that stream has
halted, that of each stream that has not (DEDUCED, log entry 59). A portable wave: it stands at a wait of the list, or its next
word uses what an outstanding read gives. -/
def State.blockedLong (s : State) (x : Site) : Bool :=
  match x.wave.native with
  | some n =>
    (match x.wave.frames.head?.bind s.code? with
     | none => false
     | some t =>
       if (n.seqs[2]?.map Seq.stopped).getD true then
         let ks := [0, 1, 3].filter fun k => !(n.seqs[k]?.map Seq.stopped).getD true
         ks != [] && ks.all fun k => s.waitsLong x n t 4 k
       else s.waitsLong x n t 4 2)
  | none =>
    x.wave.mode.isScalarWait ||
      (match s.wordAt x.w with
       | some (c, p) =>
         (x.wave.mode.isFab && (opcOf p.word).toNat == fabLdOpc) || x.wave.uses c p x.wave.guse ||
           (0 < x.wave.rcnt && x.wave.uses c p x.wave.vuse)
       | none => false)

/-- Pending entries of a partition that were blocked and whose wave no dependence blocks any more are ready now (R210). -/
def State.freeEntries (s : State) (now : Nat) (p : Part) : Part :=
  { p with pending := p.pending.map fun e =>
      match s.site? e.wave with
      | some x => if e.rt.isNone && x.block.phase == .resident && !s.blockedLong x then { e with rt := some now } else e
      | none => e }

/-- The same for both partitions of a tile. -/
def State.wakeTile (s : State) (t : TileRef) : State :=
  let now := s.ctlNow t
  s.modTile t fun x => { x with even := s.freeEntries now x.even, odd := s.freeEntries now x.odd }

/-! ## Swaps (R210) -/

/-- Is an act one that R215 puts before the swaps of a partition in one control cycle: a fault of the tile, a debug stop, a stop request or
its landing, or the issue of `exit` or of a debug instruction? -/
def State.beforeSwaps (s : State) (t : TileRef) (odd : Bool) (a : Act) : Bool :=
  let ofBlock (b : BlockRef) : Bool := match s.block? b with | some x => x.tileRef == t | none => false
  let ofWave (w : WaveRef) : Bool := (w.wav % 2 == 1) == odd && ofBlock w.block
  match a with
  | .tileFault u _ => u == t
  | .event (.debugInterfaceStop u o) => u == t && o == odd
  | .event (.contextSwitchStart u) => u == t
  | .event (.park b) => ofBlock b
  | .event (.swapOut b) => ofBlock b
  | .event (.stopLanded w) => ofWave w
  | .event (.watchdog w) => ofWave w
  | .wave w => ofWave w && (match s.wordAt w with | some (_, p) => [0x0C4, 0x14F, 0x150].contains (opcOf p.word).toNat | none => false)
  | _ => false

/-- Does an act let time pass? -/
def Act.isAdvance (a : Act) : Bool := match a with | .advance _ => true | _ => false

/-- A swap event put behind the last act of this control cycle that comes before it (R215); none when nothing does. -/
def State.deferSwap (s : State) (t : TileRef) (odd : Bool) (i : Instr) : Option State :=
  let now := s.agenda.takeWhile fun a => !a.isAdvance
  let rest := s.agenda.drop now.length
  let after := (now.reverse.takeWhile fun a => !s.beforeSwaps t odd a).reverse
  let first := now.take (now.length - after.length)
  if first == [] then none else some { s with agenda := first ++ .event i :: after ++ rest }

/-- ACTIVE_SET_SWAP (R210): every active wave that is blocked long, lowest slot first, is exchanged for the oldest
ready pending wave; then free places are filled. What R215 puts before it in the same control cycle comes first. -/
def execActiveSetSwap (t : TileRef) (odd : Bool) (s0 : State) : Host.Outcome State Fault Refusal :=
  match s0.deferSwap t odd (.activeSetSwap t odd) with
  | some s1 => .next s1
  | none =>
    let s := s0.wakeTile t
    let p := (s.tile t).part odd
    if p.dbg.isSome then .next s0
    else
      let slots := (List.range 16).filterMap fun k => p.active.find? fun e => e.slot == k
      let s1 := slots.foldl (fun s e =>
        match s.site? e.wave with
        | some x => if s.blockedLong x then s.swapPlace t odd e.wave false else s
        | none => s) s
      .next (s1.refill t)

/-- POP_WAIT_EXPIRY (R209): a stream's pop has waited 24 control cycles; when that blocks its wave long, the wave is exchanged. -/
def execPopWaitExpiry (w : WaveRef) (st : Stream) (s : State) : Host.Outcome State Fault Refusal :=
  match s.site? w with
  | none => .next s
  | some x =>
    if s.popExpired x (streamNum st) && s.blockedLong x then
      (match s.deferSwap x.tile (w.wav % 2 == 1) (.popWaitExpiry w st) with
       | some s1 => .next s1
       | none => .next ((s.wakeTile x.tile).swapPlace x.tile (w.wav % 2 == 1) w false))
    else .next s

/-! ## Accesses complete (11 R238, R248) -/

/-- The oldest op of a native wave with reads left has had one more returned. -/
def Native.outDone (n : Native) (vault : Bool) : Native :=
  let rec go : List NOut → List NOut
    | [] => []
    | e :: r =>
      if vault && 0 < e.vleft then (if e.left + e.vleft == 1 then r else { e with vleft := e.vleft - 1 } :: r)
      else if !vault && 0 < e.left then (if e.left + e.vleft == 1 then r else { e with left := e.left - 1 } :: r)
      else e :: go r
  { n with outs := go n.outs }

/-- A wave that no dependence blocks long any more is ready (R210). -/
def State.wakeFreed (s : State) (w : WaveRef) : State :=
  match s.site? w with
  | some x => if s.blockedLong x then s else s.wakeEntry w
  | none => s

/-- VAULT_REQUEST_COMPLETE (11 R238): a vault request completes and the wave's counter decreases; at zero its vault reads have all
returned. Of the wave's requests those to its own vault are taken to complete first (log entry 59). -/
def execVaultRequestComplete (w : WaveRef) (s : State) : Host.Outcome State Fault Refusal :=
  let s1 := s.modWave w fun x =>
    { x with vcnt := x.vcnt - 1, rcnt := min x.rcnt (x.vcnt - 1), vuse := if x.vcnt ≤ 1 then [] else x.vuse
             native := x.native.map fun n => { n.outDone true with vregs := if x.vcnt ≤ 1 then [] else n.vregs } }
  .next (s1.wakeFreed w)

/-- GLOBAL_ACCESS_COMPLETE (11 R248): the data of a wave's oldest outstanding global read has returned, and a wave that it blocked
is blocked by it no longer. -/
def execGlobalAccessComplete (w : WaveRef) (s : State) : Host.Outcome State Fault Refusal :=
  let s1 := s.modWave w fun x =>
    { x with gcnt := x.gcnt - 1, guse := x.guse.drop 1, native := x.native.map fun n => n.outDone false }
  .next (s1.wakeFreed w)

end Sys2Proof.Machine
end

