-- ==== Sys2Proof/Machine/Resume.lean ====
section
/-!
DEFINITION. Reading a swap-out image back (14 R310; 17 R359): the wave records give the frames, paths, live values, statuses and undo
log with which a block's waves go on.
-/

namespace Sys2Proof.Machine

open Sys2Proof

/-! ## Parsing wave records -/

/-- A value from its bytes in lane order at the type's size (14 R319). -/
def valueOfBytes (t : Ty) (bs : List Byte) : Value :=
  match t with
  | .void => Value.void
  | .pred => Value.tab .pred fun k => ofLe (bs.take 4) / 2 ^ k.val % 2
  | .fmt => Value.tab .fmt fun _ => ofLe (bs.take 64)
  | t => Value.tab t fun k => ofLe ((bs.drop (t.bits / 8 * k.val)).take (t.bits / 8))

/-- A value's length in a record. -/
def valueLen (t : Ty) : Nat := if t == .fmt then 64 else undoBytes t

/-- A value record: its place, its frame counted from the top, what it belongs to, and the value. -/
structure ImgValue where
  vidx : Nat
  frame : Nat
  own : Nat
  v : Value
deriving DecidableEq, Repr

/-- A frame record. -/
structure ImgFrame where
  kind : Nat
  func : Nat
  rmask : LaneMask
  below : Nat
deriving DecidableEq, Repr

/-- A wave record. -/
structure WaveImg where
  ieee : Nat
  sli : Nat
  tau : Nat
  ofs : Nat
  pvidx : Nat
  frames : List ImgFrame
  paths : List ImgPath
  vals : List ImgValue
  log : List Byte
deriving DecidableEq, Repr

/-- Read n value records: they, and the bytes behind them. -/
def readValues : Nat → List Byte → List ImgValue × List Byte
  | 0, bs => ([], bs)
  | n + 1, bs =>
    let h := ofLe (bs.take 8)
    let t := (Ty.ofCode (bitsOf h 52 49)).getD .void
    let body := bs.drop 8
    let r := readValues n (body.drop (valueLen t))
    ({ vidx := bitsOf h 63 53, frame := bitsOf h 47 40, own := bitsOf h 39 32, v := valueOfBytes t (body.take (valueLen t)) } :: r.1, r.2)

def imgFrameOf (x : Nat) : ImgFrame :=
  { kind := bitsOf x 127 126, func := bitsOf x 125 110, rmask := BitVec.ofNat 32 (bitsOf x 109 78), below := bitsOf x 77 67 }
def imgPathOf (x : Nat) : ImgPath :=
  { frame := bitsOf x 55 48, block := bitsOf x 15 0, mask := BitVec.ofNat 32 (bitsOf x 47 16), cur := bitsOf x 56 56 == 1,
    susp := bitsOf x 57 57 == 1, vals := [] }

/-- Read a wave record: its wave index, it, and the bytes from the next 64-byte boundary on. -/
def readWaveImg (bs : List Byte) : Nat × WaveImg × List Byte :=
  let h := ofLe (bs.take 64)
  let nfr := bitsOf h 506 498
  let npath := bitsOf h 497 482
  let ulog := bitsOf h 380 368
  let fs := (bs.drop 64).take (16 * nfr)
  let ps := (bs.drop (64 + 16 * nfr)).take (8 * npath)
  let vs := readValues (bitsOf h 481 466) (bs.drop (64 + 16 * nfr + 8 * npath))
  let used := bs.length - vs.2.length + ulog
  (bitsOf h 511 507,
   { ieee := bitsOf h 465 461, sli := bitsOf h 460 456, tau := bitsOf h 455 424, ofs := bitsOf h 423 392, pvidx := bitsOf h 391 381
     frames := (List.range nfr).map fun k => imgFrameOf (ofLe ((fs.drop (16 * k)).take 16))
     paths := (List.range npath).map fun k => imgPathOf (ofLe ((ps.drop (8 * k)).take 8))
     vals := vs.1, log := vs.2.take ulog },
   bs.drop (64 * ceilDiv used 64))

/-- Read n wave records, with their wave indices. -/
def readWaveImgs : Nat → List Byte → List (Nat × WaveImg)
  | 0, _ => []
  | n + 1, bs =>
    let r := readWaveImg bs
    (r.1, r.2.1) :: readWaveImgs n r.2.2

/-! ## A wave from its record -/

/-- The value of a place that belongs to a path, of a type: as the image gives it. A place that no word uses any more stands in no
record: it keeps what the wave held, or zero. -/
def WaveImg.value (g : WaveImg) (own frame k : Nat) (t : Ty) (old : Option Value) : Value :=
  match g.vals.find? fun v => v.own == own && v.vidx == k && (own != 0 || v.frame == frame) with
  | some v => v.v
  | none => (old.filter fun v => v.ty == t).getD (Value.zero t)

/-- The types of the places of a block of a translation. -/
def blockTys (t : Option Translation) (b : Nat) : List Ty :=
  match t.bind fun t => t.blocks[b]? with
  | some x => x.tys
  | none => []

/-- The number of a block's parameters. -/
def blockParams (t : Option Translation) (b : Nat) : Nat :=
  match t.bind fun t => t.blocks[b]? with
  | some x => x.params.length
  | none => 0

/-- The trap of a handler frame with what the image holds of it: the operands, the word and the place. -/
def WaveImg.trapOf (g : WaveImg) (frame below : Nat) (t : TrapInfo) : TrapInfo :=
  let rec_ (k : Nat) : Option Value := (g.vals.find? fun v => v.own == 0xFF && v.frame == frame && v.vidx == k).map ImgValue.v
  let lanes (k : Nat) (old : Lanes Word64) : Lanes Word64 :=
    match rec_ k with | some v => Lanes.tab fun i => (v.x.get i).setWidth 64 | none => old
  let w : BitVec 64 := match rec_ 3 with | some v => (v.x[0]?.getD 0).setWidth 64 | none => t.word
  { t with opA := lanes 0 t.opA, opB := lanes 1 t.opB, opC := lanes 2 t.opC, word := w, opc := opcOf w, f := fieldsOf w,
           point := { t.point with vidx := below } }

/-- The i-th frame of a record, counted from the base. `old`: the frame that the wave had there, for what no record holds. -/
def State.frameOf (s : State) (g : WaveImg) (i : Nat) (e : ImgFrame) (old : Option Frame) : Frame :=
  let n := g.frames.length
  let code := old.bind s.code?
  let top := i + 1 == n
  let mine := ((List.range g.paths.length).zip g.paths).filter fun p => p.2.frame == i
  let below := match g.frames[i + 1]? with | some f => f.below | none => 0
  let ret := g.vals.find? fun v => v.own == 0xFE && v.frame == n - 1 - i
  let cur : Option Cur :=
    (mine.find? fun p => p.2.cur || p.2.susp).map fun p =>
      let tys := blockTys code p.2.block
      let len := if top then max g.pvidx (blockParams code p.2.block) else below
      let was : List Value :=
        match old.bind Frame.cur with | some c => if c.block == p.2.block then c.vals.reverse else [] | none => []
      { block := p.2.block, mask := p.2.mask, vidx := if top then g.pvidx else below
        vals := ((List.range len).map fun k =>
          g.value (if top then 0 else p.1 + 1) (n - 1 - i) k ((tys[k]?).getD .void) was[k]?).reverse }
  let pending : List Path :=
    (mine.filter fun p => !(p.2.cur || p.2.susp)).map fun p =>
      { block := p.2.block, mask := p.2.mask
        params := (List.range (blockParams code p.2.block)).map fun k =>
          g.value (p.1 + 1) (n - 1 - i) k (((blockTys code p.2.block)[k]?).getD .void) none }
  { kind := if e.kind == 0 then .base else if e.kind == 1 then .call else .handler
    func := e.func, tid := (old.map Frame.tid).getD 0, pending := pending, cur := cur, retMask := e.rmask
    ret := match ret with | some v => v.v.x | none => (old.map Frame.ret).getD (Lanes.all 0)
    retTy := match ret with | some v => v.v.ty | none => (old.map Frame.retTy).getD .void
    trap := (old.bind Frame.trap).map (g.trapOf (n - 1 - i) e.below), kept := (old.map Frame.kept).getD [] }

/-- Values behind each other in an undo entry: those of the same types as before. -/
def rereadOlds : List Value → List Byte → List Value
  | [], _ => []
  | v :: r, bs => valueOfBytes v.ty (bs.take (undoBytes v.ty)) :: rereadOlds r (bs.drop (undoBytes v.ty))

/-- An undo entry as the image's bytes give it: the header, a STEP entry's old value and memory records, and a CTL entry's path list and
overwritten parameters. -/
def UndoEntry.reread (e : UndoEntry) (bs : List Byte) : UndoEntry :=
  let h := ofLe (bs.take 16)
  let body := bs.drop 16
  let t := (Ty.ofCode (bitsOf h 116 113)).getD .void
  let kind : UndoKind :=
    match e.kind with
    | .step _ mem =>
      let o := bitsOf h 123 123 == 1
      let recs := body.drop (if o then undoBytes t else 0)
      .step (if o then some (valueOfBytes t (body.take (undoBytes t))) else none)
        (((List.range mem.length).zip mem).map fun m =>
          let x := (recs.drop (24 * m.1)).take 24
          let k := ofLe (x.take 8)
          (bitsOf k 63 59, bitsOf k 58 56, BitVec.ofNat 64 (bitsOf k 55 0), (x.drop 8).take m.2.2.2.2.length))
    | .ctl pending cur kept olds =>
      let path (k : Nat) : Nat := ofLe ((body.drop (8 * k)).take 8)
      let n := pending.length
      .ctl (((List.range n).zip pending).map fun p => { p.2 with block := bitsOf (path p.1) 15 0, mask := BitVec.ofNat 32 (bitsOf (path p.1) 47 16) })
        (cur.map fun c => { c with block := bitsOf (path n) 15 0, mask := BitVec.ofNat 32 (bitsOf (path n) 47 16) }) kept
        (rereadOlds olds (body.drop (8 * (n + if cur.isSome then 1 else 0))))
    | .hzn => .hzn
  { e with kind := kind, ty := bitsOf h 116 113, mask := BitVec.ofNat 32 (bitsOf h 63 32), seq := bitsOf h 31 0
           point := { func := bitsOf h 112 97, block := bitsOf h 96 81, vidx := bitsOf h 80 70 } }

/-- A wave's undo log as the image's bytes give it; the list has the newest entry first. -/
def rereadLog (es : List UndoEntry) (bs : List Byte) : List UndoEntry :=
  (es.reverse.foldl (fun a e => (e.reread (a.2.take e.len) :: a.1, a.2.drop e.len)) (([] : List UndoEntry), bs)).1

/-- A wave as its record gives it. -/
def State.resumeWave (s : State) (g : WaveImg) (x : Wave) : Wave :=
  let old := x.frames.reverse
  { x with
    frames := (((List.range g.frames.length).zip g.frames).map fun e => s.frameOf g e.1 e.2 old[e.1]?).reverse
    ieee := BitVec.ofNat 5 g.ieee, sli := BitVec.ofNat 5 g.sli, tau := BitVec.ofNat 32 g.tau, ofs := BitVec.ofNat 32 g.ofs
    undo := if g.log == [] then [] else rereadLog x.undo g.log }

/-- A block's class and group slots as the header of its image gives them (R358). Which waves have passed a barrier that the others have still to
pass stands in no image, and is kept (DEDUCED, log entry 40). -/
def Block.reread (b : Block) (img : List Byte) : Block :=
  if img == [] then b
  else
    let h := ofLe (img.take 64)
    let slot (b : Block) (k : Nat) : Block :=
      let x := bitsOf h (367 - 42 * k) (326 - 42 * k)
      if bitsOf x 41 41 == 0 then b
      else
        let g := bitsOf x 7 0
        b.setSlot { b.slotOf g with arrived := bitsOf x 40 40 == 1, gens := bitsOf x 39 8 }
    (List.range 4).foldl slot { b with cls := bitsOf h 383 382 }

/-- A block's waves as its image gives them; one that has ended has no record. -/
def State.resumeWaves (s : State) (ws : List Wave) (img : List Byte) : List Wave :=
  let gs := readWaveImgs (bitsOf (ofLe (img.take 64)) 487 480) (img.drop 64)
  ((List.range ws.length).zip ws).map fun e =>
    match gs.find? fun g => g.1 == e.1 with
    | some g => if e.2.isEnded then e.2 else s.resumeWave g.2 e.2
    | none => e.2

end Sys2Proof.Machine
end

