-- ==== Sys2Proof/Machine/Stops.lean ====
section
/-!
DEFINITION. Precise stops (05 R108; 14 R308-R313; 17 R350, R358, R359): landing, parks, swap-outs with their images, fault
records and their resolution, and the release of a wave's slot (06 R136).
-/

namespace Sys2Proof.Machine

open Sys2Proof

/-! ## Landing (05 R108; 14 R308) -/

/-- Has a native wave's stream issued nothing after the op that its mode names? A portable wave stands at its instruction. -/
def Wave.standsAt (x : Wave) : Bool :=
  match x.native with
  | none => true
  | some n =>
    match n.cur with
    | none => true
    | some d => (match n.seqs[d.stream]? with | some q => q.bun == d.bun + 1 | none => true)

/-- Take the unfinished wait at which a wave stands out of it: the instruction issues anew when the wave goes on, and a `wait` that
has slept writes its packet (21 R419). An op of native code stands before its bundle again. -/
def State.withdrawOne (s : State) (x : Site) : State :=
  let run (s : State) : State :=
    s.modWave x.w fun y =>
      Wave.refocus
        { y with mode := .run
                 native := y.native.map fun n => match n.cur with | some d => { n.unissue d with cur := none } | none => n }
  match x.wave.mode with
  | .wait va _ _ _ _ start =>
    let s1 := s.emitFw x va.toNat start 3 (s.waits.find? fun e => e.wave == x.w)
    run { s1 with waits := s1.waits.filter fun e => e.wave != x.w }
  | .xfence _ _ upTo => if x.wave.standsAt then run (s.unfence x.tile x.w upTo) else s
  | .barB => run s
  | .barG _ _ _ => run s
  | .cdrain _ _ => run s
  | .rowSync => run s
  | .lwait _ _ _ _ => run s
  | _ => s

/-- The same for every wait of the wave, in the order in which they come into focus. -/
def State.withdraw (s : State) (x : Site) : State :=
  x.wave.modes.foldl (fun s _ => match s.site? x.w with | some y => s.withdrawOne y | none => s) s

/-- A wave that has reached its safe point. -/
def Wave.landed (x : Wave) : Wave :=
  { x with stop := .landed, stepLeft := none, stepEnd := none, quarters := [], quartersB := [],
           native := x.native.map fun n => { n with loop := { n.loop with dr := false }, halves := [], rows := [] } }

/-- Does a wave of a debugger's step command stand at an unmet progress point, where the command ends (14 R320)? -/
def Wave.stepEnds (x : Wave) : Bool := x.stop == .none && x.stepLeft.isSome && x.atProgress && x.live

/-- Does a wave stand at a `bar.b` that has completed? It has been released, and stands there no longer (13 R278). -/
def Site.pastBarB (x : Site) : Bool := x.wave.mode == .barB && x.block.allAtBarB

/-- Land a wave under a stop request, when it stands at a safe point. A portable wave stands at one between any two
instructions; a native one when its streams stand at a cut, and its portable state is read through the side table. -/
def State.land (s : State) (w : WaveRef) : Option State :=
  match s.site? w with
  | none => none
  | some x =>
    if (x.wave.stop != .requested && !x.wave.stepEnds) || x.block.phase != .resident || x.wave.unfinished || !x.wave.live || x.pastBarB then none
    else
      let s1 := s.withdraw x
      match s1.site? w with
      | none => none
      | some y =>
        match y.wave.native with
        | none =>
          let tried := x.wave.owed.isSome || x.wave.mode != .run
          let z := if tried then y.wave.stand else y.wave
          some (s1.setWave w (Wave.landed { z with owed := z.owed.map fun r => { r with point := z.placePoint } }))
        | some n =>
          if n.badLeave then some (s.illegalNative x ((x.wave.frames.head?.map Frame.tid).getD 0))
          else if n.leave.isSome || !s1.atCut y n then none
          else if s1.spillsBad y then some (s.raise (.tileFault x.tile 4))
          else
            match s1.saveNative y with
            | some z =>
              let s1 := s1.notePend y
              let here (r : FaultRec) : FaultRec := { r with point := z.placePoint, mask := z.mask }
              some (s1.setWave w (Wave.landed { z with owed := z.owed.map here }))
            | none => some (s.raise (.tileFault x.tile 2))

/-- The fate of a page fault, by the class in effect (14 R308; 16 R337). -/
def Block.settleFate (b : Block) : Block :=
  match b.fate with
  | some .byClass => { b with fate := some (if b.cls ≤ 1 then .park else .swapOut) }
  | _ => b

/-- Write the fault record that a landed wave owes (14 R311). -/
def State.fileOwed (s : State) (w : WaveRef) : State :=
  match s.site? w with
  | none => s
  | some x =>
    match x.wave.owed with
    | some r => s.fileRecord x.launch.ctx { r with swap := x.block.fate == some .swapOut || x.block.phase == .swapped } (.wave w)
    | none => s

/-! ## Going on (14 R309, R310, R312) -/

/-- Is a wave's partition of a tile under a debug stop? A wave that enters it, or goes on in it, stays halted (14 R318). -/
def State.haltsIn (s : State) (t : TileRef) (wav : Nat) : Bool := ((s.tile t).part (wav % 2 == 1)).dbg.isSome

/-- A parked block goes on: each wave from its native point, pending until nothing blocks it (09 R210); one under a debug stop when its
partition is resumed. -/
def State.resumeBlock (s : State) (b : BlockRef) : State :=
  match s.block? b with
  | none => s
  | some x =>
    let go (e : Nat × Wave) : Wave := if e.2.live then { e.2 with stop := if s.haltsIn x.tileRef e.1 then .landed else .none } else e.2
    s.setBlock b { x with phase := .resident, fate := none, waves := ((List.range x.waves.length).zip x.waves).map go }

/-- A stopped block goes on, or ends, once nothing that stopped it is left: every record written and resolved, and no
translation awaited. -/
def State.settleBlock (s : State) (b : BlockRef) : State :=
  match s.block? b with
  | none => s
  | some x =>
    if x.ended || x.unresolved != [] || x.waves.any (fun y => y.owed.isSome) then s
    else if x.killed && x.waves.all (fun y => !y.live || y.stop == .landed || x.phase == .swapped) then s.killBlock b
    else if x.phase != .parked && x.phase != .swapped then s
    else if x.awaitsCode || (x.phase == .parked && x.fate == some .swapOut) then s
    else if x.phase == .parked then s.resumeBlock b
    else s.setBlock b { x with ready := true }

/-- The debug stop of CAUSE 3 that follows a step command of a wave, which has landed (14 R318, R320): its tick and its pending values are
those of the last instruction's end, or of the landing for a command that ended before. -/
def State.stepStop (s : State) (w : WaveRef) (x : Wave) : State :=
  match s.block? w.block with
  | none => s
  | some b =>
    let e := x.stepEnd.getD (s.tick, x.outstanding)
    let odd := w.wav % 2 == 1
    s.modTile b.tileRef fun t =>
      let p := t.part odd
      t.setPart odd { p with dbg := p.dbg.map fun d =>
        if d.dumped then d else { d with tick := e.1, pend := e.2.map fun q => (w, q.1, q.2), regs := [] } }

/-- STOP_LANDED (05 R108): the wave lands; its record is written; a debug stop whose waves have all landed writes its
dump (14 R318); a block that has been killed meanwhile ends once it has landed (14 R312). -/
def execStopLanded (w : WaveRef) (s : State) : Host.Outcome State Fault Refusal :=
  match s.land w with
  | none => .next s
  | some s1 =>
    let s0 := match s.wave? w with | some x => if x.stepLeft.isSome then s1.stepStop w x else s1 | none => s1
    let s2 := (s0.modBlock w.block Block.settleFate).fileOwed w
    match s2.block? w.block with
    | none => .next s2
    | some b => .next (((s2.dumpLanded b.tileRef false).dumpLanded b.tileRef true).settleBlock w.block)

/-! ## Parks (14 R309) -/

/-- Have all live waves of a block landed, with no partition in which it has one under a debug stop (14 R313)? -/
def State.stoppedWhole (s : State) (x : Block) : Bool :=
  x.waves.any Wave.live &&
    ((List.range x.waves.length).zip x.waves).all fun e => !e.2.live || (e.2.stop == .landed && !s.haltsIn x.tileRef e.1)

/-- The waves of a block leave the active sets for the pending ones, blocked (09 R210). -/
def Part.deactivate (p : Part) (b : BlockRef) : Part :=
  { p with
    active := p.active.filter fun e => e.wave.block != b
    pending := p.pending ++ (p.active.filter fun e => e.wave.block == b).map fun e => { e with rt := none } }

/-- PARK (14 R306, R309). -/
def execPark (b : BlockRef) (s : State) : Host.Outcome State Fault Refusal :=
  match s.block? b with
  | none => .next s
  | some x =>
    if x.phase == .resident && x.fate == some .park && s.stoppedWhole x then
      let s1 := s.setBlock b { x with phase := .parked }
      let s2 := (s1.modTile x.tileRef fun t => { t with even := t.even.deactivate b, odd := t.odd.deactivate b }).modBlock b fun y =>
        { y with waves := y.waves.map Wave.clearLatches }
      .next (((s2.refill x.tileRef).countCluster x.tileRef.cluster 0x26).settleBlock b)
    else .next s

/-! ## Swap-outs (14 R310; 17 R358, R359) -/

/-- The first run of n pages in a bitmap of `total` pages. -/
def firstRun (bits total n : Nat) : Nat → Option Nat
  | 0 => none
  | k + 1 =>
    let p := total - (k + 1)
    if p + n ≤ total && bits / 2 ^ p % 2 ^ n == 0 then some p else firstRun bits total n k

/-- The pages that the bitmap of a swap area takes itself. -/
def bitmapPages (swapn : Nat) : Nat := ceilDiv ((swapn + 7) / 8) 4096

/-- A block's image with the byte at which its vault bytes begin. -/
def State.blockImage (s : State) (l : Launch) (b : Block) (blk : Nat) : List Byte × Nat :=
  let ws := s.blockWaves b
  let body := ws.flatten
  let vb := s.readKey (vaultKey b.die (b.tile / 4) b.vbase) (4096 * l.vb4k)
  let n := ceilDiv (64 + body.length + vb.length) 4096
  (blockHeader l b blk n ws.length (b.unresolved != [] || b.waves.any fun y => y.owed.isSome) ++ body ++ vb, 64 + body.length)

/-- Place an image, some bytes of which come from poisoned chunks (22 R427), in its context's swap area, first-fit: the page, or none
while no run is free; or the address that faults. -/
def State.placeImage (s : State) (ctx die : Nat) (img : List Byte) (bad : List (Nat × Nat)) : State × Except Nat (Option Nat) :=
  match s.ctx? ctx with
  | none => (s, .ok none)
  | some c =>
    match s.readVa ctx die c.swapa ((c.swapn + 7) / 8) with
    | (s1, .error e) => (s1, .error e)
    | (s1, .ok bs) =>
      let n := ceilDiv img.length 4096
      match firstRun (ofLe bs ||| (2 ^ bitmapPages c.swapn - 1)) c.swapn n c.swapn with
      | none => (s1, .ok none)
      | some p =>
        match s1.translateN ctx die (c.swapa + 4096 * p) img.length false true with
        | (s2, .error e) => (s2, .error e)
        | (s2, .ok ks) =>
          match s2.markPages ctx die p n true with
          | some s3 => ((s3.putSpans partWriter ks img).spoil ks bad, .ok (some p))
          | none => (s2, .error c.swapa)

/-- The poisoned bytes of a block's image: those of its vault bytes, which begin at an offset. -/
def State.imageBad (s : State) (l : Launch) (b : Block) (at_ : Nat) : List (Nat × Nat) :=
  (s.badParts (vaultKey b.die (b.tile / 4) b.vbase) (4096 * l.vb4k)).map fun e => (at_ + e.1, e.2)

/-- A stopped block's image is written and its tile resources are freed. -/
def State.swapBlock (s : State) (b : BlockRef) (l : Launch) (x : Block) : State :=
  let img := s.blockImage l x b.blk
  match s.placeImage l.ctx x.die img.1 (s.imageBad l x img.2) with
  | (s1, .error va) =>
    if x.swapRaised then s1 else (s1.setBlock b { x with swapRaised := true }).event 5 (l.ctx + 32) va
  | (s1, .ok none) => s1
  | (s1, .ok (some p)) =>
    let y : Block :=
      { x with phase := .swapped, fate := none, ready := false, seats := [], swapRaised := false, imgPage := p, imgLen := ceilDiv img.1.length 4096, imgVault := img.2,
               waves := x.waves.map fun w => { w with native := none } }
    let s2 := s1.setBlock b y
    let s3 := (List.range x.waves.length).foldl (fun s i => s.dropEntry x.tileRef (b.wave i)) s2
    ((((s3.dropHolds x.tileRef b.lid x).countCluster x.tileRef.cluster 0x25)).settleBlock b).endStray b

/-- Try the swap-out of a block that is due: every wave landed and every vault completion counter zero. -/
def State.trySwap (s : State) (b : BlockRef) : State :=
  match s.launch? b.lid, s.block? b with
  | some l, some x =>
    if (x.phase == .resident || x.phase == .parked) && x.fate == some .swapOut && s.stoppedWhole x && x.waves.all fun y => y.vcnt == 0 then
      s.swapBlock b l x
    else s
  | _, _ => s

/-- SWAP_OUT (14 R306, R310; 17 R358). -/
def execSwapOut (b : BlockRef) (s : State) : Host.Outcome State Fault Refusal := .next (s.trySwap b)

/-! ## Fault rings (17 R350) -/

/-- Every block of a context. -/
def State.blocksOf (s : State) (ctx : Nat) : List BlockRef :=
  s.launches.flatMap fun e => if e.2.ctx == ctx then e.2.blocks.map fun b => { lid := e.1, blk := b.1 } else []

/-- Write the records that a context's ring holds back; blocks whose records are all written may go on. -/
def State.drainRing (s : State) (ctx : Nat) : State :=
  let n := match s.ctx? ctx with | some c => c.held.length + 1 | none => 0
  (s.blocksOf ctx).foldl State.settleBlock (s.drainHeld ctx n)

/-- FAULT_RING_ROOM (17 R350). -/
def execFaultRingRoom (ctx : Nat) (s : State) : Host.Outcome State Fault Refusal := .next (s.drainRing ctx)

/-- Clear the bits of freed swap pages that a fault in the bitmap has held back (17 R358). -/
def State.freeOwed (s : State) (ctx : Nat) : State :=
  match s.ctx? ctx with
  | none => s
  | some c =>
    c.unfreed.foldl (fun s r =>
      match s.markPages ctx frontDie r.1 r.2 false with
      | some s1 => s1.modCtx ctx fun c => { c with unfreed := c.unfreed.erase r }
      | none => s) s

/-- REGFAULT_RETRY (16 R328; 17 R350, R358): every write that a fault in a context's regions holds back is tried again. -/
def execRegfaultRetry (ctx : Nat) (s : State) : Host.Outcome State Fault Refusal :=
  let s1 := (s.drainRing ctx).freeOwed ctx
  let s2 := (s1.blocksOf ctx).foldl State.trySwap s1
  .next (s2.launches.foldl (fun s e =>
    match e.2.owedState with
    | some n => if e.2.ctx == ctx then s.putStatus e.1 n else s
    | none => s) s2)

/-! ## Resolutions (14 R312, R443; 13 R292) -/

/-- RES and WAVE of a context's record k, as service software has left them. -/
def State.resolution (s : State) (ctx k : Nat) : State × Option (Nat × Nat) :=
  match s.ctx? ctx with
  | none => (s, none)
  | some c =>
    match s.readVa ctx frontDie (c.fring + 64 + 192 * k) 64 with
    | (s1, .ok bs) => (s1, some (bitsOf (ofLe bs) 289 288, bitsOf (ofLe bs) 447 443))
    | (s1, .error _) => (s1, none)

/-- A stopped block's record is resolved: 1 resume, 2 kill. -/
def State.resolveBlock (s : State) (b : BlockRef) (k res : Nat) : State :=
  match s.block? b with
  | none => s
  | some x =>
    if x.unresolved.contains k then
      (s.setBlock b { x with unresolved := x.unresolved.filter (· != k), killed := x.killed || res == 2 }).settleBlock b
    else s

/-- The issuer of a command in a wave of a number. -/
def issuerOf (is_ : List Issuer) (wav : Nat) : Option Issuer :=
  match is_.find? fun i => i.wave.wav == wav with
  | some i => some i
  | none => is_.head?

/-- A paused copy's record is resolved. -/
def State.resolveCopy (s : State) (t : TileRef) (c : CopyCmd) (res wav : Nat) : State :=
  if res == 1 then s.modCopy t c.id fun c => { c with paused := none }
  else
    match issuerOf (c.pairs.map CopyPair.by_ ++ c.words.map OwedWord.by_) wav with
    | some i => s.abortCopy t c i
    | none => s

/-- A paused `kvcommit`'s record is resolved. -/
def State.resolveKv (s : State) (t : TileRef) (c : KvCmd) (res : Nat) : State :=
  if res == 1 then s.modKv t c.id fun c => { c with paused := none } else s.abortKv t c

/-- The paused commands of a tile that a context's record k names. -/
def State.resolveTile (s : State) (ctx k res wav : Nat) (t : TileRef) : State :=
  let x := s.tile t
  let s1 := (x.copyQ.filter fun c => c.ctx == ctx && c.paused == some (some k)).foldl (fun s c => s.resolveCopy t c res wav) s
  (x.kvQ.filter fun c => c.ctx == ctx && c.paused == some (some k)).foldl (fun s c => s.resolveKv t c res) s1

/-- A paused group copy's record is resolved. -/
def State.resolveGrp (s : State) (lid g id res : Nat) : State :=
  match s.grpAt lid g fun i => i.id == id with
  | none => s
  | some a => if res == 1 then s.setIssue lid a { a.issue with paused := none } else s.abortGrp lid a

/-- Does a context's ring hold back a record of a block's code? -/
def State.codeHeld (s : State) (ctx : Nat) (b : BlockRef) : Bool :=
  match s.ctx? ctx with
  | some c => c.held.any fun e => e.2 == .code b
  | none => false

/-- A block that waits at admission ends as killed. -/
def State.killPending (s : State) (b : BlockRef) : State :=
  match s.launch? b.lid with
  | none => s
  | some l =>
    match Tab.get? l.blocks b.blk with
    | some _ => s.killBlock b
    | none =>
      let home := match l.subs.find? fun g => g.ranges.any fun e => e.1 ≤ b.blk && b.blk ≤ e.2 with | some g => g.die | none => 0
      (s.setBlock b (Block.fresh l home home 0 0).kill).modLaunch b.lid fun l => l.startBlock b.blk

/-- A record of a page fault of the translator, for a pending block, is resolved: once all are, the request is made again, or
the block is killed (14 R443). -/
def State.resolveCode (s : State) (ctx k res lid : Nat) (e : Nat × List Nat × Bool) : State :=
  if !e.2.1.contains k then s
  else
    let b : BlockRef := { lid := lid, blk := e.1 }
    let left := e.2.1.filter (· != k)
    let kill := e.2.2 || res == 2
    let keep (es : List (Nat × List Nat × Bool)) : List (Nat × List Nat × Bool) := es.filter fun x => x.1 != e.1
    if left != [] || s.codeHeld ctx b then
      s.modLaunch lid fun l => { l with admitFault := (e.1, left, kill) :: keep l.admitFault }
    else
      let s1 := s.modLaunch lid fun l => { l with admitFault := keep l.admitFault }
      if kill then s1.killPending b else s1

/-- FAULT_RECORD_RESOLVE (14 R312, R443; 13 R292): service software has written RES of a context's record k. -/
def execFaultRecordResolve (ctx : Nat) (k : Nat) (s : State) : Host.Outcome State Fault Refusal :=
  match s.resolution ctx k with
  | (s1, some (res, wav)) =>
    if res != 1 && res != 2 then .next s1
    else
      let s2 := (s1.blocksOf ctx).foldl (fun s b => s.resolveBlock b k res) s1
      let s3 := s2.tiles.foldl (fun s e => s.resolveTile ctx k res wav (tileOfKey e.1)) s2
      let s4 := s3.launches.foldl (fun s e =>
        if e.2.ctx != ctx then s
        else
          e.2.cgrps.foldl (fun s r => r.issues.foldl (fun s i =>
            if i.paused == some (some k) then s.resolveGrp e.1 r.g i.id res else s) s) s) s3
      .next (s4.launches.foldl (fun s e =>
        if e.2.ctx != ctx then s else e.2.admitFault.foldl (fun s a => s.resolveCode ctx k res e.1 a) s) s4)
  | (s1, none) => .next s1

/-! ## Slots (06 R136) -/

/-- WAVE_SLOT_RELEASE (06 R136; 09 R207): an ended wave whose vault completion counter is zero gives up its slot and
registers; with its last wave the block's vault allocation is released. -/
def execWaveSlotRelease (w : WaveRef) (s : State) : Host.Outcome State Fault Refusal :=
  match s.site? w with
  | none => .next s
  | some x =>
    if x.wave.mode == .ended && x.wave.vcnt == 0 then
      .next ((s.setWave w { x.wave with mode := .released }).modBlock w.block fun b =>
        if b.waves.all fun y => y.mode == .released then { b with phase := .ended } else b)
    else .next s

end Sys2Proof.Machine
end

