-- ==== Sys2Proof/Machine/Translator.lean ====
section
/-!
DEFINITION. The clusters' translators (01 R12, R13; 04 R61-R71; 14 R299-R307, R443): reading a function's code, making and
storing its translation, and the refill of cache lines.
-/

namespace Sys2Proof.Machine

open Sys2Proof

/-! ## Reading the code (04 R61-R71; 14 R443) -/

/-- What reading a function gives: a page fault, a malformed function, or its parts. -/
inductive CodeRes where
  | fault (va : Nat)
  | bad
  | ok (nfunc budw budn : Nat) (blocks : List (List (BitVec 4) × List PlaceCode)) (callees : List (Nat × Option (List (BitVec 4))))
deriving DecidableEq, Repr

/-- The first n words of a parcel stream; none when it ends or a reference breaks R65. -/
def firstWords (dict : List (BitVec 64)) : Nat → List (BitVec 16) → Option (List StreamWord)
  | 0, _ => some []
  | n + 1, ps =>
    match ps with
    | [] => none
    | p :: _ =>
      let k := if p.getLsbD 15 then 1 else 4
      match expandParcels dict 1 (ps.take k) with
      | some [w] => (firstWords dict n (ps.drop k)).map (w :: ·)
      | _ => none

/-- The parameter types of the block header with which a parcel stream opens (04 R68); none when it is malformed. -/
def firstHeader (dict : List (BitVec 64)) (ps : List (BitVec 16)) : Option (List (BitVec 4)) :=
  match firstWords dict 1 ps with
  | some [h] =>
    match headerParams? h with
    | none => none
    | some n =>
      match firstWords dict (1 + ceilDiv n 15) ps with
      | some (_ :: ws) => paramTypes n ws
      | _ => none
  | _ => none

/-- The function numbers that a stream's words call (04 R72). -/
def calledBy (ws : List StreamWord) : List Nat :=
  (ws.filterMap fun w =>
    if (opcOf w.word).toNat == 0x0C2 then some (fieldsOf w.word).target1.toNat else none).eraseDups

/-- A code object's header and dictionary. -/
structure CodeObj where
  code : Nat
  nfunc : Nat
  ftoff : Nat
  dict : List (BitVec 64)
deriving DecidableEq, Repr

/-- Reads of the translator from its die: the bytes, or the faulting address. -/
def State.readEntry (s : State) (ctx die : Nat) (o : CodeObj) (g : Nat) : State × Except Nat (List Byte) :=
  s.readVa ctx die (o.code + o.ftoff + 16 * g) 16

/-- Read the parcels of the next n words of a stream that has `left` parcels left at an address, and no byte beyond them. -/
def State.readStream (s : State) (ctx die : Nat) : Nat → Nat → Nat → State × Except Nat (List (BitVec 16))
  | 0, _, _ => (s, .ok [])
  | n + 1, va, left =>
    if left == 0 then (s, .ok [])
    else
      match s.readVa ctx die va 2 with
      | (s1, .error e) => (s1, .error e)
      | (s1, .ok bs) =>
        let k := min left (match parcelsOf bs with | p :: _ => if p.getLsbD 15 then 1 else 4 | [] => 1)
        match s1.readVa ctx die va (2 * k) with
        | (s2, .error e) => (s2, .error e)
        | (s2, .ok ps) =>
          match State.readStream s2 ctx die n (va + 2 * k) (left - k) with
          | (s3, .error e) => (s3, .error e)
          | (s3, .ok r) => (s3, .ok (parcelsOf ps ++ r))

/-- Read the header of a callee's block 0: its header word, and the type words that this one asks for. A table entry that is
malformed gives none. -/
def State.readCallee (s : State) (ctx die : Nat) (o : CodeObj) (g : Nat) : State × Except Nat (Option (List (BitVec 4))) :=
  match s.readEntry ctx die o g with
  | (s1, .error e) => (s1, .error e)
  | (s1, .ok bs) =>
    match ftEntry? bs with
    | none => (s1, .ok none)
    | some (poff, plen, _, _, _) =>
      match s1.readStream ctx die 1 (o.code + poff) plen with
      | (s2, .error e) => (s2, .error e)
      | (s2, .ok ps) =>
        match (firstWords o.dict 1 ps).bind fun ws => ws.head?.bind headerParams? with
        | none => (s2, .ok none)
        | some n =>
          match s2.readStream ctx die (1 + ceilDiv n 15) (o.code + poff) plen with
          | (s3, .error e) => (s3, .error e)
          | (s3, .ok ps) => (s3, .ok (firstHeader o.dict ps))

/-- Read the callees below NFUNC. -/
def State.readCallees (s : State) (ctx die : Nat) (o : CodeObj) :
    List Nat → State × Except Nat (List (Nat × Option (List (BitVec 4))))
  | [] => (s, .ok [])
  | g :: r =>
    if o.nfunc ≤ g then State.readCallees s ctx die o r
    else
      match s.readCallee ctx die o g with
      | (s1, .error e) => (s1, .error e)
      | (s1, .ok h) =>
        match State.readCallees s1 ctx die o r with
        | (s2, .ok hs) => (s2, .ok ((g, h) :: hs))
        | (s2, .error e) => (s2, .error e)

/-- The 64-bit words of bytes. -/
def words64 (n : Nat) (bs : List Byte) : List (BitVec 64) :=
  (List.range n).map fun k => BitVec.ofNat 64 (ofLe ((bs.drop (8 * k)).take 8))

/-- Read a code object's header and dictionary. -/
def State.readObj (s : State) (ctx die code : Nat) : State × Except Nat (Option CodeObj) :=
  match s.readVa ctx die code 64 with
  | (s1, .error e) => (s1, .error e)
  | (s1, .ok h) =>
    match mpfHeader? h with
    | none => (s1, .ok none)
    | some (_, nf, ft, d, dn) =>
      if dn == 0 then (s1, .ok (some { code := code, nfunc := nf, ftoff := ft, dict := [] }))
      else
        match s1.readVa ctx die (code + d) (8 * dn) with
        | (s2, .error e) => (s2, .error e)
        | (s2, .ok bs) => (s2, .ok (some { code := code, nfunc := nf, ftoff := ft, dict := words64 dn bs }))

/-- Read a function. -/
def State.readFunc (s : State) (ctx die : Nat) (o : CodeObj) (func : Nat) : State × CodeRes :=
  if o.nfunc ≤ func then (s, .bad)
  else
    match s.readEntry ctx die o func with
    | (s1, .error e) => (s1, .fault e)
    | (s1, .ok bs) =>
      match ftEntry? bs with
      | none => (s1, .bad)
      | some (poff, plen, nblk, budw, budn) =>
        match s1.readVa ctx die (o.code + poff) (2 * plen) with
        | (s2, .error e) => (s2, .fault e)
        | (s2, .ok ps) =>
          let parcels := parcelsOf ps
          match expandParcels o.dict parcels.length parcels with
          | none => (s2, .bad)
          | some ws =>
            match s2.readCallees ctx die o (calledBy ws) with
            | (s3, .error e) => (s3, .fault e)
            | (s3, .ok cs) =>
              let callee (g : Nat) : Option (Option Nat) :=
                if o.nfunc ≤ g then none
                else some (((cs.find? fun e => e.1 == g).bind fun e => e.2).map List.length)
              match parseFunction o.dict parcels nblk callee with
              | none => (s3, .bad)
              | some bl => (s3, .ok o.nfunc budw budn bl cs)

/-- Read a function of a code object. -/
def State.readCode (s : State) (ctx die code func : Nat) : State × CodeRes :=
  match s.readObj ctx die code with
  | (s1, .error e) => (s1, .fault e)
  | (s1, .ok none) => (s1, .bad)
  | (s1, .ok (some o)) => s1.readFunc ctx die o func

/-! ## Translations (14 R301, R304; 17 R355) -/

/-- The spill bytes of a translation of a function whose table entry names `bud`, at a budget (14 R304; 05 R96): a budget that is the
need, below the die's limit, spills nothing; what any other spills is the translator's (free value). -/
def spillOf (k : TKey) (bud ask budget fresh : Nat) : Nat :=
  let free := 64 * (Config.spill fresh % 2 ^ 12)
  let own := ownBudget k bud
  if ask == 0 && bud == 0 && budget == own && own < budgetCap k.narrow then 0 else free

/-- The number of words of a block as the translator counts them (14 R302). -/
def blockWordCount (b : List (BitVec 4) × List PlaceCode) : Nat := (b.2.map fun p => 1 + p.args.length).sum

/-- The declared interval of a new translation, bounded when the launch asks (17 R355). -/
def intervalOf (piv fresh : Nat) : Nat := if piv == 0 then Config.interval fresh else min (Config.interval fresh) (28 * piv)

/-- A translation of a function, made on a die. A debug-form translation has room for its undo log (14 R315). It is one of a class-0
launch, which R301 pins, when a class-0 request has it made (DESIGN CHOICE, log entry 62). -/
def State.makeTranslation (s : State) (die : Nat) (r : TRequest) (nfunc bud : Nat)
    (bl : List (List (BitVec 4) × List PlaceCode)) (cs : List (Nat × Option (List (BitVec 4)))) : Translation :=
  let budget := s.budgetFor die r bud
  let spill := spillOf r.key bud r.key.budget budget s.fresh
  { tid := s.nextId, die := die, key := { r.key with budget := budget }, ctx := r.ctx, cls0 := r.cls == 0, debug := r.debug,
    nfunc := nfunc, nwords := (bl.map blockWordCount).sum, blocks := bl.map fun b => { params := b.1, code := b.2 }, callees := cs,
    spill := spill + (if r.debug then 4096 else 0), dpi := intervalOf r.piv s.fresh,
    base := die * 2 ^ 37 + 0x1700000000 + 16 * (Config.codeBase s.fresh % 2 ^ 28), codeLen := 16 * (Config.codeLen s.fresh % 2 ^ 24),
    side := 16 * (Config.sideOff s.fresh % 2 ^ 24), sideLen := 16 * (Config.sideLen s.fresh % 2 ^ 24), lastUse := s.tick, stale := false }

/-- Is a translation pinned: of a class-0 launch of a context with pins configured (14 R300, R301)? -/
def State.pinned (s : State) (t : Translation) : Bool :=
  t.cls0 && (match s.ctx? t.ctx with | some c => c.c0pin | none => false)

/-- The least recently used translation of a list; of two last used in the same tick, the one made earlier (DESIGN CHOICE, log entry
62). -/
def leastUsed : List Translation → Option Translation
  | [] => none
  | t :: r =>
    match leastUsed r with
    | none => some t
    | some u => if t.lastUse < u.lastUse then some t else some u

/-- The bytes that a translation takes in the store: its native code and its side table. -/
def Translation.bytes (t : Translation) : Nat := t.codeLen + t.sideLen

/-- Bytes of a die's store in use. -/
def State.storeUsed (s : State) (die : Nat) : Nat := ((s.store.filter fun t => t.die == die).map Translation.bytes).sum

/-- Make room in a die's store for a number of bytes, or none while nothing more can be evicted. The fuel is the number of
translations. -/
def State.makeRoom (s : State) (c : ClusterRef) (n : Nat) : Nat → Option State
  | 0 => if s.storeUsed c.die + n ≤ 2 ^ 32 then some s else none
  | k + 1 =>
    if s.storeUsed c.die + n ≤ 2 ^ 32 then some s
    else
      match leastUsed (s.store.filter fun t => t.die == c.die && !s.pinned t && !s.runsTid t.tid) with
      | none => none
      | some t => State.makeRoom (s.evict c t) c n k

/-! ## Who waits (14 R302, R303, R443) -/

/-- A wave's translation is there, or is known to be malformed: its block waits no longer for it. -/
def State.releaseCode (s : State) (w : WaveRef) (bad : Bool) : State :=
  match s.wave? w with
  | none => s
  | some x =>
    if x.mode != .translate then s
    else
      let s1 := s.setWave w { x with mode := .run, verdict := bad }
      let s2 := s1.modBlock w.block fun b => { b with awaitsCode := b.waves.any fun y => y.mode == .translate }
      s2.settleBlock w.block

/-- Take requests out of every cluster of a die. -/
def State.dropRequests (s : State) (die : Nat) (p : TRequest → Bool) : State :=
  { s with clusters := s.clusters.map fun e => if e.1 / 32 == die then (e.1, e.2.forget p) else e }

/-- The requests of a die with a property. -/
def State.requestsOf (s : State) (die : Nat) (p : TRequest → Bool) : List TRequest :=
  s.clusters.flatMap fun e => if e.1 / 32 == die then e.2.asked.filter p else []

/-- Does a stored translation serve a request? -/
def Translation.serves (t : Translation) (r : TRequest) : Bool :=
  t.suits r.ctx t.die r.key.ident r.key.func r.debug r.limit r.piv && (r.key.budget == 0 || r.key.budget == t.key.budget)

/-- Every requester of a stored translation goes on. -/
def State.serveRequests (s : State) (die : Nat) (t : Translation) : State :=
  (s.requestsOf die t.serves).foldl (fun s r =>
    match r.waiter with
    | .wave w => s.releaseCode w false
    | .block _ => s) (s.dropRequests die t.serves)

/-- The requester of a malformed function. -/
def State.refuseCode (s : State) (r : TRequest) : State :=
  match r.waiter with
  | .wave w => s.releaseCode w true
  | .block b => s.modLaunch b.lid fun l => { l with admitBad := b.blk :: l.admitBad.filter fun k => k != b.blk }

/-- The record that a wave writes of a page fault of the translator (14 R443): at its portable point. -/
def Site.codeRecord (x : Site) (va : Nat) : FaultRec := { x.record x.wave.placePoint x.wave.mask with va := va }

/-- A wave of a block whose code cannot be read writes a record, unless it owes one for a stop of its own. -/
def State.oweCode (s : State) (w : WaveRef) (va : Nat) : State :=
  match s.site? w with
  | none => s
  | some x =>
    if !x.wave.live || x.wave.owed.isSome then s
    else
      let s1 := s.setWave w { x.wave with owed := some (x.codeRecord va) }
      if x.wave.stop == .landed then s1.fileOwed w else s1

/-- The requester of a function whose code cannot be read (14 R443): each wave of its block writes a record. The block's other waits
for the same function end with it: once the records are resolved its waves ask again. -/
def State.faultCode (s : State) (die : Nat) (r : TRequest) (va : Nat) : State :=
  match r.waiter with
  | .wave w =>
    match s.block? w.block with
    | none => s
    | some b =>
      let ws := (List.range b.waves.length).map w.block.wave
      let same (q : TRequest) : Bool := q.key == r.key && q.debug == r.debug && ws.any fun u => q.waiter == .wave u
      let waits := r :: s.requestsOf die same
      let s1 := ws.foldl (fun s u => s.oweCode u va) (s.dropRequests die same)
      waits.foldl (fun s q => match q.waiter with | .wave u => s.releaseCode u false | .block _ => s) s1
  | .block b =>
    match s.launch? b.lid with
    | none => s
    | some l =>
      let swapped := (Tab.get? l.blocks b.blk).isSome
      let s1 := s.modLaunch b.lid fun l =>
        { l with admitFault := (b.blk, [], false) :: l.admitFault.filter fun e => e.1 != b.blk }
      (List.range (wavesOf l.lanes)).foldl (fun s w =>
        s.fileRecord l.ctx { unfitRecord l b.blk w die with kind := 0, va := va, swap := swapped } (.code b)) s1

/-! ## Events -/

/-- Store a translation, for its requesters. One of the same key and form that it replaces (17 R355) stays for the waves that run it. -/
def State.storeTranslation (s : State) (c : ClusterRef) (t : Translation) : State :=
  let old (u : Translation) : Bool := u.die == t.die && u.ctx == t.ctx && u.key == t.key && u.debug == t.debug
  let s1 : State :=
    { s with store := t :: s.store.map fun u => if old u then { u with stale := true } else u
             nextId := s.nextId + 1, fresh := s.fresh + 1 }
  let s2 := (List.range t.illegal).foldl (fun s _ => (s.countCluster c 0x24).emitXlat c 4 t.key) s1
  (s2.serveRequests c.die t).sweep

/-- TRANSLATION_COMPLETE (14 R302): a cluster's translator has served its request. One for which the store has no room stays. -/
def execTranslationComplete (cl : ClusterRef) (s : State) : Host.Outcome State Fault Refusal :=
  match (s.cluster cl).serving with
  | none => .next s
  | some r =>
    match s.store.find? fun t => t.die == cl.die && t.serves r with
    | some t => .next (s.serveRequests cl.die t)
    | none =>
      let drop (s : State) : State := s.modCluster cl fun x => Cluster.takeUp { x with serving := none }
      match s.readCode r.ctx cl.die r.code r.key.func with
      | (s1, .fault va) => .next ((drop s1).faultCode cl.die r va)
      | (s1, .bad) => .next ((drop s1).refuseCode r)
      | (s1, .ok nf bw bn bl cs) =>
        let t := s1.makeTranslation cl.die r nf (if r.key.narrow then bn else bw) bl cs
        match s1.makeRoom cl t.bytes s1.store.length with
        | none => .next s1
        | some s2 => .next (s2.storeTranslation cl t)

/-- The line that a full cache gives up (14 R300): the least recently used one that is not pinned. At most 128 KiB are pinned, which is
512 lines: the 512 used last of those that may be (DESIGN CHOICE, log entry 62). -/
def State.victim (s : State) (lines : List (Nat × Nat)) : Option (Nat × Nat) :=
  let pin (l : Nat × Nat) : Bool := match s.store.find? fun t => t.tid == l.1 with | some t => s.pinned t | none => false
  let pinned := (lines.filter pin).take 512
  (lines.filter fun l => !pinned.contains l).getLast?

/-- TRANSLATION_REFILL (14 R300): a line of a stored translation enters a cluster's cache. -/
def execTranslationRefill (cl : ClusterRef) (key : Nat) (line : Nat) (s : State) : Host.Outcome State Fault Refusal :=
  match s.store.find? fun t => t.tid == key && t.die == cl.die with
  | none => .next s
  | some _ =>
    let ls := (s.cluster cl).lines
    if ls.contains (key, line) then .next s
    else if ls.length < 1024 then .next (s.modCluster cl fun x => { x with lines := (key, line) :: x.lines })
    else
      match s.victim ls with
      | none => .next s
      | some v =>
        let s1 := s.modCluster cl fun x => { x with lines := (key, line) :: x.lines.erase v }
        match s.store.find? fun t => t.tid == v.1 with
        | some u => .next ((s1.countCluster cl 0x21).emitXlat cl 2 u.key)
        | none => .next (s1.countCluster cl 0x21)

end Sys2Proof.Machine
end

