-- ==== Sys2Proof/Machine/Admission.lean ====
section
/-!
DEFINITION. Admission (09 R206-R208; 14 R303-R305, R310; 16 R330; 17 R351, R352): what a tile has free for a context and a class,
the order of pending blocks, re-translation under pressure, and how a block becomes resident.
-/

namespace Sys2Proof.Machine

open Sys2Proof

/-! ## What a tile has (09 R206; 17 R349, R351) -/

/-- A context's wave slots in each partition of a tile, and its v names (17 R351; 05 R96). -/
def Tile.slots (t : Tile) (ctx : Nat) : Nat :=
  if t.pri == ctx then (if t.dual then 4 * t.share else 16)
  else if t.dual && t.sec == ctx then 16 - 4 * t.share
  else 0
def Tile.regs (t : Tile) (die ctx : Nat) : Nat := (if narrowDie die then 1024 else 3072) * t.slots ctx / 16

/-- What the resident blocks of a context hold on a tile: per block the class that holds it, its slots in the even and the odd
partition, and its v names. -/
def State.holdings (s : State) (t : TileRef) (ctx : Nat) : List (Nat × Nat × Nat × Nat) :=
  s.launches.flatMap fun e =>
    if e.2.ctx != ctx then []
    else
      e.2.blocks.filterMap fun b =>
        if (b.2.phase == .resident || b.2.phase == .parked) && b.2.tileRef == t then
          let held := (List.range b.2.waves.length).filter fun i =>
            match b.2.waves[i]? with | some w => w.mode != .released | none => false
          some (b.2.heldCls, (held.filter fun i => i % 2 == 0).length, (held.filter fun i => i % 2 == 1).length, held.length * b.2.budget)
        else none

/-- Free units of a share for a class: those reserved for class 0 are not free for another class. `used0` is what class 0
holds, `used` what every class holds. -/
def freeUnits (share reserve used0 used cls : Nat) : Nat :=
  if cls == 0 then share - used else share - used - (min reserve share - used0)

/-- A context's free slots of a partition of a tile, and free v names. -/
def State.freeSlots (s : State) (t : TileRef) (ctx cls : Nat) (odd : Bool) : Nat :=
  let hs := s.holdings t ctx
  let n (h : Nat × Nat × Nat × Nat) : Nat := if odd then h.2.2.1 else h.2.1
  let res := match s.ctx? ctx with | some c => c.c0slot | none => 0
  freeUnits ((s.tile t).slots ctx) res ((hs.filter fun h => h.1 == 0).map n).sum (hs.map n).sum cls
def State.freeRegs (s : State) (t : TileRef) (ctx cls : Nat) : Nat :=
  let hs := s.holdings t ctx
  let n (h : Nat × Nat × Nat × Nat) : Nat := h.2.2.2
  let res := match s.ctx? ctx with | some c => 32 * c.c0slot * c.c0reg | none => 0
  freeUnits ((s.tile t).regs t.die ctx) res ((hs.filter fun h => h.1 == 0).map n).sum (hs.map n).sum cls

/-- Bytes that a block takes of its vault (09 R206; 11 R236). -/
def vaultBytes (l : Launch) (spill : Nat) : Nat := l.vb4k * 4096 + wavesOf l.lanes * spill

/-- The allocations in a vault: tile, holding class, base, bytes. -/
def State.allocs (s : State) (c : ClusterRef) : List (Nat × Nat × Nat × Nat) :=
  s.launches.flatMap fun e => e.2.blocks.filterMap fun b =>
    if (b.2.phase == .resident || b.2.phase == .parked) && b.2.tileRef.cluster == c then
      some (b.2.tile, b.2.heldCls, b.2.vbase, vaultBytes e.2 b.2.spill)
    else none

/-- The lowest free place of n bytes, 4 KiB-aligned, in [lo, hi). The fuel is the number of allocations. -/
def firstPlace (as : List (Nat × Nat × Nat × Nat)) (n hi : Nat) : Nat → Nat → Option Nat
  | 0, lo => if lo + n ≤ hi then some lo else none
  | k + 1, lo =>
    match as.find? fun a => a.2.2.1 < lo + n && lo < a.2.2.1 + a.2.2.2 with
    | none => if lo + n ≤ hi then some lo else none
    | some a => firstPlace as n hi k (4096 * ceilDiv (a.2.2.1 + a.2.2.2) 4096)

/-- Bytes that a cluster's tiles still reserve for class 0 against an admission of a class on a tile. -/
def State.vaultReserve (s : State) (t : TileRef) (ctx cls : Nat) (as : List (Nat × Nat × Nat × Nat)) : Nat :=
  match s.ctx? ctx with
  | none => 0
  | some c =>
    ((clusterTiles t.cluster).map fun u =>
      if cls == 0 && u == t then 0
      else if !(s.tile u).hasShare ctx then 0
      else 4096 * c.c0vb - ((as.filter fun a => a.1 == u.tile && a.2.1 == 0).map fun a => a.2.2.2).sum).sum

/-- Where n bytes of a context's pool are free for a class above a tile's cluster. -/
def State.vaultPlace (s : State) (t : TileRef) (ctx cls n : Nat) : Option Nat :=
  match s.ctx? ctx with
  | none => none
  | some c =>
    let lo := 4096 * (c.vplo + c.vsh)
    let hi := 4096 * c.vphi
    let as := (s.allocs t.cluster).filter fun a => lo ≤ a.2.2.1 && a.2.2.1 < hi
    if (hi - lo) - (as.map fun a => a.2.2.2).sum < n + s.vaultReserve t ctx cls as then none
    else if n == 0 then some lo
    else firstPlace as n hi as.length lo

/-- May a context's blocks be admitted on a tile at all (17 R352, R354; 22 R429)? -/
def State.admits (s : State) (t : TileRef) (ctx : Nat) : Bool :=
  !s.tileDead t && (s.tile t).hasShare ctx && (s.tile t).reassign.isNone && (s.ctx? ctx).isSome

/-- Do the slots and vault bytes of a block fit a tile? -/
def State.fitsBeside (s : State) (t : TileRef) (l : Launch) (cls spill : Nat) : Bool :=
  let n := wavesOf l.lanes
  s.admits t l.ctx && (n + 1) / 2 ≤ s.freeSlots t l.ctx cls false && n / 2 ≤ s.freeSlots t l.ctx cls true &&
    (s.vaultPlace t l.ctx cls (vaultBytes l spill)).isSome

/-- Does a block fit a tile (R206)? -/
def State.fits (s : State) (t : TileRef) (l : Launch) (cls budget spill : Nat) : Bool :=
  s.fitsBeside t l cls spill && wavesOf l.lanes * budget ≤ s.freeRegs t l.ctx cls

/-- A die's tiles. -/
def dieTiles (die : Nat) : List TileRef := (List.range (tilesOf die)).map fun j => { die := die, tile := j }

/-- The tile of a die where a block goes (R207): the most free wave slots, ties to the lowest number. -/
def State.bestTile (s : State) (die : Nat) (l : Launch) (cls budget spill : Nat) : Option TileRef :=
  let free (t : TileRef) : Nat := s.freeSlots t l.ctx cls false + s.freeSlots t l.ctx cls true
  ((dieTiles die).filter fun t => s.fits t l cls budget spill).foldl (fun b t =>
    match b with
    | none => some t
    | some u => if free u < free t then some t else some u) none

/-- The part with no block on any tile of a context, for the judgement whether a block can ever fit. -/
def State.emptied (s : State) : State :=
  { s with launches := s.launches.map fun e =>
      (e.1, { e.2 with blocks := e.2.blocks.filter fun b => b.2.phase != .resident && b.2.phase != .parked }) }

/-- The part with every tile reassignment that waits done, or given up. -/
def State.reassigned (s : State) (done : Bool) : State :=
  { s with tiles := s.tiles.map fun e =>
      (e.1, { e.2 with reassign := none, word := if done then e.2.reassign.getD e.2.word else e.2.word }) }

/-- Can a block ever fit on a die, under the words of its tiles or those that they are about to have? -/
def State.canEver (s : State) (d : Nat) (l : Launch) (cls budget spill : Nat) : Bool :=
  (dieTiles d).any fun t => [false, true].any fun b => (s.emptied.reassigned b).fits t l cls budget spill

/-! ## Pending blocks (R207) -/

/-- A pending block: its class, whether it re-enters after a swap-out, whether members of its group wait for it (or have made way for it), and its
sub-grid's die. -/
structure Pend where
  b : BlockRef
  cls : Nat
  again : Bool
  wanted : Bool
  home : Nat
deriving DecidableEq, Repr

/-- Does a wait for a migration keep a launch's blocks from admission (16 R347)? -/
def State.migrating (s : State) (ctx lid : Nat) : Bool :=
  s.launches.any fun e => e.2.blocks.any fun b => b.2.waves.any fun w =>
    match w.sysReq with
    | some (.migr c _ _ _ _ before) => c == ctx && before ≤ lid
    | _ => false

/-- Has a block of a launch not started? -/
def Launch.unstarted (l : Launch) (blk : Nat) : Bool := (Tab.get? l.blocks blk).isNone

/-- The first block of ranges with a property. The fuel bounds the blocks passed over. -/
def firstIn (p : Nat → Bool) : Nat → List (Nat × Nat) → Option Nat
  | 0, _ => none
  | _, [] => none
  | n + 1, (lo, hi) :: r =>
    if hi < lo then firstIn p n r else if p lo then some lo else firstIn p n ((lo + 1, hi) :: r)

/-- The operands of the `cpy.grp` before which a portable wave stands. -/
def State.copyGrpPortable (s : State) (x : Site) : Option OpIn :=
  match x.wave.top? with
  | none => none
  | some (f, c) =>
    match s.fetch f c with
    | none => none
    | some p =>
      let h := fieldsOf p.word
      match Ty.ofCode h.typ.toNat, opCpyGrp.form h.typ.toNat h.md.toNat with
      | some ty, some fm => if (opcOf p.word).toNat == opCpyGrp.opc then fetchOperands fm h x c ty else none
      | _, _ => none

/-- The operands of the `cpy.grp` before which a native wave's scalar stream stands. -/
def State.copyGrpNative (s : State) (x : Site) (n : Native) : Option OpIn :=
  match n.seqs.head?, x.wave.frames with
  | some q, f :: _ =>
    match (s.code? f).bind fun t => s.bundleAt t q.pc with
    | none => none
    | some b =>
      ((bundleDests b n (narrowDie x.block.die) 0 q.pc).find? fun e => e.2.1 == opCpyGrp.opc).bind fun e =>
        (slotOp x n e.1 e.2.1 e.2.2 (existMask x.launch.lanes x.w.wav) s.fresh).map SlotOp.i
  | _, _ => none

/-- Does a wave stand at a `cpy.grp` of a group whose open round its block has joined (13 R290)? It waits there until every member
has issued. -/
def State.waitsAtCopy (s : State) (x : Site) (g : Nat) : Bool :=
  match (if x.wave.mode != .run then none else match x.wave.native with | none => s.copyGrpPortable x | some n => s.copyGrpNative x n),
      x.launch.groups[g]? with
  | some i, some gr =>
    (match i.mask.list.find? fun k => !ctlCw (i.c.nat k) with
     | none => false
     | some k =>
       ctlGrp (i.c.nat k) == g &&
         x.launch.cgrps.any fun r => r.g == g && !r.closed x.launch gr.members && r.issues.any fun e => e.blk == x.w.blk)
  | _, _ => false

/-- Does a live wave wait at a barrier or a `cpy.grp` of a group (R207, R208)? -/
def State.waitsOn (s : State) (b : BlockRef) (g k : Nat) : Bool :=
  match s.site? (b.wave k) with
  | some x => x.wave.atBarG g || s.waitsAtCopy x g
  | none => false

/-- The groups on which a wave of a resident block of a launch waits. -/
def State.waitedGroups (s : State) (lid : Nat) (l : Launch) : List Nat :=
  (List.range l.groups.length).filter fun g =>
    l.blocks.any fun e => e.2.phase == .resident && (List.range e.2.waves.length).any fun k => s.waitsOn { lid := lid, blk := e.1 } g k

/-- The members that a resident block of a launch waits for on a die (R207), and those for which a block has made way there (R208). -/
def State.called (s : State) (die lid : Nat) (l : Launch) : List Nat :=
  let made := l.blocks.filterMap fun e => if e.2.phase == .swapped && (l.homes e.1 e.2.home).contains die then e.2.madeWay else none
  (((s.waitedGroups lid l).flatMap fun g => match l.groups[g]? with | some gr => gr.members | none => []) ++ made).eraseDups

/-- The pending blocks of a launch on a die: swapped-out ones that are ready, the first of each sub-grid, and the members of
groups that are waited for. -/
def State.pendingOf (s : State) (die lid : Nat) (l : Launch) : List Pend :=
  if (s.ctx? l.ctx).isNone || s.migrating l.ctx lid then []
  else
    let free (k : Nat) : Bool := !l.admitFault.any fun e => e.1 == k
    let called := s.called die lid l
    let again := l.blocks.filterMap fun e =>
      if e.2.phase == .swapped && e.2.ready && e.2.seats.contains die && free e.1 then
        some { b := { lid := lid, blk := e.1 }, cls := e.2.cls, again := true, wanted := called.contains e.1, home := e.2.home }
      else none
    if !l.eligible then again
    else
      let subs := l.subs.filter fun g => g.die == die
      let mk (w : Bool) (k : Nat) : Pend := { b := { lid := lid, blk := k }, cls := l.cls, again := false, wanted := w, home := die }
      let first := subs.filterMap fun g =>
        (firstIn (fun k => l.unstarted k && free k) (l.admitFault.length + rangesLen g.ranges + g.ranges.length + 1) g.ranges).map (mk false)
      let asked := (called.filter fun k =>
        l.unstarted k && free k && subs.any fun g => g.ranges.any fun e => e.1 ≤ k && k ≤ e.2).map (mk true)
      again ++ asked ++ first

/-- Does a pending block come before another (R207)? -/
def Pend.before (x y : Pend) : Bool :=
  if x.cls != y.cls then x.cls < y.cls
  else if x.again != y.again then x.again
  else if x.wanted != y.wanted then x.wanted
  else if x.b.lid != y.b.lid then x.b.lid < y.b.lid
  else x.b.blk < y.b.blk

/-- Put a pending block into its place. -/
def insertPend (x : Pend) : List Pend → List Pend
  | [] => [x]
  | y :: r => if x.before y then x :: y :: r else y :: insertPend x r

/-! ## Translations for admission (14 R299, R303, R305; 17 R355) -/

/-- The functions in which a block's waves stand, the entry function first for a block that has not started. -/
def neededFuncs (l : Launch) (b : Option Block) : List Nat :=
  match b with
  | none => [l.entry]
  | some x => ((x.waves.filter Wave.live).flatMap fun w => w.frames.map Frame.func).eraseDups

/-- The stored translation of a function with the largest budget within a limit, for a launch on a die. -/
def State.storedWithin (s : State) (die : Nat) (l : Launch) (f : Nat) (debug : Bool) (limit : Nat) : Option Translation :=
  s.codeFor l.ctx die l.ident f debug limit l.piv

/-- The stored translation of a function with the largest budget, for a launch on a die. -/
def State.storedFor (s : State) (die : Nat) (l : Launch) (f : Nat) (debug : Bool) : Option Translation := s.storedWithin die l f debug 0

/-- Does a pending block fit a tile of a die at the budget of its stored translation? -/
def State.hasRoom (s : State) (die : Nat) (l : Launch) (p : Pend) : Bool :=
  match neededFuncs l (Tab.get? l.blocks p.b.blk) with
  | [] => false
  | f :: _ =>
    match s.storedFor die l f (s.debugOn l.ctx) with
    | none => false
    | some t => (s.bestTile die l p.cls t.key.budget t.spill).isSome

/-- Has a pending block made way for another, which is pending still and for which there is room (R208)? -/
def State.yields (s : State) (die : Nat) (ps : List Pend) (p : Pend) : Bool :=
  p.again && ps.any fun q =>
    q.b.lid == p.b.lid &&
      match s.launch? p.b.lid with
      | none => false
      | some l => ((Tab.get? l.blocks p.b.blk).bind Block.madeWay) == some q.b.blk && s.hasRoom die l q

/-- A die's pending blocks in the order of R207. The room that a swap-out of R208 frees is the member's: the block that made way for it
re-enters after it (DEDUCED, log entry 56). -/
def State.pending (s : State) (die : Nat) : List Pend :=
  let ps := (s.launches.flatMap fun e => s.pendingOf die e.1 e.2).foldl (fun l x => insertPend x l) []
  ps.filter fun p => !s.yields die ps p

/-- The cluster of a die that asks for translations of its pending blocks: that of its lowest live tile with a share (DESIGN
CHOICE, log entry 38). -/
def State.askCluster (s : State) (die ctx : Nat) : ClusterRef :=
  match s.liveTiles ctx die with
  | t :: _ => t.cluster
  | [] => { die := die, cl := 0 }

/-- Ask for a translation of a function for a pending block, unless the request stands already (14 R302, R303). -/
def State.askFor (s : State) (die : Nat) (l : Launch) (p : Pend) (func limit : Nat) (debug : Bool) : State :=
  let k := firstKey l.ident func die
  if (s.requestsOf die fun r => r.key == k && r.limit == limit && r.ctx == l.ctx && r.debug == debug && r.waiter == .block p.b) != [] then s
  else
    s.request (s.askCluster die l.ctx)
      { key := k, limit := limit, ctx := l.ctx, cls := p.cls, code := l.code, waiter := .block p.b, pressure := false, arrived := s.tick,
        debug := debug, piv := l.piv }

/-- Ask for a re-translation under pressure, of which at most one per key is in progress (14 R305): counted and traced under
its own code. -/
def State.askPressure (s : State) (die : Nat) (l : Launch) (p : Pend) (k : TKey) (debug : Bool) : State :=
  if (s.requestsOf die fun r => r.key == k && r.ctx == l.ctx && r.debug == debug) != [] then s
  else
    let c := s.askCluster die l.ctx
    let r : TRequest :=
      { key := k, limit := 0, ctx := l.ctx, cls := p.cls, code := l.code, waiter := .block p.b, pressure := true, arrived := s.tick
        debug := debug, piv := l.piv }
    ((s.modCluster c fun x => x.ask r).countCluster c 0x23).emitXlat c 3 k

/-- The budget B′ of R305 for a block whose translation has a budget B and a spill: none when R305 asks for none. -/
def State.pressureBudget (s : State) (die : Nat) (l : Launch) (cls budget spill : Nat) : Option Nat :=
  let n := wavesOf l.lanes
  let b := (((dieTiles die).filter fun t => s.fitsBeside t l cls spill).map fun t => 16 * (s.freeRegs t l.ctx cls / (16 * n))).foldl max 0
  if 16 ≤ b && b < budget then some b else none

/-! ## Becoming resident (R206, R207, R236; 14 R310) -/

/-- The lowest free wave slot of a tile's partition. -/
def Part.freeSlot (p : Part) (used : List Nat) : Nat :=
  ((List.range 16).find? fun k => !used.contains k && !(p.all.any fun e => e.slot == k)).getD 0

/-- Slots of ended waves that have not been released. -/
def State.slotsHeld (s : State) (t : TileRef) (odd : Bool) : List Nat :=
  s.launches.flatMap fun e => e.2.blocks.flatMap fun b =>
    if (b.2.phase == .resident || b.2.phase == .parked) && b.2.tileRef == t then
      ((List.range b.2.waves.length).zip b.2.waves).filterMap fun w =>
        if (w.1 % 2 == 1) == odd && w.2.mode != .released then some w.2.slot else none
    else []

/-- A wave enters its partition, ready now. -/
def State.enterWave (s : State) (t : TileRef) (w : WaveRef) : State :=
  let odd := w.wav % 2 == 1
  let x := s.tile t
  let p := x.part odd
  let slot := p.freeSlot (s.slotsHeld t odd)
  let e : Entry := { slot := slot, wave := w, from_ := s.ctlNow t + 1, rt := some (s.ctlNow t), ages := [0, 0, 0, 0] }
  (s.setTile t (x.setPart odd { p with pending := p.pending ++ [e] })).modWave w fun y => { y with slot := slot, mode := .run }

/-- The frames of a wave run the translations of their functions. Those of a form other than debug form keep no values of places, and
discard the undo log (14 R314, R315). -/
def retargetFrames (ts : List Translation) (x : Wave) : Wave :=
  let debug := ts.any fun t => t.debug
  { x with
    undo := if debug then x.undo else []
    frames := x.frames.map fun f =>
      let tid := match ts.find? fun t => t.key.func == f.func with | some t => t.tid | none => f.tid
      { f with tid := tid, kept := if debug then f.kept else [] } }

/-- The poisoned vault bytes of a block's image, as offsets from the first vault byte (22 R427). -/
def State.savedBad (s : State) (l : Launch) (b : Block) (die : Nat) : List (Nat × Nat) :=
  match s.ctx? l.ctx with
  | none => []
  | some c =>
    match s.translateN l.ctx die (c.swapa + 4096 * b.imgPage + b.imgVault) (4096 * l.vb4k) true false with
    | (s1, .ok ks) => s1.badSpans 0 ks
    | (_, .error _) => []

/-- A block becomes resident on a tile: its vault allocation is zero but for the bytes that its image restores; its waves get
their slots, and go on as the image's records give them; each writes its start packet. A wave that enters a partition under a debug
stop stays halted. A block whose function is malformed comes with no translation, and under a number that none ever has: its waves take
trap(MALFORM) in place of their first word (04 R71). -/
def State.place (s : State) (p : Pend) (l : Launch) (t : TileRef) (ts : List Translation) (budget spill : Nat) (img : List Byte) : State :=
  let vbase := (s.vaultPlace t l.ctx p.cls (vaultBytes l spill)).getD 0
  let lim := (s.wdogs[l.ctx]?).getD 16777216
  let old := Tab.get? l.blocks p.b.blk
  let base := (old.getD (Block.fresh l p.home t.die ((ts.head?.map Translation.tid).getD s.nextId) lim)).reread img
  let s0 := match old with | some x => s.freeImage l.ctx x | none => s
  let back := if img == [] then base.waves else s.resumeWaves base.waves img
  let x : Block :=
    { base with phase := .resident, die := t.die, tile := t.tile, heldCls := base.cls, vbase := vbase, spill := spill, budget := budget,
                fate := none, ready := false, imgLen := 0, awaitsCode := false, madeWay := none,
                waves := ((List.range back.length).zip back).map fun e =>
                  if e.2.live then
                    { (retargetFrames ts e.2) with stop := if s.haltsIn t e.1 then .landed else .none, wdog := 0, wlim := lim, native := none }
                  else { e.2 with mode := .released } }
  let k := vaultKey t.die (t.tile / 4) vbase
  let s1 := (s0.setBlock p.b x).writeKey k (List.replicate (vaultBytes l spill) 0#8)
  let s2 := (s1.writeKey k (img.drop base.imgVault)).spoil [(k, 4096 * l.vb4k)] (if img == [] then [] else s.savedBad l base t.die)
  let ws := (List.range x.waves.length).filter fun i => match x.waves[i]? with | some w => w.live | none => false
  let s3 := ws.foldl (fun s i => s.enterWave t (p.b.wave i)) s2
  let s4 := ws.foldl (fun s i => match s.site? (p.b.wave i) with | some y => s.emitStart y p.again | none => s) s3
  let s5 := s4.modLaunch p.b.lid fun l =>
    { l.startBlock p.b.blk with
      admitBad := l.admitBad.filter fun e => e != p.b.blk
      blocks := (l.startBlock p.b.blk).blocks.map fun e => (e.1, if e.2.madeWay == some p.b.blk then { e.2 with madeWay := none } else e.2) }
  let s6 : State := if ts == [] then { s5 with nextId := s5.nextId + 1 } else s5
  (s6.holdAgain p.b).refill t

/-- The bytes of a block's image, up to its last vault byte; none when they cannot be read without a page fault: the block waits
(DESIGN CHOICE, log entry 40). -/
def State.imageBytes (s : State) (l : Launch) (b : Option Block) (die : Nat) : State × Option (List Byte) :=
  match b, s.ctx? l.ctx with
  | some x, some c =>
    if x.imgLen == 0 then (s, some [])
    else
      match s.readVa l.ctx die (c.swapa + 4096 * x.imgPage) (x.imgVault + 4096 * l.vb4k) with
      | (s1, .ok bs) => (s1, some bs)
      | (s1, .error _) => (s1, none)
  | _, _ => (s, some [])

/-- What a try to admit a block gives. -/
inductive Admit where
  | admitted (s : State)
  | waits (s : State)
deriving DecidableEq, Repr

/-- Where a swapped-out block that has become pending re-enters (16 R330): on the lowest-numbered of its dies where it fits, or when it
fits on none, on the first that can admit it. On a die without a stored translation of its function it is judged at the budget and
spill with which it last stood on a tile (DESIGN CHOICE, log entry 65). -/
def State.seatsOf (s : State) (l : Launch) (blk : Nat) (b : Block) : List Nat :=
  let need (d : Nat) : Nat × Nat :=
    match (neededFuncs l (some b)).head?.bind fun f => s.storedFor d l f (s.debugOn l.ctx) with
    | some t => (t.key.budget, t.spill)
    | none => (b.budget, b.spill)
  let dies := l.homes blk b.home
  match dies.find? fun d => (s.bestTile d l b.cls (need d).1 (need d).2).isSome with
  | some d => [d]
  | none => dies

/-- The swapped-out blocks that have become pending choose their dies. -/
def State.chooseSeats (s : State) : State :=
  { s with launches := s.launches.map fun e =>
      (e.1, { e.2 with blocks := e.2.blocks.map fun b =>
        (b.1, if b.2.phase == .swapped && b.2.ready && b.2.seats == [] then { b.2 with seats := s.seatsOf e.2 b.1 b.2 } else b.2) }) }

/-- Can a block ever fit on a die (14 R305): with one of its function's stored translations, of which that of budget 16 decides? None
while no translation of budget 16 is stored. -/
def State.everFits (s : State) (die : Nat) (l : Launch) (cls f : Nat) (debug : Bool) : Option Bool :=
  let may (n : Bool) : Bool := (dieTiles die).any fun t => (s.emptied.reassigned n).admits t l.ctx
  if !(may false || may true) then some false
  else if s.store.any fun t => t.suits l.ctx die l.ident f debug 0 l.piv && s.canEver die l cls t.key.budget t.spill then some true
  else (s.storedWithin die l f debug 16).map fun _ => false

/-- A block that fits no tile of the die at its budget, nor at a smaller one that pressure gives: it waits if it can ever fit on one of
its dies. On a die whose store lacks the translation of budget 16 that says so, one is asked for; when all say no, the block ends
(14 R305). -/
def State.judge (s : State) (die : Nat) (l : Launch) (p : Pend) (f : Nat) (debug : Bool) : Admit :=
  let vs := (l.homes p.b.blk p.home).map fun d => (d, s.everFits d l p.cls f debug)
  if vs.any fun v => v.2 == some true then .waits s
  else
    match vs.filter fun v => v.2.isNone with
    | [] => .waits (s.endUnfit p.b.lid p.b.blk die)
    | ds => .waits (ds.foldl (fun s v => s.askPressure v.1 l p { firstKey l.ident f v.1 with budget := 16 } debug) s)

/-- A block that fits no tile of the die at its budget: a smaller translation, or its end (14 R305). -/
def State.pressed (s : State) (die : Nat) (l : Launch) (p : Pend) (f : Nat) (t : Translation) (debug : Bool)
    (go : State → Translation → Admit) : Admit :=
  match s.pressureBudget die l p.cls t.key.budget t.spill with
  | none => s.judge die l p f debug
  | some b =>
    match s.storedWithin die l f debug b with
    | some u =>
      if u.key.budget == b then
        (match go s u with
         | .admitted s1 => .admitted s1
         | .waits s1 => s1.judge die l p f debug)
      else .waits (s.askPressure die l p { t.key with budget := b } debug)
    | none => .waits (s.askPressure die l p { t.key with budget := b } debug)

/-- Admit a block with translations of its functions at a budget, when it fits. -/
def State.admitWith (s : State) (die : Nat) (l : Launch) (p : Pend) (ts : List Translation) (budget spill : Nat) :
    Option Admit :=
  match s.bestTile die l p.cls budget spill with
  | none => none
  | some t =>
    match s.imageBytes l (Tab.get? l.blocks p.b.blk) die with
    | (s1, none) => some (.waits s1)
    | (s1, some v) => some (.admitted (s1.place p l t ts budget spill v))

/-- The translations of a block's other functions within a budget (DESIGN CHOICE, log entry 52), or a function that has none. -/
def State.othersAt (s : State) (die : Nat) (l : Launch) (debug : Bool) (budget : Nat) : List Nat → Except Nat (List Translation)
  | [] => .ok []
  | f :: r =>
    match s.storedWithin die l f debug budget with
    | none => .error f
    | some t => (State.othersAt s die l debug budget r).map (t :: ·)

/-- Try to admit a pending block on a die (R207). -/
def State.tryAdmit (s : State) (die : Nat) (p : Pend) : Admit :=
  match s.launch? p.b.lid with
  | none => .waits s
  | some l =>
    let debug := s.debugOn l.ctx
    if l.admitBad.contains p.b.blk then (s.admitWith die l p [] 16 0).getD (.waits s)
    else
      match neededFuncs l (Tab.get? l.blocks p.b.blk) with
      | [] => .waits s
      | f :: fs =>
        match s.storedFor die l f debug with
        | none => .waits (s.askFor die l p f 0 debug)
        | some t =>
          let go (s : State) (t : Translation) : Admit :=
            match s.othersAt die l debug t.key.budget fs with
            | .error g => .waits (s.askFor die l p g t.key.budget debug)
            | .ok ts =>
              let s1 := (t :: ts).foldl State.touch s
              (s1.admitWith die l p (t :: ts) t.key.budget ((t :: ts).foldl (fun n u => max n u.spill) 0)).getD (.waits s)
          if (s.bestTile die l p.cls t.key.budget t.spill).isSome then go s t else s.pressed die l p f t debug go

/-! ## Swap-outs for a barrier (R208) -/

/-- Does every live wave of a block wait at a barrier or a `cpy.grp` of a group? -/
def State.waitsWhole (s : State) (r : BlockRef) (b : Block) (g : Nat) : Bool :=
  b.waves.any Wave.live && (List.range b.waves.length).all fun k =>
    (match b.waves[k]? with | some w => !w.live | none => true) || s.waitsOn r g k

/-- The block that makes way for a waited member on a die, when one can. -/
def State.makesWay (s : State) (die : Nat) (l : Launch) (p : Pend) (budget spill : Nat) : Option BlockRef :=
  let gs := (s.waitedGroups p.b.lid l).filter fun g => match l.groups[g]? with | some gr => gr.members.contains p.b.blk | none => false
  if l.blocks.any fun e => e.2.phase == .resident && e.2.die == die && e.2.fate == some .swapOut then none
  else (l.blocks.find? fun e =>
    e.2.phase == .resident && e.2.die == die && 2 ≤ e.2.cls && e.2.fate.isNone && gs.any (fun g => s.waitsWhole { lid := p.b.lid, blk := e.1 } e.2 g) &&
      (s.setBlock { lid := p.b.lid, blk := e.1 } { e.2 with phase := .swapped }).fits e.2.tileRef l p.cls budget spill).map fun e =>
        { lid := p.b.lid, blk := e.1 }

/-- Make way for the first pending member that is waited for and fits nowhere. -/
def State.makeWay (s : State) (die : Nat) : List Pend → State
  | [] => s
  | p :: r =>
    if !p.wanted then State.makeWay s die r
    else
      match s.launch? p.b.lid with
      | none => State.makeWay s die r
      | some l =>
        match neededFuncs l (Tab.get? l.blocks p.b.blk) with
        | [] => State.makeWay s die r
        | f :: _ =>
          match s.storedFor die l f (s.debugOn l.ctx) with
          | none => State.makeWay s die r
          | some t =>
            if (s.bestTile die l p.cls t.key.budget t.spill).isSome then State.makeWay s die r
            else
              match s.makesWay die l p t.key.budget t.spill with
              | some b => (s.stopBlock b .swapOut).modBlock b fun x => { x with madeWay := some p.b.blk }
              | none => State.makeWay s die r

/-! ## The distributor -/

/-- Admit the first pending block that fits. -/
def State.admitFirst (s : State) (die : Nat) : List Pend → Admit
  | [] => .waits s
  | p :: r =>
    match s.tryAdmit die p with
    | .admitted s1 => .admitted s1
    | .waits s1 => State.admitFirst s1 die r

/-- BLOCK_ADMISSION (R206-R208): a die's distributor admits its first pending block that fits a tile; with none, it may ask
a block at a barrier to make way. -/
def execBlockAdmission (die : Nat) (s : State) : Host.Outcome State Fault Refusal :=
  if !s.started then .next s
  else
    let s0 := s.chooseSeats
    match s0.admitFirst die (s0.pending die) with
    | .admitted s1 => .next s1
    | .waits s1 => .next (s1.makeWay die (s1.pending die))

end Sys2Proof.Machine
end

