-- ==== Sys2Proof/Machine/Contexts.lean ====
section
/-!
DEFINITION. Split tiles (17 R351-R354): the switch of a tile from one context to the other, and a tile's reassignment.
-/

namespace Sys2Proof.Machine

open Sys2Proof

/-! ## When a split tile switches (R353) -/

/-- The context of a split tile that is not active. -/
def Tile.other (t : Tile) : Nat := if t.act == t.pri then t.sec else t.pri

/-- The sites of a tile's resident waves of a context. -/
def State.sitesOn (s : State) (t : TileRef) (ctx : Nat) : List Site :=
  (s.tile t).waves.filterMap fun w =>
    match s.site? w with
    | some x => if x.launch.ctx == ctx then some x else none
    | none => none

/-- Has a context a ready wave pending on a tile? -/
def State.hasReady (s : State) (t : TileRef) (ctx : Nat) : Bool :=
  let x := s.tile t
  (x.even.pending ++ x.odd.pending).any fun e =>
    e.rt.isSome &&
      (match s.site? e.wave with
       | some y => y.launch.ctx == ctx && y.block.phase == .resident && y.wave.stop == .none
       | none => false)

/-- Has a context a wave on a tile that can issue: an active one whose next word or bundle may issue in some stream now (DEDUCED, log entry
59)? -/
def State.hasIssuer (s : State) (t : TileRef) (ctx : Nat) : Bool :=
  let x := s.tile t
  (x.even.active ++ x.odd.active).any fun e =>
    match s.site? e.wave with
    | some y => y.launch.ctx == ctx && (List.range 4).any fun k => s.issuesIn e.wave k
    | none => false

/-- Is a class-0 block of a context pending that fits its share of a tile? -/
def State.urgent (s : State) (t : TileRef) (ctx : Nat) : Bool :=
  (s.pending t.die).any fun p =>
    p.cls == 0 &&
      (match s.launch? p.b.lid with
       | some l =>
         l.ctx == ctx &&
           (match neededFuncs l (Tab.get? l.blocks p.b.blk) with
            | [] => false
            | f :: _ =>
              (match s.storedFor t.die l f (s.debugOn ctx) with
               | some u => s.fits t l 0 u.key.budget u.spill
               | none => false))
       | none => false)

/-- Does a split tile switch now (R353)? -/
def State.switchDue (s : State) (t : TileRef) : Bool :=
  let x := s.tile t
  let o := x.other
  let slice := match s.ctx? x.act with | some c => c.slice | none => 0
  (s.urgent t o && !(s.sitesOn t x.act).any fun y => y.block.cls == 0) ||
    (!s.hasIssuer t x.act && !s.hasReady t x.act && s.hasReady t o) ||
    (slice != 0 && 2800 * slice ≤ s.tick - x.switchedAt && s.hasReady t o)

/-- Is a partition of a tile under a debug stop (R360)? -/
def Tile.debugged (x : Tile) : Bool := x.even.dbg.isSome || x.odd.dbg.isSome

/-- CONTEXT_SWITCH_START (R353, step 1): every resident wave of the outgoing context is asked to stop. While a partition of the
tile is debug-stopped the switch waits (R360). -/
def execContextSwitchStart (t : TileRef) (s : State) : Host.Outcome State Fault Refusal :=
  let x := s.tile t
  if x.dual && x.switch.isNone && !x.debugged && (s.ctx? x.other).isSome && s.switchDue t then
    let s1 := s.modTile t fun y => { y with switch := some { other := x.other, t0 := s.tick, landed := none } }
    .next ((s.sitesOn t x.act).foldl (fun s y => s.modWave y.w Wave.askStop) s1)
  else .next s

/-- The outgoing waves leave the active sets: ready now, or blocked while what they wait for lasts (09 R210). -/
def State.allPending (s : State) (p : Part) (now : Nat) : Part :=
  let rt (e : Entry) : Option Nat :=
    match s.site? e.wave with
    | some x => if s.blockedLong x then none else some now
    | none => some now
  { p with active := [], pending := p.pending ++ p.active.map fun e => { e with rt := rt e } }

/-- A wave that a switch has stopped may go on when its context is active again; one whose wait its landing has withdrawn is ready,
to issue its instruction anew. -/
def State.unswitch (s : State) (w : WaveRef) : State :=
  match s.site? w with
  | none => s
  | some x =>
    let p := (s.tile x.tile).part (w.wav % 2 == 1)
    if x.block.fate.isNone && x.block.phase == .resident && x.wave.owed.isNone && p.dbg.isNone then
      (s.setWave w { x.wave with stop := .none }).wakeFreed w
    else s

/-- CONTEXT_SWITCH_LANDED (R353, step 2): the last outgoing wave has reached its safe point; ACT changes and the incoming
context's gear is decided. A wave that has become resident since the decision is asked to stop too. -/
def execContextSwitchLanded (t : TileRef) (s : State) : Host.Outcome State Fault Refusal :=
  let x := s.tile t
  match x.switch with
  | none => .next s
  | some w =>
    let out := s.sitesOn t x.act
    if w.landed.isSome || x.debugged then .next s
    else if !out.all fun y => y.wave.stop == .landed || y.wave.isEnded || y.block.phase != .resident then
      .next (out.foldl (fun s y => if y.block.phase == .resident then s.modWave y.w Wave.askStop else s) s)
    else
      let now := s.ctlNow t
      let s1 := s.setTile t { (x.setAct s.intervalStart s.tick w.other) with even := s.allPending x.even now, odd := s.allPending x.odd now,
                                                                             switch := some { w with landed := some s.tick } }
      let s2 := out.foldl (fun s y => (s.modWave y.w Wave.clearLatches).unswitch y.w) s1
      .next (s2.decideGear t 4)

/-- The active waves of a partition may issue now. -/
def Part.issueNow (p : Part) (now : Nat) : Part := { p with active := p.active.map fun e => { e with from_ := min e.from_ now } }

/-- CONTEXT_SWITCH_ISSUE (R353, step 4): four control cycles after the change edge, or after the landing when nothing
changes, the incoming context's waves may issue. -/
def execContextSwitchIssue (t : TileRef) (s : State) : Host.Outcome State Fault Refusal :=
  let x := s.tile t
  match x.switch with
  | some { landed := some t1, .. } =>
    let e := max t1 x.clock.t0
    if x.clock.change.isNone && e + 4 * x.clock.cdiv ≤ s.tick then
      let s1 := (s.modTile t fun y => { y with switch := none, switchedAt := s.tick }).refill t
      let now := s1.ctlNow t
      .next ((s1.modTile t fun y => { y with even := y.even.issueNow now, odd := y.odd.issueNow now }).beginReassign t)
    else .next s
  | _ => .next s

/-! ## Reassignment (R351, R352, R354) -/

/-- A tile's set for a context as its record holds it; a record that cannot be read gives the values of R223 (DESIGN CHOICE,
log entry 33). -/
def State.readTileRecord (s : State) (ctx : Nat) (t : TileRef) : State × TileCtx :=
  match s.ctx? ctx with
  | none => (s, TileCtx.reset)
  | some c =>
    match s.readVa ctx t.die (tileRecordVa c.tsa t) 16 with
    | (s1, .ok bs) => (s1, tileRecordOf (ofLe bs))
    | (s1, .error _) => (s1, TileCtx.reset)

/-- The context that a tile runs under a new word: the one that was active if it keeps a share, and otherwise PRI, or SEC when
only SEC is resident (R352). -/
def State.actFor (s : State) (old : Nat) (w : Nat) : Nat :=
  if (wordOwners w).contains old && (s.ctx? old).isSome then old
  else if (s.ctx? (bitsOf w 12 11)).isSome || bitsOf w 15 15 == 0 then bitsOf w 12 11
  else bitsOf w 14 13

/-- The tile's word and its contexts' sets change hands. -/
def State.applyWord (s : State) (t : TileRef) (w : Nat) : State :=
  let x := s.tile t
  let before := (List.range 4).filter fun c => x.hasShare c
  let after := wordOwners w
  let s1 := (before.filter fun c => !after.contains c).foldl (fun s c => s.putTileRecord c t.die t (x.ctx c)) s
  let s2 := s1.modTile t fun y => { y with ctxs := y.ctxs.filter fun e => after.contains e.1 }
  let s3 := (after.filter fun c => !before.contains c).foldl (fun s c =>
    let r := s.readTileRecord c t
    r.1.modTile t fun y => y.setCtx c r.2) s2
  let act := s.actFor x.act w
  let s4 := s3.modTile t fun y =>
    { (y.setWord s.intervalStart s.tick (BitVec.ofNat 16 (w - bitsOf w 10 9 * 512 + act * 512))) with
      reassign := none, switchedAt := s.tick }
  ((s4.decideGear t 4).refill t).recut

/-- TILE_REASSIGN_APPLY (R354): once every swap-out that the reassignment makes has completed. While a switch runs, the
swap-outs have not begun. -/
def execTileReassignApply (t : TileRef) (s : State) : Host.Outcome State Fault Refusal :=
  let x := s.tile t
  match x.reassign with
  | none => .next s
  | some w =>
    if x.switch.isSome then .next s
    else
      let s1 := s.beginReassign t
      if s1.occupied [t] fun c => x.hasShare c && !(wordOwners w.toNat).contains c then .next s1
      else .next (s1.applyWord t w.toNat)

end Sys2Proof.Machine
end

