-- ==== Sys2Proof/Machine/Dispatch.lean ====
section
/-!
DEFINITION. One arm for each instruction: the direct call of its meaning.
-/

namespace Sys2Proof.Machine

open Sys2Proof

def exec (i : Instr) (s : State) : Host.Outcome State Fault Refusal :=
  match i with
  | .add f => Sys2Proof.Machine.execAdd f s
  | .sub f => Sys2Proof.Machine.execSub f s
  | .mul f => Sys2Proof.Machine.execMul f s
  | .mulhi f => Sys2Proof.Machine.execMulhi f s
  | .mulw f => Sys2Proof.Machine.execMulw f s
  | .mad f => Sys2Proof.Machine.execMad f s
  | .div f => Sys2Proof.Machine.execDiv f s
  | .rem f => Sys2Proof.Machine.execRem f s
  | .neg f => Sys2Proof.Machine.execNeg f s
  | .abs f => Sys2Proof.Machine.execAbs f s
  | .min f => Sys2Proof.Machine.execMin f s
  | .max f => Sys2Proof.Machine.execMax f s
  | .and f => Sys2Proof.Machine.execAnd f s
  | .or f => Sys2Proof.Machine.execOr f s
  | .xor f => Sys2Proof.Machine.execXor f s
  | .not f => Sys2Proof.Machine.execNot f s
  | .shl f => Sys2Proof.Machine.execShl f s
  | .shr f => Sys2Proof.Machine.execShr f s
  | .rot f => Sys2Proof.Machine.execRot f s
  | .popc f => Sys2Proof.Machine.execPopc f s
  | .clz f => Sys2Proof.Machine.execClz f s
  | .ctz f => Sys2Proof.Machine.execCtz f s
  | .brev f => Sys2Proof.Machine.execBrev f s
  | .bfx f => Sys2Proof.Machine.execBfx f s
  | .bfi f => Sys2Proof.Machine.execBfi f s
  | .cmp f => Sys2Proof.Machine.execCmp f s
  | .sel f => Sys2Proof.Machine.execSel f s
  | .ext f => Sys2Proof.Machine.execExt f s
  | .aoff f => Sys2Proof.Machine.execAoff f s
  | .adiff f => Sys2Proof.Machine.execAdiff f s
  | .vaddr f => Sys2Proof.Machine.execVaddr f s
  | .dp4 f => Sys2Proof.Machine.execDp4 f s
  | .const f => Sys2Proof.Machine.execConst f s
  | .constw f => Sys2Proof.Machine.execConstw f s
  | .param f => Sys2Proof.Machine.execParam f s
  | .id f => Sys2Proof.Machine.execId f s
  | .fadd f => Sys2Proof.Machine.execFadd f s
  | .fsub f => Sys2Proof.Machine.execFsub f s
  | .fmul f => Sys2Proof.Machine.execFmul f s
  | .fma f => Sys2Proof.Machine.execFma f s
  | .fdiv f => Sys2Proof.Machine.execFdiv f s
  | .fsqrt f => Sys2Proof.Machine.execFsqrt f s
  | .frsq f => Sys2Proof.Machine.execFrsq f s
  | .frcp f => Sys2Proof.Machine.execFrcp f s
  | .fmin f => Sys2Proof.Machine.execFmin f s
  | .fmax f => Sys2Proof.Machine.execFmax f s
  | .fneg f => Sys2Proof.Machine.execFneg f s
  | .fabs f => Sys2Proof.Machine.execFabs f s
  | .fcmp f => Sys2Proof.Machine.execFcmp f s
  | .fclass f => Sys2Proof.Machine.execFclass f s
  | .fexp2 f => Sys2Proof.Machine.execFexp2 f s
  | .flog2 f => Sys2Proof.Machine.execFlog2 f s
  | .fexp f => Sys2Proof.Machine.execFexp f s
  | .flog f => Sys2Proof.Machine.execFlog f s
  | .fsin f => Sys2Proof.Machine.execFsin f s
  | .fcos f => Sys2Proof.Machine.execFcos f s
  | .ftanh f => Sys2Proof.Machine.execFtanh f s
  | .fsigm f => Sys2Proof.Machine.execFsigm f s
  | .fgelu f => Sys2Proof.Machine.execFgelu f s
  | .fsilu f => Sys2Proof.Machine.execFsilu f s
  | .ffloor f => Sys2Proof.Machine.execFfloor f s
  | .fceil f => Sys2Proof.Machine.execFceil f s
  | .fround f => Sys2Proof.Machine.execFround f s
  | .ftrunc f => Sys2Proof.Machine.execFtrunc f s
  | .fcopys f => Sys2Proof.Machine.execFcopys f s
  | .fscale f => Sys2Proof.Machine.execFscale f s
  | .fdot2 f => Sys2Proof.Machine.execFdot2 f s
  | .flerp f => Sys2Proof.Machine.execFlerp f s
  | .fstat f => Sys2Proof.Machine.execFstat f s
  | .fclr f => Sys2Proof.Machine.execFclr f s
  | .sliAdd f => Sys2Proof.Machine.execSliAdd f s
  | .sliSub f => Sys2Proof.Machine.execSliSub f s
  | .sliMul f => Sys2Proof.Machine.execSliMul f s
  | .sliDiv f => Sys2Proof.Machine.execSliDiv f s
  | .sliNeg f => Sys2Proof.Machine.execSliNeg f s
  | .sliAbs f => Sys2Proof.Machine.execSliAbs f s
  | .sliRcp f => Sys2Proof.Machine.execSliRcp f s
  | .sliCmp f => Sys2Proof.Machine.execSliCmp f s
  | .sliMin f => Sys2Proof.Machine.execSliMin f s
  | .sliMax f => Sys2Proof.Machine.execSliMax f s
  | .sliStat f => Sys2Proof.Machine.execSliStat f s
  | .sliClr f => Sys2Proof.Machine.execSliClr f s
  | .sliLvl f => Sys2Proof.Machine.execSliLvl f s
  | .sliSq f => Sys2Proof.Machine.execSliSq f s
  | .cvt f => Sys2Proof.Machine.execCvt f s
  | .bitc f => Sys2Proof.Machine.execBitc f s
  | .qz f => Sys2Proof.Machine.execQz f s
  | .dq f => Sys2Proof.Machine.execDq f s
  | .pkn f => Sys2Proof.Machine.execPkn f s
  | .upkn f => Sys2Proof.Machine.execUpkn f s
  | .xscl f => Sys2Proof.Machine.execXscl f s
  | .hadm f => Sys2Proof.Machine.execHadm f s
  | .shfl f => Sys2Proof.Machine.execShfl f s
  | .vote f => Sys2Proof.Machine.execVote f s
  | .scan f => Sys2Proof.Machine.execScan f s
  | .red f => Sys2Proof.Machine.execRed f s
  | .gtrans f => Sys2Proof.Machine.execGtrans f s
  | .bcast f => Sys2Proof.Machine.execBcast f s
  | .lsel f => Sys2Proof.Machine.execLsel f s
  | .br f aw => Sys2Proof.Machine.execBr f aw s
  | .brc f aw => Sys2Proof.Machine.execBrc f aw s
  | .call f aw => Sys2Proof.Machine.execCall f aw s
  | .ret f => Sys2Proof.Machine.execRet f s
  | .exit f => Sys2Proof.Machine.execExit f s
  | .yield f => Sys2Proof.Machine.execYield f s
  | .trap f => Sys2Proof.Machine.execTrap f s
  | .trapinfo f => Sys2Proof.Machine.execTrapinfo f s
  | .tret f => Sys2Proof.Machine.execTret f s
  | .ldG f => Sys2Proof.Machine.execLdG f s
  | .stG f => Sys2Proof.Machine.execStG f s
  | .ldVa f => Sys2Proof.Machine.execLdVa f s
  | .stVa f => Sys2Proof.Machine.execStVa f s
  | .ldFrag f => Sys2Proof.Machine.execLdFrag f s
  | .stTile f => Sys2Proof.Machine.execStTile f s
  | .pfG f => Sys2Proof.Machine.execPfG f s
  | .atomAdd f => Sys2Proof.Machine.execAtomAdd f s
  | .atomMin f => Sys2Proof.Machine.execAtomMin f s
  | .atomMax f => Sys2Proof.Machine.execAtomMax f s
  | .atomAnd f => Sys2Proof.Machine.execAtomAnd f s
  | .atomOr f => Sys2Proof.Machine.execAtomOr f s
  | .atomXor f => Sys2Proof.Machine.execAtomXor f s
  | .atomXchg f => Sys2Proof.Machine.execAtomXchg f s
  | .atomCas f => Sys2Proof.Machine.execAtomCas f s
  | .atomFadd f => Sys2Proof.Machine.execAtomFadd f s
  | .barB f => Sys2Proof.Machine.execBarB f s
  | .barG f => Sys2Proof.Machine.execBarG f s
  | .barGLv f => Sys2Proof.Machine.execBarGLv f s
  | .wait f => Sys2Proof.Machine.execWait f s
  | .xfence f => Sys2Proof.Machine.execXfence f s
  | .cdrain f => Sys2Proof.Machine.execCdrain f s
  | .gred f => Sys2Proof.Machine.execGred f s
  | .cpyBlk f => Sys2Proof.Machine.execCpyBlk f s
  | .cpyGrp f => Sys2Proof.Machine.execCpyGrp f s
  | .cpyW f => Sys2Proof.Machine.execCpyW f s
  | .kvcommit f => Sys2Proof.Machine.execKvcommit f s
  | .cpyFill f => Sys2Proof.Machine.execCpyFill f s
  | .mma f => Sys2Proof.Machine.execMma f s
  | .mmaL2 f => Sys2Proof.Machine.execMmaL2 f s
  | .tzero f => Sys2Proof.Machine.execTzero f s
  | .textr f => Sys2Proof.Machine.execTextr f s
  | .tins f => Sys2Proof.Machine.execTins f s
  | .fmtld f => Sys2Proof.Machine.execFmtld f s
  | .tcvt f => Sys2Proof.Machine.execTcvt f s
  | .rowTop f => Sys2Proof.Machine.execRowTop f s
  | .rowHeart f => Sys2Proof.Machine.execRowHeart f s
  | .rowBase f => Sys2Proof.Machine.execRowBase f s
  | .rowPace f => Sys2Proof.Machine.execRowPace f s
  | .rowSync f => Sys2Proof.Machine.execRowSync f s
  | .rowCfg f => Sys2Proof.Machine.execRowCfg f s
  | .tanc f => Sys2Proof.Machine.execTanc f s
  | .tmask f => Sys2Proof.Machine.execTmask f s
  | .tsel f => Sys2Proof.Machine.execTsel f s
  | .gear f => Sys2Proof.Machine.execGear f s
  | .gearRd f => Sys2Proof.Machine.execGearRd f s
  | .clk f => Sys2Proof.Machine.execClk f s
  | .pace f => Sys2Proof.Machine.execPace f s
  | .boostReq f => Sys2Proof.Machine.execBoostReq f s
  | .boostRel f => Sys2Proof.Machine.execBoostRel f s
  | .launch f => Sys2Proof.Machine.execLaunch f s
  | .trig f => Sys2Proof.Machine.execTrig f s
  | .lwait f => Sys2Proof.Machine.execLwait f s
  | .ctxid f => Sys2Proof.Machine.execCtxid f s
  | .prio f => Sys2Proof.Machine.execPrio f s
  | .fabLd f => Sys2Proof.Machine.execFabLd f s
  | .fabSt f => Sys2Proof.Machine.execFabSt f s
  | .fabAtom f => Sys2Proof.Machine.execFabAtom f s
  | .lkPark f => Sys2Proof.Machine.execLkPark f s
  | .lkWake f => Sys2Proof.Machine.execLkWake f s
  | .lkHeat f => Sys2Proof.Machine.execLkHeat f s
  | .lkStatSt f => Sys2Proof.Machine.execLkStatSt f s
  | .lkStatPd f => Sys2Proof.Machine.execLkStatPd f s
  | .lkThr f => Sys2Proof.Machine.execLkThr f s
  | .trcMark f => Sys2Proof.Machine.execTrcMark f s
  | .trcOn f => Sys2Proof.Machine.execTrcOn f s
  | .trcOff f => Sys2Proof.Machine.execTrcOff f s
  | .dbgBrk f => Sys2Proof.Machine.execDbgBrk f s
  | .dbgStop f => Sys2Proof.Machine.execDbgStop f s
  | .cntRd f => Sys2Proof.Machine.execCntRd f s
  | .dbgUndo f => Sys2Proof.Machine.execDbgUndo f s
  | .sysCap f => Sys2Proof.Machine.execSysCap f s
  | .sysFloor f => Sys2Proof.Machine.execSysFloor f s
  | .sysRetire f => Sys2Proof.Machine.execSysRetire f s
  | .sysCkpt f => Sys2Proof.Machine.execSysCkpt f s
  | .sysRsync f => Sys2Proof.Machine.execSysRsync f s
  | .sysMigr f => Sys2Proof.Machine.execSysMigr f s
  | .sysL3cls f => Sys2Proof.Machine.execSysL3cls f s
  | .sysWdog f => Sys2Proof.Machine.execSysWdog f s
  | .sysCtxMk f => Sys2Proof.Machine.execSysCtxMk f s
  | .sysCtxRet f => Sys2Proof.Machine.execSysCtxRet f s
  | .sysCtxTile f => Sys2Proof.Machine.execSysCtxTile f s
  | .sysCtxDbg f => Sys2Proof.Machine.execSysCtxDbg f s
  | .sysQ f => Sys2Proof.Machine.execSysQ f s
  | .nop sl => Sys2Proof.Machine.execNop sl s
  | .mov sl => Sys2Proof.Machine.execMov sl s
  | .bcs sl => Sys2Proof.Machine.execBcs sl s
  | .spst sl => Sys2Proof.Machine.execSpst sl s
  | .spld sl => Sys2Proof.Machine.execSpld sl s
  | .jmp sl => Sys2Proof.Machine.execJmp sl s
  | .jc sl => Sys2Proof.Machine.execJc sl s
  | .jal sl => Sys2Proof.Machine.execJal sl s
  | .jr sl => Sys2Proof.Machine.execJr sl s
  | .lcfg sl => Sys2Proof.Machine.execLcfg sl s
  | .mmaComplete w => Sys2Proof.Machine.execMmaComplete w s
  | .bundleIssue t odd st => Sys2Proof.Machine.execBundleIssue t odd st s
  | .tokenPush w st => Sys2Proof.Machine.execTokenPush w st s
  | .openStep w => Sys2Proof.Machine.execOpenStep w s
  | .backStep w => Sys2Proof.Machine.execBackStep w s
  | .loopClose w => Sys2Proof.Machine.execLoopClose w s
  | .stopLanded w => Sys2Proof.Machine.execStopLanded w s
  | .faultRingRoom ctx => Sys2Proof.Machine.execFaultRingRoom ctx s
  | .regfaultRetry ctx => Sys2Proof.Machine.execRegfaultRetry ctx s
  | .park b => Sys2Proof.Machine.execPark b s
  | .swapOut b => Sys2Proof.Machine.execSwapOut b s
  | .faultRecordResolve ctx k => Sys2Proof.Machine.execFaultRecordResolve ctx k s
  | .blockAdmission die => Sys2Proof.Machine.execBlockAdmission die s
  | .translationComplete cl => Sys2Proof.Machine.execTranslationComplete cl s
  | .translationRefill cl key line => Sys2Proof.Machine.execTranslationRefill cl key line s
  | .activeSetSwap t odd => Sys2Proof.Machine.execActiveSetSwap t odd s
  | .popWaitExpiry w st => Sys2Proof.Machine.execPopWaitExpiry w st s
  | .watchdog w => Sys2Proof.Machine.execWatchdog w s
  | .waveSlotRelease w => Sys2Proof.Machine.execWaveSlotRelease w s
  | .vaultRequestComplete w => Sys2Proof.Machine.execVaultRequestComplete w s
  | .globalAccessComplete w => Sys2Proof.Machine.execGlobalAccessComplete w s
  | .ptsAdvance w => Sys2Proof.Machine.execPtsAdvance w s
  | .barBRelease b => Sys2Proof.Machine.execBarBRelease b s
  | .groupBarrierRelease lid g => Sys2Proof.Machine.execGroupBarrierRelease lid g s
  | .waitWake w => Sys2Proof.Machine.execWaitWake w s
  | .lwaitWake w => Sys2Proof.Machine.execLwaitWake w s
  | .cdrainDone w => Sys2Proof.Machine.execCdrainDone w s
  | .rowSyncDone w => Sys2Proof.Machine.execRowSyncDone w s
  | .xfenceDone w => Sys2Proof.Machine.execXfenceDone w s
  | .gredRoundComplete lid g va order => Sys2Proof.Machine.execGredRoundComplete lid g va order s
  | .copyCommandStart t => Sys2Proof.Machine.execCopyCommandStart t s
  | .copyCommandComplete t cmd => Sys2Proof.Machine.execCopyCommandComplete t cmd s
  | .cpyGrpSliceLand lid g src dst => Sys2Proof.Machine.execCpyGrpSliceLand lid g src dst s
  | .enginePageFault t cmd => Sys2Proof.Machine.execEnginePageFault t cmd s
  | .kvcommitComplete t cmd => Sys2Proof.Machine.execKvcommitComplete t cmd s
  | .rowNoteStart t => Sys2Proof.Machine.execRowNoteStart t s
  | .rowNoteDone t cmd => Sys2Proof.Machine.execRowNoteDone t cmd s
  | .gearChangeEdge t => Sys2Proof.Machine.execGearChangeEdge t s
  | .railChangeEnd t => Sys2Proof.Machine.execRailChangeEnd t s
  | .contextSwitchStart t => Sys2Proof.Machine.execContextSwitchStart t s
  | .contextSwitchLanded t => Sys2Proof.Machine.execContextSwitchLanded t s
  | .contextSwitchIssue t => Sys2Proof.Machine.execContextSwitchIssue t s
  | .tileReassignApply t => Sys2Proof.Machine.execTileReassignApply t s
  | .migrationApply w => Sys2Proof.Machine.execMigrationApply w s
  | .controlInterval inp => Sys2Proof.Machine.execControlInterval inp s
  | .thermalTrip cl reading => Sys2Proof.Machine.execThermalTrip cl reading s
  | .pdStopEnd die => Sys2Proof.Machine.execPdStopEnd die s
  | .qtabWrite v => Sys2Proof.Machine.execQtabWrite v s
  | .qenWrite v => Sys2Proof.Machine.execQenWrite v s
  | .ptabWrite v => Sys2Proof.Machine.execPtabWrite v s
  | .winWrite v => Sys2Proof.Machine.execWinWrite v s
  | .evringWrite evn v => Sys2Proof.Machine.execEvringWrite evn v s
  | .evtailWrite v => Sys2Proof.Machine.execEvtailWrite v s
  | .fidWrite v => Sys2Proof.Machine.execFidWrite v s
  | .bar0OtherWrite off v => Sys2Proof.Machine.execBar0OtherWrite off v s
  | .cxlMemRead off n => Sys2Proof.Machine.execCxlMemRead off n s
  | .cxlMemWrite off bytes => Sys2Proof.Machine.execCxlMemWrite off bytes s
  | .tailSnoop q => Sys2Proof.Machine.execTailSnoop q s
  | .queueServeTurn => Sys2Proof.Machine.execQueueServeTurn s
  | .dependencyReread lid => Sys2Proof.Machine.execDependencyReread lid s
  | .launchTriggered lid => Sys2Proof.Machine.execLaunchTriggered lid s
  | .launchEnded lid => Sys2Proof.Machine.execLaunchEnded lid s
  | .widthChange link => Sys2Proof.Machine.execWidthChange link s
  | .retrainEnd link => Sys2Proof.Machine.execRetrainEnd link s
  | .laserStartDone link grp => Sys2Proof.Machine.execLaserStartDone link grp s
  | .ringLockDone link grp => Sys2Proof.Machine.execRingLockDone link grp s
  | .peerReadiness link grp => Sys2Proof.Machine.execPeerReadiness link grp s
  | .thresholdWake link => Sys2Proof.Machine.execThresholdWake link s
  | .lossOfLock fibre ring => Sys2Proof.Machine.execLossOfLock fibre ring s
  | .flitReceive link fl => Sys2Proof.Machine.execFlitReceive link fl s
  | .fabRead m => Sys2Proof.Machine.execFabRead m s
  | .fabWrite m => Sys2Proof.Machine.execFabWrite m s
  | .fabAtomic m => Sys2Proof.Machine.execFabAtomic m s
  | .readResponse m => Sys2Proof.Machine.execReadResponse m s
  | .writeAcknowledgement m => Sys2Proof.Machine.execWriteAcknowledgement m s
  | .atomicResponse m => Sys2Proof.Machine.execAtomicResponse m s
  | .copyWrite m => Sys2Proof.Machine.execCopyWrite m s
  | .completionWrite m => Sys2Proof.Machine.execCompletionWrite m s
  | .mctpBaseControl req => Sys2Proof.Machine.execMctpBaseControl req s
  | .identity => Sys2Proof.Machine.execIdentity s
  | .sensorReadings => Sys2Proof.Machine.execSensorReadings s
  | .eventRingMirror => Sys2Proof.Machine.execEventRingMirror s
  | .summary => Sys2Proof.Machine.execSummary s
  | .clearRetirement => Sys2Proof.Machine.execClearRetirement s
  | .flaconLoad base => Sys2Proof.Machine.execFlaconLoad base s
  | .recoveryLoad pc => Sys2Proof.Machine.execRecoveryLoad pc s
  | .coldStart inp => Sys2Proof.Machine.execColdStart inp s
  | .warmStart inp => Sys2Proof.Machine.execWarmStart inp s
  | .powerRemoval => Sys2Proof.Machine.execPowerRemoval s
  | .heaterFlashWrite fibre ring => Sys2Proof.Machine.execHeaterFlashWrite fibre ring s
  | .unrecoverableFault t cause => Sys2Proof.Machine.execUnrecoverableFault t cause s
  | .debugInterfaceStop t odd => Sys2Proof.Machine.execDebugInterfaceStop t odd s
  | .debugResume t odd => Sys2Proof.Machine.execDebugResume t odd s
  | .debugStep t odd => Sys2Proof.Machine.execDebugStep t odd s
  | .debugUndo t odd => Sys2Proof.Machine.execDebugUndo t odd s
  | .tracePacketWrite die => Sys2Proof.Machine.execTracePacketWrite die s
  | .traceFrameClose die => Sys2Proof.Machine.execTraceFrameClose die s
  | .traceFrameWrite die => Sys2Proof.Machine.execTraceFrameWrite die s
  | .traceMaskApply ctx => Sys2Proof.Machine.execTraceMaskApply ctx s
  | .cxlLinkRetrain rate width => Sys2Proof.Machine.execCxlLinkRetrain rate width s

end Sys2Proof.Machine
end

