-- ==== Sys2Proof/Machine/Fetch.lean ====
section
/-!
DEFINITION. Fetching: the word that a wave issues next (01 R10, 04 R70), when it may issue one, and running it.
-/

namespace Sys2Proof.Machine

open Sys2Proof

/-- Run a placed word in the wave that issues: the instruction it decodes to, or trap(RESERVED) (04 R82). -/
def runPlace (p : PlaceCode) (s : State) : Host.Outcome State Fault Refusal :=
  if p.ovr && ovrIllegal (opcOf p.word).toNat then atSite s fun x c => s.takeReserved x c p.word (wordResTy p.word)
  else
    match decodeWord p.word p.args with
    | .ok i => exec i s
    | .error _ => atSite s fun x c => s.takeReserved x c p.word (wordResTy p.word)

/-- The translation of a wave's frame is in use (01 R12). -/
def State.touchWave (s : State) (x : Site) : State :=
  match x.wave.frames with
  | f :: _ => match s.code? f with | some t => s.touch t | none => s
  | [] => s

/-- Is an entry function one that a wave may not begin in (06 R137)? -/
def entryBad (t : Translation) : Bool := match t.blocks with | b :: _ => b.params != [] | [] => true

/-- Does a wave stand in a malformed function, for which there is no code (04 R71), or at the beginning of an entry function that has
parameters (06 R137)? Its next word is trap(MALFORM), as often as it issues. -/
def State.badEntry (s : State) (x : Site) : Bool :=
  x.wave.native.isNone && s.canIssue x &&
    match x.wave.frames with
    | [] => false
    | f :: _ =>
      match s.code? f with
      | none => true
      | some t => f.kind == .base && entryBad t && (match f.cur with | some c => c.block == 0 && c.vals == [] | none => false)

/-- The selected wave issues its next instruction, when its partition picks it for the stream of that instruction's op (09 R211);
nothing happens while it may not. -/
def issue (w : WaveRef) (s : State) : Host.Outcome State Fault Refusal :=
  match s.site? w with
  | none => .fault .noWave
  | some x =>
    if s.badEntry x then .next (s.takeParkTrap x x.wave.mask 5 (Lanes.all 0))
    else
    match s.nextPlace w with
    | none => .next s
    | some p =>
      let k := portableStream (opcOf p.word).toNat
      if s.picks x.tile w k then runPlace p ((s.picked x.tile w k).touchWave x) else .next s

end Sys2Proof.Machine
end

