-- ==== Sys2Proof/Machine/Acts.lean ====
section
/-!
DEFINITION. What the head of the agenda does: the issue of a wave, an event, the passing of time, or one of the small steps that
engines, links and memories take.
-/

namespace Sys2Proof.Machine

open Sys2Proof

/-- An uncorrectable error poisons the granule that holds a byte (22 R427): a 32-byte beat of device memory, or a 16-byte chunk
of a vault. -/
def State.poisonAt (s : State) (key : Nat) : State :=
  if key < 2 ^ 48 then s.addPoison (32 * (key / 32)) 32 else s.addPoison (16 * (key / 16)) 16

/-- A line of 128 bytes is written back and leaves the caches (22 R427): a poisoned chunk poisons its beat, and both chunks of a poisoned
beat are poisoned for whoever reads it next. -/
def State.writeBack (s : State) (key : Nat) : State :=
  if isDeviceKey key then
    (List.range 4).foldl (fun s i =>
      let b := 128 * (key / 128) + 32 * i
      if s.poisoned b 32 then s.addPoison b 32 else s) s
  else s

/-- The channel of a byte of device memory in a frame, as stack × 64 + channel (11 R240): the 256-byte chunks of a frame rotate through the
128 channels of its die's two stacks. -/
def channelOf (key frame : Nat) : Nat :=
  let q := (key - frame) / 256
  64 * (2 * (key / 2 ^ 37) + q / 64 % 2) + q % 64

/-- Count a corrected error of a row. -/
def countRow (chan row : Nat) : List (Nat × Nat × Nat) → List (Nat × Nat × Nat)
  | [] => [(chan, row, 1)]
  | e :: r => if e.1 == chan && e.2.1 == row then (chan, row, e.2.2 + 1) :: r else e :: countRow chan row r

/-- Waves whose streams have all halted end (05 R91), debug stops whose last wave has landed or ended are dumped (14 R319), blocked waves that nothing blocks any more are ready, and free active places are
filled, before time passes (09 R210). -/
def State.settleTiles (s : State) : State :=
  let s1 := s.tiles.foldl (fun s e => e.2.waves.foldl State.endStopped s) s
  let s2 := s1.tiles.foldl (fun s e => (s.dumpEnded (tileOfKey e.1) false).dumpEnded (tileOfKey e.1) true) s1
  (s2.tiles.foldl (fun s e => s.wakeTile (tileOfKey e.1)) s2).refillAll

/-- Time passes: the control cycles in it fill free active places, and translations that no wave runs any more are discarded. -/
def State.pass (s : State) (n : Nat) : State := (s.settleTiles.syncLinks.elapse n).refillAll.sweep

/-- Perform one item of the agenda. -/
def perform (a : Act) (s : State) : Host.Outcome State Fault Refusal :=
  match a with
  | .wave w => issue w { s with cur := some w }
  | .event i => exec i s
  | .advance n => .next (s.pass n)
  | .tileFault t cause => .next (s.tileDown t cause)
  | .interval => execControlInterval { p := Config.packagePower (s.interval + 1), clusters := [] } s
  | .copyRead t cmd p k => .next (s.copyRead t cmd p k)
  | .copyWrite t cmd p k => .next (s.copyWrite t cmd p k)
  | .kvStep t cmd k => .next (s.kvStep t cmd k)
  | .rowRead t cmd k => .next (s.rowRead t cmd k)
  | .rowWrite t cmd k => .next (s.rowWrite t cmd k)
  | .grpRead lid g id k => .next (s.grpRead lid g id k)
  | .grpWrite lid g id k => .next (s.grpWrite lid g id k)
  | .fetch w va => .next (s.fetchFor w va.toNat)
  | .native w => .next (s.enterNative w)
  | .sendFlit l => .next (s.sendFlit l)
  | .hostStore pa bs => .next (if pa + bs.length ≤ 2 ^ 48 then s.writeKey (2 ^ 48 + pa) bs else s)
  | .arrive m => s.deliver m
  | .tlbDrop k => .next { s with tlb := s.tlb.eraseIdx k }
  | .walkDrop k => .next { s with walks := s.walks.eraseIdx k }
  | .bindStart ctx die va => .next (s.startBinding ctx die va)
  | .bindEnd k => .next (s.endBinding k)
  | .poison key => .next (s.poisonAt key)
  | .writeBack key => .next (s.writeBack key)
  | .corrected key frame row => .next { s with rowErr := countRow (channelOf key frame) row s.rowErr }

/-- With nothing on the agenda the selected wave issues its next instruction. While it waits for the data of its reads, one of them
returns; where it can issue nothing, time passes. -/
def runOn (s : State) : Host.Outcome State Fault Refusal :=
  match s.cur with
  | none => .next (s.pass 1)
  | some w =>
    match s.site? w with
    | none => .next (s.pass 1)
    | some x =>
      if s.badEntry x || (s.nextPlace w).isSome then issue w s
      else if s.canIssue x && s.waitsData x then
        (match s.wordAt w with
         | some (c, p) => if x.wave.uses c p x.wave.guse then execGlobalAccessComplete w s else execVaultRequestComplete w s
         | none => .next s)
      else .next (s.pass 1)

end Sys2Proof.Machine
end

