-- ==== Sys2Proof/Machine/Step.lean ====
section
/-!
DEFINITION. One step of the machine, and the placing of one instruction where the next step fetches it.
-/

namespace Sys2Proof.Machine

open Sys2Proof

/-- One step: the head of the agenda, which says what the world and the part's schedulers do next; with an empty agenda
the selected wave issues its next instruction, and where there is none time passes. -/
def step (s : State) : Host.Outcome State Fault Refusal :=
  match s.agenda with
  | [] => runOn s
  | a :: r => perform a { s with agenda := r }

/-- A wave at the first place of block 0 of function 0, with every lane active. -/
def placedWave : Wave :=
  { slot := 0
    frames :=
      [{ kind := .base, func := 0, tid := 0, pending := [],
         cur := some { block := 0, mask := BitVec.allOnes 32, vidx := 0, vals := [] }, retMask := 0,
         ret := Lanes.all 0, retTy := .void, trap := none, kept := [] }]
    mode := .run, stop := .none, owed := none, ieee := 0, sli := 0, tau := 0x3F800000, ofs := 0, vcnt := 0, gcnt := 0, rcnt := 0, guse := [], vuse := [],
    wdog := 0, wlim := 16777216, pts := 0, native := none, undo := [], undoSeq := 0, staged := none, quarters := [], quartersB := [], replay := false, verdict := false, cpyBlk := 0,
    stepLeft := none, stepEnd := none, sysReq := none }

/-- A resident block of one such wave on tile 0 of die 0. -/
def placedBlock (x : Wave) : Block :=
  { cls := 1, heldCls := 1, home := 0, phase := .resident, die := 0, tile := 0, waves := [x], vbase := 0, spill := 0, budget := 16, fate := none,
    unresolved := [], killed := false, awaitsCode := false, ready := false, seats := [], slots := [], triggered := false, swapRaised := false, madeWay := none,
    imgPage := 0, imgLen := 0, imgVault := 0, order := 0 }

/-- A launch of context 0 with that block. -/
def placedLaunch (b : Block) : Launch :=
  { lseq := 0, ctx := 0, code := 0, ident := 0, staddr := 0, params := [], nblock := 1, lanes := 32, entry := 0,
    handler := none, vb4k := 0, piv := 0, cls := 1, sys := true, ranges := [], groups := [], deps := [], state := 1,
    owedState := none, code8 := 0, subs := [], blocks := [(0, b)], gens := [], bars := [], greds := [], cgrps := [], admitFault := [], admitBad := [] }

/-- A translation of a function of one block with one placed word. -/
def placedCode (tid : Nat) (p : PlaceCode) : Translation :=
  { tid := tid, die := 0, key := { ident := 0, func := 0, narrow := false, budget := 16 }, ctx := 0, cls0 := false,
    debug := false, nfunc := 1, nwords := 1, blocks := [{ params := [], code := [p] }], callees := [], spill := 0,
    dpi := 0, base := 0, codeLen := 0, side := 0, sideLen := 0, lastUse := 0, stale := false }

/-- The native state of a wave whose four streams stand at address 0 with nothing in their queues. -/
def placedNative : Native :=
  { Native.blank 16 with k := [(0, BitVec.allOnes 32)], seqs := List.replicate 4 (Seq.start 0) }

/-- The stream in which a native-only op stands when nothing else says so: `bcs` and `spld` in the load stream, `spst` in the
store stream, and every other one in the scalar stream (05 R99, R101). -/
def homeStream (opc : Nat) : Stream :=
  if opc == 0x1C2 || opc == 0x1C4 then .load else if opc == 0x1C3 then .store else .scalar

/-- The state in which a new wave is resident on tile 0 of die 0, with this native state and code. -/
def State.placeWave (s : State) (p : PlaceCode) (n : Option Native) : State :=
  let x := { placedWave with frames := placedWave.frames.map (fun f => { f with tid := s.nextId }), native := n }
  let wr : WaveRef := { lid := s.nextLid, blk := 0, wav := 0 }
  let t : TileRef := { die := 0, tile := 0 }
  let e : Entry := { slot := 0, wave := wr, from_ := 0, rt := none, ages := [0, 0, 0, 0] }
  { s with
    agenda := []
    cur := some wr
    store := placedCode s.nextId p :: s.store
    nextId := s.nextId + 1
    launches := s.launches.put s.nextLid (placedLaunch (placedBlock x))
    nextLid := s.nextLid + 1
    tiles := s.tiles.put 0 { s.tile t with retired := false, even := { active := [e], pending := [], dbg := none } } }

/-- The state in which the next step fetches the portable word w, with argument words of zeros, in a new wave. -/
def State.withFetchPortable (s : State) (w : Nat) : State :=
  let word := BitVec.ofNat 64 w
  let n := if takesArgs (opcOf word).toNat then (fieldsOf word).md.toNat else 0
  let zero : ArgWord := { n := 0, a1 := 0, a2 := 0, a3 := 0, a4 := 0, a5 := 0 }
  s.placeWave { word := word, ovr := false, args := List.replicate n zero } none

/-- The state in which the next step issues the native bundle w, in the stream where its op stands. -/
def State.withFetchBundle (s : State) (w : Nat) : State :=
  let base := 0x1700000000
  let s1 := s.placeWave { word := 0x3100000000000000#64, ovr := false, args := [] } (some placedNative)
  let opc := (w / 2 ^ 103) % 2 ^ 9
  { s1.writeKey base (leBytes 16 w) with
    store := s1.store.map fun t => if t.tid == s.nextId then { t with base := base, codeLen := 16 } else t
    clusters := s1.clusters.put 0 { s1.cluster { die := 0, cl := 0 } with retired := false, lines := [(s.nextId, 0)] }
    agenda := [.event (.bundleIssue { die := 0, tile := 0 } false (homeStream opc))] }

/-- The state in which the next step fetches an instruction of `nbits` bits: a portable word, or a native bundle when it is
longer than a word. -/
def State.withFetchWord (s : State) (nbits w : Nat) : State :=
  if nbits ≤ 64 then s.withFetchPortable w else s.withFetchBundle w

end Sys2Proof.Machine
end

