-- ==== Sys2Proof/Safety.lean ====
section
/-!
DEFINITION. What counts as a safe run, and the words in which claims speak of one instruction: where a wave issues it, which
operands its form gives it, and how it completes.
-/

namespace Sys2Proof

open Sys2Proof.Machine

/-- A step that stops neither by a fault nor by a refusal. -/
def Runs (s : State) : Prop := ∃ t, step s = .next t

/-- A run of a number of steps that never stops. -/
def SafeFor : Nat → State → Prop
  | 0, _ => True
  | n + 1, s => ∃ t, step s = .next t ∧ SafeFor n t

/-- Memory is in its canonical form. -/
abbrev MemInv (s : State) : Prop := Mem.wf s.mem = true

/-! ## One instruction of a wave -/

/-- A wave issues: it is the selected one, it stands at the site x, and its top frame fr has the path c. -/
def AtPlace (s : State) (x : Site) (fr : Frame) (c : Cur) : Prop :=
  s.cur = some x.w ∧ s.site? x.w = some x ∧ x.wave.top? = some (fr, c)

/-- The fields of an instruction fit an operand form of its operation (04 R74, R75), which gives it the operands i. -/
def Fits (op : Op) (f : Fields) (x : Site) (c : Cur) (fm : Form) (i : OpIn) : Prop :=
  ∃ ty, Ty.ofCode f.typ.toNat = some ty ∧ op.form f.typ.toNat f.md.toNat = some fm ∧ fetchOperands fm f x c ty = some i

/-- An operand field that names a value of a type (04 R70, R74). -/
def Names (c : Cur) (r : Ref) (t : Ty) (v : Value) : Prop := r ≠ 0 ∧ c.ref? r = some v ∧ v.ty = t

/-- The active lanes of an instruction (04 R76): those of the path, and where a predicate is given those in which it is 1. -/
def Active (c : Cur) (r : Ref) (m : LaneMask) : Prop :=
  (r = 0 ∧ m = c.mask) ∨
    ∃ v, Names c r .pred v ∧ ∀ k : Fin 32, m.has k.val = (c.mask.has k.val && (v.x.get k).getLsbD 0)

/-- An operand that is given names a value of its type; the field of one that is absent is 0 (04 R74). -/
def Operand (c : Cur) (given : Bool) (r : Ref) (t : Ty) (v : Value) : Prop :=
  if given then Names c r t v else r = 0 ∧ v = Value.void

/-- Does a lane of a wave hold a path (09 R201)? -/
def holdsPath (x : Site) (k : Fin 32) : Bool := decide (32 * x.w.wav + k.val < x.launch.lanes)

/-- What the lanes of a place hold (04 R77; 09 R201): in an active lane what P says, in an inactive one the pass-through, and
zero in a lane that holds no path. -/
def Lanewise (x : Site) (m : LaneMask) (v : Value) (pass : Fin 32 → Nat) (P : Fin 32 → Nat → Prop) : Prop :=
  ∀ k, if holdsPath x k then (if m.has k.val then P k (v.nat k) else v.nat k = pass k) else v.nat k = 0

/-- The instruction completes: from the state t its place is defined with a value of type T, whose lanes hold what P and the
pass-through say, and the wave stands after it. -/
def CompletesBy (r : Host.Outcome State Fault Refusal) (t : State) (x : Site) (opc : Nat) (T : Ty) (m : LaneMask)
    (pass : Fin 32 → Nat) (P : Fin 32 → Nat → Prop) : Prop :=
  ∃ v : Value, r = .next (t.completePlace x.w opc v []) ∧ v.ty = T ∧ Lanewise x m v pass P

/-- The instruction completes with a value of type T that holds `g k` in every lane k. -/
def CompletesAll (r : Host.Outcome State Fault Refusal) (t : State) (x : Site) (opc : Nat) (T : Ty) (g : Fin 32 → Nat) : Prop :=
  ∃ v : Value, r = .next (t.completePlace x.w opc v []) ∧ v.ty = T ∧ ∀ k, v.nat k = g k

/-- The instruction completes and defines nothing (04 R70). -/
def CompletesVoid (r : Host.Outcome State Fault Refusal) (t : State) (x : Site) (opc : Nat) : Prop :=
  r = .next (t.completePlace x.w opc Value.void [])

/-- A wave that enters a path in its d-th frame: no word waits any more for what places of that depth have left behind (log entry 59). -/
def atDepth (x : Wave) (d : Nat) : Wave :=
  { x with guse := x.guse.map fun e => if d ≤ e.1 then (0, e.2) else e
           vuse := x.vuse.filter fun e => e.1 < d }

/-- Of pending paths no two have one block number. -/
abbrev DistinctBlocks (ps : List Path) : Prop := (ps.map Path.block).Nodup

/-- The low w bits of a number, bit by bit: what a lane of w bits holds when its bit j is `b j`. -/
def HasBits (w : Nat) (b : Nat → Bool) (d : Nat) : Prop := d < 2 ^ w ∧ ∀ j < w, d.testBit j = b j

/-- The value of T that an exact integer is delivered as (06 R116): the one congruent to it, after the clamp of `.sat`. -/
def Delivers (sat : Bool) (t : Ty) (z : Int) (d : Nat) : Prop :=
  (d : Int) = (if sat then max (tyMin t) (min (tyMax t) z) else z) % (2 ^ t.bits : Nat)

/-- An instruction of 06 R119: its constructor and opcode, the types of its operands and their number, whether it takes `.sat`,
the type of its result, whether an inactive lane holds zero, and its F of the lane's patterns. -/
structure IntRow where
  con : Fields → Instr
  opc : Nat
  types : List Ty
  args : Nat
  sat : Bool
  res : Ty → Ty
  zero : Bool
  F : Ty → Nat → Nat → Nat → Int

/-- F on the exact values of a and b. -/
def onAB (F : Int → Int → Int) (t : Ty) (a b _ : Nat) : Int := F (toInt t a) (toInt t b)

/-- Byte k of a pattern, extended as the type says (06 R119, dp4). -/
def byteOf (t : Ty) (a k : Nat) : Int :=
  let b : Nat := a / 2 ^ (8 * k) % 256
  if t.signed && decide (128 ≤ b) then (b : Int) - 256 else b

/-- The table of 06 R119. -/
def intRows : List IntRow :=
  [{ con := .add, opc := 0x000, types := tyInt, args := 2, sat := true, res := id, zero := false, F := onAB (· + ·) },
   { con := .sub, opc := 0x001, types := tyInt, args := 2, sat := true, res := id, zero := false, F := onAB (· - ·) },
   { con := .mul, opc := 0x002, types := tyInt, args := 2, sat := true, res := id, zero := false, F := onAB (· * ·) },
   { con := .mulhi, opc := 0x003, types := tyInt, args := 2, sat := false, res := id, zero := false,
     F := fun t a b _ => (toInt t a * toInt t b).fdiv (2 ^ t.bits : Nat) },
   { con := .mulw, opc := 0x004, types := tyInt32, args := 2, sat := false, res := wideTy, zero := true, F := onAB (· * ·) },
   { con := .mad, opc := 0x005, types := tyInt, args := 3, sat := true, res := id, zero := false,
     F := fun t a b c => toInt t a * toInt t b + toInt t c },
   { con := .neg, opc := 0x008, types := tySigned, args := 1, sat := true, res := id, zero := false, F := onAB fun x _ => -x },
   { con := .abs, opc := 0x009, types := tySigned, args := 1, sat := true, res := id, zero := false,
     F := onAB fun x _ => if x < 0 then -x else x },
   { con := .min, opc := 0x00A, types := tyInt, args := 2, sat := false, res := id, zero := false,
     F := onAB fun x y => if x ≤ y then x else y },
   { con := .max, opc := 0x00B, types := tyInt, args := 2, sat := false, res := id, zero := false,
     F := onAB fun x y => if x ≤ y then y else x },
   { con := .dp4, opc := 0x01F, types := tyInt32, args := 3, sat := true, res := id, zero := false,
     F := fun t a b c => toInt t c + (byteOf t a 0 * byteOf t b 0 + byteOf t a 1 * byteOf t b 1 +
       byteOf t a 2 * byteOf t b 2 + byteOf t a 3 * byteOf t b 3) }]

/-- An instruction's constructor with its operation. -/
abbrev OpRow := (Fields → Instr) × Op

/-- The only things that a register operation changes beside its place: sticky status flags of its own wave, which it can set and
not clear (02 R23; 03 R45). -/
def OnlyFlags (s t : State) (w : WaveRef) : Prop := ∃ n m, t = s.modWave w fun x => { x with ieee := x.ieee ||| n, sli := x.sli ||| m }

/-- An operation completes from a state s1 that its reads of memory have led to: it defines its place with the value its meaning
gives, and changes nothing else but status flags of its wave. -/
def CompletesFrom (e : OpRow) (f : Fields) (s s1 : State) (x : Site) (fm : Form) (i : OpIn) : Prop :=
  ∃ t v, e.2.core i s = .done t v ∧ OnlyFlags s1 t x.w ∧
    exec (e.1 f) s = .next (t.completePlace x.w e.2.opc (placeValue fm i v) [])

/-- An operation completes as a register operation: it reads no memory. -/
def CompletesAs (e : OpRow) (f : Fields) (s : State) (x : Site) (fm : Form) (i : OpIn) : Prop := CompletesFrom e f s s x fm i

/-- Exponent and fraction widths of an IEEE format (02 R19). -/
def fltWidths (t : Ty) : Nat × Nat := if t == .f32 then (8, 23) else if t == .f16 then (5, 10) else (8, 7)

/-- Is a pattern a NaN, and is it one of the patterns that in() reads as a zero (02 R20-R22)? -/
def isNanBits (t : Ty) (x : Nat) : Prop :=
  x / 2 ^ (fltWidths t).2 % 2 ^ (fltWidths t).1 = 2 ^ (fltWidths t).1 - 1 ∧ x % 2 ^ (fltWidths t).2 ≠ 0

def isSubnormal (t : Ty) (x : Nat) : Prop :=
  x / 2 ^ (fltWidths t).2 % 2 ^ (fltWidths t).1 = 0 ∧ x % 2 ^ (fltWidths t).2 ≠ 0

/-- The canonical quiet NaN of a format (02 R22). -/
def canonNan (t : Ty) : Nat := if t == .f32 then 0x7FC00000 else if t == .f16 then 0x7E00 else 0x7FC0

/-- Is a modifier one of flush alone, and of a rounding code with or without flush (07 R146)? -/
def ftzOnly (md : BitVec 6) : Prop := md = 0 ∨ md = 8
def rdFtz (md : BitVec 6) : Prop := md.toNat % 8 = 0

/-! ## Float values in whole units (02 R20, R21; 07 R145-R152) -/

def signOf (t : Ty) (x : Nat) : Bool := x.testBit (t.bits - 1)

/-- Is a pattern finite, and is it an infinity? -/
def isFinite (t : Ty) (x : Nat) : Prop := x / 2 ^ (fltWidths t).2 % 2 ^ (fltWidths t).1 ≠ 2 ^ (fltWidths t).1 - 1
def isInfBits (t : Ty) (x : Nat) : Prop := ¬isFinite t x ∧ x % 2 ^ (fltWidths t).2 = 0

/-- The patterns of an infinity, of a zero, and of ±2^n for an n of the normal range. -/
def infOf (t : Ty) (neg : Bool) : Nat := (2 ^ (fltWidths t).1 - 1) * 2 ^ (fltWidths t).2 + if neg then 2 ^ (t.bits - 1) else 0
def zeroOf (t : Ty) (neg : Bool) : Nat := if neg then 2 ^ (t.bits - 1) else 0
def powOf (t : Ty) (neg : Bool) (n : Int) : Nat :=
  (n + (2 ^ ((fltWidths t).1 - 1) - 1 : Nat)).toNat * 2 ^ (fltWidths t).2 + zeroOf t neg

/-- A format's unit is its smallest subnormal, 2^-K: this K. -/
def unitExp (t : Ty) : Nat := (fltWidths t).2 + 2 ^ ((fltWidths t).1 - 1) - 2

/-- The value of a finite pattern in units, where subnormals are read as zeros or not (02 R21). -/
def units (t : Ty) (flush : Bool) (x : Nat) : Int :=
  let mb := (fltWidths t).2
  let e := x / 2 ^ mb % 2 ^ (fltWidths t).1
  let n : Nat := if e = 0 then (if flush then 0 else x % 2 ^ mb) else (2 ^ mb + x % 2 ^ mb) * 2 ^ (e - 1)
  if signOf t x then -n else n

/-- The largest finite value in units, and the least magnitude that rounds to an infinity to nearest. -/
def maxUnits (t : Ty) : Nat := (2 ^ ((fltWidths t).2 + 1) - 1) * 2 ^ (2 ^ (fltWidths t).1 - 3)
def overUnits (t : Ty) : Nat := (2 ^ ((fltWidths t).2 + 2) - 1) * 2 ^ (2 ^ (fltWidths t).1 - 4)

/-- A pattern d is the value of N / D units rounded by a rounding code (02 R21), where z is the sign of an exact zero, if it is said. -/
def Rounded (t : Ty) (rd : Nat) (N : Int) (D : Nat) (z : Option Bool) (d : Nat) : Prop :=
  let at_ (y : Nat) : Int := units t false y * D
  d < 2 ^ t.bits ∧ isFinite t d ∧ (N ≠ 0 → signOf t d = decide (N < 0)) ∧ (∀ b, N = 0 → z = some b → signOf t d = b) ∧
  (rd = 0 → ∀ y, isFinite t y → (at_ d - N).natAbs ≤ (at_ y - N).natAbs ∧
    (at_ y ≠ at_ d → (at_ d - N).natAbs = (at_ y - N).natAbs → d % 2 = 0)) ∧
  (rd = 1 → (at_ d).natAbs ≤ N.natAbs ∧ ∀ y, isFinite t y → (at_ y).natAbs ≤ N.natAbs → (at_ y).natAbs ≤ (at_ d).natAbs) ∧
  (rd = 2 → N ≤ at_ d ∧ ∀ y, isFinite t y → N ≤ at_ y → at_ d ≤ at_ y) ∧
  (rd = 3 → at_ d ≤ N ∧ ∀ y, isFinite t y → at_ y ≤ N → at_ y ≤ at_ d)

/-- A pattern d is the positive root of N / D square units rounded by a rounding code. -/
def RootRounded (t : Ty) (rd : Nat) (N D : Nat) (d : Nat) : Prop :=
  let v := units t false d
  d < 2 ^ (t.bits - 1) ∧ isFinite t d ∧
  (rd = 0 → ∀ y, isFinite t y → 0 ≤ units t false y →
    let w := units t false y
    (w < v → (v + w) * (v + w) * D ≤ 4 * N) ∧ (v < w → 4 * N ≤ (v + w) * (v + w) * D)) ∧
  ((rd = 1 ∨ rd = 3) → v * v * D ≤ N ∧
    ∀ y, isFinite t y → 0 ≤ units t false y → units t false y * units t false y * D ≤ N → units t false y ≤ v) ∧
  (rd = 2 → N ≤ v * v * D ∧
    ∀ y, isFinite t y → 0 ≤ units t false y → N ≤ units t false y * units t false y * D → v ≤ units t false y)

/-- A float operation of 07 R147 with an exact rational result: the number of its operands, the numerator and the denominator of the
result in units, from K and the operands in units, and the sign of an exact zero, from those and the operands' signs and whether zeros
round down. -/
structure FltRow where
  con : Fields → Instr
  op : Op
  args : Nat
  num : Nat → Int → Int → Int → Int
  den : Nat → Int → Int → Int → Nat
  zero : Int → Int → Int → Bool → Bool → Bool → Bool → Option Bool

def fltRows : List FltRow :=
  [{ con := .fadd, op := opFadd, args := 2, num := fun _ a b _ => a + b, den := fun _ _ _ _ => 1
     zero := fun a b _ sa sb _ down => some (if a = 0 ∧ b = 0 ∧ sa = sb then sa else down) },
   { con := .fsub, op := opFsub, args := 2, num := fun _ a b _ => a - b, den := fun _ _ _ _ => 1
     zero := fun a b _ sa sb _ down => some (if a = 0 ∧ b = 0 ∧ sa = !sb then sa else down) },
   { con := .fmul, op := opFmul, args := 2, num := fun _ a b _ => a * b, den := fun K _ _ _ => 2 ^ K
     zero := fun _ _ _ sa sb _ _ => some (sa ^^ sb) },
   { con := .fma, op := opFma, args := 3, num := fun K a b c => a * b + c * 2 ^ K, den := fun K _ _ _ => 2 ^ K
     zero := fun a b c sa sb sc down => some (if a * b = 0 ∧ c = 0 ∧ (sa ^^ sb) = sc then sc else down) },
   { con := .fdiv, op := opFdiv, args := 2, num := fun K a b _ => a * 2 ^ K * b.sign, den := fun _ _ b _ => b.natAbs
     zero := fun _ _ _ sa sb _ _ => some (sa ^^ sb) },
   { con := .frcp, op := opFrcp, args := 1, num := fun K a _ _ => 2 ^ (2 * K) * a.sign, den := fun _ a _ _ => a.natAbs
     zero := fun _ _ _ _ _ _ _ => none },
   { con := .flerp, op := opFlerp, args := 3, num := fun K a b c => a * 2 ^ K + c * (b - a), den := fun K _ _ _ => 2 ^ K
     zero := fun _ _ _ _ _ _ _ => none }]

/-- What the exact value N / D of an operation delivers: rounded where it lies within the finite range and is not flushed, an infinity
where it rounds beyond it to nearest, and a zero where it is flushed for certain. -/
def DeliversUnits (t : Ty) (rd : Nat) (flush : Bool) (N : Int) (D : Nat) (z : Option Bool) (d : Nat) : Prop :=
  let least := 2 ^ (fltWidths t).2 * D
  (N.natAbs ≤ maxUnits t * D → (flush = true → N = 0 ∨ least ≤ N.natAbs) → Rounded t rd N D z d) ∧
  (rd = 0 → overUnits t * D ≤ N.natAbs → d = infOf t (decide (N < 0))) ∧
  (flush = true → N ≠ 0 → 2 * N.natAbs ≤ least → d = zeroOf t (decide (N < 0)))

/-- The order of patterns that are no NaN: as values, −0 below +0 (07 R149). -/
def orderKey (t : Ty) (x : Nat) : Int := if signOf t x then -((x % 2 ^ (t.bits - 1) : Nat) : Int) - 1 else ((x % 2 ^ (t.bits - 1) : Nat) : Int)

/-- The values of special functions at infinities and zeros (07 R153): at −∞, at +∞, and at a zero of a sign. -/
def specialRows : List (OpRow × (Ty → Nat) × (Ty → Nat) × (Ty → Bool → Nat)) :=
  [((.fexp2, opFexp2), (zeroOf · false), (infOf · false), fun t _ => powOf t false 0),
   ((.fexp, opFexp), (zeroOf · false), (infOf · false), fun t _ => powOf t false 0),
   ((.flog2, opFlog2), canonNan, (infOf · false), fun t _ => infOf t true),
   ((.flog, opFlog), canonNan, (infOf · false), fun t _ => infOf t true),
   ((.fsin, opFsin), canonNan, canonNan, zeroOf), ((.fcos, opFcos), canonNan, canonNan, fun t _ => powOf t false 0),
   ((.ftanh, opFtanh), (powOf · true 0), (powOf · false 0), zeroOf),
   ((.fsigm, opFsigm), (zeroOf · false), (powOf · false 0), fun t _ => powOf t false (-1)),
   ((.fgelu, opFgelu), (zeroOf · true), (infOf · false), zeroOf), ((.fsilu, opFsilu), (zeroOf · true), (infOf · false), zeroOf)]

/-! ## SLI patterns by their fields (03 R42) -/

/-- Of n bits: zero, INV, and the largest magnitude of a sign. -/
def sliZero (n : Nat) : Nat := 2 ^ (n - 2)
def sliInv (n : Nat) : Nat := 2 ^ (n - 1) + 2 ^ (n - 2)
def sliMax (n : Nat) (neg : Bool) : Nat := 2 ^ (n - 2) - 1 + if neg then 2 ^ (n - 1) else 0

/-- A pattern with one bit inverted. -/
def flipBit (n k x d : Nat) : Prop := HasBits n (fun j => if j = k then !x.testBit j else x.testBit j) d

/-- The order of patterns that are not INV, as values: the magnitude grows with the level code and fraction, and falls with them on the
reciprocal side. -/
def sliRank (n x : Nat) : Int :=
  let low := x % 2 ^ (n - 2)
  let mag : Nat := if x.testBit (n - 2) then 2 ^ (n - 2) - low else 2 ^ (n - 2) + low
  if x = sliZero n then 0 else if x.testBit (n - 1) then -(mag : Int) else mag

/-! ## The tree of reductions (07 R172) -/

/-- Two nodes combined, where a node may be absent. -/
def treeComb (F : Nat → Nat → Nat) : Option Nat → Option Nat → Option Nat
  | some a, some b => some (F a b)
  | some a, none => some a
  | none, y => y

/-- Node k of level l over the lanes' values. -/
def treeNode (F : Nat → Nat → Nat) (leaf : Nat → Option Nat) : Nat → Nat → Option Nat
  | 0, k => leaf k
  | l + 1, k => treeComb F (treeNode F leaf l (2 * k)) (treeNode F leaf l (2 * k + 1))

/-- The prefix over lanes 0 to n - 1, from a level down, a base lane and what has been combined. -/
def treePrefix (F : Nat → Nat → Nat) (leaf : Nat → Option Nat) (n : Nat) : Nat → Nat → Option Nat → Option Nat
  | 0, _, acc => acc
  | l + 1, base, acc =>
    if n.testBit l then treePrefix F leaf n l (base + 2 ^ l) (treeComb F acc (treeNode F leaf l (base / 2 ^ l)))
    else treePrefix F leaf n l base acc

/-- The identity of an operation (07 R172). -/
def identOf (t : Ty) (op : Nat) : Nat :=
  if t ∈ tyInt then
    (if op = 1 then 1 else if op = 2 then (if t.signed then 2 ^ (t.bits - 1) - 1 else 2 ^ t.bits - 1)
     else if op = 3 then (if t.signed then 2 ^ (t.bits - 1) else 0) else if op = 4 then 2 ^ t.bits - 1 else 0)
  else if t ∈ tyFlt then
    (if op = 0 then 0 else if op = 1 then powOf t false 0 else infOf t (op == 3))
  else
    (if op = 0 then sliZero t.bits else if op = 1 then 0 else sliMax t.bits (op == 3))

/-- What a reduction of integer lanes delivers, as the operation of the whole list. -/
def Reduced (t : Ty) (op : Nat) (xs : List Nat) (d : Nat) : Prop :=
  (op = 0 → Delivers false t (xs.map (toInt t)).sum d) ∧ (op = 1 → Delivers false t (xs.map (toInt t)).prod d) ∧
  (op = 2 → xs ≠ [] → d ∈ xs ∧ ∀ v ∈ xs, toInt t d ≤ toInt t v) ∧ (op = 3 → xs ≠ [] → d ∈ xs ∧ ∀ v ∈ xs, toInt t v ≤ toInt t d) ∧
  (op = 4 → HasBits t.bits (fun j => xs.all fun v => v.testBit j) d) ∧
  (op = 5 → HasBits t.bits (fun j => xs.any fun v => v.testBit j) d) ∧
  (op = 6 → HasBits t.bits (fun j => decide ((xs.filter fun v => v.testBit j).length % 2 = 1)) d)

/-! ## The register operations, family by family -/

def rowsInteger : List OpRow :=
  [(.add, opAdd), (.sub, opSub), (.mul, opMul), (.mulhi, opMulhi), (.mulw, opMulw), (.mad, opMad), (.div, opDiv), (.rem, opRem),
   (.neg, opNeg), (.abs, opAbs), (.min, opMin), (.max, opMax), (.and, opAnd), (.or, opOr), (.xor, opXor), (.not, opNot),
   (.shl, opShl), (.shr, opShr), (.rot, opRot), (.popc, opPopc), (.clz, opClz), (.ctz, opCtz), (.brev, opBrev), (.bfx, opBfx),
   (.bfi, opBfi), (.cmp, opCmp), (.sel, opSel), (.ext, opExt), (.aoff, opAoff), (.adiff, opAdiff), (.dp4, opDp4)]

def rowsFloat : List OpRow :=
  [(.fadd, opFadd), (.fsub, opFsub), (.fmul, opFmul), (.fma, opFma), (.fdiv, opFdiv), (.fsqrt, opFsqrt), (.frsq, opFrsq),
   (.frcp, opFrcp), (.fmin, opFmin), (.fmax, opFmax), (.fneg, opFneg), (.fabs, opFabs), (.fcmp, opFcmp), (.fclass, opFclass),
   (.fexp2, opFexp2), (.flog2, opFlog2), (.fexp, opFexp), (.flog, opFlog), (.fsin, opFsin), (.fcos, opFcos), (.ftanh, opFtanh),
   (.fsigm, opFsigm), (.fgelu, opFgelu), (.fsilu, opFsilu), (.ffloor, opFfloor), (.fceil, opFceil), (.fround, opFround),
   (.ftrunc, opFtrunc), (.fcopys, opFcopys), (.fscale, opFscale), (.fdot2, opFdot2), (.flerp, opFlerp)]

def rowsSli : List OpRow :=
  [(.sliAdd, opSliAdd), (.sliSub, opSliSub), (.sliMul, opSliMul), (.sliDiv, opSliDiv), (.sliNeg, opSliNeg), (.sliAbs, opSliAbs),
   (.sliRcp, opSliRcp), (.sliCmp, opSliCmp), (.sliMin, opSliMin), (.sliMax, opSliMax), (.sliLvl, opSliLvl), (.sliSq, opSliSq)]

def rowsLane : List OpRow :=
  [(.shfl, opShfl), (.vote, opVote), (.scan, opScan), (.red, opRed), (.gtrans, opGtrans), (.bcast, opBcast), (.lsel, opLsel),
   (.tmask, opTmask), (.tsel, opTsel), (.tzero, opTzero), (.textr, opTextr), (.tins, opTins)]

/-- The operations that read a format half, and its table where its transform is 2 (07 R161, R162). -/
def rowsHalf : List OpRow := [(.qz, opQz), (.xscl, opXscl), (.dq, opDq)]

/-! ## Accesses (13) -/

/-- A load or store of 13 R268: its constructor, its operation, whether it stores, and the windows that it accepts (R266). -/
structure AccRow where
  con : Fields → Instr
  op : Op
  store : Bool
  wins : List Win

def rowsAccess : List AccRow :=
  [{ con := .ldG, op := opLdG, store := false, wins := [.glob] }, { con := .stG, op := opStG, store := true, wins := [.glob] },
   { con := .ldVa, op := opLdVa, store := false, wins := [.all, .die] },
   { con := .stVa, op := opStVa, store := true, wins := [.all, .die] }]

/-- The bytes of the size code that a load or store names (13 R268). -/
def accSize (i : OpIn) : Nat := 2 ^ (i.md % 8)

/-- A byte stands outside every span. -/
def OutsideSpans (sp : List (List (Nat × Nat))) (a : Nat) : Prop := ∀ ks ∈ sp, ∀ e ∈ ks, a < e.1 ∨ e.1 + e.2 ≤ a

/-- A loaded lane (13 R269): the bytes read, sign-extended for i32 and i64 and zero-extended otherwise. -/
def Loaded (t : Ty) (n : Nat) (bs : List Byte) (d : Nat) : Prop :=
  HasBits t.bits (fun j => if j < 8 * n then (ofLe bs).testBit j else t.signed && (ofLe bs).testBit (8 * n - 1)) d

/-- What lane k finds in a list that holds one thing for each active lane, in ascending lane order. -/
def OfLane {α : Type} (m : LaneMask) (xs : List α) (k : Fin 32) (y : α) : Prop := ∃ j : Nat, m.list[j]? = some k ∧ xs[j]? = some y

/-- An atomic of 13 R274: its constructor, its operation, its types, and the new value from its type, the old one, b and c. -/
structure AtomRow where
  con : Fields → Instr
  op : Op
  F : Ty → Nat → Nat → Nat → Nat

def rowsAtomic : List AtomRow :=
  [{ con := .atomAdd, op := opAtomAdd, F := fun t o b _ => wrapTo t (toInt t o + toInt t b) },
   { con := .atomMin, op := opAtomMin, F := fun t o b _ => wrapTo t (if toInt t o ≤ toInt t b then toInt t o else toInt t b) },
   { con := .atomMax, op := opAtomMax, F := fun t o b _ => wrapTo t (if toInt t o ≤ toInt t b then toInt t b else toInt t o) },
   { con := .atomAnd, op := opAtomAnd, F := fun _ o b _ => o &&& b },
   { con := .atomOr, op := opAtomOr, F := fun _ o b _ => o ||| b },
   { con := .atomXor, op := opAtomXor, F := fun _ o b _ => o ^^^ b },
   { con := .atomXchg, op := opAtomXchg, F := fun _ _ b _ => b },
   { con := .atomCas, op := opAtomCas, F := fun _ o b c => if o = b then c else o },
   { con := .atomFadd, op := opAtomFadd, F := fun _ o b _ => addF32 o b }]

/-! ## Every operation that runs at a place by its operand form -/

/-- The operations of no table above, first half. -/
def rowsOtherA : List OpRow :=
  [(.vaddr, opVaddr), (.fstat, opFstat), (.fclr, opFclr), (.sliStat, opSliStat), (.sliClr, opSliClr), (.cvt, opCvt),
   (.bitc, opBitc), (.pkn, opPkn), (.upkn, opUpkn), (.hadm, opHadm), (.yield, opYield), (.trap, opTrap),
   (.trapinfo, opTrapinfo), (.ldG, opLdG), (.stG, opStG), (.ldVa, opLdVa), (.stVa, opStVa), (.ldFrag, opLdFrag),
   (.stTile, opStTile), (.pfG, opPfG), (.atomAdd, opAtomAdd), (.atomMin, opAtomMin), (.atomMax, opAtomMax),
   (.atomAnd, opAtomAnd), (.atomOr, opAtomOr), (.atomXor, opAtomXor), (.atomXchg, opAtomXchg), (.atomCas, opAtomCas),
   (.atomFadd, opAtomFadd), (.barB, opBarB), (.barG, opBarG), (.barGLv, opBarGLv), (.wait, opWait), (.xfence, opXfence),
   (.cdrain, opCdrain), (.gred, opGred), (.cpyBlk, opCpyBlk), (.cpyGrp, opCpyGrp), (.cpyW, opCpyW),
   (.kvcommit, opKvcommit), (.cpyFill, opCpyFill), (.mma, opMma), (.mmaL2, opMmaL2), (.fmtld, opFmtld), (.tcvt, opTcvt),
   (.rowTop, opRowTop)]

/-- The operations of no table above, second half. -/
def rowsOtherB : List OpRow :=
  [(.rowHeart, opRowHeart), (.rowBase, opRowBase), (.rowPace, opRowPace), (.rowSync, opRowSync), (.rowCfg, opRowCfg),
   (.tanc, opTanc), (.gear, opGear), (.gearRd, opGearRd), (.clk, opClk), (.pace, opPace), (.boostReq, opBoost),
   (.boostRel, opBoost), (.launch, opLaunch), (.trig, opTrig), (.lwait, opLwait), (.ctxid, opCtxid), (.prio, opPrio),
   (.fabLd, opFabLd), (.fabSt, opFabSt), (.fabAtom, opFabAtom), (.lkPark, opLkPark), (.lkWake, opLkWake),
   (.lkHeat, opLkHeat), (.lkStatSt, opLkStat), (.lkStatPd, opLkStat), (.lkThr, opLkThr), (.trcMark, opTrcMark),
   (.trcOn, opTrcOn), (.trcOff, opTrcOff), (.dbgBrk, opDbgBrk), (.dbgStop, opDbgStop), (.cntRd, opCntRd),
   (.dbgUndo, opDbgUndo), (.sysCap, opSysCap), (.sysFloor, opSysFloor), (.sysRetire, opSysRetire),
   (.sysCkpt, opSysCkpt), (.sysRsync, opSysRsync), (.sysMigr, opSysMigr), (.sysL3cls, opSysL3cls),
   (.sysWdog, opSysWdog), (.sysCtxMk, opSysCtx), (.sysCtxRet, opSysCtx), (.sysCtxTile, opSysCtx),
   (.sysCtxDbg, opSysCtx), (.sysQ, opSysQ)]

/-- Every instruction whose fields name operands by a form. -/
def rowsAll : List OpRow := rowsInteger ++ rowsFloat ++ rowsSli ++ rowsLane ++ rowsHalf ++ rowsOtherA ++ rowsOtherB

end Sys2Proof
end

