-- ==== Sys2Proof/Certificates/Slice0/Obligations.lean ====
section
/-!
DEFINITION. What the model is claimed to do: one proposition for each statement of OBLIGATIONS.json.
-/

open Sys2Proof Sys2Proof.Machine

/-! ## Integer and address instructions (06) -/

/-- 06 R119: the exact result of each active lane, wrapped or saturated once. -/
def Obligations.IntegerArithmetic : Prop :=
  ∀ e ∈ intRows, ∀ (s : State) (x : Site) (fr : Frame) (c : Cur) (f : Fields) (m : LaneMask) (T : Ty) (va vb vc : Value),
    AtPlace s x fr c → T ∈ e.types → f.typ.toNat = T.code → (f.md = 0 ∨ e.sat = true ∧ f.md = 32) →
    Names c f.a T va → Operand c (decide (2 ≤ e.args)) f.b T vb → Operand c (decide (3 ≤ e.args)) f.c T vc → Active c f.p m →
    CompletesBy (exec (e.con f) s) s x e.opc (e.res T) m (if e.zero then fun _ => 0 else va.nat)
      fun k => Delivers (f.md == 32) (e.res T) (e.F T (va.nat k) (vb.nat k) (vc.nat k))

/-- 06 R119, R120: division and remainder, which never trap and set no flag. -/
def Obligations.DivisionAndRemainder : Prop :=
  ∀ (s : State) (x : Site) (fr : Frame) (c : Cur) (f : Fields) (m : LaneMask) (T : Ty) (va vb : Value),
    AtPlace s x fr c → T ∈ tyInt → f.typ.toNat = T.code → Names c f.a T va → Names c f.b T vb → f.c = 0 → Active c f.p m →
    ((f.md = 0 ∨ f.md = 32) →
      CompletesBy (exec (.div f) s) s x 0x006 T m va.nat fun k d =>
        let a := toInt T (va.nat k)
        let b := toInt T (vb.nat k)
        let half := 2 ^ (T.bits - 1)
        (b ≠ 0 → Delivers (f.md == 32) T (a.tdiv b) d) ∧
        (b = 0 → T.signed = false → d = 2 ^ T.bits - 1) ∧
        (b = 0 → T.signed = true → 0 ≤ a → d = half - 1) ∧
        (b = 0 → T.signed = true → a < 0 → d = half) ∧
        (T.signed = true → a = -half → b = -1 → d = if f.md == 32 then half - 1 else half)) ∧
    (f.md = 0 →
      CompletesBy (exec (.rem f) s) s x 0x007 T m va.nat fun k d =>
        let a := toInt T (va.nat k)
        let b := toInt T (vb.nat k)
        (b ≠ 0 → Delivers false T (a - b * a.tdiv b) d) ∧
        (b = 0 → d = va.nat k % 2 ^ T.bits) ∧
        (T.signed = true → a = -(2 ^ (T.bits - 1)) → b = -1 → d = 0))

/-- 06 R121: the bitwise and counting instructions, bit by bit. -/
def Obligations.BitsAndCounts : Prop :=
  ∀ (s : State) (x : Site) (fr : Frame) (c : Cur) (f : Fields) (m : LaneMask) (T : Ty) (va : Value),
    AtPlace s x fr c → T ∈ Ty.pred :: tyInt → f.typ.toNat = T.code → f.md = 0 → Names c f.a T va → f.c = 0 → Active c f.p m →
    (∀ vb, Names c f.b T vb →
      CompletesBy (exec (.and f) s) s x 0x00C T m va.nat
          (fun k => HasBits T.bits fun j => (va.nat k).testBit j && (vb.nat k).testBit j) ∧
      CompletesBy (exec (.or f) s) s x 0x00D T m va.nat
          (fun k => HasBits T.bits fun j => (va.nat k).testBit j || (vb.nat k).testBit j) ∧
      CompletesBy (exec (.xor f) s) s x 0x00E T m va.nat
          (fun k => HasBits T.bits fun j => (va.nat k).testBit j != (vb.nat k).testBit j)) ∧
    (f.b = 0 →
      CompletesBy (exec (.not f) s) s x 0x00F T m va.nat (fun k => HasBits T.bits fun j => !(va.nat k).testBit j) ∧
      (T ≠ .pred →
        CompletesBy (exec (.popc f) s) s x 0x013 .n32 m (fun _ => 0)
            (fun k d => d = ((List.range T.bits).filter fun j => (va.nat k).testBit j).length) ∧
        CompletesBy (exec (.clz f) s) s x 0x014 .n32 m (fun _ => 0)
            (fun k d => d ≤ T.bits ∧ (∀ j < T.bits, T.bits ≤ j + d → (va.nat k).testBit j = false) ∧
              (d < T.bits → (va.nat k).testBit (T.bits - 1 - d) = true)) ∧
        CompletesBy (exec (.ctz f) s) s x 0x015 .n32 m (fun _ => 0)
            (fun k d => d ≤ T.bits ∧ (∀ j < d, (va.nat k).testBit j = false) ∧
              (d < T.bits → (va.nat k).testBit d = true)) ∧
        CompletesBy (exec (.brev f) s) s x 0x016 T m va.nat
            (fun k => HasBits T.bits fun j => (va.nat k).testBit (T.bits - 1 - j))))

/-- 06 R122: shifts by the whole count, and rotations by the count modulo the width. -/
def Obligations.ShiftsAndRotations : Prop :=
  ∀ (s : State) (x : Site) (fr : Frame) (c : Cur) (f : Fields) (m : LaneMask) (T : Ty) (va vb : Value),
    AtPlace s x fr c → T ∈ tyInt → f.typ.toNat = T.code → Names c f.a T va → Names c f.b .n32 vb → f.c = 0 → Active c f.p m →
    ((f.md = 0 ∨ f.md = 32) →
      CompletesBy (exec (.shl f) s) s x 0x010 T m va.nat
        fun k => Delivers (f.md == 32) T (toInt T (va.nat k) * 2 ^ vb.nat k)) ∧
    (f.md = 0 →
      CompletesBy (exec (.shr f) s) s x 0x011 T m va.nat
        fun k => Delivers false T ((toInt T (va.nat k)).fdiv (2 ^ vb.nat k))) ∧
    (f.md = 0 →
      CompletesBy (exec (.rot f) s) s x 0x012 T m va.nat
        fun k => HasBits T.bits fun j => (va.nat k).testBit ((j + (T.bits - vb.nat k % T.bits)) % T.bits)) ∧
    (f.md = 1 →
      CompletesBy (exec (.rot f) s) s x 0x012 T m va.nat
        fun k => HasBits T.bits fun j => (va.nat k).testBit ((j + vb.nat k % T.bits) % T.bits))

/-- 06 R123: field extraction and insertion, bit by bit. -/
def Obligations.BitFields : Prop :=
  ∀ (s : State) (x : Site) (fr : Frame) (c : Cur) (f : Fields) (m : LaneMask) (T : Ty) (va : Value),
    AtPlace s x fr c → T ∈ tyInt → f.typ.toNat = T.code → f.md = 0 → Names c f.a T va → Active c f.p m →
    (∀ g, Names c f.b .n32 g → f.c = 0 →
      CompletesBy (exec (.bfx f) s) s x 0x017 T m va.nat fun k =>
        let pos := min (g.nat k % 256) T.bits
        let len := min (g.nat k / 256 % 256) T.bits
        let ext (j : Nat) : Bool := if j < T.bits then (va.nat k).testBit j else T.signed && (va.nat k).testBit (T.bits - 1)
        HasBits T.bits fun j => if j < len then ext (pos + j) else T.signed && decide (0 < len) && ext (pos + len - 1)) ∧
    (∀ vb g, Names c f.b T vb → Names c f.c .n32 g →
      CompletesBy (exec (.bfi f) s) s x 0x018 T m va.nat fun k =>
        let pos := min (g.nat k % 256) T.bits
        let len := min (g.nat k / 256 % 256) T.bits
        HasBits T.bits fun j =>
          if pos ≤ j ∧ j < min (pos + len) T.bits then (vb.nat k).testBit (j - pos) else (va.nat k).testBit j)

/-- 06 R124, R125, R126: comparison, selection and width change. -/
def Obligations.CompareSelectExtend : Prop :=
  ∀ (s : State) (x : Site) (fr : Frame) (c : Cur) (f : Fields) (m : LaneMask) (T : Ty) (va : Value),
    AtPlace s x fr c → f.typ.toNat = T.code → Active c f.p m →
    (∀ vb, T ∈ tyCmp → Names c f.a T va → Names c f.b T vb → f.c = 0 → (f.md.toNat ≤ 5 ∧ (T = .pred → f.md.toNat ≤ 1)) →
      CompletesBy (exec (.cmp f) s) s x 0x019 .pred m (fun _ => 0) fun k d =>
        let p := toInt T (va.nat k)
        let q := toInt T (vb.nat k)
        (d = 0 ∨ d = 1) ∧
        (d = 1 ↔ (f.md.toNat = 0 ∧ p = q) ∨ (f.md.toNat = 1 ∧ p ≠ q) ∨ (f.md.toNat = 2 ∧ p < q) ∨ (f.md.toNat = 3 ∧ p ≤ q) ∨
          (f.md.toNat = 4 ∧ q < p) ∨ (f.md.toNat = 5 ∧ q ≤ p))) ∧
    (T ∈ tyCmp → (5 < f.md.toNat ∨ T = .pred ∧ 1 < f.md.toNat) →
      exec (.cmp f) s = .next (s.takeReserved x c (wordOf 0x019#9 f) .pred)) ∧
    (∀ vb vc, T ∈ tySel → Names c f.a T va → Names c f.b T vb → Names c f.c .pred vc → f.md = 0 →
      CompletesBy (exec (.sel f) s) s x 0x01A T m va.nat fun k d =>
        (vc.nat k = 1 → d = va.nat k % 2 ^ T.bits) ∧ (vc.nat k = 0 → d = vb.nat k % 2 ^ T.bits)) ∧
    (∀ vc U, T ∈ tySel → Names c f.c U vc → U ≠ .pred →
      exec (.sel f) s = .next (s.takeReserved x c (wordOf 0x01A#9 f) T)) ∧
    (∀ U, T ∈ tyExt → U ∈ [Ty.pred, .i32, .n32, .i64, .n64, .addr] → Names c f.a U va → f.b = 0 → f.c = 0 →
      (f.md = 0 ∨ f.md = 32) →
      CompletesBy (exec (.ext f) s) s x 0x01B T m (fun _ => 0) fun k => Delivers (f.md == 32) T (toInt U (va.nat k)))

/-- 06 R127, R128: address arithmetic within the 56-bit space, and the vault windows. -/
def Obligations.Addresses : Prop :=
  ∀ (s : State) (x : Site) (fr : Frame) (c : Cur) (f : Fields) (m : LaneMask),
    AtPlace s x fr c → Active c f.p m →
    (∀ va vb U, f.typ.toNat = Ty.addr.code → f.md.toNat ≤ 4 → Names c f.a .addr va → U ∈ [Ty.i32, .i64] → Names c f.b U vb →
      f.c = 0 →
      CompletesBy (exec (.aoff f) s) s x 0x01C .addr m va.nat fun k d =>
        ((d % 2 ^ 56 : Nat) : Int) = (((va.nat k % 2 ^ 56 : Nat) : Int) + toInt U (vb.nat k) * 2 ^ f.md.toNat) % 2 ^ 56 ∧
        d / 2 ^ 56 = va.nat k / 2 ^ 56 % 256) ∧
    (4 < f.md.toNat →
      (f.typ.toNat = Ty.addr.code → exec (.aoff f) s = .next (s.takeReserved x c (wordOf 0x01C#9 f) .addr)) ∧
      (f.typ.toNat = Ty.i64.code → exec (.adiff f) s = .next (s.takeReserved x c (wordOf 0x01D#9 f) .i64))) ∧
    (∀ va vb, f.typ.toNat = Ty.i64.code → f.md.toNat ≤ 4 → Names c f.a .addr va → Names c f.b .addr vb → f.c = 0 →
      CompletesBy (exec (.adiff f) s) s x 0x01D .i64 m (fun _ => 0) fun k =>
        Delivers false .i64 ((((va.nat k % 2 ^ 56 : Nat) : Int) - ((vb.nat k % 2 ^ 56 : Nat) : Int)).fdiv (2 ^ f.md.toNat))) ∧
    (∀ va vb vc, f.typ.toNat = Ty.addr.code → f.md = 0 → Names c f.a .n32 va → Names c f.b .n32 vb → Names c f.c .n32 vc →
      let bad (k : Fin 32) : Prop :=
        7 < va.nat k ∨ (if va.nat k = 2 ∨ va.nat k = 5 then 16 else 24) ≤ vb.nat k ∨ 2 ^ 24 ≤ vc.nat k
      ((∀ k, m.has k.val = true → ¬bad k) →
        CompletesBy (exec (.vaddr f) s) s x 0x01E .addr m (fun _ => 0) fun k d =>
          d = 0xFFFFFE * 2 ^ 32 + va.nat k * 2 ^ 29 + vb.nat k * 2 ^ 24 + vc.nat k) ∧
      ((∃ k, m.has k.val = true ∧ bad k) → exec (.vaddr f) s = .next (s.takeParkTrap x m 4 (Lanes.all 0)))) ∧
    (∀ vc, f.typ.toNat = Ty.addr.code → f.md = 1 → f.a = 0 → f.b = 0 → Names c f.c .n32 vc →
      ((∀ k, m.has k.val = true → vc.nat k < 2 ^ 24) →
        CompletesBy (exec (.vaddr f) s) s x 0x01E .addr m (fun _ => 0) fun k d => d = 0xFFFFFF * 2 ^ 32 + vc.nat k) ∧
      ((∃ k, m.has k.val = true ∧ 2 ^ 24 ≤ vc.nat k) → exec (.vaddr f) s = .next (s.takeParkTrap x m 4 (Lanes.all 0))))

/-! ## Constants, parameters and identifiers (04) -/

/-- 04 R78-R81: what `const`, `constw`, `param` and `id` define in every lane, and when their words are illegal. -/
def Obligations.ConstantsAndIdentifiers : Prop :=
  ∀ (s : State) (x : Site) (fr : Frame) (c : Cur) (f : Fields) (T : Ty),
    AtPlace s x fr c → f.typ.toNat = T.code →
    (T ∈ tyConst → f.md = 0 → f.p = 0 →
      let I := f.imm33.toNat
      (T ∈ [Ty.pred] → I < 2 → CompletesAll (exec (.const f) s) s x 0x020 T fun _ => I) ∧
      (T ∈ [Ty.i32, .n32, .f32, .sli32] → I < 2 ^ 32 → CompletesAll (exec (.const f) s) s x 0x020 T fun _ => I) ∧
      (T ∈ [Ty.f16, .bf16, .sli16] → I < 2 ^ 16 → CompletesAll (exec (.const f) s) s x 0x020 T fun _ => I) ∧
      (T ∈ [Ty.n64, .addr] → CompletesAll (exec (.const f) s) s x 0x020 T fun _ => I) ∧
      (T = .i64 → CompletesAll (exec (.const f) s) s x 0x020 T fun _ => if f.imm33.msb then 2 ^ 64 - 2 ^ 33 + I else I) ∧
      (T = .pred ∧ 2 ≤ I ∨ T ∈ [Ty.i32, .n32, .f32, .sli32] ∧ 2 ^ 32 ≤ I ∨ T ∈ [Ty.f16, .bf16, .sli16] ∧ 2 ^ 16 ≤ I →
        exec (.const f) s = .next (s.takeReserved x c (wordOf 0x020#9 f) T))) ∧
    (T ∈ tyExt →
      (f.md.toNat ≤ 20 →
        CompletesAll (exec (.constw f) s) s x 0x021 T fun _ => f.imm44.toNat * 2 ^ f.md.toNat % 2 ^ T.bits) ∧
      (20 < f.md.toNat → exec (.constw f) s = .next (s.takeReserved x c (wordOf 0x021#9 f) T))) ∧
    (T ∈ tyParam → f.md = 0 → f.a = 0 → f.p = 0 →
      let off := f.off22.toNat
      let n := T.bits / 8
      (off % n = 0 → off + n ≤ x.launch.params.length →
        CompletesAll (exec (.param f) s) s x 0x022 T fun _ => ofLe ((x.launch.params.drop off).take n)) ∧
      (off % n ≠ 0 → exec (.param f) s = .next (s.takeParkTrap x c.mask 3 (Lanes.all 0))) ∧
      (off % n = 0 → x.launch.params.length < off + n → exec (.param f) s = .next (s.takeParkTrap x c.mask 4 (Lanes.all 0)))) ∧
    (f.a = 0 → f.b = 0 → f.c = 0 → f.p = 0 →
      (f.md = 4 → T = .n64 → CompletesAll (exec (.id f) s) s x 0x023 T fun _ => x.launch.nblock % 2 ^ 64) ∧
      (T = .n32 →
        (f.md = 0 → CompletesAll (exec (.id f) s) s x 0x023 T fun k => k.val) ∧
        (f.md = 1 → CompletesAll (exec (.id f) s) s x 0x023 T fun _ => x.w.wav % 2 ^ 32) ∧
        (f.md = 2 → CompletesAll (exec (.id f) s) s x 0x023 T fun _ => (x.launch.lanes + 31) / 32 % 2 ^ 32) ∧
        (f.md = 3 → CompletesAll (exec (.id f) s) s x 0x023 T fun _ => x.w.blk % 2 ^ 32) ∧
        (f.md = 17 → CompletesAll (exec (.id f) s) s x 0x023 T fun _ => x.block.tile % 2 ^ 32) ∧
        (f.md = 18 → CompletesAll (exec (.id f) s) s x 0x023 T fun _ => x.block.die % 2 ^ 32) ∧
        (f.md = 19 → CompletesAll (exec (.id f) s) s x 0x023 T fun _ => x.launch.ctx % 2 ^ 32) ∧
        ∀ k < 4,
          let isIn (g : Nat) : Bool := (x.launch.groups[g]?).any fun gr => decide (x.w.blk ∈ gr.members)
          (∀ g gr, x.launch.groups[g]? = some gr → x.w.blk ∈ gr.members → ((List.range g).filter isIn).length = k →
            (f.md.toNat = 5 + k → CompletesAll (exec (.id f) s) s x 0x023 T fun _ => g % 2 ^ 32) ∧
            (f.md.toNat = 9 + k →
              CompletesAll (exec (.id f) s) s x 0x023 T fun _ => (gr.members.filter fun m => m < x.w.blk).length % 2 ^ 32) ∧
            (f.md.toNat = 13 + k → CompletesAll (exec (.id f) s) s x 0x023 T fun _ => gr.members.length % 2 ^ 32)) ∧
          (((List.range x.launch.groups.length).filter isIn).length ≤ k →
            (f.md.toNat = 5 + k ∨ f.md.toNat = 9 + k → CompletesAll (exec (.id f) s) s x 0x023 T fun _ => 2 ^ 32 - 1) ∧
            (f.md.toNat = 13 + k → CompletesAll (exec (.id f) s) s x 0x023 T fun _ => 0)))) ∧
    ((19 < f.md.toNat ∨ T ≠ (if f.md = 4 then Ty.n64 else .n32) ∨ f.a ≠ 0 ∨ f.b ≠ 0 ∨ f.c ≠ 0 ∨ f.p ≠ 0) →
      exec (.id f) s = .next (s.takeReserved x c (wordOf 0x023#9 f) (if T.code ≤ 11 then T else .void)))

/-! ## Register operations as a whole (06, 07, 08) -/

/-- 04 R82, R83; 06 R119-R127; 03 R45; 07 R145-R157, R168-R173; 08 R186-R198: an integer, vector float or SLI operation, a lane
exchange or reduction, or an operation on tiles and masks, whose fields fit its form, completes whatever its operands' values; beside its
place, only status flags of its own wave can change. -/
def Obligations.RegisterOpsComplete : Prop :=
  ∀ e ∈ rowsInteger ++ rowsFloat ++ rowsSli ++ rowsLane, ∀ (f : Fields) (s : State) (x : Site) (fr : Frame) (c : Cur) (fm : Form)
    (i : OpIn), AtPlace s x fr c → Fits e.2 f x c fm i → CompletesAs e f s x fm i

/-- 07 R159-R166: conversions and quantisation: which complete on their operands alone, which after the read of their table; and
the traps of an illegal pair of types and of a format that is not listed. -/
def Obligations.ConversionOpsComplete : Prop :=
  ∀ (f : Fields) (s : State) (x : Site) (fr : Frame) (c : Cur) (fm : Form) (i : OpIn), AtPlace s x fr c →
    (Fits opCvt f x c fm i → CompletesAs (.cvt, opCvt) f s x fm i) ∧
    (∀ T S va, T ∈ tyCvt → f.typ.toNat = T.code → Names c f.a S va → cvtOk S T (modRd f.md.toNat) (modFtz f.md.toNat) = false →
      exec (.cvt f) s = .next (s.takeReserved x c (wordOf 0x0A0#9 f) T)) ∧
    (∀ e ∈ ([(.bitc, opBitc), (.pkn, opPkn), (.upkn, opUpkn)] : List OpRow), Fits e.2 f x c fm i → CompletesAs e f s x fm i) ∧
    (∀ e ∈ rowsHalf, Fits e.2 f x c fm i →
      (∀ s1 tab, i.half.fmt ≤ 8 → s.readTable i.x i.half = .ok (s1, tab) → i.mask ≠ 0 → CompletesFrom e f s s1 x fm i) ∧
      (i.mask = 0 → CompletesAs e f s x fm i) ∧
      (8 < i.half.fmt → i.mask ≠ 0 → exec (e.1 f) s = .next (s.takeParkTrap x i.mask 2 (Lanes.all 0)))) ∧
    (Fits opHadm f x c fm i →
      (i.half.xform = 1 → CompletesAs (.hadm, opHadm) f s x fm i) ∧
      (∀ s1 tab, i.half.xform ≠ 1 → s.readTable i.x i.half = .ok (s1, tab) → i.mask ≠ 0 →
        CompletesFrom (.hadm, opHadm) f s s1 x fm i))

/-! ## Float and SLI results (07) -/

/-- 02 R20-R22; 07 R147: the arithmetic operations on finite operands compute the exact value and round it once; their roots, their
invalid operands, and division by zero. -/
def Obligations.FloatArithmetic : Prop :=
  ∀ (s : State) (x : Site) (fr : Frame) (c : Cur) (f : Fields) (m : LaneMask), AtPlace s x fr c → Active c f.p m → rdFtz f.md →
    let rd := f.md.toNat / 16
    let ftz := decide (f.md.toNat / 8 % 2 = 1)
    (∀ (T : Ty) (va : Value), T ∈ tyFlt → f.typ.toNat = T.code → Names c f.a T va →
      let flush := ftz || T == .bf16
      let K := unitExp T
      let u (v : Value) (k : Fin 32) : Int := units T flush (v.nat k)
      let sg (v : Value) (k : Fin 32) : Bool := signOf T (v.nat k)
      (∀ e ∈ fltRows, ∀ vb vc, Operand c (decide (2 ≤ e.args)) f.b T vb → Operand c (decide (3 ≤ e.args)) f.c T vc →
        ∃ t, OnlyFlags s t x.w ∧ CompletesBy (exec (e.con f) s) t x e.op.opc T m va.nat fun k d =>
          isFinite T (va.nat k) → isFinite T (vb.nat k) → isFinite T (vc.nat k) → e.den K (u va k) (u vb k) (u vc k) ≠ 0 →
          DeliversUnits T rd flush (e.num K (u va k) (u vb k) (u vc k)) (e.den K (u va k) (u vb k) (u vc k))
            (e.zero (u va k) (u vb k) (u vc k) (sg va k) (sg vb k) (sg vc k) (rd == 3)) d) ∧
      (∀ vb, Names c f.b .i32 vb → f.c = 0 →
        ∃ t, OnlyFlags s t x.w ∧ CompletesBy (exec (.fscale f) s) t x 0x05D T m va.nat fun k d =>
          let n := toInt .i32 (vb.nat k)
          isFinite T (va.nat k) → vb.nat k < 2 ^ 32 →
            DeliversUnits T rd flush (u va k * 2 ^ n.toNat) (2 ^ (-n).toNat) (some (sg va k)) d) ∧
      (f.b = 0 → f.c = 0 →
        (∃ t, OnlyFlags s t x.w ∧ CompletesBy (exec (.fsqrt f) s) t x 0x045 T m va.nat fun k d =>
          (isFinite T (va.nat k) →
            (0 < u va k → RootRounded T rd ((u va k).toNat * 2 ^ K) 1 d) ∧ (u va k = 0 → d = zeroOf T (sg va k)) ∧
            (u va k < 0 → d = canonNan T)) ∧
          (isInfBits T (va.nat k) → d = if sg va k then canonNan T else infOf T false)) ∧
        (∃ t, OnlyFlags s t x.w ∧ CompletesBy (exec (.frsq f) s) t x 0x046 T m va.nat fun k d =>
          (isFinite T (va.nat k) →
            (0 < u va k → RootRounded T rd (2 ^ (3 * K)) (u va k).toNat d) ∧ (u va k = 0 → d = infOf T (sg va k)) ∧
            (u va k < 0 → d = canonNan T)) ∧
          (isInfBits T (va.nat k) → d = if sg va k then canonNan T else zeroOf T false)) ∧
        (∃ t, OnlyFlags s t x.w ∧ CompletesBy (exec (.frcp f) s) t x 0x047 T m va.nat fun k d =>
          (isFinite T (va.nat k) → u va k = 0 → d = infOf T (sg va k)) ∧ (isInfBits T (va.nat k) → d = zeroOf T (sg va k)))) ∧
      (∀ vb, Names c f.b T vb → f.c = 0 →
        let inf (v : Value) (k : Fin 32) : Prop := isInfBits T (v.nat k)
        let zer (v : Value) (k : Fin 32) : Prop := isFinite T (v.nat k) ∧ u v k = 0
        (∃ t, OnlyFlags s t x.w ∧ CompletesBy (exec (.fadd f) s) t x 0x040 T m va.nat fun k d =>
          inf va k → inf vb k → d = if sg va k = sg vb k then infOf T (sg va k) else canonNan T) ∧
        (∃ t, OnlyFlags s t x.w ∧ CompletesBy (exec (.fsub f) s) t x 0x041 T m va.nat fun k d =>
          inf va k → inf vb k → d = if sg va k = sg vb k then canonNan T else infOf T (sg va k)) ∧
        (∃ t, OnlyFlags s t x.w ∧ CompletesBy (exec (.fmul f) s) t x 0x042 T m va.nat fun k d =>
          (inf va k ∧ zer vb k ∨ zer va k ∧ inf vb k → d = canonNan T) ∧
          (inf va k → inf vb k → d = infOf T (sg va k ^^ sg vb k))) ∧
        (∃ t, OnlyFlags s t x.w ∧ CompletesBy (exec (.fdiv f) s) t x 0x044 T m va.nat fun k d =>
          (zer va k ∧ zer vb k ∨ inf va k ∧ inf vb k → d = canonNan T) ∧
          (isFinite T (va.nat k) → ¬zer va k → zer vb k → d = infOf T (sg va k ^^ sg vb k))))) ∧
    (∀ (T : Ty) (va vb vc : Value), T ∈ [Ty.f16, .bf16] → f.typ.toNat = T.code → Names c f.a .n32 va → Names c f.b .n32 vb →
      Names c f.c .f32 vc →
      ∃ t, OnlyFlags s t x.w ∧ CompletesBy (exec (.fdot2 f) s) t x 0x05E .f32 m vc.nat fun k d =>
        let lo (v : Value) : Nat := v.nat k % 65536
        let hi (v : Value) : Nat := v.nat k / 65536
        let u (n : Nat) : Int := units T (ftz || T == .bf16) n
        let dot := u (lo va) * u (lo vb) + u (hi va) * u (hi vb)
        let z := units .f32 ftz (vc.nat k)
        isFinite T (lo va) → isFinite T (lo vb) → isFinite T (hi va) → isFinite T (hi vb) → isFinite .f32 (vc.nat k) →
          (T = .f16 → DeliversUnits .f32 rd ftz (z + dot * 2 ^ 101) 1 none d) ∧
          (T = .bf16 → DeliversUnits .f32 rd ftz (z * 2 ^ 117 + dot) (2 ^ 117) none d))

/-- 02 R22; 07 R147-R153: a NaN operand gives the canonical NaN, and an unordered comparison; comparisons, minimum and maximum, the
operations on the sign bit alone, rounding to an integral value, classes, and the special functions where their values are exact. -/
def Obligations.FloatNansAndSigns : Prop :=
  ∀ (s : State) (x : Site) (fr : Frame) (c : Cur) (f : Fields) (m : LaneMask) (T : Ty) (va : Value),
    AtPlace s x fr c → T ∈ tyFlt → f.typ.toNat = T.code → Names c f.a T va → Active c f.p m → f.c = 0 →
    let w := T.bits
    let K := unitExp T
    let flush := decide (f.md.toNat / 8 % 2 = 1) || T == .bf16
    let same (v : Value) (k : Fin 32) : Prop := v.nat k < 2 ^ w ∧ ¬isNanBits T (v.nat k) ∧ ¬isSubnormal T (v.nat k)
    let u (k : Fin 32) : Int := units T flush (va.nat k)
    (∀ vb, Names c f.b T vb → rdFtz f.md →
      ∀ e ∈ ([(.fadd, opFadd), (.fsub, opFsub), (.fmul, opFmul), (.fdiv, opFdiv)] : List OpRow),
        ∃ t, OnlyFlags s t x.w ∧ CompletesBy (exec (e.1 f) s) t x e.2.opc T m va.nat fun k d =>
          isNanBits T (va.nat k) ∨ isNanBits T (vb.nat k) → d = canonNan T) ∧
    (f.b = 0 → rdFtz f.md →
      ∀ e ∈ ([(.fsqrt, opFsqrt), (.frsq, opFrsq), (.frcp, opFrcp), (.fround, opFround)] : List OpRow),
        ∃ t, OnlyFlags s t x.w ∧ CompletesBy (exec (e.1 f) s) t x e.2.opc T m va.nat fun k d =>
          isNanBits T (va.nat k) → d = canonNan T) ∧
    (∀ vb, Names c f.b T vb → f.md.toNat < 16 →
      ∃ t, OnlyFlags s t x.w ∧ CompletesBy (exec (.fcmp f) s) t x 0x04C .pred m (fun _ => 0) fun k d =>
        let cc := f.md.toNat % 8
        let low (v : Value) : Int := ((v.nat k % 2 ^ (w - 1) : Nat) : Int)
        let val (v : Value) : Int := if signOf T (v.nat k) then -low v else low v
        (isNanBits T (va.nat k) ∨ isNanBits T (vb.nat k) → d = if cc = 1 ∨ cc = 6 then 1 else 0) ∧
        (same va k → same vb k →
          (d = 0 ∨ d = 1) ∧
          (d = 1 ↔ (cc = 0 ∧ val va = val vb) ∨ (cc = 1 ∧ val va ≠ val vb) ∨ (cc = 2 ∧ val va < val vb) ∨ (cc = 3 ∧ val va ≤ val vb) ∨
            (cc = 4 ∧ val vb < val va) ∨ (cc = 5 ∧ val vb ≤ val va) ∨ cc = 7))) ∧
    (ftzOnly f.md →
      (f.b = 0 →
        (∃ t, OnlyFlags s t x.w ∧ CompletesBy (exec (.fneg f) s) t x 0x04A T m va.nat fun k d =>
          (isNanBits T (va.nat k) → d = canonNan T) ∧
          (same va k → HasBits w (fun j => if j = w - 1 then !(va.nat k).testBit j else (va.nat k).testBit j) d)) ∧
        (∃ t, OnlyFlags s t x.w ∧ CompletesBy (exec (.fabs f) s) t x 0x04B T m va.nat fun k d =>
          (isNanBits T (va.nat k) → d = canonNan T) ∧
          (same va k → HasBits w (fun j => if j = w - 1 then false else (va.nat k).testBit j) d)) ∧
        (∀ e ∈ ([((.ffloor, opFfloor), 3), ((.fceil, opFceil), 2), ((.ftrunc, opFtrunc), 1)] : List (OpRow × Nat)),
          ∃ t, OnlyFlags s t x.w ∧ CompletesBy (exec (e.1.1 f) s) t x e.1.2.opc T m va.nat fun k d =>
            let r := units T false d
            (isNanBits T (va.nat k) → d = canonNan T) ∧ (isInfBits T (va.nat k) → d = infOf T (signOf T (va.nat k))) ∧
            (isFinite T (va.nat k) →
              d < 2 ^ w ∧ isFinite T d ∧ signOf T d = signOf T (va.nat k) ∧ (2 : Int) ^ K ∣ r ∧
              (e.2 = 3 → r ≤ u k ∧ u k < r + 2 ^ K) ∧ (e.2 = 2 → u k ≤ r ∧ r < u k + 2 ^ K) ∧
              (e.2 = 1 → r.natAbs ≤ (u k).natAbs ∧ (u k).natAbs < r.natAbs + 2 ^ K))) ∧
        CompletesBy (exec (.fclass f) s) s x 0x04D .n32 m (fun _ => 0) (fun k d =>
          let a := va.nat k
          let neg := signOf T a
          let top := a.testBit ((fltWidths T).2 - 1)
          (isNanBits T a → d = if top then 2 else 1) ∧ (isInfBits T a → d = if neg then 4 else 512) ∧
          (isFinite T a → isSubnormal T a → flush = false → d = if neg then 16 else 128) ∧
          (isFinite T a → units T flush a = 0 → d = if neg then 32 else 64) ∧
          (isFinite T a → ¬isSubnormal T a → units T flush a ≠ 0 → d = if neg then 8 else 256)) ∧
        (∀ e ∈ specialRows,
          ∃ t, OnlyFlags s t x.w ∧ CompletesBy (exec (e.1.1 f) s) t x e.1.2.opc T m va.nat fun k d =>
            let neg := signOf T (va.nat k)
            (isNanBits T (va.nat k) → d = canonNan T) ∧
            (isInfBits T (va.nat k) → d = if neg then e.2.1 T else e.2.2.1 T) ∧
            (isFinite T (va.nat k) → u k = 0 → d = e.2.2.2 T neg) ∧
            (isFinite T (va.nat k) → u k < 0 → e.1.2.opc = 0x04F ∨ e.1.2.opc = 0x051 → d = canonNan T) ∧
            (∀ n : Int, -(2 ^ ((fltWidths T).1 - 1) : Int) + 2 ≤ n → n < 2 ^ ((fltWidths T).1 - 1) →
              (e.1.2.opc = 0x04E → isFinite T (va.nat k) → u k = n * 2 ^ K → d = powOf T false n) ∧
              (e.1.2.opc = 0x04F → va.nat k = powOf T false n →
                d < 2 ^ w ∧ isFinite T d ∧ units T false d = n * 2 ^ K ∧ signOf T d = decide (n < 0))))) ∧
      (∀ vb, Names c f.b T vb →
        (∃ t, OnlyFlags s t x.w ∧ CompletesBy (exec (.fcopys f) s) t x 0x05C T m va.nat fun k d =>
          (isNanBits T (va.nat k) → d = canonNan T) ∧
          (same va k → HasBits w (fun j => if j = w - 1 then (vb.nat k).testBit j else (va.nat k).testBit j) d)) ∧
        (∀ e ∈ ([((.fmin, opFmin), false), ((.fmax, opFmax), true)] : List (OpRow × Bool)),
          ∃ t, OnlyFlags s t x.w ∧ CompletesBy (exec (e.1.1 f) s) t x e.1.2.opc T m va.nat fun k d =>
            let a := va.nat k
            let b := vb.nat k
            (isNanBits T a → isNanBits T b → d = canonNan T) ∧ (isNanBits T a → same vb k → d = b) ∧
            (same va k → isNanBits T b → d = a) ∧
            (same va k → same vb k →
              d = if (if e.2 then orderKey T a < orderKey T b else orderKey T b < orderKey T a) then b else a)))) ∧
    (rdFtz f.md → f.b = 0 →
      ∃ t, OnlyFlags s t x.w ∧ CompletesBy (exec (.fround f) s) t x 0x05A T m va.nat fun k d =>
        let r := units T false d
        isFinite T (va.nat k) →
          d < 2 ^ w ∧ isFinite T d ∧ signOf T d = signOf T (va.nat k) ∧ (2 : Int) ^ K ∣ r ∧
          (f.md.toNat / 16 = 0 → 2 * (r - u k).natAbs ≤ 2 ^ K ∧ (2 * (r - u k).natAbs = 2 ^ K → (2 : Int) ^ (K + 1) ∣ r)) ∧
          (f.md.toNat / 16 = 1 → r.natAbs ≤ (u k).natAbs ∧ (u k).natAbs < r.natAbs + 2 ^ K) ∧
          (f.md.toNat / 16 = 2 → u k ≤ r ∧ r < u k + 2 ^ K) ∧ (f.md.toNat / 16 = 3 → r ≤ u k ∧ u k < r + 2 ^ K))

/-- 03 R42-R44, R51-R54; 07 R156, R157: the SLI operations on zero, INV and ±1, their exact cases and signs, their order, and products and
quotients of level 1 whose level indexes stay there. -/
def Obligations.SliResults : Prop :=
  ∀ (s : State) (x : Site) (fr : Frame) (c : Cur) (f : Fields) (m : LaneMask) (T : Ty) (va : Value),
    AtPlace s x fr c → T ∈ tySli → Names c f.a T va → (∀ k, va.nat k < 2 ^ T.bits) → Active c f.p m → f.c = 0 →
    let n := T.bits
    let ord (a : Nat) : Prop := a ≠ sliZero n ∧ a ≠ sliInv n
    let one (a : Nat) : Prop := a % 2 ^ (n - 1) = 0
    let neg (a : Nat) : Bool := a.testBit (n - 1)
    let low (a : Nat) : Nat := a % 2 ^ (n - 2)
    let unit := 2 ^ (n - 5)
    let By (e : OpRow) (P : Nat → Fin 32 → Nat → Prop) : Prop :=
      ∃ t, OnlyFlags s t x.w ∧ CompletesBy (exec (e.1 f) s) t x e.2.opc T m va.nat fun k d => P (va.nat k) k d
    let level1 (a b d : Nat) : Prop :=
      ord a → ord b → low a < unit → low b < unit → a.testBit (n - 2) = b.testBit (n - 2) → low a + low b < unit →
        (low a + low b ≠ 0 → d = low a + low b + (if a.testBit (n - 2) then 2 ^ (n - 2) else 0) + if neg a ^^ neg b then 2 ^ (n - 1) else 0)
    (f.typ.toNat = T.code → f.md = 0 → f.b = 0 →
      By (.sliNeg, opSliNeg) (fun a _ d => (¬ord a → d = a) ∧ (ord a → flipBit n (n - 1) a d)) ∧
      By (.sliAbs, opSliAbs) (fun a _ d => (¬ord a → d = a) ∧ (ord a → d = a % 2 ^ (n - 1))) ∧
      By (.sliRcp, opSliRcp) (fun a _ d => (a = sliZero n → d = sliMax n false) ∧ (a = sliInv n → d = a) ∧ (one a → d = a) ∧
        (ord a → ¬one a → flipBit n (n - 2) a d)) ∧
      By (.sliSq, opSliSq) (fun a _ d => (¬ord a → d = a) ∧ (one a → d = 0) ∧ level1 a a d)) ∧
    (∀ vb, f.typ.toNat = T.code → f.md = 0 → Names c f.b T vb → (∀ k, vb.nat k < 2 ^ n) →
      let inv (a b d : Nat) : Prop := a = sliInv n ∨ b = sliInv n → d = sliInv n
      By (.sliAdd, opSliAdd) (fun a k d =>
        let b := vb.nat k
        inv a b d ∧ (a = sliZero n → b ≠ sliInv n → d = b) ∧ (b = sliZero n → a ≠ sliInv n → d = a) ∧
        (ord a → ord b → (flipBit n (n - 1) a b → d = sliZero n) ∧
          (¬flipBit n (n - 1) a b → ord d ∧
            neg d = if (sliRank n a).natAbs < (sliRank n b).natAbs then neg b else neg a))) ∧
      By (.sliSub, opSliSub) (fun a k d =>
        let b := vb.nat k
        inv a b d ∧ (b = sliZero n → a ≠ sliInv n → d = a) ∧ (a = sliZero n → ord b → flipBit n (n - 1) b d) ∧
        (ord a → ord b → (a = b → d = sliZero n) ∧
          (a ≠ b → ord d ∧ neg d = if (sliRank n a).natAbs < (sliRank n b).natAbs then !neg b else neg a))) ∧
      By (.sliMul, opSliMul) (fun a k d =>
        let b := vb.nat k
        inv a b d ∧ (a = sliZero n → b ≠ sliInv n → d = sliZero n) ∧ (b = sliZero n → a ≠ sliInv n → d = sliZero n) ∧
        (ord a → ord b → ord d ∧ neg d = (neg a ^^ neg b)) ∧ level1 a b d ∧
        (ord a → one b → d % 2 ^ (n - 1) = a % 2 ^ (n - 1)) ∧
        (ord a → flipBit n (n - 2) (a % 2 ^ (n - 1)) (b % 2 ^ (n - 1)) → ord b → one d)) ∧
      By (.sliDiv, opSliDiv) (fun a k d =>
        let b := vb.nat k
        inv a b d ∧ (a = sliZero n → b ≠ sliInv n → d = sliZero n) ∧ (ord a → b = sliZero n → d = sliMax n (neg a)) ∧
        (ord a → ord b → ord d ∧ neg d = (neg a ^^ neg b)) ∧ (ord a → one b → d % 2 ^ (n - 1) = a % 2 ^ (n - 1)) ∧
        (ord a → a = b → d = 0)) ∧
      (∀ e ∈ ([((.sliMin, opSliMin), false), ((.sliMax, opSliMax), true)] : List (OpRow × Bool)),
        By e.1 (fun a k d =>
          let b := vb.nat k
          inv a b d ∧ (a ≠ sliInv n → b ≠ sliInv n →
            d = if (if e.2 then sliRank n a < sliRank n b else sliRank n b < sliRank n a) then b else a)))) ∧
    (∀ vb, f.typ.toNat = T.code → f.md.toNat ≤ 5 → Names c f.b T vb → (∀ k, vb.nat k < 2 ^ n) →
      CompletesBy (exec (.sliCmp f) s) s x 0x087 .pred m (fun _ => 0) fun k d =>
        let cc := f.md.toNat
        let p := sliRank n (va.nat k)
        let q := sliRank n (vb.nat k)
        (va.nat k = sliInv n ∨ vb.nat k = sliInv n → d = if cc = 1 then 1 else 0) ∧
        (va.nat k ≠ sliInv n → vb.nat k ≠ sliInv n →
          (d = 0 ∨ d = 1) ∧
          (d = 1 ↔ (cc = 0 ∧ p = q) ∨ (cc = 1 ∧ p ≠ q) ∨ (cc = 2 ∧ p < q) ∨ (cc = 3 ∧ p ≤ q) ∨ (cc = 4 ∧ q < p) ∨ (cc = 5 ∧ q ≤ p)))) ∧
    (f.typ.toNat = Ty.n32.code → f.md = 0 → f.b = 0 →
      CompletesBy (exec (.sliLvl f) s) s x 0x08C .n32 m (fun _ => 0) fun k d =>
        let a := va.nat k
        (a = sliZero n → d = 0x20) ∧ (a = sliInv n → d = 0x40) ∧
        (ord a → d = low a / unit + 1 + if a.testBit (n - 2) then 16 else 0))

/-- 07 R154, R156; 02 R23; 03 R45: reading and clearing the two sticky statuses. -/
def Obligations.StatusInstructions : Prop :=
  ∀ (s : State) (x : Site) (fr : Frame) (c : Cur) (f : Fields),
    AtPlace s x fr c → f.md = 0 → f.a = 0 → f.b = 0 → f.c = 0 → f.p = 0 →
    (f.typ.toNat = Ty.n32.code →
      CompletesBy (exec (.fstat f) s) s x 0x060 .n32 (BitVec.allOnes 32) (fun _ => 0) (fun _ d => d = x.wave.ieee.toNat) ∧
      CompletesBy (exec (.sliStat f) s) s x 0x08A .n32 (BitVec.allOnes 32) (fun _ => 0) (fun _ d => d = x.wave.sli.toNat)) ∧
    (f.typ = 0 →
      CompletesVoid (exec (.fclr f) s) (s.setWave x.w { x.wave with ieee := 0 }) x 0x061 ∧
      CompletesVoid (exec (.sliClr f) s) (s.setWave x.w { x.wave with sli := 0 }) x 0x08B)

/-- 07 R169-R171, R173: shuffles, broadcasts, lane selection, votes and transposition; and `red` and `scan` (R172) over the fixed tree of
lanes, which for integers is the operation of all of them. -/
def Obligations.LaneExchange : Prop :=
  ∀ (s : State) (x : Site) (fr : Frame) (c : Cur) (f : Fields) (m : LaneMask) (T : Ty) (va : Value),
    AtPlace s x fr c → f.typ.toNat = T.code → Active c f.p m → f.c = 0 →
    (∀ vb, T ∈ tySel → Names c f.a T va → Names c f.b .n32 vb → f.md.toNat ≤ 3 →
      CompletesBy (exec (.shfl f) s) s x 0x0B0 T m va.nat fun i d =>
        let b := vb.nat i
        let src : Option (Fin 32) :=
          if f.md = 0 then some (Fin.ofNat 32 b)
          else if f.md = 1 then (if b ≤ i.val then some (Fin.ofNat 32 (i.val - b)) else none)
          else if f.md = 2 then (if i.val + b < 32 then some (Fin.ofNat 32 (i.val + b)) else none)
          else some (Fin.ofNat 32 (i.val ^^^ (b % 32)))
        d = va.nat (src.getD i) % 2 ^ T.bits) ∧
    (T ∈ tySel → Names c f.a T va → f.b = 0 →
      (f.md.toNat < 32 →
        CompletesBy (exec (.bcast f) s) s x 0x0B5 T m va.nat fun _ d =>
          d = va.nat (Fin.ofNat 32 f.md.toNat) % 2 ^ T.bits) ∧
      (f.md.toNat ≤ 1 →
        CompletesBy (exec (.lsel f) s) s x 0x0B6 T m va.nat fun _ d =>
          ∃ j : Fin 32, m.has j.val = true ∧ d = va.nat j % 2 ^ T.bits ∧
            ∀ l : Fin 32, m.has l.val = true → if f.md = 0 then j ≤ l else l ≤ j)) ∧
    (Names c f.a .pred va → f.b = 0 →
      (T = .pred → f.md.toNat ≤ 2 →
        CompletesBy (exec (.vote f) s) s x 0x0B1 T m (fun _ => 0) fun _ d =>
          (f.md = 0 → (d = 1 ↔ ∃ k : Fin 32, m.has k.val = true ∧ va.nat k = 1)) ∧
          (f.md = 1 → (d = 1 ↔ ∀ k : Fin 32, m.has k.val = true → va.nat k = 1)) ∧
          (f.md = 2 → (d = 1 ↔ (∀ k : Fin 32, m.has k.val = true → va.nat k = 1) ∨
            ∀ k : Fin 32, m.has k.val = true → va.nat k ≠ 1))) ∧
      (T = .n32 → f.md = 3 →
        CompletesBy (exec (.vote f) s) s x 0x0B1 T m (fun _ => 0) fun _ =>
          HasBits 32 fun j => m.has j && decide (va.nat (Fin.ofNat 32 j) = 1))) ∧
    (T = .n32 → Names c f.a .n32 va → f.b = 0 → f.md.toNat ≤ 2 →
      CompletesBy (exec (.gtrans f) s) s x 0x0B4 .n32 m va.nat fun i d =>
        let w := 8 * 2 ^ f.md.toNat
        let n := 32 / w
        d < 2 ^ 32 ∧ ∀ t < n,
          let q := i.val * n + t
          d / 2 ^ (w * t) % 2 ^ w = va.nat (Fin.ofNat 32 (8 * (q % 4) + q / 4 / n)) / 2 ^ (w * (q / 4 % n)) % 2 ^ w) ∧
    (∀ vb, T ∈ tyInt ++ tyFlt ++ tySli → Names c f.a T va → (f.b = 0 ∧ vb = va ∨ Names c f.b T vb) →
      f.md.toNat < 32 → f.md.toNat % 8 ≤ 6 → (3 < f.md.toNat % 8 → T ∈ tyInt) → (16 ≤ f.md.toNat → T ∈ tyFlt) →
      let op := f.md.toNat % 8
      let F (a b : Nat) : Nat := (treeOp T op (decide (16 ≤ f.md.toNat)) a b).1
      let leaf (k : Nat) : Option Nat := if m.has k then some (va.nat (Fin.ofNat 32 k)) else none
      let below (n : Nat) : List Nat := ((List.finRange 32).filter fun k => m.has k.val && decide (k.val < n)).map va.nat
      let whole := T ∈ tyInt ∧ ∀ k, va.nat k < 2 ^ T.bits
      (f.md.toNat / 8 % 2 = 0 →
        ∃ t, OnlyFlags s t x.w ∧ CompletesBy (exec (.red f) s) t x 0x0B3 T m vb.nat fun _ d =>
          (∀ r, treeNode F leaf 5 0 = some r → d = r % 2 ^ T.bits) ∧ (whole → Reduced T op (below 32) d)) ∧
      ∃ t, OnlyFlags s t x.w ∧ CompletesBy (exec (.scan f) s) t x 0x0B2 T m vb.nat fun k d =>
        let n := if f.md.toNat / 8 % 2 = 1 then k.val else k.val + 1
        (∀ r, treePrefix F leaf n 6 0 none = some r → d = r % 2 ^ T.bits) ∧
        (treePrefix F leaf n 6 0 none = none → d = identOf T op) ∧ (whole → Reduced T op (below n) d))

/-- 07 R166: element codes packed into a row and back. -/
def Obligations.PackedRows : Prop :=
  ∀ (s : State) (x : Site) (fr : Frame) (c : Cur) (f : Fields) (m : LaneMask) (w : Nat) (va : Value),
    AtPlace s x fr c → (f.md = 0 ∧ w = 8 ∨ f.md = 1 ∧ w = 6 ∨ f.md = 2 ∧ w = 4) → Names c f.a .n32 va →
    (∀ k, va.nat k < 2 ^ 32) → f.b = 0 → f.c = 0 → Active c f.p m →
    let row (j : Nat) : Bool := (va.nat (Fin.ofNat 32 (j / 32))).testBit (j % 32)
    (f.typ.toNat = Ty.n32.code →
      CompletesBy (exec (.pkn f) s) s x 0x0A4 .n32 m (fun _ => 0) fun i =>
        HasBits 32 fun j => decide (i.val < w) && (va.nat (Fin.ofNat 32 ((32 * i.val + j) / w))).testBit ((32 * i.val + j) % w)) ∧
    (f.typ.toNat = Ty.n32.code →
      CompletesBy (exec (.upkn f) s) s x 0x0A5 .n32 m (fun _ => 0) fun i =>
        HasBits 32 fun j => decide (j < w) && row (i.val * w + j)) ∧
    (f.typ.toNat = Ty.i32.code →
      CompletesBy (exec (.upkn f) s) s x 0x0A5 .i32 m (fun _ => 0) fun i =>
        HasBits 32 fun j => row (i.val * w + min j (w - 1)))

/-! ## Control flow and traps (06) -/

/-- 06 R130: SELECT takes the pending path of the lowest block number, and merging keeps one path for each block, with the lanes and the
parameters of both. Pending paths of one frame have distinct block numbers, which every control event keeps. That no word waits any more
for what the frame's earlier paths left behind is the model's bookkeeping (log entry 59). -/
def Obligations.SelectLowestBlock : Prop :=
  (∀ (x : Wave) (fr : Frame) (r : List Frame) (p : Path), x.frames = fr :: r → fr.cur = none → p ∈ fr.pending →
    DistinctBlocks fr.pending →
    ∃ (q : Path) (rest : List Path),
      q ∈ fr.pending ∧ (∀ y ∈ fr.pending, y = q ∨ q.block < y.block) ∧ (∀ y, y ∈ fr.pending ↔ y = q ∨ y ∈ rest) ∧
      rest.length + 1 = fr.pending.length ∧
      x.select = { atDepth x x.frames.length with frames :=
        { fr with pending := rest, cur := some { block := q.block, mask := q.mask, vidx := 0, vals := q.params.reverse } } :: r }) ∧
  (∀ (ps : List Path) (p : Path), DistinctBlocks ps →
    DistinctBlocks (addPath p ps) ∧
    (∀ y : Path, y.block ≠ p.block → (y ∈ addPath p ps ↔ y ∈ ps)) ∧
    ((∀ y ∈ ps, y.block ≠ p.block) → p ∈ addPath p ps) ∧
    (∀ q ∈ ps, q.block = p.block →
      ∃ m ∈ addPath p ps, m.block = p.block ∧ (∀ k : Fin 32, m.mask.has k.val = (q.mask.has k.val || p.mask.has k.val)) ∧
        ∀ (j : Nat) (a b : Value), q.params[j]? = some a → p.params[j]? = some b →
          ∃ v, m.params[j]? = some v ∧ v.ty = a.ty ∧ ∀ k, v.nat k = if p.mask.has k.val then b.nat k else a.nat k)) ∧
  (∀ (x : Wave) (ps : List Path), (∀ f ∈ x.frames, DistinctBlocks f.pending) → ∀ f ∈ (x.leave ps).frames, DistinctBlocks f.pending)

/-- 06 R131-R133: branches. A path carries its arguments into a block, zero outside its mask; `br` leaves one path pending and
`brc` the parts whose masks are not empty, before SELECT. -/
def Obligations.Branches : Prop :=
  ∀ (s : State) (x : Site) (fr : Frame) (c : Cur) (f : Fields) (aw : List ArgWord),
    AtPlace s x fr c → s.debugFrame fr = false → f.typ = 0 → f.bit0 = false → f.md.toNat = aw.length →
    (∀ tys vs, f.a = 0 → f.target0 = 0 → s.paramsOf fr f.target1.toNat = some tys → argValues c tys (argRefs aw) = some vs →
      let p : Path := { block := f.target1.toNat, mask := c.mask, params := vs.map fun v => v.masked c.mask }
      exec (.br f aw) s = .next (s.setWave x.w ((x.wave.leave [p]).countStep s.tick))) ∧
    (∀ v t1 t0 v1 v0 m1 m0, Names c f.a .pred v → s.paramsOf fr f.target1.toNat = some t1 →
      s.paramsOf fr f.target0.toNat = some t0 → argValues c t1 ((argRefs aw).take t1.length) = some v1 →
      argValues c t0 ((argRefs aw).drop t1.length) = some v0 →
      (∀ k : Fin 32, m1.has k.val = (c.mask.has k.val && (v.x.get k).getLsbD 0)) → m0 = c.mask &&& ~~~m1 →
      let p1 : Path := { block := f.target1.toNat, mask := m1, params := v1.map fun v => v.masked m1 }
      let p0 : Path := { block := f.target0.toNat, mask := m0, params := v0.map fun v => v.masked m0 }
      exec (.brc f aw) s =
        .next ((s.emitBranch x fr c m1 m0).setWave x.w
          ((x.wave.leave ((if m1 = 0 then [] else [p1]) ++ if m0 = 0 then [] else [p0])).countStep s.tick)))

/-- 06 R134-R136, R143: calls and the three ways in which a path leaves its frame. That no word waits any more for what an earlier callee
left behind is the model's bookkeeping (log entry 59). -/
def Obligations.CallsAndReturns : Prop :=
  ∀ (s : State) (x : Site) (fr : Frame) (c : Cur) (f : Fields),
    AtPlace s x fr c → s.debugFrame fr = false →
    (∀ aw t tys vs u b0, f.typ.toNat ≤ 11 → f.a = 0 → f.target0 = 0 → f.bit0 = false → f.md.toNat = aw.length →
      s.code? fr = some t → t.callees.find? (fun e => e.1 == f.target1.toNat) = some (b0, some tys) →
      argValues c tys (argRefs aw) = some vs →
      (256 ≤ x.wave.frames.length →
        exec (.call f aw) s = .next (s.takeParkTrap x c.mask 4 (Lanes.all 0))) ∧
      (x.wave.frames.length < 256 →
        s.calleeCode x f.target1.toNat = some u →
        ∃ T, Ty.ofCode f.typ.toNat = some T ∧
        let p : Path := { block := 0, mask := c.mask, params := vs.map fun v => v.masked c.mask }
        let d : Cur := { block := 0, mask := c.mask, vidx := 0, vals := p.params.reverse }
        let g : Frame :=
          { kind := .call, func := f.target1.toNat, tid := u.tid, pending := [], cur := some d, retMask := 0,
            ret := Lanes.all 0, retTy := T, trap := none, kept := [] }
        exec (.call f aw) s = .next ((s.touch u).setWave x.w
          (({ atDepth x.wave (x.wave.frames.length + 1) with frames := g :: x.wave.frames } : Wave).countStep s.tick)))) ∧
    (∀ v, returned f c = some v →
      (fr.kind = .base → exec (.ret f) s = .next (((s.setWave x.w ((x.wave.leave []).countStep s.tick)).progress x.w).afterEnd x)) ∧
      (fr.kind = .call → f.typ.toNat = fr.retTy.code →
        exec (.ret f) s = .next ((s.setWave x.w ((x.wave.handlerReturn v.x).countStep s.tick)).afterEnd x)) ∧
      (fr.kind = .handler → exec (.ret f) s = .next (s.takeReserved x c (wordOf 0x0C3#9 f) .void))) ∧
    (∀ v, recorded f c = some v →
      (fr.kind = .handler → exec (.tret f) s = .next ((s.setWave x.w ((x.wave.handlerReturn v.x).countStep s.tick)).afterEnd x)) ∧
      (fr.kind ≠ .handler → exec (.tret f) s = .next (s.takeReserved x c (wordOf 0x0C8#9 f) .void))) ∧
    (f.typ = 0 → f.md = 0 → f.a = 0 → f.b = 0 → f.c = 0 → f.p = 0 →
      exec (.exit f) s = .next (((s.setWave x.w ((x.wave.leave []).countStep s.tick)).progress x.w).afterEnd x))

/-- 04 R82: every operation whose fields fit no operand form takes trap(RESERVED) at its place. -/
def Obligations.IllegalFormsTrap : Prop :=
  ∀ e ∈ rowsAll, ∀ (f : Fields) (s : State) (x : Site) (fr : Frame) (c : Cur),
    AtPlace s x fr c → (∀ fm i, ¬Fits e.2 f x c fm i) →
    exec (e.1 f) s = .next (s.takeReserved x c (wordOf (BitVec.ofNat 9 e.2.opc) f) (e.2.resTy f.typ.toNat))

/-- 06 R139; 14 R308, R311: `trap` does nothing with no active lane; otherwise its wave owes a fault record of kind USER at its
place with the codes of the active lanes, and its block is to park, with memory as it was. -/
def Obligations.UserTrap : Prop :=
  ∀ (s : State) (x : Site) (fr : Frame) (c : Cur) (f : Fields) (m : LaneMask),
    AtPlace s x fr c → x.wave.native = none → f.typ = 0 → f.md = 0 → f.b = 0 → f.c = 0 → Active c f.p m →
    ∀ va, (f.a = 0 ∧ va = Value.void ∨ Names c f.a .i32 va) →
    (m = 0 → CompletesVoid (exec (.trap f) s) s x 0x0C6) ∧
    (m ≠ 0 →
      ∃ (t : State) (y : Wave) (b : Block) (r : FaultRec),
        exec (.trap f) s = .next t ∧ t.wave? x.w = some y ∧ t.block? x.w.block = some b ∧
        y.frames = x.wave.frames ∧ y.owed = some r ∧ r.kind = 2 ∧ r.trapk = 7 ∧ r.mask = m ∧
        r.point = { func := fr.func, block := c.block, vidx := c.vals.length } ∧
        (∀ k : Fin 32, r.lanes.get k = if m.has k.val ∧ f.a ≠ 0 then BitVec.ofNat 32 (va.nat k) else 0) ∧
        (x.wave.stop = .none → x.wave.mode ≠ .released → y.stop = .requested) ∧
        b.fate = some (x.block.fate.getD .park) ∧ t.mem = s.mem ∧ t.ctxs = s.ctxs ∧ t.tiles = s.tiles)

/-- 06 R140, R141: trap(RESERVED) of a legal word's place with a handler pushes its frame over the wave's active mask, with what
`trapinfo` reads; with a handler frame already on the stack, or no handler, the block parks. -/
def Obligations.HandlerEntry : Prop :=
  ∀ e ∈ rowsAll, ∀ (f : Fields) (s : State) (x : Site) (fr : Frame) (c : Cur),
    AtPlace s x fr c → x.wave.native = none → (∀ fm i, ¬Fits e.2 f x c fm i) →
    (x.launch.handler = none ∨ x.wave.inHandler = true ∨ 256 ≤ x.wave.frames.length →
      exec (e.1 f) s = .next (s.takeParkTrap x c.mask 1 (Lanes.all 0))) ∧
    (∀ h u b, s.debugFrame fr = false → x.launch.handler = some h → x.wave.inHandler = false → x.wave.frames.length < 256 →
      s.calleeCode x h = some u → u.blocks.head? = some b → b.params = [] →
      ∃ (g : Frame) (i : TrapInfo),
        exec (e.1 f) s = .next ((s.touch u).setWave x.w
          { atDepth x.wave (x.wave.frames.length + 1) with frames := g :: x.wave.frames, quarters := [], quartersB := [] }) ∧
        g.kind = .handler ∧ g.func = h ∧ g.tid = u.tid ∧ g.pending = [] ∧
        g.cur = some { block := 0, mask := c.mask, vidx := 0, vals := [] } ∧ g.retMask = 0 ∧
        g.retTy = e.2.resTy f.typ.toNat ∧ g.trap = some i ∧ i.kind = 1 ∧ i.opc = BitVec.ofNat 9 e.2.opc ∧ i.f = f ∧
        i.point = { func := fr.func, block := c.block, vidx := c.vals.length })

/-- 06 R138, R142; 09 R212: `yield` defines nothing and is a progress point; `trapinfo` reads the trap that opened the handler
frame on the stack, and zero elsewhere. -/
def Obligations.YieldAndTrapinfo : Prop :=
  ∀ (s : State) (x : Site) (fr : Frame) (c : Cur) (f : Fields),
    AtPlace s x fr c → f.a = 0 → f.b = 0 → f.c = 0 → f.p = 0 →
    (f.typ = 0 → f.md = 0 →
      exec (.yield f) s =
        .next (((s.completePlace x.w 0x0C5 Value.void []).progress x.w).swapPlace x.tile (x.w.wav % 2 == 1) x.w true)) ∧
    (∀ T, f.typ.toNat = T.code → T ∈ tyTrapinfo → trapinfoOk f.md.toNat T = true →
      (x.wave.trapInfo? = none →
        CompletesBy (exec (.trapinfo f) s) s x 0x0C7 T (BitVec.allOnes 32) (fun _ => 0) fun _ d => d = 0) ∧
      (∀ i, x.wave.trapInfo? = some i →
        CompletesBy (exec (.trapinfo f) s) s x 0x0C7 T (BitVec.allOnes 32) (fun _ => 0) fun k d =>
          (f.md = 0 → d = i.kind % 2 ^ 32) ∧ (f.md = 1 → d = i.opc.toNat) ∧ (f.md = 2 → d = i.f.typ.toNat) ∧
          (f.md = 3 → d = i.f.md.toNat) ∧ (f.md = 4 → d = i.f.a.toNat) ∧ (f.md = 5 → d = i.f.b.toNat) ∧
          (f.md = 6 → d = i.f.c.toNat) ∧ (f.md = 7 → d = i.f.p.toNat) ∧
          (f.md = 8 → d = (i.opA.get k).toNat % 2 ^ T.bits) ∧ (f.md = 9 → d = (i.opB.get k).toNat % 2 ^ T.bits) ∧
          (f.md = 10 → d = (i.opC.get k).toNat % 2 ^ T.bits) ∧ (f.md = 11 → d = if i.pmask.has k.val then 1 else 0) ∧
          (f.md = 12 → d = i.point.func % 2 ^ 32) ∧ (f.md = 13 → d = i.point.block % 2 ^ 32) ∧
          (f.md = 14 → d = i.point.vidx % 2 ^ 32) ∧ (f.md = 15 → d = i.word.toNat)))

/-! ## Loads, stores and atomics (13) -/

/-- 13 R268, R269: loads deliver the bytes of each active lane's address; stores write each active lane's bytes, in ascending
lane order, and no other byte. -/
def Obligations.LoadsAndStores : Prop :=
  ∀ e ∈ rowsAccess, ∀ (s s1 : State) (x : Site) (fr : Frame) (c : Cur) (f : Fields) (fm : Form) (i : OpIn),
    AtPlace s x fr c → Fits e.op f x c fm i →
    (i.mask = 0 →
      CompletesBy (exec (e.con f) s) s x e.op.opc (if e.store then .void else i.ty) 0 (fun _ => 0) fun _ _ => True) ∧
    (∀ bs, e.store = false → i.mask ≠ 0 →
      s.readAcc x e.wins (accSize i) (i.mask.list.map fun k => (i.a.nat k, accSize i)) = .ok (s1, bs) →
      CompletesBy (exec (e.con f) s) s1 x e.op.opc i.ty i.mask (fun _ => 0) fun k d =>
        ∃ b, OfLane i.mask bs k b ∧ (b.length = accSize i → if i.ty = .tile then d = ofLe b else Loaded i.ty (accSize i) b d)) ∧
    (∀ sp, e.store = true → i.mask ≠ 0 →
      s.access x e.wins (accSize i) false true (i.mask.list.map fun k => (i.a.nat k, accSize i)) = .ok (s1, sp) →
      ∃ (t : State) (recs : List MemRec),
        exec (e.con f) s = .next (t.completePlace x.w e.op.opc Value.void recs) ∧
        t = (s1.writeAcc x.laneWriter sp (i.mask.list.map fun k =>
          if accSize i = 16 then leBytes 8 (i.b.nat k) ++ leBytes 8 (i.c.nat k) else leBytes (accSize i) (i.b.nat k))).1 ∧
        (∀ a, OutsideSpans sp a → Mem.read t.mem a = Mem.read s1.mem a) ∧
        (∀ k key, i.mask.highest = some k → sp.getLast? = some [(key, accSize i)] → sp.length = i.mask.list.length →
          accSize i < 16 → Mem.readN t.mem key (accSize i) = leBytes (accSize i) (i.b.nat k)))

/-- 13 R267: the checks of loads and stores over all active lanes, in their order: the top byte, the window, the vault checks and
the alignment trap, and a page fault stops the wave before any effect. -/
def Obligations.AccessChecks : Prop :=
  ∀ e ∈ rowsAccess, ∀ (s : State) (x : Site) (fr : Frame) (c : Cur) (f : Fields) (fm : Form) (i : OpIn),
    AtPlace s x fr c → Fits e.op f x c fm i → i.mask ≠ 0 →
    let as := i.mask.list.map fun k => (i.a.nat k, accSize i)
    let wide := ∃ k, i.mask.has k.val = true ∧ 2 ^ 56 ≤ i.a.nat k
    let foreign := ∃ k, i.mask.has k.val = true ∧ winOf (i.a.nat k) ∉ e.wins
    let askew := ∃ k, i.mask.has k.val = true ∧ i.a.nat k % accSize i ≠ 0
    (wide → exec (e.con f) s = .next (s.takeParkTrap x i.mask 4 (Lanes.all 0))) ∧
    (¬wide → foreign → exec (e.con f) s = .next (s.takeParkTrap x i.mask 4 (Lanes.all 0))) ∧
    (∀ k, ¬wide → ¬foreign → s.vaultTrap x as = some k →
      exec (e.con f) s = .next (s.takeParkTrap x i.mask k (Lanes.all 0))) ∧
    (¬wide → ¬foreign → s.vaultTrap x as = none → askew →
      exec (e.con f) s = .next (s.takeParkTrap x i.mask 3 (Lanes.all 0))) ∧
    (∀ s1 va, ¬wide → ¬foreign → s.vaultTrap x as = none → ¬askew → s.allSpans x (!e.store) e.store as = (s1, .error va) →
      exec (e.con f) s = .next (s1.takePageFault x i.mask va e.store))

/-- 13 R274, R275: each active lane's atomic reads the old value and writes the new one, lane after lane. -/
def Obligations.Atomics : Prop :=
  ∀ e ∈ rowsAtomic, ∀ (s : State) (x : Site) (fr : Frame) (c : Cur) (f : Fields) (fm : Form) (i : OpIn),
    AtPlace s x fr c → Fits e.op f x c fm i →
    (i.mask = 0 → CompletesBy (exec (e.con f) s) s x e.op.opc i.ty 0 (fun _ => 0) fun _ _ => True) ∧
    (∀ s1 sp, i.mask ≠ 0 →
      s.access x winsAll (i.ty.bits / 8) true true (i.mask.list.map fun k => (i.a.nat k, i.ty.bits / 8)) = .ok (s1, sp) →
      s1.anyPoison sp = false →
      ∃ (t : State) (old : List (List Byte)) (v : Value) (recs : List MemRec),
        exec (e.con f) s = .next (t.completePlace x.w e.op.opc v recs) ∧ v.ty = i.ty ∧
        (t, old) = atomLanes x.laneWriter (i.ty.bits / 8) (fun k o => e.F i.ty o (i.b.nat k) (i.c.nat k)) i.mask.list sp s1 ∧
        Lanewise x i.mask v (fun _ => 0) (fun k d => ∀ b, OfLane i.mask old k b → d = ofLe b % 2 ^ i.ty.bits) ∧
        (∀ a, OutsideSpans sp a → Mem.read t.mem a = Mem.read s1.mem a) ∧
        (∀ k ks, i.mask.list = [k] → sp = [ks] → old = [s1.readSpans ks]))

/-- 13 R272, R273: tile stores write each active lane's row and no other byte; a prefetch makes only the checks of the window. -/
def Obligations.TileStoreAndPrefetch : Prop :=
  ∀ (s : State) (x : Site) (fr : Frame) (c : Cur) (f : Fields) (fm : Form) (i : OpIn), AtPlace s x fr c →
    (∀ s1 sp, Fits opStTile f x c fm i → i.mask ≠ 0 →
      s.access x winsAll 16 false true
        (i.mask.list.map fun k => (i.a.nat k, if f.md.toNat % 4 = 0 then 128 else 64)) = .ok (s1, sp) →
      ∃ (t : State) (n : Nat) (recs : List MemRec),
        exec (.stTile f) s = .next ((t.orIeee x.w n).completePlace x.w 0x0E5 Value.void recs) ∧
        t = (s1.writeAcc x.laneWriter sp (i.mask.list.map fun k => (tileRowBytes (f.md.toNat % 4) (i.b.nat k)).1)).1 ∧
        (∀ a, OutsideSpans sp a → Mem.read t.mem a = Mem.read s1.mem a)) ∧
    (Fits opPfG f x c fm i →
      let bad := ∃ k, i.mask.has k.val = true ∧ (2 ^ 56 ≤ i.a.nat k ∨ winOf (i.a.nat k) ≠ .glob)
      (¬bad → CompletesVoid (exec (.pfG f) s) s x 0x0E6) ∧
      (bad → exec (.pfG f) s = .next (s.takeParkTrap x i.mask 4 (Lanes.all 0))))

/-! ## Synchronisation (13) -/

/-- 13 R278-R283, R285: what a synchronisation instruction does at its place: it arrives and waits, or it completes at once. -/
def Obligations.SyncInstructions : Prop :=
  ∀ (s : State) (x : Site) (fr : Frame) (c : Cur) (f : Fields) (fm : Form) (i : OpIn), AtPlace s x fr c →
    (Fits opBarB f x c fm i → exec (.barB f) s = .next (s.setWave x.w { x.wave with mode := .barB })) ∧
    (∀ e ∈ ([(.barG, opBarG), (.barGLv, opBarGLv)] : List OpRow), Fits e.2 f x c fm i →
      let g := i.uni i.a
      (groupOf x.launch x.w.blk g = none → exec (e.1 f) s = .next (s.takeParkTrap x i.mask 4 (Lanes.all 0))) ∧
      let passes := (x.block.slotOf g).arrived = true ∧ (x.block.slotOf g).gens < x.launch.gens.getD 0 g ∧
        (x.launch.bar g).tc ≤ s.tick ∧ x.launch.gredOwed g = false ∧ x.w.wav ∉ (x.block.slotOf g).passed
      (∀ gr, groupOf x.launch x.w.blk g = some gr → ¬passes →
        exec (e.1 f) s =
          .next ((s.setWave x.w { x.wave with mode := .barG g (e.2.opc == 0x102) none }).arrive x.w.block g)) ∧
      (∀ gr, groupOf x.launch x.w.blk g = some gr → passes →
        exec (e.1 f) s =
          .next (((s.modBlock x.w.block fun b => b.pass g x.w.wav).completePlace x.w 0x101 Value.void []).progress x.w))) ∧
    (∀ s1 word key, Fits opWait f x c fm i → s.readWord x (i.uni i.a) (i.b.ty.bits / 8) = .ok (s1, word, key) →
      let met := condInt f.md.toNat (toInt i.b.ty word) (toInt i.b.ty (i.uni i.b)) = true
      let failed := ∃ k, failKey x.w.block (i.uni i.a) = some k ∧ k ∈ s1.failed
      (met → CompletesBy (exec (.wait f) s) (s1.progress x.w) x 0x103 .n32 (BitVec.allOnes 32) (fun _ => 0) fun _ d => d = 0) ∧
      (¬met → failed →
        CompletesBy (exec (.wait f) s) ((s1.emitFw x (i.uni i.a) (s1.ctlNow x.tile) 2 none).progress x.w) x 0x103 .n32 (BitVec.allOnes 32)
          (fun _ => 0) fun _ d => d = 2) ∧
      (¬met → ¬failed →
        ∃ t, exec (.wait f) s = .next t ∧
          t.waits = { wave := x.w, key := key, n := i.b.ty.bits / 8, writer := none, accord := none } :: s1.waits ∧ t.mem = s1.mem ∧
          ∀ y, s1.wave? x.w = some y → t.wave? x.w = some { y with
            mode := .wait (BitVec.ofNat 64 (i.uni i.a)) (BitVec.ofNat 64 (i.uni i.b)) f.md.toNat i.b.ty
              (if i.c.ty = .void then 0 else i.uni i.c) (s1.ctlNow x.tile) })) ∧
    (Fits opXfence f x c fm i → i.uni i.a < 65536 →
      let X := BitVec.ofNat 8 (i.uni i.a)
      let Y := BitVec.ofNat 8 (i.uni i.a / 256)
      X.toNat < 64 → Y.toNat < 64 →
      (s.placedBefore x.tile X s.nextId = true → CompletesVoid (exec (.xfence f) s) s x 0x104) ∧
      (s.placedBefore x.tile X s.nextId = false →
        exec (.xfence f) s = .next
          ((s.modTile x.tile fun t => { t with fences := (x.w, Y, s.nextId) :: t.fences }).modWave x.w fun w =>
            { w with mode := .xfence X Y s.nextId }))) ∧
    (Fits opCdrain f x c fm i →
      (s.drained x.tile f.md.toNat s.nextId = true → CompletesVoid (exec (.cdrain f) s) (s.progress x.w) x 0x105) ∧
      (s.drained x.tile f.md.toNat s.nextId = false →
        exec (.cdrain f) s = .next (s.setWave x.w { x.wave with mode := .cdrain f.md.toNat s.nextId }))) ∧
    (Fits opGred f x c fm i →
      (i.mask = 0 → CompletesVoid (exec (.gred f) s) s x 0x106) ∧
      (∀ k gr s1 sp, i.mask.lowest = some k → groupOf x.launch x.w.blk (i.c.nat k) = some gr →
        s.access x [.glob, .all] (i.ty.bits / 8) true true [(i.a.nat k, i.ty.bits / 8)] = .ok (s1, sp) →
        x.launch.greds.find? (fun e => e.g == i.c.nat k && e.va == BitVec.ofNat 64 (i.a.nat k)) = none →
        (x.launch.greds.filter fun e => e.g == i.c.nat k).length < 4 →
        CompletesVoid (exec (.gred f) s)
          (s1.modLaunch x.w.lid fun l =>
            { l with greds := l.greds ++
              [{ g := i.c.nat k, va := BitVec.ofNat 64 (i.a.nat k), ty := i.ty, op := f.md.toNat,
                 contrib := [(x.w.blk, gredValue i)], wave := x.w }] }) x 0x106))

/-- 13 R278, R279; 10 R230: a barrier of a block releases every wave that stands at it once every live wave does, and not before; a
group's barrier starts its next generation once every member has arrived or ended, and not before; once the completed barrier's time has
come its holds are dropped, and a member's waves are released once its release edge has come, and not before. -/
def Obligations.BarrierReleases : Prop :=
  ∀ (s : State),
    (∀ b blk, s.block? b = some blk →
      (blk.allAtBarB = false → exec (.barBRelease b) s = .next s) ∧
      (blk.allAtBarB = true →
        ∃ t, exec (.barBRelease b) s = .next t ∧ t.mem = s.mem ∧
          ∀ k y fr c, blk.waves[k]? = some y → y.mode = .barB → y.native = none → y.top? = some (fr, c) →
            ∃ z, t.wave? (b.wave k) = some z ∧ z.mode = .run ∧ z.wdog = 0)) ∧
    (∀ lid g l gr, s.launch? lid = some l → l.groups[g]? = some gr →
      let goesOn := ∀ m ∈ gr.members, ∀ y, s.block? { lid := lid, blk := m } = some y → ∀ w ∈ y.waves, ∀ n, w.native = some n →
        n.seqs.all Seq.stopped = false
      (gr.members.any (l.waiting g) = false ∨ gr.members.all (l.joined g) = false →
        (s.barOver l gr g = true → s.groupHeld lid g = false) →
        (∀ m ∈ gr.members, ∀ y, s.block? { lid := lid, blk := m } = some y →
          s.unpassed lid l g y = false ∨ ∀ r, s.releaseTick l g y = some r → s.tick < r) →
        exec (.groupBarrierRelease lid g) s = .next s) ∧
      (gr.members.any (l.waiting g) = false → l.gredOwed g = false → (l.bar g).tc ≤ s.tick →
        (s.dropBarHolds lid g).groupHeld lid g = false ∧
        exec (.groupBarrierRelease lid g) s = .next (gr.members.foldl (fun t m => t.releaseMember lid g m) (s.dropBarHolds lid g))) ∧
      (∀ ms m ns y r, gr.members = ms ++ m :: ns → gr.members.any (l.waiting g) = false → l.gredOwed g = false → m ∉ ms →
        s.groupHeld lid g = false → goesOn →
        s.block? { lid := lid, blk := m } = some y → s.unpassed lid l g y = true → s.releaseTick l g y = some r → r ≤ s.tick →
        (∀ k ∈ ms, ∀ z, s.block? { lid := lid, blk := k } = some z → z.tileRef ≠ y.tileRef) →
        ∃ t, exec (.groupBarrierRelease lid g) s = .next t ∧ t.mem = s.mem ∧
          ∀ k w fr c, y.waves[k]? = some w → w.atBarG g = true → k ∉ (y.slotOf g).passed → w.native = none → w.top? = some (fr, c) →
            ∃ z, t.wave? ({ lid := lid, blk := m, wav := k } : WaveRef) = some z ∧ z.mode = .run ∧ z.wdog = 0) ∧
      (gr.members.any (l.waiting g) = true → gr.members.all (fun m => l.blockEnded m || l.waiting g m) = true →
        l.gredOwed g = false → goesOn →
        ∃ t u, exec (.groupBarrierRelease lid g) s = .next t ∧ t.launch? lid = some u ∧
          u.gens.getD 0 g = l.gens.getD 0 g + 1 ∧ t.mem = s.mem) ∧
      (∀ m ∈ gr.members, l.blockEnded m = false → l.waiting g m = false →
        s.completeBar lid g = s ∧
        (goesOn →
          ∃ t u, exec (.groupBarrierRelease lid g) s = .next t ∧ t.launch? lid = some u ∧ u.gens.getD 0 g = l.gens.getD 0 g)))

/-- 13 R280-R283, R285: the events that end the waits of `wait`, `cdrain`, `xfence` and a round of `gred`. -/
def Obligations.SyncWakes : Prop :=
  ∀ (s : State) (x : Site) (w : WaveRef), s.site? w = some x →
    (∀ va v cc ty tmo start s1 word key, x.wave.mode = .wait va v cc ty tmo start →
      s.readWord x va.toNat (ty.bits / 8) = .ok (s1, word, key) →
      let met := condInt cc (toInt ty word) (toInt ty v.toNat) = true
      let failed := ∃ k, failKey w.block va.toNat = some k ∧ k ∈ s1.failed
      let late := tmo ≠ 0 ∧ tmo ≤ s1.ctlNow x.tile - start
      (met → exec (.waitWake w) s = .next (s1.endWait x va.toNat start 0)) ∧
      (¬met → failed → exec (.waitWake w) s = .next (s1.endWait x va.toNat start 2)) ∧
      (¬met → ¬failed → late → exec (.waitWake w) s = .next (s1.endWait x va.toNat start 1)) ∧
      (¬met → ¬failed → ¬late → exec (.waitWake w) s = .next s1)) ∧
    (∀ ch upTo, x.wave.mode = .cdrain ch upTo →
      exec (.cdrainDone w) s =
        .next (if s.drained x.tile ch upTo then (s.release w 0x105 Value.void).progress w else s)) ∧
    (∀ X Y upTo, x.wave.mode = .xfence X Y upTo → s.placedBefore x.tile X upTo = true →
      exec (.xfenceDone w) s = .next ((s.unfence x.tile w upTo).release w 0x104 Value.void)) ∧
    ((∀ X Y upTo, .xfence X Y upTo ∈ x.wave.modes → s.placedBefore x.tile X upTo = false) →
      exec (.xfenceDone w) s = .next s) ∧
    (∀ lid g va order l e n v s1 ks, s.launch? lid = some l →
      l.greds.find? (fun e => e.g == g && e.va == va) = some e → l.gredDone e = true → e.wave = w → n = e.ty.bits / 8 →
      combine e.ty e.op e.contrib order = some v → s.spansOf x va.toNat n true true = (s1, .ok ks) →
      (s1.spansPoisoned ks = true →
        exec (.gredRoundComplete lid g va order) s = .next ((s1.dropRound lid g va).raise (.tileFault x.tile 4))) ∧
      (s1.spansPoisoned ks = false →
      ∃ t, t = s1.putSpans x.laneWriter ks (leBytes n (treeOp e.ty e.op false (ofLe (s1.readSpans ks)) v).1) ∧
        exec (.gredRoundComplete lid g va order) s =
          .next (t.modLaunch lid fun l => { l with greds := l.greds.filter fun e => !(e.g == g && e.va == va) }) ∧
        ∀ a, OutsideSpans [ks] a → Mem.read t.mem a = Mem.read s1.mem a))

/-! ## Copies and key-value commits (13) -/

/-- 13 R287-R291: a copy instruction whose checks pass and whose tile's queue has room adds one command to it, with the pairs of
its active payload lanes, and changes no memory; one that fails a check traps, and one that finds the queue full waits. That the word of a
command on a peer to which it copies nothing is trap(BOUNDS) is the model's reading (log entry 71). -/
def Obligations.CopyInstructions : Prop :=
  ∀ (s : State) (x : Site) (fr : Frame) (c : Cur) (f : Fields) (fm : Form) (i : OpIn), AtPlace s x fr c →
    let room := s.copyCount x.tile < 32
    let Adds (e : Instr) (opc : Nat) (kind : CopyKind) (n : Nat) : Prop :=
      ∃ (t : State) (cmd : CopyCmd),
        CompletesVoid (exec e s) t x opc ∧ (t.tile x.tile).copyQ = (s.tile x.tile).copyQ ++ [cmd] ∧ cmd.id = s.nextId ∧
        t.nextId = s.nextId + 1 ∧ cmd.kind = kind ∧ cmd.started = false ∧ cmd.pairs.length = n ∧ t.mem = s.mem
    let payload := i.mask.list.filter fun k => !ctlCw (i.c.nat k)
    let words := i.mask.list.filter fun k => ctlCw (i.c.nat k)
    let Traps (e : Instr) (k : Nat) : Prop := exec e s = .next (s.takeParkTrap x i.mask k (Lanes.all 0))
    let Control (e : Instr) (opc : BitVec 9) (grp : Bool) (read : List (Fin 32)) : Prop :=
      (ctlTrap i grp read = some .reserved → exec e s = .next (s.takeReserved x c (wordOf opc f) .void)) ∧
      (ctlTrap i grp read = some trapBounds → Traps e 4)
    let Addresses (e : Instr) (as : List CopyAddr) : Prop :=
      (s.copyTrap x as = some trapBounds → Traps e 4) ∧ (s.copyTrap x as = some trapAlign → Traps e 3)
    (Fits opCpyW f x c fm i →
      (i.mask = 0 → CompletesVoid (exec (.cpyW f) s) s x 0x112) ∧
      (i.mask ≠ 0 →
        let as := i.mask.list.map fun k => CopyAddr.mk .dst (i.a.nat k) (i.ty.bits / 8) (i.ty.bits / 8)
        (s.copyTrap x as = none → room → Adds (.cpyW f) 0x112 .w i.mask.list.length) ∧
        (s.copyTrap x as = none → ¬room → exec (.cpyW f) s = .next s) ∧ Addresses (.cpyW f) as)) ∧
    (Fits opCpyFill f x c fm i →
      (i.mask = 0 → CompletesVoid (exec (.cpyFill f) s) s x 0x114) ∧
      (i.mask ≠ 0 →
        let as := (payload.map fun k => CopyAddr.mk .dst (i.a.nat k) (ctlLen (i.c.nat k)) 1) ++
          words.map fun k => CopyAddr.mk .word (i.a.nat k) 4 4
        let stray := ∃ k ∈ words, 2 ^ 56 ≤ i.a.nat k ∧ ∀ j ∈ payload, i.a.nat j / 2 ^ 56 ≠ i.a.nat k / 2 ^ 56
        Control (.cpyFill f) 0x114#9 false i.mask.list ∧
        (ctlTrap i false i.mask.list = none →
          (stray → Traps (.cpyFill f) 4) ∧
          (¬stray → Addresses (.cpyFill f) as ∧ (s.copyTrap x as = none →
            (room → Adds (.cpyFill f) 0x114 .fill payload.length) ∧ (¬room → exec (.cpyFill f) s = .next s)))))) ∧
    (Fits opCpyBlk f x c fm i →
      let as := (payload.flatMap fun k => [CopyAddr.mk .src (i.a.nat k) (ctlLen (i.c.nat k)) 1,
        CopyAddr.mk .dst (i.b.nat k) (ctlLen (i.c.nat k)) 1]) ++ words.map fun k => CopyAddr.mk .word (i.b.nat k) 4 4
      let stray := i.strayBlk s (payload.map i.b.nat) (words.map i.b.nat)
      Control (.cpyBlk f) 0x110#9 false i.mask.list ∧
      (ctlTrap i false i.mask.list = none →
        (stray = true → Traps (.cpyBlk f) 4) ∧
        (stray = false → Addresses (.cpyBlk f) as ∧
          (s.copyTrap x as = none → s.roundAt x.w.block x.wave.cpyBlk = none →
            (room → Adds (.cpyBlk f) 0x110 .blk payload.length) ∧ (¬room → exec (.cpyBlk f) s = .next s)) ∧
          (∀ t, s.copyTrap x as = none → s.roundAt x.w.block x.wave.cpyBlk = some t →
            ∃ u, CompletesVoid (exec (.cpyBlk f) s) u x 0x110 ∧ (u.tile t).copyQ.length = (s.tile t).copyQ.length ∧
              u.nextId = s.nextId + 1 ∧ u.mem = s.mem)))) ∧
    (Fits opCpyGrp f x c fm i →
      let pay := i.mask.list.find? fun k => !ctlCw (i.c.nat k)
      Control (.cpyGrp f) 0x111#9 true (words ++ pay.toList) ∧
      (pay = none → ctlTrap i true words = none → Traps (.cpyGrp f) 4) ∧
      (∀ k, pay = some k → ctlTrap i true (words ++ [k]) = none →
        let g := ctlGrp (i.c.nat k)
        let len := ctlLen (i.c.nat k)
        let as := [CopyAddr.mk .src (i.a.nat k) len 1, CopyAddr.mk .dst (i.b.nat k) len 1] ++
          words.map fun j => CopyAddr.mk .word (i.b.nat j) 4 4
        let inDie := winOf (i.b.nat k) = .die ∧ ∀ j ∈ words, winOf (i.b.nat j) = .die
        (groupOf x.launch x.w.blk g = none → Traps (.cpyGrp f) 4) ∧
        (∀ gr, groupOf x.launch x.w.blk g = some gr →
          let round := x.launch.cgrps.find? fun r => r.g == g && !r.closed x.launch gr.members
          (len = 0 ∨ len % 16 ≠ 0 ∨ ¬inDie → Traps (.cpyGrp f) 4) ∧
          (len ≠ 0 → len % 16 = 0 → inDie → Addresses (.cpyGrp f) as ∧ (s.copyTrap x as = none →
            (round = none → ¬room → exec (.cpyGrp f) s = .next s) ∧
            (round = none → room →
              ∃ (t : State) (l : Launch) (r : GrpRound) (e : GrpIssue),
                CompletesVoid (exec (.cpyGrp f) s) t x 0x111 ∧ t.launch? x.w.lid = some l ∧ l.cgrps = x.launch.cgrps ++ [r] ∧
                r.g = g ∧ r.len = len ∧ r.issues = [e] ∧ e.id = s.nextId ∧ e.blk = x.w.blk ∧
                e.started = false ∧ t.nextId = s.nextId + 1 ∧ t.mem = s.mem) ∧
            (∀ r, round = some r →
              ((r.issues.any fun e => e.blk == x.w.blk) = true → exec (.cpyGrp f) s = .next s) ∧
              ((r.issues.any fun e => e.blk == x.w.blk) = false →
                (r.len ≠ len → Traps (.cpyGrp f) 4) ∧ (r.len = len → ¬room → exec (.cpyGrp f) s = .next s) ∧
                (r.len = len → room →
                  ∃ (t : State) (l : Launch), CompletesVoid (exec (.cpyGrp f) s) t x 0x111 ∧ t.launch? x.w.lid = some l ∧
                    l.cgrps.length = x.launch.cgrps.length ∧ t.nextId = s.nextId + 1 ∧ t.mem = s.mem))))))))

/-- 13 R294-R296: `kvcommit` reads its descriptor, the committed length and the path, checks them, and adds one command to the
key-value engine's queue; the word that it owes is the new committed length. -/
def Obligations.KvCommitInstruction : Prop :=
  ∀ (s s1 s2 s3 : State) (x : Site) (fr : Frame) (c : Cur) (f : Fields) (fm : Form) (i : OpIn) (b cl q : List (List Byte)),
    AtPlace s x fr c → Fits opKvcommit f x c fm i → s.readAcc x winsAll 64 [(i.uni i.a, 64)] = .ok (s1, b) →
    let d := kvDescOf (ofLe b.flatten)
    (d.trap? = some trapFormat → exec (.kvcommit f) s = .next (s.takeParkTrap x i.mask 2 (Lanes.all 0))) ∧
    (d.trap? = none → s1.readAcc x [.all, .die] 4 [(d.clen, 4)] = .ok (s2, cl) →
      s2.readAcc x winsAll 1 (pieces d.path (2 * d.npath)) = .ok (s3, q) →
      let p := ofLe cl.flatten
      let ns := numsOf 2 q.flatten d.npath
      ((pathRising ns = false ∨ ∃ n ∈ ns, d.nspec ≤ n) →
        exec (.kvcommit f) s = .next (s.takeParkTrap x i.mask 4 (Lanes.all 0))) ∧
      (pathRising ns = true → (∀ n ∈ ns, n < d.nspec) → p + d.nspec < 2 ^ 32 →
        ∃ (t : State) (k : KvCmd),
          CompletesVoid (exec (.kvcommit f) s) t x 0x113 ∧ (t.tile x.tile).kvQ = (s3.tile x.tile).kvQ ++ [k] ∧
          k.id = s3.nextId ∧ t.nextId = s3.nextId + 1 ∧ k.owed.va = BitVec.ofNat 64 d.clen ∧
          k.owed.value = BitVec.ofNat 32 (p + d.npath) ∧ t.mem = s3.mem))

/-- 10 R228; 12 R256; 13 R289, R292, R293: the copy engine starts the first command that may start, once its gap is over; a command whose
pieces are all placed writes its completion word and leaves the queue; a faulting one pauses. That a command which is not yet whole, or
which a fence holds, is passed over by the next one is the model's choice (log entry 25), as is the gap that a command took at its issue
(log entry 55), and that a whole command whose word stands on a peer to which it copies nothing is aborted (log entry 71). -/
def Obligations.CopyEngineEvents : Prop :=
  ∀ (s : State) (t : TileRef),
    ((s.tile t).copyQ.find? (s.copyReady t) = none → exec (.copyCommandStart t) s = .next s) ∧
    (∀ c, (s.tile t).copyQ.find? (s.copyReady t) = some c →
      (s.paceOk t 0 c.gap = false → exec (.copyCommandStart t) s = .next s) ∧
      (∀ w, s.paceOk t 0 c.gap = true → c.stray? = some w → exec (.copyCommandStart t) s = .next (s.abortCopy t c w.by_)) ∧
      (s.paceOk t 0 c.gap = true → c.stray? = none → exec (.copyCommandStart t) s = .next (s.modTile t fun x =>
        { x with
          starts := x.starts.put 0 (s.engNow t)
          copyQ := x.copyQ.map fun e =>
            if e.id == c.id then
              { e with started := true, pairs := (c.pairs.foldl (fun r p => insertPair p r) []).map CopyPair.start }
            else e }))) ∧
    (∀ c, s.copy? t c.id = some c → c.started = true → c.paused = none →
      (c.pairs = [] → c.words = [] → s.sentPending t c = false →
        exec (.copyCommandComplete t c.id) s = .next (s.dropCopy t c.id)) ∧
      (∀ w s1, c.pairs = [] → c.words = [w] → w.va.toNat < 2 ^ 56 → s.sentPending t c = false →
        s.writeWord t w = (s1, .ok ()) →
        exec (.copyCommandComplete t c.id) s =
          .next ((s1.modCopy t c.id fun c => { c with words := [] }).dropCopy t c.id)) ∧
      (∀ i va wr, (c.pairs.findSome? fun p => (p.faulting s t.die).map fun r => (p.by_, r)) = some (i, va, wr) →
        exec (.enginePageFault t c.id) s = .next (s.pauseCopy t c i va wr)))

/-- 13 R290, R296: the last piece of a group copy's slice lands in the member that it is for; a `kvcommit` whose statements are
all placed writes the committed length and leaves its queue. -/
def Obligations.GroupCopyAndCommitEvents : Prop :=
  ∀ (s : State),
    (∀ lid g src dst l gr a m o n bs e s1 ks, s.launch? lid = some l → l.groups[g]? = some gr → m = gr.rank dst →
      s.grpAt lid g (fun i => i.blk == src && !i.ended && (!i.opened.contains m || i.toWrite.any fun e => e.1 == m)) = some a →
      s.grpAt lid g (fun i => i.id == a.issue.id) = some a → a.issue.started = true → a.issue.paused = none →
      a.issue.ended = false → a.issue.slice.toRead = [] → a.issue.toWrite = [(m, o, n)] →
      a.issue.slice.bytes? o n = some bs →
      (a.grp.members[m]?).bind (fun b => a.round.issues.find? fun e => e.blk == b) = some e →
      s.ownSpans { lid := lid, blk := e.blk }
        (e.dst.toNat % 2 ^ 24 + sliceAt (a.grp.rank a.issue.blk) a.round.len a.grp.members.length + o) n = (s1, .ok ks) →
      exec (.cpyGrpSliceLand lid g src dst) s =
        .next (((((s1.putPiece (a.issue.by_.writer a.issue.tile 1) ks bs (a.issue.slice.spoiled o n)).setIssue lid a { a.issue with toWrite := [] }).grpWord lid
          g dst)).dropRounds lid)) ∧
    (∀ t k s1, s.kv? t k.id = some k → s.startKv t k.id = s → k.started = true → k.ops = [] → k.paused = none → (s.tile t).fenced 4 k.id = false →
      s.writeWord t k.owed = (s1, .ok ()) →
      exec (.kvcommitComplete t k.id) s =
        .next (s1.modTile t fun x => { x with kvQ := x.kvQ.filter fun c => c.id != k.id })) ∧
    (∀ t k op r va wr, s.copy? t k.id = none → s.kv? t k.id = some k → k.started = true → k.paused = none → k.ops = op :: r →
      (s.kvAccess k t op 0).2 = .fault va wr → exec (.enginePageFault t k.id) s = .next (s.pauseKv t k va wr))

/-! ## Matrix and tree instructions (08) -/

/-- 08 R187, R196-R198: tile extraction and insertion, element by element; a new tile is zero; the attention mask and the masked fill; and
the ancestor sets of a token tree: a node's set holds itself and its parent's set; a parent that does not come before its node, and a
node count out of range, trap. -/
def Obligations.TilesAndTokenTrees : Prop :=
  (∀ (s : State) (x : Site) (fr : Frame) (c : Cur) (f : Fields) (m : LaneMask), AtPlace s x fr c → f.md = 0 →
    (f.typ.toNat = Ty.tile.code → f.a = 0 → f.b = 0 → f.c = 0 → f.p = 0 →
      CompletesAll (exec (.tzero f) s) s x 0x11A .tile fun _ => 0) ∧
    (∀ T va vb, f.typ.toNat = T.code → T ∈ tyTelem → Active c f.p m → Names c f.a .tile va → Names c f.b .n32 vb → f.c = 0 →
      CompletesBy (exec (.textr f) s) s x 0x11B T m (fun _ => 0) fun k d => d = tileElem (va.nat k) (vb.nat k % 32)) ∧
    (∀ U va vb vc, f.typ.toNat = Ty.tile.code → U ∈ tyTelem → Active c f.p m → Names c f.a .tile va → Names c f.b U vb →
      Names c f.c .n32 vc →
      CompletesBy (exec (.tins f) s) s x 0x11C .tile m va.nat fun k d =>
        ∀ j < 32, tileElem d j = if j = vc.nat k % 32 then vb.nat k % 2 ^ 32 else tileElem (va.nat k) j) ∧
    (∀ va vb vc, f.typ.toNat = Ty.n32.code → Active c f.p m → Names c f.a .tile va → Names c f.b .n32 vb → Names c f.c .n32 vc →
      ∀ l : Fin 32, m.has l.val = true → (∀ j : Fin 32, m.has j.val = true → l ≤ j) →
        CompletesBy (exec (.tmask f) s) s x 0x131 .n32 m (fun _ => 0) fun k =>
          let pos (j : Nat) : Nat := vb.nat l + j
          HasBits 32 fun j => decide (pos j < vc.nat l) ||
            (decide (pos j < vc.nat l + 256) && (va.nat k).testBit (pos j - vc.nat l))) ∧
    (∀ U va vb vc, f.typ.toNat = Ty.tile.code → U ∈ tyTelem → Active c f.p m → Names c f.a .tile va → Names c f.b .n32 vb →
      Names c f.c U vc → (∀ k, vc.nat k < 2 ^ 32) →
      CompletesBy (exec (.tsel f) s) s x 0x132 .tile m va.nat fun k d =>
        ∀ j < 32, tileElem d j = if (vb.nat k).testBit j then tileElem (va.nat k) j else vc.nat k)) ∧
  (∀ (s : State) (x : Site) (fr : Frame) (c : Cur) (f : Fields) (fm : Form) (i : OpIn) (l : Fin 32),
    AtPlace s x fr c → Fits opTanc f x c fm i → i.mask.lowest = some l →
    let n := i.c.nat l
    let par (j : Nat) : Nat := i.a.nat (Fin.ofNat 32 (j / 8)) / 2 ^ (8 * (j % 8)) % 256
    (n < 1 ∨ 256 < n → exec (.tanc f) s = .next (s.takeParkTrap x i.mask 4 (Lanes.all 0))) ∧
    (1 ≤ n → n ≤ 256 → (∃ j < n, 0 < j ∧ j ≤ par j) →
      exec (.tanc f) s = .next (s.takeParkTrap x i.mask 4 (Lanes.all 0))) ∧
    (1 ≤ n → n ≤ 256 → (∀ j < n, 0 < j → par j < j) →
      ∃ anc : Nat → Nat,
        (∀ j < n, ∀ b, (anc j).testBit b = (b == j || (decide (0 < j) && (anc (par j)).testBit b))) ∧
        CompletesBy (exec (.tanc f) s) s x 0x130 .tile i.mask (fun _ => 0) fun k d =>
          d = if i.b.nat k < n then anc (i.b.nat k) else 0))

/-- 02 R40, R41; 08 R179, R188; 13 R271: the instructions that read a format block complete when its checks and their reads pass, and
trap when it names what they do not take. That `tcvt` reads one quarter of its block at each try is the model's choice (log entry 17), as
is what `fmtld` and `ld.frag` give in lanes that are not active (log entry 29). -/
def Obligations.FormatBlockInstructions : Prop :=
  ∀ (s s1 : State) (x : Site) (fr : Frame) (c : Cur) (f : Fields) (fm : Form) (i : OpIn) (b : Nat),
    AtPlace s x fr c → i.mask ≠ 0 →
    (Fits opFmtld f x c fm i → s.readBlock x true (i.low i.a) = .ok (s1, b) →
      (blockTrap b true = none →
        CompletesBy (exec (.fmtld f) s) s1 x 0x11D .fmt (BitVec.allOnes 32) (fun _ => 0) fun _ d => d = b % 2 ^ 512) ∧
      (blockTrap b true = some trapFormat → exec (.fmtld f) s = .next (s.takeParkTrap x i.mask 2 (Lanes.all 0)))) ∧
    (∀ s2 bs, Fits opLdFrag f x c fm i → s.readBlock x true (i.low i.b) = .ok (s1, b) → blockTrap b true = none →
      s1.readAcc x winsAll 16 (i.mask.list.map fun k => (i.a.nat k, rowBytes (fmtHalf b (f.md.toNat % 2)).fmt
        (prodK (fmtHalf b 0).fmt (fmtHalf b 1).fmt))) = .ok (s2, bs) →
      CompletesBy (exec (.ldFrag f) s) s2 x 0x0E4 .frag (BitVec.allOnes 32) (fun _ => 0) fun k d =>
        d / 2 ^ 1536 = i.low i.b % 2 ^ 64 ∧
        (if i.mask.has k.val then ∀ r, OfLane i.mask bs k r → d % 2 ^ 1536 = ofLe r % 2 ^ 1536 else d % 2 ^ 1536 = 0)) ∧
    (Fits opTcvt f x c fm i → ((s.tile x.tile).fenced 2 s.nextId = false ∨ x.wave.quarters ≠ []) → s.readBlock x false (i.low i.b) = .ok (s1, b) →
      x.wave.quarters.length < 3 →
      exec (.tcvt f) s = .next (s1.modWave x.w fun w => { w with
        quarters := x.wave.quarters ++ [b / 2 ^ (128 * x.wave.quarters.length) % 2 ^ 128] })) ∧
    (Fits opTcvt f x c fm i → ((s.tile x.tile).fenced 2 s.nextId = false ∨ x.wave.quarters ≠ []) → s.fetchBlock x (i.low i.b) = .ok (s1, b) →
      blockTrap b true = none →
      let h := (fmtHalf b (f.md.toNat / 4 % 2)).fmt
      (h ≠ 10 → h ≠ 11 → exec (.tcvt f) s = .next (s.takeParkTrap x i.mask 2 (Lanes.all 0))) ∧
      (h = 10 ∨ h = 11 →
        ∃ n, CompletesBy (exec (.tcvt f) s) (s1.orIeee x.w n) x 0x11E .frag (BitVec.allOnes 32) (fun _ => 0) fun _ d =>
          d / 2 ^ 1536 = i.low i.b % 2 ^ 64))

/-- 02 R41; 08 R180, R181, R184: a product reads its format block in four quarters at issue, checks it, and is then in flight; at its
completion the result is placed whole and the wave goes on. That one quarter is read at each try of the product is the model's choice (log
entry 17), and so is that pacing holds back the product's issue (log entry 55). -/
def Obligations.MatrixProducts : Prop :=
  ∀ (s : State) (x : Site),
    (∀ e ∈ ([(.mma, opMma), (.mmaL2, opMmaL2)] : List OpRow), ∀ fr c f fm i s1 blk,
      AtPlace s x fr c → Fits e.2 f x c fm i →
      (i.mask = 0 → CompletesBy (exec (e.1 f) s) s x e.2.opc .tile 0 i.c.nat fun _ _ => True) ∧
      (i.mask ≠ 0 → ((s.tile x.tile).fenced 2 s.nextId = false ∨ x.wave.quarters ≠ []) → s.paceOk x.tile 2 (i.gaps s).pmma = true → x.wave.replay = false →
        s.readBlock x false i.fba = .ok (s1, blk) → x.wave.quarters.length < 3 →
        exec (e.1 f) s = .next (s1.modWave x.w fun w => { w with
          quarters := x.wave.quarters ++ [blk / 2 ^ (128 * x.wave.quarters.length) % 2 ^ 128] })) ∧
      (i.mask ≠ 0 → ((s.tile x.tile).fenced 2 s.nextId = false ∨ x.wave.quarters ≠ []) → s.paceOk x.tile 2 (i.gaps s).pmma = true → x.wave.replay = false →
        s.fetchBlock x i.fba = .ok (s1, blk) → blockTrap blk ((fmtHalf blk 0).fmt == f.md.toNat / 2 % 16) = none →
        productTrap i (e.2.opc == 0x119) blk = none →
        ∃ t, exec (e.1 f) s = .next t ∧ t.nextId = s1.nextId + 1 ∧ t.mem = s1.mem ∧
          ∀ y, s1.wave? x.w = some y → t.wave? x.w = some { y with
            mode := .mma
            staged := some { id := s1.nextId, l2 := e.2.opc == 0x119, md := f.md, mask := i.mask, a := i.a, b := i.b, c := i.c,
                             fmt := BitVec.ofNat 512 blk, fetched := [] } })) ∧
    (∀ w g s1 cs v, s.site? w = some x → x.wave.staged = some g → x.wave.mode = .mma →
      (s.tile x.tile).fenced 2 g.id = false → s.fetchRest x g.fetched g.chunks = .ok (s1, cs) → g.product cs = some v →
      exec (.mmaComplete w) s =
        .next ((s1.modWave w fun y => { y with staged := none }).release w (if g.l2 then 0x119 else 0x118) (x.inLanes v)))

/-! ## The row engine (08) -/

/-- 08 R190, R193, R194: a note whose checks pass takes its place in the row queue with the configuration of its wave, pacing is
bounded, and `row.cfg` takes only a positive normal τ. -/
def Obligations.RowInstructions : Prop :=
  ∀ (s : State) (x : Site) (fr : Frame) (c : Cur) (f : Fields) (fm : Form) (i : OpIn), AtPlace s x fr c →
    let room := (s.tile x.tile).rowWaiting < 16
    (∀ e ∈ ([((.rowTop, opRowTop), .top), ((.rowHeart, opRowHeart), .heart), ((.rowBase, opRowBase), .base)] :
        List (OpRow × RowUnit)), Fits e.1.2 f x c fm i →
      let es := if f.md.toNat % 2 = 1 then 2 else 4
      let n := i.uni i.c
      let row := i.uni i.a
      let rec_ := i.uni i.b
      let out := ((row : Int) + toInt .i32 x.wave.ofs.toNat) % 2 ^ 64
      let base := e.2 = .base
      (n < 1 ∨ 8192 < n → exec (e.1.1 f) s = .next (s.takeParkTrap x i.mask 4 (Lanes.all 0))) ∧
      (1 ≤ n → n ≤ 8192 → (row % es ≠ 0 ∨ rec_ % 16 ≠ 0) →
        exec (e.1.1 f) s = .next (s.takeParkTrap x i.mask 3 (Lanes.all 0))) ∧
      (∀ kr kc ko, 1 ≤ n → n ≤ 8192 → row % es = 0 → rec_ % 16 = 0 → (base → toInt .i32 x.wave.ofs.toNat % (es : Int) = 0) →
        s.rowKey x row (n * es) = some kr → s.rowKey x rec_ 16 = some kc →
        (base → s.rowKey x out.toNat (n * es) = some ko) →
        rangesMeet kr (n * es) kc 16 = false → (base → rangesMeet ko (n * es) kc 16 = false) →
        (room →
          ∃ (t : State) (q : RowCmd),
            CompletesVoid (exec (e.1.1 f) s) t x e.1.2.opc ∧ (t.tile x.tile).rowQ = (s.tile x.tile).rowQ ++ [q] ∧
            q.id = s.nextId ∧ q.unit = e.2 ∧ q.row = row ∧ q.recVa = rec_ ∧ q.n = n ∧ q.tau = x.wave.tau ∧
            q.out = (if base then out.toNat else row) ∧ q.start = none ∧ t.nextId = s.nextId + 1 ∧ t.mem = s.mem) ∧
        (¬room → exec (e.1.1 f) s = .next s))) ∧
    (Fits opRowPace f x c fm i →
      (65535 < i.uni i.a → exec (.rowPace f) s = .next (s.takeParkTrap x i.mask 4 (Lanes.all 0))) ∧
      (i.uni i.a ≤ 65535 → room →
        ∃ (t : State) (q : RowCmd),
          CompletesVoid (exec (.rowPace f) s) t x 0x12B ∧ (t.tile x.tile).rowQ = (s.tile x.tile).rowQ ++ [q] ∧
          q.unit = .pace ∧ q.gap = i.uni i.a ∧ t.mem = s.mem)) ∧
    (Fits opRowSync f x c fm i →
      (s.rowPending x.w = false → CompletesVoid (exec (.rowSync f) s) s x 0x12C) ∧
      (s.rowPending x.w = true → exec (.rowSync f) s = .next (s.setWave x.w { x.wave with mode := .rowSync }))) ∧
    (Fits opRowCfg f x c fm i →
      let tau := i.uni i.a
      (0x00800000 ≤ tau → tau ≤ 0x7F7FFFFF →
        CompletesVoid (exec (.rowCfg f) s)
          (s.setWave x.w { x.wave with tau := BitVec.ofNat 32 tau, ofs := BitVec.ofNat 32 (i.uni i.b) }) x 0x12D) ∧
      (tau < 0x00800000 ∨ 0x7F7FFFFF < tau → exec (.rowCfg f) s = .next (s.takeParkTrap x i.mask 2 (Lanes.all 0))))

/-- 08 R193, R194: the row engine starts its oldest waiting command when its cycle has come, a note that has read and written all
of its bytes writes its status word and leaves the queue, and a `row.sync` ends when nothing of its wave is left. -/
def Obligations.RowEngineEvents : Prop :=
  ∀ (s : State) (t : TileRef),
    (∀ q st, (s.tile t).rowQ.find? (fun c => c.start.isNone) = some q → (s.tile t).rowStart q = some st →
      (s.engNow t < st → exec (.rowNoteStart t) s = .next s) ∧
      (st ≤ s.engNow t → (s.tile t).fenced 3 q.id = false →
        (q.unit = .pace →
          ∃ u, exec (.rowNoteStart t) s = .next u ∧ ((u.tile t).ctx q.ctx).prow = q.gap ∧ (u.tile t).rowLast = st ∧
            (u.tile t).rowQ = (s.tile t).rowQ.filter (fun e => e.id != q.id)) ∧
        (q.unit ≠ .pace →
          ∃ u, exec (.rowNoteStart t) s = .next u ∧ (u.tile t).rowLast = st ∧
            (u.tile t).rowQ = (s.tile t).rowQ.map (fun e => if e.id == q.id then
              { e with start := some st, fin := st + rowDuration (narrowDie t.die) q.unit q.n } else e)))) ∧
    (∀ q s1, s.row? t q.id = some q → q.start.isSome = true → q.fin ≤ s.engNow t → q.toRead = [] → q.outs = some [] →
      s.writeWord t { q.owed with value := BitVec.ofNat 32 q.status } = (s1, .ok ()) →
      ∃ u, exec (.rowNoteDone t q.id) s = .next u ∧ u.mem = s1.mem ∧
        (u.tile t).rowQ = ((s.tile t).rowQ.filter fun e => e.id != q.id).map fun e =>
          if e.key = q.key ∧ e.unit ≠ .pace then { e with arrive := max e.arrive q.fin } else e) ∧
    (∀ w x, s.wave? w = some x →
      exec (.rowSyncDone w) s =
        .next (if x.mode = .rowSync ∧ s.rowPending w = false then s.release w 0x12C Value.void else s))

/-! ## Gears and clocks (10) -/

/-- 10 R220, R225-R229; 17 R360: the gear, clock, pace and boost instructions act on the issuing wave's context on its tile; a request of
a context that a switch takes off the tile is only set. The requests of one control cycle act in the order of R220; how the model keeps that order is its own reading (log entry 42). -/
def Obligations.GearInstructions : Prop :=
  ∀ (s : State) (x : Site) (fr : Frame) (c : Cur) (f : Fields) (fm : Form) (i : OpIn), AtPlace s x fr c →
    let withCtx (g : TileCtx → TileCtx) : State :=
      s.setTile x.tile ((s.tile x.tile).setCtx x.launch.ctx (g ((s.tile x.tile).ctx x.launch.ctx)))
    (Fits opGear f x c fm i →
      let last := (s.tile x.tile).lastGear
      let outdone := ∃ e, last = some e ∧ e.1 = s.ctlNow x.tile ∧ 16 * (x.w.wav % 2) + x.wave.slot < e.2
      let asked := (withCtx fun k => { k with gear := f.md.toNat % 8 }).modTile x.tile fun y =>
        { y with lastGear := some (s.ctlNow x.tile, 16 * (x.w.wav % 2) + x.wave.slot) }
      let leaves := ∃ w, (s.tile x.tile).switch = some w ∧ w.landed = none ∧ (s.tile x.tile).act = x.launch.ctx
      (∀ s1, (outdone → s1 = s) → (¬outdone → leaves → s1 = asked) → (¬outdone → ¬leaves → s1 = asked.decideGear x.tile 0) →
      (f.md.toNat < 8 ∨ (s1.tile x.tile).clock.change = none → CompletesVoid (exec (.gear f) s) s1 x 0x134) ∧
      (8 ≤ f.md.toNat → (s1.tile x.tile).clock.change ≠ none →
        exec (.gear f) s = .next (s1.modWave x.w fun w => { w with mode := .gear })))) ∧
    (Fits opGearRd f x c fm i →
      CompletesBy (exec (.gearRd f) s) s x 0x135 .n32 (BitVec.allOnes 32) (fun _ => 0) fun _ d =>
        d = s.gearWord x.tile x.launch.ctx % 2 ^ 32) ∧
    (Fits opClk f x c fm i →
      CompletesBy (exec (.clk f) s) s x 0x136 .n64 (BitVec.allOnes 32) (fun _ => 0) fun _ d =>
        (f.md = 0 → d = s.tick % 2 ^ 64) ∧ (f.md = 1 → d = s.ctlNow x.tile % 2 ^ 64) ∧ (f.md = 2 → d = s.engNow x.tile % 2 ^ 64)) ∧
    (Fits opPace f x c fm i →
      let gap := i.uni i.a
      (65535 < gap → exec (.pace f) s = .next (s.takeParkTrap x i.mask 4 (Lanes.all 0))) ∧
      (gap ≤ 65535 →
        (f.md = 0 → CompletesVoid (exec (.pace f) s) (withCtx fun k => { k with pcpy := gap }) x 0x137) ∧
        (f.md = 1 → CompletesVoid (exec (.pace f) s) (withCtx fun k => { k with pkv := gap }) x 0x137) ∧
        (f.md = 2 → CompletesVoid (exec (.pace f) s) (withCtx fun k => { k with pmma := gap }) x 0x137) ∧
        (f.md = 3 → CompletesVoid (exec (.pace f) s) (withCtx fun k => { k with pfab := gap }) x 0x137))) ∧
    (Fits opBoost f x c fm i →
      (f.md = 0 → CompletesVoid (exec (.boostReq f) s) (withCtx fun k => { k with boost := true }) x 0x138) ∧
      (f.md = 1 → CompletesVoid (exec (.boostRel f) s) (withCtx fun k => { k with boost := false }) x 0x138))

/-- 10 R218, R220, R221, R225: the effective gear is the lowest of the request (4 for a 5 without a grant) and the holds of the active
context, its rail follows from that alone, and its divisors from the lower of it and the throttle's cap; a gear change takes effect at its boundary, or begins a rail stall of 392 ticks there when the rail
changes, and lands when the stall ends; until then the old clock runs. That a change to the gear that already runs is dropped, and that a
`gear.w` which waits for it then goes on, is the model's choice (log entry 42). -/
def Obligations.GearChanges : Prop :=
  ∀ (s : State) (t : TileRef) (ch : GearChange), (s.tile t).clock.change = some ch →
    let k := (s.tile t).clock
    let e := s.effGear t
    let req := ((s.tile t).ctx (s.tile t).act).gear
    let gp := if req = 5 ∧ k.grant = false then 4 else req
    let held (h : (Nat × Nat × Nat)) : Prop := h ∈ k.holds ∧ ∃ l, s.launch? h.1 = some l ∧ l.ctx = (s.tile t).act
    e = (min (s.gearGr t) k.cap, decide (2 ≤ s.gearGr t)) ∧ s.gearGr t ≤ gp ∧ (∀ h, held h → s.gearGr t ≤ h.2.2) ∧
    (s.gearGr t = gp ∨ ∃ h, held h ∧ s.gearGr t = h.2.2) ∧
    (ch.stallEnd = none → s.tick < ch.bound → exec (.gearChangeEdge t) s = .next s) ∧
    (ch.stallEnd = none → ch.bound ≤ s.tick →
      (e = (k.gd, k.fast) →
        exec (.gearChangeEdge t) s =
          .next ((s.setTile t { s.tile t with clock := { k with change := none, capWas := k.cap } }).wakeGear t)) ∧
      (e ≠ (k.gd, k.fast) → e.2 = k.fast →
        exec (.gearChangeEdge t) s = .next ((s.landGear t ch.bound e.1 e.2 (firstCause ch.causes) (s.throttled t)).wakeGear t)) ∧
      (e.2 ≠ k.fast →
        ∃ u c1, exec (.gearChangeEdge t) s = .next u ∧ (u.tile t).clock = { k with change := some c1, capWas := k.cap } ∧
          c1.stallEnd = some (ch.bound + 392) ∧ c1.tgt = e.1 ∧ c1.tfast = e.2 ∧ u.mem = s.mem)) ∧
    (∀ fin, ch.stallEnd = some fin →
      (s.tick < fin → exec (.railChangeEnd t) s = .next s) ∧
      (fin ≤ s.tick → e = (k.gd, k.fast) →
        exec (.railChangeEnd t) s =
          .next ((s.setTile t { s.tile t with clock := { k with change := none, capWas := k.cap, stalled := fin } }).wakeGear t)) ∧
      (fin ≤ s.tick → e ≠ (k.gd, k.fast) →
        let landed := s.landGear t fin ch.tgt ch.tfast ch.tcause ch.tthr
        exec (.railChangeEnd t) s =
          .next (((landed.setTile t { landed.tile t with clock := { (landed.tile t).clock with stalled := fin, capWas := k.capWas } }).decideGear
            t (firstCause ch.causes)).wakeGear t)))

/-! ## Native operations (05) -/

/-- 01 R15; 05 R99, R102: the native-only operations, each issued as a bundle by its stream of a native wave that runs: an encoding that
R99 does not allow, and a bundle without SP after 63 of them, are native-illegal; otherwise the stream passes the bundle, or jumps,
and the op has its one effect. That `spst` writes its lanes whatever k0 holds, that `jal` takes a DST below 256 alone, and that an access
beyond the wave's spill bytes is native-illegal, are the model's choice (log entry 35). -/
def Obligations.NativeInstructions : Prop :=
  ∀ (s : State) (x : Site) (n : Native) (fr : Frame) (fs : List Frame) (t : Translation) (q : Seq) (k : Nat) (sl : Slot) (T : Ty),
    s.cur = some x.w → s.site? x.w = some x → x.wave.native = some n → x.wave.mode = .run → n.waits = [] → x.wave.frames = fr :: fs →
    s.code? fr = some t → n.seqs[k]? = some q → sl.typ.toNat = T.code →
    let len := t.codeLen
    let n1 : Native :=
      { n with
        seqs := n.seqs.set k { q with pc := q.pc + 16, stopped := false, bun := q.bun + 1, noSp := q.noSp + 1, popWait := none }
        cur := none }
    let Goes (i : Instr) (m : Native) : Prop := exec i s = .next (s.setWave x.w { x.wave with native := some m })
    let Illegal (i : Instr) : Prop := exec i s = .next (s.illegalNative x t.tid)
    let k0 : LaneMask := if k = 0 then BitVec.allOnes 32
      else if narrowDie x.block.die then Tab.getD n.k 0 0 &&& 0x0000FFFF#32 else Tab.getD n.k 0 0
    let dst (opc : Nat) (U : Ty) : NDest :=
      let d : NDest :=
        { stream := k, slotB := false, half := false, addr := q.pc, bun := q.bun, sp := false, cuts := q.cuts, pop := 0,
          stg := sl.stg.toNat, opc := opc, dst := sl.dst, names := [], ty := U, mask := k0 }
      { d with names := n1.destNames d U }
    let jump (f : Nat → Prop) (d : Int) : Prop := ∀ a, jumpTo len q.pc d = some a → f a
    (63 ≤ q.noSp → s.opStream 0 = k → Illegal (.nop sl) ∧ Illegal (.mov sl) ∧ Illegal (.jmp sl)) ∧
    (q.noSp < 63 →
    (s.opStream 0 = k →
      ((Instr.nop sl).slotWf = true → Goes (.nop sl) n1) ∧ ((Instr.nop sl).slotWf = false → Illegal (.nop sl)) ∧
      ((Instr.mov sl).slotWf = true → n.srcFits T sl.sa = true → n.dstFits k T sl.dst = true →
        let U := if k = 0 ∧ sl.sa.toNat / 256 = 9 then Ty.n64 else T
        Goes (.mov sl) (n1.write (dst 0x1C1 U) (n.source k U sl.sa))) ∧
      ((Instr.mov sl).slotWf = false ∨ n.srcFits T sl.sa = false ∨ n.dstFits k T sl.dst = false → Illegal (.mov sl)) ∧
      ((Instr.jmp sl).slotWf = true →
        jump (fun a => Goes (.jmp sl) (n1.goto k a)) (disp24 sl.dst sl.sa) ∧
        (jumpTo len q.pc (disp24 sl.dst sl.sa) = none → Illegal (.jmp sl))) ∧
      ((Instr.jc sl).slotWf = true →
        let lanes := if k = 0 then Tab.getD n.k 0 0 else k0
        let met := (sl.mods = 0 ∧ n.sreg sl.dst ≠ 0) ∨
          (sl.mods = 1 ∧ lanes &&& Tab.getD n.k 0 (sl.dst.toNat % 16) ≠ 0) ∨
          (sl.mods = 2 ∧ lanes &&& ~~~(Tab.getD n.k 0 (sl.dst.toNat % 16)) = 0)
        jump (fun a => (met → Goes (.jc sl) (n1.goto k a)) ∧ (¬met → Goes (.jc sl) n1)) (disp24 sl.sa sl.sb)) ∧
      ((Instr.jal sl).slotWf = true →
        jump (fun a => ∃ m : Native, Goes (.jal sl) m ∧ m.seqs = (n1.goto k a).seqs ∧ m.v = n.v ∧ m.k = n.k ∧ m.tok = n.tok ∧
          m.loop = n.loop ∧ m.s = n.s.put (sl.dst.toNat % 256) (BitVec.ofNat 64 (q.pc + 16))) (disp24 sl.sa sl.sb)) ∧
      ((Instr.jr sl).slotWf = true →
        let a := (n.sreg sl.sa).toNat % 2 ^ 32
        (a % 16 = 0 → a + 16 ≤ len → Goes (.jr sl) (n1.goto k a)) ∧
        (a % 16 ≠ 0 ∨ len < a + 16 → Illegal (.jr sl)))) ∧
    (s.opStream 1 = k → 0 < k → k < 4 → (Instr.bcs sl).slotWf = true → n.srcFits T sl.sa = true → n.dstFits k T sl.dst = true →
      Goes (.bcs sl) (n1.write (dst 0x1C2 T) (n.source k T sl.sa))) ∧
    (∀ e, k = 3 → sl.ext = some e → (Instr.spst sl).slotWf = true → n.srcFits T sl.sa = true →
      (64 * e.imm.toNat + 128 * vNames T ≤ x.block.spill →
        exec (.spst sl) s = .next ((List.range (vNames T)).foldl (fun u j =>
            u.spillReg (x.spillKey (64 * e.imm.toNat + 128 * j)) (n.vreg (n.vnum 3 (sl.sa.toNat + j)))
              (if narrowDie x.block.die then 0x0000FFFF#32 else BitVec.allOnes 32))
          (s.setWave x.w { x.wave with native := some n1 }))) ∧
      (x.block.spill < 64 * e.imm.toNat + 128 * vNames T → Illegal (.spst sl))) ∧
    (∀ e, k = 1 → sl.ext = some e → (Instr.spld sl).slotWf = true → n.dstFits 1 T sl.dst = true → T ≠ .pred → T ≠ .tile →
      64 * e.imm.toNat + 128 * vNames T ≤ x.block.spill →
      let key := x.spillKey (64 * e.imm.toNat)
      let m := n1.write (dst 0x1C4 T) (s.spillValue T key)
      (s.poisoned key (128 * vNames T) = false → Goes (.spld sl) m) ∧
      (s.poisoned key (128 * vNames T) = true →
        exec (.spld sl) s = .next ((s.setWave x.w { x.wave with native := some m }).raise (.tileFault x.tile 4)))) ∧
    (∀ e, k = 0 → sl.ext = some e → (Instr.lcfg sl).slotWf = true →
      let wb := e.imm.extractLsb' 0 11
      let wsz := e.imm.extractLsb' 11 9
      (wb.toNat + wsz.toNat ≤ n.budget →
        Goes (.lcfg sl) { n1 with loop := { n.loop with
          lc := (n.sreg sl.sa).setWidth 32, wb := wb, wsz := wsz, ec := e.imm.extractLsb' 20 3, pm := e.imm.extractLsb' 23 4,
          sb := 0, rrb := 0, cf := true } }) ∧
      (n.budget < wb.toNat + wsz.toNat → Illegal (.lcfg sl))))

/-! ## Launch and context instructions (16) -/

/-- 16 R333-R337: `launch` puts its record, read whole at its place, into its context's queue and waits; `trig` marks its block;
`lwait` delivers the status word or waits; `ctxid` and `prio`. -/
def Obligations.LaunchInstructions : Prop :=
  ∀ (s : State) (x : Site) (fr : Frame) (c : Cur) (f : Fields) (fm : Form) (i : OpIn), AtPlace s x fr c →
    (Fits opLaunch f x c fm i →
      ((∃ k < 16, 2 ^ 56 ≤ i.uni i.a + 16 * k ∨ winOf (i.uni i.a + 16 * k) ≠ .glob) →
        exec (.launch f) s = .next (s.takeParkTrap x i.mask 4 (Lanes.all 0))) ∧
      ((∀ k < 16, i.uni i.a + 16 * k < 2 ^ 56 ∧ winOf (i.uni i.a + 16 * k) = .glob) → i.uni i.a % 64 ≠ 0 →
        exec (.launch f) s = .next (s.takeParkTrap x i.mask 3 (Lanes.all 0)))) ∧
    (∀ s1 bs k, Fits opLaunch f x c fm i → (∀ k < 16, i.uni i.a + 16 * k < 2 ^ 56 ∧ winOf (i.uni i.a + 16 * k) = .glob) →
      i.uni i.a % 64 = 0 → s.readAcc x [.glob] 16 ((List.range 16).map fun k => (i.uni i.a + 16 * k, 16)) = .ok (s1, bs) →
      s1.ctx? x.launch.ctx = some k →
      (256 ≤ k.dlq.length → exec (.launch f) s = .next s) ∧
      (∀ u va, k.dlq.length < 256 → i.snapshot s1 (launchRecOf (ofLe bs.flatten)) = .error (.page u va false) →
        exec (.launch f) s = .next (u.takePageFault x i.mask va false)) ∧
      (∀ u p k2 y, k.dlq.length < 256 → i.snapshot s1 (launchRecOf (ofLe bs.flatten)) = .ok (u, p) →
        u.ctx? x.launch.ctx = some k2 → u.wave? x.w = some y →
        ∃ t, exec (.launch f) s = .next t ∧
          t.ctx? x.launch.ctx = some { k2 with dlq := k2.dlq ++
            [{ num := u.nextId, record := bs.flatten, params := p, sys := x.launch.sys, wave := x.w }] } ∧
          t.wave? x.w = some { y with mode := .launch u.nextId } ∧ t.nextId = u.nextId + 1 ∧ t.mem = u.mem)) ∧
    (Fits opTrig f x c fm i →
      CompletesVoid (exec (.trig f) s) (s.setBlock x.w.block { x.block with triggered := true }) x 0x13D) ∧
    (∀ s1 bs, Fits opLwait f x c fm i → s.readAcc x [.glob] 16 [(i.uni i.a, 16)] = .ok (s1, bs) →
      let state := ofLe (bs.flatten.take 1)
      let code := ofLe ((bs.flatten.drop 1).take 1)
      let need := if f.md = 1 then 3 else 2
      (need ≤ state →
        CompletesBy (exec (.lwait f) s) s1 x 0x13E .n32 (BitVec.allOnes 32) (fun _ => 0) fun _ d => d = state + 256 * code) ∧
      (state < need →
        exec (.lwait f) s = .next (s1.modWave x.w fun y => { y with
          mode := .lwait (BitVec.ofNat 64 (i.uni i.a)) (f.md == 1) (if i.b.ty = .void then 0 else i.uni i.b) (s1.ctlNow x.tile) }))) ∧
    (Fits opCtxid f x c fm i →
      CompletesBy (exec (.ctxid f) s) s x 0x13F .n32 (BitVec.allOnes 32) (fun _ => 0) fun _ d =>
        (f.md = 0 → d = x.launch.lseq % 2 ^ 32) ∧ (f.md = 1 → d = x.block.cls % 2 ^ 32) ∧
        (f.md = 2 → d = if x.launch.sys then 1 else 0) ∧
        (∀ k, f.md = 3 → s.ctx? x.launch.ctx = some k → d = if k.dbg then 1 else 0)) ∧
    (Fits opPrio f x c fm i →
      let n := i.uni i.a
      (3 < n ∨ (n < x.block.cls ∧ x.launch.sys = false) →
        exec (.prio f) s = .next (s.takeParkTrap x i.mask 4 (Lanes.all 0))) ∧
      (n ≤ 3 → (x.block.cls ≤ n ∨ x.launch.sys = true) →
        CompletesVoid (exec (.prio f) s) (s.setBlock x.w.block { x.block with cls := n }) x 0x140))

/-! ## Fabric and link instructions (18) -/

/-- 18 R382-R386: a fabric access whose checks pass notes one request for each active lane, in ascending lane order, and waits for
its responses (`fab.st` runs on); the link instructions act on groups, rings and thresholds of the links they name. -/
def Obligations.FabricAndLinkInstructions : Prop :=
  ∀ (s : State) (x : Site) (fr : Frame) (c : Cur) (f : Fields) (fm : Form) (i : OpIn), AtPlace s x fr c →
    let open_ := (s.tile x.tile).fenced 5 s.nextId = false ∧ s.paceOk x.tile 3 (i.gaps s).pfab = true
    let Sends (t : State) (mop : Nat) : Prop :=
      t.nextId = s.nextId + 1 ∧ t.mem = s.mem ∧
      ∃ outs : List FabOut, t.fabOut = s.fabOut ++ outs ∧ outs.map FabOut.lane = i.mask.list.map Fin.val ∧
        ∀ o ∈ outs, o.id = s.nextId ∧ o.mop = mop ∧ ∃ k : Fin 32, o.lane = k.val ∧ o.va = i.a.nat k % 2 ^ 56 ∧
          o.peer = i.a.nat k / 2 ^ 56 - 1 ∧ s.entryOf (i.a.nat k) = some o.entry
    let size := 2 ^ (f.md.toNat % 8)
    (Fits opFabLd f x c fm i →
      (i.mask = 0 → CompletesBy (exec (.fabLd f) s) s x 0x144 i.ty 0 (fun _ => 0) fun _ _ => True) ∧
      (i.mask ≠ 0 → open_ → fabTrap i s size = none →
        ∃ t, exec (.fabLd f) s = .next t ∧ Sends t 1 ∧
          t.wave? x.w = some { x.wave with mode := .fab s.nextId i.mask i.ty (Lanes.all 0) })) ∧
    (Fits opFabAtom f x c fm i →
      (i.mask = 0 → CompletesBy (exec (.fabAtom f) s) s x 0x146 i.ty 0 (fun _ => 0) fun _ _ => True) ∧
      (i.mask ≠ 0 → open_ → fabTrap i s (i.ty.bits / 8) = none →
        ∃ t, exec (.fabAtom f) s = .next t ∧ Sends t 3 ∧
          t.wave? x.w = some { x.wave with mode := .fab s.nextId i.mask i.ty (Lanes.all 0) })) ∧
    (Fits opFabSt f x c fm i →
      (i.mask = 0 → CompletesVoid (exec (.fabSt f) s) s x 0x145) ∧
      (i.mask ≠ 0 → open_ → fabTrap i s size = none → ∃ t, CompletesVoid (exec (.fabSt f) s) t x 0x145 ∧ Sends t 2) ∧
      (i.mask ≠ 0 → open_ → (∃ k, i.mask.has k.val = true ∧ i.a.nat k < 2 ^ 56) →
        exec (.fabSt f) s = .next (s.takeParkTrap x i.mask 4 (Lanes.all 0)))) ∧
    (∀ e ∈ ([((.lkPark, opLkPark), false), ((.lkWake, opLkWake), true)] : List (OpRow × Bool)), Fits e.1.2 f x c fm i →
      let l := i.uni i.a
      let m := i.uni i.b
      (31 < l ∨ m % 2 = 1 ∨ 16 ≤ m → exec (e.1.1 f) s = .next (s.takeParkTrap x i.mask 4 (Lanes.all 0))) ∧
      (l ≤ 31 → m % 2 = 0 → m < 16 →
        (s.hasPeer l = false → CompletesVoid (exec (e.1.1 f) s) s x e.1.2.opc) ∧
        (s.hasPeer l = true → (s.link l).groups.length = 4 →
          let now := (s.link l).inCycle (s.portCycle l s.tick)
          ∃ t, CompletesVoid (exec (e.1.1 f) s) t x e.1.2.opc ∧ t.mem = s.mem ∧ (∀ j, j ≠ l → t.link j = s.link j) ∧
            ∀ g < 4,
              (m / 2 ^ g % 2 = 0 → (t.link l).grp g = (s.link l).grp g ∧ (t.link l).parking.getLsbD g = (s.link l).parking.getLsbD g) ∧
              (m / 2 ^ g % 2 = 1 → e.2 = false → now.woken.getLsbD g = false →
                ((s.link l).grp g = .on → (t.link l).grp g = .on ∧ (t.link l).parking.getLsbD g = true) ∧
                ((s.link l).grp g ≠ .on → (∀ r, (s.link l).grp g = .waking r → s.portCycle l r ≠ s.portCycle l s.tick) →
                  (t.link l).grp g = .off)) ∧
              (m / 2 ^ g % 2 = 1 → e.2 = true →
                ((s.link l).grp g = .off → (t.link l).grp g = .waking s.tick) ∧
                ((s.link l).grp g ≠ .off → (t.link l).grp g = (s.link l).grp g) ∧
                (t.link l).parking.getLsbD g = ((s.link l).parking.getLsbD g && !now.parkNow.getLsbD g))))) ∧
    (Fits opLkHeat f x c fm i → x.launch.sys = true →
      let fib := i.uni i.a
      let r := i.uni i.b
      let v := i.uni i.c
      (127 < fib ∨ 15 < r ∨ 4095 < v → exec (.lkHeat f) s = .next (s.takeParkTrap x i.mask 4 (Lanes.all 0))) ∧
      (fib ≤ 127 → r ≤ 15 → v ≤ 4095 →
        CompletesVoid (exec (.lkHeat f) s)
          (s.setRing fib r { s.ring fib r with setpoint := BitVec.ofNat 12 v, locked := true, changed := some s.tick, relock := s.tick + 1960 }) x 0x149)) ∧
    (Fits opLkStat f x c fm i → f.md = 0 →
      (31 < i.uni i.a → exec (.lkStatSt f) s = .next (s.takeParkTrap x i.mask 4 (Lanes.all 0))) ∧
      (i.uni i.a ≤ 31 →
        CompletesBy (exec (.lkStatSt f) s) s x 0x14A .n32 (BitVec.allOnes 32) (fun _ => 0) fun _ d =>
          d = s.linkWord (i.uni i.a) % 2 ^ 32)) ∧
    (Fits opLkStat f x c fm i → f.md = 1 → i.uni i.a ≤ 127 → i.uni i.b ≤ 15 →
      ∃ t, (t.mem = s.mem ∧ t.links = s.links) ∧
        CompletesBy (exec (.lkStatPd f) s) t x 0x14A .n32 (BitVec.allOnes 32) (fun _ => 0) fun _ d =>
          ((s.ring (i.uni i.a) (i.uni i.b)).locked = false → d / 2 ^ 12 % 2 = 0) ∧
          ((s.ring (i.uni i.a) (i.uni i.b)).locked = true → (s.ring (i.uni i.a) (i.uni i.b)).relock ≤ s.tick → d / 2 ^ 12 % 2 = 1) ∧
          d / 2 ^ 13 ≤ (s.ring (i.uni i.a) (i.uni i.b)).setpoint.toNat + 256 ∧
          (s.ring (i.uni i.a) (i.uni i.b)).setpoint.toNat ≤ d / 2 ^ 13 + 256) ∧
    (Fits opLkThr f x c fm i →
      (31 < i.uni i.a ∨ 255 < i.uni i.b → exec (.lkThr f) s = .next (s.takeParkTrap x i.mask 4 (Lanes.all 0))) ∧
      (i.uni i.a ≤ 31 → i.uni i.b ≤ 255 →
        CompletesVoid (exec (.lkThr f) s) (s.setLink (i.uni i.a) { s.link (i.uni i.a) with thr := i.uni i.b }) x 0x14B))

/-! ## Trace and debug instructions (21, 14) -/

/-- 21 R420-R423; 14 R317-R322: `trc.mark` writes its packet when its wave's mask has MK; `trc.on` and `trc.off` note a change of
the context's mask; `cnt.rd` reads a counter; and the debug instructions do nothing where the context's debug bit is off. -/
def Obligations.TraceAndDebugInstructions : Prop :=
  ∀ (s : State) (x : Site) (fr : Frame) (c : Cur) (f : Fields) (fm : Form) (i : OpIn), AtPlace s x fr c →
    (Fits opTrcMark f x c fm i →
      (s.traceMK x = false → CompletesVoid (exec (.trcMark f) s) s x 0x14C) ∧
      (s.traceMK x = true → CompletesVoid (exec (.trcMark f) s) (s.emitWave x 10 (leBytes 4 (i.uni i.a))) x 0x14C)) ∧
    (∀ e ∈ ([((.trcOn, opTrcOn), true), ((.trcOff, opTrcOff), false)] : List (OpRow × Bool)), Fits e.1.2 f x c fm i →
      ∀ k, s.ctx? x.launch.ctx = some k →
        CompletesVoid (exec (e.1.1 f) s) (s.setCtx x.launch.ctx { k with
          tnext := k.tnext ++ [{ wave := x.w, on := e.2, kinds := BitVec.ofNat 2 f.md.toNat, tick := s.tick }] }) x e.1.2.opc) ∧
    (Fits opCntRd f x c fm i →
      let v := i.uni i.a
      let n := v % 256
      let d := v / 2 ^ 9 % 8
      let j := v / 2 ^ 12 % 128
      (v / 2 ^ 19 % 2 ^ 13 ≠ 0 → exec (.cntRd f) s = .next (s.takeReserved x c (wordOf 0x151#9 f) .n64)) ∧
      (v < 2 ^ 19 → v / 256 % 2 = 0 →
        CompletesBy (exec (.cntRd f) s) s x 0x151 .n64 (BitVec.allOnes 32) (fun _ => 0) fun _ w =>
          w = s.counter n x.tile x.tile.cluster x.block.die x.launch.ctx % 2 ^ 64) ∧
      (v < 2 ^ 19 → v / 256 % 2 = 1 →
        let out := (n = 0x40 ∧ tilesOf d ≤ j) ∨ (clusterCounter n = true ∧ clustersOf d ≤ j)
        (out → exec (.cntRd f) s = .next (s.takeParkTrap x i.mask 4 (Lanes.all 0))) ∧
        (¬out →
          CompletesBy (exec (.cntRd f) s) s x 0x151 .n64 (BitVec.allOnes 32) (fun _ => 0) fun _ w =>
            w = s.counter n { die := d, tile := j } { die := d, cl := j } d x.launch.ctx % 2 ^ 64))) ∧
    (∀ e ∈ ([((.dbgBrk, opDbgBrk), 0), ((.dbgStop, opDbgStop), 1)] : List (OpRow × Nat)), Fits e.1.2 f x c fm i →
      (s.debugOn x.launch.ctx = false → CompletesVoid (exec (e.1.1 f) s) s x e.1.2.opc) ∧
      (s.debugOn x.launch.ctx = true → i.mask ≠ 0 → ((s.tile x.tile).part (x.w.wav % 2 == 1)).dbg = none →
        ∃ t d, exec (e.1.1 f) s = .next t ∧ ((t.tile x.tile).part (x.w.wav % 2 == 1)).dbg = some d ∧ d.cause = e.2 ∧
          d.ctx = x.launch.ctx ∧ d.tick = s.tick ∧ d.dumped = false ∧ t.mem = s.mem ∧
          ∀ a ∈ ((t.tile x.tile).part (x.w.wav % 2 == 1)).all, ∀ y, t.wave? a.wave = some y →
            y.mode = .released ∨ y.mode = .ended ∨ y.stop ≠ .none)) ∧
    (Fits opDbgBrk f x c fm i → i.mask = 0 → CompletesVoid (exec (.dbgBrk f) s) s x 0x14F) ∧
    (Fits opDbgUndo f x c fm i →
      (s.debugOn x.launch.ctx = false ∨ i.uni i.a = 0 → CompletesVoid (exec (.dbgUndo f) s) s x 0x152) ∧
      (∀ u n, s.debugOn x.launch.ctx = true → i.uni i.a ≠ 0 → (s.emitDebug x 2).undo x.w (i.uni i.a) = (u, n) →
        (n = 0 → CompletesVoid (exec (.dbgUndo f) s) u x 0x152) ∧ (n ≠ 0 → exec (.dbgUndo f) s = .next u)))

/-! ## System instructions (20, 22) -/

/-- 04 R90; 20 R400-R403; 22 R430-R434: every system instruction takes trap(PRIV) outside a launch of system privilege; within
one, its checks in their order, its effect, and the status that it delivers. The order of the statuses of `sys.ctx.mk`, its status 1 for a
misaligned descriptor, status 2 of `sys.ctx.tile` for an owner that is not resident, trap(BOUNDS) for more than 65,536 pages and
trap(RESERVED) for reserved operand bits are the model's choice (log entry 34), and so is the interval from which a new cap counts (log
entry 42). -/
def Obligations.SystemInstructions : Prop :=
  ∀ (s : State) (x : Site) (fr : Frame) (c : Cur) (f : Fields) (fm : Form) (i : OpIn), AtPlace s x fr c →
    let Status (e : Instr) (t : State) (opc n : Nat) : Prop :=
      CompletesBy (exec e s) t x opc .n32 (BitVec.allOnes 32) (fun _ => 0) fun _ d => d = n % 2 ^ 32
    let done (t : State) : State := t.modWave x.w fun w => { w with sysReq := none }
    let asks (t : State) (r : SysReq) : State := t.modWave x.w fun w => { w with sysReq := some r }
    let Bounds (e : Instr) : Prop := exec e s = .next (s.takeParkTrap x i.mask 4 (Lanes.all 0))
    (∀ e ∈ ([(.sysCap, opSysCap), (.sysFloor, opSysFloor), (.sysRetire, opSysRetire), (.sysCkpt, opSysCkpt), (.sysRsync, opSysRsync),
        (.sysMigr, opSysMigr), (.sysL3cls, opSysL3cls), (.sysWdog, opSysWdog), (.sysCtxMk, opSysCtx), (.sysCtxRet, opSysCtx),
        (.sysCtxTile, opSysCtx), (.sysCtxDbg, opSysCtx), (.sysQ, opSysQ), (.lkHeat, opLkHeat)] : List OpRow),
      Fits e.2 f x c fm i → x.launch.sys = false → exec (e.1 f) s = .next (s.takeParkTrap x i.mask 6 (Lanes.all 0))) ∧
    (x.launch.sys = true →
      (Fits opSysCap f x c fm i →
        let q := i.uni i.a
        let cap := if q < s.pidle then s.pidle else min q 2400
        let old := if s.tick < s.capPrev.1 then s.capPrev.2 else s.capQ
        let s1 : State := { s with capQ := q, capPrev := ((s.tile x.tile).clock.nextCtl s.tick, old) }
        let s2 := if q < s.pidle then s1.event 0x10 q s.pidle else if 2400 < q then s1.event 0x11 q 2400 else s1
        let s3 := if cap < s.floorSum then s2.event 0x12 s.floorSum cap else s2
        Status (.sysCap f) s3 0x154 (s.pidle * 2 ^ 20 + cap +
          (if cap < s.floorSum then 3 else if 2400 < q then 2 else if q < s.pidle then 1 else 0) * 2 ^ 16)) ∧
      (Fits opSysFloor f x c fm i →
        (3 < i.uni i.a ∨ 2400 < i.uni i.b → Bounds (.sysFloor f)) ∧
        (i.uni i.a ≤ 3 → i.uni i.b ≤ 2400 →
          let s1 : State := { s with floors := s.floors.set (i.uni i.a) (i.uni i.b) }
          Status (.sysFloor f) s1.rescale 0x155 s1.powerWord)) ∧
      (Fits opSysRetire f x c fm i → x.wave.sysReq = none →
        let u := i.uni i.a
        let legal := u < 2 ^ 12 ∧ unitKind u ≠ 3
        let known := ¬(unitKind u = 0 ∧ tilesOf (unitDie u) ≤ unitIdx u) ∧ ¬(unitKind u = 1 ∧ clustersOf (unitDie u) ≤ unitIdx u)
        (¬legal → exec (.sysRetire f) s = .next (s.takeReserved x c (wordOf 0x156#9 f) .n32)) ∧
        (legal → ¬known → Bounds (.sysRetire f)) ∧
        (legal → known → s.quiesced = true → exec (.sysRetire f) s = .next s) ∧
        (legal → known → s.quiesced = false → s.unitDead u = true → Status (.sysRetire f) (done s) 0x156 1) ∧
        (legal → known → s.quiesced = false → s.unitDead u = false → x.tile ∈ unitTiles u → Status (.sysRetire f) (done s) 0x156 2) ∧
        (legal → known → s.quiesced = false → s.unitDead u = false → x.tile ∉ unitTiles u →
          exec (.sysRetire f) s = .next (asks
            (((s.retire u 0).event 0x21 u 0).emptyTiles (unitTiles u) fun _ => true).recut (.retire u)))) ∧
      (∀ u, Fits opSysRetire f x c fm i → x.wave.sysReq = some (.retire u) →
        if s.occupied (unitTiles u) (fun _ => true) then exec (.sysRetire f) s = .next s
        else Status (.sysRetire f) (done s) 0x156 0) ∧
      (Fits opSysCkpt f x c fm i →
        (x.wave.sysReq = none → 1 < x.launch.nblock → Status (.sysCkpt f) (done s) 0x157 3) ∧
        (∀ s1 bs, x.wave.sysReq = none → x.launch.nblock ≤ 1 → s.readAcc x [.glob] 16 [(i.uni i.a, 64)] = .ok (s1, bs) →
          let b := ofLe bs.flatten
          exec (.sysCkpt f) s = .next (asks ({ s1 with quiesced := true } : State).closeTraces
            (.ckpt (bitsOf b 511 448) (bitsOf b 447 384) (bitsOf b 383 352) (bitsOf b 351 288)))) ∧
        (∀ tgt tlen pm pt s1 n, x.wave.sysReq = some (.ckpt tgt tlen pm pt) →
          (s.ckptReady x.w.block = false → exec (.sysCkpt f) s = .next s) ∧
          (s.ckptReady x.w.block = true → s.writeFlacon i.issuer x.tile tgt tlen pm pt = (s1, n) →
            if n = 0 ∧ s1.flaconWaits s.nextId = true then exec (.sysCkpt f) s = .next (asks s1 (.flacon s.nextId s.tick false))
            else Status (.sysCkpt f) (done ({ s1 with quiesced := false }.event 0x23 n s.tick)) 0x157 n)) ∧
        (∀ id tick bad, x.wave.sysReq = some (.flacon id tick bad) →
          (s.flaconWaits id = true → exec (.sysCkpt f) s = .next s) ∧
          (s.flaconWaits id = false →
            Status (.sysCkpt f) (done ({ s with quiesced := false }.event 0x23 (if bad then 2 else 0) tick)) 0x157 (if bad then 2 else 0)))) ∧
      (∀ s1 b, Fits opSysRsync f x c fm i → s.readAcc x [.glob] 16 [(i.uni i.a, 16)] = .ok (s1, b) →
        let bs := s1.summaryBytes
        (i.uni i.b < bs.length → Status (.sysRsync f) (done s1) 0x158 (bs.length % 2 ^ 31 + 2 ^ 31)) ∧
        (∀ s2 sp, bs.length ≤ i.uni i.b → s1.access x [.glob] 16 false true [(i.uni i.a, bs.length)] = .ok (s2, sp) →
          Status (.sysRsync f) (done (s2.putSpans x.laneWriter sp.flatten bs)) 0x158 bs.length)) ∧
      (Fits opSysMigr f x c fm i →
        (∀ n, x.wave.sysReq = some (.migrated n) → Status (.sysMigr f) (done s) 0x159 n) ∧
        (∀ a b d e g h, x.wave.sysReq = some (.migr a b d e g h) → exec (.sysMigr f) s = .next s) ∧
        (∀ s1 bs, x.wave.sysReq = none → s.readAcc x [.glob] 16 [(i.uni i.a, 32)] = .ok (s1, bs) →
          let r := ofLe bs.flatten
          let npg := bitsOf r 127 96
          (65536 < npg → Bounds (.sysMigr f)) ∧
          (∀ s2 s3, npg ≤ 65536 → s1.reachesVa x (bitsOf r 255 192) (8 * npg) true true = (s2, .ok ()) →
            s2.reachesVa x (bitsOf r 191 128) (if npg = 0 then 0 else 8 * npg + 8) false true = (s3, .ok ()) →
            exec (.sysMigr f) s = .next (asks s3
              (.migr (bitsOf r 92 91) (bitsOf r 95 93) (bitsOf r 255 192) (bitsOf r 191 128) npg s3.nextLid))))) ∧
      (Fits opSysL3cls f x c fm i →
        let v := i.uni i.a
        let t (k : Nat) : Nat := v / 2 ^ (7 * k) % 128
        let big := ∃ k < 4, 64 < t k
        let sum := t 0 + t 1 + t 2 + t 3
        (2 ^ 28 ≤ v → exec (.sysL3cls f) s = .next (s.takeReserved x c (wordOf 0x15A#9 f) .n32)) ∧
        (v < 2 ^ 28 → big → Bounds (.sysL3cls f)) ∧
        (v < 2 ^ 28 → ¬big →
          ∃ l, Status (.sysL3cls f) (done { s with l3 := l }) 0x15A 0 ∧ l.length = 4 ∧ l.sum = min 64 sum ∧ l[0]? = some (t 0) ∧
            (sum ≤ 64 → l = [t 0, t 1, t 2, t 3]) ∧ (t 0 + t 1 + t 2 ≤ 64 → l[1]? = some (t 1) ∧ l[2]? = some (t 2)))) ∧
      (Fits opSysWdog f x c fm i →
        (3 < i.uni i.a ∨ i.uni i.b < 2 ^ 16 ∨ 2 ^ 32 < i.uni i.b → Bounds (.sysWdog f)) ∧
        (i.uni i.a ≤ 3 → 2 ^ 16 ≤ i.uni i.b → i.uni i.b ≤ 2 ^ 32 →
          Status (.sysWdog f) (done { s with wdogs := s.wdogs.set (i.uni i.a) (i.uni i.b) }) 0x15B 0)) ∧
      (∀ s1 bs, Fits opSysCtx f x c fm i → f.md = 0 → i.uni i.a ≤ 3 →
        s.readAcc x [.glob] 16 [(i.uni i.b, 128)] = .ok (s1, bs) →
        let k := s1.ctx? (i.uni i.a)
        (k ≠ none → Status (.sysCtxMk f) (done s1) 0x15C 2) ∧
        (k = none → (i.uni i.b % 64 ≠ 0 ∨ s1.descOk (ofLe bs.flatten) = false) → Status (.sysCtxMk f) (done s1) 0x15C 1) ∧
        (k = none → i.uni i.b % 64 = 0 → s1.descOk (ofLe bs.flatten) = true →
          Status (.sysCtxMk f) (done (s1.makeResident (i.uni i.a) x.block.die (i.uni i.b) (ofLe bs.flatten))) 0x15C 0)) ∧
      (Fits opSysCtx f x c fm i → f.md = 1 →
        let a := i.uni i.a
        (3 < a → Bounds (.sysCtxRet f)) ∧
        (a ≤ 3 → s.ctx? a = none → Status (.sysCtxRet f) (done s) 0x15C 2) ∧
        (a ≤ 3 → s.ctx? a ≠ none → s.quiescent a s.nextLid = true → Status (.sysCtxRet f) (done (s.retireCtx a)) 0x15C 0) ∧
        (a ≤ 3 → s.ctx? a ≠ none → s.quiescent a s.nextLid = false → exec (.sysCtxRet f) s = .next (asks s (.ctxRet a)))) ∧
      (Fits opSysCtx f x c fm i → f.md = 2 →
        let a := i.uni i.a
        let w := i.uni i.b
        let t : TileRef := { die := a / 256 % 8, tile := a % 128 }
        let legal := a < 2 ^ 11 ∧ a / 128 % 2 = 0
        let held := ∀ o ∈ wordOwners w, s.ctx? o ≠ none
        (¬legal → exec (.sysCtxTile f) s = .next (s.takeReserved x c (wordOf 0x15C#9 f) .n32)) ∧
        (legal → tilesOf t.die ≤ t.tile → Bounds (.sysCtxTile f)) ∧
        (legal → t.tile < tilesOf t.die → wordOk w = false → Status (.sysCtxTile f) (done s) 0x15C 1) ∧
        (legal → t.tile < tilesOf t.die → wordOk w = true → ¬held → Status (.sysCtxTile f) (done s) 0x15C 2) ∧
        (legal → t.tile < tilesOf t.die → wordOk w = true → held →
          Status (.sysCtxTile f)
            (done ((s.setTile t { s.tile t with reassign := some (BitVec.ofNat 16 w) }).beginReassign t)) 0x15C 0)) ∧
      (Fits opSysCtx f x c fm i → f.md = 3 →
        let a := i.uni i.a
        (3 < a → Bounds (.sysCtxDbg f)) ∧
        (a ≤ 3 → s.ctx? a = none → Status (.sysCtxDbg f) (done s) 0x15C 2) ∧
        (∀ k, a ≤ 3 → s.ctx? a = some k →
          let on := i.uni i.b % 2 == 1
          (k.dbg = on → Status (.sysCtxDbg f) (done s) 0x15C 0) ∧
          (k.dbg ≠ on →
            Status (.sysCtxDbg f) (done (State.sweep { s.setCtx a { k with dbg := on } with
              store := s.store.map fun t => if t.ctx == a then { t with stale := true } else t })) 0x15C 0))) ∧
      (Fits opSysQ f x c fm i →
        (32 ≤ i.uni i.a → exec (.sysQ f) s = .next (s.takeReserved x c (wordOf 0x15D#9 f) .n32)) ∧
        (i.uni i.a < 16 → Status (.sysQ f) (done ((s.setQen (i.uni i.a) false).setQueue (i.uni i.a)
          { s.queue (i.uni i.a) with enabled := false })) 0x15D 0) ∧
        (16 ≤ i.uni i.a → i.uni i.a < 32 → s.qenBit (i.uni i.a - 16) = true → Status (.sysQ f) (done s) 0x15D 0) ∧
        (16 ≤ i.uni i.a → i.uni i.a < 32 → s.qenBit (i.uni i.a - 16) = false →
          Status (.sysQ f) (done (s.enableQueue (i.uni i.a - 16))) 0x15D 0)))

/-! ## Events of waves and partitions (05, 09) -/

/-- 05 R103, R106; 09 R210, R211, R213: the issue of a bundle by the oldest ready wave, the push of its tokens, the loop engine's
steps, the exchange of a blocked wave, and the watchdog. -/
def Obligations.WaveEvents : Prop :=
  (∀ (k : Nat) (es : List Entry) (e : Entry), pickEntry k es = some e →
    e ∈ es ∧ ∀ d ∈ es, (d.ages[k]?).getD 0 ≤ (e.ages[k]?).getD 0 ∧
      ((d.ages[k]?).getD 0 = (e.ages[k]?).getD 0 → e.slot ≤ d.slot)) ∧
  (∀ (s : State) (t : TileRef) (odd : Bool) (st : Stream) (e : Entry) (x y : Site) (n : Native) (fr : Frame) (fs : List Frame)
      (tr : Translation) (q : Seq) (b : Bundle) (addr : Nat),
    ((s.tile t).part odd).active = [e] → ((s.tile t).part odd).pending = [] → (e.wave.wav % 2 == 1) = odd →
    s.site? e.wave = some x → x.wave.native = some n → n.leave = none → x.wave.frames = fr :: fs →
    s.code? fr = some tr → n.seqs[streamNum st]? = some q → q.popWait = none → s.ready x (streamNum st) = .yes b addr →
    let s0 := s.setWave e.wave x.wave
    s0.site? e.wave = some y → s0.ready y (streamNum st) = .yes b addr →
    exec (.bundleIssue t odd st) s =
      .next ((((s0.setTile t ((s.tile t).setPart odd (agePart ((s.tile t).part odd) (streamNum st) [e] e.wave))).useLine t.cluster
        (tr.tid, addr / 256)).touch tr).issueBundle y n tr (streamNum st) addr b)) ∧
  (∀ (s : State) (t : TileRef) (odd : Bool) (st : Stream), ((s.tile t).part odd).active = [] → ((s.tile t).part odd).pending = [] →
    exec (.bundleIssue t odd st) s = .next s) ∧
  (∀ (s : State) (w : WaveRef) (x : Wave) (n : Native), s.wave? w = some x → x.native = some n →
    let set (m : Native) : State := s.setWave w { x with native := some m }
    let l := n.loop
    let whole (b : BitVec 4) : Prop := l.pm ≠ 0 ∧ b &&& l.pm = l.pm
    (∀ (st : Stream) (q : Seq), n.seqs[streamNum st]? = some q →
      let k := streamNum st
      ((∀ p ∈ q.pushes, ∃ d ∈ n.pendingDests, d.stream = k ∧ d.bun = p.1) → exec (.tokenPush w st) s = .next s) ∧
      (∀ early bun p r, q.pushes = early ++ (bun, p) :: r → (∀ b ∈ early, ∃ d ∈ n.pendingDests, d.stream = k ∧ d.bun = b.1) →
        (∀ d ∈ n.pendingDests, d.stream = k → d.bun ≠ bun) →
        ∃ tok, exec (.tokenPush w st) s =
            .next (set { n with tok := tok, seqs := n.seqs.set k { q with pushes := early ++ r } }) ∧
          (∀ j < 3, Tab.getD tok 0 (3 * k + j) = Tab.getD n.tok 0 (3 * k + j) + if p.getLsbD j then 1 else 0) ∧
          ∀ i, i < 3 * k ∨ 3 * k + 3 ≤ i → Tab.getD tok 0 i = Tab.getD n.tok 0 i)) ∧
    (l.cf = true → whole l.opened → l.halted = false → n.held = none →
      exec (.openStep w) s = .next (set { n with loop := Loop.note { l with
        sb := if l.lc ≠ 0 then 1 else 0, lc := if l.lc ≠ 0 then l.lc - 1 else l.lc, opened := l.opened &&& ~~~l.pm,
        dr := false, sm := false } })) ∧
    (l.cf = false → exec (.openStep w) s = .next s) ∧
    (whole l.backed → l.dr = false → l.sm = false → n.held = none → x.stop = .none →
      let rrb : BitVec 8 := if l.wsz = 0 then l.rrb else BitVec.ofNat 8 ((l.rrb.toNat + l.wsz.toNat - 1) % l.wsz.toNat)
      let sb := ((l.sb <<< 1) ||| (if l.lc ≠ 0 then 1 else 0)) &&& BitVec.ofNat 7 (2 * 2 ^ l.ec.toNat - 1)
      ∃ m, exec (.backStep w) s = .next (set m) ∧ m.loop.rrb = rrb ∧ m.loop.sb = sb ∧
        m.loop.lc = (if l.lc ≠ 0 then l.lc - 1 else 0) ∧ m.loop.backed = l.backed &&& ~~~l.pm ∧ m.v = n.v ∧ m.s = n.s ∧ m.k = n.k ∧
        ∀ (k : Nat) (q : Seq), n.seqs[k]? = some q →
          m.seqs[k]? = some (if sb ≠ 0 ∧ l.pm.getLsbD k = true then { q with pc := (l.tops[k]?).getD q.pc } else q)) ∧
    (¬(l.backed ≠ 0 ∧ l.backed &&& l.pm = l.pm) → exec (.backStep w) s = .next s) ∧
    (whole l.closed → exec (.loopClose w) s = .next (set { n with
      loop := { l with cf := false, closed := 0 } })) ∧
    (∀ (st : Stream) (q : Seq) (y : Site), s.site? w = some y → n.seqs[streamNum st]? = some q →
      (q.popWait = none → exec (.popWaitExpiry w st) s = .next s) ∧
      (∀ c, q.popWait = some c → s.ctlNow y.tile < c + 24 → exec (.popWaitExpiry w st) s = .next s) ∧
      (s.blockedLong y = false → exec (.popWaitExpiry w st) s = .next s) ∧
      (∀ c, q.popWait = some c → c + 24 ≤ s.ctlNow y.tile → s.ready y (streamNum st) = .popWait → s.blockedLong y = true →
        (∀ a ∈ s.agenda, s.beforeSwaps y.tile (w.wav % 2 == 1) a = false) →
        exec (.popWaitExpiry w st) s = .next ((s.wakeTile y.tile).swapPlace y.tile (w.wav % 2 == 1) w false)))) ∧
  (∀ (s : State) (t : TileRef) (odd : Bool),
    let p := (s.tile t).part odd
    let quiet := ∀ a ∈ s.agenda, s.beforeSwaps t odd a = false
    (∀ a now rest, s.agenda = a :: now ++ rest → s.beforeSwaps t odd a = true → (∀ b ∈ now, b.isAdvance = false ∧ s.beforeSwaps t odd b = false) →
      (∀ b r, rest = b :: r → b.isAdvance = true) →
      exec (.activeSetSwap t odd) s = .next { s with agenda := a :: .event (.activeSetSwap t odd) :: now ++ rest }) ∧
    (quiet → p.dbg ≠ none → exec (.activeSetSwap t odd) s = .next s) ∧
    (∀ e x y, quiet → p.dbg = none → p.active = [e] → e.slot < 16 → s.site? e.wave = some x → (s.wakeTile t).site? e.wave = some y →
      ((s.wakeTile t).blockedLong y = true →
        exec (.activeSetSwap t odd) s = .next (((s.wakeTile t).swapPlace t odd e.wave false).refill t)) ∧
      ((s.wakeTile t).blockedLong y = false → exec (.activeSetSwap t odd) s = .next ((s.wakeTile t).refill t))) ∧
    (∀ e, e ∈ p.pending → ∃ r, (r ∈ ((s.wakeTile t).tile t |>.part odd).pending) ∧ r.wave = e.wave ∧
      ∀ x, s.site? e.wave = some x → e.rt = none → x.block.phase = .resident →
        r.rt = if s.blockedLong x then none else some (s.ctlNow t)) ∧
    (∀ w a e ready, p.active.find? (fun y => y.wave == w) = some a → s.oldestReady (s.tile t) (s.ctlNow t) p.pending = some e →
      (((s.swapPlace t odd w ready).tile t).part odd).active =
        p.active.filter (fun y => y.wave != w) ++ [{ e with from_ := s.ctlNow t + 4, rt := none, ages := [0, 0, 0, 0] }] ∧
      (((s.swapPlace t odd w ready).tile t).part odd).pending =
        p.pending.filter (fun y => y.wave != e.wave) ++
          [{ a with from_ := s.ctlNow t, rt := if ready then some (s.ctlNow t) else none }])) ∧
  (∀ (s : State) (w : WaveRef) (x : Site), s.site? w = some x →
    let again (t : State) : State :=
      t.modWave w fun y => { y with wdog := 0, wlim := (s.wdogs[x.launch.ctx]?).getD 16777216 }
    (x.wave.wdog < x.wave.wlim → exec (.watchdog w) s = .next s) ∧
    (x.wave.wlim ≤ x.wave.wdog → x.block.phase = .resident → x.wave.stop ≠ .landed → x.wave.owed = none → x.wave.atProgress = false →
      (x.wave.native = none → x.wave.unfinished = false →
        exec (.watchdog w) s = .next (again (s.takeParkTrap x x.wave.mask 8 (Lanes.all 0)))) ∧
      (x.wave.native ≠ none →
        exec (.watchdog w) s =
          .next (again (s.stopWith x { x.record x.wave.placePoint x.wave.mask with kind := 2, trapk := 8 } .park)))))

/-! ## Stops, swap-outs and their resolution (05, 06, 14, 17) -/

/-- 05 R108; 06 R136; 14 R308-R312; 17 R350: a wave lands at its safe point and its record is filed; a stopped block parks or is
swapped out; a resolved record lets its block go on or ends it; an ended wave's slot is released. -/
def Obligations.StopEvents : Prop :=
  ∀ (s : State),
    (∀ w x, s.site? w = some x →
      (x.wave.stop ≠ .requested → x.wave.stepLeft = none → exec (.stopLanded w) s = .next s) ∧
      (x.wave.stop = .requested → x.block.phase = .resident → x.wave.unfinished = false → x.wave.live = true → x.pastBarB = false →
        x.wave.native = none → x.block.killed = false →
        ∃ t y, exec (.stopLanded w) s = .next t ∧ t.wave? w = some y ∧ y.stop = .landed ∧ y.stepLeft = none ∧
          y.frames.length = x.wave.frames.length) ∧
      (x.wave.stop = .requested → x.block.phase = .resident → x.wave.mode = .run → x.wave.sysReq = none → x.wave.native = none →
        x.wave.owed = none → x.wave.stepLeft = none → x.block.killed = false →
        (s.tile x.tile).even.dbg = none → (s.tile x.tile).odd.dbg = none →
        exec (.stopLanded w) s =
          .next ((s.setWave w { x.wave with stop := .landed, stepEnd := none, quarters := [], quartersB := [] }).modBlock w.block
            fun b => { b with fate := if b.fate = some .byClass then some (if b.cls ≤ 1 then .park else .swapOut) else b.fate })) ∧
      (x.wave.mode = .ended → x.wave.vcnt = 0 →
        ∃ t y b, exec (.waveSlotRelease w) s = .next t ∧ t.wave? w = some y ∧ y.mode = .released ∧ t.block? w.block = some b ∧
          ((b.waves.all fun z => z.mode == .released) = true → b.phase = .ended) ∧ t.mem = s.mem) ∧
      (x.wave.mode ≠ .ended ∨ x.wave.vcnt ≠ 0 → exec (.waveSlotRelease w) s = .next s)) ∧
    (∀ b x, s.block? b = some x →
      (x.phase = .resident → x.fate = some .park → s.stoppedWhole x = true →
        ∃ t y, exec (.park b) s = .next t ∧ t.block? b = some y ∧ t.mem = s.mem ∧
          (x.unresolved ≠ [] ∨ (∃ z ∈ x.waves, z.owed ≠ none) → y.phase = .parked ∧ y.fate = some .park) ∧
          (x.unresolved = [] → (∀ z ∈ x.waves, z.owed = none) → x.killed = false → x.awaitsCode = false →
            y.phase = .resident ∧ y.fate = none)) ∧
      (x.phase ≠ .resident ∨ x.fate ≠ some .park ∨ s.stoppedWhole x = false → exec (.park b) s = .next s) ∧
      (∀ l, s.launch? b.lid = some l → (x.phase = .resident ∨ x.phase = .parked) → x.fate = some .swapOut →
        s.stoppedWhole x = true → (x.waves.all fun y => y.vcnt == 0) = true →
        exec (.swapOut b) s = .next (s.swapBlock b l x) ∧
        ∀ img k s1 p, s.blockImage l x b.blk = (img, k) → s.placeImage l.ctx x.die img (s.imageBad l x k) = (s1, .ok (some p)) →
          x.unresolved ≠ [] → (l.homes b.blk x.home).all s.dieDead = false →
          ∃ t y, exec (.swapOut b) s = .next t ∧ t.block? b = some y ∧ y.phase = .swapped ∧ y.fate = none ∧ y.imgPage = p ∧
            y.imgLen = (img.length + 4095) / 4096 ∧ y.unresolved = x.unresolved ∧ t.mem = s1.mem) ∧
      (x.fate ≠ some .swapOut → exec (.swapOut b) s = .next s)) ∧
    (∀ ctx k s1 res wav, s.resolution ctx k = (s1, some (res, wav)) →
      (res ≠ 1 → res ≠ 2 → exec (.faultRecordResolve ctx k) s = .next s1) ∧
      (∀ b y, (res = 1 ∨ res = 2) → b ∈ s1.blocksOf ctx → s1.block? b = some y → y.phase = .parked → y.unresolved = [k] →
        (∃ v ∈ y.waves, v.live = true) → (∀ v ∈ y.waves, v.owed = none ∧ (v.live = true → v.stop = .landed)) →
        y.killed = false → y.awaitsCode = false → y.fate ≠ some .swapOut →
        (s1.tile y.tileRef).even.dbg = none → (s1.tile y.tileRef).odd.dbg = none →
        (∀ c z, c ∈ s1.blocksOf ctx → c ≠ b → s1.block? c = some z → k ∉ z.unresolved) →
        (∀ t, (∀ c ∈ (s1.tile t).copyQ, c.paused ≠ some (some k)) ∧ ∀ c ∈ (s1.tile t).kvQ, c.paused ≠ some (some k)) →
        (∀ e ∈ s1.launches, (∀ r ∈ e.2.cgrps, ∀ i ∈ r.issues, i.paused ≠ some (some k)) ∧ ∀ a ∈ e.2.admitFault, k ∉ a.2.1) →
        ∃ t z, exec (.faultRecordResolve ctx k) s = .next t ∧ t.block? b = some z ∧ z.unresolved = [] ∧
          (res = 1 → z.phase = .resident ∧ z.fate = none ∧ z.killed = false ∧
            z.waves = y.waves.map fun v => if v.live then { v with stop := .none } else v) ∧
          (res = 2 → z.killed = true ∧ (∀ v ∈ z.waves, v.live = false) ∧ ((∀ v ∈ y.waves, v.vcnt = 0) → z.phase = .ended)))) ∧
    (∀ ctx c, s.ctx? ctx = some c →
      let quiet (u : State) : Prop := ∀ b ∈ s.blocksOf ctx, ∃ y, u.block? b = some y ∧ (y.phase = .resident ∨ y.phase = .ended) ∧
        y.killed = false
      (c.held = [] → quiet s → exec (.faultRingRoom ctx) s = .next (s.setCtx ctx { c with heldRaised := false })) ∧
      (∀ r w s1 k y v, c.held = [(r, .wave w)] → s.tryRecord ctx r = (s1, .wrote k) → quiet s1 → s1.block? w.block = some y →
        y.waves[w.wav]? = some v → y.phase = .resident → y.killed = false →
        ∃ t c1 z v1, exec (.faultRingRoom ctx) s = .next t ∧ t.ctx? ctx = some c1 ∧ c1.held = [] ∧ t.mem = s1.mem ∧
          t.block? w.block = some z ∧ z.unresolved = y.unresolved ++ [k] ∧ z.waves[w.wav]? = some v1 ∧ v1.owed = none) ∧
      (∀ r s1, c.held = [(r, .nobody)] → s.tryRecord ctx r = (s1, .full) → quiet s1 →
        exec (.faultRingRoom ctx) s = .next s1) ∧
      (c.held = [] → c.unfreed = [] → quiet s → (∀ b ∈ s.blocksOf ctx, ∀ y, s.block? b = some y → y.fate ≠ some .swapOut) →
        (∀ e ∈ s.launches, e.2.ctx = ctx → e.2.owedState = none) →
        exec (.regfaultRetry ctx) s = .next (s.setCtx ctx { c with heldRaised := false })) ∧
      (∀ lid l n, s.launches = [(lid, l)] → l.ctx = ctx → l.blocks = [] → l.owedState = some n → c.held = [] → c.unfreed = [] →
        exec (.regfaultRetry ctx) s = .next ((s.setCtx ctx { c with heldRaised := false }).putStatus lid n)))

/-! ## Admission, translation and launches (09, 11, 14, 16) -/

/-- 09 R206, R207; 11 R238, R247, R248; 14 R300, R302: a die's distributor places its first pending block that fits; a translator
serves its next request; a line enters a cache; and the completions of accesses. That the requests to the vault above the wave's own
cluster complete first, and which place's use counts end first, is the model's choice (log entry 59). -/
def Obligations.AdmissionEvents : Prop :=
  ∀ (s : State),
    (∀ die, s.started = false → exec (.blockAdmission die) s = .next s) ∧
    (∀ die p r l t u, s.started = true →
      let s0 := s.chooseSeats
      s0.pending die = p :: r → s0.launch? p.b.lid = some l → p.again = false →
      Tab.get? l.blocks p.b.blk = none → p.b.blk ∉ l.admitBad → s0.storedFor die l l.entry (s0.debugOn l.ctx) = some t →
      s0.bestTile die l p.cls t.key.budget t.spill = some u →
      exec (.blockAdmission die) s = .next ((s0.touch t).place p l u [t] t.key.budget t.spill [])) ∧
    (∀ die l cls budget spill t, s.bestTile die l cls budget spill = some t →
      s.fits t l cls budget spill = true ∧ t ∈ dieTiles die ∧
      ∀ v ∈ dieTiles die, s.fits v l cls budget spill = true →
        s.freeSlots v l.ctx cls false + s.freeSlots v l.ctx cls true ≤
          s.freeSlots t l.ctx cls false + s.freeSlots t l.ctx cls true) ∧
    (∀ rs r, nextRequest rs = some r → r ∈ rs ∧ (∀ q ∈ rs, r.cls ≤ q.cls) ∧
      ∀ ps qs, rs = ps ++ r :: qs → r ∉ ps → ∀ q ∈ ps, r.cls < q.cls) ∧
    (∀ cl,
      ((s.cluster cl).serving = none → exec (.translationComplete cl) s = .next s) ∧
      (∀ r, (s.cluster cl).serving = some r →
        let freed (u : State) : State := u.setCluster cl ({ u.cluster cl with serving := none } : Cluster).takeUp
        (∀ t, s.store.find? (fun t => t.die == cl.die && t.serves r) = some t →
          exec (.translationComplete cl) s = .next (s.serveRequests cl.die t)) ∧
        (∀ s1 nf bw bn bl cs s2, s.store.find? (fun t => t.die == cl.die && t.serves r) = none →
          s.readCode r.ctx cl.die r.code r.key.func = (s1, .ok nf bw bn bl cs) →
          let t := s1.makeTranslation cl.die r nf (if r.key.narrow then bn else bw) bl cs
          s1.makeRoom cl (t.codeLen + t.sideLen) s1.store.length = some s2 →
          exec (.translationComplete cl) s = .next (s2.storeTranslation cl t)) ∧
        (∀ s1 va, s.store.find? (fun t => t.die == cl.die && t.serves r) = none →
          s.readCode r.ctx cl.die r.code r.key.func = (s1, .fault va) →
          exec (.translationComplete cl) s = .next ((freed s1).faultCode cl.die r va)) ∧
        (∀ s1, s.store.find? (fun t => t.die == cl.die && t.serves r) = none →
          s.readCode r.ctx cl.die r.code r.key.func = (s1, .bad) →
          exec (.translationComplete cl) s = .next ((freed s1).refuseCode r)))) ∧
    (∀ cl key line t, s.store.find? (fun t => t.tid == key && t.die == cl.die) = some t →
      let ls := (s.cluster cl).lines
      ((key, line) ∈ ls → exec (.translationRefill cl key line) s = .next s) ∧
      ((key, line) ∉ ls → ls.length < 1024 →
        exec (.translationRefill cl key line) s = .next (s.setCluster cl { s.cluster cl with lines := (key, line) :: ls }))) ∧
    (∀ w x, s.wave? w = some x →
      (x.native = none →
        exec (.vaultRequestComplete w) s = .next ((s.setWave w { x with
          vcnt := x.vcnt - 1, rcnt := min x.rcnt (x.vcnt - 1), vuse := if x.vcnt ≤ 1 then [] else x.vuse }).wakeFreed w) ∧
        exec (.globalAccessComplete w) s =
          .next ((s.setWave w { x with gcnt := x.gcnt - 1, guse := x.guse.drop 1 }).wakeFreed w)) ∧
      exec (.ptsAdvance w) s = .next (s.setWave w { x with pts := x.pts + 1 }) ∧
      (∀ y, s.site? w = some y →
        (s.blockedLong y = true → s.wakeFreed w = s) ∧ (s.blockedLong y = false → s.wakeFreed w = s.wakeEntry w)))

/-- 16 R328, R331, R332, R334, R336; 18 R368: dependencies, a launch's trigger and end, the wake of `lwait`, and the front-end's
turn at its queues. -/
def Obligations.LaunchEvents : Prop :=
  ∀ (s : State),
    (∀ w x va fin tmo start s1 bs, s.site? w = some x → x.wave.mode = .lwait va fin tmo start →
      s.readAcc x [.glob] 16 [(va.toNat, 16)] = .ok (s1, bs) →
      let state := ofLe (bs.flatten.take 1)
      let code := ofLe ((bs.flatten.drop 1).take 1)
      let need := if fin then 3 else 2
      let late := tmo ≠ 0 ∧ tmo ≤ s1.ctlNow x.tile - start
      (need ≤ state → exec (.lwaitWake w) s = .next (s1.release w 0x13E (x.inLanes (splat .n32 (state + 256 * code))))) ∧
      (state < need → late →
        exec (.lwaitWake w) s = .next (s1.release w 0x13E (x.inLanes (splat .n32 (state + 256 * code + 2 ^ 16))))) ∧
      (state < need → ¬late → exec (.lwaitWake w) s = .next s1)) ∧
    (∀ lid l, s.launch? lid = some l →
      (3 ≤ l.state → exec (.dependencyReread lid) s = .next s) ∧
      (∀ d s1 bs, l.state < 3 → l.deps = [d] → d.done = false → s.readVa l.ctx 0 d.va.toNat 16 = (s1, .ok bs) →
        s1.launch? lid = some l →
        ((if d.fin then 3 else 2) ≤ ofLe (bs.take 1) →
          exec (.dependencyReread lid) s = .next (s1.setLaunch lid { l with deps := [{ d with done := true }] })) ∧
        (ofLe (bs.take 1) < (if d.fin then 3 else 2) → exec (.dependencyReread lid) s = .next s1)) ∧
      (l.state = 1 → l.code8 = 0 →
        (l.allBlocks (s.blockTriggered lid l) = true → l.allBlocks (s.blockOver lid l) = false →
          exec (.launchTriggered lid) s = .next (s.putStatus lid 2)) ∧
        (l.allBlocks (s.blockTriggered lid l) = false → exec (.launchTriggered lid) s = .next s)) ∧
      (l.state = 1 ∨ l.state = 2 → l.code8 = 0 → l.owedState ≠ some 4 →
        (l.allBlocks (s.blockOver lid l) = true → exec (.launchEnded lid) s = .next (s.putStatus lid 3)) ∧
        (l.allBlocks (s.blockOver lid l) = false → exec (.launchEnded lid) s = .next s)) ∧
      (∀ n s1 ks, s.putVa { cls := 0, wave := none } l.ctx 0 l.staddr (statusBytes l.lseq l.code8 n) = (s1, .ok ks) →
        s1.launch? lid = some l →
        s.putStatus lid n = s1.setLaunch lid { l with state := n, owedState := none })) ∧
    (s.quiesced = true ∨ s.started = false → exec .queueServeTurn s = .next s) ∧
    (s.quiesced = false → s.started = true → (∀ q < 16, s.servable q = false) → (∀ c k, s.ctx? c = some k → k.dlq = []) →
      exec .queueServeTurn s = .next s) ∧
    (∀ c k r s1 n x, s.ctx? c = some k → k.dlq = [r] →
      (s.setCtx c { k with dlq := [] }).accept r.record c r.sys (some r.params) = (s1, n) → s1.site? r.wave = some x →
      x.wave.mode = .launch r.num → s.quiesced = false → s.started = true → (∀ q < 16, (s.queue q).enabled = false) →
      s.ctxs = [(c, k)] → c < 4 →
      let t := s1.release r.wave 0x13C (x.inLanes (splat .n32 n))
      (∀ q < 16, (t.queue q).enabled = false) → (∀ d, c < d → d < 4 → t.ctx? d = none) → exec .queueServeTurn s = .next t) ∧
    (∀ q,
      (s.servable q = false ∨ s.started = false → exec (.tailSnoop q) s = .next s) ∧
      (∀ s1 bs, s.servable q = true → s.started = true → s.readVa (s.queue q).ctx 0 (s.queue q).tail 4 = (s1, .ok bs) →
        exec (.tailSnoop q) s = .next (s1.setQueue q { s.queue q with lastTail := ofLe bs })) ∧
      (∀ s1 s2 bs r, (s.queue q).enabled = true → (s.queue q).headOwed = false → (s.queue q).headRead = true →
        s.readVa (s.queue q).ctx 0 (s.queue q).tail 4 = (s1, .ok bs) →
        let x := s.queue q
        let n := (ofLe bs + 2 ^ 32 - x.hcount) % 2 ^ 32
        let s2' := s1.setQueue q { x with lastTail := ofLe bs }
        (x.nrec < n → s.serve q = (s2'.dropQueue q 1 (ofLe bs), false)) ∧
        (n = 0 → s.serve q = (s2', false)) ∧
        (0 < n → n ≤ x.nrec → s2'.readVa x.ctx 0 (x.ring + 256 * (x.hcount % x.nrec)) 256 = (s2, .ok r) →
          let a := (s2.accept r x.ctx x.sys none).1
          s.serve q = ((a.setQueue q { a.queue q with hcount := (x.hcount + 1) % 2 ^ 32 }).writeHead q, true))))

/-! ## Split tiles, migration, power and thermal control (16, 17, 20) -/

/-- 16 R347; 17 R353, R354; 20 R394-R401; 18 R380: the switch of a split tile in its steps, reassignment and migration, the control
interval with the ceilings and grants that it sets, the thermal trip, and the end of a port-divisor change. -/
def Obligations.ContextAndPowerEvents : Prop :=
  ∀ (s : State),
    (∀ t,
      let y := s.tile t
      (y.dual = false ∨ y.switch ≠ none ∨ y.debugged = true ∨ s.switchDue t = false → exec (.contextSwitchStart t) s = .next s) ∧
      (y.dual = true → y.switch = none → y.debugged = false → s.ctx? y.other ≠ none → s.switchDue t = true →
        exec (.contextSwitchStart t) s = .next ((s.sitesOn t y.act).foldl (fun u e => u.modWave e.w Wave.askStop)
          (s.setTile t { y with switch := some { other := y.other, t0 := s.tick, landed := none } }))) ∧
      (y.switch = none ∨ y.debugged = true → exec (.contextSwitchLanded t) s = .next s) ∧
      (∀ w, y.switch = some w → w.landed = none → w.other < 4 → y.debugged = false →
        (∀ x ∈ s.sitesOn t y.act, x.wave.stop = .landed ∨ x.wave.mode = .ended ∨ x.wave.mode = .released ∨ x.block.phase ≠ .resident) →
        ∃ u, exec (.contextSwitchLanded t) s = .next u ∧ (u.tile t).act = w.other ∧
          (u.tile t).switch = some { w with landed := some s.tick } ∧ (u.tile t).even.active = [] ∧ (u.tile t).odd.active = []) ∧
      (∀ w t1, y.switch = some w → w.landed = some t1 → y.clock.change = none →
        (s.tick < max t1 y.clock.t0 + 4 * y.clock.cdiv → exec (.contextSwitchIssue t) s = .next s) ∧
        (max t1 y.clock.t0 + 4 * y.clock.cdiv ≤ s.tick → y.reassign = none →
          ∃ u, exec (.contextSwitchIssue t) s = .next u ∧ (u.tile t).switch = none ∧ (u.tile t).switchedAt = s.tick ∧
            (u.tile t).word = y.word ∧ u.mem = s.mem)) ∧
      (y.reassign = none → exec (.tileReassignApply t) s = .next s) ∧
      (∀ w, y.reassign = some w → y.switch = none →
        let s1 := s.beginReassign t
        let left := s1.occupied [t] fun c => y.hasShare c && !(wordOwners w.toNat).contains c
        (left = true → exec (.tileReassignApply t) s = .next s1) ∧
        (left = false → exec (.tileReassignApply t) s = .next (s1.applyWord t w.toNat)))) ∧
    (∀ w x ctx die list rel npg before, s.site? w = some x → x.wave.sysReq = some (.migr ctx die list rel npg before) →
      (s.quiescent ctx before = false → exec (.migrationApply w) s = .next s) ∧
      (s.quiescent ctx before = true → npg = 0 →
        exec (.migrationApply w) s =
          .next ((s.dropTlb ctx).setWave w { x.wave with sysReq := some (.migrated 0) })) ∧
      (∀ s1 old s2 r, s.quiescent ctx before = true → npg ≠ 0 → s.movePages x ctx die list (List.range npg) = (s1, old) →
        s1.putVa partWriter x.launch.ctx x.block.die rel (leBytes 8 old.length ++ old.flatMap fun f => leBytes 8 f) = (s2, r) →
        exec (.migrationApply w) s =
          .next (s2.modWave w fun y => { y with sysReq := some (.migrated old.length) }))) ∧
    (∀ inp : PowerInputs,
      (s.tick < 56000 * (s.interval + 1) → exec (.controlInterval inp) s = .next s) ∧
      (56000 * (s.interval + 1) ≤ s.tick →
        let k := s.interval + 1
        let s1 := s.measured inp
        s1.interval = s.interval ∧ s1.lastP = inp.p ∧ s1.energy = s.energy + inp.p ∧ s1.pidle = s.idleNow ∧
        s1.capQ = s.capAt k ∧
        ∃ u, exec (.controlInterval inp) s = .next u ∧ u.interval = k ∧ u.lastP = inp.p ∧
          u.energy = s.energy + inp.p ∧ u.pidle = s.idleNow ∧ u.capQ = s.capQ ∧ u.floors = s.floors ∧
          (∀ c ∈ s1.liveClusters,
            let m := readingOf inp k c
            let y := ceilStep (s.cluster c).ceil m.t m.i (railLimit c.die) inp.p s1.capNow (s1.overFloor c (s1.ctxPowers inp k)) (s1.topGear c)
              (s1.wantsBoost c)
            (u.cluster c).ceil = y ∧ (u.cluster c).t = m.t ∧ (u.cluster c).i = m.i) ∧
          (∀ c, s.clusterDead c = true → u.cluster c = s.cluster c)) ∧
      (∀ c, c.die < 8 → c.cl < clustersOf c.die → s.clusterDead c = false → c ∈ s.liveClusters) ∧
      (∀ c m, inp.clusters.find? (fun e => e.cl == c) = some m → readingOf inp (s.interval + 1) c = m)) ∧
    (∀ (x : Ceil) (t i il p cap : Nat) (above : Bool) (g : Nat) (req : Bool),
      let y := ceilStep x t i il p cap above g req
      (band t < x.ct → y.ct = band t) ∧ (x.ct ≤ band t → x.ct = 5 → y.ct = 5) ∧
      (x.ct ≤ band t → x.ct < 5 → y.ct = if t + 12 < lowOf x.ct then x.ct + 1 else x.ct) ∧
      (il < i → y.cr = min x.cr (g - 1)) ∧ (i ≤ il → x.cr < 5 → y.cr = if 10 * i ≤ 9 * il then x.cr + 1 else x.cr) ∧
      (1000 * cap < p → above = true → y.cp = min x.cp (g - 1)) ∧
      ((p ≤ 1000 * cap ∨ above = false) → x.cp < 5 → y.cp = if p ≤ 970 * cap then x.cp + 1 else x.cp) ∧
      (req = false → y.grant = false ∧ y.susp = false) ∧
      (req = true → (y.ct < 5 ∨ y.cr < 5 ∨ y.cp < 5) → x.ct ≤ 5 → y.grant = false) ∧
      (req = true → y.ct = 5 → 5 ≤ y.cr → 5 ≤ y.cp → p ≤ 950 * cap → t < 340 → y.grant = true)) ∧
    (∀ cl reading,
      (reading < 432 → exec (.thermalTrip cl reading) s = .next s) ∧
      (432 ≤ reading → exec (.thermalTrip cl reading) s =
        .next (((((s.setCluster cl { s.cluster cl with ct := 0 }).countCluster cl 0x46).setCeiling cl 0 (s.cluster cl).grant).event 0x13
          (cl.cl + 32 * cl.die) reading)))) ∧
    (∀ die e v, (s.die die).pdStop = some (e, v) →
      (s.tick < e → exec (.pdStopEnd die) s = .next s) ∧
      (e ≤ s.tick → exec (.pdStopEnd die) s = .next (((s.setDie die { s.die die with pd := v, pdStop := none }).tellPeers die).nextPd die)))

/-! ## Links and messages (18) -/

/-- 18 R371-R381: width changes, the wake of a group in its steps, loss of lock, and flits; and what each kind of message does when
it arrives: one that is not meant for this device is discarded and counted. That group 0 is READY without an announcement of the peer, that
loss of lock on a link without a peer changes its ring alone, and status 2 for a target context that is not resident are the model's choice
(log entry 43), as is how responses that match no request are counted and how a stream of flits begins (log entry 66). -/
def Obligations.LinkAndMessageEvents : Prop :=
  ∀ (s : State),
    (∀ l,
      let x := s.link l
      ((∀ g < 4, ¬(x.parking.getLsbD g = true ∧ x.grp g = .on)) → (∀ g < 4, x.grp g ≠ .ready) → x.groups.length = 4 →
        exec (.widthChange l) s = .next (s.setLink l { x with parking := 0 })) ∧
      (x.up = true → x.grp 0 = .on → x.parking.getLsbD 0 = false → (∃ g < 4, x.parking.getLsbD g = true ∧ x.grp g = .on) →
        (∀ g < 4, x.grp g ≠ .ready) →
        ∃ u, exec (.widthChange l) s = .next u ∧ (u.link l).parking = 0 ∧ (u.link l).retrain = some (s.tick + 28) ∧
          (u.link l).up = true ∧ u.mem = s.mem ∧
          ∀ g < 4, (u.link l).grp g = if x.parking.getLsbD g = true ∧ x.grp g = .on then .off else x.grp g) ∧
      (x.up = true → x.grp 0 = .on → x.parking = 0 → (∃ g < 4, x.grp g = .ready) → (s.die (linkDie l)).pd = 2 →
        (s.die (linkDie l)).pdStop = none →
        ∃ u, exec (.widthChange l) s = .next u ∧ (u.link l).retrain = some (s.tick + 28) ∧ (u.link l).up = true ∧
          ∀ g < 4, (u.link l).grp g = if x.grp g = .ready then .on else x.grp g) ∧
      (∀ e, x.retrain = some e →
        (s.tick < e → exec (.retrainEnd l) s = .next s) ∧
        (e ≤ s.tick → exec (.retrainEnd l) s = .next ((s.setLink l { x with retrain := none }).nextPd (linkDie l)))) ∧
      (∀ g t, x.grp g = .waking t →
        (s.tick < t + 2520 → exec (.laserStartDone l g) s = .next s) ∧
        (t + 2520 ≤ s.tick → exec (.laserStartDone l g) s = .next (s.setLink l (x.setGrp g (.locking (t + 2520)))))) ∧
      (∀ g t, x.grp g = .locking t → g < x.groups.length →
        (s.tick < t + 1960 ∨ (g ≠ 0 ∧ x.peerReady.getLsbD g = false) → exec (.ringLockDone l g) s = .next s) ∧
        (t + 1960 ≤ s.tick → (g = 0 ∨ x.peerReady.getLsbD g = true) →
          ∃ u, exec (.ringLockDone l g) s = .next u ∧ (u.link l).grp g = .ready ∧
            ∀ e ∈ groupRings l g, (u.ring e.1 e.2).locked = true)) ∧
      (∀ g, exec (.peerReadiness l g) s = .next (s.setLink l { x with peerReady := x.peerReady ||| (1#4 <<< g) })) ∧
      (x.thr = 0 ∨ x.depth < x.thr ∨ s.hasPeer l = false → exec (.thresholdWake l) s = .next s) ∧
      (x.thr ≠ 0 → x.thr ≤ x.depth → s.hasPeer l = true → x.groups.length = 4 →
        ∃ u, exec (.thresholdWake l) s = .next u ∧ ∀ g < 4, x.grp g = .off → (u.link l).grp g = .waking s.tick) ∧
      (∀ fl : Flit,
        (s.linkUp l = false → exec (.flitReceive l fl) s = .next s) ∧
        (s.linkUp l = true → flitIntact fl = false → x.fails < 16 ∨ x.asking = true →
          exec (.flitReceive l fl) s = .next (s.setLink l { x with asking := true, announce := true })) ∧
        (s.linkUp l = true → flitIntact fl = false → 16 ≤ x.fails → x.asking = false → exec (.flitReceive l fl) s = .next (s.linkDown l)) ∧
        (s.linkUp l = true → flitIntact fl = true → fl.ftype = 1 →
          let v := fl.cvc.toNat
          let y := { x.acknowledge fl.ack.toNat with
            credits := x.credits.set v ((x.credits[v]?).getD 0 + fl.cred.toNat) }
          (fl.fseq.toNat ≠ (x.rseq + 1) % 65536 → exec (.flitReceive l fl) s = .next (s.setLink l y)) ∧
          (∀ ms rest, fl.fseq.toNat = (x.rseq + 1) % 65536 →
            takeMessages ((y.rx ++ fl.beats).length + 1) (y.rx ++ fl.beats) = (ms, rest) →
            ∃ u, exec (.flitReceive l fl) s = .next u ∧ u.agenda = ms.map Act.arrive ++ s.agenda ∧
              u.link l = { y with rseq := fl.fseq.toNat, fails := 0, rx := rest, returns := ms.foldl addReturn y.returns } ∧ u.mem = s.mem)))) ∧
    (∀ fib r,
      let l := fib / 4
      let s1 := s.setRing fib r { s.ring fib r with locked := false }
      ((r % 8 / 2 ≠ 0 ∧ (2 ≤ fib % 4 ∨ (s.link l).grp (r % 8 / 2) ≠ .on)) ∨ (r % 8 / 2 = 0 ∧ (s.link l).grp 0 ≠ .on) ∨ (s.hasPeer l = false ∧ (s.link l).live = false) →
        exec (.lossOfLock fib r) s = .next s1) ∧
      (r % 8 / 2 = 0 → s.hasPeer l = true → (s.link l).grp 0 = .on → (s.link l).groups.length = 4 →
        ∃ u, exec (.lossOfLock fib r) s = .next u ∧ (u.link l).up = false ∧ (u.link l).grp 0 = .locking s.tick ∧
          (u.link l).unacked = []) ∧
      (r % 8 / 2 ≠ 0 → fib % 4 < 2 → s.hasPeer l = true → (s.link l).grp (r % 8 / 2) = .on → (s.link l).groups.length = 4 →
        (s.link l).up = true →
        ∃ u, exec (.lossOfLock fib r) s = .next u ∧ (u.link l).up = true ∧ (u.link l).grp (r % 8 / 2) = .waking s.tick ∧
          (u.link l).retrain = some (s.tick + 28) ∧ (u.ring fib r).locked = false)) ∧
    (∀ m : Message,
      (s.mine m = false →
        let t : State := { s with discarded := (s.discarded + 1) % 2 ^ 64 }
        exec (.fabRead m) s = .next t ∧ exec (.fabWrite m) s = .next t ∧ exec (.fabAtomic m) s = .next t ∧
        exec (.copyWrite m) s = .next t ∧ exec (.completionWrite m) s = .next t ∧ exec (.readResponse m) s = .next t ∧
        exec (.writeAcknowledgement m) s = .next t ∧ exec (.atomicResponse m) s = .next t) ∧
      (s.mine m = true →
        let n := m.len.toNat
        (∀ s1 e, s.peerSpans m n true false false = (s1, .error e) → exec (.fabRead m) s = .next (s1.respond m 4 e [])) ∧
        (∀ s1 ks, s.peerSpans m n true false false = (s1, .ok ks) →
          exec (.fabRead m) s = .next (s1.respond m 4 0 (s1.readSpans ks))) ∧
        (∀ s1 e, s.peerSpans m n false true false = (s1, .error e) → exec (.fabWrite m) s = .next (s1.respond m 5 e [])) ∧
        (∀ s1 ks, s.peerSpans m n false true false = (s1, .ok ks) →
          exec (.fabWrite m) s = .next ((s1.putSpans peerWriter ks (m.payload.take n)).respond m 5 0 [])) ∧
        (∀ s1 ks, s.peerSpans m n false true true = (s1, .ok ks) →
          exec (.copyWrite m) s = .next ((s1.putSpans peerWriter ks (m.payload.take n)).respond m 5 0 [])) ∧
        (∀ s1 ks, s.peerSpans m 4 false true true = (s1, .ok ks) →
          exec (.completionWrite m) s = .next ((s1.putSpans partWriter ks (m.payload.take 4)).respond m 5 0 [])) ∧
        (∀ s1 ks, m.aop = 0 → s.peerSpans m n true true false = (s1, .ok ks) →
          let old := ofLe (s1.readSpans ks)
          let new := (old + ofLe (m.payload.take n)) % 2 ^ (8 * n)
          exec (.fabAtomic m) s =
            .next (((s1.putSpans peerWriter ks (leBytes n new)).draw).respond m 6 0 (leBytes n old))) ∧
        (8 < m.aop.toNat → exec (.fabAtomic m) s = .next { s with discarded := (s.discarded + 1) % 2 ^ 64 }) ∧
        (∀ rd wr vault, (winOf m.va.toNat = .die ∨ s.ctx? m.ctx.toNat = none) → s.peerSpans m n rd wr vault = (s, .error 2)) ∧
        (∀ o, s.asked m [1] = some o →
          exec (.readResponse m) s = .next (s.fabAnswer o m.sts.toNat (loadBits o.ty o.size (ofLe (m.payload.take o.size))) 0x144)) ∧
        (∀ o, s.asked m [3] = some o →
          exec (.atomicResponse m) s = .next (s.fabAnswer o m.sts.toNat (ofLe (m.payload.take o.size)) 0x146)) ∧
        (∀ o, s.asked m [2, 7, 8] = some o →
          (o.cmd = none → exec (.writeAcknowledgement m) s = .next (s.fabAnswer o m.sts.toNat 0 0x145)) ∧
          (∀ id, o.cmd = some id → m.sts = 0 →
            exec (.writeAcknowledgement m) s =
              .next { s with fabOut := s.fabOut.erase o })) ∧
        (s.asked m [1] = none →
          exec (.readResponse m) s = .next { s with discarded := (s.discarded + 1) % 2 ^ 64 })))

/-! ## The host, the starts and containment (18, 22) -/

/-- 18 R361-R365, R367, R368, R370, R381; 22 R425-R429, R436-R438: writes of the register page and of the memory window, a QEN bit that
goes from 0 to 1, the management endpoint, the starts of the part and what each of them keeps, and an unrecoverable fault of a tile. That
QTAB, PTAB and EVRING drop the low bits of a value, and that an EVN below 2 is ignored, are the model's choice (log entry 67); so are
what a start keeps where no rule names a span (log entry 46) and what the management endpoint's free answers are (log entry 57). -/
def Obligations.HostAndStartEvents : Prop :=
  ∀ (s : State),
    (s.started = true →
      let bar (b : Bar0) : Host.Outcome State Fault Refusal := .next { s with bar0 := b }
      ∀ v : Word64,
      (s.bar0.qen = 0 → exec (.qtabWrite v) s = bar { s.bar0 with qtab := multipleOf 1024 v }) ∧
      (s.bar0.qen ≠ 0 → exec (.qtabWrite v) s = .next s) ∧
      (v = 0 → ∃ t, exec (.qenWrite v) s = .next t ∧ t.bar0 = { s.bar0 with qen := 0 } ∧ t.mem = s.mem ∧
        ∀ q < 16, (t.queue q).enabled = false) ∧
      (∀ q < 16, v = (1#64 <<< q) → s.bar0.qen = (1#16 <<< q) → (∀ k, k < 16 → k ≠ q → (s.queue k).enabled = false) →
        ∃ t, exec (.qenWrite v) s = .next t ∧ t.bar0 = s.bar0 ∧ t.mem = s.mem) ∧
      exec (.qenWrite v) s = .next ((List.range 16).foldl (fun u q => u.writeQen q (v.getLsbD q)) s) ∧
      exec (.ptabWrite v) s = bar { s.bar0 with ptab := multipleOf 512 v } ∧
      (3072 < v.toNat % 2 ^ 16 + v.toNat / 2 ^ 32 % 2 ^ 16 → exec (.winWrite v) s = .next s) ∧
      (v.toNat % 2 ^ 16 + v.toNat / 2 ^ 32 % 2 ^ 16 ≤ 3072 →
        exec (.winWrite v) s = bar { s.bar0 with win := v &&& 0x0000FFFF0000FFFF#64 }) ∧
      exec (.evringWrite false v) s = bar { s.bar0 with evring := multipleOf 64 v, evhead := 0 } ∧
      (2 ≤ v.toNat % 2 ^ 16 → exec (.evringWrite true v) s = bar { s.bar0 with evn := v.toNat % 2 ^ 16, evhead := 0 }) ∧
      (v.toNat % 2 ^ 16 < 2 → exec (.evringWrite true v) s = .next s) ∧
      exec (.evtailWrite v) s = bar { s.bar0 with evtail := v.toNat % 2 ^ 16 } ∧
      exec (.fidWrite v) s = bar { s.bar0 with fid := v.setWidth 6 } ∧
      (∀ off, exec (.bar0OtherWrite off v) s = .next s)) ∧
    (∀ q, q < 16 →
      ((s.writeQen q false).qenBit q = false ∧ ((s.writeQen q false).queue q).enabled = false ∧ (s.writeQen q false).mem = s.mem) ∧
      (s.qenBit q = true → s.writeQen q true = s) ∧
      (s.qenBit q = false →
        let desc := queueOf (ofLe (s.readLin (s.bar0.qtab.toNat + 64 * q) 64))
        let on (x : Queue) := (s.setQen q true).setQueue q x
        (desc = none →
          let t := s.writeQen q true
          t.qenBit q = false ∧ (t.queue q).enabled = false ∧ t.mem = (s.event 2 q 0).mem ∧ t.bar0.evhead = (s.event 2 q 0).bar0.evhead) ∧
        ∀ x, desc = some x →
          (s.ctx? x.ctx = none → s.writeQen q true = on x) ∧
          (∀ u bs, s.ctx? x.ctx ≠ none → (on x).readVa x.ctx frontDie x.head 4 = (u, .ok bs) →
            s.writeQen q true = u.setQueue q { x with hcount := ofLe bs, headRead := true }) ∧
          (∀ u va, s.ctx? x.ctx ≠ none → (on x).readVa x.ctx frontDie x.head 4 = (u, .error va) →
            s.writeQen q true = u.dropQueue q 2 va))) ∧
    (s.bar0Read 0 = 0x4B580000000000A1#64 ∧ s.bar0Read 0x010 = s.bar0.qen.setWidth 64 ∧
      ∀ off, (off % 8 ≠ 0 ∨ 0x48 < off) → s.bar0Read off = 0) ∧
    (∀ off n, s.started = true → off % 64 + n ≤ 64 → 0 < n →
      exec (.cxlMemRead off n) s = .next { s with hostOut := s.hostOut ++ [s.hostUnit off n] }) ∧
    (∀ off bs, s.started = true → off % 64 + bs.length ≤ 64 → bs ≠ [] →
      (s.winKey off = none → exec (.cxlMemWrite off bs) s = .next s) ∧
      (∀ k, s.winKey off = some k →
        (inStore k = true → exec (.cxlMemWrite off bs) s = .next s) ∧
        (inStore k = false → exec (.cxlMemWrite off bs) s = .next (s.putKey hostWriter k bs)))) ∧
    (∀ rate width, (rate ∈ [128, 64, 32] ∧ width ∈ [16, 8, 4] →
        exec (.cxlLinkRetrain rate width) s = .next { s with cxl := { rate := rate, width := width } }) ∧
      (¬(rate ∈ [128, 64, 32] ∧ width ∈ [16, 8, 4]) → exec (.cxlLinkRetrain rate width) s = .next s)) ∧
    (∀ req,
      let free (bs : List Byte) : Host.Outcome State Fault Refusal :=
        .next { s with fresh := s.fresh + 1, mgmtOut := s.mgmtOut ++ [bs] }
      exec (.mctpBaseControl req) s = free (Config.mctpAnswer req s.fresh) ∧
      exec .identity s = free (Config.identityAnswer s.fresh) ∧ exec .sensorReadings s = free (Config.sensorAnswer s.fresh) ∧
      exec .eventRingMirror s = .next { s with mgmtOut := s.mgmtOut ++ [s.readLin s.bar0.evring.toNat (16 * s.bar0.evn)] } ∧
      exec .summary s = .next { s with mgmtOut := s.mgmtOut ++ [s.summaryBytes] } ∧
      exec .clearRetirement s = .next { s with clearRetired := true }) ∧
    (∀ pc : FirmwarePiece,
      let img := putPieceAt s.fw.loading pc.off pc.bytes
      let fw (f : Firmware) : Host.Outcome State Fault Refusal := .next { s with fw := f }
      (pc.last = false → exec (.recoveryLoad pc) s = fw { s.fw with loading := img }) ∧
      (pc.last = true → Config.digest img = pc.digest →
        exec (.recoveryLoad pc) s =
          fw { s.fw with loading := [], image := img, digest := pc.digest, pending := some (img, pc.digest) }) ∧
      (pc.last = true → Config.digest img ≠ pc.digest → exec (.recoveryLoad pc) s = fw { s.fw with loading := [] })) ∧
    (∀ inp : StartInputs,
      (MemInv s → inp.failingRows = [] → s.rowErr = [] → Config.digest s.fw.image = s.fw.digest → s.fw.loading = [] →
        ∃ t, exec (.coldStart inp) s = .next t ∧ t.started = true ∧ t.trained = true ∧ t.tick = 0 ∧ t.ctxs = [] ∧ t.launches = [] ∧
          t.store = [] ∧ t.pbase = inp.pbase ∧ t.retired = (if s.clearRetired then [] else s.retired) ∧ t.clearRetired = false ∧
          ∀ a, Mem.read t.mem a = if isHostKey a then Mem.read s.stopTraces.mem a else 0#8) ∧
      (s.trained = false → exec (.warmStart inp) s = .next s) ∧
      (MemInv s → s.trained = true → Config.digest s.fw.image = s.fw.digest → s.fw.loading = [] →
        ∃ t, exec (.warmStart inp) s = .next t ∧ t.started = true ∧ t.tick = 0 ∧ t.ctxs = [] ∧ t.launches = [] ∧ t.store = [] ∧
          t.capQ = s.capQ ∧ t.floors = s.floors ∧ t.l3 = s.l3 ∧ t.pbase = s.pbase ∧ t.retired = s.retired ∧
          t.spared = s.spared ∧
          ∀ a, Mem.read t.mem a = if isHostKey a || (isDeviceKey a && !isTraceControl a) then Mem.read s.stopTraces.mem a else 0#8)) ∧
    (∃ t, exec .powerRemoval s = .next t ∧ t.started = false ∧ t.trained = s.trained ∧ t.fw = s.fw ∧ t.retired = s.retired ∧
      t.spared = [] ∧
      t.ctxs = [] ∧ t.launches = []) ∧
    (∀ base, (s.ctxs ≠ [] ∨ base / 2 ^ 48 ≠ 1 → exec (.flaconLoad base) s = .next s) ∧
      (s.ctxs = [] → base / 2 ^ 48 = 1 → exec (.flaconLoad base) s = .next (s.restore base))) ∧
    (∀ fib r, exec (.heaterFlashWrite fib r) s =
      .next (s.setRing fib r { s.ring fib r with flash := (s.ring fib r).setpoint, changed := none })) ∧
    (∀ t cause,
      (s.tileDead t = true → s.tileIdle t = true → exec (.unrecoverableFault t cause) s = .next s) ∧
      (s.tileDead t = true → s.tileIdle t = false → s.launches = [] → s.ctxs = [] →
        ∃ u, exec (.unrecoverableFault t cause) s = .next u ∧ (u.tile t).copyQ = [] ∧ (u.tile t).kvQ = [] ∧ (u.tile t).rowQ = [] ∧
          u.retired = s.retired) ∧
      (s.tileDead t = false → t.die < 8 → t.tile < 128 → s.launches = [] → s.ctxs = [] →
        ∃ u, exec (.unrecoverableFault t cause) s = .next u ∧ (u.tile t).retired = true ∧ (u.tile t).copyQ = [] ∧
          (u.tile t).kvQ = [] ∧ (u.tile t).rowQ = [] ∧ u.retired = s.retired ++ [(4 * t.die + 32 * t.tile, cause, s.tick)]))

/-! ## The debugger and the trace engine (14, 21) -/

/-- 14 R318-R320; 21 R416-R418, R421: the debugger's stop and commands, and the trace engine's packets, frames and masks. -/
def Obligations.DebugAndTraceEvents : Prop :=
  ∀ (s : State),
    (∀ t odd,
      let p := (s.tile t).part odd
      (s.debugOn (s.tile t).act = false → p.dbg = none → exec (.debugInterfaceStop t odd) s = .next s) ∧
      (s.debugOn (s.tile t).act = true → p.dbg = none →
        ∃ u d, exec (.debugInterfaceStop t odd) s = .next u ∧ ((u.tile t).part odd).dbg = some d ∧ d.cause = 2 ∧
          d.ctx = (s.tile t).act ∧ d.tick = s.tick) ∧
      (s.debugCmd t odd = none → exec (.debugResume t odd) s = .next s ∧ exec (.debugStep t odd) s = .next s ∧
        exec (.debugUndo t odd) s = .next s) ∧
      (∀ d k n, s.debugCmd t odd = some (d, 1, k, n) →
        ∃ u, exec (.debugResume t odd) s = .next u ∧ ((u.tile t).part odd).dbg = none ∧ u.mem = s.mem) ∧
      (∀ d k n e x, s.debugCmd t odd = some (d, 2, k, n) → p.recordEntry k = some e → s.site? e.wave = some x →
        x.wave.stop = .landed → x.block.fate = none → x.block.phase = .resident → x.wave.owed = none →
        ∃ u, exec (.debugStep t odd) s = .next u ∧
          u.wave? e.wave = some { x.wave with
            stop := if n = 0 then .requested else .none, stepLeft := some n, stepEnd := none, native := none } ∧
          ((u.tile t).part odd).dbg = some { d with dumped := false, cause := 3, tick := s.tick, pend := [], regs := [] } ∧
          u.mem = s.mem) ∧
      (∀ d k n w, s.debugCmd t odd = some (d, 3, k, n) → p.recordWave k = some w →
        exec (.debugUndo t odd) s = .next ((s.undo w n).1.writeDump t odd d false))) ∧
    (∀ die,
      let e := (s.die die).trace
      let put (f : TraceEng) : State := s.setDie die { s.die die with trace := f }
      (∃ f, exec (.tracePacketWrite die) s = .next (put f) ∧ f.held = e.held.filter (fun p => decide (s.tick < p.tick + 1024)) ∧
        ((∀ p ∈ e.held, s.tick < p.tick + 1024) → f = e)) ∧
      ((s.tick < e.lastWrite + 56000 ∨ ∃ p ∈ e.held, p.tick < e.lastWrite + 56000) → exec (.traceFrameClose die) s = .next (put e)) ∧
      (e.lastWrite + 56000 ≤ s.tick → (∀ p ∈ e.held, e.lastWrite + 56000 ≤ p.tick) →
        (e.frame = [] → exec (.traceFrameClose die) s = .next (put e)) ∧
        (e.frame ≠ [] → e.buf.length < 4 →
          exec (.traceFrameClose die) s = .next (put { e with
            frame := [], accord := [], fseq := (e.fseq + 1) % 2 ^ 64, buf := e.buf ++ [frameBytes die e.fseq e.frame], loss := 0 })) ∧
        (e.frame ≠ [] → 4 ≤ e.buf.length →
          exec (.traceFrameClose die) s = .next (put { e with
            frame := [], accord := [], fseq := (e.fseq + 1) % 2 ^ 64, loss := e.loss + 1, ndrop := e.ndrop + 1 }))) ∧
      (e.buf = [] → exec (.traceFrameWrite die) s = .next s) ∧
      (∀ b r, e.buf = b :: r →
        let ridx := s.numKey (traceBase die + 4) 4
        let next := (e.widx + 1) % 16383
        let full := next = if 16383 ≤ ridx then 0 else ridx
        (full → exec (.traceFrameWrite die) s = .next s) ∧
        (¬full →
          exec (.traceFrameWrite die) s =
            .next ((((s.putKey partWriter (traceBase die + 4096 * (1 + e.widx)) b).putKey partWriter (traceBase die)
              (leBytes 4 next)).setDie die { s.die die with
                trace := { e with buf := r, widx := next, nframes := e.nframes + 1 } }))))) ∧
    (∀ ctx k, s.ctx? ctx = some k →
      (∀ o, k.tnext = [o] →
        (s.tick < o.tick + 1024 → exec (.traceMaskApply ctx) s = .next (s.setCtx ctx k)) ∧
        (o.tick + 1024 ≤ s.tick →
          exec (.traceMaskApply ctx) s = .next (s.setCtx ctx { k with
            tmask := if o.on then k.tmask ||| o.kinds else k.tmask &&& ~~~o.kinds, tnext := [] }))))

/-! ## The machine as a whole -/

/-- What reset leaves, where the spec gives values: no context, launch or translation; every tile at gear 4 on the fast rail with
pacing 0 and no share; every ceiling 5 and no grant; every link up at 16 wavelengths with THR 0; PD 2; the cap, the floors, the
limits, the targets and the register page. Device memory read as 0 is the model's choice (log entry 2). -/
def Obligations.ResetValues : Prop :=
  let s := State.reset
  s.tick = 0 ∧ s.ctxs = [] ∧ s.launches = [] ∧ s.store = [] ∧ s.tlb = [] ∧ s.nextLseq = 1 ∧ s.bar0 = Bar0.reset ∧
  s.bar0.qen = 0 ∧ s.bar0.win = 0 ∧ s.bar0.evn = 0 ∧ s.bar0.fid = 0 ∧
  s.capQ = 2400 ∧ s.floors = [0, 0, 0, 0] ∧ s.l3 = [32, 4, 24, 4] ∧ s.wdogs = [2 ^ 24, 2 ^ 24, 2 ^ 24, 2 ^ 24] ∧
  (∀ t, (s.tile t).word = 0 ∧ (s.tile t).clock.gd = 4 ∧ (s.tile t).clock.fast = true ∧ (s.tile t).clock.cdiv = 2 ∧
    (s.tile t).clock.ediv = 4 ∧ (s.tile t).clock.cap = 5 ∧ (s.tile t).clock.grant = false ∧ (s.tile t).retired = false ∧
    ∀ c, ((s.tile t).ctx c).gear = 4 ∧ ((s.tile t).ctx c).pcpy = 0 ∧ ((s.tile t).ctx c).pkv = 0 ∧ ((s.tile t).ctx c).pmma = 0 ∧
      ((s.tile t).ctx c).pfab = 0 ∧ ((s.tile t).ctx c).prow = 0) ∧
  (∀ c, (s.cluster c).ct = 5 ∧ (s.cluster c).cr = 5 ∧ (s.cluster c).cp = 5 ∧ (s.cluster c).grant = false) ∧
  (∀ d, (s.die d).pd = 2) ∧
  (∀ l, (s.link l).up = true ∧ (s.link l).width = 16 ∧ (s.link l).thr = 0) ∧
  MemInv s ∧ ∀ a, Mem.read s.mem a = 0#8

/-- 04 R64-R69, R89; 05 R91-R93, R99: words written out from the encoding tables decode to what they stand for. -/
def Obligations.DecodeWords : Prop :=
  let f (typ : BitVec 4) (md : BitVec 6) (a b c p : BitVec 11) : Fields := { typ := typ, md := md, a := a, b := b, c := c, p := p }
  decodeWord 0x0008000400400000#64 [] = .ok (.add (f 2 0 2 1 0 0)) ∧
  decodeWord 0x3140000000000000#64 [] = .ok (.yield (f 0 0 0 0 0 0)) ∧
  decodeWord 0x3100000000000000#64 [] = .ok (.exit (f 0 0 0 0 0 0)) ∧
  decodeWord 0x4D00900000000000#64 [] = .ok (.gear (f 0 9 0 0 0 0)) ∧
  decodeWord 0x5000000200000000#64 [] = .ok (.prio (f 0 0 1 0 0 0)) ∧
  decodeWord 0x51C0000400400000#64 [] = .ok (.lkPark (f 0 0 2 1 0 0)) ∧
  decodeWord 0x5340100000000000#64 [] = .ok (.trcOn (f 0 1 0 0 0 0)) ∧
  decodeWord 0x570C200400400000#64 [] = .ok (.sysCtxTile (f 3 2 2 1 0 0)) ∧
  decodeWord 0x8008000400400000#64 [] = .error .marker ∧
  decodeWord 0x33C0000000000000#64 [] = .error .blockHeader ∧
  (∃ o, decodeWord 0x3040200200040002#64 [] = .error o)

/-- 04 R66, R69; 05 R92, R93, R99: decoding and encoding agree on every well-formed instruction that has an encoding, as words and as
the bytes of a stream, and every word that decodes is the encoding of what it decodes to. -/
def Obligations.DecodeEncode : Prop :=
  (∀ i : Instr, i.wf = true → encode i ≠ .noWords → decode (encode i) = .ok i) ∧
  (∀ (i : Instr) (w : BitVec 64) (args : List (BitVec 64)) (rest : List Byte), i.wf = true → encode i = .words w args →
    decodeBytes ((w :: args).flatMap wordBytes ++ rest) = .ok i) ∧
  (∀ (w : BitVec 64) (as : List ArgWord) (i : Instr), decodeWord w as = .ok i → (takesArgs (opcOf w).toNat = false → as = []) →
    encode i = .words w (as.map encodeArg))

/-- 04 R70, R82; 06 R137; 09 R211; 11 R238: what one step does: the head of the agenda; with an empty agenda, the selected wave's next word, when its
partition picks it for the stream of the word's op, decoded and run, or trap(RESERVED) for a word that is no instruction; trap(MALFORM) where a wave begins in a function that it may not run; while
the word waits for the data of a read, that the data returns; and otherwise that one tick passes. That an empty agenda goes so is the model's
choice (log entries 18 and 59). -/
def Obligations.StepRunsDecoded : Prop :=
  ∀ (s : State),
    (∀ w p x fr c, s.agenda = [] → s.cur = some w → s.nextPlace w = some p → s.site? w = some x → s.badEntry x = false → x.wave.top? = some (fr, c) →
      let k := portableStream (opcOf p.word).toNat
      let override := p.ovr && ovrIllegal (opcOf p.word).toNat
      let u := (s.picked x.tile w k).touchWave x
      (s.picks x.tile w k = false → step s = .next s) ∧
      (∀ i, s.picks x.tile w k = true → override = false → decodeWord p.word p.args = .ok i → step s = exec i u) ∧
      (s.picks x.tile w k = true → (override = true ∨ (∃ e, decodeWord p.word p.args = .error e)) →
        step s = .next (u.takeReserved x c p.word (wordResTy p.word)))) ∧
    (∀ w x, s.agenda = [] → s.cur = some w → s.site? w = some x → s.badEntry x = true →
      step s = .next (s.takeParkTrap x x.wave.mask 5 (Lanes.all 0))) ∧
    (∀ w x, s.agenda = [] → s.cur = some w → s.site? w = some x → s.nextPlace w = none → s.badEntry x = false →
      (s.canIssue x = false ∨ s.waitsData x = false → step s = .next (s.pass 1)) ∧
      (∀ c p, s.canIssue x = true → s.wordAt w = some (c, p) → x.wave.dataWaits c p = true →
        (x.wave.uses c p x.wave.guse = true → step s = exec (.globalAccessComplete w) s) ∧
        (x.wave.uses c p x.wave.guse = false → step s = exec (.vaultRequestComplete w) s))) ∧
    (s.agenda = [] → s.cur = none → step s = .next (s.pass 1)) ∧
    (∀ a r, s.agenda = a :: r → step s = perform a { s with agenda := r }) ∧
    (∀ i r, s.agenda = .event i :: r → step s = exec i { s with agenda := r }) ∧
    (∀ w r p i x, s.agenda = .wave w :: r →
      let u : State := { s with agenda := r, cur := some w }
      let k := portableStream (opcOf p.word).toNat
      u.nextPlace w = some p → u.site? w = some x → u.badEntry x = false → u.picks x.tile w k = true →
      (p.ovr && ovrIllegal (opcOf p.word).toNat) = false → decodeWord p.word p.args = .ok i →
      step s = exec i ((u.picked x.tile w k).touchWave x)) ∧
    (∀ w x fr c t b p, s.site? w = some x → x.wave.native = none → s.canIssue x = true → x.wave.top? = some (fr, c) →
      s.code? fr = some t → t.blocks[c.block]? = some b → b.code[c.place - b.params.length]? = some p →
      (x.wave.dataWaits c p = false → s.nextPlace w = some p) ∧ (x.wave.dataWaits c p = true → s.nextPlace w = none)) ∧
    (∀ w x, s.site? w = some x → (s.canIssue x = false ∨ x.wave.native ≠ none) → s.nextPlace w = none)

/-- 04 R70, R73; 02 R23: what a register operation leaves unchanged: it defines the next place of its own wave's path and can set, and
not clear, that wave's status flags; every other wave, every byte of memory, every tile, context, link and special state stands. -/
def Obligations.RegisterOpsFrame : Prop :=
  ∀ e ∈ rowsInteger ++ rowsFloat ++ rowsSli ++ rowsLane, ∀ (f : Fields) (s t : State) (x : Site) (fr : Frame) (rest : List Frame)
    (c : Cur) (fm : Form) (i : OpIn),
    AtPlace s x fr c → x.wave.native = none → x.wave.stepLeft = none → s.debugFrame fr = false → x.wave.frames = fr :: rest →
    Fits e.2 f x c fm i → exec (e.1 f) s = .next t →
    ∃ (y : Wave) (v : Value),
      t = s.setWave x.w y ∧ t.wave? x.w = some y ∧ (∀ w, w ≠ x.w → t.wave? w = s.wave? w) ∧
      (∀ a, Mem.read t.mem a = Mem.read s.mem a) ∧ t.tiles = s.tiles ∧ t.ctxs = s.ctxs ∧ t.links = s.links ∧ t.bar0 = s.bar0 ∧
      y.frames = { fr with cur := some { c with vals := v :: c.vals, vidx := c.vals.length + 1 } } :: rest ∧
      x.wave.ieee &&& y.ieee = x.wave.ieee ∧ x.wave.sli &&& y.sli = x.wave.sli ∧
      y = { x.wave with frames := y.frames, mode := .run, ieee := y.ieee, sli := y.sli }

/-- The model's memory keeps its canonical form: addresses strictly rising, and no entry equal to what an unlisted address reads
as. -/
def Obligations.StepKeepsMemoryForm : Prop :=
  ∀ s t : State, MemInv s → step s = .next t → MemInv t
end

