-- ==== Sys2Proof/Laws/Decode.lean ====
section
/-!
SUPPORT. The encodings read back: words, argument words, slots and byte streams, and what an instruction that `decodeOp`
answers holds.
-/

set_option Elab.async false

namespace Sys2Proof.Laws

/-- The opcode field of an encoded word (04 R66). -/
theorem opcOf_wordOf (o : BitVec 9) (f : Fields) : opcOf (wordOf o f) = o := by
  apply BitVec.eq_of_getLsbD_eq; intro i hi
  simp only [opcOf, wordOf, BitVec.getLsbD_append, BitVec.getLsbD_extractLsb']
  repeat' split
  all_goals first | omega | (simp only [hi, decide_true, Bool.true_and]; congr 1; omega)

/-- The other fields of an encoded word (04 R66). -/
theorem fieldsOf_wordOf (o : BitVec 9) (f : Fields) : fieldsOf (wordOf o f) = f := by
  rcases f with ⟨t, m, a, b, c, p⟩
  simp only [fieldsOf, wordOf, Fields.mk.injEq]
  refine ⟨?_, ?_, ?_, ?_, ?_, ?_⟩ <;>
    (apply BitVec.eq_of_getLsbD_eq; intro i hi
     simp only [BitVec.getLsbD_append, BitVec.getLsbD_extractLsb']
     repeat' split
     all_goals first | omega | (simp only [hi, decide_true, Bool.true_and]; congr 1; omega))

/-- A word with bit 63 clear is the encoding of its fields (04 R66). -/
theorem wordOf_fieldsOf (w : BitVec 64) (h : w.getLsbD 63 = false) : wordOf (opcOf w) (fieldsOf w) = w := by
  apply BitVec.eq_of_getLsbD_eq; intro i hi
  simp only [wordOf, opcOf, fieldsOf, BitVec.getLsbD_append, BitVec.getLsbD_extractLsb']
  repeat' split
  all_goals first
    | (simp only [*, decide_true, Bool.true_and]; congr 1; omega)
    | (have : i = 63 := by omega
       subst this; rw [h]; exact BitVec.getLsbD_zero)
    | skip

/-- The fields of an encoded argument word (04 R69). -/
theorem argWordOf_encodeArg (a : ArgWord) : argWordOf (encodeArg a) = a := by
  rcases a with ⟨t, m, a, b, c, p⟩
  simp only [argWordOf, encodeArg, ArgWord.mk.injEq]
  refine ⟨?_, ?_, ?_, ?_, ?_, ?_⟩ <;>
    (apply BitVec.eq_of_getLsbD_eq; intro i hi
     simp only [BitVec.getLsbD_append, BitVec.getLsbD_extractLsb']
     repeat' split
     all_goals first | omega | (simp only [hi, decide_true, Bool.true_and]; congr 1; omega))

/-- A well-formed argument word reads back (04 R69). -/
theorem argWord?_encodeArg (a : ArgWord) (h : a.wf = true) : argWord? (encodeArg a) = some a := by
  have h1 : (encodeArg a).extractLsb' 63 1 = 0 := by
    apply BitVec.eq_of_getLsbD_eq; intro i hi
    simp only [encodeArg, BitVec.getLsbD_append, BitVec.getLsbD_extractLsb']
    repeat' split
    all_goals first | omega | simp
  have h2 : (encodeArg a).extractLsb' 55 5 = 0 := by
    apply BitVec.eq_of_getLsbD_eq; intro i hi
    simp only [encodeArg, BitVec.getLsbD_append, BitVec.getLsbD_extractLsb']
    repeat' split
    all_goals first | omega | simp
  simp [argWord?, h1, h2, argWordOf_encodeArg, h]

/-- A list of argument words reads back, whatever follows it. -/
theorem takeArgWords_encode (as : List ArgWord) (h : as.all ArgWord.wf = true) (r : List (BitVec 64)) :
    takeArgWords as.length (as.map encodeArg ++ r) = some (as, r) := by
  induction as with
  | nil => rfl
  | cons a as ih =>
    simp only [List.all_cons, Bool.and_eq_true] at h
    simp [takeArgWords, argWord?_encodeArg a h.1, ih h.2]

/-- The fields of an encoded slot (05 R92). -/
theorem slotOf_encodeSlot (o : BitVec 9) (s : Slot) (e : Option SlotExt) : slotOf (encodeSlot o s) e = { s with ext := e } := by
  rcases s with ⟨t, m, a, b, c, p, x⟩
  simp only [slotOf, encodeSlot, Slot.mk.injEq, and_true]
  refine ⟨?_, ?_, ?_, ?_, ?_, ?_⟩ <;>
    (apply BitVec.eq_of_getLsbD_eq; intro i hi
     simp only [BitVec.getLsbD_append, BitVec.getLsbD_extractLsb']
     repeat' split
     all_goals first | omega | (simp only [hi, decide_true, Bool.true_and]; congr 1; omega))

/-- The opcode of an encoded slot (05 R92). -/
theorem opc_encodeSlot (o : BitVec 9) (s : Slot) : (encodeSlot o s).extractLsb' 47 9 = o := by
  apply BitVec.eq_of_getLsbD_eq; intro i hi
  simp only [encodeSlot, BitVec.getLsbD_append, BitVec.getLsbD_extractLsb']
  repeat' split
  all_goals first | omega | (simp only [hi, decide_true, Bool.true_and]; congr 1; omega)

/-- The fields of an encoded extension (05 R93). -/
theorem slotExtOf_encodeExt (e : SlotExt) : slotExtOf (encodeExt e) = e := by
  rcases e with ⟨t, m, a⟩
  simp only [slotExtOf, encodeExt, SlotExt.mk.injEq]
  refine ⟨?_, ?_, ?_⟩ <;>
    (apply BitVec.eq_of_getLsbD_eq; intro i hi
     simp only [BitVec.getLsbD_append, BitVec.getLsbD_extractLsb']
     repeat' split
     all_goals first | omega | (simp only [hi, decide_true, Bool.true_and]; congr 1; omega))

/-- Four little-endian parcels make the word again (04 R64). -/
theorem wordOfParcels_bytes (w : BitVec 64) :
    wordOfParcels (w.extractLsb' 56 8 ++ w.extractLsb' 48 8) (w.extractLsb' 40 8 ++ w.extractLsb' 32 8)
      (w.extractLsb' 24 8 ++ w.extractLsb' 16 8) (w.extractLsb' 8 8 ++ w.extractLsb' 0 8) = w := by
  apply BitVec.eq_of_getLsbD_eq; intro i hi
  simp only [wordOfParcels, BitVec.getLsbD_append, BitVec.getLsbD_extractLsb']
  repeat' split
  all_goals first | omega | (rw [decide_eq_true (by omega), Bool.true_and]; congr 1; omega) | (congr 1; omega)

/-- The words of a byte stream read back, whatever follows them. -/
theorem wordsOf_wordBytes (ws : List (BitVec 64)) (r : List Byte) :
    wordsOf (parcelsOf (ws.flatMap wordBytes ++ r)) = ws ++ wordsOf (parcelsOf r) := by
  induction ws with
  | nil => rfl
  | cons w ws ih => simp [wordBytes, parcelsOf, wordsOf, wordOfParcels_bytes, ih]

/-- What a decoded instruction holds: the opcode, the fields and the argument words that it came from. -/
def DecodedFrom (opc : Nat) (f : Fields) (aw : List ArgWord) (i : Instr) : Prop :=
  i.opcode? = some opc ∧ i.fields? = some f ∧ i.argWords = if takesArgs opc then aw else []

theorem decodeOp_fields_000 (opc : Nat) (h0 : 0 ≤ opc) (h1 : opc < 36) (f : Fields) (aw : List ArgWord) (i : Instr)
    (h : decodeOp opc f aw = some i) : DecodedFrom opc f aw i := by
  interval_cases opc <;> (cases h) <;> (first | exact ⟨rfl, rfl, rfl⟩ | (repeat' split) <;> exact ⟨rfl, rfl, rfl⟩)

theorem decodeOp_fields_024 (opc : Nat) (h0 : 36 ≤ opc) (h1 : opc < 128) (f : Fields) (aw : List ArgWord) (i : Instr)
    (h : decodeOp opc f aw = some i) : DecodedFrom opc f aw i := by
  interval_cases opc <;> (cases h) <;> (first | exact ⟨rfl, rfl, rfl⟩ | (repeat' split) <;> exact ⟨rfl, rfl, rfl⟩)

theorem decodeOp_fields_080 (opc : Nat) (h0 : 128 ≤ opc) (h1 : opc < 208) (f : Fields) (aw : List ArgWord) (i : Instr)
    (h : decodeOp opc f aw = some i) : DecodedFrom opc f aw i := by
  interval_cases opc <;> (cases h) <;> (first | exact ⟨rfl, rfl, rfl⟩ | (repeat' split) <;> exact ⟨rfl, rfl, rfl⟩)

theorem decodeOp_fields_0D0 (opc : Nat) (h0 : 208 ≤ opc) (h1 : opc < 280) (f : Fields) (aw : List ArgWord) (i : Instr)
    (h : decodeOp opc f aw = some i) : DecodedFrom opc f aw i := by
  interval_cases opc <;> (cases h) <;> (first | exact ⟨rfl, rfl, rfl⟩ | (repeat' split) <;> exact ⟨rfl, rfl, rfl⟩)

theorem decodeOp_fields_118 (opc : Nat) (h0 : 280 ≤ opc) (h1 : opc < 352) (f : Fields) (aw : List ArgWord) (i : Instr)
    (h : decodeOp opc f aw = some i) : DecodedFrom opc f aw i := by
  interval_cases opc <;> (cases h) <;> (first | exact ⟨rfl, rfl, rfl⟩ | (repeat' split) <;> exact ⟨rfl, rfl, rfl⟩)

theorem decodeOp_fields_160 (opc : Nat) (h0 : 352 ≤ opc) (h1 : opc < 448) (f : Fields) (aw : List ArgWord) (i : Instr)
    (h : decodeOp opc f aw = some i) : DecodedFrom opc f aw i := by
  interval_cases opc <;> (cases h) <;> (first | exact ⟨rfl, rfl, rfl⟩ | (repeat' split) <;> exact ⟨rfl, rfl, rfl⟩)

/-- Every instruction of a portable opcode holds exactly what it was decoded from (04 R66, R89). -/
theorem decodeOp_fields (opc : Nat) (h1 : opc < 448) (f : Fields) (aw : List ArgWord) (i : Instr)
    (h : decodeOp opc f aw = some i) : DecodedFrom opc f aw i := by
  rcases Nat.lt_or_ge opc 36 with hlt | hge
  · exact decodeOp_fields_000 opc (Nat.zero_le _) hlt f aw i h
  rcases Nat.lt_or_ge opc 128 with hlt | hge
  · exact decodeOp_fields_024 opc (by omega) hlt f aw i h
  rcases Nat.lt_or_ge opc 208 with hlt | hge
  · exact decodeOp_fields_080 opc (by omega) hlt f aw i h
  rcases Nat.lt_or_ge opc 280 with hlt | hge
  · exact decodeOp_fields_0D0 opc (by omega) hlt f aw i h
  rcases Nat.lt_or_ge opc 352 with hlt | hge
  · exact decodeOp_fields_118 opc (by omega) hlt f aw i h
  rcases Nat.lt_or_ge opc 448 with hlt | hge
  · exact decodeOp_fields_160 opc (by omega) hlt f aw i h
  · omega

end Sys2Proof.Laws
end

