-- ==== Sys2Proof/Laws/Memory.lean ====
section
/-!
SUPPORT. The memory list: a read after a write, and the canonical form, which every operation on memory keeps.
-/

namespace Sys2Proof.Machine

open Sys2Proof

@[simp] theorem Mem.wf_nil : Mem.wf [] = true := rfl

/-- The tail of a canonical list is canonical, and its keys lie above the head's. -/
theorem Mem.wf_cons {k : Nat} {b : Byte} {r : List Host.Cell} :
    Mem.wf ((k, b) :: r) = true ↔ b ≠ 0#8 ∧ (∀ c ∈ r.head?, k < c.1) ∧ Mem.wf r = true := by
  cases r with
  | nil => simp [Mem.wf]
  | cons c r => simp [Mem.wf, and_assoc]

/-- A key below every listed one reads 0. -/
theorem Mem.read_below {m : List Host.Cell} {k : Nat} (h : ∀ c ∈ m.head?, k < c.1) : Mem.read m k = 0#8 := by
  cases m with
  | nil => rfl
  | cons c r =>
    have hk : k < c.1 := h c (by simp)
    simp [Mem.read, hk, Nat.ne_of_gt hk]

/-- What stands at the head after a write. -/
theorem Mem.write_head {m : List Host.Cell} {k j : Nat} {b : Byte} (hm : ∀ c ∈ m.head?, j < c.1) (hw : Mem.wf m = true)
    (hj : j < k) : ∀ c ∈ (Mem.write m k b).head?, j < c.1 := by
  cases m with
  | nil =>
    intro c hc
    by_cases hb : b = 0#8
    · simp [Mem.write, hb] at hc
    · simp [Mem.write, hb] at hc
      subst hc; exact hj
  | cons e r =>
    obtain ⟨k', b'⟩ := e
    have he : j < k' := hm (k', b') (by simp)
    obtain ⟨-, hr, -⟩ := Mem.wf_cons.mp hw
    intro c hc
    by_cases h1 : k' = k
    · by_cases hb : b = 0#8
      · simp only [Mem.write, h1, hb, if_true] at hc
        exact Nat.lt_trans he (hr c hc)
      · simp [Mem.write, h1, hb] at hc
        subst hc; exact hj
    · by_cases h2 : k < k'
      · by_cases hb : b = 0#8
        · simp [Mem.write, h1, h2, hb] at hc
          subst hc; exact he
        · simp [Mem.write, h1, h2, hb] at hc
          subst hc; exact hj
      · simp [Mem.write, h1, h2] at hc
        subst hc; exact he

/-- Writing a byte keeps the canonical form. -/
theorem Mem.wf_write {m : List Host.Cell} (h : Mem.wf m = true) (k : Nat) (b : Byte) : Mem.wf (Mem.write m k b) = true := by
  induction m with
  | nil => by_cases hb : b = 0#8 <;> simp [Mem.write, Mem.wf, hb]
  | cons e r ih =>
    obtain ⟨k', b'⟩ := e
    obtain ⟨hb', hr, hw⟩ := Mem.wf_cons.mp h
    by_cases h1 : k' = k
    · by_cases hb : b = 0#8
      · simpa [Mem.write, h1, hb] using hw
      · subst h1
        simp only [Mem.write, hb, if_true, if_false]
        exact Mem.wf_cons.mpr ⟨hb, hr, hw⟩
    · by_cases h2 : k < k'
      · by_cases hb : b = 0#8
        · simpa [Mem.write, h1, h2, hb] using h
        · simp only [Mem.write, h1, h2, hb, if_true, if_false]
          exact Mem.wf_cons.mpr ⟨hb, by simpa using h2, h⟩
      · simp only [Mem.write, h1, h2, if_false]
        exact Mem.wf_cons.mpr ⟨hb', Mem.write_head hr hw (by omega), ih hw⟩

/-- A read after a write gives the byte at its key and leaves every other key alone. -/
theorem Mem.read_write {m : List Host.Cell} (h : Mem.wf m = true) (k : Nat) (b : Byte) (j : Nat) :
    Mem.read (Mem.write m k b) j = if j = k then b else Mem.read m j := by
  induction m with
  | nil =>
    by_cases hb : b = 0#8
    · simp [Mem.write, Mem.read, hb]
    · by_cases hj : j = k
      · simp [Mem.write, Mem.read, hb, hj]
      · simp [Mem.write, Mem.read, hb, hj, Ne.symm hj]
  | cons e r ih =>
    obtain ⟨k', b'⟩ := e
    obtain ⟨hb', hr, hw⟩ := Mem.wf_cons.mp h
    by_cases h1 : k' = k
    · subst h1
      by_cases hb : b = 0#8
      · subst hb
        simp only [Mem.write, if_true]
        by_cases hj : j = k'
        · subst hj; simp [Mem.read_below hr]
        · by_cases hlt : j < k'
          · have hb0 : Mem.read r j = 0#8 := Mem.read_below fun c hc => Nat.lt_trans hlt (hr c hc)
            simp [Mem.read, hj, Ne.symm hj, hlt, hb0]
          · simp [Mem.read, hj, Ne.symm hj, hlt]
      · by_cases hj : j = k'
        · simp [Mem.write, Mem.read, hb, hj]
        · simp [Mem.write, Mem.read, hb, hj, Ne.symm hj]
    · by_cases h2 : k < k'
      · by_cases hb : b = 0#8
        · by_cases hj : j = k
          · subst hj; simp [Mem.write, Mem.read, h1, h2, hb]
          · simp [Mem.write, h1, h2, hb, hj]
        · by_cases hj : j = k
          · subst hj; simp [Mem.write, Mem.read, h1, h2, hb]
          · simp only [Mem.write, h1, h2, hb, if_true, if_false, hj]
            by_cases hlt : j < k
            · have : j < k' := Nat.lt_trans hlt h2
              simp [Mem.read, Ne.symm hj, hlt, this, Nat.ne_of_gt this]
            · simp [Mem.read, Ne.symm hj, hlt]
      · simp only [Mem.write, h1, h2, if_false]
        by_cases hj : j = k'
        · subst hj; simp [Mem.read, h1]
        · by_cases hlt : j < k'
          · have hjk : j ≠ k := by omega
            simp [Mem.read, Ne.symm hj, hlt, hjk]
          · simp only [Mem.read, Ne.symm hj, hlt, if_false]
            exact ih hw

/-- Writing bytes keeps the canonical form. -/
theorem Mem.wf_writeN {m : List Host.Cell} (h : Mem.wf m = true) (k : Nat) (bs : List Byte) :
    Mem.wf (Mem.writeN m k bs) = true := by
  induction bs generalizing m k with
  | nil => exact h
  | cons b r ih => exact ih (Mem.wf_write h k b) (k + 1)

/-- A read after a write of bytes. -/
theorem Mem.read_writeN {m : List Host.Cell} (h : Mem.wf m = true) (k : Nat) (bs : List Byte) (j : Nat) :
    Mem.read (Mem.writeN m k bs) j = if k ≤ j ∧ j < k + bs.length then bs.getD (j - k) 0#8 else Mem.read m j := by
  induction bs generalizing m k with
  | nil =>
    have h0 : ¬(k ≤ j ∧ j < k + ([] : List Byte).length) := fun h => by rw [List.length_nil] at h; omega
    rw [if_neg h0]; rfl
  | cons b r ih =>
    rw [Mem.writeN, ih (Mem.wf_write h k b), Mem.read_write h, List.length_cons]
    by_cases hj : j = k
    · have h1 : ¬(k + 1 ≤ j ∧ j < k + 1 + r.length) := by omega
      have h2 : k ≤ j ∧ j < k + (r.length + 1) := by omega
      have h3 : j - k = 0 := by omega
      rw [if_neg h1, if_pos hj, if_pos h2, h3, List.getD_cons_zero]
    · by_cases h1 : k + 1 ≤ j ∧ j < k + 1 + r.length
      · have h2 : k ≤ j ∧ j < k + (r.length + 1) := by omega
        have h3 : j - k = (j - (k + 1)) + 1 := by omega
        rw [if_pos h1, if_pos h2, h3, List.getD_cons_succ]
      · have h2 : ¬(k ≤ j ∧ j < k + (r.length + 1)) := by omega
        rw [if_neg h1, if_neg hj, if_neg h2]

/-- Taking entries out keeps the canonical form. -/
theorem Mem.wf_filter {m : List Host.Cell} (h : Mem.wf m = true) (p : Host.Cell → Bool) : Mem.wf (m.filter p) = true := by
  have lower : ∀ (r : List Host.Cell), Mem.wf r = true → ∀ k : Nat, (∀ c ∈ r.head?, k < c.1) → ∀ c ∈ r, k < c.1 := by
    intro r
    induction r with
    | nil => simp
    | cons e r ih =>
      intro hw k hk c hc
      have he : k < e.1 := hk e (by simp)
      obtain ⟨-, hr, hw'⟩ := Mem.wf_cons.mp hw
      rcases List.mem_cons.mp hc with rfl | hc
      · exact he
      · exact ih hw' k (fun d hd => Nat.lt_trans he (hr d hd)) c hc
  induction m with
  | nil => rfl
  | cons e r ih =>
    obtain ⟨k', b'⟩ := e
    obtain ⟨hb', hr, hw⟩ := Mem.wf_cons.mp h
    by_cases hp : p (k', b')
    · rw [List.filter_cons_of_pos hp]
      refine Mem.wf_cons.mpr ⟨hb', ?_, ih hw⟩
      intro c hc
      exact lower r hw k' hr c (List.mem_filter.mp (List.mem_of_mem_head? hc)).1
    · rw [List.filter_cons_of_neg hp]
      exact ih hw

/-- Every write of memory keeps the canonical form. -/
theorem State.writeKey_wf {s : State} (h : Mem.wf s.mem = true) (k : Nat) (bs : List Byte) :
    Mem.wf (s.writeKey k bs).mem = true := Mem.wf_writeN h k bs

end Sys2Proof.Machine
end

