-- ==== Sys2Proof/Laws/State.lean ====
section
/-!
SUPPORT. Each named update of the state, field by field: the field that it changes, and every other field, which it leaves alone.
-/

namespace Sys2Proof.Machine

open Sys2Proof

/-! ## setCtx -/

@[simp] theorem State.setCtx_tick (s : State) (c : Nat) (x : Context) : (s.setCtx c x).tick = s.tick := rfl
@[simp] theorem State.setCtx_fresh (s : State) (c : Nat) (x : Context) : (s.setCtx c x).fresh = s.fresh := rfl
@[simp] theorem State.setCtx_agenda (s : State) (c : Nat) (x : Context) : (s.setCtx c x).agenda = s.agenda := rfl
@[simp] theorem State.setCtx_cur (s : State) (c : Nat) (x : Context) : (s.setCtx c x).cur = s.cur := rfl
@[simp] theorem State.setCtx_mem (s : State) (c : Nat) (x : Context) : (s.setCtx c x).mem = s.mem := rfl
@[simp] theorem State.setCtx_poison (s : State) (c : Nat) (x : Context) : (s.setCtx c x).poison = s.poison := rfl
@[simp] theorem State.setCtx_waits (s : State) (c : Nat) (x : Context) : (s.setCtx c x).waits = s.waits := rfl
@[simp] theorem State.setCtx_started (s : State) (c : Nat) (x : Context) : (s.setCtx c x).started = s.started := rfl
@[simp] theorem State.setCtx_ctxs (s : State) (c : Nat) (x : Context) : (s.setCtx c x).ctxs = s.ctxs.put c x := rfl
@[simp] theorem State.setCtx_tlb (s : State) (c : Nat) (x : Context) : (s.setCtx c x).tlb = s.tlb := rfl
@[simp] theorem State.setCtx_walks (s : State) (c : Nat) (x : Context) : (s.setCtx c x).walks = s.walks := rfl
@[simp] theorem State.setCtx_binds (s : State) (c : Nat) (x : Context) : (s.setCtx c x).binds = s.binds := rfl
@[simp] theorem State.setCtx_spareFrames (s : State) (c : Nat) (x : Context) : (s.setCtx c x).spareFrames = s.spareFrames := rfl
@[simp] theorem State.setCtx_launches (s : State) (c : Nat) (x : Context) : (s.setCtx c x).launches = s.launches := rfl
@[simp] theorem State.setCtx_nextLid (s : State) (c : Nat) (x : Context) : (s.setCtx c x).nextLid = s.nextLid := rfl
@[simp] theorem State.setCtx_nextLseq (s : State) (c : Nat) (x : Context) : (s.setCtx c x).nextLseq = s.nextLseq := rfl
@[simp] theorem State.setCtx_quiesced (s : State) (c : Nat) (x : Context) : (s.setCtx c x).quiesced = s.quiesced := rfl
@[simp] theorem State.setCtx_tiles (s : State) (c : Nat) (x : Context) : (s.setCtx c x).tiles = s.tiles := rfl
@[simp] theorem State.setCtx_clusters (s : State) (c : Nat) (x : Context) : (s.setCtx c x).clusters = s.clusters := rfl
@[simp] theorem State.setCtx_dies (s : State) (c : Nat) (x : Context) : (s.setCtx c x).dies = s.dies := rfl
@[simp] theorem State.setCtx_links (s : State) (c : Nat) (x : Context) : (s.setCtx c x).links = s.links := rfl
@[simp] theorem State.setCtx_rings (s : State) (c : Nat) (x : Context) : (s.setCtx c x).rings = s.rings := rfl
@[simp] theorem State.setCtx_store (s : State) (c : Nat) (x : Context) : (s.setCtx c x).store = s.store := rfl
@[simp] theorem State.setCtx_nextId (s : State) (c : Nat) (x : Context) : (s.setCtx c x).nextId = s.nextId := rfl
@[simp] theorem State.setCtx_wdogs (s : State) (c : Nat) (x : Context) : (s.setCtx c x).wdogs = s.wdogs := rfl
@[simp] theorem State.setCtx_refused (s : State) (c : Nat) (x : Context) : (s.setCtx c x).refused = s.refused := rfl
@[simp] theorem State.setCtx_l3 (s : State) (c : Nat) (x : Context) : (s.setCtx c x).l3 = s.l3 := rfl
@[simp] theorem State.setCtx_capQ (s : State) (c : Nat) (x : Context) : (s.setCtx c x).capQ = s.capQ := rfl
@[simp] theorem State.setCtx_capPrev (s : State) (c : Nat) (x : Context) : (s.setCtx c x).capPrev = s.capPrev := rfl
@[simp] theorem State.setCtx_floors (s : State) (c : Nat) (x : Context) : (s.setCtx c x).floors = s.floors := rfl
@[simp] theorem State.setCtx_pbase (s : State) (c : Nat) (x : Context) : (s.setCtx c x).pbase = s.pbase := rfl
@[simp] theorem State.setCtx_pidle (s : State) (c : Nat) (x : Context) : (s.setCtx c x).pidle = s.pidle := rfl
@[simp] theorem State.setCtx_energy (s : State) (c : Nat) (x : Context) : (s.setCtx c x).energy = s.energy := rfl
@[simp] theorem State.setCtx_lastP (s : State) (c : Nat) (x : Context) : (s.setCtx c x).lastP = s.lastP := rfl
@[simp] theorem State.setCtx_interval (s : State) (c : Nat) (x : Context) : (s.setCtx c x).interval = s.interval := rfl
@[simp] theorem State.setCtx_bar0 (s : State) (c : Nat) (x : Context) : (s.setCtx c x).bar0 = s.bar0 := rfl
@[simp] theorem State.setCtx_queues (s : State) (c : Nat) (x : Context) : (s.setCtx c x).queues = s.queues := rfl
@[simp] theorem State.setCtx_rr (s : State) (c : Nat) (x : Context) : (s.setCtx c x).rr = s.rr := rfl
@[simp] theorem State.setCtx_evDropped (s : State) (c : Nat) (x : Context) : (s.setCtx c x).evDropped = s.evDropped := rfl
@[simp] theorem State.setCtx_msix (s : State) (c : Nat) (x : Context) : (s.setCtx c x).msix = s.msix := rfl
@[simp] theorem State.setCtx_hostOut (s : State) (c : Nat) (x : Context) : (s.setCtx c x).hostOut = s.hostOut := rfl
@[simp] theorem State.setCtx_mgmtOut (s : State) (c : Nat) (x : Context) : (s.setCtx c x).mgmtOut = s.mgmtOut := rfl
@[simp] theorem State.setCtx_fabOut (s : State) (c : Nat) (x : Context) : (s.setCtx c x).fabOut = s.fabOut := rfl
@[simp] theorem State.setCtx_fabFail (s : State) (c : Nat) (x : Context) : (s.setCtx c x).fabFail = s.fabFail := rfl
@[simp] theorem State.setCtx_nextTag (s : State) (c : Nat) (x : Context) : (s.setCtx c x).nextTag = s.nextTag := rfl
@[simp] theorem State.setCtx_discarded (s : State) (c : Nat) (x : Context) : (s.setCtx c x).discarded = s.discarded := rfl
@[simp] theorem State.setCtx_failed (s : State) (c : Nat) (x : Context) : (s.setCtx c x).failed = s.failed := rfl
@[simp] theorem State.setCtx_cxl (s : State) (c : Nat) (x : Context) : (s.setCtx c x).cxl = s.cxl := rfl
@[simp] theorem State.setCtx_fw (s : State) (c : Nat) (x : Context) : (s.setCtx c x).fw = s.fw := rfl
@[simp] theorem State.setCtx_retired (s : State) (c : Nat) (x : Context) : (s.setCtx c x).retired = s.retired := rfl
@[simp] theorem State.setCtx_clearRetired (s : State) (c : Nat) (x : Context) : (s.setCtx c x).clearRetired = s.clearRetired := rfl
@[simp] theorem State.setCtx_rowErr (s : State) (c : Nat) (x : Context) : (s.setCtx c x).rowErr = s.rowErr := rfl
@[simp] theorem State.setCtx_spared (s : State) (c : Nat) (x : Context) : (s.setCtx c x).spared = s.spared := rfl
@[simp] theorem State.setCtx_unspared (s : State) (c : Nat) (x : Context) : (s.setCtx c x).unspared = s.unspared := rfl
@[simp] theorem State.setCtx_trained (s : State) (c : Nat) (x : Context) : (s.setCtx c x).trained = s.trained := rfl

/-! ## setLaunch -/

@[simp] theorem State.setLaunch_tick (s : State) (l : Nat) (x : Launch) : (s.setLaunch l x).tick = s.tick := rfl
@[simp] theorem State.setLaunch_fresh (s : State) (l : Nat) (x : Launch) : (s.setLaunch l x).fresh = s.fresh := rfl
@[simp] theorem State.setLaunch_agenda (s : State) (l : Nat) (x : Launch) : (s.setLaunch l x).agenda = s.agenda := rfl
@[simp] theorem State.setLaunch_cur (s : State) (l : Nat) (x : Launch) : (s.setLaunch l x).cur = s.cur := rfl
@[simp] theorem State.setLaunch_mem (s : State) (l : Nat) (x : Launch) : (s.setLaunch l x).mem = s.mem := rfl
@[simp] theorem State.setLaunch_poison (s : State) (l : Nat) (x : Launch) : (s.setLaunch l x).poison = s.poison := rfl
@[simp] theorem State.setLaunch_waits (s : State) (l : Nat) (x : Launch) : (s.setLaunch l x).waits = s.waits := rfl
@[simp] theorem State.setLaunch_started (s : State) (l : Nat) (x : Launch) : (s.setLaunch l x).started = s.started := rfl
@[simp] theorem State.setLaunch_ctxs (s : State) (l : Nat) (x : Launch) : (s.setLaunch l x).ctxs = s.ctxs := rfl
@[simp] theorem State.setLaunch_tlb (s : State) (l : Nat) (x : Launch) : (s.setLaunch l x).tlb = s.tlb := rfl
@[simp] theorem State.setLaunch_walks (s : State) (l : Nat) (x : Launch) : (s.setLaunch l x).walks = s.walks := rfl
@[simp] theorem State.setLaunch_binds (s : State) (l : Nat) (x : Launch) : (s.setLaunch l x).binds = s.binds := rfl
@[simp] theorem State.setLaunch_spareFrames (s : State) (l : Nat) (x : Launch) : (s.setLaunch l x).spareFrames = s.spareFrames := rfl
@[simp] theorem State.setLaunch_launches (s : State) (l : Nat) (x : Launch) : (s.setLaunch l x).launches = s.launches.put l x := rfl
@[simp] theorem State.setLaunch_nextLid (s : State) (l : Nat) (x : Launch) : (s.setLaunch l x).nextLid = s.nextLid := rfl
@[simp] theorem State.setLaunch_nextLseq (s : State) (l : Nat) (x : Launch) : (s.setLaunch l x).nextLseq = s.nextLseq := rfl
@[simp] theorem State.setLaunch_quiesced (s : State) (l : Nat) (x : Launch) : (s.setLaunch l x).quiesced = s.quiesced := rfl
@[simp] theorem State.setLaunch_tiles (s : State) (l : Nat) (x : Launch) : (s.setLaunch l x).tiles = s.tiles := rfl
@[simp] theorem State.setLaunch_clusters (s : State) (l : Nat) (x : Launch) : (s.setLaunch l x).clusters = s.clusters := rfl
@[simp] theorem State.setLaunch_dies (s : State) (l : Nat) (x : Launch) : (s.setLaunch l x).dies = s.dies := rfl
@[simp] theorem State.setLaunch_links (s : State) (l : Nat) (x : Launch) : (s.setLaunch l x).links = s.links := rfl
@[simp] theorem State.setLaunch_rings (s : State) (l : Nat) (x : Launch) : (s.setLaunch l x).rings = s.rings := rfl
@[simp] theorem State.setLaunch_store (s : State) (l : Nat) (x : Launch) : (s.setLaunch l x).store = s.store := rfl
@[simp] theorem State.setLaunch_nextId (s : State) (l : Nat) (x : Launch) : (s.setLaunch l x).nextId = s.nextId := rfl
@[simp] theorem State.setLaunch_wdogs (s : State) (l : Nat) (x : Launch) : (s.setLaunch l x).wdogs = s.wdogs := rfl
@[simp] theorem State.setLaunch_refused (s : State) (l : Nat) (x : Launch) : (s.setLaunch l x).refused = s.refused := rfl
@[simp] theorem State.setLaunch_l3 (s : State) (l : Nat) (x : Launch) : (s.setLaunch l x).l3 = s.l3 := rfl
@[simp] theorem State.setLaunch_capQ (s : State) (l : Nat) (x : Launch) : (s.setLaunch l x).capQ = s.capQ := rfl
@[simp] theorem State.setLaunch_capPrev (s : State) (l : Nat) (x : Launch) : (s.setLaunch l x).capPrev = s.capPrev := rfl
@[simp] theorem State.setLaunch_floors (s : State) (l : Nat) (x : Launch) : (s.setLaunch l x).floors = s.floors := rfl
@[simp] theorem State.setLaunch_pbase (s : State) (l : Nat) (x : Launch) : (s.setLaunch l x).pbase = s.pbase := rfl
@[simp] theorem State.setLaunch_pidle (s : State) (l : Nat) (x : Launch) : (s.setLaunch l x).pidle = s.pidle := rfl
@[simp] theorem State.setLaunch_energy (s : State) (l : Nat) (x : Launch) : (s.setLaunch l x).energy = s.energy := rfl
@[simp] theorem State.setLaunch_lastP (s : State) (l : Nat) (x : Launch) : (s.setLaunch l x).lastP = s.lastP := rfl
@[simp] theorem State.setLaunch_interval (s : State) (l : Nat) (x : Launch) : (s.setLaunch l x).interval = s.interval := rfl
@[simp] theorem State.setLaunch_bar0 (s : State) (l : Nat) (x : Launch) : (s.setLaunch l x).bar0 = s.bar0 := rfl
@[simp] theorem State.setLaunch_queues (s : State) (l : Nat) (x : Launch) : (s.setLaunch l x).queues = s.queues := rfl
@[simp] theorem State.setLaunch_rr (s : State) (l : Nat) (x : Launch) : (s.setLaunch l x).rr = s.rr := rfl
@[simp] theorem State.setLaunch_evDropped (s : State) (l : Nat) (x : Launch) : (s.setLaunch l x).evDropped = s.evDropped := rfl
@[simp] theorem State.setLaunch_msix (s : State) (l : Nat) (x : Launch) : (s.setLaunch l x).msix = s.msix := rfl
@[simp] theorem State.setLaunch_hostOut (s : State) (l : Nat) (x : Launch) : (s.setLaunch l x).hostOut = s.hostOut := rfl
@[simp] theorem State.setLaunch_mgmtOut (s : State) (l : Nat) (x : Launch) : (s.setLaunch l x).mgmtOut = s.mgmtOut := rfl
@[simp] theorem State.setLaunch_fabOut (s : State) (l : Nat) (x : Launch) : (s.setLaunch l x).fabOut = s.fabOut := rfl
@[simp] theorem State.setLaunch_fabFail (s : State) (l : Nat) (x : Launch) : (s.setLaunch l x).fabFail = s.fabFail := rfl
@[simp] theorem State.setLaunch_nextTag (s : State) (l : Nat) (x : Launch) : (s.setLaunch l x).nextTag = s.nextTag := rfl
@[simp] theorem State.setLaunch_discarded (s : State) (l : Nat) (x : Launch) : (s.setLaunch l x).discarded = s.discarded := rfl
@[simp] theorem State.setLaunch_failed (s : State) (l : Nat) (x : Launch) : (s.setLaunch l x).failed = s.failed := rfl
@[simp] theorem State.setLaunch_cxl (s : State) (l : Nat) (x : Launch) : (s.setLaunch l x).cxl = s.cxl := rfl
@[simp] theorem State.setLaunch_fw (s : State) (l : Nat) (x : Launch) : (s.setLaunch l x).fw = s.fw := rfl
@[simp] theorem State.setLaunch_retired (s : State) (l : Nat) (x : Launch) : (s.setLaunch l x).retired = s.retired := rfl
@[simp] theorem State.setLaunch_clearRetired (s : State) (l : Nat) (x : Launch) : (s.setLaunch l x).clearRetired = s.clearRetired := rfl
@[simp] theorem State.setLaunch_rowErr (s : State) (l : Nat) (x : Launch) : (s.setLaunch l x).rowErr = s.rowErr := rfl
@[simp] theorem State.setLaunch_spared (s : State) (l : Nat) (x : Launch) : (s.setLaunch l x).spared = s.spared := rfl
@[simp] theorem State.setLaunch_unspared (s : State) (l : Nat) (x : Launch) : (s.setLaunch l x).unspared = s.unspared := rfl
@[simp] theorem State.setLaunch_trained (s : State) (l : Nat) (x : Launch) : (s.setLaunch l x).trained = s.trained := rfl

/-! ## setTile -/

@[simp] theorem State.setTile_tick (s : State) (t : TileRef) (x : Tile) : (s.setTile t x).tick = s.tick := rfl
@[simp] theorem State.setTile_fresh (s : State) (t : TileRef) (x : Tile) : (s.setTile t x).fresh = s.fresh := rfl
@[simp] theorem State.setTile_agenda (s : State) (t : TileRef) (x : Tile) : (s.setTile t x).agenda = s.agenda := rfl
@[simp] theorem State.setTile_cur (s : State) (t : TileRef) (x : Tile) : (s.setTile t x).cur = s.cur := rfl
@[simp] theorem State.setTile_mem (s : State) (t : TileRef) (x : Tile) : (s.setTile t x).mem = s.mem := rfl
@[simp] theorem State.setTile_poison (s : State) (t : TileRef) (x : Tile) : (s.setTile t x).poison = s.poison := rfl
@[simp] theorem State.setTile_waits (s : State) (t : TileRef) (x : Tile) : (s.setTile t x).waits = s.waits := rfl
@[simp] theorem State.setTile_started (s : State) (t : TileRef) (x : Tile) : (s.setTile t x).started = s.started := rfl
@[simp] theorem State.setTile_ctxs (s : State) (t : TileRef) (x : Tile) : (s.setTile t x).ctxs = s.ctxs := rfl
@[simp] theorem State.setTile_tlb (s : State) (t : TileRef) (x : Tile) : (s.setTile t x).tlb = s.tlb := rfl
@[simp] theorem State.setTile_walks (s : State) (t : TileRef) (x : Tile) : (s.setTile t x).walks = s.walks := rfl
@[simp] theorem State.setTile_binds (s : State) (t : TileRef) (x : Tile) : (s.setTile t x).binds = s.binds := rfl
@[simp] theorem State.setTile_spareFrames (s : State) (t : TileRef) (x : Tile) : (s.setTile t x).spareFrames = s.spareFrames := rfl
@[simp] theorem State.setTile_launches (s : State) (t : TileRef) (x : Tile) : (s.setTile t x).launches = s.launches := rfl
@[simp] theorem State.setTile_nextLid (s : State) (t : TileRef) (x : Tile) : (s.setTile t x).nextLid = s.nextLid := rfl
@[simp] theorem State.setTile_nextLseq (s : State) (t : TileRef) (x : Tile) : (s.setTile t x).nextLseq = s.nextLseq := rfl
@[simp] theorem State.setTile_quiesced (s : State) (t : TileRef) (x : Tile) : (s.setTile t x).quiesced = s.quiesced := rfl
@[simp] theorem State.setTile_tiles (s : State) (t : TileRef) (x : Tile) : (s.setTile t x).tiles = s.tiles.put (128 * t.die + t.tile) x := rfl
@[simp] theorem State.setTile_clusters (s : State) (t : TileRef) (x : Tile) : (s.setTile t x).clusters = s.clusters := rfl
@[simp] theorem State.setTile_dies (s : State) (t : TileRef) (x : Tile) : (s.setTile t x).dies = s.dies := rfl
@[simp] theorem State.setTile_links (s : State) (t : TileRef) (x : Tile) : (s.setTile t x).links = s.links := rfl
@[simp] theorem State.setTile_rings (s : State) (t : TileRef) (x : Tile) : (s.setTile t x).rings = s.rings := rfl
@[simp] theorem State.setTile_store (s : State) (t : TileRef) (x : Tile) : (s.setTile t x).store = s.store := rfl
@[simp] theorem State.setTile_nextId (s : State) (t : TileRef) (x : Tile) : (s.setTile t x).nextId = s.nextId := rfl
@[simp] theorem State.setTile_wdogs (s : State) (t : TileRef) (x : Tile) : (s.setTile t x).wdogs = s.wdogs := rfl
@[simp] theorem State.setTile_refused (s : State) (t : TileRef) (x : Tile) : (s.setTile t x).refused = s.refused := rfl
@[simp] theorem State.setTile_l3 (s : State) (t : TileRef) (x : Tile) : (s.setTile t x).l3 = s.l3 := rfl
@[simp] theorem State.setTile_capQ (s : State) (t : TileRef) (x : Tile) : (s.setTile t x).capQ = s.capQ := rfl
@[simp] theorem State.setTile_capPrev (s : State) (t : TileRef) (x : Tile) : (s.setTile t x).capPrev = s.capPrev := rfl
@[simp] theorem State.setTile_floors (s : State) (t : TileRef) (x : Tile) : (s.setTile t x).floors = s.floors := rfl
@[simp] theorem State.setTile_pbase (s : State) (t : TileRef) (x : Tile) : (s.setTile t x).pbase = s.pbase := rfl
@[simp] theorem State.setTile_pidle (s : State) (t : TileRef) (x : Tile) : (s.setTile t x).pidle = s.pidle := rfl
@[simp] theorem State.setTile_energy (s : State) (t : TileRef) (x : Tile) : (s.setTile t x).energy = s.energy := rfl
@[simp] theorem State.setTile_lastP (s : State) (t : TileRef) (x : Tile) : (s.setTile t x).lastP = s.lastP := rfl
@[simp] theorem State.setTile_interval (s : State) (t : TileRef) (x : Tile) : (s.setTile t x).interval = s.interval := rfl
@[simp] theorem State.setTile_bar0 (s : State) (t : TileRef) (x : Tile) : (s.setTile t x).bar0 = s.bar0 := rfl
@[simp] theorem State.setTile_queues (s : State) (t : TileRef) (x : Tile) : (s.setTile t x).queues = s.queues := rfl
@[simp] theorem State.setTile_rr (s : State) (t : TileRef) (x : Tile) : (s.setTile t x).rr = s.rr := rfl
@[simp] theorem State.setTile_evDropped (s : State) (t : TileRef) (x : Tile) : (s.setTile t x).evDropped = s.evDropped := rfl
@[simp] theorem State.setTile_msix (s : State) (t : TileRef) (x : Tile) : (s.setTile t x).msix = s.msix := rfl
@[simp] theorem State.setTile_hostOut (s : State) (t : TileRef) (x : Tile) : (s.setTile t x).hostOut = s.hostOut := rfl
@[simp] theorem State.setTile_mgmtOut (s : State) (t : TileRef) (x : Tile) : (s.setTile t x).mgmtOut = s.mgmtOut := rfl
@[simp] theorem State.setTile_fabOut (s : State) (t : TileRef) (x : Tile) : (s.setTile t x).fabOut = s.fabOut := rfl
@[simp] theorem State.setTile_fabFail (s : State) (t : TileRef) (x : Tile) : (s.setTile t x).fabFail = s.fabFail := rfl
@[simp] theorem State.setTile_nextTag (s : State) (t : TileRef) (x : Tile) : (s.setTile t x).nextTag = s.nextTag := rfl
@[simp] theorem State.setTile_discarded (s : State) (t : TileRef) (x : Tile) : (s.setTile t x).discarded = s.discarded := rfl
@[simp] theorem State.setTile_failed (s : State) (t : TileRef) (x : Tile) : (s.setTile t x).failed = s.failed := rfl
@[simp] theorem State.setTile_cxl (s : State) (t : TileRef) (x : Tile) : (s.setTile t x).cxl = s.cxl := rfl
@[simp] theorem State.setTile_fw (s : State) (t : TileRef) (x : Tile) : (s.setTile t x).fw = s.fw := rfl
@[simp] theorem State.setTile_retired (s : State) (t : TileRef) (x : Tile) : (s.setTile t x).retired = s.retired := rfl
@[simp] theorem State.setTile_clearRetired (s : State) (t : TileRef) (x : Tile) : (s.setTile t x).clearRetired = s.clearRetired := rfl
@[simp] theorem State.setTile_rowErr (s : State) (t : TileRef) (x : Tile) : (s.setTile t x).rowErr = s.rowErr := rfl
@[simp] theorem State.setTile_spared (s : State) (t : TileRef) (x : Tile) : (s.setTile t x).spared = s.spared := rfl
@[simp] theorem State.setTile_unspared (s : State) (t : TileRef) (x : Tile) : (s.setTile t x).unspared = s.unspared := rfl
@[simp] theorem State.setTile_trained (s : State) (t : TileRef) (x : Tile) : (s.setTile t x).trained = s.trained := rfl

/-! ## setCluster -/

@[simp] theorem State.setCluster_tick (s : State) (c : ClusterRef) (x : Cluster) : (s.setCluster c x).tick = s.tick := rfl
@[simp] theorem State.setCluster_fresh (s : State) (c : ClusterRef) (x : Cluster) : (s.setCluster c x).fresh = s.fresh := rfl
@[simp] theorem State.setCluster_agenda (s : State) (c : ClusterRef) (x : Cluster) : (s.setCluster c x).agenda = s.agenda := rfl
@[simp] theorem State.setCluster_cur (s : State) (c : ClusterRef) (x : Cluster) : (s.setCluster c x).cur = s.cur := rfl
@[simp] theorem State.setCluster_mem (s : State) (c : ClusterRef) (x : Cluster) : (s.setCluster c x).mem = s.mem := rfl
@[simp] theorem State.setCluster_poison (s : State) (c : ClusterRef) (x : Cluster) : (s.setCluster c x).poison = s.poison := rfl
@[simp] theorem State.setCluster_waits (s : State) (c : ClusterRef) (x : Cluster) : (s.setCluster c x).waits = s.waits := rfl
@[simp] theorem State.setCluster_started (s : State) (c : ClusterRef) (x : Cluster) : (s.setCluster c x).started = s.started := rfl
@[simp] theorem State.setCluster_ctxs (s : State) (c : ClusterRef) (x : Cluster) : (s.setCluster c x).ctxs = s.ctxs := rfl
@[simp] theorem State.setCluster_tlb (s : State) (c : ClusterRef) (x : Cluster) : (s.setCluster c x).tlb = s.tlb := rfl
@[simp] theorem State.setCluster_walks (s : State) (c : ClusterRef) (x : Cluster) : (s.setCluster c x).walks = s.walks := rfl
@[simp] theorem State.setCluster_binds (s : State) (c : ClusterRef) (x : Cluster) : (s.setCluster c x).binds = s.binds := rfl
@[simp] theorem State.setCluster_spareFrames (s : State) (c : ClusterRef) (x : Cluster) : (s.setCluster c x).spareFrames = s.spareFrames := rfl
@[simp] theorem State.setCluster_launches (s : State) (c : ClusterRef) (x : Cluster) : (s.setCluster c x).launches = s.launches := rfl
@[simp] theorem State.setCluster_nextLid (s : State) (c : ClusterRef) (x : Cluster) : (s.setCluster c x).nextLid = s.nextLid := rfl
@[simp] theorem State.setCluster_nextLseq (s : State) (c : ClusterRef) (x : Cluster) : (s.setCluster c x).nextLseq = s.nextLseq := rfl
@[simp] theorem State.setCluster_quiesced (s : State) (c : ClusterRef) (x : Cluster) : (s.setCluster c x).quiesced = s.quiesced := rfl
@[simp] theorem State.setCluster_tiles (s : State) (c : ClusterRef) (x : Cluster) : (s.setCluster c x).tiles = s.tiles := rfl
@[simp] theorem State.setCluster_clusters (s : State) (c : ClusterRef) (x : Cluster) : (s.setCluster c x).clusters = s.clusters.put (32 * c.die + c.cl) x := rfl
@[simp] theorem State.setCluster_dies (s : State) (c : ClusterRef) (x : Cluster) : (s.setCluster c x).dies = s.dies := rfl
@[simp] theorem State.setCluster_links (s : State) (c : ClusterRef) (x : Cluster) : (s.setCluster c x).links = s.links := rfl
@[simp] theorem State.setCluster_rings (s : State) (c : ClusterRef) (x : Cluster) : (s.setCluster c x).rings = s.rings := rfl
@[simp] theorem State.setCluster_store (s : State) (c : ClusterRef) (x : Cluster) : (s.setCluster c x).store = s.store := rfl
@[simp] theorem State.setCluster_nextId (s : State) (c : ClusterRef) (x : Cluster) : (s.setCluster c x).nextId = s.nextId := rfl
@[simp] theorem State.setCluster_wdogs (s : State) (c : ClusterRef) (x : Cluster) : (s.setCluster c x).wdogs = s.wdogs := rfl
@[simp] theorem State.setCluster_refused (s : State) (c : ClusterRef) (x : Cluster) : (s.setCluster c x).refused = s.refused := rfl
@[simp] theorem State.setCluster_l3 (s : State) (c : ClusterRef) (x : Cluster) : (s.setCluster c x).l3 = s.l3 := rfl
@[simp] theorem State.setCluster_capQ (s : State) (c : ClusterRef) (x : Cluster) : (s.setCluster c x).capQ = s.capQ := rfl
@[simp] theorem State.setCluster_capPrev (s : State) (c : ClusterRef) (x : Cluster) : (s.setCluster c x).capPrev = s.capPrev := rfl
@[simp] theorem State.setCluster_floors (s : State) (c : ClusterRef) (x : Cluster) : (s.setCluster c x).floors = s.floors := rfl
@[simp] theorem State.setCluster_pbase (s : State) (c : ClusterRef) (x : Cluster) : (s.setCluster c x).pbase = s.pbase := rfl
@[simp] theorem State.setCluster_pidle (s : State) (c : ClusterRef) (x : Cluster) : (s.setCluster c x).pidle = s.pidle := rfl
@[simp] theorem State.setCluster_energy (s : State) (c : ClusterRef) (x : Cluster) : (s.setCluster c x).energy = s.energy := rfl
@[simp] theorem State.setCluster_lastP (s : State) (c : ClusterRef) (x : Cluster) : (s.setCluster c x).lastP = s.lastP := rfl
@[simp] theorem State.setCluster_interval (s : State) (c : ClusterRef) (x : Cluster) : (s.setCluster c x).interval = s.interval := rfl
@[simp] theorem State.setCluster_bar0 (s : State) (c : ClusterRef) (x : Cluster) : (s.setCluster c x).bar0 = s.bar0 := rfl
@[simp] theorem State.setCluster_queues (s : State) (c : ClusterRef) (x : Cluster) : (s.setCluster c x).queues = s.queues := rfl
@[simp] theorem State.setCluster_rr (s : State) (c : ClusterRef) (x : Cluster) : (s.setCluster c x).rr = s.rr := rfl
@[simp] theorem State.setCluster_evDropped (s : State) (c : ClusterRef) (x : Cluster) : (s.setCluster c x).evDropped = s.evDropped := rfl
@[simp] theorem State.setCluster_msix (s : State) (c : ClusterRef) (x : Cluster) : (s.setCluster c x).msix = s.msix := rfl
@[simp] theorem State.setCluster_hostOut (s : State) (c : ClusterRef) (x : Cluster) : (s.setCluster c x).hostOut = s.hostOut := rfl
@[simp] theorem State.setCluster_mgmtOut (s : State) (c : ClusterRef) (x : Cluster) : (s.setCluster c x).mgmtOut = s.mgmtOut := rfl
@[simp] theorem State.setCluster_fabOut (s : State) (c : ClusterRef) (x : Cluster) : (s.setCluster c x).fabOut = s.fabOut := rfl
@[simp] theorem State.setCluster_fabFail (s : State) (c : ClusterRef) (x : Cluster) : (s.setCluster c x).fabFail = s.fabFail := rfl
@[simp] theorem State.setCluster_nextTag (s : State) (c : ClusterRef) (x : Cluster) : (s.setCluster c x).nextTag = s.nextTag := rfl
@[simp] theorem State.setCluster_discarded (s : State) (c : ClusterRef) (x : Cluster) : (s.setCluster c x).discarded = s.discarded := rfl
@[simp] theorem State.setCluster_failed (s : State) (c : ClusterRef) (x : Cluster) : (s.setCluster c x).failed = s.failed := rfl
@[simp] theorem State.setCluster_cxl (s : State) (c : ClusterRef) (x : Cluster) : (s.setCluster c x).cxl = s.cxl := rfl
@[simp] theorem State.setCluster_fw (s : State) (c : ClusterRef) (x : Cluster) : (s.setCluster c x).fw = s.fw := rfl
@[simp] theorem State.setCluster_retired (s : State) (c : ClusterRef) (x : Cluster) : (s.setCluster c x).retired = s.retired := rfl
@[simp] theorem State.setCluster_clearRetired (s : State) (c : ClusterRef) (x : Cluster) : (s.setCluster c x).clearRetired = s.clearRetired := rfl
@[simp] theorem State.setCluster_rowErr (s : State) (c : ClusterRef) (x : Cluster) : (s.setCluster c x).rowErr = s.rowErr := rfl
@[simp] theorem State.setCluster_spared (s : State) (c : ClusterRef) (x : Cluster) : (s.setCluster c x).spared = s.spared := rfl
@[simp] theorem State.setCluster_unspared (s : State) (c : ClusterRef) (x : Cluster) : (s.setCluster c x).unspared = s.unspared := rfl
@[simp] theorem State.setCluster_trained (s : State) (c : ClusterRef) (x : Cluster) : (s.setCluster c x).trained = s.trained := rfl

/-! ## setDie -/

@[simp] theorem State.setDie_tick (s : State) (d : Nat) (x : Die) : (s.setDie d x).tick = s.tick := rfl
@[simp] theorem State.setDie_fresh (s : State) (d : Nat) (x : Die) : (s.setDie d x).fresh = s.fresh := rfl
@[simp] theorem State.setDie_agenda (s : State) (d : Nat) (x : Die) : (s.setDie d x).agenda = s.agenda := rfl
@[simp] theorem State.setDie_cur (s : State) (d : Nat) (x : Die) : (s.setDie d x).cur = s.cur := rfl
@[simp] theorem State.setDie_mem (s : State) (d : Nat) (x : Die) : (s.setDie d x).mem = s.mem := rfl
@[simp] theorem State.setDie_poison (s : State) (d : Nat) (x : Die) : (s.setDie d x).poison = s.poison := rfl
@[simp] theorem State.setDie_waits (s : State) (d : Nat) (x : Die) : (s.setDie d x).waits = s.waits := rfl
@[simp] theorem State.setDie_started (s : State) (d : Nat) (x : Die) : (s.setDie d x).started = s.started := rfl
@[simp] theorem State.setDie_ctxs (s : State) (d : Nat) (x : Die) : (s.setDie d x).ctxs = s.ctxs := rfl
@[simp] theorem State.setDie_tlb (s : State) (d : Nat) (x : Die) : (s.setDie d x).tlb = s.tlb := rfl
@[simp] theorem State.setDie_walks (s : State) (d : Nat) (x : Die) : (s.setDie d x).walks = s.walks := rfl
@[simp] theorem State.setDie_binds (s : State) (d : Nat) (x : Die) : (s.setDie d x).binds = s.binds := rfl
@[simp] theorem State.setDie_spareFrames (s : State) (d : Nat) (x : Die) : (s.setDie d x).spareFrames = s.spareFrames := rfl
@[simp] theorem State.setDie_launches (s : State) (d : Nat) (x : Die) : (s.setDie d x).launches = s.launches := rfl
@[simp] theorem State.setDie_nextLid (s : State) (d : Nat) (x : Die) : (s.setDie d x).nextLid = s.nextLid := rfl
@[simp] theorem State.setDie_nextLseq (s : State) (d : Nat) (x : Die) : (s.setDie d x).nextLseq = s.nextLseq := rfl
@[simp] theorem State.setDie_quiesced (s : State) (d : Nat) (x : Die) : (s.setDie d x).quiesced = s.quiesced := rfl
@[simp] theorem State.setDie_tiles (s : State) (d : Nat) (x : Die) : (s.setDie d x).tiles = s.tiles := rfl
@[simp] theorem State.setDie_clusters (s : State) (d : Nat) (x : Die) : (s.setDie d x).clusters = s.clusters := rfl
@[simp] theorem State.setDie_dies (s : State) (d : Nat) (x : Die) : (s.setDie d x).dies = s.dies.put d x := rfl
@[simp] theorem State.setDie_links (s : State) (d : Nat) (x : Die) : (s.setDie d x).links = s.links := rfl
@[simp] theorem State.setDie_rings (s : State) (d : Nat) (x : Die) : (s.setDie d x).rings = s.rings := rfl
@[simp] theorem State.setDie_store (s : State) (d : Nat) (x : Die) : (s.setDie d x).store = s.store := rfl
@[simp] theorem State.setDie_nextId (s : State) (d : Nat) (x : Die) : (s.setDie d x).nextId = s.nextId := rfl
@[simp] theorem State.setDie_wdogs (s : State) (d : Nat) (x : Die) : (s.setDie d x).wdogs = s.wdogs := rfl
@[simp] theorem State.setDie_refused (s : State) (d : Nat) (x : Die) : (s.setDie d x).refused = s.refused := rfl
@[simp] theorem State.setDie_l3 (s : State) (d : Nat) (x : Die) : (s.setDie d x).l3 = s.l3 := rfl
@[simp] theorem State.setDie_capQ (s : State) (d : Nat) (x : Die) : (s.setDie d x).capQ = s.capQ := rfl
@[simp] theorem State.setDie_capPrev (s : State) (d : Nat) (x : Die) : (s.setDie d x).capPrev = s.capPrev := rfl
@[simp] theorem State.setDie_floors (s : State) (d : Nat) (x : Die) : (s.setDie d x).floors = s.floors := rfl
@[simp] theorem State.setDie_pbase (s : State) (d : Nat) (x : Die) : (s.setDie d x).pbase = s.pbase := rfl
@[simp] theorem State.setDie_pidle (s : State) (d : Nat) (x : Die) : (s.setDie d x).pidle = s.pidle := rfl
@[simp] theorem State.setDie_energy (s : State) (d : Nat) (x : Die) : (s.setDie d x).energy = s.energy := rfl
@[simp] theorem State.setDie_lastP (s : State) (d : Nat) (x : Die) : (s.setDie d x).lastP = s.lastP := rfl
@[simp] theorem State.setDie_interval (s : State) (d : Nat) (x : Die) : (s.setDie d x).interval = s.interval := rfl
@[simp] theorem State.setDie_bar0 (s : State) (d : Nat) (x : Die) : (s.setDie d x).bar0 = s.bar0 := rfl
@[simp] theorem State.setDie_queues (s : State) (d : Nat) (x : Die) : (s.setDie d x).queues = s.queues := rfl
@[simp] theorem State.setDie_rr (s : State) (d : Nat) (x : Die) : (s.setDie d x).rr = s.rr := rfl
@[simp] theorem State.setDie_evDropped (s : State) (d : Nat) (x : Die) : (s.setDie d x).evDropped = s.evDropped := rfl
@[simp] theorem State.setDie_msix (s : State) (d : Nat) (x : Die) : (s.setDie d x).msix = s.msix := rfl
@[simp] theorem State.setDie_hostOut (s : State) (d : Nat) (x : Die) : (s.setDie d x).hostOut = s.hostOut := rfl
@[simp] theorem State.setDie_mgmtOut (s : State) (d : Nat) (x : Die) : (s.setDie d x).mgmtOut = s.mgmtOut := rfl
@[simp] theorem State.setDie_fabOut (s : State) (d : Nat) (x : Die) : (s.setDie d x).fabOut = s.fabOut := rfl
@[simp] theorem State.setDie_fabFail (s : State) (d : Nat) (x : Die) : (s.setDie d x).fabFail = s.fabFail := rfl
@[simp] theorem State.setDie_nextTag (s : State) (d : Nat) (x : Die) : (s.setDie d x).nextTag = s.nextTag := rfl
@[simp] theorem State.setDie_discarded (s : State) (d : Nat) (x : Die) : (s.setDie d x).discarded = s.discarded := rfl
@[simp] theorem State.setDie_failed (s : State) (d : Nat) (x : Die) : (s.setDie d x).failed = s.failed := rfl
@[simp] theorem State.setDie_cxl (s : State) (d : Nat) (x : Die) : (s.setDie d x).cxl = s.cxl := rfl
@[simp] theorem State.setDie_fw (s : State) (d : Nat) (x : Die) : (s.setDie d x).fw = s.fw := rfl
@[simp] theorem State.setDie_retired (s : State) (d : Nat) (x : Die) : (s.setDie d x).retired = s.retired := rfl
@[simp] theorem State.setDie_clearRetired (s : State) (d : Nat) (x : Die) : (s.setDie d x).clearRetired = s.clearRetired := rfl
@[simp] theorem State.setDie_rowErr (s : State) (d : Nat) (x : Die) : (s.setDie d x).rowErr = s.rowErr := rfl
@[simp] theorem State.setDie_spared (s : State) (d : Nat) (x : Die) : (s.setDie d x).spared = s.spared := rfl
@[simp] theorem State.setDie_unspared (s : State) (d : Nat) (x : Die) : (s.setDie d x).unspared = s.unspared := rfl
@[simp] theorem State.setDie_trained (s : State) (d : Nat) (x : Die) : (s.setDie d x).trained = s.trained := rfl

/-! ## setLink -/

@[simp] theorem State.setLink_tick (s : State) (l : Nat) (x : Link) : (s.setLink l x).tick = s.tick := rfl
@[simp] theorem State.setLink_fresh (s : State) (l : Nat) (x : Link) : (s.setLink l x).fresh = s.fresh := rfl
@[simp] theorem State.setLink_agenda (s : State) (l : Nat) (x : Link) : (s.setLink l x).agenda = s.agenda := rfl
@[simp] theorem State.setLink_cur (s : State) (l : Nat) (x : Link) : (s.setLink l x).cur = s.cur := rfl
@[simp] theorem State.setLink_mem (s : State) (l : Nat) (x : Link) : (s.setLink l x).mem = s.mem := rfl
@[simp] theorem State.setLink_poison (s : State) (l : Nat) (x : Link) : (s.setLink l x).poison = s.poison := rfl
@[simp] theorem State.setLink_waits (s : State) (l : Nat) (x : Link) : (s.setLink l x).waits = s.waits := rfl
@[simp] theorem State.setLink_started (s : State) (l : Nat) (x : Link) : (s.setLink l x).started = s.started := rfl
@[simp] theorem State.setLink_ctxs (s : State) (l : Nat) (x : Link) : (s.setLink l x).ctxs = s.ctxs := rfl
@[simp] theorem State.setLink_tlb (s : State) (l : Nat) (x : Link) : (s.setLink l x).tlb = s.tlb := rfl
@[simp] theorem State.setLink_walks (s : State) (l : Nat) (x : Link) : (s.setLink l x).walks = s.walks := rfl
@[simp] theorem State.setLink_binds (s : State) (l : Nat) (x : Link) : (s.setLink l x).binds = s.binds := rfl
@[simp] theorem State.setLink_spareFrames (s : State) (l : Nat) (x : Link) : (s.setLink l x).spareFrames = s.spareFrames := rfl
@[simp] theorem State.setLink_launches (s : State) (l : Nat) (x : Link) : (s.setLink l x).launches = s.launches := rfl
@[simp] theorem State.setLink_nextLid (s : State) (l : Nat) (x : Link) : (s.setLink l x).nextLid = s.nextLid := rfl
@[simp] theorem State.setLink_nextLseq (s : State) (l : Nat) (x : Link) : (s.setLink l x).nextLseq = s.nextLseq := rfl
@[simp] theorem State.setLink_quiesced (s : State) (l : Nat) (x : Link) : (s.setLink l x).quiesced = s.quiesced := rfl
@[simp] theorem State.setLink_tiles (s : State) (l : Nat) (x : Link) : (s.setLink l x).tiles = s.tiles := rfl
@[simp] theorem State.setLink_clusters (s : State) (l : Nat) (x : Link) : (s.setLink l x).clusters = s.clusters := rfl
@[simp] theorem State.setLink_dies (s : State) (l : Nat) (x : Link) : (s.setLink l x).dies = s.dies := rfl
@[simp] theorem State.setLink_links (s : State) (l : Nat) (x : Link) : (s.setLink l x).links = s.links.put l x := rfl
@[simp] theorem State.setLink_rings (s : State) (l : Nat) (x : Link) : (s.setLink l x).rings = s.rings := rfl
@[simp] theorem State.setLink_store (s : State) (l : Nat) (x : Link) : (s.setLink l x).store = s.store := rfl
@[simp] theorem State.setLink_nextId (s : State) (l : Nat) (x : Link) : (s.setLink l x).nextId = s.nextId := rfl
@[simp] theorem State.setLink_wdogs (s : State) (l : Nat) (x : Link) : (s.setLink l x).wdogs = s.wdogs := rfl
@[simp] theorem State.setLink_refused (s : State) (l : Nat) (x : Link) : (s.setLink l x).refused = s.refused := rfl
@[simp] theorem State.setLink_l3 (s : State) (l : Nat) (x : Link) : (s.setLink l x).l3 = s.l3 := rfl
@[simp] theorem State.setLink_capQ (s : State) (l : Nat) (x : Link) : (s.setLink l x).capQ = s.capQ := rfl
@[simp] theorem State.setLink_capPrev (s : State) (l : Nat) (x : Link) : (s.setLink l x).capPrev = s.capPrev := rfl
@[simp] theorem State.setLink_floors (s : State) (l : Nat) (x : Link) : (s.setLink l x).floors = s.floors := rfl
@[simp] theorem State.setLink_pbase (s : State) (l : Nat) (x : Link) : (s.setLink l x).pbase = s.pbase := rfl
@[simp] theorem State.setLink_pidle (s : State) (l : Nat) (x : Link) : (s.setLink l x).pidle = s.pidle := rfl
@[simp] theorem State.setLink_energy (s : State) (l : Nat) (x : Link) : (s.setLink l x).energy = s.energy := rfl
@[simp] theorem State.setLink_lastP (s : State) (l : Nat) (x : Link) : (s.setLink l x).lastP = s.lastP := rfl
@[simp] theorem State.setLink_interval (s : State) (l : Nat) (x : Link) : (s.setLink l x).interval = s.interval := rfl
@[simp] theorem State.setLink_bar0 (s : State) (l : Nat) (x : Link) : (s.setLink l x).bar0 = s.bar0 := rfl
@[simp] theorem State.setLink_queues (s : State) (l : Nat) (x : Link) : (s.setLink l x).queues = s.queues := rfl
@[simp] theorem State.setLink_rr (s : State) (l : Nat) (x : Link) : (s.setLink l x).rr = s.rr := rfl
@[simp] theorem State.setLink_evDropped (s : State) (l : Nat) (x : Link) : (s.setLink l x).evDropped = s.evDropped := rfl
@[simp] theorem State.setLink_msix (s : State) (l : Nat) (x : Link) : (s.setLink l x).msix = s.msix := rfl
@[simp] theorem State.setLink_hostOut (s : State) (l : Nat) (x : Link) : (s.setLink l x).hostOut = s.hostOut := rfl
@[simp] theorem State.setLink_mgmtOut (s : State) (l : Nat) (x : Link) : (s.setLink l x).mgmtOut = s.mgmtOut := rfl
@[simp] theorem State.setLink_fabOut (s : State) (l : Nat) (x : Link) : (s.setLink l x).fabOut = s.fabOut := rfl
@[simp] theorem State.setLink_fabFail (s : State) (l : Nat) (x : Link) : (s.setLink l x).fabFail = s.fabFail := rfl
@[simp] theorem State.setLink_nextTag (s : State) (l : Nat) (x : Link) : (s.setLink l x).nextTag = s.nextTag := rfl
@[simp] theorem State.setLink_discarded (s : State) (l : Nat) (x : Link) : (s.setLink l x).discarded = s.discarded := rfl
@[simp] theorem State.setLink_failed (s : State) (l : Nat) (x : Link) : (s.setLink l x).failed = s.failed := rfl
@[simp] theorem State.setLink_cxl (s : State) (l : Nat) (x : Link) : (s.setLink l x).cxl = s.cxl := rfl
@[simp] theorem State.setLink_fw (s : State) (l : Nat) (x : Link) : (s.setLink l x).fw = s.fw := rfl
@[simp] theorem State.setLink_retired (s : State) (l : Nat) (x : Link) : (s.setLink l x).retired = s.retired := rfl
@[simp] theorem State.setLink_clearRetired (s : State) (l : Nat) (x : Link) : (s.setLink l x).clearRetired = s.clearRetired := rfl
@[simp] theorem State.setLink_rowErr (s : State) (l : Nat) (x : Link) : (s.setLink l x).rowErr = s.rowErr := rfl
@[simp] theorem State.setLink_spared (s : State) (l : Nat) (x : Link) : (s.setLink l x).spared = s.spared := rfl
@[simp] theorem State.setLink_unspared (s : State) (l : Nat) (x : Link) : (s.setLink l x).unspared = s.unspared := rfl
@[simp] theorem State.setLink_trained (s : State) (l : Nat) (x : Link) : (s.setLink l x).trained = s.trained := rfl

/-! ## setRing -/

@[simp] theorem State.setRing_tick (s : State) (f r : Nat) (x : Ring) : (s.setRing f r x).tick = s.tick := rfl
@[simp] theorem State.setRing_fresh (s : State) (f r : Nat) (x : Ring) : (s.setRing f r x).fresh = s.fresh := rfl
@[simp] theorem State.setRing_agenda (s : State) (f r : Nat) (x : Ring) : (s.setRing f r x).agenda = s.agenda := rfl
@[simp] theorem State.setRing_cur (s : State) (f r : Nat) (x : Ring) : (s.setRing f r x).cur = s.cur := rfl
@[simp] theorem State.setRing_mem (s : State) (f r : Nat) (x : Ring) : (s.setRing f r x).mem = s.mem := rfl
@[simp] theorem State.setRing_poison (s : State) (f r : Nat) (x : Ring) : (s.setRing f r x).poison = s.poison := rfl
@[simp] theorem State.setRing_waits (s : State) (f r : Nat) (x : Ring) : (s.setRing f r x).waits = s.waits := rfl
@[simp] theorem State.setRing_started (s : State) (f r : Nat) (x : Ring) : (s.setRing f r x).started = s.started := rfl
@[simp] theorem State.setRing_ctxs (s : State) (f r : Nat) (x : Ring) : (s.setRing f r x).ctxs = s.ctxs := rfl
@[simp] theorem State.setRing_tlb (s : State) (f r : Nat) (x : Ring) : (s.setRing f r x).tlb = s.tlb := rfl
@[simp] theorem State.setRing_walks (s : State) (f r : Nat) (x : Ring) : (s.setRing f r x).walks = s.walks := rfl
@[simp] theorem State.setRing_binds (s : State) (f r : Nat) (x : Ring) : (s.setRing f r x).binds = s.binds := rfl
@[simp] theorem State.setRing_spareFrames (s : State) (f r : Nat) (x : Ring) : (s.setRing f r x).spareFrames = s.spareFrames := rfl
@[simp] theorem State.setRing_launches (s : State) (f r : Nat) (x : Ring) : (s.setRing f r x).launches = s.launches := rfl
@[simp] theorem State.setRing_nextLid (s : State) (f r : Nat) (x : Ring) : (s.setRing f r x).nextLid = s.nextLid := rfl
@[simp] theorem State.setRing_nextLseq (s : State) (f r : Nat) (x : Ring) : (s.setRing f r x).nextLseq = s.nextLseq := rfl
@[simp] theorem State.setRing_quiesced (s : State) (f r : Nat) (x : Ring) : (s.setRing f r x).quiesced = s.quiesced := rfl
@[simp] theorem State.setRing_tiles (s : State) (f r : Nat) (x : Ring) : (s.setRing f r x).tiles = s.tiles := rfl
@[simp] theorem State.setRing_clusters (s : State) (f r : Nat) (x : Ring) : (s.setRing f r x).clusters = s.clusters := rfl
@[simp] theorem State.setRing_dies (s : State) (f r : Nat) (x : Ring) : (s.setRing f r x).dies = s.dies := rfl
@[simp] theorem State.setRing_links (s : State) (f r : Nat) (x : Ring) : (s.setRing f r x).links = s.links := rfl
@[simp] theorem State.setRing_rings (s : State) (f r : Nat) (x : Ring) : (s.setRing f r x).rings = s.rings.put (16 * f + r) x := rfl
@[simp] theorem State.setRing_store (s : State) (f r : Nat) (x : Ring) : (s.setRing f r x).store = s.store := rfl
@[simp] theorem State.setRing_nextId (s : State) (f r : Nat) (x : Ring) : (s.setRing f r x).nextId = s.nextId := rfl
@[simp] theorem State.setRing_wdogs (s : State) (f r : Nat) (x : Ring) : (s.setRing f r x).wdogs = s.wdogs := rfl
@[simp] theorem State.setRing_refused (s : State) (f r : Nat) (x : Ring) : (s.setRing f r x).refused = s.refused := rfl
@[simp] theorem State.setRing_l3 (s : State) (f r : Nat) (x : Ring) : (s.setRing f r x).l3 = s.l3 := rfl
@[simp] theorem State.setRing_capQ (s : State) (f r : Nat) (x : Ring) : (s.setRing f r x).capQ = s.capQ := rfl
@[simp] theorem State.setRing_capPrev (s : State) (f r : Nat) (x : Ring) : (s.setRing f r x).capPrev = s.capPrev := rfl
@[simp] theorem State.setRing_floors (s : State) (f r : Nat) (x : Ring) : (s.setRing f r x).floors = s.floors := rfl
@[simp] theorem State.setRing_pbase (s : State) (f r : Nat) (x : Ring) : (s.setRing f r x).pbase = s.pbase := rfl
@[simp] theorem State.setRing_pidle (s : State) (f r : Nat) (x : Ring) : (s.setRing f r x).pidle = s.pidle := rfl
@[simp] theorem State.setRing_energy (s : State) (f r : Nat) (x : Ring) : (s.setRing f r x).energy = s.energy := rfl
@[simp] theorem State.setRing_lastP (s : State) (f r : Nat) (x : Ring) : (s.setRing f r x).lastP = s.lastP := rfl
@[simp] theorem State.setRing_interval (s : State) (f r : Nat) (x : Ring) : (s.setRing f r x).interval = s.interval := rfl
@[simp] theorem State.setRing_bar0 (s : State) (f r : Nat) (x : Ring) : (s.setRing f r x).bar0 = s.bar0 := rfl
@[simp] theorem State.setRing_queues (s : State) (f r : Nat) (x : Ring) : (s.setRing f r x).queues = s.queues := rfl
@[simp] theorem State.setRing_rr (s : State) (f r : Nat) (x : Ring) : (s.setRing f r x).rr = s.rr := rfl
@[simp] theorem State.setRing_evDropped (s : State) (f r : Nat) (x : Ring) : (s.setRing f r x).evDropped = s.evDropped := rfl
@[simp] theorem State.setRing_msix (s : State) (f r : Nat) (x : Ring) : (s.setRing f r x).msix = s.msix := rfl
@[simp] theorem State.setRing_hostOut (s : State) (f r : Nat) (x : Ring) : (s.setRing f r x).hostOut = s.hostOut := rfl
@[simp] theorem State.setRing_mgmtOut (s : State) (f r : Nat) (x : Ring) : (s.setRing f r x).mgmtOut = s.mgmtOut := rfl
@[simp] theorem State.setRing_fabOut (s : State) (f r : Nat) (x : Ring) : (s.setRing f r x).fabOut = s.fabOut := rfl
@[simp] theorem State.setRing_fabFail (s : State) (f r : Nat) (x : Ring) : (s.setRing f r x).fabFail = s.fabFail := rfl
@[simp] theorem State.setRing_nextTag (s : State) (f r : Nat) (x : Ring) : (s.setRing f r x).nextTag = s.nextTag := rfl
@[simp] theorem State.setRing_discarded (s : State) (f r : Nat) (x : Ring) : (s.setRing f r x).discarded = s.discarded := rfl
@[simp] theorem State.setRing_failed (s : State) (f r : Nat) (x : Ring) : (s.setRing f r x).failed = s.failed := rfl
@[simp] theorem State.setRing_cxl (s : State) (f r : Nat) (x : Ring) : (s.setRing f r x).cxl = s.cxl := rfl
@[simp] theorem State.setRing_fw (s : State) (f r : Nat) (x : Ring) : (s.setRing f r x).fw = s.fw := rfl
@[simp] theorem State.setRing_retired (s : State) (f r : Nat) (x : Ring) : (s.setRing f r x).retired = s.retired := rfl
@[simp] theorem State.setRing_clearRetired (s : State) (f r : Nat) (x : Ring) : (s.setRing f r x).clearRetired = s.clearRetired := rfl
@[simp] theorem State.setRing_rowErr (s : State) (f r : Nat) (x : Ring) : (s.setRing f r x).rowErr = s.rowErr := rfl
@[simp] theorem State.setRing_spared (s : State) (f r : Nat) (x : Ring) : (s.setRing f r x).spared = s.spared := rfl
@[simp] theorem State.setRing_unspared (s : State) (f r : Nat) (x : Ring) : (s.setRing f r x).unspared = s.unspared := rfl
@[simp] theorem State.setRing_trained (s : State) (f r : Nat) (x : Ring) : (s.setRing f r x).trained = s.trained := rfl

/-! ## setQueue -/

@[simp] theorem State.setQueue_tick (s : State) (q : Nat) (x : Queue) : (s.setQueue q x).tick = s.tick := rfl
@[simp] theorem State.setQueue_fresh (s : State) (q : Nat) (x : Queue) : (s.setQueue q x).fresh = s.fresh := rfl
@[simp] theorem State.setQueue_agenda (s : State) (q : Nat) (x : Queue) : (s.setQueue q x).agenda = s.agenda := rfl
@[simp] theorem State.setQueue_cur (s : State) (q : Nat) (x : Queue) : (s.setQueue q x).cur = s.cur := rfl
@[simp] theorem State.setQueue_mem (s : State) (q : Nat) (x : Queue) : (s.setQueue q x).mem = s.mem := rfl
@[simp] theorem State.setQueue_poison (s : State) (q : Nat) (x : Queue) : (s.setQueue q x).poison = s.poison := rfl
@[simp] theorem State.setQueue_waits (s : State) (q : Nat) (x : Queue) : (s.setQueue q x).waits = s.waits := rfl
@[simp] theorem State.setQueue_started (s : State) (q : Nat) (x : Queue) : (s.setQueue q x).started = s.started := rfl
@[simp] theorem State.setQueue_ctxs (s : State) (q : Nat) (x : Queue) : (s.setQueue q x).ctxs = s.ctxs := rfl
@[simp] theorem State.setQueue_tlb (s : State) (q : Nat) (x : Queue) : (s.setQueue q x).tlb = s.tlb := rfl
@[simp] theorem State.setQueue_walks (s : State) (q : Nat) (x : Queue) : (s.setQueue q x).walks = s.walks := rfl
@[simp] theorem State.setQueue_binds (s : State) (q : Nat) (x : Queue) : (s.setQueue q x).binds = s.binds := rfl
@[simp] theorem State.setQueue_spareFrames (s : State) (q : Nat) (x : Queue) : (s.setQueue q x).spareFrames = s.spareFrames := rfl
@[simp] theorem State.setQueue_launches (s : State) (q : Nat) (x : Queue) : (s.setQueue q x).launches = s.launches := rfl
@[simp] theorem State.setQueue_nextLid (s : State) (q : Nat) (x : Queue) : (s.setQueue q x).nextLid = s.nextLid := rfl
@[simp] theorem State.setQueue_nextLseq (s : State) (q : Nat) (x : Queue) : (s.setQueue q x).nextLseq = s.nextLseq := rfl
@[simp] theorem State.setQueue_quiesced (s : State) (q : Nat) (x : Queue) : (s.setQueue q x).quiesced = s.quiesced := rfl
@[simp] theorem State.setQueue_tiles (s : State) (q : Nat) (x : Queue) : (s.setQueue q x).tiles = s.tiles := rfl
@[simp] theorem State.setQueue_clusters (s : State) (q : Nat) (x : Queue) : (s.setQueue q x).clusters = s.clusters := rfl
@[simp] theorem State.setQueue_dies (s : State) (q : Nat) (x : Queue) : (s.setQueue q x).dies = s.dies := rfl
@[simp] theorem State.setQueue_links (s : State) (q : Nat) (x : Queue) : (s.setQueue q x).links = s.links := rfl
@[simp] theorem State.setQueue_rings (s : State) (q : Nat) (x : Queue) : (s.setQueue q x).rings = s.rings := rfl
@[simp] theorem State.setQueue_store (s : State) (q : Nat) (x : Queue) : (s.setQueue q x).store = s.store := rfl
@[simp] theorem State.setQueue_nextId (s : State) (q : Nat) (x : Queue) : (s.setQueue q x).nextId = s.nextId := rfl
@[simp] theorem State.setQueue_wdogs (s : State) (q : Nat) (x : Queue) : (s.setQueue q x).wdogs = s.wdogs := rfl
@[simp] theorem State.setQueue_refused (s : State) (q : Nat) (x : Queue) : (s.setQueue q x).refused = s.refused := rfl
@[simp] theorem State.setQueue_l3 (s : State) (q : Nat) (x : Queue) : (s.setQueue q x).l3 = s.l3 := rfl
@[simp] theorem State.setQueue_capQ (s : State) (q : Nat) (x : Queue) : (s.setQueue q x).capQ = s.capQ := rfl
@[simp] theorem State.setQueue_capPrev (s : State) (q : Nat) (x : Queue) : (s.setQueue q x).capPrev = s.capPrev := rfl
@[simp] theorem State.setQueue_floors (s : State) (q : Nat) (x : Queue) : (s.setQueue q x).floors = s.floors := rfl
@[simp] theorem State.setQueue_pbase (s : State) (q : Nat) (x : Queue) : (s.setQueue q x).pbase = s.pbase := rfl
@[simp] theorem State.setQueue_pidle (s : State) (q : Nat) (x : Queue) : (s.setQueue q x).pidle = s.pidle := rfl
@[simp] theorem State.setQueue_energy (s : State) (q : Nat) (x : Queue) : (s.setQueue q x).energy = s.energy := rfl
@[simp] theorem State.setQueue_lastP (s : State) (q : Nat) (x : Queue) : (s.setQueue q x).lastP = s.lastP := rfl
@[simp] theorem State.setQueue_interval (s : State) (q : Nat) (x : Queue) : (s.setQueue q x).interval = s.interval := rfl
@[simp] theorem State.setQueue_bar0 (s : State) (q : Nat) (x : Queue) : (s.setQueue q x).bar0 = s.bar0 := rfl
@[simp] theorem State.setQueue_queues (s : State) (q : Nat) (x : Queue) : (s.setQueue q x).queues = s.queues.put q x := rfl
@[simp] theorem State.setQueue_rr (s : State) (q : Nat) (x : Queue) : (s.setQueue q x).rr = s.rr := rfl
@[simp] theorem State.setQueue_evDropped (s : State) (q : Nat) (x : Queue) : (s.setQueue q x).evDropped = s.evDropped := rfl
@[simp] theorem State.setQueue_msix (s : State) (q : Nat) (x : Queue) : (s.setQueue q x).msix = s.msix := rfl
@[simp] theorem State.setQueue_hostOut (s : State) (q : Nat) (x : Queue) : (s.setQueue q x).hostOut = s.hostOut := rfl
@[simp] theorem State.setQueue_mgmtOut (s : State) (q : Nat) (x : Queue) : (s.setQueue q x).mgmtOut = s.mgmtOut := rfl
@[simp] theorem State.setQueue_fabOut (s : State) (q : Nat) (x : Queue) : (s.setQueue q x).fabOut = s.fabOut := rfl
@[simp] theorem State.setQueue_fabFail (s : State) (q : Nat) (x : Queue) : (s.setQueue q x).fabFail = s.fabFail := rfl
@[simp] theorem State.setQueue_nextTag (s : State) (q : Nat) (x : Queue) : (s.setQueue q x).nextTag = s.nextTag := rfl
@[simp] theorem State.setQueue_discarded (s : State) (q : Nat) (x : Queue) : (s.setQueue q x).discarded = s.discarded := rfl
@[simp] theorem State.setQueue_failed (s : State) (q : Nat) (x : Queue) : (s.setQueue q x).failed = s.failed := rfl
@[simp] theorem State.setQueue_cxl (s : State) (q : Nat) (x : Queue) : (s.setQueue q x).cxl = s.cxl := rfl
@[simp] theorem State.setQueue_fw (s : State) (q : Nat) (x : Queue) : (s.setQueue q x).fw = s.fw := rfl
@[simp] theorem State.setQueue_retired (s : State) (q : Nat) (x : Queue) : (s.setQueue q x).retired = s.retired := rfl
@[simp] theorem State.setQueue_clearRetired (s : State) (q : Nat) (x : Queue) : (s.setQueue q x).clearRetired = s.clearRetired := rfl
@[simp] theorem State.setQueue_rowErr (s : State) (q : Nat) (x : Queue) : (s.setQueue q x).rowErr = s.rowErr := rfl
@[simp] theorem State.setQueue_spared (s : State) (q : Nat) (x : Queue) : (s.setQueue q x).spared = s.spared := rfl
@[simp] theorem State.setQueue_unspared (s : State) (q : Nat) (x : Queue) : (s.setQueue q x).unspared = s.unspared := rfl
@[simp] theorem State.setQueue_trained (s : State) (q : Nat) (x : Queue) : (s.setQueue q x).trained = s.trained := rfl

/-! ## draw -/

@[simp] theorem State.draw_tick (s : State) : (s.draw).tick = s.tick := rfl
@[simp] theorem State.draw_fresh (s : State) : (s.draw).fresh = s.fresh + 1 := rfl
@[simp] theorem State.draw_agenda (s : State) : (s.draw).agenda = s.agenda := rfl
@[simp] theorem State.draw_cur (s : State) : (s.draw).cur = s.cur := rfl
@[simp] theorem State.draw_mem (s : State) : (s.draw).mem = s.mem := rfl
@[simp] theorem State.draw_poison (s : State) : (s.draw).poison = s.poison := rfl
@[simp] theorem State.draw_waits (s : State) : (s.draw).waits = s.waits := rfl
@[simp] theorem State.draw_started (s : State) : (s.draw).started = s.started := rfl
@[simp] theorem State.draw_ctxs (s : State) : (s.draw).ctxs = s.ctxs := rfl
@[simp] theorem State.draw_tlb (s : State) : (s.draw).tlb = s.tlb := rfl
@[simp] theorem State.draw_walks (s : State) : (s.draw).walks = s.walks := rfl
@[simp] theorem State.draw_binds (s : State) : (s.draw).binds = s.binds := rfl
@[simp] theorem State.draw_spareFrames (s : State) : (s.draw).spareFrames = s.spareFrames := rfl
@[simp] theorem State.draw_launches (s : State) : (s.draw).launches = s.launches := rfl
@[simp] theorem State.draw_nextLid (s : State) : (s.draw).nextLid = s.nextLid := rfl
@[simp] theorem State.draw_nextLseq (s : State) : (s.draw).nextLseq = s.nextLseq := rfl
@[simp] theorem State.draw_quiesced (s : State) : (s.draw).quiesced = s.quiesced := rfl
@[simp] theorem State.draw_tiles (s : State) : (s.draw).tiles = s.tiles := rfl
@[simp] theorem State.draw_clusters (s : State) : (s.draw).clusters = s.clusters := rfl
@[simp] theorem State.draw_dies (s : State) : (s.draw).dies = s.dies := rfl
@[simp] theorem State.draw_links (s : State) : (s.draw).links = s.links := rfl
@[simp] theorem State.draw_rings (s : State) : (s.draw).rings = s.rings := rfl
@[simp] theorem State.draw_store (s : State) : (s.draw).store = s.store := rfl
@[simp] theorem State.draw_nextId (s : State) : (s.draw).nextId = s.nextId := rfl
@[simp] theorem State.draw_wdogs (s : State) : (s.draw).wdogs = s.wdogs := rfl
@[simp] theorem State.draw_refused (s : State) : (s.draw).refused = s.refused := rfl
@[simp] theorem State.draw_l3 (s : State) : (s.draw).l3 = s.l3 := rfl
@[simp] theorem State.draw_capQ (s : State) : (s.draw).capQ = s.capQ := rfl
@[simp] theorem State.draw_capPrev (s : State) : (s.draw).capPrev = s.capPrev := rfl
@[simp] theorem State.draw_floors (s : State) : (s.draw).floors = s.floors := rfl
@[simp] theorem State.draw_pbase (s : State) : (s.draw).pbase = s.pbase := rfl
@[simp] theorem State.draw_pidle (s : State) : (s.draw).pidle = s.pidle := rfl
@[simp] theorem State.draw_energy (s : State) : (s.draw).energy = s.energy := rfl
@[simp] theorem State.draw_lastP (s : State) : (s.draw).lastP = s.lastP := rfl
@[simp] theorem State.draw_interval (s : State) : (s.draw).interval = s.interval := rfl
@[simp] theorem State.draw_bar0 (s : State) : (s.draw).bar0 = s.bar0 := rfl
@[simp] theorem State.draw_queues (s : State) : (s.draw).queues = s.queues := rfl
@[simp] theorem State.draw_rr (s : State) : (s.draw).rr = s.rr := rfl
@[simp] theorem State.draw_evDropped (s : State) : (s.draw).evDropped = s.evDropped := rfl
@[simp] theorem State.draw_msix (s : State) : (s.draw).msix = s.msix := rfl
@[simp] theorem State.draw_hostOut (s : State) : (s.draw).hostOut = s.hostOut := rfl
@[simp] theorem State.draw_mgmtOut (s : State) : (s.draw).mgmtOut = s.mgmtOut := rfl
@[simp] theorem State.draw_fabOut (s : State) : (s.draw).fabOut = s.fabOut := rfl
@[simp] theorem State.draw_fabFail (s : State) : (s.draw).fabFail = s.fabFail := rfl
@[simp] theorem State.draw_nextTag (s : State) : (s.draw).nextTag = s.nextTag := rfl
@[simp] theorem State.draw_discarded (s : State) : (s.draw).discarded = s.discarded := rfl
@[simp] theorem State.draw_failed (s : State) : (s.draw).failed = s.failed := rfl
@[simp] theorem State.draw_cxl (s : State) : (s.draw).cxl = s.cxl := rfl
@[simp] theorem State.draw_fw (s : State) : (s.draw).fw = s.fw := rfl
@[simp] theorem State.draw_retired (s : State) : (s.draw).retired = s.retired := rfl
@[simp] theorem State.draw_clearRetired (s : State) : (s.draw).clearRetired = s.clearRetired := rfl
@[simp] theorem State.draw_rowErr (s : State) : (s.draw).rowErr = s.rowErr := rfl
@[simp] theorem State.draw_spared (s : State) : (s.draw).spared = s.spared := rfl
@[simp] theorem State.draw_unspared (s : State) : (s.draw).unspared = s.unspared := rfl
@[simp] theorem State.draw_trained (s : State) : (s.draw).trained = s.trained := rfl

/-! ## raise -/

@[simp] theorem State.raise_tick (s : State) (a : Act) : (s.raise a).tick = s.tick := rfl
@[simp] theorem State.raise_fresh (s : State) (a : Act) : (s.raise a).fresh = s.fresh := rfl
@[simp] theorem State.raise_agenda (s : State) (a : Act) : (s.raise a).agenda = a :: s.agenda := rfl
@[simp] theorem State.raise_cur (s : State) (a : Act) : (s.raise a).cur = s.cur := rfl
@[simp] theorem State.raise_mem (s : State) (a : Act) : (s.raise a).mem = s.mem := rfl
@[simp] theorem State.raise_poison (s : State) (a : Act) : (s.raise a).poison = s.poison := rfl
@[simp] theorem State.raise_waits (s : State) (a : Act) : (s.raise a).waits = s.waits := rfl
@[simp] theorem State.raise_started (s : State) (a : Act) : (s.raise a).started = s.started := rfl
@[simp] theorem State.raise_ctxs (s : State) (a : Act) : (s.raise a).ctxs = s.ctxs := rfl
@[simp] theorem State.raise_tlb (s : State) (a : Act) : (s.raise a).tlb = s.tlb := rfl
@[simp] theorem State.raise_walks (s : State) (a : Act) : (s.raise a).walks = s.walks := rfl
@[simp] theorem State.raise_binds (s : State) (a : Act) : (s.raise a).binds = s.binds := rfl
@[simp] theorem State.raise_spareFrames (s : State) (a : Act) : (s.raise a).spareFrames = s.spareFrames := rfl
@[simp] theorem State.raise_launches (s : State) (a : Act) : (s.raise a).launches = s.launches := rfl
@[simp] theorem State.raise_nextLid (s : State) (a : Act) : (s.raise a).nextLid = s.nextLid := rfl
@[simp] theorem State.raise_nextLseq (s : State) (a : Act) : (s.raise a).nextLseq = s.nextLseq := rfl
@[simp] theorem State.raise_quiesced (s : State) (a : Act) : (s.raise a).quiesced = s.quiesced := rfl
@[simp] theorem State.raise_tiles (s : State) (a : Act) : (s.raise a).tiles = s.tiles := rfl
@[simp] theorem State.raise_clusters (s : State) (a : Act) : (s.raise a).clusters = s.clusters := rfl
@[simp] theorem State.raise_dies (s : State) (a : Act) : (s.raise a).dies = s.dies := rfl
@[simp] theorem State.raise_links (s : State) (a : Act) : (s.raise a).links = s.links := rfl
@[simp] theorem State.raise_rings (s : State) (a : Act) : (s.raise a).rings = s.rings := rfl
@[simp] theorem State.raise_store (s : State) (a : Act) : (s.raise a).store = s.store := rfl
@[simp] theorem State.raise_nextId (s : State) (a : Act) : (s.raise a).nextId = s.nextId := rfl
@[simp] theorem State.raise_wdogs (s : State) (a : Act) : (s.raise a).wdogs = s.wdogs := rfl
@[simp] theorem State.raise_refused (s : State) (a : Act) : (s.raise a).refused = s.refused := rfl
@[simp] theorem State.raise_l3 (s : State) (a : Act) : (s.raise a).l3 = s.l3 := rfl
@[simp] theorem State.raise_capQ (s : State) (a : Act) : (s.raise a).capQ = s.capQ := rfl
@[simp] theorem State.raise_capPrev (s : State) (a : Act) : (s.raise a).capPrev = s.capPrev := rfl
@[simp] theorem State.raise_floors (s : State) (a : Act) : (s.raise a).floors = s.floors := rfl
@[simp] theorem State.raise_pbase (s : State) (a : Act) : (s.raise a).pbase = s.pbase := rfl
@[simp] theorem State.raise_pidle (s : State) (a : Act) : (s.raise a).pidle = s.pidle := rfl
@[simp] theorem State.raise_energy (s : State) (a : Act) : (s.raise a).energy = s.energy := rfl
@[simp] theorem State.raise_lastP (s : State) (a : Act) : (s.raise a).lastP = s.lastP := rfl
@[simp] theorem State.raise_interval (s : State) (a : Act) : (s.raise a).interval = s.interval := rfl
@[simp] theorem State.raise_bar0 (s : State) (a : Act) : (s.raise a).bar0 = s.bar0 := rfl
@[simp] theorem State.raise_queues (s : State) (a : Act) : (s.raise a).queues = s.queues := rfl
@[simp] theorem State.raise_rr (s : State) (a : Act) : (s.raise a).rr = s.rr := rfl
@[simp] theorem State.raise_evDropped (s : State) (a : Act) : (s.raise a).evDropped = s.evDropped := rfl
@[simp] theorem State.raise_msix (s : State) (a : Act) : (s.raise a).msix = s.msix := rfl
@[simp] theorem State.raise_hostOut (s : State) (a : Act) : (s.raise a).hostOut = s.hostOut := rfl
@[simp] theorem State.raise_mgmtOut (s : State) (a : Act) : (s.raise a).mgmtOut = s.mgmtOut := rfl
@[simp] theorem State.raise_fabOut (s : State) (a : Act) : (s.raise a).fabOut = s.fabOut := rfl
@[simp] theorem State.raise_fabFail (s : State) (a : Act) : (s.raise a).fabFail = s.fabFail := rfl
@[simp] theorem State.raise_nextTag (s : State) (a : Act) : (s.raise a).nextTag = s.nextTag := rfl
@[simp] theorem State.raise_discarded (s : State) (a : Act) : (s.raise a).discarded = s.discarded := rfl
@[simp] theorem State.raise_failed (s : State) (a : Act) : (s.raise a).failed = s.failed := rfl
@[simp] theorem State.raise_cxl (s : State) (a : Act) : (s.raise a).cxl = s.cxl := rfl
@[simp] theorem State.raise_fw (s : State) (a : Act) : (s.raise a).fw = s.fw := rfl
@[simp] theorem State.raise_retired (s : State) (a : Act) : (s.raise a).retired = s.retired := rfl
@[simp] theorem State.raise_clearRetired (s : State) (a : Act) : (s.raise a).clearRetired = s.clearRetired := rfl
@[simp] theorem State.raise_rowErr (s : State) (a : Act) : (s.raise a).rowErr = s.rowErr := rfl
@[simp] theorem State.raise_spared (s : State) (a : Act) : (s.raise a).spared = s.spared := rfl
@[simp] theorem State.raise_unspared (s : State) (a : Act) : (s.raise a).unspared = s.unspared := rfl
@[simp] theorem State.raise_trained (s : State) (a : Act) : (s.raise a).trained = s.trained := rfl

/-! ## writeKey -/

@[simp] theorem State.writeKey_tick (s : State) (k : Nat) (bs : List Byte) : (s.writeKey k bs).tick = s.tick := rfl
@[simp] theorem State.writeKey_fresh (s : State) (k : Nat) (bs : List Byte) : (s.writeKey k bs).fresh = s.fresh := rfl
@[simp] theorem State.writeKey_agenda (s : State) (k : Nat) (bs : List Byte) : (s.writeKey k bs).agenda = s.agenda := rfl
@[simp] theorem State.writeKey_cur (s : State) (k : Nat) (bs : List Byte) : (s.writeKey k bs).cur = s.cur := rfl
@[simp] theorem State.writeKey_mem (s : State) (k : Nat) (bs : List Byte) : (s.writeKey k bs).mem = Mem.writeN s.mem k bs := rfl
@[simp] theorem State.writeKey_waits (s : State) (k : Nat) (bs : List Byte) : (s.writeKey k bs).waits = s.waits := rfl
@[simp] theorem State.writeKey_started (s : State) (k : Nat) (bs : List Byte) : (s.writeKey k bs).started = s.started := rfl
@[simp] theorem State.writeKey_ctxs (s : State) (k : Nat) (bs : List Byte) : (s.writeKey k bs).ctxs = s.ctxs := rfl
@[simp] theorem State.writeKey_tlb (s : State) (k : Nat) (bs : List Byte) : (s.writeKey k bs).tlb = s.tlb := rfl
@[simp] theorem State.writeKey_walks (s : State) (k : Nat) (bs : List Byte) : (s.writeKey k bs).walks = s.walks := rfl
@[simp] theorem State.writeKey_binds (s : State) (k : Nat) (bs : List Byte) : (s.writeKey k bs).binds = s.binds := rfl
@[simp] theorem State.writeKey_spareFrames (s : State) (k : Nat) (bs : List Byte) : (s.writeKey k bs).spareFrames = s.spareFrames := rfl
@[simp] theorem State.writeKey_launches (s : State) (k : Nat) (bs : List Byte) : (s.writeKey k bs).launches = s.launches := rfl
@[simp] theorem State.writeKey_nextLid (s : State) (k : Nat) (bs : List Byte) : (s.writeKey k bs).nextLid = s.nextLid := rfl
@[simp] theorem State.writeKey_nextLseq (s : State) (k : Nat) (bs : List Byte) : (s.writeKey k bs).nextLseq = s.nextLseq := rfl
@[simp] theorem State.writeKey_quiesced (s : State) (k : Nat) (bs : List Byte) : (s.writeKey k bs).quiesced = s.quiesced := rfl
@[simp] theorem State.writeKey_tiles (s : State) (k : Nat) (bs : List Byte) : (s.writeKey k bs).tiles = s.tiles := rfl
@[simp] theorem State.writeKey_clusters (s : State) (k : Nat) (bs : List Byte) : (s.writeKey k bs).clusters = s.clusters := rfl
@[simp] theorem State.writeKey_dies (s : State) (k : Nat) (bs : List Byte) : (s.writeKey k bs).dies = s.dies := rfl
@[simp] theorem State.writeKey_links (s : State) (k : Nat) (bs : List Byte) : (s.writeKey k bs).links = s.links := rfl
@[simp] theorem State.writeKey_rings (s : State) (k : Nat) (bs : List Byte) : (s.writeKey k bs).rings = s.rings := rfl
@[simp] theorem State.writeKey_store (s : State) (k : Nat) (bs : List Byte) : (s.writeKey k bs).store = s.store := rfl
@[simp] theorem State.writeKey_nextId (s : State) (k : Nat) (bs : List Byte) : (s.writeKey k bs).nextId = s.nextId := rfl
@[simp] theorem State.writeKey_wdogs (s : State) (k : Nat) (bs : List Byte) : (s.writeKey k bs).wdogs = s.wdogs := rfl
@[simp] theorem State.writeKey_refused (s : State) (k : Nat) (bs : List Byte) : (s.writeKey k bs).refused = s.refused := rfl
@[simp] theorem State.writeKey_l3 (s : State) (k : Nat) (bs : List Byte) : (s.writeKey k bs).l3 = s.l3 := rfl
@[simp] theorem State.writeKey_capQ (s : State) (k : Nat) (bs : List Byte) : (s.writeKey k bs).capQ = s.capQ := rfl
@[simp] theorem State.writeKey_capPrev (s : State) (k : Nat) (bs : List Byte) : (s.writeKey k bs).capPrev = s.capPrev := rfl
@[simp] theorem State.writeKey_floors (s : State) (k : Nat) (bs : List Byte) : (s.writeKey k bs).floors = s.floors := rfl
@[simp] theorem State.writeKey_pbase (s : State) (k : Nat) (bs : List Byte) : (s.writeKey k bs).pbase = s.pbase := rfl
@[simp] theorem State.writeKey_pidle (s : State) (k : Nat) (bs : List Byte) : (s.writeKey k bs).pidle = s.pidle := rfl
@[simp] theorem State.writeKey_energy (s : State) (k : Nat) (bs : List Byte) : (s.writeKey k bs).energy = s.energy := rfl
@[simp] theorem State.writeKey_lastP (s : State) (k : Nat) (bs : List Byte) : (s.writeKey k bs).lastP = s.lastP := rfl
@[simp] theorem State.writeKey_interval (s : State) (k : Nat) (bs : List Byte) : (s.writeKey k bs).interval = s.interval := rfl
@[simp] theorem State.writeKey_bar0 (s : State) (k : Nat) (bs : List Byte) : (s.writeKey k bs).bar0 = s.bar0 := rfl
@[simp] theorem State.writeKey_queues (s : State) (k : Nat) (bs : List Byte) : (s.writeKey k bs).queues = s.queues := rfl
@[simp] theorem State.writeKey_rr (s : State) (k : Nat) (bs : List Byte) : (s.writeKey k bs).rr = s.rr := rfl
@[simp] theorem State.writeKey_evDropped (s : State) (k : Nat) (bs : List Byte) : (s.writeKey k bs).evDropped = s.evDropped := rfl
@[simp] theorem State.writeKey_msix (s : State) (k : Nat) (bs : List Byte) : (s.writeKey k bs).msix = s.msix := rfl
@[simp] theorem State.writeKey_hostOut (s : State) (k : Nat) (bs : List Byte) : (s.writeKey k bs).hostOut = s.hostOut := rfl
@[simp] theorem State.writeKey_mgmtOut (s : State) (k : Nat) (bs : List Byte) : (s.writeKey k bs).mgmtOut = s.mgmtOut := rfl
@[simp] theorem State.writeKey_fabOut (s : State) (k : Nat) (bs : List Byte) : (s.writeKey k bs).fabOut = s.fabOut := rfl
@[simp] theorem State.writeKey_fabFail (s : State) (k : Nat) (bs : List Byte) : (s.writeKey k bs).fabFail = s.fabFail := rfl
@[simp] theorem State.writeKey_nextTag (s : State) (k : Nat) (bs : List Byte) : (s.writeKey k bs).nextTag = s.nextTag := rfl
@[simp] theorem State.writeKey_discarded (s : State) (k : Nat) (bs : List Byte) : (s.writeKey k bs).discarded = s.discarded := rfl
@[simp] theorem State.writeKey_failed (s : State) (k : Nat) (bs : List Byte) : (s.writeKey k bs).failed = s.failed := rfl
@[simp] theorem State.writeKey_cxl (s : State) (k : Nat) (bs : List Byte) : (s.writeKey k bs).cxl = s.cxl := rfl
@[simp] theorem State.writeKey_fw (s : State) (k : Nat) (bs : List Byte) : (s.writeKey k bs).fw = s.fw := rfl
@[simp] theorem State.writeKey_retired (s : State) (k : Nat) (bs : List Byte) : (s.writeKey k bs).retired = s.retired := rfl
@[simp] theorem State.writeKey_clearRetired (s : State) (k : Nat) (bs : List Byte) : (s.writeKey k bs).clearRetired = s.clearRetired := rfl
@[simp] theorem State.writeKey_rowErr (s : State) (k : Nat) (bs : List Byte) : (s.writeKey k bs).rowErr = s.rowErr := rfl
@[simp] theorem State.writeKey_spared (s : State) (k : Nat) (bs : List Byte) : (s.writeKey k bs).spared = s.spared := rfl
@[simp] theorem State.writeKey_unspared (s : State) (k : Nat) (bs : List Byte) : (s.writeKey k bs).unspared = s.unspared := rfl
@[simp] theorem State.writeKey_trained (s : State) (k : Nat) (bs : List Byte) : (s.writeKey k bs).trained = s.trained := rfl

/-! ## addPoison -/

@[simp] theorem State.addPoison_tick (s : State) (k n : Nat) : (s.addPoison k n).tick = s.tick := rfl
@[simp] theorem State.addPoison_fresh (s : State) (k n : Nat) : (s.addPoison k n).fresh = s.fresh := rfl
@[simp] theorem State.addPoison_agenda (s : State) (k n : Nat) : (s.addPoison k n).agenda = s.agenda := rfl
@[simp] theorem State.addPoison_cur (s : State) (k n : Nat) : (s.addPoison k n).cur = s.cur := rfl
@[simp] theorem State.addPoison_mem (s : State) (k n : Nat) : (s.addPoison k n).mem = s.mem := rfl
@[simp] theorem State.addPoison_waits (s : State) (k n : Nat) : (s.addPoison k n).waits = s.waits := rfl
@[simp] theorem State.addPoison_started (s : State) (k n : Nat) : (s.addPoison k n).started = s.started := rfl
@[simp] theorem State.addPoison_ctxs (s : State) (k n : Nat) : (s.addPoison k n).ctxs = s.ctxs := rfl
@[simp] theorem State.addPoison_tlb (s : State) (k n : Nat) : (s.addPoison k n).tlb = s.tlb := rfl
@[simp] theorem State.addPoison_walks (s : State) (k n : Nat) : (s.addPoison k n).walks = s.walks := rfl
@[simp] theorem State.addPoison_binds (s : State) (k n : Nat) : (s.addPoison k n).binds = s.binds := rfl
@[simp] theorem State.addPoison_spareFrames (s : State) (k n : Nat) : (s.addPoison k n).spareFrames = s.spareFrames := rfl
@[simp] theorem State.addPoison_launches (s : State) (k n : Nat) : (s.addPoison k n).launches = s.launches := rfl
@[simp] theorem State.addPoison_nextLid (s : State) (k n : Nat) : (s.addPoison k n).nextLid = s.nextLid := rfl
@[simp] theorem State.addPoison_nextLseq (s : State) (k n : Nat) : (s.addPoison k n).nextLseq = s.nextLseq := rfl
@[simp] theorem State.addPoison_quiesced (s : State) (k n : Nat) : (s.addPoison k n).quiesced = s.quiesced := rfl
@[simp] theorem State.addPoison_tiles (s : State) (k n : Nat) : (s.addPoison k n).tiles = s.tiles := rfl
@[simp] theorem State.addPoison_clusters (s : State) (k n : Nat) : (s.addPoison k n).clusters = s.clusters := rfl
@[simp] theorem State.addPoison_dies (s : State) (k n : Nat) : (s.addPoison k n).dies = s.dies := rfl
@[simp] theorem State.addPoison_links (s : State) (k n : Nat) : (s.addPoison k n).links = s.links := rfl
@[simp] theorem State.addPoison_rings (s : State) (k n : Nat) : (s.addPoison k n).rings = s.rings := rfl
@[simp] theorem State.addPoison_store (s : State) (k n : Nat) : (s.addPoison k n).store = s.store := rfl
@[simp] theorem State.addPoison_nextId (s : State) (k n : Nat) : (s.addPoison k n).nextId = s.nextId := rfl
@[simp] theorem State.addPoison_wdogs (s : State) (k n : Nat) : (s.addPoison k n).wdogs = s.wdogs := rfl
@[simp] theorem State.addPoison_refused (s : State) (k n : Nat) : (s.addPoison k n).refused = s.refused := rfl
@[simp] theorem State.addPoison_l3 (s : State) (k n : Nat) : (s.addPoison k n).l3 = s.l3 := rfl
@[simp] theorem State.addPoison_capQ (s : State) (k n : Nat) : (s.addPoison k n).capQ = s.capQ := rfl
@[simp] theorem State.addPoison_capPrev (s : State) (k n : Nat) : (s.addPoison k n).capPrev = s.capPrev := rfl
@[simp] theorem State.addPoison_floors (s : State) (k n : Nat) : (s.addPoison k n).floors = s.floors := rfl
@[simp] theorem State.addPoison_pbase (s : State) (k n : Nat) : (s.addPoison k n).pbase = s.pbase := rfl
@[simp] theorem State.addPoison_pidle (s : State) (k n : Nat) : (s.addPoison k n).pidle = s.pidle := rfl
@[simp] theorem State.addPoison_energy (s : State) (k n : Nat) : (s.addPoison k n).energy = s.energy := rfl
@[simp] theorem State.addPoison_lastP (s : State) (k n : Nat) : (s.addPoison k n).lastP = s.lastP := rfl
@[simp] theorem State.addPoison_interval (s : State) (k n : Nat) : (s.addPoison k n).interval = s.interval := rfl
@[simp] theorem State.addPoison_bar0 (s : State) (k n : Nat) : (s.addPoison k n).bar0 = s.bar0 := rfl
@[simp] theorem State.addPoison_queues (s : State) (k n : Nat) : (s.addPoison k n).queues = s.queues := rfl
@[simp] theorem State.addPoison_rr (s : State) (k n : Nat) : (s.addPoison k n).rr = s.rr := rfl
@[simp] theorem State.addPoison_evDropped (s : State) (k n : Nat) : (s.addPoison k n).evDropped = s.evDropped := rfl
@[simp] theorem State.addPoison_msix (s : State) (k n : Nat) : (s.addPoison k n).msix = s.msix := rfl
@[simp] theorem State.addPoison_hostOut (s : State) (k n : Nat) : (s.addPoison k n).hostOut = s.hostOut := rfl
@[simp] theorem State.addPoison_mgmtOut (s : State) (k n : Nat) : (s.addPoison k n).mgmtOut = s.mgmtOut := rfl
@[simp] theorem State.addPoison_fabOut (s : State) (k n : Nat) : (s.addPoison k n).fabOut = s.fabOut := rfl
@[simp] theorem State.addPoison_fabFail (s : State) (k n : Nat) : (s.addPoison k n).fabFail = s.fabFail := rfl
@[simp] theorem State.addPoison_nextTag (s : State) (k n : Nat) : (s.addPoison k n).nextTag = s.nextTag := rfl
@[simp] theorem State.addPoison_discarded (s : State) (k n : Nat) : (s.addPoison k n).discarded = s.discarded := rfl
@[simp] theorem State.addPoison_failed (s : State) (k n : Nat) : (s.addPoison k n).failed = s.failed := rfl
@[simp] theorem State.addPoison_cxl (s : State) (k n : Nat) : (s.addPoison k n).cxl = s.cxl := rfl
@[simp] theorem State.addPoison_fw (s : State) (k n : Nat) : (s.addPoison k n).fw = s.fw := rfl
@[simp] theorem State.addPoison_retired (s : State) (k n : Nat) : (s.addPoison k n).retired = s.retired := rfl
@[simp] theorem State.addPoison_clearRetired (s : State) (k n : Nat) : (s.addPoison k n).clearRetired = s.clearRetired := rfl
@[simp] theorem State.addPoison_rowErr (s : State) (k n : Nat) : (s.addPoison k n).rowErr = s.rowErr := rfl
@[simp] theorem State.addPoison_spared (s : State) (k n : Nat) : (s.addPoison k n).spared = s.spared := rfl
@[simp] theorem State.addPoison_unspared (s : State) (k n : Nat) : (s.addPoison k n).unspared = s.unspared := rfl
@[simp] theorem State.addPoison_trained (s : State) (k n : Nat) : (s.addPoison k n).trained = s.trained := rfl

/-! ## modTile -/

@[simp] theorem State.modTile_tick (s : State) (t : TileRef) (g : Tile → Tile) : (s.modTile t g).tick = s.tick := rfl
@[simp] theorem State.modTile_fresh (s : State) (t : TileRef) (g : Tile → Tile) : (s.modTile t g).fresh = s.fresh := rfl
@[simp] theorem State.modTile_agenda (s : State) (t : TileRef) (g : Tile → Tile) : (s.modTile t g).agenda = s.agenda := rfl
@[simp] theorem State.modTile_cur (s : State) (t : TileRef) (g : Tile → Tile) : (s.modTile t g).cur = s.cur := rfl
@[simp] theorem State.modTile_mem (s : State) (t : TileRef) (g : Tile → Tile) : (s.modTile t g).mem = s.mem := rfl
@[simp] theorem State.modTile_poison (s : State) (t : TileRef) (g : Tile → Tile) : (s.modTile t g).poison = s.poison := rfl
@[simp] theorem State.modTile_waits (s : State) (t : TileRef) (g : Tile → Tile) : (s.modTile t g).waits = s.waits := rfl
@[simp] theorem State.modTile_started (s : State) (t : TileRef) (g : Tile → Tile) : (s.modTile t g).started = s.started := rfl
@[simp] theorem State.modTile_ctxs (s : State) (t : TileRef) (g : Tile → Tile) : (s.modTile t g).ctxs = s.ctxs := rfl
@[simp] theorem State.modTile_tlb (s : State) (t : TileRef) (g : Tile → Tile) : (s.modTile t g).tlb = s.tlb := rfl
@[simp] theorem State.modTile_walks (s : State) (t : TileRef) (g : Tile → Tile) : (s.modTile t g).walks = s.walks := rfl
@[simp] theorem State.modTile_binds (s : State) (t : TileRef) (g : Tile → Tile) : (s.modTile t g).binds = s.binds := rfl
@[simp] theorem State.modTile_spareFrames (s : State) (t : TileRef) (g : Tile → Tile) : (s.modTile t g).spareFrames = s.spareFrames := rfl
@[simp] theorem State.modTile_launches (s : State) (t : TileRef) (g : Tile → Tile) : (s.modTile t g).launches = s.launches := rfl
@[simp] theorem State.modTile_nextLid (s : State) (t : TileRef) (g : Tile → Tile) : (s.modTile t g).nextLid = s.nextLid := rfl
@[simp] theorem State.modTile_nextLseq (s : State) (t : TileRef) (g : Tile → Tile) : (s.modTile t g).nextLseq = s.nextLseq := rfl
@[simp] theorem State.modTile_quiesced (s : State) (t : TileRef) (g : Tile → Tile) : (s.modTile t g).quiesced = s.quiesced := rfl
@[simp] theorem State.modTile_clusters (s : State) (t : TileRef) (g : Tile → Tile) : (s.modTile t g).clusters = s.clusters := rfl
@[simp] theorem State.modTile_dies (s : State) (t : TileRef) (g : Tile → Tile) : (s.modTile t g).dies = s.dies := rfl
@[simp] theorem State.modTile_links (s : State) (t : TileRef) (g : Tile → Tile) : (s.modTile t g).links = s.links := rfl
@[simp] theorem State.modTile_rings (s : State) (t : TileRef) (g : Tile → Tile) : (s.modTile t g).rings = s.rings := rfl
@[simp] theorem State.modTile_store (s : State) (t : TileRef) (g : Tile → Tile) : (s.modTile t g).store = s.store := rfl
@[simp] theorem State.modTile_nextId (s : State) (t : TileRef) (g : Tile → Tile) : (s.modTile t g).nextId = s.nextId := rfl
@[simp] theorem State.modTile_wdogs (s : State) (t : TileRef) (g : Tile → Tile) : (s.modTile t g).wdogs = s.wdogs := rfl
@[simp] theorem State.modTile_refused (s : State) (t : TileRef) (g : Tile → Tile) : (s.modTile t g).refused = s.refused := rfl
@[simp] theorem State.modTile_l3 (s : State) (t : TileRef) (g : Tile → Tile) : (s.modTile t g).l3 = s.l3 := rfl
@[simp] theorem State.modTile_capQ (s : State) (t : TileRef) (g : Tile → Tile) : (s.modTile t g).capQ = s.capQ := rfl
@[simp] theorem State.modTile_capPrev (s : State) (t : TileRef) (g : Tile → Tile) : (s.modTile t g).capPrev = s.capPrev := rfl
@[simp] theorem State.modTile_floors (s : State) (t : TileRef) (g : Tile → Tile) : (s.modTile t g).floors = s.floors := rfl
@[simp] theorem State.modTile_pbase (s : State) (t : TileRef) (g : Tile → Tile) : (s.modTile t g).pbase = s.pbase := rfl
@[simp] theorem State.modTile_pidle (s : State) (t : TileRef) (g : Tile → Tile) : (s.modTile t g).pidle = s.pidle := rfl
@[simp] theorem State.modTile_energy (s : State) (t : TileRef) (g : Tile → Tile) : (s.modTile t g).energy = s.energy := rfl
@[simp] theorem State.modTile_lastP (s : State) (t : TileRef) (g : Tile → Tile) : (s.modTile t g).lastP = s.lastP := rfl
@[simp] theorem State.modTile_interval (s : State) (t : TileRef) (g : Tile → Tile) : (s.modTile t g).interval = s.interval := rfl
@[simp] theorem State.modTile_bar0 (s : State) (t : TileRef) (g : Tile → Tile) : (s.modTile t g).bar0 = s.bar0 := rfl
@[simp] theorem State.modTile_queues (s : State) (t : TileRef) (g : Tile → Tile) : (s.modTile t g).queues = s.queues := rfl
@[simp] theorem State.modTile_rr (s : State) (t : TileRef) (g : Tile → Tile) : (s.modTile t g).rr = s.rr := rfl
@[simp] theorem State.modTile_evDropped (s : State) (t : TileRef) (g : Tile → Tile) : (s.modTile t g).evDropped = s.evDropped := rfl
@[simp] theorem State.modTile_msix (s : State) (t : TileRef) (g : Tile → Tile) : (s.modTile t g).msix = s.msix := rfl
@[simp] theorem State.modTile_hostOut (s : State) (t : TileRef) (g : Tile → Tile) : (s.modTile t g).hostOut = s.hostOut := rfl
@[simp] theorem State.modTile_mgmtOut (s : State) (t : TileRef) (g : Tile → Tile) : (s.modTile t g).mgmtOut = s.mgmtOut := rfl
@[simp] theorem State.modTile_fabOut (s : State) (t : TileRef) (g : Tile → Tile) : (s.modTile t g).fabOut = s.fabOut := rfl
@[simp] theorem State.modTile_fabFail (s : State) (t : TileRef) (g : Tile → Tile) : (s.modTile t g).fabFail = s.fabFail := rfl
@[simp] theorem State.modTile_nextTag (s : State) (t : TileRef) (g : Tile → Tile) : (s.modTile t g).nextTag = s.nextTag := rfl
@[simp] theorem State.modTile_discarded (s : State) (t : TileRef) (g : Tile → Tile) : (s.modTile t g).discarded = s.discarded := rfl
@[simp] theorem State.modTile_failed (s : State) (t : TileRef) (g : Tile → Tile) : (s.modTile t g).failed = s.failed := rfl
@[simp] theorem State.modTile_cxl (s : State) (t : TileRef) (g : Tile → Tile) : (s.modTile t g).cxl = s.cxl := rfl
@[simp] theorem State.modTile_fw (s : State) (t : TileRef) (g : Tile → Tile) : (s.modTile t g).fw = s.fw := rfl
@[simp] theorem State.modTile_retired (s : State) (t : TileRef) (g : Tile → Tile) : (s.modTile t g).retired = s.retired := rfl
@[simp] theorem State.modTile_clearRetired (s : State) (t : TileRef) (g : Tile → Tile) : (s.modTile t g).clearRetired = s.clearRetired := rfl
@[simp] theorem State.modTile_rowErr (s : State) (t : TileRef) (g : Tile → Tile) : (s.modTile t g).rowErr = s.rowErr := rfl
@[simp] theorem State.modTile_spared (s : State) (t : TileRef) (g : Tile → Tile) : (s.modTile t g).spared = s.spared := rfl
@[simp] theorem State.modTile_unspared (s : State) (t : TileRef) (g : Tile → Tile) : (s.modTile t g).unspared = s.unspared := rfl
@[simp] theorem State.modTile_trained (s : State) (t : TileRef) (g : Tile → Tile) : (s.modTile t g).trained = s.trained := rfl

/-! ## modDie -/

@[simp] theorem State.modDie_tick (s : State) (d : Nat) (g : Die → Die) : (s.modDie d g).tick = s.tick := rfl
@[simp] theorem State.modDie_fresh (s : State) (d : Nat) (g : Die → Die) : (s.modDie d g).fresh = s.fresh := rfl
@[simp] theorem State.modDie_agenda (s : State) (d : Nat) (g : Die → Die) : (s.modDie d g).agenda = s.agenda := rfl
@[simp] theorem State.modDie_cur (s : State) (d : Nat) (g : Die → Die) : (s.modDie d g).cur = s.cur := rfl
@[simp] theorem State.modDie_mem (s : State) (d : Nat) (g : Die → Die) : (s.modDie d g).mem = s.mem := rfl
@[simp] theorem State.modDie_poison (s : State) (d : Nat) (g : Die → Die) : (s.modDie d g).poison = s.poison := rfl
@[simp] theorem State.modDie_waits (s : State) (d : Nat) (g : Die → Die) : (s.modDie d g).waits = s.waits := rfl
@[simp] theorem State.modDie_started (s : State) (d : Nat) (g : Die → Die) : (s.modDie d g).started = s.started := rfl
@[simp] theorem State.modDie_ctxs (s : State) (d : Nat) (g : Die → Die) : (s.modDie d g).ctxs = s.ctxs := rfl
@[simp] theorem State.modDie_tlb (s : State) (d : Nat) (g : Die → Die) : (s.modDie d g).tlb = s.tlb := rfl
@[simp] theorem State.modDie_walks (s : State) (d : Nat) (g : Die → Die) : (s.modDie d g).walks = s.walks := rfl
@[simp] theorem State.modDie_binds (s : State) (d : Nat) (g : Die → Die) : (s.modDie d g).binds = s.binds := rfl
@[simp] theorem State.modDie_spareFrames (s : State) (d : Nat) (g : Die → Die) : (s.modDie d g).spareFrames = s.spareFrames := rfl
@[simp] theorem State.modDie_launches (s : State) (d : Nat) (g : Die → Die) : (s.modDie d g).launches = s.launches := rfl
@[simp] theorem State.modDie_nextLid (s : State) (d : Nat) (g : Die → Die) : (s.modDie d g).nextLid = s.nextLid := rfl
@[simp] theorem State.modDie_nextLseq (s : State) (d : Nat) (g : Die → Die) : (s.modDie d g).nextLseq = s.nextLseq := rfl
@[simp] theorem State.modDie_quiesced (s : State) (d : Nat) (g : Die → Die) : (s.modDie d g).quiesced = s.quiesced := rfl
@[simp] theorem State.modDie_tiles (s : State) (d : Nat) (g : Die → Die) : (s.modDie d g).tiles = s.tiles := rfl
@[simp] theorem State.modDie_clusters (s : State) (d : Nat) (g : Die → Die) : (s.modDie d g).clusters = s.clusters := rfl
@[simp] theorem State.modDie_links (s : State) (d : Nat) (g : Die → Die) : (s.modDie d g).links = s.links := rfl
@[simp] theorem State.modDie_rings (s : State) (d : Nat) (g : Die → Die) : (s.modDie d g).rings = s.rings := rfl
@[simp] theorem State.modDie_store (s : State) (d : Nat) (g : Die → Die) : (s.modDie d g).store = s.store := rfl
@[simp] theorem State.modDie_nextId (s : State) (d : Nat) (g : Die → Die) : (s.modDie d g).nextId = s.nextId := rfl
@[simp] theorem State.modDie_wdogs (s : State) (d : Nat) (g : Die → Die) : (s.modDie d g).wdogs = s.wdogs := rfl
@[simp] theorem State.modDie_refused (s : State) (d : Nat) (g : Die → Die) : (s.modDie d g).refused = s.refused := rfl
@[simp] theorem State.modDie_l3 (s : State) (d : Nat) (g : Die → Die) : (s.modDie d g).l3 = s.l3 := rfl
@[simp] theorem State.modDie_capQ (s : State) (d : Nat) (g : Die → Die) : (s.modDie d g).capQ = s.capQ := rfl
@[simp] theorem State.modDie_capPrev (s : State) (d : Nat) (g : Die → Die) : (s.modDie d g).capPrev = s.capPrev := rfl
@[simp] theorem State.modDie_floors (s : State) (d : Nat) (g : Die → Die) : (s.modDie d g).floors = s.floors := rfl
@[simp] theorem State.modDie_pbase (s : State) (d : Nat) (g : Die → Die) : (s.modDie d g).pbase = s.pbase := rfl
@[simp] theorem State.modDie_pidle (s : State) (d : Nat) (g : Die → Die) : (s.modDie d g).pidle = s.pidle := rfl
@[simp] theorem State.modDie_energy (s : State) (d : Nat) (g : Die → Die) : (s.modDie d g).energy = s.energy := rfl
@[simp] theorem State.modDie_lastP (s : State) (d : Nat) (g : Die → Die) : (s.modDie d g).lastP = s.lastP := rfl
@[simp] theorem State.modDie_interval (s : State) (d : Nat) (g : Die → Die) : (s.modDie d g).interval = s.interval := rfl
@[simp] theorem State.modDie_bar0 (s : State) (d : Nat) (g : Die → Die) : (s.modDie d g).bar0 = s.bar0 := rfl
@[simp] theorem State.modDie_queues (s : State) (d : Nat) (g : Die → Die) : (s.modDie d g).queues = s.queues := rfl
@[simp] theorem State.modDie_rr (s : State) (d : Nat) (g : Die → Die) : (s.modDie d g).rr = s.rr := rfl
@[simp] theorem State.modDie_evDropped (s : State) (d : Nat) (g : Die → Die) : (s.modDie d g).evDropped = s.evDropped := rfl
@[simp] theorem State.modDie_msix (s : State) (d : Nat) (g : Die → Die) : (s.modDie d g).msix = s.msix := rfl
@[simp] theorem State.modDie_hostOut (s : State) (d : Nat) (g : Die → Die) : (s.modDie d g).hostOut = s.hostOut := rfl
@[simp] theorem State.modDie_mgmtOut (s : State) (d : Nat) (g : Die → Die) : (s.modDie d g).mgmtOut = s.mgmtOut := rfl
@[simp] theorem State.modDie_fabOut (s : State) (d : Nat) (g : Die → Die) : (s.modDie d g).fabOut = s.fabOut := rfl
@[simp] theorem State.modDie_fabFail (s : State) (d : Nat) (g : Die → Die) : (s.modDie d g).fabFail = s.fabFail := rfl
@[simp] theorem State.modDie_nextTag (s : State) (d : Nat) (g : Die → Die) : (s.modDie d g).nextTag = s.nextTag := rfl
@[simp] theorem State.modDie_discarded (s : State) (d : Nat) (g : Die → Die) : (s.modDie d g).discarded = s.discarded := rfl
@[simp] theorem State.modDie_failed (s : State) (d : Nat) (g : Die → Die) : (s.modDie d g).failed = s.failed := rfl
@[simp] theorem State.modDie_cxl (s : State) (d : Nat) (g : Die → Die) : (s.modDie d g).cxl = s.cxl := rfl
@[simp] theorem State.modDie_fw (s : State) (d : Nat) (g : Die → Die) : (s.modDie d g).fw = s.fw := rfl
@[simp] theorem State.modDie_retired (s : State) (d : Nat) (g : Die → Die) : (s.modDie d g).retired = s.retired := rfl
@[simp] theorem State.modDie_clearRetired (s : State) (d : Nat) (g : Die → Die) : (s.modDie d g).clearRetired = s.clearRetired := rfl
@[simp] theorem State.modDie_rowErr (s : State) (d : Nat) (g : Die → Die) : (s.modDie d g).rowErr = s.rowErr := rfl
@[simp] theorem State.modDie_spared (s : State) (d : Nat) (g : Die → Die) : (s.modDie d g).spared = s.spared := rfl
@[simp] theorem State.modDie_unspared (s : State) (d : Nat) (g : Die → Die) : (s.modDie d g).unspared = s.unspared := rfl
@[simp] theorem State.modDie_trained (s : State) (d : Nat) (g : Die → Die) : (s.modDie d g).trained = s.trained := rfl

/-! ## modLink -/

@[simp] theorem State.modLink_tick (s : State) (l : Nat) (g : Link → Link) : (s.modLink l g).tick = s.tick := rfl
@[simp] theorem State.modLink_fresh (s : State) (l : Nat) (g : Link → Link) : (s.modLink l g).fresh = s.fresh := rfl
@[simp] theorem State.modLink_agenda (s : State) (l : Nat) (g : Link → Link) : (s.modLink l g).agenda = s.agenda := rfl
@[simp] theorem State.modLink_cur (s : State) (l : Nat) (g : Link → Link) : (s.modLink l g).cur = s.cur := rfl
@[simp] theorem State.modLink_mem (s : State) (l : Nat) (g : Link → Link) : (s.modLink l g).mem = s.mem := rfl
@[simp] theorem State.modLink_poison (s : State) (l : Nat) (g : Link → Link) : (s.modLink l g).poison = s.poison := rfl
@[simp] theorem State.modLink_waits (s : State) (l : Nat) (g : Link → Link) : (s.modLink l g).waits = s.waits := rfl
@[simp] theorem State.modLink_started (s : State) (l : Nat) (g : Link → Link) : (s.modLink l g).started = s.started := rfl
@[simp] theorem State.modLink_ctxs (s : State) (l : Nat) (g : Link → Link) : (s.modLink l g).ctxs = s.ctxs := rfl
@[simp] theorem State.modLink_tlb (s : State) (l : Nat) (g : Link → Link) : (s.modLink l g).tlb = s.tlb := rfl
@[simp] theorem State.modLink_walks (s : State) (l : Nat) (g : Link → Link) : (s.modLink l g).walks = s.walks := rfl
@[simp] theorem State.modLink_binds (s : State) (l : Nat) (g : Link → Link) : (s.modLink l g).binds = s.binds := rfl
@[simp] theorem State.modLink_spareFrames (s : State) (l : Nat) (g : Link → Link) : (s.modLink l g).spareFrames = s.spareFrames := rfl
@[simp] theorem State.modLink_launches (s : State) (l : Nat) (g : Link → Link) : (s.modLink l g).launches = s.launches := rfl
@[simp] theorem State.modLink_nextLid (s : State) (l : Nat) (g : Link → Link) : (s.modLink l g).nextLid = s.nextLid := rfl
@[simp] theorem State.modLink_nextLseq (s : State) (l : Nat) (g : Link → Link) : (s.modLink l g).nextLseq = s.nextLseq := rfl
@[simp] theorem State.modLink_quiesced (s : State) (l : Nat) (g : Link → Link) : (s.modLink l g).quiesced = s.quiesced := rfl
@[simp] theorem State.modLink_tiles (s : State) (l : Nat) (g : Link → Link) : (s.modLink l g).tiles = s.tiles := rfl
@[simp] theorem State.modLink_clusters (s : State) (l : Nat) (g : Link → Link) : (s.modLink l g).clusters = s.clusters := rfl
@[simp] theorem State.modLink_dies (s : State) (l : Nat) (g : Link → Link) : (s.modLink l g).dies = s.dies := rfl
@[simp] theorem State.modLink_rings (s : State) (l : Nat) (g : Link → Link) : (s.modLink l g).rings = s.rings := rfl
@[simp] theorem State.modLink_store (s : State) (l : Nat) (g : Link → Link) : (s.modLink l g).store = s.store := rfl
@[simp] theorem State.modLink_nextId (s : State) (l : Nat) (g : Link → Link) : (s.modLink l g).nextId = s.nextId := rfl
@[simp] theorem State.modLink_wdogs (s : State) (l : Nat) (g : Link → Link) : (s.modLink l g).wdogs = s.wdogs := rfl
@[simp] theorem State.modLink_refused (s : State) (l : Nat) (g : Link → Link) : (s.modLink l g).refused = s.refused := rfl
@[simp] theorem State.modLink_l3 (s : State) (l : Nat) (g : Link → Link) : (s.modLink l g).l3 = s.l3 := rfl
@[simp] theorem State.modLink_capQ (s : State) (l : Nat) (g : Link → Link) : (s.modLink l g).capQ = s.capQ := rfl
@[simp] theorem State.modLink_capPrev (s : State) (l : Nat) (g : Link → Link) : (s.modLink l g).capPrev = s.capPrev := rfl
@[simp] theorem State.modLink_floors (s : State) (l : Nat) (g : Link → Link) : (s.modLink l g).floors = s.floors := rfl
@[simp] theorem State.modLink_pbase (s : State) (l : Nat) (g : Link → Link) : (s.modLink l g).pbase = s.pbase := rfl
@[simp] theorem State.modLink_pidle (s : State) (l : Nat) (g : Link → Link) : (s.modLink l g).pidle = s.pidle := rfl
@[simp] theorem State.modLink_energy (s : State) (l : Nat) (g : Link → Link) : (s.modLink l g).energy = s.energy := rfl
@[simp] theorem State.modLink_lastP (s : State) (l : Nat) (g : Link → Link) : (s.modLink l g).lastP = s.lastP := rfl
@[simp] theorem State.modLink_interval (s : State) (l : Nat) (g : Link → Link) : (s.modLink l g).interval = s.interval := rfl
@[simp] theorem State.modLink_bar0 (s : State) (l : Nat) (g : Link → Link) : (s.modLink l g).bar0 = s.bar0 := rfl
@[simp] theorem State.modLink_queues (s : State) (l : Nat) (g : Link → Link) : (s.modLink l g).queues = s.queues := rfl
@[simp] theorem State.modLink_rr (s : State) (l : Nat) (g : Link → Link) : (s.modLink l g).rr = s.rr := rfl
@[simp] theorem State.modLink_evDropped (s : State) (l : Nat) (g : Link → Link) : (s.modLink l g).evDropped = s.evDropped := rfl
@[simp] theorem State.modLink_msix (s : State) (l : Nat) (g : Link → Link) : (s.modLink l g).msix = s.msix := rfl
@[simp] theorem State.modLink_hostOut (s : State) (l : Nat) (g : Link → Link) : (s.modLink l g).hostOut = s.hostOut := rfl
@[simp] theorem State.modLink_mgmtOut (s : State) (l : Nat) (g : Link → Link) : (s.modLink l g).mgmtOut = s.mgmtOut := rfl
@[simp] theorem State.modLink_fabOut (s : State) (l : Nat) (g : Link → Link) : (s.modLink l g).fabOut = s.fabOut := rfl
@[simp] theorem State.modLink_fabFail (s : State) (l : Nat) (g : Link → Link) : (s.modLink l g).fabFail = s.fabFail := rfl
@[simp] theorem State.modLink_nextTag (s : State) (l : Nat) (g : Link → Link) : (s.modLink l g).nextTag = s.nextTag := rfl
@[simp] theorem State.modLink_discarded (s : State) (l : Nat) (g : Link → Link) : (s.modLink l g).discarded = s.discarded := rfl
@[simp] theorem State.modLink_failed (s : State) (l : Nat) (g : Link → Link) : (s.modLink l g).failed = s.failed := rfl
@[simp] theorem State.modLink_cxl (s : State) (l : Nat) (g : Link → Link) : (s.modLink l g).cxl = s.cxl := rfl
@[simp] theorem State.modLink_fw (s : State) (l : Nat) (g : Link → Link) : (s.modLink l g).fw = s.fw := rfl
@[simp] theorem State.modLink_retired (s : State) (l : Nat) (g : Link → Link) : (s.modLink l g).retired = s.retired := rfl
@[simp] theorem State.modLink_clearRetired (s : State) (l : Nat) (g : Link → Link) : (s.modLink l g).clearRetired = s.clearRetired := rfl
@[simp] theorem State.modLink_rowErr (s : State) (l : Nat) (g : Link → Link) : (s.modLink l g).rowErr = s.rowErr := rfl
@[simp] theorem State.modLink_spared (s : State) (l : Nat) (g : Link → Link) : (s.modLink l g).spared = s.spared := rfl
@[simp] theorem State.modLink_unspared (s : State) (l : Nat) (g : Link → Link) : (s.modLink l g).unspared = s.unspared := rfl
@[simp] theorem State.modLink_trained (s : State) (l : Nat) (g : Link → Link) : (s.modLink l g).trained = s.trained := rfl

/-! ## modCluster -/

@[simp] theorem State.modCluster_tick (s : State) (c : ClusterRef) (g : Cluster → Cluster) : (s.modCluster c g).tick = s.tick := rfl
@[simp] theorem State.modCluster_fresh (s : State) (c : ClusterRef) (g : Cluster → Cluster) : (s.modCluster c g).fresh = s.fresh := rfl
@[simp] theorem State.modCluster_agenda (s : State) (c : ClusterRef) (g : Cluster → Cluster) : (s.modCluster c g).agenda = s.agenda := rfl
@[simp] theorem State.modCluster_cur (s : State) (c : ClusterRef) (g : Cluster → Cluster) : (s.modCluster c g).cur = s.cur := rfl
@[simp] theorem State.modCluster_mem (s : State) (c : ClusterRef) (g : Cluster → Cluster) : (s.modCluster c g).mem = s.mem := rfl
@[simp] theorem State.modCluster_poison (s : State) (c : ClusterRef) (g : Cluster → Cluster) : (s.modCluster c g).poison = s.poison := rfl
@[simp] theorem State.modCluster_waits (s : State) (c : ClusterRef) (g : Cluster → Cluster) : (s.modCluster c g).waits = s.waits := rfl
@[simp] theorem State.modCluster_started (s : State) (c : ClusterRef) (g : Cluster → Cluster) : (s.modCluster c g).started = s.started := rfl
@[simp] theorem State.modCluster_ctxs (s : State) (c : ClusterRef) (g : Cluster → Cluster) : (s.modCluster c g).ctxs = s.ctxs := rfl
@[simp] theorem State.modCluster_tlb (s : State) (c : ClusterRef) (g : Cluster → Cluster) : (s.modCluster c g).tlb = s.tlb := rfl
@[simp] theorem State.modCluster_walks (s : State) (c : ClusterRef) (g : Cluster → Cluster) : (s.modCluster c g).walks = s.walks := rfl
@[simp] theorem State.modCluster_binds (s : State) (c : ClusterRef) (g : Cluster → Cluster) : (s.modCluster c g).binds = s.binds := rfl
@[simp] theorem State.modCluster_spareFrames (s : State) (c : ClusterRef) (g : Cluster → Cluster) : (s.modCluster c g).spareFrames = s.spareFrames := rfl
@[simp] theorem State.modCluster_launches (s : State) (c : ClusterRef) (g : Cluster → Cluster) : (s.modCluster c g).launches = s.launches := rfl
@[simp] theorem State.modCluster_nextLid (s : State) (c : ClusterRef) (g : Cluster → Cluster) : (s.modCluster c g).nextLid = s.nextLid := rfl
@[simp] theorem State.modCluster_nextLseq (s : State) (c : ClusterRef) (g : Cluster → Cluster) : (s.modCluster c g).nextLseq = s.nextLseq := rfl
@[simp] theorem State.modCluster_quiesced (s : State) (c : ClusterRef) (g : Cluster → Cluster) : (s.modCluster c g).quiesced = s.quiesced := rfl
@[simp] theorem State.modCluster_tiles (s : State) (c : ClusterRef) (g : Cluster → Cluster) : (s.modCluster c g).tiles = s.tiles := rfl
@[simp] theorem State.modCluster_dies (s : State) (c : ClusterRef) (g : Cluster → Cluster) : (s.modCluster c g).dies = s.dies := rfl
@[simp] theorem State.modCluster_links (s : State) (c : ClusterRef) (g : Cluster → Cluster) : (s.modCluster c g).links = s.links := rfl
@[simp] theorem State.modCluster_rings (s : State) (c : ClusterRef) (g : Cluster → Cluster) : (s.modCluster c g).rings = s.rings := rfl
@[simp] theorem State.modCluster_store (s : State) (c : ClusterRef) (g : Cluster → Cluster) : (s.modCluster c g).store = s.store := rfl
@[simp] theorem State.modCluster_nextId (s : State) (c : ClusterRef) (g : Cluster → Cluster) : (s.modCluster c g).nextId = s.nextId := rfl
@[simp] theorem State.modCluster_wdogs (s : State) (c : ClusterRef) (g : Cluster → Cluster) : (s.modCluster c g).wdogs = s.wdogs := rfl
@[simp] theorem State.modCluster_refused (s : State) (c : ClusterRef) (g : Cluster → Cluster) : (s.modCluster c g).refused = s.refused := rfl
@[simp] theorem State.modCluster_l3 (s : State) (c : ClusterRef) (g : Cluster → Cluster) : (s.modCluster c g).l3 = s.l3 := rfl
@[simp] theorem State.modCluster_capQ (s : State) (c : ClusterRef) (g : Cluster → Cluster) : (s.modCluster c g).capQ = s.capQ := rfl
@[simp] theorem State.modCluster_capPrev (s : State) (c : ClusterRef) (g : Cluster → Cluster) : (s.modCluster c g).capPrev = s.capPrev := rfl
@[simp] theorem State.modCluster_floors (s : State) (c : ClusterRef) (g : Cluster → Cluster) : (s.modCluster c g).floors = s.floors := rfl
@[simp] theorem State.modCluster_pbase (s : State) (c : ClusterRef) (g : Cluster → Cluster) : (s.modCluster c g).pbase = s.pbase := rfl
@[simp] theorem State.modCluster_pidle (s : State) (c : ClusterRef) (g : Cluster → Cluster) : (s.modCluster c g).pidle = s.pidle := rfl
@[simp] theorem State.modCluster_energy (s : State) (c : ClusterRef) (g : Cluster → Cluster) : (s.modCluster c g).energy = s.energy := rfl
@[simp] theorem State.modCluster_lastP (s : State) (c : ClusterRef) (g : Cluster → Cluster) : (s.modCluster c g).lastP = s.lastP := rfl
@[simp] theorem State.modCluster_interval (s : State) (c : ClusterRef) (g : Cluster → Cluster) : (s.modCluster c g).interval = s.interval := rfl
@[simp] theorem State.modCluster_bar0 (s : State) (c : ClusterRef) (g : Cluster → Cluster) : (s.modCluster c g).bar0 = s.bar0 := rfl
@[simp] theorem State.modCluster_queues (s : State) (c : ClusterRef) (g : Cluster → Cluster) : (s.modCluster c g).queues = s.queues := rfl
@[simp] theorem State.modCluster_rr (s : State) (c : ClusterRef) (g : Cluster → Cluster) : (s.modCluster c g).rr = s.rr := rfl
@[simp] theorem State.modCluster_evDropped (s : State) (c : ClusterRef) (g : Cluster → Cluster) : (s.modCluster c g).evDropped = s.evDropped := rfl
@[simp] theorem State.modCluster_msix (s : State) (c : ClusterRef) (g : Cluster → Cluster) : (s.modCluster c g).msix = s.msix := rfl
@[simp] theorem State.modCluster_hostOut (s : State) (c : ClusterRef) (g : Cluster → Cluster) : (s.modCluster c g).hostOut = s.hostOut := rfl
@[simp] theorem State.modCluster_mgmtOut (s : State) (c : ClusterRef) (g : Cluster → Cluster) : (s.modCluster c g).mgmtOut = s.mgmtOut := rfl
@[simp] theorem State.modCluster_fabOut (s : State) (c : ClusterRef) (g : Cluster → Cluster) : (s.modCluster c g).fabOut = s.fabOut := rfl
@[simp] theorem State.modCluster_fabFail (s : State) (c : ClusterRef) (g : Cluster → Cluster) : (s.modCluster c g).fabFail = s.fabFail := rfl
@[simp] theorem State.modCluster_nextTag (s : State) (c : ClusterRef) (g : Cluster → Cluster) : (s.modCluster c g).nextTag = s.nextTag := rfl
@[simp] theorem State.modCluster_discarded (s : State) (c : ClusterRef) (g : Cluster → Cluster) : (s.modCluster c g).discarded = s.discarded := rfl
@[simp] theorem State.modCluster_failed (s : State) (c : ClusterRef) (g : Cluster → Cluster) : (s.modCluster c g).failed = s.failed := rfl
@[simp] theorem State.modCluster_cxl (s : State) (c : ClusterRef) (g : Cluster → Cluster) : (s.modCluster c g).cxl = s.cxl := rfl
@[simp] theorem State.modCluster_fw (s : State) (c : ClusterRef) (g : Cluster → Cluster) : (s.modCluster c g).fw = s.fw := rfl
@[simp] theorem State.modCluster_retired (s : State) (c : ClusterRef) (g : Cluster → Cluster) : (s.modCluster c g).retired = s.retired := rfl
@[simp] theorem State.modCluster_clearRetired (s : State) (c : ClusterRef) (g : Cluster → Cluster) : (s.modCluster c g).clearRetired = s.clearRetired := rfl
@[simp] theorem State.modCluster_rowErr (s : State) (c : ClusterRef) (g : Cluster → Cluster) : (s.modCluster c g).rowErr = s.rowErr := rfl
@[simp] theorem State.modCluster_spared (s : State) (c : ClusterRef) (g : Cluster → Cluster) : (s.modCluster c g).spared = s.spared := rfl
@[simp] theorem State.modCluster_unspared (s : State) (c : ClusterRef) (g : Cluster → Cluster) : (s.modCluster c g).unspared = s.unspared := rfl
@[simp] theorem State.modCluster_trained (s : State) (c : ClusterRef) (g : Cluster → Cluster) : (s.modCluster c g).trained = s.trained := rfl

/-! ## setBlock -/

@[simp] theorem State.setBlock_tick (s : State) (b : BlockRef) (x : Block) : (s.setBlock b x).tick = s.tick := by
  unfold State.setBlock; split <;> simp
@[simp] theorem State.setBlock_fresh (s : State) (b : BlockRef) (x : Block) : (s.setBlock b x).fresh = s.fresh := by
  unfold State.setBlock; split <;> simp
@[simp] theorem State.setBlock_agenda (s : State) (b : BlockRef) (x : Block) : (s.setBlock b x).agenda = s.agenda := by
  unfold State.setBlock; split <;> simp
@[simp] theorem State.setBlock_cur (s : State) (b : BlockRef) (x : Block) : (s.setBlock b x).cur = s.cur := by
  unfold State.setBlock; split <;> simp
@[simp] theorem State.setBlock_mem (s : State) (b : BlockRef) (x : Block) : (s.setBlock b x).mem = s.mem := by
  unfold State.setBlock; split <;> simp
@[simp] theorem State.setBlock_poison (s : State) (b : BlockRef) (x : Block) : (s.setBlock b x).poison = s.poison := by
  unfold State.setBlock; split <;> simp
@[simp] theorem State.setBlock_waits (s : State) (b : BlockRef) (x : Block) : (s.setBlock b x).waits = s.waits := by
  unfold State.setBlock; split <;> simp
@[simp] theorem State.setBlock_started (s : State) (b : BlockRef) (x : Block) : (s.setBlock b x).started = s.started := by
  unfold State.setBlock; split <;> simp
@[simp] theorem State.setBlock_ctxs (s : State) (b : BlockRef) (x : Block) : (s.setBlock b x).ctxs = s.ctxs := by
  unfold State.setBlock; split <;> simp
@[simp] theorem State.setBlock_tlb (s : State) (b : BlockRef) (x : Block) : (s.setBlock b x).tlb = s.tlb := by
  unfold State.setBlock; split <;> simp
@[simp] theorem State.setBlock_walks (s : State) (b : BlockRef) (x : Block) : (s.setBlock b x).walks = s.walks := by
  unfold State.setBlock; split <;> simp
@[simp] theorem State.setBlock_binds (s : State) (b : BlockRef) (x : Block) : (s.setBlock b x).binds = s.binds := by
  unfold State.setBlock; split <;> simp
@[simp] theorem State.setBlock_spareFrames (s : State) (b : BlockRef) (x : Block) : (s.setBlock b x).spareFrames = s.spareFrames := by
  unfold State.setBlock; split <;> simp
@[simp] theorem State.setBlock_nextLid (s : State) (b : BlockRef) (x : Block) : (s.setBlock b x).nextLid = s.nextLid := by
  unfold State.setBlock; split <;> simp
@[simp] theorem State.setBlock_nextLseq (s : State) (b : BlockRef) (x : Block) : (s.setBlock b x).nextLseq = s.nextLseq := by
  unfold State.setBlock; split <;> simp
@[simp] theorem State.setBlock_quiesced (s : State) (b : BlockRef) (x : Block) : (s.setBlock b x).quiesced = s.quiesced := by
  unfold State.setBlock; split <;> simp
@[simp] theorem State.setBlock_tiles (s : State) (b : BlockRef) (x : Block) : (s.setBlock b x).tiles = s.tiles := by
  unfold State.setBlock; split <;> simp
@[simp] theorem State.setBlock_clusters (s : State) (b : BlockRef) (x : Block) : (s.setBlock b x).clusters = s.clusters := by
  unfold State.setBlock; split <;> simp
@[simp] theorem State.setBlock_dies (s : State) (b : BlockRef) (x : Block) : (s.setBlock b x).dies = s.dies := by
  unfold State.setBlock; split <;> simp
@[simp] theorem State.setBlock_links (s : State) (b : BlockRef) (x : Block) : (s.setBlock b x).links = s.links := by
  unfold State.setBlock; split <;> simp
@[simp] theorem State.setBlock_rings (s : State) (b : BlockRef) (x : Block) : (s.setBlock b x).rings = s.rings := by
  unfold State.setBlock; split <;> simp
@[simp] theorem State.setBlock_store (s : State) (b : BlockRef) (x : Block) : (s.setBlock b x).store = s.store := by
  unfold State.setBlock; split <;> simp
@[simp] theorem State.setBlock_nextId (s : State) (b : BlockRef) (x : Block) : (s.setBlock b x).nextId = s.nextId := by
  unfold State.setBlock; split <;> simp
@[simp] theorem State.setBlock_wdogs (s : State) (b : BlockRef) (x : Block) : (s.setBlock b x).wdogs = s.wdogs := by
  unfold State.setBlock; split <;> simp
@[simp] theorem State.setBlock_refused (s : State) (b : BlockRef) (x : Block) : (s.setBlock b x).refused = s.refused := by
  unfold State.setBlock; split <;> simp
@[simp] theorem State.setBlock_l3 (s : State) (b : BlockRef) (x : Block) : (s.setBlock b x).l3 = s.l3 := by
  unfold State.setBlock; split <;> simp
@[simp] theorem State.setBlock_capQ (s : State) (b : BlockRef) (x : Block) : (s.setBlock b x).capQ = s.capQ := by
  unfold State.setBlock; split <;> simp
@[simp] theorem State.setBlock_capPrev (s : State) (b : BlockRef) (x : Block) : (s.setBlock b x).capPrev = s.capPrev := by
  unfold State.setBlock; split <;> simp
@[simp] theorem State.setBlock_floors (s : State) (b : BlockRef) (x : Block) : (s.setBlock b x).floors = s.floors := by
  unfold State.setBlock; split <;> simp
@[simp] theorem State.setBlock_pbase (s : State) (b : BlockRef) (x : Block) : (s.setBlock b x).pbase = s.pbase := by
  unfold State.setBlock; split <;> simp
@[simp] theorem State.setBlock_pidle (s : State) (b : BlockRef) (x : Block) : (s.setBlock b x).pidle = s.pidle := by
  unfold State.setBlock; split <;> simp
@[simp] theorem State.setBlock_energy (s : State) (b : BlockRef) (x : Block) : (s.setBlock b x).energy = s.energy := by
  unfold State.setBlock; split <;> simp
@[simp] theorem State.setBlock_lastP (s : State) (b : BlockRef) (x : Block) : (s.setBlock b x).lastP = s.lastP := by
  unfold State.setBlock; split <;> simp
@[simp] theorem State.setBlock_interval (s : State) (b : BlockRef) (x : Block) : (s.setBlock b x).interval = s.interval := by
  unfold State.setBlock; split <;> simp
@[simp] theorem State.setBlock_bar0 (s : State) (b : BlockRef) (x : Block) : (s.setBlock b x).bar0 = s.bar0 := by
  unfold State.setBlock; split <;> simp
@[simp] theorem State.setBlock_queues (s : State) (b : BlockRef) (x : Block) : (s.setBlock b x).queues = s.queues := by
  unfold State.setBlock; split <;> simp
@[simp] theorem State.setBlock_rr (s : State) (b : BlockRef) (x : Block) : (s.setBlock b x).rr = s.rr := by
  unfold State.setBlock; split <;> simp
@[simp] theorem State.setBlock_evDropped (s : State) (b : BlockRef) (x : Block) : (s.setBlock b x).evDropped = s.evDropped := by
  unfold State.setBlock; split <;> simp
@[simp] theorem State.setBlock_msix (s : State) (b : BlockRef) (x : Block) : (s.setBlock b x).msix = s.msix := by
  unfold State.setBlock; split <;> simp
@[simp] theorem State.setBlock_hostOut (s : State) (b : BlockRef) (x : Block) : (s.setBlock b x).hostOut = s.hostOut := by
  unfold State.setBlock; split <;> simp
@[simp] theorem State.setBlock_mgmtOut (s : State) (b : BlockRef) (x : Block) : (s.setBlock b x).mgmtOut = s.mgmtOut := by
  unfold State.setBlock; split <;> simp
@[simp] theorem State.setBlock_fabOut (s : State) (b : BlockRef) (x : Block) : (s.setBlock b x).fabOut = s.fabOut := by
  unfold State.setBlock; split <;> simp
@[simp] theorem State.setBlock_fabFail (s : State) (b : BlockRef) (x : Block) : (s.setBlock b x).fabFail = s.fabFail := by
  unfold State.setBlock; split <;> simp
@[simp] theorem State.setBlock_nextTag (s : State) (b : BlockRef) (x : Block) : (s.setBlock b x).nextTag = s.nextTag := by
  unfold State.setBlock; split <;> simp
@[simp] theorem State.setBlock_discarded (s : State) (b : BlockRef) (x : Block) : (s.setBlock b x).discarded = s.discarded := by
  unfold State.setBlock; split <;> simp
@[simp] theorem State.setBlock_failed (s : State) (b : BlockRef) (x : Block) : (s.setBlock b x).failed = s.failed := by
  unfold State.setBlock; split <;> simp
@[simp] theorem State.setBlock_cxl (s : State) (b : BlockRef) (x : Block) : (s.setBlock b x).cxl = s.cxl := by
  unfold State.setBlock; split <;> simp
@[simp] theorem State.setBlock_fw (s : State) (b : BlockRef) (x : Block) : (s.setBlock b x).fw = s.fw := by
  unfold State.setBlock; split <;> simp
@[simp] theorem State.setBlock_retired (s : State) (b : BlockRef) (x : Block) : (s.setBlock b x).retired = s.retired := by
  unfold State.setBlock; split <;> simp
@[simp] theorem State.setBlock_clearRetired (s : State) (b : BlockRef) (x : Block) : (s.setBlock b x).clearRetired = s.clearRetired := by
  unfold State.setBlock; split <;> simp
@[simp] theorem State.setBlock_rowErr (s : State) (b : BlockRef) (x : Block) : (s.setBlock b x).rowErr = s.rowErr := by
  unfold State.setBlock; split <;> simp
@[simp] theorem State.setBlock_spared (s : State) (b : BlockRef) (x : Block) : (s.setBlock b x).spared = s.spared := by
  unfold State.setBlock; split <;> simp
@[simp] theorem State.setBlock_unspared (s : State) (b : BlockRef) (x : Block) : (s.setBlock b x).unspared = s.unspared := by
  unfold State.setBlock; split <;> simp
@[simp] theorem State.setBlock_trained (s : State) (b : BlockRef) (x : Block) : (s.setBlock b x).trained = s.trained := by
  unfold State.setBlock; split <;> simp

/-! ## setWave -/

@[simp] theorem State.setWave_tick (s : State) (w : WaveRef) (x : Wave) : (s.setWave w x).tick = s.tick := by
  unfold State.setWave; split <;> simp
@[simp] theorem State.setWave_fresh (s : State) (w : WaveRef) (x : Wave) : (s.setWave w x).fresh = s.fresh := by
  unfold State.setWave; split <;> simp
@[simp] theorem State.setWave_agenda (s : State) (w : WaveRef) (x : Wave) : (s.setWave w x).agenda = s.agenda := by
  unfold State.setWave; split <;> simp
@[simp] theorem State.setWave_cur (s : State) (w : WaveRef) (x : Wave) : (s.setWave w x).cur = s.cur := by
  unfold State.setWave; split <;> simp
@[simp] theorem State.setWave_mem (s : State) (w : WaveRef) (x : Wave) : (s.setWave w x).mem = s.mem := by
  unfold State.setWave; split <;> simp
@[simp] theorem State.setWave_poison (s : State) (w : WaveRef) (x : Wave) : (s.setWave w x).poison = s.poison := by
  unfold State.setWave; split <;> simp
@[simp] theorem State.setWave_waits (s : State) (w : WaveRef) (x : Wave) : (s.setWave w x).waits = s.waits := by
  unfold State.setWave; split <;> simp
@[simp] theorem State.setWave_started (s : State) (w : WaveRef) (x : Wave) : (s.setWave w x).started = s.started := by
  unfold State.setWave; split <;> simp
@[simp] theorem State.setWave_ctxs (s : State) (w : WaveRef) (x : Wave) : (s.setWave w x).ctxs = s.ctxs := by
  unfold State.setWave; split <;> simp
@[simp] theorem State.setWave_tlb (s : State) (w : WaveRef) (x : Wave) : (s.setWave w x).tlb = s.tlb := by
  unfold State.setWave; split <;> simp
@[simp] theorem State.setWave_walks (s : State) (w : WaveRef) (x : Wave) : (s.setWave w x).walks = s.walks := by
  unfold State.setWave; split <;> simp
@[simp] theorem State.setWave_binds (s : State) (w : WaveRef) (x : Wave) : (s.setWave w x).binds = s.binds := by
  unfold State.setWave; split <;> simp
@[simp] theorem State.setWave_spareFrames (s : State) (w : WaveRef) (x : Wave) : (s.setWave w x).spareFrames = s.spareFrames := by
  unfold State.setWave; split <;> simp
@[simp] theorem State.setWave_nextLid (s : State) (w : WaveRef) (x : Wave) : (s.setWave w x).nextLid = s.nextLid := by
  unfold State.setWave; split <;> simp
@[simp] theorem State.setWave_nextLseq (s : State) (w : WaveRef) (x : Wave) : (s.setWave w x).nextLseq = s.nextLseq := by
  unfold State.setWave; split <;> simp
@[simp] theorem State.setWave_quiesced (s : State) (w : WaveRef) (x : Wave) : (s.setWave w x).quiesced = s.quiesced := by
  unfold State.setWave; split <;> simp
@[simp] theorem State.setWave_tiles (s : State) (w : WaveRef) (x : Wave) : (s.setWave w x).tiles = s.tiles := by
  unfold State.setWave; split <;> simp
@[simp] theorem State.setWave_clusters (s : State) (w : WaveRef) (x : Wave) : (s.setWave w x).clusters = s.clusters := by
  unfold State.setWave; split <;> simp
@[simp] theorem State.setWave_dies (s : State) (w : WaveRef) (x : Wave) : (s.setWave w x).dies = s.dies := by
  unfold State.setWave; split <;> simp
@[simp] theorem State.setWave_links (s : State) (w : WaveRef) (x : Wave) : (s.setWave w x).links = s.links := by
  unfold State.setWave; split <;> simp
@[simp] theorem State.setWave_rings (s : State) (w : WaveRef) (x : Wave) : (s.setWave w x).rings = s.rings := by
  unfold State.setWave; split <;> simp
@[simp] theorem State.setWave_store (s : State) (w : WaveRef) (x : Wave) : (s.setWave w x).store = s.store := by
  unfold State.setWave; split <;> simp
@[simp] theorem State.setWave_nextId (s : State) (w : WaveRef) (x : Wave) : (s.setWave w x).nextId = s.nextId := by
  unfold State.setWave; split <;> simp
@[simp] theorem State.setWave_wdogs (s : State) (w : WaveRef) (x : Wave) : (s.setWave w x).wdogs = s.wdogs := by
  unfold State.setWave; split <;> simp
@[simp] theorem State.setWave_refused (s : State) (w : WaveRef) (x : Wave) : (s.setWave w x).refused = s.refused := by
  unfold State.setWave; split <;> simp
@[simp] theorem State.setWave_l3 (s : State) (w : WaveRef) (x : Wave) : (s.setWave w x).l3 = s.l3 := by
  unfold State.setWave; split <;> simp
@[simp] theorem State.setWave_capQ (s : State) (w : WaveRef) (x : Wave) : (s.setWave w x).capQ = s.capQ := by
  unfold State.setWave; split <;> simp
@[simp] theorem State.setWave_capPrev (s : State) (w : WaveRef) (x : Wave) : (s.setWave w x).capPrev = s.capPrev := by
  unfold State.setWave; split <;> simp
@[simp] theorem State.setWave_floors (s : State) (w : WaveRef) (x : Wave) : (s.setWave w x).floors = s.floors := by
  unfold State.setWave; split <;> simp
@[simp] theorem State.setWave_pbase (s : State) (w : WaveRef) (x : Wave) : (s.setWave w x).pbase = s.pbase := by
  unfold State.setWave; split <;> simp
@[simp] theorem State.setWave_pidle (s : State) (w : WaveRef) (x : Wave) : (s.setWave w x).pidle = s.pidle := by
  unfold State.setWave; split <;> simp
@[simp] theorem State.setWave_energy (s : State) (w : WaveRef) (x : Wave) : (s.setWave w x).energy = s.energy := by
  unfold State.setWave; split <;> simp
@[simp] theorem State.setWave_lastP (s : State) (w : WaveRef) (x : Wave) : (s.setWave w x).lastP = s.lastP := by
  unfold State.setWave; split <;> simp
@[simp] theorem State.setWave_interval (s : State) (w : WaveRef) (x : Wave) : (s.setWave w x).interval = s.interval := by
  unfold State.setWave; split <;> simp
@[simp] theorem State.setWave_bar0 (s : State) (w : WaveRef) (x : Wave) : (s.setWave w x).bar0 = s.bar0 := by
  unfold State.setWave; split <;> simp
@[simp] theorem State.setWave_queues (s : State) (w : WaveRef) (x : Wave) : (s.setWave w x).queues = s.queues := by
  unfold State.setWave; split <;> simp
@[simp] theorem State.setWave_rr (s : State) (w : WaveRef) (x : Wave) : (s.setWave w x).rr = s.rr := by
  unfold State.setWave; split <;> simp
@[simp] theorem State.setWave_evDropped (s : State) (w : WaveRef) (x : Wave) : (s.setWave w x).evDropped = s.evDropped := by
  unfold State.setWave; split <;> simp
@[simp] theorem State.setWave_msix (s : State) (w : WaveRef) (x : Wave) : (s.setWave w x).msix = s.msix := by
  unfold State.setWave; split <;> simp
@[simp] theorem State.setWave_hostOut (s : State) (w : WaveRef) (x : Wave) : (s.setWave w x).hostOut = s.hostOut := by
  unfold State.setWave; split <;> simp
@[simp] theorem State.setWave_mgmtOut (s : State) (w : WaveRef) (x : Wave) : (s.setWave w x).mgmtOut = s.mgmtOut := by
  unfold State.setWave; split <;> simp
@[simp] theorem State.setWave_fabOut (s : State) (w : WaveRef) (x : Wave) : (s.setWave w x).fabOut = s.fabOut := by
  unfold State.setWave; split <;> simp
@[simp] theorem State.setWave_fabFail (s : State) (w : WaveRef) (x : Wave) : (s.setWave w x).fabFail = s.fabFail := by
  unfold State.setWave; split <;> simp
@[simp] theorem State.setWave_nextTag (s : State) (w : WaveRef) (x : Wave) : (s.setWave w x).nextTag = s.nextTag := by
  unfold State.setWave; split <;> simp
@[simp] theorem State.setWave_discarded (s : State) (w : WaveRef) (x : Wave) : (s.setWave w x).discarded = s.discarded := by
  unfold State.setWave; split <;> simp
@[simp] theorem State.setWave_failed (s : State) (w : WaveRef) (x : Wave) : (s.setWave w x).failed = s.failed := by
  unfold State.setWave; split <;> simp
@[simp] theorem State.setWave_cxl (s : State) (w : WaveRef) (x : Wave) : (s.setWave w x).cxl = s.cxl := by
  unfold State.setWave; split <;> simp
@[simp] theorem State.setWave_fw (s : State) (w : WaveRef) (x : Wave) : (s.setWave w x).fw = s.fw := by
  unfold State.setWave; split <;> simp
@[simp] theorem State.setWave_retired (s : State) (w : WaveRef) (x : Wave) : (s.setWave w x).retired = s.retired := by
  unfold State.setWave; split <;> simp
@[simp] theorem State.setWave_clearRetired (s : State) (w : WaveRef) (x : Wave) : (s.setWave w x).clearRetired = s.clearRetired := by
  unfold State.setWave; split <;> simp
@[simp] theorem State.setWave_rowErr (s : State) (w : WaveRef) (x : Wave) : (s.setWave w x).rowErr = s.rowErr := by
  unfold State.setWave; split <;> simp
@[simp] theorem State.setWave_spared (s : State) (w : WaveRef) (x : Wave) : (s.setWave w x).spared = s.spared := by
  unfold State.setWave; split <;> simp
@[simp] theorem State.setWave_unspared (s : State) (w : WaveRef) (x : Wave) : (s.setWave w x).unspared = s.unspared := by
  unfold State.setWave; split <;> simp
@[simp] theorem State.setWave_trained (s : State) (w : WaveRef) (x : Wave) : (s.setWave w x).trained = s.trained := by
  unfold State.setWave; split <;> simp

/-! ## modWave -/

@[simp] theorem State.modWave_tick (s : State) (w : WaveRef) (g : Wave → Wave) : (s.modWave w g).tick = s.tick := by
  unfold State.modWave; split <;> simp
@[simp] theorem State.modWave_fresh (s : State) (w : WaveRef) (g : Wave → Wave) : (s.modWave w g).fresh = s.fresh := by
  unfold State.modWave; split <;> simp
@[simp] theorem State.modWave_agenda (s : State) (w : WaveRef) (g : Wave → Wave) : (s.modWave w g).agenda = s.agenda := by
  unfold State.modWave; split <;> simp
@[simp] theorem State.modWave_cur (s : State) (w : WaveRef) (g : Wave → Wave) : (s.modWave w g).cur = s.cur := by
  unfold State.modWave; split <;> simp
@[simp] theorem State.modWave_mem (s : State) (w : WaveRef) (g : Wave → Wave) : (s.modWave w g).mem = s.mem := by
  unfold State.modWave; split <;> simp
@[simp] theorem State.modWave_poison (s : State) (w : WaveRef) (g : Wave → Wave) : (s.modWave w g).poison = s.poison := by
  unfold State.modWave; split <;> simp
@[simp] theorem State.modWave_waits (s : State) (w : WaveRef) (g : Wave → Wave) : (s.modWave w g).waits = s.waits := by
  unfold State.modWave; split <;> simp
@[simp] theorem State.modWave_started (s : State) (w : WaveRef) (g : Wave → Wave) : (s.modWave w g).started = s.started := by
  unfold State.modWave; split <;> simp
@[simp] theorem State.modWave_ctxs (s : State) (w : WaveRef) (g : Wave → Wave) : (s.modWave w g).ctxs = s.ctxs := by
  unfold State.modWave; split <;> simp
@[simp] theorem State.modWave_tlb (s : State) (w : WaveRef) (g : Wave → Wave) : (s.modWave w g).tlb = s.tlb := by
  unfold State.modWave; split <;> simp
@[simp] theorem State.modWave_walks (s : State) (w : WaveRef) (g : Wave → Wave) : (s.modWave w g).walks = s.walks := by
  unfold State.modWave; split <;> simp
@[simp] theorem State.modWave_binds (s : State) (w : WaveRef) (g : Wave → Wave) : (s.modWave w g).binds = s.binds := by
  unfold State.modWave; split <;> simp
@[simp] theorem State.modWave_spareFrames (s : State) (w : WaveRef) (g : Wave → Wave) : (s.modWave w g).spareFrames = s.spareFrames := by
  unfold State.modWave; split <;> simp
@[simp] theorem State.modWave_nextLid (s : State) (w : WaveRef) (g : Wave → Wave) : (s.modWave w g).nextLid = s.nextLid := by
  unfold State.modWave; split <;> simp
@[simp] theorem State.modWave_nextLseq (s : State) (w : WaveRef) (g : Wave → Wave) : (s.modWave w g).nextLseq = s.nextLseq := by
  unfold State.modWave; split <;> simp
@[simp] theorem State.modWave_quiesced (s : State) (w : WaveRef) (g : Wave → Wave) : (s.modWave w g).quiesced = s.quiesced := by
  unfold State.modWave; split <;> simp
@[simp] theorem State.modWave_tiles (s : State) (w : WaveRef) (g : Wave → Wave) : (s.modWave w g).tiles = s.tiles := by
  unfold State.modWave; split <;> simp
@[simp] theorem State.modWave_clusters (s : State) (w : WaveRef) (g : Wave → Wave) : (s.modWave w g).clusters = s.clusters := by
  unfold State.modWave; split <;> simp
@[simp] theorem State.modWave_dies (s : State) (w : WaveRef) (g : Wave → Wave) : (s.modWave w g).dies = s.dies := by
  unfold State.modWave; split <;> simp
@[simp] theorem State.modWave_links (s : State) (w : WaveRef) (g : Wave → Wave) : (s.modWave w g).links = s.links := by
  unfold State.modWave; split <;> simp
@[simp] theorem State.modWave_rings (s : State) (w : WaveRef) (g : Wave → Wave) : (s.modWave w g).rings = s.rings := by
  unfold State.modWave; split <;> simp
@[simp] theorem State.modWave_store (s : State) (w : WaveRef) (g : Wave → Wave) : (s.modWave w g).store = s.store := by
  unfold State.modWave; split <;> simp
@[simp] theorem State.modWave_nextId (s : State) (w : WaveRef) (g : Wave → Wave) : (s.modWave w g).nextId = s.nextId := by
  unfold State.modWave; split <;> simp
@[simp] theorem State.modWave_wdogs (s : State) (w : WaveRef) (g : Wave → Wave) : (s.modWave w g).wdogs = s.wdogs := by
  unfold State.modWave; split <;> simp
@[simp] theorem State.modWave_refused (s : State) (w : WaveRef) (g : Wave → Wave) : (s.modWave w g).refused = s.refused := by
  unfold State.modWave; split <;> simp
@[simp] theorem State.modWave_l3 (s : State) (w : WaveRef) (g : Wave → Wave) : (s.modWave w g).l3 = s.l3 := by
  unfold State.modWave; split <;> simp
@[simp] theorem State.modWave_capQ (s : State) (w : WaveRef) (g : Wave → Wave) : (s.modWave w g).capQ = s.capQ := by
  unfold State.modWave; split <;> simp
@[simp] theorem State.modWave_capPrev (s : State) (w : WaveRef) (g : Wave → Wave) : (s.modWave w g).capPrev = s.capPrev := by
  unfold State.modWave; split <;> simp
@[simp] theorem State.modWave_floors (s : State) (w : WaveRef) (g : Wave → Wave) : (s.modWave w g).floors = s.floors := by
  unfold State.modWave; split <;> simp
@[simp] theorem State.modWave_pbase (s : State) (w : WaveRef) (g : Wave → Wave) : (s.modWave w g).pbase = s.pbase := by
  unfold State.modWave; split <;> simp
@[simp] theorem State.modWave_pidle (s : State) (w : WaveRef) (g : Wave → Wave) : (s.modWave w g).pidle = s.pidle := by
  unfold State.modWave; split <;> simp
@[simp] theorem State.modWave_energy (s : State) (w : WaveRef) (g : Wave → Wave) : (s.modWave w g).energy = s.energy := by
  unfold State.modWave; split <;> simp
@[simp] theorem State.modWave_lastP (s : State) (w : WaveRef) (g : Wave → Wave) : (s.modWave w g).lastP = s.lastP := by
  unfold State.modWave; split <;> simp
@[simp] theorem State.modWave_interval (s : State) (w : WaveRef) (g : Wave → Wave) : (s.modWave w g).interval = s.interval := by
  unfold State.modWave; split <;> simp
@[simp] theorem State.modWave_bar0 (s : State) (w : WaveRef) (g : Wave → Wave) : (s.modWave w g).bar0 = s.bar0 := by
  unfold State.modWave; split <;> simp
@[simp] theorem State.modWave_queues (s : State) (w : WaveRef) (g : Wave → Wave) : (s.modWave w g).queues = s.queues := by
  unfold State.modWave; split <;> simp
@[simp] theorem State.modWave_rr (s : State) (w : WaveRef) (g : Wave → Wave) : (s.modWave w g).rr = s.rr := by
  unfold State.modWave; split <;> simp
@[simp] theorem State.modWave_evDropped (s : State) (w : WaveRef) (g : Wave → Wave) : (s.modWave w g).evDropped = s.evDropped := by
  unfold State.modWave; split <;> simp
@[simp] theorem State.modWave_msix (s : State) (w : WaveRef) (g : Wave → Wave) : (s.modWave w g).msix = s.msix := by
  unfold State.modWave; split <;> simp
@[simp] theorem State.modWave_hostOut (s : State) (w : WaveRef) (g : Wave → Wave) : (s.modWave w g).hostOut = s.hostOut := by
  unfold State.modWave; split <;> simp
@[simp] theorem State.modWave_mgmtOut (s : State) (w : WaveRef) (g : Wave → Wave) : (s.modWave w g).mgmtOut = s.mgmtOut := by
  unfold State.modWave; split <;> simp
@[simp] theorem State.modWave_fabOut (s : State) (w : WaveRef) (g : Wave → Wave) : (s.modWave w g).fabOut = s.fabOut := by
  unfold State.modWave; split <;> simp
@[simp] theorem State.modWave_fabFail (s : State) (w : WaveRef) (g : Wave → Wave) : (s.modWave w g).fabFail = s.fabFail := by
  unfold State.modWave; split <;> simp
@[simp] theorem State.modWave_nextTag (s : State) (w : WaveRef) (g : Wave → Wave) : (s.modWave w g).nextTag = s.nextTag := by
  unfold State.modWave; split <;> simp
@[simp] theorem State.modWave_discarded (s : State) (w : WaveRef) (g : Wave → Wave) : (s.modWave w g).discarded = s.discarded := by
  unfold State.modWave; split <;> simp
@[simp] theorem State.modWave_failed (s : State) (w : WaveRef) (g : Wave → Wave) : (s.modWave w g).failed = s.failed := by
  unfold State.modWave; split <;> simp
@[simp] theorem State.modWave_cxl (s : State) (w : WaveRef) (g : Wave → Wave) : (s.modWave w g).cxl = s.cxl := by
  unfold State.modWave; split <;> simp
@[simp] theorem State.modWave_fw (s : State) (w : WaveRef) (g : Wave → Wave) : (s.modWave w g).fw = s.fw := by
  unfold State.modWave; split <;> simp
@[simp] theorem State.modWave_retired (s : State) (w : WaveRef) (g : Wave → Wave) : (s.modWave w g).retired = s.retired := by
  unfold State.modWave; split <;> simp
@[simp] theorem State.modWave_clearRetired (s : State) (w : WaveRef) (g : Wave → Wave) : (s.modWave w g).clearRetired = s.clearRetired := by
  unfold State.modWave; split <;> simp
@[simp] theorem State.modWave_rowErr (s : State) (w : WaveRef) (g : Wave → Wave) : (s.modWave w g).rowErr = s.rowErr := by
  unfold State.modWave; split <;> simp
@[simp] theorem State.modWave_spared (s : State) (w : WaveRef) (g : Wave → Wave) : (s.modWave w g).spared = s.spared := by
  unfold State.modWave; split <;> simp
@[simp] theorem State.modWave_unspared (s : State) (w : WaveRef) (g : Wave → Wave) : (s.modWave w g).unspared = s.unspared := by
  unfold State.modWave; split <;> simp
@[simp] theorem State.modWave_trained (s : State) (w : WaveRef) (g : Wave → Wave) : (s.modWave w g).trained = s.trained := by
  unfold State.modWave; split <;> simp

/-! ## modBlock -/

@[simp] theorem State.modBlock_tick (s : State) (b : BlockRef) (g : Block → Block) : (s.modBlock b g).tick = s.tick := by
  unfold State.modBlock; split <;> simp
@[simp] theorem State.modBlock_fresh (s : State) (b : BlockRef) (g : Block → Block) : (s.modBlock b g).fresh = s.fresh := by
  unfold State.modBlock; split <;> simp
@[simp] theorem State.modBlock_agenda (s : State) (b : BlockRef) (g : Block → Block) : (s.modBlock b g).agenda = s.agenda := by
  unfold State.modBlock; split <;> simp
@[simp] theorem State.modBlock_cur (s : State) (b : BlockRef) (g : Block → Block) : (s.modBlock b g).cur = s.cur := by
  unfold State.modBlock; split <;> simp
@[simp] theorem State.modBlock_mem (s : State) (b : BlockRef) (g : Block → Block) : (s.modBlock b g).mem = s.mem := by
  unfold State.modBlock; split <;> simp
@[simp] theorem State.modBlock_poison (s : State) (b : BlockRef) (g : Block → Block) : (s.modBlock b g).poison = s.poison := by
  unfold State.modBlock; split <;> simp
@[simp] theorem State.modBlock_waits (s : State) (b : BlockRef) (g : Block → Block) : (s.modBlock b g).waits = s.waits := by
  unfold State.modBlock; split <;> simp
@[simp] theorem State.modBlock_started (s : State) (b : BlockRef) (g : Block → Block) : (s.modBlock b g).started = s.started := by
  unfold State.modBlock; split <;> simp
@[simp] theorem State.modBlock_ctxs (s : State) (b : BlockRef) (g : Block → Block) : (s.modBlock b g).ctxs = s.ctxs := by
  unfold State.modBlock; split <;> simp
@[simp] theorem State.modBlock_tlb (s : State) (b : BlockRef) (g : Block → Block) : (s.modBlock b g).tlb = s.tlb := by
  unfold State.modBlock; split <;> simp
@[simp] theorem State.modBlock_walks (s : State) (b : BlockRef) (g : Block → Block) : (s.modBlock b g).walks = s.walks := by
  unfold State.modBlock; split <;> simp
@[simp] theorem State.modBlock_binds (s : State) (b : BlockRef) (g : Block → Block) : (s.modBlock b g).binds = s.binds := by
  unfold State.modBlock; split <;> simp
@[simp] theorem State.modBlock_spareFrames (s : State) (b : BlockRef) (g : Block → Block) : (s.modBlock b g).spareFrames = s.spareFrames := by
  unfold State.modBlock; split <;> simp
@[simp] theorem State.modBlock_nextLid (s : State) (b : BlockRef) (g : Block → Block) : (s.modBlock b g).nextLid = s.nextLid := by
  unfold State.modBlock; split <;> simp
@[simp] theorem State.modBlock_nextLseq (s : State) (b : BlockRef) (g : Block → Block) : (s.modBlock b g).nextLseq = s.nextLseq := by
  unfold State.modBlock; split <;> simp
@[simp] theorem State.modBlock_quiesced (s : State) (b : BlockRef) (g : Block → Block) : (s.modBlock b g).quiesced = s.quiesced := by
  unfold State.modBlock; split <;> simp
@[simp] theorem State.modBlock_tiles (s : State) (b : BlockRef) (g : Block → Block) : (s.modBlock b g).tiles = s.tiles := by
  unfold State.modBlock; split <;> simp
@[simp] theorem State.modBlock_clusters (s : State) (b : BlockRef) (g : Block → Block) : (s.modBlock b g).clusters = s.clusters := by
  unfold State.modBlock; split <;> simp
@[simp] theorem State.modBlock_dies (s : State) (b : BlockRef) (g : Block → Block) : (s.modBlock b g).dies = s.dies := by
  unfold State.modBlock; split <;> simp
@[simp] theorem State.modBlock_links (s : State) (b : BlockRef) (g : Block → Block) : (s.modBlock b g).links = s.links := by
  unfold State.modBlock; split <;> simp
@[simp] theorem State.modBlock_rings (s : State) (b : BlockRef) (g : Block → Block) : (s.modBlock b g).rings = s.rings := by
  unfold State.modBlock; split <;> simp
@[simp] theorem State.modBlock_store (s : State) (b : BlockRef) (g : Block → Block) : (s.modBlock b g).store = s.store := by
  unfold State.modBlock; split <;> simp
@[simp] theorem State.modBlock_nextId (s : State) (b : BlockRef) (g : Block → Block) : (s.modBlock b g).nextId = s.nextId := by
  unfold State.modBlock; split <;> simp
@[simp] theorem State.modBlock_wdogs (s : State) (b : BlockRef) (g : Block → Block) : (s.modBlock b g).wdogs = s.wdogs := by
  unfold State.modBlock; split <;> simp
@[simp] theorem State.modBlock_refused (s : State) (b : BlockRef) (g : Block → Block) : (s.modBlock b g).refused = s.refused := by
  unfold State.modBlock; split <;> simp
@[simp] theorem State.modBlock_l3 (s : State) (b : BlockRef) (g : Block → Block) : (s.modBlock b g).l3 = s.l3 := by
  unfold State.modBlock; split <;> simp
@[simp] theorem State.modBlock_capQ (s : State) (b : BlockRef) (g : Block → Block) : (s.modBlock b g).capQ = s.capQ := by
  unfold State.modBlock; split <;> simp
@[simp] theorem State.modBlock_capPrev (s : State) (b : BlockRef) (g : Block → Block) : (s.modBlock b g).capPrev = s.capPrev := by
  unfold State.modBlock; split <;> simp
@[simp] theorem State.modBlock_floors (s : State) (b : BlockRef) (g : Block → Block) : (s.modBlock b g).floors = s.floors := by
  unfold State.modBlock; split <;> simp
@[simp] theorem State.modBlock_pbase (s : State) (b : BlockRef) (g : Block → Block) : (s.modBlock b g).pbase = s.pbase := by
  unfold State.modBlock; split <;> simp
@[simp] theorem State.modBlock_pidle (s : State) (b : BlockRef) (g : Block → Block) : (s.modBlock b g).pidle = s.pidle := by
  unfold State.modBlock; split <;> simp
@[simp] theorem State.modBlock_energy (s : State) (b : BlockRef) (g : Block → Block) : (s.modBlock b g).energy = s.energy := by
  unfold State.modBlock; split <;> simp
@[simp] theorem State.modBlock_lastP (s : State) (b : BlockRef) (g : Block → Block) : (s.modBlock b g).lastP = s.lastP := by
  unfold State.modBlock; split <;> simp
@[simp] theorem State.modBlock_interval (s : State) (b : BlockRef) (g : Block → Block) : (s.modBlock b g).interval = s.interval := by
  unfold State.modBlock; split <;> simp
@[simp] theorem State.modBlock_bar0 (s : State) (b : BlockRef) (g : Block → Block) : (s.modBlock b g).bar0 = s.bar0 := by
  unfold State.modBlock; split <;> simp
@[simp] theorem State.modBlock_queues (s : State) (b : BlockRef) (g : Block → Block) : (s.modBlock b g).queues = s.queues := by
  unfold State.modBlock; split <;> simp
@[simp] theorem State.modBlock_rr (s : State) (b : BlockRef) (g : Block → Block) : (s.modBlock b g).rr = s.rr := by
  unfold State.modBlock; split <;> simp
@[simp] theorem State.modBlock_evDropped (s : State) (b : BlockRef) (g : Block → Block) : (s.modBlock b g).evDropped = s.evDropped := by
  unfold State.modBlock; split <;> simp
@[simp] theorem State.modBlock_msix (s : State) (b : BlockRef) (g : Block → Block) : (s.modBlock b g).msix = s.msix := by
  unfold State.modBlock; split <;> simp
@[simp] theorem State.modBlock_hostOut (s : State) (b : BlockRef) (g : Block → Block) : (s.modBlock b g).hostOut = s.hostOut := by
  unfold State.modBlock; split <;> simp
@[simp] theorem State.modBlock_mgmtOut (s : State) (b : BlockRef) (g : Block → Block) : (s.modBlock b g).mgmtOut = s.mgmtOut := by
  unfold State.modBlock; split <;> simp
@[simp] theorem State.modBlock_fabOut (s : State) (b : BlockRef) (g : Block → Block) : (s.modBlock b g).fabOut = s.fabOut := by
  unfold State.modBlock; split <;> simp
@[simp] theorem State.modBlock_fabFail (s : State) (b : BlockRef) (g : Block → Block) : (s.modBlock b g).fabFail = s.fabFail := by
  unfold State.modBlock; split <;> simp
@[simp] theorem State.modBlock_nextTag (s : State) (b : BlockRef) (g : Block → Block) : (s.modBlock b g).nextTag = s.nextTag := by
  unfold State.modBlock; split <;> simp
@[simp] theorem State.modBlock_discarded (s : State) (b : BlockRef) (g : Block → Block) : (s.modBlock b g).discarded = s.discarded := by
  unfold State.modBlock; split <;> simp
@[simp] theorem State.modBlock_failed (s : State) (b : BlockRef) (g : Block → Block) : (s.modBlock b g).failed = s.failed := by
  unfold State.modBlock; split <;> simp
@[simp] theorem State.modBlock_cxl (s : State) (b : BlockRef) (g : Block → Block) : (s.modBlock b g).cxl = s.cxl := by
  unfold State.modBlock; split <;> simp
@[simp] theorem State.modBlock_fw (s : State) (b : BlockRef) (g : Block → Block) : (s.modBlock b g).fw = s.fw := by
  unfold State.modBlock; split <;> simp
@[simp] theorem State.modBlock_retired (s : State) (b : BlockRef) (g : Block → Block) : (s.modBlock b g).retired = s.retired := by
  unfold State.modBlock; split <;> simp
@[simp] theorem State.modBlock_clearRetired (s : State) (b : BlockRef) (g : Block → Block) : (s.modBlock b g).clearRetired = s.clearRetired := by
  unfold State.modBlock; split <;> simp
@[simp] theorem State.modBlock_rowErr (s : State) (b : BlockRef) (g : Block → Block) : (s.modBlock b g).rowErr = s.rowErr := by
  unfold State.modBlock; split <;> simp
@[simp] theorem State.modBlock_spared (s : State) (b : BlockRef) (g : Block → Block) : (s.modBlock b g).spared = s.spared := by
  unfold State.modBlock; split <;> simp
@[simp] theorem State.modBlock_unspared (s : State) (b : BlockRef) (g : Block → Block) : (s.modBlock b g).unspared = s.unspared := by
  unfold State.modBlock; split <;> simp
@[simp] theorem State.modBlock_trained (s : State) (b : BlockRef) (g : Block → Block) : (s.modBlock b g).trained = s.trained := by
  unfold State.modBlock; split <;> simp

/-! ## modLaunch -/

@[simp] theorem State.modLaunch_tick (s : State) (l : Nat) (g : Launch → Launch) : (s.modLaunch l g).tick = s.tick := by
  unfold State.modLaunch; split <;> simp
@[simp] theorem State.modLaunch_fresh (s : State) (l : Nat) (g : Launch → Launch) : (s.modLaunch l g).fresh = s.fresh := by
  unfold State.modLaunch; split <;> simp
@[simp] theorem State.modLaunch_agenda (s : State) (l : Nat) (g : Launch → Launch) : (s.modLaunch l g).agenda = s.agenda := by
  unfold State.modLaunch; split <;> simp
@[simp] theorem State.modLaunch_cur (s : State) (l : Nat) (g : Launch → Launch) : (s.modLaunch l g).cur = s.cur := by
  unfold State.modLaunch; split <;> simp
@[simp] theorem State.modLaunch_mem (s : State) (l : Nat) (g : Launch → Launch) : (s.modLaunch l g).mem = s.mem := by
  unfold State.modLaunch; split <;> simp
@[simp] theorem State.modLaunch_poison (s : State) (l : Nat) (g : Launch → Launch) : (s.modLaunch l g).poison = s.poison := by
  unfold State.modLaunch; split <;> simp
@[simp] theorem State.modLaunch_waits (s : State) (l : Nat) (g : Launch → Launch) : (s.modLaunch l g).waits = s.waits := by
  unfold State.modLaunch; split <;> simp
@[simp] theorem State.modLaunch_started (s : State) (l : Nat) (g : Launch → Launch) : (s.modLaunch l g).started = s.started := by
  unfold State.modLaunch; split <;> simp
@[simp] theorem State.modLaunch_ctxs (s : State) (l : Nat) (g : Launch → Launch) : (s.modLaunch l g).ctxs = s.ctxs := by
  unfold State.modLaunch; split <;> simp
@[simp] theorem State.modLaunch_tlb (s : State) (l : Nat) (g : Launch → Launch) : (s.modLaunch l g).tlb = s.tlb := by
  unfold State.modLaunch; split <;> simp
@[simp] theorem State.modLaunch_walks (s : State) (l : Nat) (g : Launch → Launch) : (s.modLaunch l g).walks = s.walks := by
  unfold State.modLaunch; split <;> simp
@[simp] theorem State.modLaunch_binds (s : State) (l : Nat) (g : Launch → Launch) : (s.modLaunch l g).binds = s.binds := by
  unfold State.modLaunch; split <;> simp
@[simp] theorem State.modLaunch_spareFrames (s : State) (l : Nat) (g : Launch → Launch) : (s.modLaunch l g).spareFrames = s.spareFrames := by
  unfold State.modLaunch; split <;> simp
@[simp] theorem State.modLaunch_nextLid (s : State) (l : Nat) (g : Launch → Launch) : (s.modLaunch l g).nextLid = s.nextLid := by
  unfold State.modLaunch; split <;> simp
@[simp] theorem State.modLaunch_nextLseq (s : State) (l : Nat) (g : Launch → Launch) : (s.modLaunch l g).nextLseq = s.nextLseq := by
  unfold State.modLaunch; split <;> simp
@[simp] theorem State.modLaunch_quiesced (s : State) (l : Nat) (g : Launch → Launch) : (s.modLaunch l g).quiesced = s.quiesced := by
  unfold State.modLaunch; split <;> simp
@[simp] theorem State.modLaunch_tiles (s : State) (l : Nat) (g : Launch → Launch) : (s.modLaunch l g).tiles = s.tiles := by
  unfold State.modLaunch; split <;> simp
@[simp] theorem State.modLaunch_clusters (s : State) (l : Nat) (g : Launch → Launch) : (s.modLaunch l g).clusters = s.clusters := by
  unfold State.modLaunch; split <;> simp
@[simp] theorem State.modLaunch_dies (s : State) (l : Nat) (g : Launch → Launch) : (s.modLaunch l g).dies = s.dies := by
  unfold State.modLaunch; split <;> simp
@[simp] theorem State.modLaunch_links (s : State) (l : Nat) (g : Launch → Launch) : (s.modLaunch l g).links = s.links := by
  unfold State.modLaunch; split <;> simp
@[simp] theorem State.modLaunch_rings (s : State) (l : Nat) (g : Launch → Launch) : (s.modLaunch l g).rings = s.rings := by
  unfold State.modLaunch; split <;> simp
@[simp] theorem State.modLaunch_store (s : State) (l : Nat) (g : Launch → Launch) : (s.modLaunch l g).store = s.store := by
  unfold State.modLaunch; split <;> simp
@[simp] theorem State.modLaunch_nextId (s : State) (l : Nat) (g : Launch → Launch) : (s.modLaunch l g).nextId = s.nextId := by
  unfold State.modLaunch; split <;> simp
@[simp] theorem State.modLaunch_wdogs (s : State) (l : Nat) (g : Launch → Launch) : (s.modLaunch l g).wdogs = s.wdogs := by
  unfold State.modLaunch; split <;> simp
@[simp] theorem State.modLaunch_refused (s : State) (l : Nat) (g : Launch → Launch) : (s.modLaunch l g).refused = s.refused := by
  unfold State.modLaunch; split <;> simp
@[simp] theorem State.modLaunch_l3 (s : State) (l : Nat) (g : Launch → Launch) : (s.modLaunch l g).l3 = s.l3 := by
  unfold State.modLaunch; split <;> simp
@[simp] theorem State.modLaunch_capQ (s : State) (l : Nat) (g : Launch → Launch) : (s.modLaunch l g).capQ = s.capQ := by
  unfold State.modLaunch; split <;> simp
@[simp] theorem State.modLaunch_capPrev (s : State) (l : Nat) (g : Launch → Launch) : (s.modLaunch l g).capPrev = s.capPrev := by
  unfold State.modLaunch; split <;> simp
@[simp] theorem State.modLaunch_floors (s : State) (l : Nat) (g : Launch → Launch) : (s.modLaunch l g).floors = s.floors := by
  unfold State.modLaunch; split <;> simp
@[simp] theorem State.modLaunch_pbase (s : State) (l : Nat) (g : Launch → Launch) : (s.modLaunch l g).pbase = s.pbase := by
  unfold State.modLaunch; split <;> simp
@[simp] theorem State.modLaunch_pidle (s : State) (l : Nat) (g : Launch → Launch) : (s.modLaunch l g).pidle = s.pidle := by
  unfold State.modLaunch; split <;> simp
@[simp] theorem State.modLaunch_energy (s : State) (l : Nat) (g : Launch → Launch) : (s.modLaunch l g).energy = s.energy := by
  unfold State.modLaunch; split <;> simp
@[simp] theorem State.modLaunch_lastP (s : State) (l : Nat) (g : Launch → Launch) : (s.modLaunch l g).lastP = s.lastP := by
  unfold State.modLaunch; split <;> simp
@[simp] theorem State.modLaunch_interval (s : State) (l : Nat) (g : Launch → Launch) : (s.modLaunch l g).interval = s.interval := by
  unfold State.modLaunch; split <;> simp
@[simp] theorem State.modLaunch_bar0 (s : State) (l : Nat) (g : Launch → Launch) : (s.modLaunch l g).bar0 = s.bar0 := by
  unfold State.modLaunch; split <;> simp
@[simp] theorem State.modLaunch_queues (s : State) (l : Nat) (g : Launch → Launch) : (s.modLaunch l g).queues = s.queues := by
  unfold State.modLaunch; split <;> simp
@[simp] theorem State.modLaunch_rr (s : State) (l : Nat) (g : Launch → Launch) : (s.modLaunch l g).rr = s.rr := by
  unfold State.modLaunch; split <;> simp
@[simp] theorem State.modLaunch_evDropped (s : State) (l : Nat) (g : Launch → Launch) : (s.modLaunch l g).evDropped = s.evDropped := by
  unfold State.modLaunch; split <;> simp
@[simp] theorem State.modLaunch_msix (s : State) (l : Nat) (g : Launch → Launch) : (s.modLaunch l g).msix = s.msix := by
  unfold State.modLaunch; split <;> simp
@[simp] theorem State.modLaunch_hostOut (s : State) (l : Nat) (g : Launch → Launch) : (s.modLaunch l g).hostOut = s.hostOut := by
  unfold State.modLaunch; split <;> simp
@[simp] theorem State.modLaunch_mgmtOut (s : State) (l : Nat) (g : Launch → Launch) : (s.modLaunch l g).mgmtOut = s.mgmtOut := by
  unfold State.modLaunch; split <;> simp
@[simp] theorem State.modLaunch_fabOut (s : State) (l : Nat) (g : Launch → Launch) : (s.modLaunch l g).fabOut = s.fabOut := by
  unfold State.modLaunch; split <;> simp
@[simp] theorem State.modLaunch_fabFail (s : State) (l : Nat) (g : Launch → Launch) : (s.modLaunch l g).fabFail = s.fabFail := by
  unfold State.modLaunch; split <;> simp
@[simp] theorem State.modLaunch_nextTag (s : State) (l : Nat) (g : Launch → Launch) : (s.modLaunch l g).nextTag = s.nextTag := by
  unfold State.modLaunch; split <;> simp
@[simp] theorem State.modLaunch_discarded (s : State) (l : Nat) (g : Launch → Launch) : (s.modLaunch l g).discarded = s.discarded := by
  unfold State.modLaunch; split <;> simp
@[simp] theorem State.modLaunch_failed (s : State) (l : Nat) (g : Launch → Launch) : (s.modLaunch l g).failed = s.failed := by
  unfold State.modLaunch; split <;> simp
@[simp] theorem State.modLaunch_cxl (s : State) (l : Nat) (g : Launch → Launch) : (s.modLaunch l g).cxl = s.cxl := by
  unfold State.modLaunch; split <;> simp
@[simp] theorem State.modLaunch_fw (s : State) (l : Nat) (g : Launch → Launch) : (s.modLaunch l g).fw = s.fw := by
  unfold State.modLaunch; split <;> simp
@[simp] theorem State.modLaunch_retired (s : State) (l : Nat) (g : Launch → Launch) : (s.modLaunch l g).retired = s.retired := by
  unfold State.modLaunch; split <;> simp
@[simp] theorem State.modLaunch_clearRetired (s : State) (l : Nat) (g : Launch → Launch) : (s.modLaunch l g).clearRetired = s.clearRetired := by
  unfold State.modLaunch; split <;> simp
@[simp] theorem State.modLaunch_rowErr (s : State) (l : Nat) (g : Launch → Launch) : (s.modLaunch l g).rowErr = s.rowErr := by
  unfold State.modLaunch; split <;> simp
@[simp] theorem State.modLaunch_spared (s : State) (l : Nat) (g : Launch → Launch) : (s.modLaunch l g).spared = s.spared := by
  unfold State.modLaunch; split <;> simp
@[simp] theorem State.modLaunch_unspared (s : State) (l : Nat) (g : Launch → Launch) : (s.modLaunch l g).unspared = s.unspared := by
  unfold State.modLaunch; split <;> simp
@[simp] theorem State.modLaunch_trained (s : State) (l : Nat) (g : Launch → Launch) : (s.modLaunch l g).trained = s.trained := by
  unfold State.modLaunch; split <;> simp

/-! ## modCtx -/

@[simp] theorem State.modCtx_tick (s : State) (c : Nat) (g : Context → Context) : (s.modCtx c g).tick = s.tick := by
  unfold State.modCtx; split <;> simp
@[simp] theorem State.modCtx_fresh (s : State) (c : Nat) (g : Context → Context) : (s.modCtx c g).fresh = s.fresh := by
  unfold State.modCtx; split <;> simp
@[simp] theorem State.modCtx_agenda (s : State) (c : Nat) (g : Context → Context) : (s.modCtx c g).agenda = s.agenda := by
  unfold State.modCtx; split <;> simp
@[simp] theorem State.modCtx_cur (s : State) (c : Nat) (g : Context → Context) : (s.modCtx c g).cur = s.cur := by
  unfold State.modCtx; split <;> simp
@[simp] theorem State.modCtx_mem (s : State) (c : Nat) (g : Context → Context) : (s.modCtx c g).mem = s.mem := by
  unfold State.modCtx; split <;> simp
@[simp] theorem State.modCtx_poison (s : State) (c : Nat) (g : Context → Context) : (s.modCtx c g).poison = s.poison := by
  unfold State.modCtx; split <;> simp
@[simp] theorem State.modCtx_waits (s : State) (c : Nat) (g : Context → Context) : (s.modCtx c g).waits = s.waits := by
  unfold State.modCtx; split <;> simp
@[simp] theorem State.modCtx_started (s : State) (c : Nat) (g : Context → Context) : (s.modCtx c g).started = s.started := by
  unfold State.modCtx; split <;> simp
@[simp] theorem State.modCtx_tlb (s : State) (c : Nat) (g : Context → Context) : (s.modCtx c g).tlb = s.tlb := by
  unfold State.modCtx; split <;> simp
@[simp] theorem State.modCtx_walks (s : State) (c : Nat) (g : Context → Context) : (s.modCtx c g).walks = s.walks := by
  unfold State.modCtx; split <;> simp
@[simp] theorem State.modCtx_binds (s : State) (c : Nat) (g : Context → Context) : (s.modCtx c g).binds = s.binds := by
  unfold State.modCtx; split <;> simp
@[simp] theorem State.modCtx_spareFrames (s : State) (c : Nat) (g : Context → Context) : (s.modCtx c g).spareFrames = s.spareFrames := by
  unfold State.modCtx; split <;> simp
@[simp] theorem State.modCtx_launches (s : State) (c : Nat) (g : Context → Context) : (s.modCtx c g).launches = s.launches := by
  unfold State.modCtx; split <;> simp
@[simp] theorem State.modCtx_nextLid (s : State) (c : Nat) (g : Context → Context) : (s.modCtx c g).nextLid = s.nextLid := by
  unfold State.modCtx; split <;> simp
@[simp] theorem State.modCtx_nextLseq (s : State) (c : Nat) (g : Context → Context) : (s.modCtx c g).nextLseq = s.nextLseq := by
  unfold State.modCtx; split <;> simp
@[simp] theorem State.modCtx_quiesced (s : State) (c : Nat) (g : Context → Context) : (s.modCtx c g).quiesced = s.quiesced := by
  unfold State.modCtx; split <;> simp
@[simp] theorem State.modCtx_tiles (s : State) (c : Nat) (g : Context → Context) : (s.modCtx c g).tiles = s.tiles := by
  unfold State.modCtx; split <;> simp
@[simp] theorem State.modCtx_clusters (s : State) (c : Nat) (g : Context → Context) : (s.modCtx c g).clusters = s.clusters := by
  unfold State.modCtx; split <;> simp
@[simp] theorem State.modCtx_dies (s : State) (c : Nat) (g : Context → Context) : (s.modCtx c g).dies = s.dies := by
  unfold State.modCtx; split <;> simp
@[simp] theorem State.modCtx_links (s : State) (c : Nat) (g : Context → Context) : (s.modCtx c g).links = s.links := by
  unfold State.modCtx; split <;> simp
@[simp] theorem State.modCtx_rings (s : State) (c : Nat) (g : Context → Context) : (s.modCtx c g).rings = s.rings := by
  unfold State.modCtx; split <;> simp
@[simp] theorem State.modCtx_store (s : State) (c : Nat) (g : Context → Context) : (s.modCtx c g).store = s.store := by
  unfold State.modCtx; split <;> simp
@[simp] theorem State.modCtx_nextId (s : State) (c : Nat) (g : Context → Context) : (s.modCtx c g).nextId = s.nextId := by
  unfold State.modCtx; split <;> simp
@[simp] theorem State.modCtx_wdogs (s : State) (c : Nat) (g : Context → Context) : (s.modCtx c g).wdogs = s.wdogs := by
  unfold State.modCtx; split <;> simp
@[simp] theorem State.modCtx_refused (s : State) (c : Nat) (g : Context → Context) : (s.modCtx c g).refused = s.refused := by
  unfold State.modCtx; split <;> simp
@[simp] theorem State.modCtx_l3 (s : State) (c : Nat) (g : Context → Context) : (s.modCtx c g).l3 = s.l3 := by
  unfold State.modCtx; split <;> simp
@[simp] theorem State.modCtx_capQ (s : State) (c : Nat) (g : Context → Context) : (s.modCtx c g).capQ = s.capQ := by
  unfold State.modCtx; split <;> simp
@[simp] theorem State.modCtx_capPrev (s : State) (c : Nat) (g : Context → Context) : (s.modCtx c g).capPrev = s.capPrev := by
  unfold State.modCtx; split <;> simp
@[simp] theorem State.modCtx_floors (s : State) (c : Nat) (g : Context → Context) : (s.modCtx c g).floors = s.floors := by
  unfold State.modCtx; split <;> simp
@[simp] theorem State.modCtx_pbase (s : State) (c : Nat) (g : Context → Context) : (s.modCtx c g).pbase = s.pbase := by
  unfold State.modCtx; split <;> simp
@[simp] theorem State.modCtx_pidle (s : State) (c : Nat) (g : Context → Context) : (s.modCtx c g).pidle = s.pidle := by
  unfold State.modCtx; split <;> simp
@[simp] theorem State.modCtx_energy (s : State) (c : Nat) (g : Context → Context) : (s.modCtx c g).energy = s.energy := by
  unfold State.modCtx; split <;> simp
@[simp] theorem State.modCtx_lastP (s : State) (c : Nat) (g : Context → Context) : (s.modCtx c g).lastP = s.lastP := by
  unfold State.modCtx; split <;> simp
@[simp] theorem State.modCtx_interval (s : State) (c : Nat) (g : Context → Context) : (s.modCtx c g).interval = s.interval := by
  unfold State.modCtx; split <;> simp
@[simp] theorem State.modCtx_bar0 (s : State) (c : Nat) (g : Context → Context) : (s.modCtx c g).bar0 = s.bar0 := by
  unfold State.modCtx; split <;> simp
@[simp] theorem State.modCtx_queues (s : State) (c : Nat) (g : Context → Context) : (s.modCtx c g).queues = s.queues := by
  unfold State.modCtx; split <;> simp
@[simp] theorem State.modCtx_rr (s : State) (c : Nat) (g : Context → Context) : (s.modCtx c g).rr = s.rr := by
  unfold State.modCtx; split <;> simp
@[simp] theorem State.modCtx_evDropped (s : State) (c : Nat) (g : Context → Context) : (s.modCtx c g).evDropped = s.evDropped := by
  unfold State.modCtx; split <;> simp
@[simp] theorem State.modCtx_msix (s : State) (c : Nat) (g : Context → Context) : (s.modCtx c g).msix = s.msix := by
  unfold State.modCtx; split <;> simp
@[simp] theorem State.modCtx_hostOut (s : State) (c : Nat) (g : Context → Context) : (s.modCtx c g).hostOut = s.hostOut := by
  unfold State.modCtx; split <;> simp
@[simp] theorem State.modCtx_mgmtOut (s : State) (c : Nat) (g : Context → Context) : (s.modCtx c g).mgmtOut = s.mgmtOut := by
  unfold State.modCtx; split <;> simp
@[simp] theorem State.modCtx_fabOut (s : State) (c : Nat) (g : Context → Context) : (s.modCtx c g).fabOut = s.fabOut := by
  unfold State.modCtx; split <;> simp
@[simp] theorem State.modCtx_fabFail (s : State) (c : Nat) (g : Context → Context) : (s.modCtx c g).fabFail = s.fabFail := by
  unfold State.modCtx; split <;> simp
@[simp] theorem State.modCtx_nextTag (s : State) (c : Nat) (g : Context → Context) : (s.modCtx c g).nextTag = s.nextTag := by
  unfold State.modCtx; split <;> simp
@[simp] theorem State.modCtx_discarded (s : State) (c : Nat) (g : Context → Context) : (s.modCtx c g).discarded = s.discarded := by
  unfold State.modCtx; split <;> simp
@[simp] theorem State.modCtx_failed (s : State) (c : Nat) (g : Context → Context) : (s.modCtx c g).failed = s.failed := by
  unfold State.modCtx; split <;> simp
@[simp] theorem State.modCtx_cxl (s : State) (c : Nat) (g : Context → Context) : (s.modCtx c g).cxl = s.cxl := by
  unfold State.modCtx; split <;> simp
@[simp] theorem State.modCtx_fw (s : State) (c : Nat) (g : Context → Context) : (s.modCtx c g).fw = s.fw := by
  unfold State.modCtx; split <;> simp
@[simp] theorem State.modCtx_retired (s : State) (c : Nat) (g : Context → Context) : (s.modCtx c g).retired = s.retired := by
  unfold State.modCtx; split <;> simp
@[simp] theorem State.modCtx_clearRetired (s : State) (c : Nat) (g : Context → Context) : (s.modCtx c g).clearRetired = s.clearRetired := by
  unfold State.modCtx; split <;> simp
@[simp] theorem State.modCtx_rowErr (s : State) (c : Nat) (g : Context → Context) : (s.modCtx c g).rowErr = s.rowErr := by
  unfold State.modCtx; split <;> simp
@[simp] theorem State.modCtx_spared (s : State) (c : Nat) (g : Context → Context) : (s.modCtx c g).spared = s.spared := by
  unfold State.modCtx; split <;> simp
@[simp] theorem State.modCtx_unspared (s : State) (c : Nat) (g : Context → Context) : (s.modCtx c g).unspared = s.unspared := by
  unfold State.modCtx; split <;> simp
@[simp] theorem State.modCtx_trained (s : State) (c : Nat) (g : Context → Context) : (s.modCtx c g).trained = s.trained := by
  unfold State.modCtx; split <;> simp

/-! ## completePlace -/

@[simp] theorem State.completePlace_tick (s : State) (w : WaveRef) (opc : Nat) (v : Value) (recs : List MemRec) : (s.completePlace w opc v recs).tick = s.tick := by
  unfold State.completePlace; split
  · rfl
  · split <;> simp
@[simp] theorem State.completePlace_fresh (s : State) (w : WaveRef) (opc : Nat) (v : Value) (recs : List MemRec) : (s.completePlace w opc v recs).fresh = s.fresh := by
  unfold State.completePlace; split
  · rfl
  · split <;> simp
@[simp] theorem State.completePlace_agenda (s : State) (w : WaveRef) (opc : Nat) (v : Value) (recs : List MemRec) : (s.completePlace w opc v recs).agenda = s.agenda := by
  unfold State.completePlace; split
  · rfl
  · split <;> simp
@[simp] theorem State.completePlace_cur (s : State) (w : WaveRef) (opc : Nat) (v : Value) (recs : List MemRec) : (s.completePlace w opc v recs).cur = s.cur := by
  unfold State.completePlace; split
  · rfl
  · split <;> simp
@[simp] theorem State.completePlace_mem (s : State) (w : WaveRef) (opc : Nat) (v : Value) (recs : List MemRec) : (s.completePlace w opc v recs).mem = s.mem := by
  unfold State.completePlace; split
  · rfl
  · split <;> simp
@[simp] theorem State.completePlace_poison (s : State) (w : WaveRef) (opc : Nat) (v : Value) (recs : List MemRec) : (s.completePlace w opc v recs).poison = s.poison := by
  unfold State.completePlace; split
  · rfl
  · split <;> simp
@[simp] theorem State.completePlace_waits (s : State) (w : WaveRef) (opc : Nat) (v : Value) (recs : List MemRec) : (s.completePlace w opc v recs).waits = s.waits := by
  unfold State.completePlace; split
  · rfl
  · split <;> simp
@[simp] theorem State.completePlace_started (s : State) (w : WaveRef) (opc : Nat) (v : Value) (recs : List MemRec) : (s.completePlace w opc v recs).started = s.started := by
  unfold State.completePlace; split
  · rfl
  · split <;> simp
@[simp] theorem State.completePlace_ctxs (s : State) (w : WaveRef) (opc : Nat) (v : Value) (recs : List MemRec) : (s.completePlace w opc v recs).ctxs = s.ctxs := by
  unfold State.completePlace; split
  · rfl
  · split <;> simp
@[simp] theorem State.completePlace_tlb (s : State) (w : WaveRef) (opc : Nat) (v : Value) (recs : List MemRec) : (s.completePlace w opc v recs).tlb = s.tlb := by
  unfold State.completePlace; split
  · rfl
  · split <;> simp
@[simp] theorem State.completePlace_walks (s : State) (w : WaveRef) (opc : Nat) (v : Value) (recs : List MemRec) : (s.completePlace w opc v recs).walks = s.walks := by
  unfold State.completePlace; split
  · rfl
  · split <;> simp
@[simp] theorem State.completePlace_binds (s : State) (w : WaveRef) (opc : Nat) (v : Value) (recs : List MemRec) : (s.completePlace w opc v recs).binds = s.binds := by
  unfold State.completePlace; split
  · rfl
  · split <;> simp
@[simp] theorem State.completePlace_spareFrames (s : State) (w : WaveRef) (opc : Nat) (v : Value) (recs : List MemRec) : (s.completePlace w opc v recs).spareFrames = s.spareFrames := by
  unfold State.completePlace; split
  · rfl
  · split <;> simp
@[simp] theorem State.completePlace_nextLid (s : State) (w : WaveRef) (opc : Nat) (v : Value) (recs : List MemRec) : (s.completePlace w opc v recs).nextLid = s.nextLid := by
  unfold State.completePlace; split
  · rfl
  · split <;> simp
@[simp] theorem State.completePlace_nextLseq (s : State) (w : WaveRef) (opc : Nat) (v : Value) (recs : List MemRec) : (s.completePlace w opc v recs).nextLseq = s.nextLseq := by
  unfold State.completePlace; split
  · rfl
  · split <;> simp
@[simp] theorem State.completePlace_quiesced (s : State) (w : WaveRef) (opc : Nat) (v : Value) (recs : List MemRec) : (s.completePlace w opc v recs).quiesced = s.quiesced := by
  unfold State.completePlace; split
  · rfl
  · split <;> simp
@[simp] theorem State.completePlace_tiles (s : State) (w : WaveRef) (opc : Nat) (v : Value) (recs : List MemRec) : (s.completePlace w opc v recs).tiles = s.tiles := by
  unfold State.completePlace; split
  · rfl
  · split <;> simp
@[simp] theorem State.completePlace_clusters (s : State) (w : WaveRef) (opc : Nat) (v : Value) (recs : List MemRec) : (s.completePlace w opc v recs).clusters = s.clusters := by
  unfold State.completePlace; split
  · rfl
  · split <;> simp
@[simp] theorem State.completePlace_dies (s : State) (w : WaveRef) (opc : Nat) (v : Value) (recs : List MemRec) : (s.completePlace w opc v recs).dies = s.dies := by
  unfold State.completePlace; split
  · rfl
  · split <;> simp
@[simp] theorem State.completePlace_links (s : State) (w : WaveRef) (opc : Nat) (v : Value) (recs : List MemRec) : (s.completePlace w opc v recs).links = s.links := by
  unfold State.completePlace; split
  · rfl
  · split <;> simp
@[simp] theorem State.completePlace_rings (s : State) (w : WaveRef) (opc : Nat) (v : Value) (recs : List MemRec) : (s.completePlace w opc v recs).rings = s.rings := by
  unfold State.completePlace; split
  · rfl
  · split <;> simp
@[simp] theorem State.completePlace_store (s : State) (w : WaveRef) (opc : Nat) (v : Value) (recs : List MemRec) : (s.completePlace w opc v recs).store = s.store := by
  unfold State.completePlace; split
  · rfl
  · split <;> simp
@[simp] theorem State.completePlace_nextId (s : State) (w : WaveRef) (opc : Nat) (v : Value) (recs : List MemRec) : (s.completePlace w opc v recs).nextId = s.nextId := by
  unfold State.completePlace; split
  · rfl
  · split <;> simp
@[simp] theorem State.completePlace_wdogs (s : State) (w : WaveRef) (opc : Nat) (v : Value) (recs : List MemRec) : (s.completePlace w opc v recs).wdogs = s.wdogs := by
  unfold State.completePlace; split
  · rfl
  · split <;> simp
@[simp] theorem State.completePlace_refused (s : State) (w : WaveRef) (opc : Nat) (v : Value) (recs : List MemRec) : (s.completePlace w opc v recs).refused = s.refused := by
  unfold State.completePlace; split
  · rfl
  · split <;> simp
@[simp] theorem State.completePlace_l3 (s : State) (w : WaveRef) (opc : Nat) (v : Value) (recs : List MemRec) : (s.completePlace w opc v recs).l3 = s.l3 := by
  unfold State.completePlace; split
  · rfl
  · split <;> simp
@[simp] theorem State.completePlace_capQ (s : State) (w : WaveRef) (opc : Nat) (v : Value) (recs : List MemRec) : (s.completePlace w opc v recs).capQ = s.capQ := by
  unfold State.completePlace; split
  · rfl
  · split <;> simp
@[simp] theorem State.completePlace_capPrev (s : State) (w : WaveRef) (opc : Nat) (v : Value) (recs : List MemRec) : (s.completePlace w opc v recs).capPrev = s.capPrev := by
  unfold State.completePlace; split
  · rfl
  · split <;> simp
@[simp] theorem State.completePlace_floors (s : State) (w : WaveRef) (opc : Nat) (v : Value) (recs : List MemRec) : (s.completePlace w opc v recs).floors = s.floors := by
  unfold State.completePlace; split
  · rfl
  · split <;> simp
@[simp] theorem State.completePlace_pbase (s : State) (w : WaveRef) (opc : Nat) (v : Value) (recs : List MemRec) : (s.completePlace w opc v recs).pbase = s.pbase := by
  unfold State.completePlace; split
  · rfl
  · split <;> simp
@[simp] theorem State.completePlace_pidle (s : State) (w : WaveRef) (opc : Nat) (v : Value) (recs : List MemRec) : (s.completePlace w opc v recs).pidle = s.pidle := by
  unfold State.completePlace; split
  · rfl
  · split <;> simp
@[simp] theorem State.completePlace_energy (s : State) (w : WaveRef) (opc : Nat) (v : Value) (recs : List MemRec) : (s.completePlace w opc v recs).energy = s.energy := by
  unfold State.completePlace; split
  · rfl
  · split <;> simp
@[simp] theorem State.completePlace_lastP (s : State) (w : WaveRef) (opc : Nat) (v : Value) (recs : List MemRec) : (s.completePlace w opc v recs).lastP = s.lastP := by
  unfold State.completePlace; split
  · rfl
  · split <;> simp
@[simp] theorem State.completePlace_interval (s : State) (w : WaveRef) (opc : Nat) (v : Value) (recs : List MemRec) : (s.completePlace w opc v recs).interval = s.interval := by
  unfold State.completePlace; split
  · rfl
  · split <;> simp
@[simp] theorem State.completePlace_bar0 (s : State) (w : WaveRef) (opc : Nat) (v : Value) (recs : List MemRec) : (s.completePlace w opc v recs).bar0 = s.bar0 := by
  unfold State.completePlace; split
  · rfl
  · split <;> simp
@[simp] theorem State.completePlace_queues (s : State) (w : WaveRef) (opc : Nat) (v : Value) (recs : List MemRec) : (s.completePlace w opc v recs).queues = s.queues := by
  unfold State.completePlace; split
  · rfl
  · split <;> simp
@[simp] theorem State.completePlace_rr (s : State) (w : WaveRef) (opc : Nat) (v : Value) (recs : List MemRec) : (s.completePlace w opc v recs).rr = s.rr := by
  unfold State.completePlace; split
  · rfl
  · split <;> simp
@[simp] theorem State.completePlace_evDropped (s : State) (w : WaveRef) (opc : Nat) (v : Value) (recs : List MemRec) : (s.completePlace w opc v recs).evDropped = s.evDropped := by
  unfold State.completePlace; split
  · rfl
  · split <;> simp
@[simp] theorem State.completePlace_msix (s : State) (w : WaveRef) (opc : Nat) (v : Value) (recs : List MemRec) : (s.completePlace w opc v recs).msix = s.msix := by
  unfold State.completePlace; split
  · rfl
  · split <;> simp
@[simp] theorem State.completePlace_hostOut (s : State) (w : WaveRef) (opc : Nat) (v : Value) (recs : List MemRec) : (s.completePlace w opc v recs).hostOut = s.hostOut := by
  unfold State.completePlace; split
  · rfl
  · split <;> simp
@[simp] theorem State.completePlace_mgmtOut (s : State) (w : WaveRef) (opc : Nat) (v : Value) (recs : List MemRec) : (s.completePlace w opc v recs).mgmtOut = s.mgmtOut := by
  unfold State.completePlace; split
  · rfl
  · split <;> simp
@[simp] theorem State.completePlace_fabOut (s : State) (w : WaveRef) (opc : Nat) (v : Value) (recs : List MemRec) : (s.completePlace w opc v recs).fabOut = s.fabOut := by
  unfold State.completePlace; split
  · rfl
  · split <;> simp
@[simp] theorem State.completePlace_fabFail (s : State) (w : WaveRef) (opc : Nat) (v : Value) (recs : List MemRec) : (s.completePlace w opc v recs).fabFail = s.fabFail := by
  unfold State.completePlace; split
  · rfl
  · split <;> simp
@[simp] theorem State.completePlace_nextTag (s : State) (w : WaveRef) (opc : Nat) (v : Value) (recs : List MemRec) : (s.completePlace w opc v recs).nextTag = s.nextTag := by
  unfold State.completePlace; split
  · rfl
  · split <;> simp
@[simp] theorem State.completePlace_discarded (s : State) (w : WaveRef) (opc : Nat) (v : Value) (recs : List MemRec) : (s.completePlace w opc v recs).discarded = s.discarded := by
  unfold State.completePlace; split
  · rfl
  · split <;> simp
@[simp] theorem State.completePlace_failed (s : State) (w : WaveRef) (opc : Nat) (v : Value) (recs : List MemRec) : (s.completePlace w opc v recs).failed = s.failed := by
  unfold State.completePlace; split
  · rfl
  · split <;> simp
@[simp] theorem State.completePlace_cxl (s : State) (w : WaveRef) (opc : Nat) (v : Value) (recs : List MemRec) : (s.completePlace w opc v recs).cxl = s.cxl := by
  unfold State.completePlace; split
  · rfl
  · split <;> simp
@[simp] theorem State.completePlace_fw (s : State) (w : WaveRef) (opc : Nat) (v : Value) (recs : List MemRec) : (s.completePlace w opc v recs).fw = s.fw := by
  unfold State.completePlace; split
  · rfl
  · split <;> simp
@[simp] theorem State.completePlace_retired (s : State) (w : WaveRef) (opc : Nat) (v : Value) (recs : List MemRec) : (s.completePlace w opc v recs).retired = s.retired := by
  unfold State.completePlace; split
  · rfl
  · split <;> simp
@[simp] theorem State.completePlace_clearRetired (s : State) (w : WaveRef) (opc : Nat) (v : Value) (recs : List MemRec) : (s.completePlace w opc v recs).clearRetired = s.clearRetired := by
  unfold State.completePlace; split
  · rfl
  · split <;> simp
@[simp] theorem State.completePlace_rowErr (s : State) (w : WaveRef) (opc : Nat) (v : Value) (recs : List MemRec) : (s.completePlace w opc v recs).rowErr = s.rowErr := by
  unfold State.completePlace; split
  · rfl
  · split <;> simp
@[simp] theorem State.completePlace_spared (s : State) (w : WaveRef) (opc : Nat) (v : Value) (recs : List MemRec) : (s.completePlace w opc v recs).spared = s.spared := by
  unfold State.completePlace; split
  · rfl
  · split <;> simp
@[simp] theorem State.completePlace_unspared (s : State) (w : WaveRef) (opc : Nat) (v : Value) (recs : List MemRec) : (s.completePlace w opc v recs).unspared = s.unspared := by
  unfold State.completePlace; split
  · rfl
  · split <;> simp
@[simp] theorem State.completePlace_trained (s : State) (w : WaveRef) (opc : Nat) (v : Value) (recs : List MemRec) : (s.completePlace w opc v recs).trained = s.trained := by
  unfold State.completePlace; split
  · rfl
  · split <;> simp

/-! ## progress -/

@[simp] theorem State.progress_tick (s : State) (w : WaveRef) : (s.progress w).tick = s.tick := by
  unfold State.progress; split <;> simp
@[simp] theorem State.progress_fresh (s : State) (w : WaveRef) : (s.progress w).fresh = s.fresh := by
  unfold State.progress; split <;> simp
@[simp] theorem State.progress_agenda (s : State) (w : WaveRef) : (s.progress w).agenda = s.agenda := by
  unfold State.progress; split <;> simp
@[simp] theorem State.progress_cur (s : State) (w : WaveRef) : (s.progress w).cur = s.cur := by
  unfold State.progress; split <;> simp
@[simp] theorem State.progress_mem (s : State) (w : WaveRef) : (s.progress w).mem = s.mem := by
  unfold State.progress; split <;> simp
@[simp] theorem State.progress_poison (s : State) (w : WaveRef) : (s.progress w).poison = s.poison := by
  unfold State.progress; split <;> simp
@[simp] theorem State.progress_waits (s : State) (w : WaveRef) : (s.progress w).waits = s.waits := by
  unfold State.progress; split <;> simp
@[simp] theorem State.progress_started (s : State) (w : WaveRef) : (s.progress w).started = s.started := by
  unfold State.progress; split <;> simp
@[simp] theorem State.progress_ctxs (s : State) (w : WaveRef) : (s.progress w).ctxs = s.ctxs := by
  unfold State.progress; split <;> simp
@[simp] theorem State.progress_tlb (s : State) (w : WaveRef) : (s.progress w).tlb = s.tlb := by
  unfold State.progress; split <;> simp
@[simp] theorem State.progress_walks (s : State) (w : WaveRef) : (s.progress w).walks = s.walks := by
  unfold State.progress; split <;> simp
@[simp] theorem State.progress_binds (s : State) (w : WaveRef) : (s.progress w).binds = s.binds := by
  unfold State.progress; split <;> simp
@[simp] theorem State.progress_spareFrames (s : State) (w : WaveRef) : (s.progress w).spareFrames = s.spareFrames := by
  unfold State.progress; split <;> simp
@[simp] theorem State.progress_nextLid (s : State) (w : WaveRef) : (s.progress w).nextLid = s.nextLid := by
  unfold State.progress; split <;> simp
@[simp] theorem State.progress_nextLseq (s : State) (w : WaveRef) : (s.progress w).nextLseq = s.nextLseq := by
  unfold State.progress; split <;> simp
@[simp] theorem State.progress_quiesced (s : State) (w : WaveRef) : (s.progress w).quiesced = s.quiesced := by
  unfold State.progress; split <;> simp
@[simp] theorem State.progress_tiles (s : State) (w : WaveRef) : (s.progress w).tiles = s.tiles := by
  unfold State.progress; split <;> simp
@[simp] theorem State.progress_clusters (s : State) (w : WaveRef) : (s.progress w).clusters = s.clusters := by
  unfold State.progress; split <;> simp
@[simp] theorem State.progress_dies (s : State) (w : WaveRef) : (s.progress w).dies = s.dies := by
  unfold State.progress; split <;> simp
@[simp] theorem State.progress_links (s : State) (w : WaveRef) : (s.progress w).links = s.links := by
  unfold State.progress; split <;> simp
@[simp] theorem State.progress_rings (s : State) (w : WaveRef) : (s.progress w).rings = s.rings := by
  unfold State.progress; split <;> simp
@[simp] theorem State.progress_store (s : State) (w : WaveRef) : (s.progress w).store = s.store := by
  unfold State.progress; split <;> simp
@[simp] theorem State.progress_nextId (s : State) (w : WaveRef) : (s.progress w).nextId = s.nextId := by
  unfold State.progress; split <;> simp
@[simp] theorem State.progress_wdogs (s : State) (w : WaveRef) : (s.progress w).wdogs = s.wdogs := by
  unfold State.progress; split <;> simp
@[simp] theorem State.progress_refused (s : State) (w : WaveRef) : (s.progress w).refused = s.refused := by
  unfold State.progress; split <;> simp
@[simp] theorem State.progress_l3 (s : State) (w : WaveRef) : (s.progress w).l3 = s.l3 := by
  unfold State.progress; split <;> simp
@[simp] theorem State.progress_capQ (s : State) (w : WaveRef) : (s.progress w).capQ = s.capQ := by
  unfold State.progress; split <;> simp
@[simp] theorem State.progress_capPrev (s : State) (w : WaveRef) : (s.progress w).capPrev = s.capPrev := by
  unfold State.progress; split <;> simp
@[simp] theorem State.progress_floors (s : State) (w : WaveRef) : (s.progress w).floors = s.floors := by
  unfold State.progress; split <;> simp
@[simp] theorem State.progress_pbase (s : State) (w : WaveRef) : (s.progress w).pbase = s.pbase := by
  unfold State.progress; split <;> simp
@[simp] theorem State.progress_pidle (s : State) (w : WaveRef) : (s.progress w).pidle = s.pidle := by
  unfold State.progress; split <;> simp
@[simp] theorem State.progress_energy (s : State) (w : WaveRef) : (s.progress w).energy = s.energy := by
  unfold State.progress; split <;> simp
@[simp] theorem State.progress_lastP (s : State) (w : WaveRef) : (s.progress w).lastP = s.lastP := by
  unfold State.progress; split <;> simp
@[simp] theorem State.progress_interval (s : State) (w : WaveRef) : (s.progress w).interval = s.interval := by
  unfold State.progress; split <;> simp
@[simp] theorem State.progress_bar0 (s : State) (w : WaveRef) : (s.progress w).bar0 = s.bar0 := by
  unfold State.progress; split <;> simp
@[simp] theorem State.progress_queues (s : State) (w : WaveRef) : (s.progress w).queues = s.queues := by
  unfold State.progress; split <;> simp
@[simp] theorem State.progress_rr (s : State) (w : WaveRef) : (s.progress w).rr = s.rr := by
  unfold State.progress; split <;> simp
@[simp] theorem State.progress_evDropped (s : State) (w : WaveRef) : (s.progress w).evDropped = s.evDropped := by
  unfold State.progress; split <;> simp
@[simp] theorem State.progress_msix (s : State) (w : WaveRef) : (s.progress w).msix = s.msix := by
  unfold State.progress; split <;> simp
@[simp] theorem State.progress_hostOut (s : State) (w : WaveRef) : (s.progress w).hostOut = s.hostOut := by
  unfold State.progress; split <;> simp
@[simp] theorem State.progress_mgmtOut (s : State) (w : WaveRef) : (s.progress w).mgmtOut = s.mgmtOut := by
  unfold State.progress; split <;> simp
@[simp] theorem State.progress_fabOut (s : State) (w : WaveRef) : (s.progress w).fabOut = s.fabOut := by
  unfold State.progress; split <;> simp
@[simp] theorem State.progress_fabFail (s : State) (w : WaveRef) : (s.progress w).fabFail = s.fabFail := by
  unfold State.progress; split <;> simp
@[simp] theorem State.progress_nextTag (s : State) (w : WaveRef) : (s.progress w).nextTag = s.nextTag := by
  unfold State.progress; split <;> simp
@[simp] theorem State.progress_discarded (s : State) (w : WaveRef) : (s.progress w).discarded = s.discarded := by
  unfold State.progress; split <;> simp
@[simp] theorem State.progress_failed (s : State) (w : WaveRef) : (s.progress w).failed = s.failed := by
  unfold State.progress; split <;> simp
@[simp] theorem State.progress_cxl (s : State) (w : WaveRef) : (s.progress w).cxl = s.cxl := by
  unfold State.progress; split <;> simp
@[simp] theorem State.progress_fw (s : State) (w : WaveRef) : (s.progress w).fw = s.fw := by
  unfold State.progress; split <;> simp
@[simp] theorem State.progress_retired (s : State) (w : WaveRef) : (s.progress w).retired = s.retired := by
  unfold State.progress; split <;> simp
@[simp] theorem State.progress_clearRetired (s : State) (w : WaveRef) : (s.progress w).clearRetired = s.clearRetired := by
  unfold State.progress; split <;> simp
@[simp] theorem State.progress_rowErr (s : State) (w : WaveRef) : (s.progress w).rowErr = s.rowErr := by
  unfold State.progress; split <;> simp
@[simp] theorem State.progress_spared (s : State) (w : WaveRef) : (s.progress w).spared = s.spared := by
  unfold State.progress; split <;> simp
@[simp] theorem State.progress_unspared (s : State) (w : WaveRef) : (s.progress w).unspared = s.unspared := by
  unfold State.progress; split <;> simp
@[simp] theorem State.progress_trained (s : State) (w : WaveRef) : (s.progress w).trained = s.trained := by
  unfold State.progress; split <;> simp

end Sys2Proof.Machine
end

