-- ==== Sys2Proof/Laws/Waves.lean ====
section
/-!
SUPPORT. Waves in the state: a wave read after one is written, two changes of one wave, and the site of a wave.
-/

set_option Elab.async false

namespace Sys2Proof

/-- Two writes of one entry are the last one. -/
@[simp] theorem Tab.put_put {α : Type} (t : Tab α) (k : Nat) (u v : α) : (t.put k u).put k v = t.put k v := by
  induction t with
  | nil => simp [Tab.put]
  | cons e r ih => by_cases h : e.1 = k <;> simp [Tab.put, h, ih]

/-- Writing back what an entry holds changes nothing. -/
theorem Tab.put_get {α : Type} {t : Tab α} {k : Nat} {v : α} (h : t.get? k = some v) : t.put k v = t := by
  induction t with
  | nil => simp [Tab.get?] at h
  | cons e r ih =>
    obtain ⟨k', v'⟩ := e
    by_cases hk : k' = k
    · simp [Tab.get?, hk] at h; simp [Tab.put, hk, h]
    · simp [Tab.get?, hk] at h; simp [Tab.put, hk, ih h]

end Sys2Proof

namespace Sys2Proof.Machine

open Sys2Proof

@[simp] theorem State.setLaunch_setLaunch (s : State) (l : Nat) (x y : Launch) :
    (s.setLaunch l x).setLaunch l y = s.setLaunch l y := by
  simp [State.setLaunch]

@[simp] theorem State.launch?_setLaunch (s : State) (l : Nat) (x : Launch) : (s.setLaunch l x).launch? l = some x := by
  simp [State.launch?, State.setLaunch, Tab.get?_put_same]

theorem State.launch?_setLaunch_other (s : State) {l j : Nat} (x : Launch) (h : j ≠ l) :
    (s.setLaunch l x).launch? j = s.launch? j := by
  simp [State.launch?, State.setLaunch, Tab.get?_put_other _ _ _ _ h]

/-- What `setBlock` does to a launch that exists. -/
theorem State.setBlock_eq {s : State} {b : BlockRef} {l : Launch} (h : s.launch? b.lid = some l) (x : Block) :
    s.setBlock b x = s.setLaunch b.lid { l with blocks := l.blocks.put b.blk x } := by
  simp [State.setBlock, h]

theorem State.block?_eq {s : State} {b : BlockRef} {l : Launch} (h : s.launch? b.lid = some l) :
    s.block? b = l.blocks.get? b.blk := by
  simp [State.block?, h]

/-- The launch of a block that exists. -/
theorem State.launch_of_block {s : State} {b : BlockRef} {x : Block} (h : s.block? b = some x) :
    ∃ l, s.launch? b.lid = some l ∧ l.blocks.get? b.blk = some x := by
  unfold State.block? at h
  split at h
  · exact ⟨_, by assumption, h⟩
  · simp at h

@[simp] theorem State.block?_setBlock {s : State} {b : BlockRef} {y : Block} (h : s.block? b = some y) (x : Block) :
    (s.setBlock b x).block? b = some x := by
  obtain ⟨l, hl, -⟩ := State.launch_of_block h
  simp [State.setBlock_eq hl, State.block?, Tab.get?_put_same]

theorem State.block?_setBlock_other (s : State) {b d : BlockRef} (x : Block) (h : d ≠ b) :
    (s.setBlock b x).block? d = s.block? d := by
  cases hl : s.launch? b.lid with
  | none => simp [State.setBlock, hl]
  | some l =>
    rw [State.setBlock_eq hl]
    by_cases hd : d.lid = b.lid
    · have hb : d.blk ≠ b.blk := by
        intro hb; apply h; cases d; cases b; simp_all
      simp [State.block?, hd, hl, Tab.get?_put_other _ _ _ _ hb]
    · simp [State.block?, State.launch?_setLaunch_other _ _ hd]

theorem State.setBlock_setBlock (s : State) (b : BlockRef) (x y : Block) : (s.setBlock b x).setBlock b y = s.setBlock b y := by
  cases hl : s.launch? b.lid with
  | none => simp [State.setBlock, hl]
  | some l =>
    rw [State.setBlock_eq hl, State.setBlock_eq hl]
    simp [State.setBlock]

/-- The block of a wave that exists. -/
theorem State.block_of_wave {s : State} {w : WaveRef} {x : Wave} (h : s.wave? w = some x) :
    ∃ b, s.block? w.block = some b ∧ b.waves[w.wav]? = some x := by
  unfold State.wave? at h
  split at h
  · exact ⟨_, by assumption, h⟩
  · simp at h

theorem State.setWave_eq {s : State} {w : WaveRef} {b : Block} (h : s.block? w.block = some b) (x : Wave) :
    s.setWave w x = s.setBlock w.block { b with waves := b.waves.set w.wav x } := by
  simp [State.setWave, h]

/-- A wave read after it is written. -/
theorem State.wave?_setWave {s : State} {w : WaveRef} {y : Wave} (h : s.wave? w = some y) (x : Wave) :
    (s.setWave w x).wave? w = some x := by
  obtain ⟨b, hb, hw⟩ := State.block_of_wave h
  have hlt : w.wav < b.waves.length := by
    rcases Nat.lt_or_ge w.wav b.waves.length with hlt | hge
    · exact hlt
    · simp [List.getElem?_eq_none hge] at hw
  rw [State.setWave_eq hb]
  simp [State.wave?, State.block?_setBlock hb, hlt]

/-- Another wave is left alone. -/
theorem State.wave?_setWave_other (s : State) {w v : WaveRef} (x : Wave) (h : v ≠ w) : (s.setWave w x).wave? v = s.wave? v := by
  cases hb : s.block? w.block with
  | none => simp [State.setWave, hb]
  | some b =>
    rw [State.setWave_eq hb]
    by_cases hv : v.block = w.block
    · have hw : v.wav ≠ w.wav := by
        intro hw; apply h; cases v; cases w; simp_all [WaveRef.block]
      simp [State.wave?, hv, State.block?_setBlock hb, hb, Ne.symm hw]
    · simp [State.wave?, State.block?_setBlock_other _ _ hv]

theorem State.setWave_setWave (s : State) (w : WaveRef) (x y : Wave) : (s.setWave w x).setWave w y = s.setWave w y := by
  cases hb : s.block? w.block with
  | none => simp [State.setWave, hb]
  | some b =>
    have hb2 : (s.setWave w x).block? w.block = some { b with waves := b.waves.set w.wav x } := by
      rw [State.setWave_eq hb, State.block?_setBlock hb]
    rw [State.setWave_eq hb2, State.setWave_eq hb, State.setWave_eq hb, State.setBlock_setBlock]
    simp

theorem State.modWave_eq {s : State} {w : WaveRef} {x : Wave} (h : s.wave? w = some x) (g : Wave → Wave) :
    s.modWave w g = s.setWave w (g x) := by
  simp [State.modWave, h]

/-- Two changes of one wave are one. -/
theorem State.modWave_modWave (s : State) (w : WaveRef) (f g : Wave → Wave) :
    (s.modWave w f).modWave w g = s.modWave w fun x => g (f x) := by
  cases h : s.wave? w with
  | none => simp [State.modWave, h]
  | some x =>
    rw [State.modWave_eq h, State.modWave_eq (State.wave?_setWave h _), State.modWave_eq h, State.setWave_setWave]

/-- Writing a wave back changes nothing. -/
theorem State.setWave_self {s : State} {w : WaveRef} {x : Wave} (h : s.wave? w = some x) : s.setWave w x = s := by
  obtain ⟨b, hb, hw⟩ := State.block_of_wave h
  obtain ⟨l, hl, hg⟩ := State.launch_of_block hb
  have hset : b.waves.set w.wav x = b.waves := by
    apply List.ext_getElem?
    intro i
    by_cases hi : w.wav = i
    · subst hi
      have hlt : w.wav < b.waves.length := by
        rcases Nat.lt_or_ge w.wav b.waves.length with hlt | hge
        · exact hlt
        · simp [List.getElem?_eq_none hge] at hw
      obtain ⟨_, hx⟩ := List.getElem?_eq_some_iff.mp hw
      simp [List.getElem?_set, hlt, hx]
    · simp [List.getElem?_set, hi]
  have hput : l.blocks.put w.block.blk b = l.blocks := Tab.put_get hg
  have hl' : s.launches.put w.block.lid l = s.launches := Tab.put_get (by simpa [State.launch?] using hl)
  rw [State.setWave_eq hb, hset, State.setBlock_eq hl]
  show s.setLaunch w.block.lid { l with blocks := l.blocks.put w.block.blk b } = s
  rw [hput]
  show { s with launches := s.launches.put w.block.lid l } = s
  rw [hl']

/-- A change that is none changes nothing. -/
theorem State.modWave_self (s : State) (w : WaveRef) {f : Wave → Wave} (h : ∀ x, f x = x) : s.modWave w f = s := by
  cases hw : s.wave? w with
  | none => simp [State.modWave, hw]
  | some x => rw [State.modWave_eq hw, h, State.setWave_self hw]

/-- What a site says of its wave. -/
theorem State.site_spec {s : State} {w : WaveRef} {x : Site} (h : s.site? w = some x) :
    x.w = w ∧ s.launch? w.lid = some x.launch ∧ s.block? w.block = some x.block ∧ s.wave? w = some x.wave := by
  unfold State.site? at h
  split at h
  · simp at h
  · rename_i l hl
    split at h
    · simp at h
    · rename_i b hb
      split at h
      · simp at h
      · rename_i y hy
        simp at h
        subst h
        simp [State.block?, State.wave?, WaveRef.block, hl, hb, hy]

end Sys2Proof.Machine
end

