-- ==== Sys2Proof/Laws/Operands.lean ====
section
/-!
SUPPORT. How an operation runs at a wave's place: the one equation that every operand form comes down to, what completing a place
does to the wave, and what the lanes of a placed value hold.
-/

set_option Elab.async false

namespace Sys2Proof.Machine

open Sys2Proof

/-- At a place, something done there is what the step answers. -/
theorem atSite_eq {s : State} {x : Site} {fr : Frame} {c : Cur} (h : AtPlace s x fr c) (k : Site → Cur → State) :
    atSite s k = .next (k x c) := by
  obtain ⟨h1, h2, h3⟩ := h
  simp [atSite, h1, h2, h3]

/-- Something done at the place of the wave that issues answers a next state, or there is no such place. -/
theorem atSite_cases (s : State) (k : Site → Cur → State) :
    atSite s k = .fault .noWave ∨ ∃ x fr c, AtPlace s x fr c ∧ atSite s k = .next (k x c) := by
  unfold atSite
  split
  · exact .inl rfl
  · rename_i w hw
    split
    · exact .inl rfl
    · rename_i x hx
      split
      · exact .inl rfl
      · rename_i fr c ht
        have hxw := (State.site_spec hx).1
        exact .inr ⟨x, fr, c, ⟨by rw [hxw]; exact hw, by rw [hxw]; exact hx, ht⟩, rfl⟩

/-- An operation whose fields fit a form ends as its meaning says. -/
theorem runOp_fits {op : Op} {f : Fields} {s : State} {x : Site} {fr : Frame} {c : Cur} {fm : Form} {i : OpIn}
    (h : AtPlace s x fr c) (hf : Fits op f x c fm i) :
    runOp op f s =
      .next (settle s x c i.mask op.opc (op.word f) (op.resTy f.typ.toNat) (placeValue fm i) (op.core i s)) := by
  obtain ⟨ty, h1, h2, h3⟩ := hf
  simp [runOp, atSite_eq h, Op.at, h1, h2, h3]

/-- An operation whose fields fit no form takes trap(RESERVED) (04 R82). -/
theorem runOp_unfit {op : Op} {f : Fields} {s : State} {x : Site} {fr : Frame} {c : Cur}
    (h : AtPlace s x fr c) (hf : ∀ fm i, ¬Fits op f x c fm i) :
    runOp op f s = .next (s.takeReserved x c (op.word f) (op.resTy f.typ.toNat)) := by
  simp only [runOp, atSite_eq h, Op.at]
  congr 1
  split
  · rename_i ty fm h1 h2
    split
    · rename_i i h3
      exact absurd ⟨ty, h1, h2, h3⟩ (hf fm i)
    · rfl
  · rfl

/-- What the operands of a fitting instruction are. -/
theorem Fits.spec {op : Op} {f : Fields} {x : Site} {c : Cur} {fm : Form} {i : OpIn} (h : Fits op f x c fm i) :
    i.x = x ∧ i.amask = c.mask ∧ Ty.ofCode f.typ.toNat = some i.ty ∧ i.md = f.md.toNat ∧ i.f = f := by
  obtain ⟨ty, h1, h2, h3⟩ := h
  unfold fetchOperands at h3
  split at h3
  · simp at h3; subst h3; simp [h1]
  · simp at h3

/-! ## Completing a place -/

/-- Completing a place of a portable wave, outside debug-form code. -/
theorem State.completePlace_eq {s : State} {w : WaveRef} {x : Site} {fr : Frame} {c : Cur} (opc : Nat) (v : Value)
    (recs : List MemRec) (h : s.site? w = some x) (hn : x.wave.native = none) (ht : x.wave.top? = some (fr, c))
    (hd : s.debugFrame fr = false) :
    s.completePlace w opc v recs = s.setWave w (({ x.wave.define v with mode := .run } : Wave).countStep s.tick) := by
  simp [State.completePlace, h, hn, ht, hd]

/-- Completing a place changes no other wave. -/
theorem State.completePlace_other (s : State) {w u : WaveRef} (opc : Nat) (v : Value) (recs : List MemRec) (h : u ≠ w) :
    (s.completePlace w opc v recs).wave? u = s.wave? u := by
  unfold State.completePlace
  split
  · rfl
  · split
    · exact State.wave?_setWave_other _ _ h
    · rfl
    · exact State.wave?_setWave_other _ _ h

/-! ## Lanes -/

@[simp] theorem Lanes.get_tab {α : Type} (f : Fin 32 → α) (k : Fin 32) : (Lanes.tab f).get k = f k := by
  have h : (Vector.ofFn f).get k = (Vector.ofFn f)[k.val] := rfl
  rw [Lanes.tab, h, Vector.getElem_ofFn]

@[simp] theorem Lanes.get_all {α : Type} (a : α) (k : Fin 32) : (Lanes.all a).get k = a := by simp [Lanes.all]

@[simp] theorem mergeLanes_get {α : Type} (m : LaneMask) (a b : Lanes α) (k : Fin 32) :
    (mergeLanes m a b).get k = if m.has k.val then a.get k else b.get k := by simp [mergeLanes]

theorem Ty.bits_le (t : Ty) : t.bits ≤ 1600 := by cases t <;> decide

/-- A lane of a tabled value. -/
theorem Value.nat_tab (t : Ty) (f : Fin 32 → Nat) (k : Fin 32) : (Value.tab t f).nat k = f k % 2 ^ t.bits := by
  have h : 2 ^ t.bits ≤ 2 ^ 1600 := Nat.pow_le_pow_right (by decide) t.bits_le
  have h2 : f k % 2 ^ t.bits < 2 ^ 1600 := Nat.lt_of_lt_of_le (Nat.mod_lt _ (Nat.two_pow_pos _)) h
  simp only [Value.nat, Value.tab, Lanes.get_tab, BitVec.toNat_ofNat]
  exact Nat.mod_eq_of_lt h2

/-- A lane of a tabled mask. -/
@[simp] theorem LaneMask.has_tab (f : Nat → Bool) (k : Fin 32) : (LaneMask.tab f).has k.val = f k.val := by
  have step : ∀ (n : Nat) (k : Nat), n ≤ 32 → k < 32 →
      BitVec.getLsbD ((List.range n).foldl (fun m i => if f i then m ||| (1#32 <<< i) else m) 0#32) k =
        (decide (k < n) && f k) := by
    intro n
    induction n with
    | zero => intro k _ _; simp
    | succ n ih =>
      intro k hn hk
      rw [List.range_succ, List.foldl_append]
      simp only [List.foldl_cons, List.foldl_nil]
      have hi := ih k (by omega) hk
      by_cases hkn : k = n
      · subst hkn
        have hf : f k = true ∨ f k = false := by cases f k <;> simp
        rcases hf with hf | hf
        · simp [hf, hi, BitVec.getLsbD_shiftLeft, hk]
        · simp [hf, hi]
      · have h1 : decide (k < n + 1) = decide (k < n) := by
          by_cases h : k < n
          · simp [h, Nat.lt_succ_of_lt h]
          · have : ¬k < n + 1 := by omega
            simp [h, this]
        rw [h1]
        by_cases hf : f n
        · simp only [hf, if_true, BitVec.getLsbD_or, hi, BitVec.getLsbD_shiftLeft]
          by_cases hlt : k < n
          · simp [hlt]
          · have h2 : k - n ≠ 0 := by omega
            have h3 : BitVec.getLsbD (1#32) (k - n) = false := by
              rw [BitVec.getLsbD_one]
              simp [h2]
            simp [hlt, h3]
        · simp [hf, hi]
  have := step 32 k.val (Nat.le_refl _) k.isLt
  simp only [LaneMask.tab, LaneMask.has]
  rw [this]
  simp [k.isLt]

/-- The lanes that hold a path. -/
theorem existMask_has (l w : Nat) (k : Fin 32) : (existMask l w).has k.val = decide (32 * w + k.val < l) := by
  simp [existMask]

/-! ## Operand forms, and what a place then holds -/

/-- The operand of a field that must name a value of one of some types. -/
theorem fetchArg_need {c : Cur} {ts : List Ty} {r : Ref} {t : Ty} {v : Value} (h : Names c r t v) (ht : ts.contains t = true) :
    fetchArg c (.need ts) r = some v := by
  obtain ⟨h0, h1, h2⟩ := h
  have h0' : (r == 0) = false := by simpa using h0
  simp only [fetchArg, h0', h1, h2, ht, if_true]
  rfl

theorem fetchArg_absent (c : Cur) : fetchArg c .absent 0 = some Value.void := by simp [fetchArg]

/-- The lanes of an instruction that takes a predicate. -/
theorem fetchPred_active {c : Cur} {r : Ref} {m : LaneMask} (h : Active c r m) : ∃ p, fetchPred c true r = some p ∧ c.mask &&& p = m := by
  rcases h with ⟨h0, hm⟩ | ⟨v, ⟨h0, h1, h2⟩, hm⟩
  · exact ⟨BitVec.allOnes 32, by simp only [fetchPred, h0]; rfl, by rw [hm, BitVec.and_allOnes]⟩
  · have h0' : (r == 0) = false := by simpa using h0
    refine ⟨LaneMask.tab fun i => (v.x[i]?.getD 0).getLsbD 0, by simp only [fetchPred, h0', h1, h2]; rfl, ?_⟩
    apply BitVec.eq_of_getLsbD_eq
    intro k hk
    have := hm ⟨k, hk⟩
    have h2 := LaneMask.has_tab (fun i => (v.x[i]?.getD 0).getLsbD 0) ⟨k, hk⟩
    simp only [LaneMask.has] at this h2
    rw [BitVec.getLsbD_and, h2, this]
    simp [hk]
    rfl

/-- A word whose fields fit an operand form. -/
theorem fits_mk {op : Op} {f : Fields} {x : Site} {c : Cur} {T : Ty} {fm : Form} {a b cc : Value} {m : LaneMask}
    (hT : Ty.ofCode f.typ.toNat = some T) (hf : op.form f.typ.toNat f.md.toNat = some fm)
    (ha : fetchArg c fm.a f.a = some a) (hb : fetchArg c fm.b f.b = some b) (hc : fetchArg c fm.c f.c = some cc)
    (hp : fm.pred = true) (hm : Active c f.p m) :
    Fits op f x c fm { x := x, mask := m, amask := c.mask, ty := T, md := f.md.toNat, a := a, b := b, c := cc, f := f } := by
  obtain ⟨p, h1, h2⟩ := fetchPred_active hm
  exact ⟨T, hT, hf, by simp [fetchOperands, ha, hb, hc, hp, h1, h2]⟩

/-- An operation that ends with its place defined. -/
theorem runOp_done {op : Op} {f : Fields} {s t : State} {x : Site} {fr : Frame} {c : Cur} {fm : Form} {i : OpIn} {v : Value}
    (h : AtPlace s x fr c) (hf : Fits op f x c fm i) (hd : op.core i s = .done t v) :
    runOp op f s = .next (t.completePlace x.w op.opc (placeValue fm i v) []) := by
  rw [runOp_fits h hf, hd]; rfl

theorem placeValue_ty (fm : Form) (i : OpIn) (v : Value) : (placeValue fm i v).ty = v.ty := by
  unfold placeValue; cases fm.pass <;> rfl

/-- The lanes of a place whose inactive lanes hold operand a. -/
theorem lanewise_opA {fm : Form} {i : OpIn} {v : Value} {P : Fin 32 → Nat → Prop} (hp : fm.pass = .opA) (ht : i.a.ty = v.ty)
    (hP : ∀ k, i.mask.has k.val = true → P k (v.nat k)) : Lanewise i.x i.mask (placeValue fm i v) i.a.nat P := by
  intro k
  simp only [placeValue, hp, ht, Value.nat, mergeLanes_get, existMask_has, holdsPath]
  by_cases h1 : 32 * i.x.w.wav + k.val < i.x.launch.lanes
  · by_cases h2 : i.mask.has k.val
    · simp [h1, h2]; exact hP k h2
    · simp [h1, h2]
  · simp [h1]

/-- The lanes of a place whose inactive lanes hold operand c. -/
theorem lanewise_opC {fm : Form} {i : OpIn} {v : Value} {P : Fin 32 → Nat → Prop} (hp : fm.pass = .opC) (ht : i.c.ty = v.ty)
    (hP : ∀ k, i.mask.has k.val = true → P k (v.nat k)) : Lanewise i.x i.mask (placeValue fm i v) i.c.nat P := by
  intro k
  simp only [placeValue, hp, ht, Value.nat, mergeLanes_get, existMask_has, holdsPath]
  by_cases h1 : 32 * i.x.w.wav + k.val < i.x.launch.lanes
  · by_cases h2 : i.mask.has k.val
    · simp [h1, h2]; exact hP k h2
    · simp [h1, h2]
  · simp [h1]

/-- The lanes of a place whose inactive lanes hold zero. -/
theorem lanewise_zero {fm : Form} {i : OpIn} {v : Value} {P : Fin 32 → Nat → Prop} (hp : fm.pass = .zero)
    (hP : ∀ k, i.mask.has k.val = true → P k (v.nat k)) : Lanewise i.x i.mask (placeValue fm i v) (fun _ => 0) P := by
  intro k
  simp only [placeValue, hp, Value.nat, mergeLanes_get, existMask_has, holdsPath]
  by_cases h1 : 32 * i.x.w.wav + k.val < i.x.launch.lanes
  · by_cases h2 : i.mask.has k.val
    · simp [h1, h2]; exact hP k h2
    · simp [h1, h2]
  · simp [h1]

/-- An operand of the one type that its field takes. -/
theorem fetchArg_one {c : Cur} {r : Ref} {t : Ty} {v : Value} (h : Names c r t v) : fetchArg c (.need [t]) r = some v :=
  fetchArg_need h (by simp)

/-- The operand of a field that is 0 where its form takes none. -/
theorem fetchArg_none {c : Cur} {r : Ref} (h : r = 0) : fetchArg c .absent r = some Value.void := by subst h; exact fetchArg_absent c

/-- The form of an accepted type. -/
theorem formFor_some {ts : List Ty} {typ : Nat} {ok : Bool} {g : Ty → Form} {T : Ty} (hT : Ty.ofCode typ = some T)
    (ht : T ∈ ts) (hok : ok = true) : formFor ts typ ok g = some (g T) := by
  have ht' : ts.contains T = true := by simpa using ht
  simp only [formFor, hT, ht', hok, Bool.and_true, if_true]

@[simp] theorem Ty.ofCode_code (T : Ty) : Ty.ofCode T.code = some T := by cases T <;> rfl

/-- An operation whose result has the type of operand a, which an inactive lane keeps. -/
theorem completesBy_opA {op : Op} {f : Fields} {s t : State} {x : Site} {fr : Frame} {c : Cur} {T R : Ty} {fm : Form}
    {a b cc v : Value} {m : LaneMask} {P : Fin 32 → Nat → Prop} (hx : AtPlace s x fr c)
    (hT : Ty.ofCode f.typ.toNat = some T) (hf : op.form f.typ.toNat f.md.toNat = some fm)
    (ha : fetchArg c fm.a f.a = some a) (hb : fetchArg c fm.b f.b = some b) (hc : fetchArg c fm.c f.c = some cc)
    (hp : fm.pred = true) (hm : Active c f.p m) (hpass : fm.pass = .opA)
    (hcore : op.core { x := x, mask := m, amask := c.mask, ty := T, md := f.md.toNat, a := a, b := b, c := cc, f := f } s =
      .done t v) (hv : v.ty = R) (hR : a.ty = R) (hP : ∀ k, m.has k.val = true → P k (v.nat k)) :
    CompletesBy (runOp op f s) t x op.opc R m a.nat P :=
  ⟨_, runOp_done hx (fits_mk hT hf ha hb hc hp hm) hcore, by rw [placeValue_ty, hv],
    lanewise_opA (i := { x := x, mask := m, amask := c.mask, ty := T, md := f.md.toNat, a := a, b := b, c := cc, f := f })
      hpass (hR.trans hv.symm) hP⟩

/-- An operation whose inactive lanes hold zero. -/
theorem completesBy_zero {op : Op} {f : Fields} {s t : State} {x : Site} {fr : Frame} {c : Cur} {T R : Ty} {fm : Form}
    {a b cc v : Value} {m : LaneMask} {P : Fin 32 → Nat → Prop} (hx : AtPlace s x fr c)
    (hT : Ty.ofCode f.typ.toNat = some T) (hf : op.form f.typ.toNat f.md.toNat = some fm)
    (ha : fetchArg c fm.a f.a = some a) (hb : fetchArg c fm.b f.b = some b) (hc : fetchArg c fm.c f.c = some cc)
    (hp : fm.pred = true) (hm : Active c f.p m) (hpass : fm.pass = .zero)
    (hcore : op.core { x := x, mask := m, amask := c.mask, ty := T, md := f.md.toNat, a := a, b := b, c := cc, f := f } s =
      .done t v) (hv : v.ty = R) (hP : ∀ k, m.has k.val = true → P k (v.nat k)) :
    CompletesBy (runOp op f s) t x op.opc R m (fun _ => 0) P :=
  ⟨_, runOp_done hx (fits_mk hT hf ha hb hc hp hm) hcore, by rw [placeValue_ty, hv],
    lanewise_zero (i := { x := x, mask := m, amask := c.mask, ty := T, md := f.md.toNat, a := a, b := b, c := cc, f := f })
      hpass hP⟩

end Sys2Proof.Machine
end

