-- ==== Sys2Proof/Laws/PerInstr.lean ====
section
/-!
SUPPORT. One lemma per constructor of `Instr`: the opcode that the encoder gives a well-formed instruction decodes to that
instruction, and an event of the part has no encoding.
-/

set_option Elab.async false

namespace Sys2Proof.Laws.RoundTrip

/-- The opcode tables of the decoder and the encoder agree at this instruction (04 R89; 05 R99), and an instruction in neither
table has no words. -/
def Statement (i : Instr) : Prop :=
  (∀ opc f, i.opcode? = some opc → i.fields? = some f → i.wf = true → opc < 0x1C0 ∧ decodeOp opc f i.argWords = some i) ∧
  (∀ opc s, i.nativeOpcode? = some opc → i.slot? = some s → opc < 512 ∧ decodeNative opc s = some i) ∧
  (i.opcode? = none → i.nativeOpcode? = none → encode i = .noWords)

theorem of_word (i : Instr) (n : Nat) (f : Fields) (h1 : i.opcode? = some n) (h2 : i.fields? = some f) (h3 : i.nativeOpcode? = none)
    (hn : n < 0x1C0) (h : i.wf = true → decodeOp n f i.argWords = some i) : Statement i :=
  ⟨fun opc g ho hg hw => by
      obtain rfl : n = opc := Option.some.inj (h1.symm.trans ho)
      obtain rfl : f = g := Option.some.inj (h2.symm.trans hg)
      exact ⟨hn, h hw⟩,
    fun opc s ho _ => absurd (h3.symm.trans ho) nofun, fun h0 _ => absurd (h1.symm.trans h0) nofun⟩

theorem of_slot (i : Instr) (n : Nat) (s : Slot) (h1 : i.opcode? = none) (h2 : i.nativeOpcode? = some n) (h3 : i.slot? = some s)
    (hn : n < 512) (h : decodeNative n s = some i) : Statement i :=
  ⟨fun opc g ho _ _ => absurd (h1.symm.trans ho) nofun,
    fun opc t ho ht => by
      obtain rfl : n = opc := Option.some.inj (h2.symm.trans ho)
      obtain rfl : s = t := Option.some.inj (h3.symm.trans ht)
      exact ⟨hn, h⟩,
    fun _ h0 => absurd (h2.symm.trans h0) nofun⟩

theorem of_event (i : Instr) (h1 : i.opcode? = none) (h2 : i.nativeOpcode? = none) (h3 : encode i = .noWords) : Statement i :=
  ⟨fun _ _ ho _ _ => absurd (h1.symm.trans ho) nofun, fun _ _ ho _ => absurd (h2.symm.trans ho) nofun, fun _ _ => h3⟩

theorem add (f : Fields) : Statement (.add f) :=
  of_word _ 0x000 f rfl rfl rfl (by decide) fun _ => rfl
theorem sub (f : Fields) : Statement (.sub f) :=
  of_word _ 0x001 f rfl rfl rfl (by decide) fun _ => rfl
theorem mul (f : Fields) : Statement (.mul f) :=
  of_word _ 0x002 f rfl rfl rfl (by decide) fun _ => rfl
theorem mulhi (f : Fields) : Statement (.mulhi f) :=
  of_word _ 0x003 f rfl rfl rfl (by decide) fun _ => rfl
theorem mulw (f : Fields) : Statement (.mulw f) :=
  of_word _ 0x004 f rfl rfl rfl (by decide) fun _ => rfl
theorem mad (f : Fields) : Statement (.mad f) :=
  of_word _ 0x005 f rfl rfl rfl (by decide) fun _ => rfl
theorem div (f : Fields) : Statement (.div f) :=
  of_word _ 0x006 f rfl rfl rfl (by decide) fun _ => rfl
theorem rem (f : Fields) : Statement (.rem f) :=
  of_word _ 0x007 f rfl rfl rfl (by decide) fun _ => rfl
theorem neg (f : Fields) : Statement (.neg f) :=
  of_word _ 0x008 f rfl rfl rfl (by decide) fun _ => rfl
theorem abs (f : Fields) : Statement (.abs f) :=
  of_word _ 0x009 f rfl rfl rfl (by decide) fun _ => rfl
theorem min (f : Fields) : Statement (.min f) :=
  of_word _ 0x00A f rfl rfl rfl (by decide) fun _ => rfl
theorem max (f : Fields) : Statement (.max f) :=
  of_word _ 0x00B f rfl rfl rfl (by decide) fun _ => rfl
theorem and (f : Fields) : Statement (.and f) :=
  of_word _ 0x00C f rfl rfl rfl (by decide) fun _ => rfl
theorem or (f : Fields) : Statement (.or f) :=
  of_word _ 0x00D f rfl rfl rfl (by decide) fun _ => rfl
theorem xor (f : Fields) : Statement (.xor f) :=
  of_word _ 0x00E f rfl rfl rfl (by decide) fun _ => rfl
theorem not (f : Fields) : Statement (.not f) :=
  of_word _ 0x00F f rfl rfl rfl (by decide) fun _ => rfl
theorem shl (f : Fields) : Statement (.shl f) :=
  of_word _ 0x010 f rfl rfl rfl (by decide) fun _ => rfl
theorem shr (f : Fields) : Statement (.shr f) :=
  of_word _ 0x011 f rfl rfl rfl (by decide) fun _ => rfl
theorem rot (f : Fields) : Statement (.rot f) :=
  of_word _ 0x012 f rfl rfl rfl (by decide) fun _ => rfl
theorem popc (f : Fields) : Statement (.popc f) :=
  of_word _ 0x013 f rfl rfl rfl (by decide) fun _ => rfl
theorem clz (f : Fields) : Statement (.clz f) :=
  of_word _ 0x014 f rfl rfl rfl (by decide) fun _ => rfl
theorem ctz (f : Fields) : Statement (.ctz f) :=
  of_word _ 0x015 f rfl rfl rfl (by decide) fun _ => rfl
theorem brev (f : Fields) : Statement (.brev f) :=
  of_word _ 0x016 f rfl rfl rfl (by decide) fun _ => rfl
theorem bfx (f : Fields) : Statement (.bfx f) :=
  of_word _ 0x017 f rfl rfl rfl (by decide) fun _ => rfl
theorem bfi (f : Fields) : Statement (.bfi f) :=
  of_word _ 0x018 f rfl rfl rfl (by decide) fun _ => rfl
theorem cmp (f : Fields) : Statement (.cmp f) :=
  of_word _ 0x019 f rfl rfl rfl (by decide) fun _ => rfl
theorem sel (f : Fields) : Statement (.sel f) :=
  of_word _ 0x01A f rfl rfl rfl (by decide) fun _ => rfl
theorem ext (f : Fields) : Statement (.ext f) :=
  of_word _ 0x01B f rfl rfl rfl (by decide) fun _ => rfl
theorem aoff (f : Fields) : Statement (.aoff f) :=
  of_word _ 0x01C f rfl rfl rfl (by decide) fun _ => rfl
theorem adiff (f : Fields) : Statement (.adiff f) :=
  of_word _ 0x01D f rfl rfl rfl (by decide) fun _ => rfl
theorem vaddr (f : Fields) : Statement (.vaddr f) :=
  of_word _ 0x01E f rfl rfl rfl (by decide) fun _ => rfl
theorem dp4 (f : Fields) : Statement (.dp4 f) :=
  of_word _ 0x01F f rfl rfl rfl (by decide) fun _ => rfl
theorem const (f : Fields) : Statement (.const f) :=
  of_word _ 0x020 f rfl rfl rfl (by decide) fun _ => rfl
theorem constw (f : Fields) : Statement (.constw f) :=
  of_word _ 0x021 f rfl rfl rfl (by decide) fun _ => rfl
theorem param (f : Fields) : Statement (.param f) :=
  of_word _ 0x022 f rfl rfl rfl (by decide) fun _ => rfl
theorem id (f : Fields) : Statement (.id f) :=
  of_word _ 0x023 f rfl rfl rfl (by decide) fun _ => rfl
theorem fadd (f : Fields) : Statement (.fadd f) :=
  of_word _ 0x040 f rfl rfl rfl (by decide) fun _ => rfl
theorem fsub (f : Fields) : Statement (.fsub f) :=
  of_word _ 0x041 f rfl rfl rfl (by decide) fun _ => rfl
theorem fmul (f : Fields) : Statement (.fmul f) :=
  of_word _ 0x042 f rfl rfl rfl (by decide) fun _ => rfl
theorem fma (f : Fields) : Statement (.fma f) :=
  of_word _ 0x043 f rfl rfl rfl (by decide) fun _ => rfl
theorem fdiv (f : Fields) : Statement (.fdiv f) :=
  of_word _ 0x044 f rfl rfl rfl (by decide) fun _ => rfl
theorem fsqrt (f : Fields) : Statement (.fsqrt f) :=
  of_word _ 0x045 f rfl rfl rfl (by decide) fun _ => rfl
theorem frsq (f : Fields) : Statement (.frsq f) :=
  of_word _ 0x046 f rfl rfl rfl (by decide) fun _ => rfl
theorem frcp (f : Fields) : Statement (.frcp f) :=
  of_word _ 0x047 f rfl rfl rfl (by decide) fun _ => rfl
theorem fmin (f : Fields) : Statement (.fmin f) :=
  of_word _ 0x048 f rfl rfl rfl (by decide) fun _ => rfl
theorem fmax (f : Fields) : Statement (.fmax f) :=
  of_word _ 0x049 f rfl rfl rfl (by decide) fun _ => rfl
theorem fneg (f : Fields) : Statement (.fneg f) :=
  of_word _ 0x04A f rfl rfl rfl (by decide) fun _ => rfl
theorem fabs (f : Fields) : Statement (.fabs f) :=
  of_word _ 0x04B f rfl rfl rfl (by decide) fun _ => rfl
theorem fcmp (f : Fields) : Statement (.fcmp f) :=
  of_word _ 0x04C f rfl rfl rfl (by decide) fun _ => rfl
theorem fclass (f : Fields) : Statement (.fclass f) :=
  of_word _ 0x04D f rfl rfl rfl (by decide) fun _ => rfl
theorem fexp2 (f : Fields) : Statement (.fexp2 f) :=
  of_word _ 0x04E f rfl rfl rfl (by decide) fun _ => rfl
theorem flog2 (f : Fields) : Statement (.flog2 f) :=
  of_word _ 0x04F f rfl rfl rfl (by decide) fun _ => rfl
theorem fexp (f : Fields) : Statement (.fexp f) :=
  of_word _ 0x050 f rfl rfl rfl (by decide) fun _ => rfl
theorem flog (f : Fields) : Statement (.flog f) :=
  of_word _ 0x051 f rfl rfl rfl (by decide) fun _ => rfl
theorem fsin (f : Fields) : Statement (.fsin f) :=
  of_word _ 0x052 f rfl rfl rfl (by decide) fun _ => rfl
theorem fcos (f : Fields) : Statement (.fcos f) :=
  of_word _ 0x053 f rfl rfl rfl (by decide) fun _ => rfl
theorem ftanh (f : Fields) : Statement (.ftanh f) :=
  of_word _ 0x054 f rfl rfl rfl (by decide) fun _ => rfl
theorem fsigm (f : Fields) : Statement (.fsigm f) :=
  of_word _ 0x055 f rfl rfl rfl (by decide) fun _ => rfl
theorem fgelu (f : Fields) : Statement (.fgelu f) :=
  of_word _ 0x056 f rfl rfl rfl (by decide) fun _ => rfl
theorem fsilu (f : Fields) : Statement (.fsilu f) :=
  of_word _ 0x057 f rfl rfl rfl (by decide) fun _ => rfl
theorem ffloor (f : Fields) : Statement (.ffloor f) :=
  of_word _ 0x058 f rfl rfl rfl (by decide) fun _ => rfl
theorem fceil (f : Fields) : Statement (.fceil f) :=
  of_word _ 0x059 f rfl rfl rfl (by decide) fun _ => rfl
theorem fround (f : Fields) : Statement (.fround f) :=
  of_word _ 0x05A f rfl rfl rfl (by decide) fun _ => rfl
theorem ftrunc (f : Fields) : Statement (.ftrunc f) :=
  of_word _ 0x05B f rfl rfl rfl (by decide) fun _ => rfl
theorem fcopys (f : Fields) : Statement (.fcopys f) :=
  of_word _ 0x05C f rfl rfl rfl (by decide) fun _ => rfl
theorem fscale (f : Fields) : Statement (.fscale f) :=
  of_word _ 0x05D f rfl rfl rfl (by decide) fun _ => rfl
theorem fdot2 (f : Fields) : Statement (.fdot2 f) :=
  of_word _ 0x05E f rfl rfl rfl (by decide) fun _ => rfl
theorem flerp (f : Fields) : Statement (.flerp f) :=
  of_word _ 0x05F f rfl rfl rfl (by decide) fun _ => rfl
theorem fstat (f : Fields) : Statement (.fstat f) :=
  of_word _ 0x060 f rfl rfl rfl (by decide) fun _ => rfl
theorem fclr (f : Fields) : Statement (.fclr f) :=
  of_word _ 0x061 f rfl rfl rfl (by decide) fun _ => rfl
theorem sliAdd (f : Fields) : Statement (.sliAdd f) :=
  of_word _ 0x080 f rfl rfl rfl (by decide) fun _ => rfl
theorem sliSub (f : Fields) : Statement (.sliSub f) :=
  of_word _ 0x081 f rfl rfl rfl (by decide) fun _ => rfl
theorem sliMul (f : Fields) : Statement (.sliMul f) :=
  of_word _ 0x082 f rfl rfl rfl (by decide) fun _ => rfl
theorem sliDiv (f : Fields) : Statement (.sliDiv f) :=
  of_word _ 0x083 f rfl rfl rfl (by decide) fun _ => rfl
theorem sliNeg (f : Fields) : Statement (.sliNeg f) :=
  of_word _ 0x084 f rfl rfl rfl (by decide) fun _ => rfl
theorem sliAbs (f : Fields) : Statement (.sliAbs f) :=
  of_word _ 0x085 f rfl rfl rfl (by decide) fun _ => rfl
theorem sliRcp (f : Fields) : Statement (.sliRcp f) :=
  of_word _ 0x086 f rfl rfl rfl (by decide) fun _ => rfl
theorem sliCmp (f : Fields) : Statement (.sliCmp f) :=
  of_word _ 0x087 f rfl rfl rfl (by decide) fun _ => rfl
theorem sliMin (f : Fields) : Statement (.sliMin f) :=
  of_word _ 0x088 f rfl rfl rfl (by decide) fun _ => rfl
theorem sliMax (f : Fields) : Statement (.sliMax f) :=
  of_word _ 0x089 f rfl rfl rfl (by decide) fun _ => rfl
theorem sliStat (f : Fields) : Statement (.sliStat f) :=
  of_word _ 0x08A f rfl rfl rfl (by decide) fun _ => rfl
theorem sliClr (f : Fields) : Statement (.sliClr f) :=
  of_word _ 0x08B f rfl rfl rfl (by decide) fun _ => rfl
theorem sliLvl (f : Fields) : Statement (.sliLvl f) :=
  of_word _ 0x08C f rfl rfl rfl (by decide) fun _ => rfl
theorem sliSq (f : Fields) : Statement (.sliSq f) :=
  of_word _ 0x08D f rfl rfl rfl (by decide) fun _ => rfl
theorem cvt (f : Fields) : Statement (.cvt f) :=
  of_word _ 0x0A0 f rfl rfl rfl (by decide) fun _ => rfl
theorem bitc (f : Fields) : Statement (.bitc f) :=
  of_word _ 0x0A1 f rfl rfl rfl (by decide) fun _ => rfl
theorem qz (f : Fields) : Statement (.qz f) :=
  of_word _ 0x0A2 f rfl rfl rfl (by decide) fun _ => rfl
theorem dq (f : Fields) : Statement (.dq f) :=
  of_word _ 0x0A3 f rfl rfl rfl (by decide) fun _ => rfl
theorem pkn (f : Fields) : Statement (.pkn f) :=
  of_word _ 0x0A4 f rfl rfl rfl (by decide) fun _ => rfl
theorem upkn (f : Fields) : Statement (.upkn f) :=
  of_word _ 0x0A5 f rfl rfl rfl (by decide) fun _ => rfl
theorem xscl (f : Fields) : Statement (.xscl f) :=
  of_word _ 0x0A6 f rfl rfl rfl (by decide) fun _ => rfl
theorem hadm (f : Fields) : Statement (.hadm f) :=
  of_word _ 0x0A7 f rfl rfl rfl (by decide) fun _ => rfl
theorem shfl (f : Fields) : Statement (.shfl f) :=
  of_word _ 0x0B0 f rfl rfl rfl (by decide) fun _ => rfl
theorem vote (f : Fields) : Statement (.vote f) :=
  of_word _ 0x0B1 f rfl rfl rfl (by decide) fun _ => rfl
theorem scan (f : Fields) : Statement (.scan f) :=
  of_word _ 0x0B2 f rfl rfl rfl (by decide) fun _ => rfl
theorem red (f : Fields) : Statement (.red f) :=
  of_word _ 0x0B3 f rfl rfl rfl (by decide) fun _ => rfl
theorem gtrans (f : Fields) : Statement (.gtrans f) :=
  of_word _ 0x0B4 f rfl rfl rfl (by decide) fun _ => rfl
theorem bcast (f : Fields) : Statement (.bcast f) :=
  of_word _ 0x0B5 f rfl rfl rfl (by decide) fun _ => rfl
theorem lsel (f : Fields) : Statement (.lsel f) :=
  of_word _ 0x0B6 f rfl rfl rfl (by decide) fun _ => rfl
theorem br (f : Fields) (aw : List ArgWord) : Statement (.br f aw) :=
  of_word _ 0x0C0 f rfl rfl rfl (by decide) fun _ => rfl
theorem brc (f : Fields) (aw : List ArgWord) : Statement (.brc f aw) :=
  of_word _ 0x0C1 f rfl rfl rfl (by decide) fun _ => rfl
theorem call (f : Fields) (aw : List ArgWord) : Statement (.call f aw) :=
  of_word _ 0x0C2 f rfl rfl rfl (by decide) fun _ => rfl
theorem ret (f : Fields) : Statement (.ret f) :=
  of_word _ 0x0C3 f rfl rfl rfl (by decide) fun _ => rfl
theorem exit (f : Fields) : Statement (.exit f) :=
  of_word _ 0x0C4 f rfl rfl rfl (by decide) fun _ => rfl
theorem yield (f : Fields) : Statement (.yield f) :=
  of_word _ 0x0C5 f rfl rfl rfl (by decide) fun _ => rfl
theorem trap (f : Fields) : Statement (.trap f) :=
  of_word _ 0x0C6 f rfl rfl rfl (by decide) fun _ => rfl
theorem trapinfo (f : Fields) : Statement (.trapinfo f) :=
  of_word _ 0x0C7 f rfl rfl rfl (by decide) fun _ => rfl
theorem tret (f : Fields) : Statement (.tret f) :=
  of_word _ 0x0C8 f rfl rfl rfl (by decide) fun _ => rfl
theorem ldG (f : Fields) : Statement (.ldG f) :=
  of_word _ 0x0E0 f rfl rfl rfl (by decide) fun _ => rfl
theorem stG (f : Fields) : Statement (.stG f) :=
  of_word _ 0x0E1 f rfl rfl rfl (by decide) fun _ => rfl
theorem ldVa (f : Fields) : Statement (.ldVa f) :=
  of_word _ 0x0E2 f rfl rfl rfl (by decide) fun _ => rfl
theorem stVa (f : Fields) : Statement (.stVa f) :=
  of_word _ 0x0E3 f rfl rfl rfl (by decide) fun _ => rfl
theorem ldFrag (f : Fields) : Statement (.ldFrag f) :=
  of_word _ 0x0E4 f rfl rfl rfl (by decide) fun _ => rfl
theorem stTile (f : Fields) : Statement (.stTile f) :=
  of_word _ 0x0E5 f rfl rfl rfl (by decide) fun _ => rfl
theorem pfG (f : Fields) : Statement (.pfG f) :=
  of_word _ 0x0E6 f rfl rfl rfl (by decide) fun _ => rfl
theorem atomAdd (f : Fields) : Statement (.atomAdd f) :=
  of_word _ 0x0E8 f rfl rfl rfl (by decide) fun _ => rfl
theorem atomMin (f : Fields) : Statement (.atomMin f) :=
  of_word _ 0x0E9 f rfl rfl rfl (by decide) fun _ => rfl
theorem atomMax (f : Fields) : Statement (.atomMax f) :=
  of_word _ 0x0EA f rfl rfl rfl (by decide) fun _ => rfl
theorem atomAnd (f : Fields) : Statement (.atomAnd f) :=
  of_word _ 0x0EB f rfl rfl rfl (by decide) fun _ => rfl
theorem atomOr (f : Fields) : Statement (.atomOr f) :=
  of_word _ 0x0EC f rfl rfl rfl (by decide) fun _ => rfl
theorem atomXor (f : Fields) : Statement (.atomXor f) :=
  of_word _ 0x0ED f rfl rfl rfl (by decide) fun _ => rfl
theorem atomXchg (f : Fields) : Statement (.atomXchg f) :=
  of_word _ 0x0EE f rfl rfl rfl (by decide) fun _ => rfl
theorem atomCas (f : Fields) : Statement (.atomCas f) :=
  of_word _ 0x0EF f rfl rfl rfl (by decide) fun _ => rfl
theorem atomFadd (f : Fields) : Statement (.atomFadd f) :=
  of_word _ 0x0F0 f rfl rfl rfl (by decide) fun _ => rfl
theorem barB (f : Fields) : Statement (.barB f) :=
  of_word _ 0x100 f rfl rfl rfl (by decide) fun _ => rfl
theorem barG (f : Fields) : Statement (.barG f) :=
  of_word _ 0x101 f rfl rfl rfl (by decide) fun _ => rfl
theorem barGLv (f : Fields) : Statement (.barGLv f) :=
  of_word _ 0x102 f rfl rfl rfl (by decide) fun _ => rfl
theorem wait (f : Fields) : Statement (.wait f) :=
  of_word _ 0x103 f rfl rfl rfl (by decide) fun _ => rfl
theorem xfence (f : Fields) : Statement (.xfence f) :=
  of_word _ 0x104 f rfl rfl rfl (by decide) fun _ => rfl
theorem cdrain (f : Fields) : Statement (.cdrain f) :=
  of_word _ 0x105 f rfl rfl rfl (by decide) fun _ => rfl
theorem gred (f : Fields) : Statement (.gred f) :=
  of_word _ 0x106 f rfl rfl rfl (by decide) fun _ => rfl
theorem cpyBlk (f : Fields) : Statement (.cpyBlk f) :=
  of_word _ 0x110 f rfl rfl rfl (by decide) fun _ => rfl
theorem cpyGrp (f : Fields) : Statement (.cpyGrp f) :=
  of_word _ 0x111 f rfl rfl rfl (by decide) fun _ => rfl
theorem cpyW (f : Fields) : Statement (.cpyW f) :=
  of_word _ 0x112 f rfl rfl rfl (by decide) fun _ => rfl
theorem kvcommit (f : Fields) : Statement (.kvcommit f) :=
  of_word _ 0x113 f rfl rfl rfl (by decide) fun _ => rfl
theorem cpyFill (f : Fields) : Statement (.cpyFill f) :=
  of_word _ 0x114 f rfl rfl rfl (by decide) fun _ => rfl
theorem mma (f : Fields) : Statement (.mma f) :=
  of_word _ 0x118 f rfl rfl rfl (by decide) fun _ => rfl
theorem mmaL2 (f : Fields) : Statement (.mmaL2 f) :=
  of_word _ 0x119 f rfl rfl rfl (by decide) fun _ => rfl
theorem tzero (f : Fields) : Statement (.tzero f) :=
  of_word _ 0x11A f rfl rfl rfl (by decide) fun _ => rfl
theorem textr (f : Fields) : Statement (.textr f) :=
  of_word _ 0x11B f rfl rfl rfl (by decide) fun _ => rfl
theorem tins (f : Fields) : Statement (.tins f) :=
  of_word _ 0x11C f rfl rfl rfl (by decide) fun _ => rfl
theorem fmtld (f : Fields) : Statement (.fmtld f) :=
  of_word _ 0x11D f rfl rfl rfl (by decide) fun _ => rfl
theorem tcvt (f : Fields) : Statement (.tcvt f) :=
  of_word _ 0x11E f rfl rfl rfl (by decide) fun _ => rfl
theorem mmaComplete (w : WaveRef) : Statement (.mmaComplete w) :=
  of_event _ rfl rfl rfl
theorem rowTop (f : Fields) : Statement (.rowTop f) :=
  of_word _ 0x128 f rfl rfl rfl (by decide) fun _ => rfl
theorem rowHeart (f : Fields) : Statement (.rowHeart f) :=
  of_word _ 0x129 f rfl rfl rfl (by decide) fun _ => rfl
theorem rowBase (f : Fields) : Statement (.rowBase f) :=
  of_word _ 0x12A f rfl rfl rfl (by decide) fun _ => rfl
theorem rowPace (f : Fields) : Statement (.rowPace f) :=
  of_word _ 0x12B f rfl rfl rfl (by decide) fun _ => rfl
theorem rowSync (f : Fields) : Statement (.rowSync f) :=
  of_word _ 0x12C f rfl rfl rfl (by decide) fun _ => rfl
theorem rowCfg (f : Fields) : Statement (.rowCfg f) :=
  of_word _ 0x12D f rfl rfl rfl (by decide) fun _ => rfl
theorem tanc (f : Fields) : Statement (.tanc f) :=
  of_word _ 0x130 f rfl rfl rfl (by decide) fun _ => rfl
theorem tmask (f : Fields) : Statement (.tmask f) :=
  of_word _ 0x131 f rfl rfl rfl (by decide) fun _ => rfl
theorem tsel (f : Fields) : Statement (.tsel f) :=
  of_word _ 0x132 f rfl rfl rfl (by decide) fun _ => rfl
theorem gear (f : Fields) : Statement (.gear f) :=
  of_word _ 0x134 f rfl rfl rfl (by decide) fun _ => rfl
theorem gearRd (f : Fields) : Statement (.gearRd f) :=
  of_word _ 0x135 f rfl rfl rfl (by decide) fun _ => rfl
theorem clk (f : Fields) : Statement (.clk f) :=
  of_word _ 0x136 f rfl rfl rfl (by decide) fun _ => rfl
theorem pace (f : Fields) : Statement (.pace f) :=
  of_word _ 0x137 f rfl rfl rfl (by decide) fun _ => rfl
theorem boostReq (f : Fields) : Statement (.boostReq f) :=
  of_word _ 0x138 f rfl rfl rfl (by decide) fun h => by
    have hm : f.md = 0 := by
      simp only [Instr.wf, Instr.fieldsWf, Bool.and_eq_true, beq_iff_eq] at h
      exact h.1.1.1
    change some (if f.md == 1 then Instr.boostRel f else Instr.boostReq f) = _
    rw [hm]; rfl
theorem boostRel (f : Fields) : Statement (.boostRel f) :=
  of_word _ 0x138 f rfl rfl rfl (by decide) fun h => by
    have hm : f.md = 1 := by
      simp only [Instr.wf, Instr.fieldsWf, Bool.and_eq_true, beq_iff_eq] at h
      exact h.1.1.1
    change some (if f.md == 1 then Instr.boostRel f else Instr.boostReq f) = _
    rw [hm]; rfl
theorem launch (f : Fields) : Statement (.launch f) :=
  of_word _ 0x13C f rfl rfl rfl (by decide) fun _ => rfl
theorem trig (f : Fields) : Statement (.trig f) :=
  of_word _ 0x13D f rfl rfl rfl (by decide) fun _ => rfl
theorem lwait (f : Fields) : Statement (.lwait f) :=
  of_word _ 0x13E f rfl rfl rfl (by decide) fun _ => rfl
theorem ctxid (f : Fields) : Statement (.ctxid f) :=
  of_word _ 0x13F f rfl rfl rfl (by decide) fun _ => rfl
theorem prio (f : Fields) : Statement (.prio f) :=
  of_word _ 0x140 f rfl rfl rfl (by decide) fun _ => rfl
theorem fabLd (f : Fields) : Statement (.fabLd f) :=
  of_word _ 0x144 f rfl rfl rfl (by decide) fun _ => rfl
theorem fabSt (f : Fields) : Statement (.fabSt f) :=
  of_word _ 0x145 f rfl rfl rfl (by decide) fun _ => rfl
theorem fabAtom (f : Fields) : Statement (.fabAtom f) :=
  of_word _ 0x146 f rfl rfl rfl (by decide) fun _ => rfl
theorem lkPark (f : Fields) : Statement (.lkPark f) :=
  of_word _ 0x147 f rfl rfl rfl (by decide) fun _ => rfl
theorem lkWake (f : Fields) : Statement (.lkWake f) :=
  of_word _ 0x148 f rfl rfl rfl (by decide) fun _ => rfl
theorem lkHeat (f : Fields) : Statement (.lkHeat f) :=
  of_word _ 0x149 f rfl rfl rfl (by decide) fun _ => rfl
theorem lkStatSt (f : Fields) : Statement (.lkStatSt f) :=
  of_word _ 0x14A f rfl rfl rfl (by decide) fun h => by
    have hm : f.md = 0 := by
      simp only [Instr.wf, Instr.fieldsWf, Bool.and_eq_true, beq_iff_eq] at h
      exact h.1.1.1
    change some (if f.md == 1 then Instr.lkStatPd f else Instr.lkStatSt f) = _
    rw [hm]; rfl
theorem lkStatPd (f : Fields) : Statement (.lkStatPd f) :=
  of_word _ 0x14A f rfl rfl rfl (by decide) fun h => by
    have hm : f.md = 1 := by
      simp only [Instr.wf, Instr.fieldsWf, Bool.and_eq_true, beq_iff_eq] at h
      exact h.1.1.1
    change some (if f.md == 1 then Instr.lkStatPd f else Instr.lkStatSt f) = _
    rw [hm]; rfl
theorem lkThr (f : Fields) : Statement (.lkThr f) :=
  of_word _ 0x14B f rfl rfl rfl (by decide) fun _ => rfl
theorem trcMark (f : Fields) : Statement (.trcMark f) :=
  of_word _ 0x14C f rfl rfl rfl (by decide) fun _ => rfl
theorem trcOn (f : Fields) : Statement (.trcOn f) :=
  of_word _ 0x14D f rfl rfl rfl (by decide) fun _ => rfl
theorem trcOff (f : Fields) : Statement (.trcOff f) :=
  of_word _ 0x14E f rfl rfl rfl (by decide) fun _ => rfl
theorem dbgBrk (f : Fields) : Statement (.dbgBrk f) :=
  of_word _ 0x14F f rfl rfl rfl (by decide) fun _ => rfl
theorem dbgStop (f : Fields) : Statement (.dbgStop f) :=
  of_word _ 0x150 f rfl rfl rfl (by decide) fun _ => rfl
theorem cntRd (f : Fields) : Statement (.cntRd f) :=
  of_word _ 0x151 f rfl rfl rfl (by decide) fun _ => rfl
theorem dbgUndo (f : Fields) : Statement (.dbgUndo f) :=
  of_word _ 0x152 f rfl rfl rfl (by decide) fun _ => rfl
theorem sysCap (f : Fields) : Statement (.sysCap f) :=
  of_word _ 0x154 f rfl rfl rfl (by decide) fun _ => rfl
theorem sysFloor (f : Fields) : Statement (.sysFloor f) :=
  of_word _ 0x155 f rfl rfl rfl (by decide) fun _ => rfl
theorem sysRetire (f : Fields) : Statement (.sysRetire f) :=
  of_word _ 0x156 f rfl rfl rfl (by decide) fun _ => rfl
theorem sysCkpt (f : Fields) : Statement (.sysCkpt f) :=
  of_word _ 0x157 f rfl rfl rfl (by decide) fun _ => rfl
theorem sysRsync (f : Fields) : Statement (.sysRsync f) :=
  of_word _ 0x158 f rfl rfl rfl (by decide) fun _ => rfl
theorem sysMigr (f : Fields) : Statement (.sysMigr f) :=
  of_word _ 0x159 f rfl rfl rfl (by decide) fun _ => rfl
theorem sysL3cls (f : Fields) : Statement (.sysL3cls f) :=
  of_word _ 0x15A f rfl rfl rfl (by decide) fun _ => rfl
theorem sysWdog (f : Fields) : Statement (.sysWdog f) :=
  of_word _ 0x15B f rfl rfl rfl (by decide) fun _ => rfl
theorem sysCtxMk (f : Fields) : Statement (.sysCtxMk f) :=
  of_word _ 0x15C f rfl rfl rfl (by decide) fun h => by
    have hm : f.md = 0 := by
      simp only [Instr.wf, Instr.fieldsWf, Bool.and_eq_true, beq_iff_eq] at h
      exact h.1.1.1
    change some (if f.md == 1 then Instr.sysCtxRet f else if f.md == 2 then Instr.sysCtxTile f else if f.md == 3 then Instr.sysCtxDbg f else Instr.sysCtxMk f) = _
    rw [hm]; rfl
theorem sysCtxRet (f : Fields) : Statement (.sysCtxRet f) :=
  of_word _ 0x15C f rfl rfl rfl (by decide) fun h => by
    have hm : f.md = 1 := by
      simp only [Instr.wf, Instr.fieldsWf, Bool.and_eq_true, beq_iff_eq] at h
      exact h.1.1.1
    change some (if f.md == 1 then Instr.sysCtxRet f else if f.md == 2 then Instr.sysCtxTile f else if f.md == 3 then Instr.sysCtxDbg f else Instr.sysCtxMk f) = _
    rw [hm]; rfl
theorem sysCtxTile (f : Fields) : Statement (.sysCtxTile f) :=
  of_word _ 0x15C f rfl rfl rfl (by decide) fun h => by
    have hm : f.md = 2 := by
      simp only [Instr.wf, Instr.fieldsWf, Bool.and_eq_true, beq_iff_eq] at h
      exact h.1.1.1
    change some (if f.md == 1 then Instr.sysCtxRet f else if f.md == 2 then Instr.sysCtxTile f else if f.md == 3 then Instr.sysCtxDbg f else Instr.sysCtxMk f) = _
    rw [hm]; rfl
theorem sysCtxDbg (f : Fields) : Statement (.sysCtxDbg f) :=
  of_word _ 0x15C f rfl rfl rfl (by decide) fun h => by
    have hm : f.md = 3 := by
      simp only [Instr.wf, Instr.fieldsWf, Bool.and_eq_true, beq_iff_eq] at h
      exact h.1.1.1
    change some (if f.md == 1 then Instr.sysCtxRet f else if f.md == 2 then Instr.sysCtxTile f else if f.md == 3 then Instr.sysCtxDbg f else Instr.sysCtxMk f) = _
    rw [hm]; rfl
theorem sysQ (f : Fields) : Statement (.sysQ f) :=
  of_word _ 0x15D f rfl rfl rfl (by decide) fun _ => rfl
theorem nop (s : Slot) : Statement (.nop s) :=
  of_slot _ 0x1C0 s rfl rfl rfl (by decide) rfl
theorem mov (s : Slot) : Statement (.mov s) :=
  of_slot _ 0x1C1 s rfl rfl rfl (by decide) rfl
theorem bcs (s : Slot) : Statement (.bcs s) :=
  of_slot _ 0x1C2 s rfl rfl rfl (by decide) rfl
theorem spst (s : Slot) : Statement (.spst s) :=
  of_slot _ 0x1C3 s rfl rfl rfl (by decide) rfl
theorem spld (s : Slot) : Statement (.spld s) :=
  of_slot _ 0x1C4 s rfl rfl rfl (by decide) rfl
theorem jmp (s : Slot) : Statement (.jmp s) :=
  of_slot _ 0x1C5 s rfl rfl rfl (by decide) rfl
theorem jc (s : Slot) : Statement (.jc s) :=
  of_slot _ 0x1C6 s rfl rfl rfl (by decide) rfl
theorem jal (s : Slot) : Statement (.jal s) :=
  of_slot _ 0x1C7 s rfl rfl rfl (by decide) rfl
theorem jr (s : Slot) : Statement (.jr s) :=
  of_slot _ 0x1C8 s rfl rfl rfl (by decide) rfl
theorem lcfg (s : Slot) : Statement (.lcfg s) :=
  of_slot _ 0x1C9 s rfl rfl rfl (by decide) rfl
theorem bundleIssue (t : TileRef) (odd : Bool) (st : Stream) : Statement (.bundleIssue t odd st) :=
  of_event _ rfl rfl rfl
theorem tokenPush (w : WaveRef) (st : Stream) : Statement (.tokenPush w st) :=
  of_event _ rfl rfl rfl
theorem openStep (w : WaveRef) : Statement (.openStep w) :=
  of_event _ rfl rfl rfl
theorem backStep (w : WaveRef) : Statement (.backStep w) :=
  of_event _ rfl rfl rfl
theorem loopClose (w : WaveRef) : Statement (.loopClose w) :=
  of_event _ rfl rfl rfl
theorem stopLanded (w : WaveRef) : Statement (.stopLanded w) :=
  of_event _ rfl rfl rfl
theorem faultRingRoom (ctx : Nat) : Statement (.faultRingRoom ctx) :=
  of_event _ rfl rfl rfl
theorem regfaultRetry (ctx : Nat) : Statement (.regfaultRetry ctx) :=
  of_event _ rfl rfl rfl
theorem park (b : BlockRef) : Statement (.park b) :=
  of_event _ rfl rfl rfl
theorem swapOut (b : BlockRef) : Statement (.swapOut b) :=
  of_event _ rfl rfl rfl
theorem faultRecordResolve (ctx : Nat) (k : Nat) : Statement (.faultRecordResolve ctx k) :=
  of_event _ rfl rfl rfl
theorem blockAdmission (die : Nat) : Statement (.blockAdmission die) :=
  of_event _ rfl rfl rfl
theorem translationComplete (cl : ClusterRef) : Statement (.translationComplete cl) :=
  of_event _ rfl rfl rfl
theorem translationRefill (cl : ClusterRef) (key : Nat) (line : Nat) : Statement (.translationRefill cl key line) :=
  of_event _ rfl rfl rfl
theorem activeSetSwap (t : TileRef) (odd : Bool) : Statement (.activeSetSwap t odd) :=
  of_event _ rfl rfl rfl
theorem popWaitExpiry (w : WaveRef) (st : Stream) : Statement (.popWaitExpiry w st) :=
  of_event _ rfl rfl rfl
theorem watchdog (w : WaveRef) : Statement (.watchdog w) :=
  of_event _ rfl rfl rfl
theorem waveSlotRelease (w : WaveRef) : Statement (.waveSlotRelease w) :=
  of_event _ rfl rfl rfl
theorem vaultRequestComplete (w : WaveRef) : Statement (.vaultRequestComplete w) :=
  of_event _ rfl rfl rfl
theorem globalAccessComplete (w : WaveRef) : Statement (.globalAccessComplete w) :=
  of_event _ rfl rfl rfl
theorem ptsAdvance (w : WaveRef) : Statement (.ptsAdvance w) :=
  of_event _ rfl rfl rfl
theorem barBRelease (b : BlockRef) : Statement (.barBRelease b) :=
  of_event _ rfl rfl rfl
theorem groupBarrierRelease (lid : Nat) (g : Nat) : Statement (.groupBarrierRelease lid g) :=
  of_event _ rfl rfl rfl
theorem waitWake (w : WaveRef) : Statement (.waitWake w) :=
  of_event _ rfl rfl rfl
theorem lwaitWake (w : WaveRef) : Statement (.lwaitWake w) :=
  of_event _ rfl rfl rfl
theorem cdrainDone (w : WaveRef) : Statement (.cdrainDone w) :=
  of_event _ rfl rfl rfl
theorem rowSyncDone (w : WaveRef) : Statement (.rowSyncDone w) :=
  of_event _ rfl rfl rfl
theorem xfenceDone (w : WaveRef) : Statement (.xfenceDone w) :=
  of_event _ rfl rfl rfl
theorem gredRoundComplete (lid : Nat) (g : Nat) (va : Word64) (order : List Nat) : Statement (.gredRoundComplete lid g va order) :=
  of_event _ rfl rfl rfl
theorem copyCommandStart (t : TileRef) : Statement (.copyCommandStart t) :=
  of_event _ rfl rfl rfl
theorem copyCommandComplete (t : TileRef) (cmd : Nat) : Statement (.copyCommandComplete t cmd) :=
  of_event _ rfl rfl rfl
theorem cpyGrpSliceLand (lid : Nat) (g : Nat) (src : Nat) (dst : Nat) : Statement (.cpyGrpSliceLand lid g src dst) :=
  of_event _ rfl rfl rfl
theorem enginePageFault (t : TileRef) (cmd : Nat) : Statement (.enginePageFault t cmd) :=
  of_event _ rfl rfl rfl
theorem kvcommitComplete (t : TileRef) (cmd : Nat) : Statement (.kvcommitComplete t cmd) :=
  of_event _ rfl rfl rfl
theorem rowNoteStart (t : TileRef) : Statement (.rowNoteStart t) :=
  of_event _ rfl rfl rfl
theorem rowNoteDone (t : TileRef) (cmd : Nat) : Statement (.rowNoteDone t cmd) :=
  of_event _ rfl rfl rfl
theorem gearChangeEdge (t : TileRef) : Statement (.gearChangeEdge t) :=
  of_event _ rfl rfl rfl
theorem railChangeEnd (t : TileRef) : Statement (.railChangeEnd t) :=
  of_event _ rfl rfl rfl
theorem contextSwitchStart (t : TileRef) : Statement (.contextSwitchStart t) :=
  of_event _ rfl rfl rfl
theorem contextSwitchLanded (t : TileRef) : Statement (.contextSwitchLanded t) :=
  of_event _ rfl rfl rfl
theorem contextSwitchIssue (t : TileRef) : Statement (.contextSwitchIssue t) :=
  of_event _ rfl rfl rfl
theorem tileReassignApply (t : TileRef) : Statement (.tileReassignApply t) :=
  of_event _ rfl rfl rfl
theorem migrationApply (w : WaveRef) : Statement (.migrationApply w) :=
  of_event _ rfl rfl rfl
theorem controlInterval (inp : PowerInputs) : Statement (.controlInterval inp) :=
  of_event _ rfl rfl rfl
theorem thermalTrip (cl : ClusterRef) (reading : Nat) : Statement (.thermalTrip cl reading) :=
  of_event _ rfl rfl rfl
theorem pdStopEnd (die : Nat) : Statement (.pdStopEnd die) :=
  of_event _ rfl rfl rfl
theorem qtabWrite (v : Word64) : Statement (.qtabWrite v) :=
  of_event _ rfl rfl rfl
theorem qenWrite (v : Word64) : Statement (.qenWrite v) :=
  of_event _ rfl rfl rfl
theorem ptabWrite (v : Word64) : Statement (.ptabWrite v) :=
  of_event _ rfl rfl rfl
theorem winWrite (v : Word64) : Statement (.winWrite v) :=
  of_event _ rfl rfl rfl
theorem evringWrite (evn : Bool) (v : Word64) : Statement (.evringWrite evn v) :=
  of_event _ rfl rfl rfl
theorem evtailWrite (v : Word64) : Statement (.evtailWrite v) :=
  of_event _ rfl rfl rfl
theorem fidWrite (v : Word64) : Statement (.fidWrite v) :=
  of_event _ rfl rfl rfl
theorem bar0OtherWrite (off : Nat) (v : Word64) : Statement (.bar0OtherWrite off v) :=
  of_event _ rfl rfl rfl
theorem cxlMemRead (off : Nat) (n : Nat) : Statement (.cxlMemRead off n) :=
  of_event _ rfl rfl rfl
theorem cxlMemWrite (off : Nat) (bytes : List Byte) : Statement (.cxlMemWrite off bytes) :=
  of_event _ rfl rfl rfl
theorem tailSnoop (q : Nat) : Statement (.tailSnoop q) :=
  of_event _ rfl rfl rfl
theorem queueServeTurn : Statement .queueServeTurn :=
  of_event _ rfl rfl rfl
theorem dependencyReread (lid : Nat) : Statement (.dependencyReread lid) :=
  of_event _ rfl rfl rfl
theorem launchTriggered (lid : Nat) : Statement (.launchTriggered lid) :=
  of_event _ rfl rfl rfl
theorem launchEnded (lid : Nat) : Statement (.launchEnded lid) :=
  of_event _ rfl rfl rfl
theorem widthChange (link : Nat) : Statement (.widthChange link) :=
  of_event _ rfl rfl rfl
theorem retrainEnd (link : Nat) : Statement (.retrainEnd link) :=
  of_event _ rfl rfl rfl
theorem laserStartDone (link : Nat) (grp : Nat) : Statement (.laserStartDone link grp) :=
  of_event _ rfl rfl rfl
theorem ringLockDone (link : Nat) (grp : Nat) : Statement (.ringLockDone link grp) :=
  of_event _ rfl rfl rfl
theorem peerReadiness (link : Nat) (grp : Nat) : Statement (.peerReadiness link grp) :=
  of_event _ rfl rfl rfl
theorem thresholdWake (link : Nat) : Statement (.thresholdWake link) :=
  of_event _ rfl rfl rfl
theorem lossOfLock (fibre : Nat) (ring : Nat) : Statement (.lossOfLock fibre ring) :=
  of_event _ rfl rfl rfl
theorem flitReceive (link : Nat) (fl : Flit) : Statement (.flitReceive link fl) :=
  of_event _ rfl rfl rfl
theorem fabRead (m : Message) : Statement (.fabRead m) :=
  of_event _ rfl rfl rfl
theorem fabWrite (m : Message) : Statement (.fabWrite m) :=
  of_event _ rfl rfl rfl
theorem fabAtomic (m : Message) : Statement (.fabAtomic m) :=
  of_event _ rfl rfl rfl
theorem readResponse (m : Message) : Statement (.readResponse m) :=
  of_event _ rfl rfl rfl
theorem writeAcknowledgement (m : Message) : Statement (.writeAcknowledgement m) :=
  of_event _ rfl rfl rfl
theorem atomicResponse (m : Message) : Statement (.atomicResponse m) :=
  of_event _ rfl rfl rfl
theorem copyWrite (m : Message) : Statement (.copyWrite m) :=
  of_event _ rfl rfl rfl
theorem completionWrite (m : Message) : Statement (.completionWrite m) :=
  of_event _ rfl rfl rfl
theorem mctpBaseControl (req : List Byte) : Statement (.mctpBaseControl req) :=
  of_event _ rfl rfl rfl
theorem identity : Statement .identity :=
  of_event _ rfl rfl rfl
theorem sensorReadings : Statement .sensorReadings :=
  of_event _ rfl rfl rfl
theorem eventRingMirror : Statement .eventRingMirror :=
  of_event _ rfl rfl rfl
theorem summary : Statement .summary :=
  of_event _ rfl rfl rfl
theorem clearRetirement : Statement .clearRetirement :=
  of_event _ rfl rfl rfl
theorem flaconLoad (base : Nat) : Statement (.flaconLoad base) :=
  of_event _ rfl rfl rfl
theorem recoveryLoad (pc : FirmwarePiece) : Statement (.recoveryLoad pc) :=
  of_event _ rfl rfl rfl
theorem coldStart (inp : StartInputs) : Statement (.coldStart inp) :=
  of_event _ rfl rfl rfl
theorem warmStart (inp : StartInputs) : Statement (.warmStart inp) :=
  of_event _ rfl rfl rfl
theorem powerRemoval : Statement .powerRemoval :=
  of_event _ rfl rfl rfl
theorem heaterFlashWrite (fibre : Nat) (ring : Nat) : Statement (.heaterFlashWrite fibre ring) :=
  of_event _ rfl rfl rfl
theorem unrecoverableFault (t : TileRef) (cause : Nat) : Statement (.unrecoverableFault t cause) :=
  of_event _ rfl rfl rfl
theorem debugInterfaceStop (t : TileRef) (odd : Bool) : Statement (.debugInterfaceStop t odd) :=
  of_event _ rfl rfl rfl
theorem debugResume (t : TileRef) (odd : Bool) : Statement (.debugResume t odd) :=
  of_event _ rfl rfl rfl
theorem debugStep (t : TileRef) (odd : Bool) : Statement (.debugStep t odd) :=
  of_event _ rfl rfl rfl
theorem debugUndo (t : TileRef) (odd : Bool) : Statement (.debugUndo t odd) :=
  of_event _ rfl rfl rfl
theorem tracePacketWrite (die : Nat) : Statement (.tracePacketWrite die) :=
  of_event _ rfl rfl rfl
theorem traceFrameClose (die : Nat) : Statement (.traceFrameClose die) :=
  of_event _ rfl rfl rfl
theorem traceFrameWrite (die : Nat) : Statement (.traceFrameWrite die) :=
  of_event _ rfl rfl rfl
theorem traceMaskApply (ctx : Nat) : Statement (.traceMaskApply ctx) :=
  of_event _ rfl rfl rfl
theorem cxlLinkRetrain (rate : Nat) (width : Nat) : Statement (.cxlLinkRetrain rate width) :=
  of_event _ rfl rfl rfl

end Sys2Proof.Laws.RoundTrip
end

