-- ==== Sys2Proof/Tests/Slice0.lean ====
section
/-!
SUPPORT. The model's own tests: words written out from the spec's encodings decode to the instructions they stand for, ill-formed
terms are refused, the spec's worked values come out of one step, and every statement's hypotheses are met by a concrete state.
-/

set_option Elab.async false

namespace Sys2Proof.Tests

open Sys2Proof Sys2Proof.Machine

/-! ## A small state -/

def w0 : WaveRef := { lid := 0, blk := 0, wav := 0 }
def b0 : BlockRef := { lid := 0, blk := 0 }
def t0 : TileRef := { die := 0, tile := 0 }
def c0 : ClusterRef := { die := 0, cl := 0 }

/-- Fields of a portable word from numbers. -/
def fld (typ md a b c p : Nat) : Fields :=
  { typ := BitVec.ofNat 4 typ, md := BitVec.ofNat 6 md, a := BitVec.ofNat 11 a, b := BitVec.ofNat 11 b, c := BitVec.ofNat 11 c,
    p := BitVec.ofNat 11 p }

/-- A path over every lane with these values, the latest first. -/
def curOf (vs : List Value) : Cur := { block := 0, mask := BitVec.allOnes 32, vidx := vs.length, vals := vs }

def frameOf (vs : List Value) : Frame :=
  { kind := .base, func := 0, tid := 0, pending := [], cur := some (curOf vs), retMask := 0, ret := Lanes.all 0, retTy := .void,
    trap := none, kept := [] }

def waveOf (vs : List Value) : Wave := { placedWave with frames := [frameOf vs] }

def blockOf (x : Wave) : Block := placedBlock x

/-- A launch whose block is this one. -/
def launchOf (l : Launch) (b : Block) : Launch := { l with blocks := [(0, b)] }

def launch0 : Launch := placedLaunch (placedBlock placedWave)

/-- The state g in which wave 0 of block 0 of launch 0 is x and issues. -/
def mk (g : State) (l : Launch) (b : Block) (x : Wave) : State :=
  { g with cur := some w0, launches := [(0, launchOf l { b with waves := [x] })], nextLid := 1 }

/-- Its site. -/
def siteOf (l : Launch) (b : Block) (x : Wave) : Site :=
  { w := w0, launch := launchOf l { b with waves := [x] }, block := { b with waves := [x] }, wave := x }

theorem at_mk (g : State) (l : Launch) (b : Block) (x : Wave) (fr : Frame) (c : Cur) (h : x.top? = some (fr, c)) :
    AtPlace (mk g l b x) (siteOf l b x) fr c := ⟨rfl, rfl, h⟩

/-- The small state with these values in the wave's list. -/
def small (vs : List Value) : State := mk State.reset launch0 (blockOf placedWave) (waveOf vs)
def smallSite (vs : List Value) : Site := siteOf launch0 (blockOf placedWave) (waveOf vs)

theorem at_small (vs : List Value) : AtPlace (small vs) (smallSite vs) (frameOf vs) (curOf vs) := at_mk _ _ _ _ _ _ rfl

/-- A value of every type: the back-reference of a type's code names one of that type. -/
def everyTy : List Value :=
  [.pred, .i32, .n32, .i64, .n64, .f32, .f16, .bf16, .sli32, .sli16, .addr, .frag, .tile, .fmt].map fun t => splat t 0

/-- The reference that satisfies an operand. -/
def refFor (a : Arg) : Nat :=
  match a with
  | .need (t :: _) => t.code
  | _ => 0

/-- Fields with which an operation's first operand form is met over `everyTy`. -/
def fieldsFor (op : Op) : Option Fields :=
  (List.range 15).findSome? fun typ => (List.range 64).findSome? fun md =>
    (op.form typ md).map fun fm => fld typ md (refFor fm.a) (refFor fm.b) (refFor fm.c) 0

/-- The form and the operands that fields give an operation. -/
def formOf (op : Op) (f : Fields) (x : Site) (c : Cur) : Option (Form × OpIn) :=
  match Ty.ofCode f.typ.toNat, op.form f.typ.toNat f.md.toNat with
  | some ty, some fm => (fetchOperands fm f x c ty).map fun i => (fm, i)
  | _, _ => none

theorem fits_of {op : Op} {f : Fields} {x : Site} {c : Cur} {fm : Form} {i : OpIn} (h : formOf op f x c = some (fm, i)) :
    Fits op f x c fm i := by
  unfold formOf at h
  split at h
  · rename_i ty fm' ht hf
    obtain ⟨j, hj, he⟩ := Option.map_eq_some_iff.mp h
    cases he
    exact ⟨ty, ht, hf, hj⟩
  · cases h

/-- What a step defines: the value list of the wave that issues, at lane 3. -/
def defined (r : Host.Outcome State Fault Refusal) : List (Ty × Nat) :=
  match r with
  | .next s =>
    match s.cur.bind s.wave? with
    | some x =>
      match x.top? with
      | some (_, c) => c.vals.map fun v => (v.ty, v.nat 3)
      | none => []
    | none => []
  | _ => []

/-- The fault record that the wave owes after a step: its kind and trap code. -/
def owes (r : Host.Outcome State Fault Refusal) : Option (Nat × Nat) :=
  match r with
  | .next s => (s.cur.bind s.wave?).bind fun x => x.owed.map fun o => (o.kind, o.trapk)
  | _ => none

/-! ## Decoding -/

/-- 04 R66, R72; 06 R130-R144: words of the integer, constant and control families. -/
theorem test_decode_core :
    decodeWord 0x0008000400400000#64 [] = .ok (.add (fld 2 0 2 1 0 0)) ∧
    decodeTableWord 64 0x0008000400400000 = some (.add (fld 2 0 2 1 0 0)) ∧
    decodeWord 0x3000100000020000#64 [{ n := 1, a1 := 5, a2 := 0, a3 := 0, a4 := 0, a5 := 0 }] =
      .ok (.br (fld 0 1 0 0 64 0) [{ n := 1, a1 := 5, a2 := 0, a3 := 0, a4 := 0, a5 := 0 }]) ∧
    decodeWord 0x3140000000000000#64 [] = .ok (.yield (fld 0 0 0 0 0 0)) ∧
    decodeWord 0x3100000000000000#64 [] = .ok (.exit (fld 0 0 0 0 0 0)) := by
  refine ⟨rfl, ?_, rfl, rfl, rfl⟩
  decide +kernel

/-- 10 R225; 13 R268, R294; 08 R176; 16 R334-R337: words of the gear, memory, key-value, matrix and launch families. -/
theorem test_decode_units :
    decodeWord 0x4D00900000000000#64 [] = .ok (.gear (fld 0 9 0 0 0 0)) ∧
    decodeWord 0x3854400600800800#64 [] = .ok (.stG (fld 5 4 3 2 1 0)) ∧
    decodeWord 0x44C0000200000000#64 [] = .ok (.kvcommit (fld 0 0 1 0 0 0)) ∧
    decodeWord 0x4634000800C01001#64 [] = .ok (.mma (fld 13 0 4 3 2 1)) ∧
    decodeWord 0x4F0C000200000000#64 [] = .ok (.launch (fld 3 0 1 0 0 0)) ∧
    decodeWord 0x4F40000000000000#64 [] = .ok (.trig (fld 0 0 0 0 0 0)) ∧
    decodeWord 0x4F8C100200000000#64 [] = .ok (.lwait (fld 3 1 1 0 0 0)) ∧
    decodeWord 0x4FCC100000000000#64 [] = .ok (.ctxid (fld 3 1 0 0 0 0)) ∧
    decodeWord 0x5000000200000000#64 [] = .ok (.prio (fld 0 0 1 0 0 0)) :=
  ⟨rfl, rfl, rfl, rfl, rfl, rfl, rfl, rfl, rfl⟩

/-- 18 R384; 21 R421, R423; 14 R318; 20 R400; 22 R431; 17 R350-R354: words of the link, trace, debug and system families. -/
theorem test_decode_system :
    decodeWord 0x51C0000400400000#64 [] = .ok (.lkPark (fld 0 0 2 1 0 0)) ∧
    decodeWord 0x5340100000000000#64 [] = .ok (.trcOn (fld 0 1 0 0 0 0)) ∧
    decodeWord 0x5454000200000000#64 [] = .ok (.cntRd (fld 5 0 1 0 0 0)) ∧
    decodeWord 0x53C0000000000000#64 [] = .ok (.dbgBrk (fld 0 0 0 0 0 0)) ∧
    decodeWord 0x550C000200000000#64 [] = .ok (.sysCap (fld 3 0 1 0 0 0)) ∧
    decodeWord 0x558C000200000000#64 [] = .ok (.sysRetire (fld 3 0 1 0 0 0)) ∧
    decodeWord 0x570C000400400000#64 [] = .ok (.sysCtxMk (fld 3 0 2 1 0 0)) ∧
    decodeWord 0x570C200400400000#64 [] = .ok (.sysCtxTile (fld 3 2 2 1 0 0)) :=
  ⟨rfl, rfl, rfl, rfl, rfl, rfl, rfl, rfl⟩

/-- The words of the remaining families, from their opcodes in 04 R89. -/
theorem test_decode_vector :
    decodeWord 0x1018000400400000#64 [] = .ok (.fadd (fld 6 0 2 1 0 0)) ∧
    decodeWord 0x2024000400400000#64 [] = .ok (.sliAdd (fld 9 0 2 1 0 0)) ∧
    decodeWord 0x2818000200000000#64 [] = .ok (.cvt (fld 6 0 1 0 0 0)) ∧
    decodeWord 0x2C08000400400000#64 [] = .ok (.shfl (fld 2 0 2 1 0 0)) ∧
    decodeWord 0x4A00000600800800#64 [] = .ok (.rowTop (fld 0 0 3 2 1 0)) ∧
    decodeWord 0x4C34000600800800#64 [] = .ok (.tanc (fld 13 0 3 2 1 0)) ∧
    decodeWord 0x510C200200000000#64 [] = .ok (.fabLd (fld 3 2 1 0 0 0)) ∧
    decodeWord 0x0805FFFFFFFFF800#64 [] = .ok (.const (fld 1 31 2047 2047 2047 0)) :=
  ⟨rfl, rfl, rfl, rfl, rfl, rfl, rfl, rfl⟩

/-- 05, the spec's example in native form: the two bundles' headers and slots; and 05 R99: a `mov` beside a `nop`. -/
theorem test_decode_native :
    bundleOf 0x0000001400001802_00E0000000000000#128 =
      { sp := false, stop := false, push := 0, pop := 0, lec := 0, half := false, rsv := 0,
        slots := [(0x000#9, { typ := 2, dst := 0x800, sa := 3, sb := 4, stg := 0, mods := 0, ext := none }),
                  (0x1C0#9, { typ := 0, dst := 0, sa := 0, sb := 0, stg := 0, mods := 0, ext := none })] } ∧
    (bundleOf 0x1000001004C02402_00E0000000000000#128).push = 0b010#3 ∧
    (bundleOf 0x1000001004C02402_00E0000000000000#128).slots.head? =
      some (0x000#9, { typ := 2, dst := 9, sa := 0x804, sb := 0x804, stg := 0, mods := 0, ext := none }) ∧
    decodeBundleOp 0x0000E0980000000000E0000000000000#128 =
      .ok (.mov { typ := 3, dst := 0, sa := 0, sb := 0, stg := 0, mods := 0, ext := none }) :=
  ⟨by decide +kernel, by decide +kernel, by decide +kernel, rfl⟩

/-- 04, the spec's example "one function to the parcel": its forty parcels are two blocks of two i32 parameters each, with four
instructions and one; and its dictionary reference 0x8403 sets P to 1. -/
theorem test_parse_function :
    (parseFunction [] ([0x33C0, 0x0004, 0x0000, 0x0000, 0x0000, 0x0000, 0x0000, 0x0022, 0x0008, 0x0004, 0x0040, 0x0000,
        0x0008, 0x0002, 0x0040, 0x0000, 0x3140, 0x0000, 0x0000, 0x0000, 0x3000, 0x1000, 0x0002, 0x0000,
        0x2000, 0x5004, 0x0000, 0x0000, 0x33C0, 0x0004, 0x0000, 0x0000, 0x0000, 0x0000, 0x0000, 0x0022,
        0x3100, 0x0000, 0x0000, 0x0000].map (BitVec.ofNat 16)) 2 fun _ => none).map
      (fun bs => bs.map fun b => (b.1.map BitVec.toNat, b.2.map fun p => (p.word.toNat, p.args.map fun a => argRefs [a] |>.map BitVec.toNat))) =
    some [([2, 2], [(0x0008000400400000, []), (0x0008000200400000, []), (0x3140000000000000, []), (0x3000100000020000, [[5, 2]])]),
          ([2, 2], [(0x3100000000000000, [])])] ∧
    expandParcels [0, 0, 0, 0x0008000400400000#64] 1 [0x8403#16] = some [{ word := 0x0008000400400001#64, ovr := true }] := by
  decide +kernel

/-- 04 R64, R66, R68, R88, R89: bits that are no instruction are refused by name. -/
theorem test_decode_refuses :
    decodeWord 0x8008000400400000#64 [] = .error .marker ∧ decodeWord 0x33C0000000000000#64 [] = .error .blockHeader ∧
    decodeWord 0x7000000000000000#64 [] = .error (.nativeOnly 0x1C0) ∧ decodeWord 0x0900000000000000#64 [] = .error (.reservedOpcode 0x024) ∧
    decodeWord 0x3000100000020000#64 [] = .error .argWords ∧ decodeTableWord 64 0x8000000000000000 = none := by
  refine ⟨rfl, rfl, rfl, rfl, rfl, ?_⟩
  decide +kernel

/-! ## Ill-formed terms are refused -/

def arg1 (n a1 a2 : Nat) : ArgWord := { n := BitVec.ofNat 3 n, a1 := BitVec.ofNat 11 a1, a2 := BitVec.ofNat 11 a2, a3 := 0, a4 := 0, a5 := 0 }

def slot (typ dst sa sb stg mods : Nat) (ext : Option SlotExt) : Slot :=
  { typ := BitVec.ofNat 4 typ, dst := BitVec.ofNat 12 dst, sa := BitVec.ofNat 12 sa, sb := BitVec.ofNat 12 sb,
    stg := BitVec.ofNat 3 stg, mods := BitVec.ofNat 4 mods, ext := ext }

def ext (sc modx imm : Nat) : Option SlotExt :=
  some { sc := BitVec.ofNat 12 sc, modx := BitVec.ofNat 6 modx, imm := BitVec.ofNat 38 imm }

/-- One ill-formed term for each check of the portable forms, beside one that is well formed. -/
theorem test_wf_fields :
    (([.add (fld 15 0 1 1 0 0), .const (fld 1 0 0 0 2 0), .const (fld 7 0 0 32 0 0), .const (fld 2 1 0 0 0 0), .const (fld 2 0 0 0 0 1),
       .const (fld 12 0 0 0 0 0), .constw (fld 6 0 0 0 0 0), .constw (fld 4 21 0 0 0 0), .param (fld 2 0 1 0 0 0), .param (fld 12 0 0 0 0 0),
       .id (fld 3 20 0 0 0 0), .id (fld 3 4 0 0 0 0), .id (fld 3 0 0 0 1 0), .br (fld 0 0 1 0 0 0) [], .br (fld 0 1 0 0 0 0) [],
       .br (fld 0 0 0 0 0 1) [], .br (fld 0 1 0 0 0 0) [arg1 0 0 0], .br (fld 0 1 0 0 0 0) [arg1 6 0 0],
       .br (fld 0 1 0 0 0 0) [arg1 1 1 1], .brc (fld 0 0 0 0 0 0) [], .call (fld 15 0 0 0 0 0) [], .boostReq (fld 0 1 0 0 0 0),
       .boostRel (fld 0 0 0 0 0 0), .lkStatSt (fld 3 1 1 0 0 0), .lkStatPd (fld 3 0 1 1 0 0), .sysCtxMk (fld 3 1 1 1 0 0),
       .sysCtxRet (fld 3 0 1 0 0 0), .sysCtxTile (fld 3 0 1 1 0 0), .sysCtxDbg (fld 3 2 1 1 0 0)] : List Instr).any Instr.wf) = false ∧
    (([.add (fld 2 0 1 1 0 0), .const (fld 1 0 0 0 1 0), .constw (fld 4 20 0 0 0 0), .param (fld 11 0 0 0 8 0), .id (fld 5 4 0 0 0 0),
       .id (fld 3 19 0 0 0 0), .br (fld 0 1 0 0 64 0) [arg1 1 5 0], .brc (fld 0 0 1 0 0 0) [], .boostRel (fld 0 1 0 0 0 0),
       .sysCtxDbg (fld 3 3 1 1 0 0)] : List Instr).all Instr.wf) = true := by decide +kernel

/-- One ill-formed term for each check of the native forms (05 R99), beside one that is well formed. -/
theorem test_wf_slots :
    (([.nop (slot 1 0 0 0 0 0 none), .nop (slot 0 0 0 0 0 0 (ext 0 0 0)), .mov (slot 0 0 0 0 0 0 none), .mov (slot 15 0 0 0 0 0 none),
       .mov (slot 3 0 0x808 0 0 0 none), .mov (slot 3 0 0 1 0 0 none), .mov (slot 3 0 0 0 1 0 none), .bcs (slot 3 0 0 0 0 0 none),
       .spst (slot 3 1 0 0 0 0 (ext 0 0 0)), .spst (slot 3 0 0 0 0 0 none), .spst (slot 3 0 0 0 0 0 (ext 0 0 0x40000)),
       .spld (slot 3 0 1 0 0 0 (ext 0 0 0)), .jmp (slot 1 0 0 0 0 0 none), .jc (slot 0 0x900 0 0 0 3 none), .jc (slot 0 0xA00 0 0 0 0 none),
       .jal (slot 0 256 0 0 0 0 none), .jr (slot 0 0 0 0 0 0 none), .lcfg (slot 0 0 0x900 0 0 0 none),
       .lcfg (slot 0 0 0x900 0 0 0 (ext 0 0 (257 * 2048))), .lcfg (slot 0 0 0x900 0 0 0 (ext 0 0 (7 * 2 ^ 20)))] : List Instr).any
        Instr.wf) = false ∧
    (([.nop (slot 0 0 0 0 0 0 none), .mov (slot 3 0 0x807 0 0 0 none), .bcs (slot 3 0 0x9FF 0 0 0 none),
       .spst (slot 3 0 2047 0 0 0 (ext 0 0 0x3FFFF)), .jc (slot 0 0xA0F 0 0 0 2 none), .jal (slot 0 255 0 0 0 0 none),
       .lcfg (slot 0 0 0x900 0 0 0 (ext 0 0 (256 * 2048)))] : List Instr).all Instr.wf) = true := by decide +kernel

def msg0 : Message :=
  { mop := 0, vc := 0, aop := 0, sts := 0, src := 0, dst := 0, ctx := 0, tag := 0, va := 0, len := 0, rc := 0, rsv := 0, payload := [] }

/-- One event for each check on the units that it names, beside events whose units exist (00 R2). -/
theorem test_wf_events :
    (([.mmaComplete { lid := 0, blk := 0, wav := 32 }, .bundleIssue { die := 8, tile := 0 } false .load,
       .gearChangeEdge { die := 2, tile := 64 }, .faultRingRoom 4, .park { lid := 0, blk := 2 ^ 32 }, .blockAdmission 8,
       .translationComplete { die := 5, cl := 16 }, .groupBarrierRelease 0 65536, .bar0OtherWrite 4096 0, .tailSnoop 16, .widthChange 32,
       .laserStartDone 0 4, .lossOfLock 128 0, .lossOfLock 0 16, .flaconLoad 4095, .unrecoverableFault t0 256,
       .copyWrite { msg0 with payload := List.replicate 4097 0 }] : List Instr).any Instr.wf) = false ∧
    (([.mmaComplete { lid := 0, blk := 0, wav := 31 }, .gearChangeEdge { die := 2, tile := 63 }, .bundleIssue { die := 7, tile := 95 } true .store,
       .faultRingRoom 3, .widthChange 31, .lossOfLock 127 15, .flaconLoad 4096, .unrecoverableFault t0 255, .copyWrite msg0] :
        List Instr).all Instr.wf) = true := by decide +kernel

/-! ## Worked values of the spec -/

/-- One operation on two values, a at reference 1 and b at reference 2. -/
def on2 (e : Fields → Instr) (typ md : Nat) (a b : Value) : List (Ty × Nat) :=
  (defined (exec (e (fld typ md 1 2 0 0)) (small [a, b]))).take 1

def on1 (e : Fields → Instr) (typ md : Nat) (a : Value) : List (Ty × Nat) :=
  (defined (exec (e (fld typ md 1 0 0 0)) (small [a]))).take 1

/-- 06, the spec's example of i32 edge cases. -/
theorem test_i32_edges :
    on2 .div 2 0 (splat .i32 0xFFFFFFF9) (splat .i32 2) = [(.i32, 0xFFFFFFFD)] ∧
    on2 .rem 2 0 (splat .i32 0xFFFFFFF9) (splat .i32 2) = [(.i32, 0xFFFFFFFF)] ∧
    on2 .div 2 0 (splat .i32 0x80000000) (splat .i32 0xFFFFFFFF) = [(.i32, 0x80000000)] ∧
    on2 .div 2 32 (splat .i32 0x80000000) (splat .i32 0xFFFFFFFF) = [(.i32, 0x7FFFFFFF)] ∧
    on1 .neg 2 32 (splat .i32 0x80000000) = [(.i32, 0x7FFFFFFF)] ∧
    on2 .mul 3 32 (splat .n32 0x10000) (splat .n32 0x10000) = [(.n32, 0xFFFFFFFF)] := by decide +kernel

/-- 06 R122: a shift by more than the width; 06 R127: an offset that wraps within 56 bits and keeps the top byte. -/
theorem test_shift_and_offset :
    on2 .shl 3 0 (splat .n32 1) (splat .n32 32) = [(.n32, 0)] ∧ on2 .shr 2 0 (splat .i32 0x80000000) (splat .n32 40) = [(.i32, 0xFFFFFFFF)] ∧
    on2 .rot 3 0 (splat .n32 0x80000001) (splat .n32 33) = [(.n32, 3)] ∧
    on2 .aoff 11 0 (splat .addr 0x05FFFFFFFFFFFFFF) (splat .i32 1) = [(.addr, 0x0500000000000000)] := by decide +kernel

/-- 02 R22; 07 R147, R150: float arithmetic on bit patterns: 1 + 2, 1 / 3 to nearest even, the root of 2, and a NaN. -/
theorem test_float :
    on2 .fadd 6 0 (splat .f32 0x3F800000) (splat .f32 0x40000000) = [(.f32, 0x40400000)] ∧
    on2 .fdiv 6 0 (splat .f32 0x3F800000) (splat .f32 0x40400000) = [(.f32, 0x3EAAAAAB)] ∧
    on1 .fsqrt 6 0 (splat .f32 0x40000000) = [(.f32, 0x3FB504F3)] ∧
    on2 .fadd 6 0 (splat .f32 0x7F800001) (splat .f32 0) = [(.f32, 0x7FC00000)] := by decide +kernel

/-- 07 R151: the transcendental operations at arguments whose results are exact: 2^3, log2 of 8, sin 0 and cos 0. -/
theorem test_float_functions :
    on1 .fexp2 6 0 (splat .f32 0x40400000) = [(.f32, 0x41000000)] ∧ on1 .flog2 6 0 (splat .f32 0x41000000) = [(.f32, 0x40400000)] ∧
    on1 .fsin 6 0 (splat .f32 0) = [(.f32, 0)] ∧ on1 .fcos 6 0 (splat .f32 0) = [(.f32, 0x3F800000)] := by decide +kernel

/-- 04 R80: `param` traps on its alignment before its bounds; 04 R78: `const` sign-extends for i64. -/
theorem test_immediates :
    owes (exec (.param (fld 2 0 0 0 2 0)) (small [])) = some (2, 3) ∧ owes (exec (.param (fld 2 0 0 0 4 0)) (small [])) = some (2, 4) ∧
    defined (exec (.const (fld 4 0 2047 2047 2047 0)) (small [])) = [(.i64, 0xFFFFFFFFFFFFFFFF)] ∧
    defined (exec (.id (fld 3 0 0 0 0 0)) (small [])) = [(.n32, 3)] := by decide +kernel

/-! ## One step fetches, decodes and runs -/

/-- The step of a placed word is the instruction's; a reserved word takes trap(RESERVED). -/
theorem test_step :
    defined (step (State.reset.withFetchWord 64 0x0804000000000800)) = [(.pred, 1)] ∧
    owes (step (State.reset.withFetchWord 64 0x0900000000000000)) = some (2, 1) := by decide +kernel

/-! ## Hypotheses that are met -/

/-- Whether an operation's first form over `everyTy` gives it operands. -/
def formCheck (op : Op) : Bool :=
  match fieldsFor op with
  | some f => (formOf op f (smallSite everyTy) (curOf everyTy)).isSome
  | none => false

theorem forms_check : (rowsAll.all fun e => formCheck e.2) = true := by decide +kernel

/-- Every operation has fields that fit one of its forms at a place of a small state: the hypotheses of IntegerOpsComplete,
VectorOpsComplete, ConversionOpsComplete and RegisterOpsFrame. -/
theorem witness_forms : ∀ e ∈ rowsAll, ∃ (s : State) (x : Site) (fr : Frame) (c : Cur) (f : Fields) (fm : Form) (i : OpIn),
    AtPlace s x fr c ∧ Fits e.2 f x c fm i ∧ x.wave.native = none ∧ x.wave.stepLeft = none ∧ s.debugFrame fr = false := by
  intro e he
  have h := List.all_eq_true.mp forms_check e he
  unfold formCheck at h
  split at h
  · rename_i f hf
    obtain ⟨⟨fm, i⟩, hi⟩ := Option.isSome_iff_exists.mp h
    exact ⟨small everyTy, _, _, _, f, fm, i, at_small everyTy, fits_of hi, rfl, rfl, rfl⟩
  · cases h

/-- Every operation has fields that fit none of its forms: the hypotheses of IllegalFormsTrap and HandlerEntry. -/
theorem witness_illegal : ∀ e ∈ rowsAll, ∃ (s : State) (x : Site) (fr : Frame) (c : Cur) (f : Fields),
    AtPlace s x fr c ∧ (∀ fm i, ¬Fits e.2 f x c fm i) ∧ x.wave.native = none := by
  intro e _
  refine ⟨small everyTy, _, _, _, fld 15 0 0 0 0 0, at_small everyTy, ?_, rfl⟩
  rintro fm i ⟨ty, ht, -, -⟩
  have h0 : Ty.ofCode (fld 15 0 0 0 0 0).typ.toNat = none := rfl
  rw [h0] at ht
  cases ht

/-- The reference of a type's code names a value of that type. -/
theorem nm (T : Ty) (h : T ≠ .void) : Names (curOf everyTy) (BitVec.ofNat 11 T.code) T (splat T 0) := by
  cases T <;> first | exact absurd rfl h | exact ⟨by decide, rfl, rfl⟩

theorem every_lane (p : Ref) (h : p = 0) : Active (curOf everyTy) p (BitVec.allOnes 32) := .inl ⟨h, rfl⟩

/-- The place of the small state with a value of every type. -/
abbrev AtEvery (P : State → Site → Frame → Cur → Prop) : Prop :=
  ∃ (s : State) (x : Site) (fr : Frame) (c : Cur), AtPlace s x fr c ∧ P s x fr c

theorem at_every {P : State → Site → Frame → Cur → Prop} (h : P (small everyTy) (smallSite everyTy) (frameOf everyTy) (curOf everyTy)) :
    AtEvery P := ⟨_, _, _, _, at_small everyTy, h⟩

theorem witness_IntegerArithmetic : ∀ e ∈ intRows, ∀ T ∈ e.types, AtEvery fun _ _ _ c =>
    ∃ (f : Fields) (va vb vc : Value), f.typ.toNat = T.code ∧ f.md = 0 ∧ Names c f.a T va ∧ Operand c (decide (2 ≤ e.args)) f.b T vb ∧
      Operand c (decide (3 ≤ e.args)) f.c T vc ∧ Active c f.p (BitVec.allOnes 32) := by
  intro e he T hT
  have hv : T ≠ .void ∧ T.code < 16 := by
    revert T hT
    revert e he
    decide
  refine at_every ⟨fld T.code 0 T.code (if 2 ≤ e.args then T.code else 0) (if 3 ≤ e.args then T.code else 0) 0, splat T 0,
    if 2 ≤ e.args then splat T 0 else Value.void, if 3 ≤ e.args then splat T 0 else Value.void, ?_, rfl, nm T hv.1, ?_, ?_, every_lane _ rfl⟩
  · exact Nat.mod_eq_of_lt hv.2
  · unfold Operand
    by_cases h : 2 ≤ e.args
    · simpa [fld, h] using nm T hv.1
    · simp [fld, h]
  · unfold Operand
    by_cases h : 3 ≤ e.args
    · simpa [fld, h] using nm T hv.1
    · simp [fld, h]

theorem witness_IntegerArithmetic_sat : ∃ e ∈ intRows, e.sat = true ∧ (fld 2 32 2 2 0 0).md = 32 :=
  ⟨_, List.mem_cons_self, rfl, rfl⟩

theorem witness_DivisionAndRemainder : ∀ T ∈ tyInt, ∀ md ∈ [0, 32], AtEvery fun _ _ _ c => ∃ (f : Fields) (va vb : Value),
    f.typ.toNat = T.code ∧ f.md = BitVec.ofNat 6 md ∧ Names c f.a T va ∧ Names c f.b T vb ∧ f.c = 0 ∧ Active c f.p (BitVec.allOnes 32) := by
  intro T hT md _
  have hv : T ≠ .void ∧ T.code < 16 := by revert T; decide
  exact at_every ⟨fld T.code md T.code T.code 0 0, _, _, Nat.mod_eq_of_lt hv.2, rfl, nm T hv.1, nm T hv.1, rfl, every_lane _ rfl⟩

theorem witness_BitsAndCounts : ∀ T ∈ Ty.pred :: tyInt, AtEvery fun _ _ _ c => ∃ (f g : Fields) (va vb : Value),
    f.typ.toNat = T.code ∧ f.md = 0 ∧ Names c f.a T va ∧ f.c = 0 ∧ Active c f.p (BitVec.allOnes 32) ∧ Names c f.b T vb ∧
    g.typ.toNat = T.code ∧ g.md = 0 ∧ Names c g.a T va ∧ g.b = 0 ∧ g.c = 0 ∧ Active c g.p (BitVec.allOnes 32) := by
  intro T hT
  have hv : T ≠ .void ∧ T.code < 16 := by revert T; decide
  exact at_every ⟨fld T.code 0 T.code T.code 0 0, fld T.code 0 T.code 0 0 0, _, _, Nat.mod_eq_of_lt hv.2, rfl, nm T hv.1, rfl,
    every_lane _ rfl, nm T hv.1, Nat.mod_eq_of_lt hv.2, rfl, nm T hv.1, rfl, rfl, every_lane _ rfl⟩

theorem witness_ShiftsAndRotations : ∀ T ∈ tyInt, ∀ md ∈ [0, 1, 32], AtEvery fun _ _ _ c => ∃ (f : Fields) (va vb : Value),
    f.typ.toNat = T.code ∧ f.md = BitVec.ofNat 6 md ∧ Names c f.a T va ∧ Names c f.b .n32 vb ∧ f.c = 0 ∧
    Active c f.p (BitVec.allOnes 32) := by
  intro T hT md _
  have hv : T ≠ .void ∧ T.code < 16 := by revert T; decide
  exact at_every ⟨fld T.code md T.code 3 0 0, _, _, Nat.mod_eq_of_lt hv.2, rfl, nm T hv.1, nm .n32 nofun, rfl, every_lane _ rfl⟩

theorem witness_BitFields : ∀ T ∈ tyInt, AtEvery fun _ _ _ c => ∃ (f g : Fields) (va vb vc : Value),
    f.typ.toNat = T.code ∧ f.md = 0 ∧ Names c f.a T va ∧ Active c f.p (BitVec.allOnes 32) ∧ Names c f.b .n32 vb ∧ f.c = 0 ∧
    g.typ.toNat = T.code ∧ g.md = 0 ∧ Names c g.a T va ∧ Active c g.p (BitVec.allOnes 32) ∧ Names c g.b T vc ∧ Names c g.c .n32 vb := by
  intro T hT
  have hv : T ≠ .void ∧ T.code < 16 := by revert T; decide
  exact at_every ⟨fld T.code 0 T.code 3 0 0, fld T.code 0 T.code T.code 3 0, _, _, _, Nat.mod_eq_of_lt hv.2, rfl, nm T hv.1,
    every_lane _ rfl, nm .n32 nofun, rfl, Nat.mod_eq_of_lt hv.2, rfl, nm T hv.1, every_lane _ rfl, nm T hv.1, nm .n32 nofun⟩

theorem witness_CompareSelectExtend : ∀ T ∈ tySel, AtEvery fun _ _ _ c => ∃ (f g h : Fields) (va vb vc : Value) (U : Ty) (vu : Value),
    f.typ.toNat = T.code ∧ Active c f.p (BitVec.allOnes 32) ∧ f.md.toNat ≤ 1 ∧ Names c f.a T va ∧ Names c f.b T vb ∧ f.c = 0 ∧
    g.typ.toNat = T.code ∧ g.md = 0 ∧ Names c g.a T va ∧ Names c g.b T vb ∧ Names c g.c .pred vc ∧
    h.typ.toNat = T.code ∧ Names c h.c U vu ∧ U ≠ .pred := by
  intro T hT
  have hv : T ≠ .void ∧ T.code < 16 := by revert T; decide
  exact at_every ⟨fld T.code 1 T.code T.code 0 0, fld T.code 0 T.code T.code 1 0, fld T.code 0 T.code T.code 2 0, _, _, _, .i32, _,
    Nat.mod_eq_of_lt hv.2, every_lane _ rfl, (Nat.le_refl 1 : (1#6).toNat ≤ 1), nm T hv.1, nm T hv.1, rfl, Nat.mod_eq_of_lt hv.2, rfl, nm T hv.1, nm T hv.1,
    nm .pred nofun, Nat.mod_eq_of_lt hv.2, nm .i32 nofun, nofun⟩

theorem witness_CompareSelectExtend_ext : ∀ T ∈ tyExt, ∀ U ∈ [Ty.pred, .i32, .n32, .i64, .n64, .addr], AtEvery fun _ _ _ c =>
    ∃ (f : Fields) (va : Value), f.typ.toNat = T.code ∧ f.md = 32 ∧ Names c f.a U va ∧ f.b = 0 ∧ f.c = 0 ∧
      Active c f.p (BitVec.allOnes 32) := by
  intro T hT U hU
  have hv : T.code < 16 := by revert T; decide
  have hu : U ≠ .void := by revert U; decide
  exact at_every ⟨fld T.code 32 U.code 0 0 0, _, Nat.mod_eq_of_lt hv, rfl, nm U hu, rfl, rfl, every_lane _ rfl⟩

theorem witness_CompareSelectExtend_reserved : (fld 2 6 2 2 0 0).md.toNat = 6 ∧ (fld 1 2 1 1 0 0).md.toNat = 2 ∧ Ty.pred ∈ tyCmp ∧
    Ty.i32 ∈ tyCmp := by decide

/-- Two integer types, and one type with a rounding code: pairs that `cvt` does not take (R159). -/
theorem witness_ConversionPairs : AtEvery fun _ _ _ c => ∃ (f g : Fields) (va vb : Value),
    Ty.i32 ∈ tyCvt ∧ f.typ.toNat = Ty.i32.code ∧ Names c f.a .n32 va ∧ cvtOk .n32 .i32 (modRd f.md.toNat) (modFtz f.md.toNat) = false ∧
    Ty.f32 ∈ tyCvt ∧ g.typ.toNat = Ty.f32.code ∧ Names c g.a .f32 vb ∧ cvtOk .f32 .f32 (modRd g.md.toNat) (modFtz g.md.toNat) = false := by
  exact at_every ⟨fld Ty.i32.code 0 Ty.n32.code 0 0 0, fld Ty.f32.code 16 Ty.f32.code 0 0 0, _, _, by decide, rfl, nm .n32 nofun, by decide,
    by decide, rfl, nm .f32 nofun, by decide⟩

theorem witness_Addresses : AtEvery fun _ _ _ c => ∃ (f g h j k : Fields) (va vb vi : Value),
    (f.typ.toNat = Ty.addr.code ∧ f.md.toNat = 4 ∧ Names c f.a .addr va ∧ Names c f.b .i32 vi ∧ f.c = 0) ∧
    (g.typ.toNat = Ty.i64.code ∧ g.md.toNat = 4 ∧ Names c g.a .addr va ∧ Names c g.b .addr va ∧ g.c = 0) ∧
    (h.typ.toNat = Ty.addr.code ∧ h.md = 0 ∧ Names c h.a .n32 vb ∧ Names c h.b .n32 vb ∧ Names c h.c .n32 vb) ∧
    (j.typ.toNat = Ty.addr.code ∧ j.md = 1 ∧ j.a = 0 ∧ j.b = 0 ∧ Names c j.c .n32 vb) ∧ k.md.toNat = 5 ∧
    Active c f.p (BitVec.allOnes 32) :=
  at_every ⟨fld 11 4 11 2 0 0, fld 4 4 11 11 0 0, fld 11 0 3 3 3 0, fld 11 1 0 0 3 0, fld 11 5 0 0 0 0, _, _, _,
    ⟨rfl, rfl, nm .addr nofun, nm .i32 nofun, rfl⟩, ⟨rfl, rfl, nm .addr nofun, nm .addr nofun, rfl⟩,
    ⟨rfl, rfl, nm .n32 nofun, nm .n32 nofun, nm .n32 nofun⟩, ⟨rfl, rfl, rfl, rfl, nm .n32 nofun⟩, rfl, every_lane _ rfl⟩

/-- `vaddr` at the last die, cluster and offset of its ranges, and one past each. -/
theorem test_vaddr :
    let on (a b c : Nat) := exec (.vaddr (fld 11 0 1 2 3 0)) (small [splat .n32 a, splat .n32 b, splat .n32 c])
    (defined (on 7 23 0xFFFFFF)).take 1 = [(.addr, 0xFFFFFEF7FFFFFF)] ∧ owes (on 8 0 0) = some (2, 4) ∧
    owes (on 2 16 0) = some (2, 4) ∧ owes (on 0 24 0) = some (2, 4) ∧ owes (on 0 0 0x1000000) = some (2, 4) := by decide +kernel

theorem witness_ConstantsAndIdentifiers :
    (fld 1 0 0 0 1 0).imm33.toNat = 1 ∧ (fld 1 0 0 0 2 0).imm33.toNat = 2 ∧ (fld 2 0 1023 2047 2047 0).imm33.toNat = 2 ^ 32 - 1 ∧
    (fld 2 0 1024 0 0 0).imm33.toNat = 2 ^ 32 ∧ (fld 7 0 0 31 2047 0).imm33.toNat = 2 ^ 16 - 1 ∧ (fld 7 0 0 32 0 0).imm33.toNat = 2 ^ 16 ∧
    (fld 4 20 0 0 0 0).md.toNat = 20 ∧ (fld 4 21 0 0 0 0).md.toNat = 21 ∧ (fld 2 0 0 0 4 0).off22.toNat = 4 ∧
    (fld 2 0 0 0 2 0).off22.toNat % 4 ≠ 0 ∧ (fld 3 20 0 0 0 0).md.toNat = 20 ∧ (fld 3 16 0 0 0 0).md.toNat = 13 + 3 := by decide

/-- A launch with three groups, two of which hold block 0. -/
def launch3 : Launch :=
  { launch0 with groups := [{ kind := 1, members := [0] }, { kind := 1, members := [3, 7] }, { kind := 2, members := [0, 5] }] }

def idOn (typ md : Nat) : Host.Outcome State Fault Refusal := exec (.id (fld typ md 0 0 0 0)) (mk State.reset launch3 (blockOf placedWave) (waveOf []))

/-- `id` of the second group of a block, of a third that the block is not in, and with the type of another identifier. -/
theorem test_groups :
    defined (idOn 3 6) = [(.n32, 2)] ∧ defined (idOn 3 10) = [(.n32, 0)] ∧ defined (idOn 3 14) = [(.n32, 2)] ∧
    defined (idOn 3 7) = [(.n32, 0xFFFFFFFF)] ∧ defined (idOn 3 11) = [(.n32, 0xFFFFFFFF)] ∧ defined (idOn 3 15) = [(.n32, 0)] ∧
    owes (idOn 3 4) = some (2, 1) ∧ owes (idOn 5 3) = some (2, 1) := by
  decide +kernel

/-- `param` reads within a snapshot of eight bytes, and past it. -/
theorem test_param :
    let s := mk State.reset { launch0 with params := leBytes 8 0x1122334455667788 } (blockOf placedWave) (waveOf [])
    defined (exec (.param (fld 3 0 0 0 4 0)) s) = [(.n32, 0x11223344)] ∧ owes (exec (.param (fld 3 0 0 0 8 0)) s) = some (2, 4) := by
  decide +kernel

theorem witness_FloatNansAndSigns : ∀ T ∈ tyFlt, AtEvery fun _ _ _ c => ∃ (f g : Fields) (va vb : Value),
    f.typ.toNat = T.code ∧ Names c f.a T va ∧ Names c f.b T vb ∧ f.c = 0 ∧ rdFtz f.md ∧ ftzOnly f.md ∧ f.md.toNat < 16 ∧
    g.typ.toNat = T.code ∧ Names c g.a T va ∧ g.b = 0 ∧ g.c = 0 ∧ ftzOnly g.md ∧ Active c f.p (BitVec.allOnes 32) := by
  intro T hT
  have hv : T ≠ .void ∧ T.code < 16 := by revert T; decide
  exact at_every ⟨fld T.code 8 T.code T.code 0 0, fld T.code 8 T.code 0 0 0, _, _, Nat.mod_eq_of_lt hv.2, nm T hv.1, nm T hv.1, rfl,
    (rfl : (8#6).toNat % 8 = 0), .inr rfl, (by decide : (8#6).toNat < 16), Nat.mod_eq_of_lt hv.2, nm T hv.1, rfl, rfl, .inr rfl, every_lane _ rfl⟩

theorem witness_FloatArithmetic : ∀ T ∈ tyFlt, AtEvery fun _ _ _ c => ∃ (f g h : Fields) (va vi : Value),
    Active c f.p (BitVec.allOnes 32) ∧ (f.typ.toNat = T.code ∧ rdFtz f.md ∧ Names c f.a T va ∧ Operand c true f.b T va ∧ Operand c true f.c T va) ∧
    (g.typ.toNat = T.code ∧ rdFtz g.md ∧ Names c g.a T va ∧ Names c g.b .i32 vi ∧ g.c = 0 ∧ ∀ k, vi.nat k < 2 ^ 32) ∧
    (h.typ.toNat = T.code ∧ rdFtz h.md ∧ Names c h.a T va ∧ Operand c false h.b T Value.void ∧ Operand c false h.c T Value.void) := by
  intro T hT
  have hv : T ≠ .void ∧ T.code < 16 := by revert T; decide
  exact at_every ⟨fld T.code 56 T.code T.code T.code 0, fld T.code 16 T.code 2 0 0, fld T.code 0 T.code 0 0 0, _, _, every_lane _ rfl,
    ⟨Nat.mod_eq_of_lt hv.2, (rfl : (56#6).toNat % 8 = 0), nm T hv.1, nm T hv.1, nm T hv.1⟩,
    ⟨Nat.mod_eq_of_lt hv.2, (rfl : (16#6).toNat % 8 = 0), nm T hv.1, nm .i32 nofun, rfl, by decide +kernel⟩,
    ⟨Nat.mod_eq_of_lt hv.2, (rfl : (0#6).toNat % 8 = 0), nm T hv.1, ⟨rfl, rfl⟩, ⟨rfl, rfl⟩⟩⟩

theorem witness_FloatArithmetic_dot : ∀ T ∈ [Ty.f16, .bf16], AtEvery fun _ _ _ c => ∃ (f : Fields) (va vc : Value),
    f.typ.toNat = T.code ∧ rdFtz f.md ∧ Names c f.a .n32 va ∧ Names c f.b .n32 va ∧ Names c f.c .f32 vc ∧ Active c f.p (BitVec.allOnes 32) := by
  intro T hT
  have hv : T.code < 16 := by revert T; decide
  exact at_every ⟨fld T.code 0 3 3 6 0, _, _, Nat.mod_eq_of_lt hv, (rfl : (0#6).toNat % 8 = 0), nm .n32 nofun, nm .n32 nofun, nm .f32 nofun,
    every_lane _ rfl⟩

/-- The ranges of the clauses of FloatArithmetic and FloatNansAndSigns at their ends: the least and the greatest units, an overflow,
a value that is flushed, infinities, zeros, and powers of two. -/
theorem witness_float_ranges :
    units .f16 false 1 = 1 ∧ units .f16 true 0x8001 = 0 ∧ units .f16 false 0xFBFF = -65504 * 2 ^ 24 ∧ maxUnits .f16 = 65504 * 2 ^ 24 ∧
    overUnits .f16 = 65520 * 2 ^ 24 ∧ units .f16 false 0x0400 = 2 ^ (fltWidths .f16).2 ∧ unitExp .f16 = 24 ∧ unitExp .f32 = 149 ∧
    unitExp .bf16 = 133 ∧ isFinite .f16 0x7BFF ∧ isInfBits .f16 0xFC00 ∧ infOf .f16 true = 0xFC00 ∧ powOf .f16 false (-14) = 0x0400 ∧
    powOf .f16 false 15 = 0x7800 ∧ isNanBits .f16 0x7C01 ∧ isSubnormal .f16 0x03FF ∧ signOf .f16 0x8000 = true ∧
    orderKey .f16 0x8000 < orderKey .f16 0 := by
  simp only [isFinite, isInfBits, isNanBits, isSubnormal]
  decide +kernel

/-- 07, the spec's example of `fma.f16`; a product of the largest and the least finite value; and the smaller of −0 and +0. -/
theorem test_fma :
    (defined (exec (.fma (fld 7 0 1 2 3 0)) (small [splat .f16 0x3C01, splat .f16 0x3C01, splat .f16 0xBC00]))).take 1 = [(.f16, 0x1800)] ∧
    on2 .fmul 7 0 (splat .f16 0x7BFF) (splat .f16 1) = [(.f16, 0x1BFF)] ∧ on2 .fmin 7 0 (splat .f16 0) (splat .f16 0x8000) = [(.f16, 0x8000)] ∧
    on2 .fscale 7 32 (splat .f16 1) (splat .i32 0x80000000) = [(.f16, 1)] := by decide +kernel

theorem witness_SliResults : ∀ T ∈ tySli, AtEvery fun _ _ _ c => ∃ (f g h k : Fields) (va : Value),
    Names c f.a T va ∧ (∀ k, va.nat k < 2 ^ T.bits) ∧ Active c f.p (BitVec.allOnes 32) ∧
    (f.typ.toNat = T.code ∧ f.md = 0 ∧ f.b = 0 ∧ f.c = 0) ∧ (g.typ.toNat = T.code ∧ g.md = 0 ∧ Names c g.a T va ∧ Names c g.b T va ∧ g.c = 0) ∧
    (h.typ.toNat = T.code ∧ h.md.toNat ≤ 5 ∧ Names c h.a T va ∧ Names c h.b T va ∧ h.c = 0) ∧
    (k.typ.toNat = Ty.n32.code ∧ k.md = 0 ∧ Names c k.a T va ∧ k.b = 0 ∧ k.c = 0) := by
  intro T hT
  have hv : T ≠ .void ∧ T.code < 16 := by revert T; decide
  refine at_every ⟨fld T.code 0 T.code 0 0 0, fld T.code 0 T.code T.code 0 0, fld T.code 5 T.code T.code 0 0, fld 3 0 T.code 0 0 0,
    splat T 0, nm T hv.1, ?_, every_lane _ rfl, ⟨Nat.mod_eq_of_lt hv.2, rfl, rfl, rfl⟩, ⟨Nat.mod_eq_of_lt hv.2, rfl, nm T hv.1, nm T hv.1, rfl⟩,
    ⟨Nat.mod_eq_of_lt hv.2, (by decide : (5#6).toNat ≤ 5), nm T hv.1, nm T hv.1, rfl⟩, ⟨rfl, rfl, nm T hv.1, rfl, rfl⟩⟩
  revert T
  decide +kernel

/-- The clauses of SliResults at values of sli16: zero, INV, ±1, a pair of opposites, the two sides of 1 in order, and level 1. -/
theorem witness_sli_values :
    sliZero 16 = 0x4000 ∧ sliInv 16 = 0xC000 ∧ sliMax 16 true = 0xBFFF ∧ sliRank 16 0x7FFF < sliRank 16 0x4001 ∧
    sliRank 16 0x4001 < sliRank 16 0 ∧ sliRank 16 0x8000 < sliRank 16 0x4000 ∧ 0x7FF % 2 ^ 14 < 2 ^ (16 - 5) ∧
    (0x8000 : Nat) % 2 ^ 15 = 0 := by decide

/-- 03, the spec's example of SLI_MUL at level 1; a value and its reciprocal; a difference of equal values; a quotient by zero. -/
theorem test_sli :
    on2 .sliMul 9 0 (splat .sli32 0x04000000) (splat .sli32 0x02000000) = [(.sli32, 0x06000000)] ∧
    on2 .sliMul 9 0 (splat .sli32 0x84000000) (splat .sli32 0x44000000) = [(.sli32, 0x80000000)] ∧
    on2 .sliSub 9 0 (splat .sli32 0x04000000) (splat .sli32 0x04000000) = [(.sli32, 0x40000000)] ∧
    on2 .sliDiv 10 0 (splat .sli16 0x8400) (splat .sli16 0x4000) = [(.sli16, 0xBFFF)] := by decide +kernel

/-- `red` and `scan` of a row of ones, with and without the lane itself, and the least lane. -/
theorem test_reductions :
    on1 .red 3 0 (splat .n32 1) = [(.n32, 32)] ∧ on1 .scan 3 0 (splat .n32 1) = [(.n32, 4)] ∧ on1 .scan 3 8 (splat .n32 1) = [(.n32, 3)] ∧
    on1 .red 2 2 (lanesOf .i32 fun k => 2 ^ 32 - k.val) = [(.i32, 2 ^ 32 - 31)] ∧
    on1 .gtrans 3 0 (lanesOf .n32 fun k => k.val) = [(.n32, 0)] ∧ on1 .gtrans 3 2 (lanesOf .n32 fun k => k.val) = [(.n32, 24)] := by
  decide +kernel

theorem witness_Reductions : ∀ T ∈ tyInt ++ tyFlt ++ tySli, ∀ md ∈ [2, 8], AtEvery fun _ _ _ c => ∃ (f g : Fields) (va : Value),
    (f.typ.toNat = T.code ∧ Names c f.a T va ∧ f.b = 0 ∧ f.c = 0 ∧ f.md = BitVec.ofNat 6 md) ∧
    (g.typ.toNat = T.code ∧ Names c g.a T va ∧ Names c g.b T va ∧ g.c = 0 ∧ g.md = BitVec.ofNat 6 md) ∧
    (∀ k, va.nat k < 2 ^ T.bits) ∧ Active c f.p (BitVec.allOnes 32) := by
  intro T hT md _
  have hv : T ≠ .void ∧ T.code < 16 := by revert T; decide
  refine at_every ⟨fld T.code md T.code 0 0 0, fld T.code md T.code T.code 0 0, splat T 0,
    ⟨Nat.mod_eq_of_lt hv.2, nm T hv.1, rfl, rfl, rfl⟩, ⟨Nat.mod_eq_of_lt hv.2, nm T hv.1, nm T hv.1, rfl, rfl⟩, ?_, every_lane _ rfl⟩
  revert T
  decide +kernel

theorem witness_StatusInstructions : AtEvery fun _ _ _ _ => ∃ f g : Fields, (f.typ.toNat = Ty.n32.code ∧ f.md = 0 ∧ f.a = 0 ∧ f.b = 0 ∧
    f.c = 0 ∧ f.p = 0) ∧ (g.typ = 0 ∧ g.md = 0 ∧ g.a = 0 ∧ g.b = 0 ∧ g.c = 0 ∧ g.p = 0) :=
  at_every ⟨fld 3 0 0 0 0 0, fld 0 0 0 0 0 0, ⟨rfl, rfl, rfl, rfl, rfl, rfl⟩, ⟨rfl, rfl, rfl, rfl, rfl, rfl⟩⟩

theorem witness_LaneExchange : ∀ T ∈ tySel, AtEvery fun _ _ _ c => ∃ (f g h k : Fields) (va vb vp : Value),
    (f.typ.toNat = T.code ∧ Names c f.a T va ∧ Names c f.b .n32 vb ∧ f.c = 0 ∧ f.md.toNat = 3) ∧
    (g.typ.toNat = T.code ∧ Names c g.a T va ∧ g.b = 0 ∧ g.c = 0 ∧ g.md.toNat = 31) ∧
    (h.typ.toNat = Ty.pred.code ∧ Names c h.a .pred vp ∧ h.b = 0 ∧ h.c = 0 ∧ h.md.toNat = 2) ∧
    (k.typ.toNat = Ty.n32.code ∧ Names c k.a .pred vp ∧ k.b = 0 ∧ k.c = 0 ∧ k.md = 3) ∧ Active c f.p (BitVec.allOnes 32) := by
  intro T hT
  have hv : T ≠ .void ∧ T.code < 16 := by revert T; decide
  exact at_every ⟨fld T.code 3 T.code 3 0 0, fld T.code 31 T.code 0 0 0, fld 1 2 1 0 0 0, fld 3 3 1 0 0 0, _, _, _,
    ⟨Nat.mod_eq_of_lt hv.2, nm T hv.1, nm .n32 nofun, rfl, rfl⟩, ⟨Nat.mod_eq_of_lt hv.2, nm T hv.1, rfl, rfl, rfl⟩,
    ⟨rfl, nm .pred nofun, rfl, rfl, rfl⟩, ⟨rfl, nm .pred nofun, rfl, rfl, rfl⟩, every_lane _ rfl⟩

theorem witness_PackedRows : ∀ md ∈ [0, 1, 2], AtEvery fun _ _ _ c => ∃ (f g : Fields) (va : Value),
    f.typ.toNat = Ty.n32.code ∧ f.md = BitVec.ofNat 6 md ∧ Names c f.a .n32 va ∧ (∀ k, va.nat k < 2 ^ 32) ∧ f.b = 0 ∧ f.c = 0 ∧
    g.typ.toNat = Ty.i32.code ∧ g.md = BitVec.ofNat 6 md ∧ Names c g.a .n32 va ∧ g.b = 0 ∧ g.c = 0 := by
  intro md _
  exact at_every ⟨fld 3 md 3 0 0 0, fld 2 md 3 0 0 0, _, rfl, rfl, nm .n32 nofun, by decide +kernel, rfl, rfl, rfl, rfl, nm .n32 nofun, rfl, rfl⟩

/-- Some place and operands of an operation meet a condition. -/
def Meets (op : Op) (f : Fields) (P : State → Site → OpIn → Bool) : Prop :=
  ∃ (s : State) (x : Site) (fr : Frame) (c : Cur) (fm : Form) (i : OpIn), AtPlace s x fr c ∧ Fits op f x c fm i ∧ P s x i = true

def meets (g : State) (l : Launch) (b : Block) (y : Wave) (op : Op) (f : Fields) (P : State → Site → OpIn → Bool) : Bool :=
  match y.top? with
  | some (_, c) => (formOf op f (siteOf l b y) c).any fun e => P (mk g l b y) (siteOf l b y) e.2
  | none => false

theorem meets_sound {op : Op} {f : Fields} {P : State → Site → OpIn → Bool} (g : State) (l : Launch) (b : Block) (y : Wave)
    (h : meets g l b y op f P = true) : Meets op f P := by
  unfold meets at h
  split at h
  · rename_i fr c ht
    obtain ⟨⟨fm, i⟩, hi, hp⟩ := Option.any_eq_true _ _ |>.mp h
    exact ⟨_, _, fr, c, fm, i, at_mk g l b y fr c ht, fits_of hi, hp⟩
  · cases h

/-- A resident context with nothing in its rings. -/
def ctx0 : Context :=
  { desc := 0, ptroot := 0, fpdir := 0, swapa := 0x100000, swapn := 4096, fring := 0x200000, frn := 16, dbga := 0x300000, dbgn := 256, tsa := 0x400000,
    vplo := 0, vsh := 2048, vphi := 2048, c0slot := 0, c0reg := 0, c0vb := 0, c0pin := false, c0vc := false, slice := 0, dbg := false,
    tmask := 0, tnext := [], head := 0, held := [], heldRaised := false, unfreed := [], dlq := [], retiring := false }

/-- Context 0 is resident, and its first 2^30 addresses are cached as the first bytes of device memory. -/
def mem0 : State :=
  { State.reset with
    ctxs := [(0, ctx0)], tlb := [0, 8, 16, 24, 32].map fun u => { ctx := 0, unit := u, page := 0, size := 7, pa := 0, r := true, w := true } }

/-- A value of every type, with these addresses, n32 and n64 values. -/
def valsAt (a n : Fin 32 → Nat) : List Value :=
  [splat .pred 1, splat .i32 0, Value.tab .n32 n, splat .i64 0, Value.tab .n64 n, splat .f32 0, splat .f16 0, splat .bf16 0,
   splat .sli32 0, splat .sli16 0, Value.tab .addr a, splat .frag 0, splat .tile 0, splat .fmt 0]

/-- A launch with sixteen pages of vault block, and its block. -/
def launchV : Launch := { launch0 with vb4k := 16 }
def blk0 : Block := blockOf placedWave

def okRes {α : Type} (r : Except OpRes α) : Bool := match r with | .ok _ => true | .error _ => false

/-! Control flow -/

def code1 (ps : List (List (BitVec 4))) : Translation := { placedCode 0 { word := 0, ovr := false, args := [] } with
  blocks := ps.map fun p => { params := p, code := [] }, callees := [(1, some [2#4]), (2, none)] }

def pathAt (b m : Nat) (vs : List Value) : Path := { block := b, mask := BitVec.ofNat 32 m, params := vs }

/-- The hypotheses of SelectLowestBlock: two pending paths, and one that comes to the block of the first. -/
theorem witness_SelectLowestBlock :
    let ps := [pathAt 3 1 [splat .n32 5], pathAt 1 2 []]
    let x : Wave := { placedWave with frames := [{ frameOf [] with cur := none, pending := ps }] }
    x.frames = [{ frameOf [] with cur := none, pending := ps }] ∧ DistinctBlocks ps ∧ (∀ f ∈ x.frames, DistinctBlocks f.pending) ∧
    ((x.select.top?.map fun e => e.2.block) = some 1) ∧
    (addPath (pathAt 3 4 [splat .n32 6]) ps).map (fun p => (p.block, p.mask.toNat, p.params.map fun v => (v.nat 0, v.nat 2))) =
      [(3, 5, [(5, 6)]), (1, 2, [])] := by
  decide +kernel

/-- The hypotheses of Branches: `br` to a block with one parameter, and `brc` to two blocks. -/
theorem witness_Branches :
    let s := mk { State.reset with store := [code1 [[], [2], [2]]] } launch0 blk0 (waveOf everyTy)
    let f := fieldsOf 0x3000100000020000#64
    let g := fieldsOf 0x3040200200040002#64
    let fr := frameOf everyTy
    AtPlace s (siteOf launch0 blk0 (waveOf everyTy)) fr (curOf everyTy) ∧ s.debugFrame fr = false ∧
    (f.typ = 0 ∧ f.bit0 = false ∧ f.md.toNat = [arg1 1 2 0].length ∧ f.a = 0 ∧ f.target0 = 0 ∧ s.paramsOf fr f.target1.toNat = some [2#4] ∧
      argValues (curOf everyTy) [2#4] (argRefs [arg1 1 2 0]) = some [splat .i32 0]) ∧
    (g.typ = 0 ∧ g.bit0 = false ∧ g.md.toNat = [arg1 1 2 0, arg1 1 2 0].length ∧ Names (curOf everyTy) g.a .pred (splat .pred 0) ∧
      s.paramsOf fr g.target1.toNat = some [2#4] ∧ s.paramsOf fr g.target0.toNat = some [2#4] ∧
      argValues (curOf everyTy) [2#4] ((argRefs [arg1 1 2 0, arg1 1 2 0]).take 1) = some [splat .i32 0] ∧
      argValues (curOf everyTy) [2#4] ((argRefs [arg1 1 2 0, arg1 1 2 0]).drop 1) = some [splat .i32 0]) := by
  refine ⟨at_mk _ _ _ _ _ _ rfl, by decide +kernel, by decide +kernel, ?_⟩
  refine ⟨by decide +kernel, by decide +kernel, by decide +kernel, ⟨by decide, rfl, rfl⟩, ?_⟩
  decide +kernel

/-- The hypotheses of CallsAndReturns: a callee with its translation, a full stack, and a return from each kind of frame. -/
theorem witness_CallsAndReturns :
    let s := mk { State.reset with store := [code1 [[]], { code1 [[2]] with tid := 7, key := { firstKey 0 1 0 with budget := 16 } }] } launch0 blk0 (waveOf everyTy)
    let x := siteOf launch0 blk0 (waveOf everyTy)
    let f := fieldsOf 0x3080100000020000#64
    (f.typ.toNat ≤ 11 ∧ f.a = 0 ∧ f.target0 = 0 ∧ f.bit0 = false ∧ f.md.toNat = 1 ∧
      ((s.code? (frameOf everyTy)).bind fun t => t.callees.find? fun e => e.1 == f.target1.toNat) = some (1, some [2#4]) ∧
      argValues (curOf everyTy) [2#4] (argRefs [arg1 1 2 0]) = some [splat .i32 0] ∧ x.wave.frames.length < 256 ∧
      (s.calleeCode x f.target1.toNat).isSome = true) ∧
    256 ≤ (List.replicate 256 (frameOf [])).length ∧
    (returned (fld 3 0 3 0 0 0) (curOf everyTy)).isSome = true ∧ (returned (fld 0 0 0 0 0 0) (curOf [])).isSome = true := by decide +kernel

/-- A return from a call frame resumes the caller with the value; `tret` from a handler frame does so too. -/
theorem test_returns :
    let called (k : FrameKind) := { waveOf [] with frames :=
      [{ frameOf [splat .n32 9] with kind := k, retTy := .n32, retMask := 0 },
       { frameOf [] with cur := some (curOf [splat .n32 1]) }] }
    (defined (exec (.ret (fld 3 0 1 0 0 0)) (mk State.reset launch0 blk0 (called .call)))).take 1 = [(.n32, 9)] ∧
    (defined (exec (.tret (fld 0 0 1 0 0 0)) (mk State.reset launch0 blk0 (called .handler)))).take 1 = [(.n32, 9)] ∧
    owes (exec (.tret (fld 0 0 1 0 0 0)) (mk State.reset launch0 blk0 (called .call))) = some (2, 1) := by decide +kernel

theorem witness_UserTrap : AtEvery fun _ x _ c => ∃ (f g : Fields) (va vp : Value),
    x.wave.native = none ∧ f.typ = 0 ∧ f.md = 0 ∧ f.b = 0 ∧ f.c = 0 ∧ Active c f.p (BitVec.allOnes 32) ∧ Names c f.a .i32 va ∧
    g.typ = 0 ∧ g.md = 0 ∧ g.a = 0 ∧ g.b = 0 ∧ g.c = 0 ∧ Names c g.p .pred vp ∧ Active c g.p 0 := by
  refine at_every ⟨fld 0 0 2 0 0 0, fld 0 0 0 0 0 1, _, _, rfl, rfl, rfl, rfl, rfl, every_lane _ rfl, nm .i32 nofun, rfl, rfl, rfl, rfl, rfl,
    nm .pred nofun, .inr ⟨_, nm .pred nofun, ?_⟩⟩
  decide +kernel

/-- The hypotheses of HandlerEntry: no handler, a handler with its translation, and a handler frame on the stack. -/
theorem witness_HandlerEntry :
    let l := { launch0 with handler := some 1 }
    let s := mk { State.reset with store := [code1 [[]], { code1 [[]] with tid := 7, key := { firstKey 0 1 0 with budget := 16 } }] } l blk0 (waveOf everyTy)
    let x := siteOf l blk0 (waveOf everyTy)
    (∀ fr ∈ x.wave.frames, s.debugFrame fr = false) ∧ launch0.handler = none ∧ x.launch.handler = some 1 ∧ x.wave.inHandler = false ∧ x.wave.frames.length < 256 ∧
    ((s.calleeCode x 1).bind
      fun u => u.blocks.head?.map BlockCode.params) = some [] ∧
    ({ waveOf [] with frames := [{ frameOf [] with kind := .handler }] } : Wave).inHandler = true := by decide +kernel

theorem witness_YieldAndTrapinfo : AtEvery fun _ x _ _ => ∃ f g : Fields,
    (f.a = 0 ∧ f.b = 0 ∧ f.c = 0 ∧ f.p = 0 ∧ f.typ = 0 ∧ f.md = 0) ∧
    (g.a = 0 ∧ g.b = 0 ∧ g.c = 0 ∧ g.p = 0 ∧ g.typ.toNat = Ty.n32.code ∧ Ty.n32 ∈ tyTrapinfo ∧ trapinfoOk g.md.toNat .n32 = true) ∧
    x.wave.trapInfo? = none :=
  at_every ⟨fld 0 0 0 0 0 0, fld 3 14 0 0 0 0, by decide, ⟨rfl, rfl, rfl, rfl, rfl, by decide, by decide⟩, rfl⟩

/-- A wave in a handler has what `trapinfo` reads. -/
theorem test_trapinfo :
    let i : TrapInfo :=
      { kind := 1, opc := 0x19, f := fld 2 6 1 2 0 0, word := 0x0648600200800000#64, opA := Lanes.all 5, opB := Lanes.all 6,
        opC := Lanes.all 0, pmask := 1, point := { func := 3, block := 4, vidx := 5 } }
    let s := mk State.reset launch0 blk0 { waveOf [] with frames := [{ frameOf [] with kind := .handler, trap := some i }] }
    let on (md : Nat) := defined (exec (.trapinfo (fld 3 md 0 0 0 0)) s)
    on 0 = [(.n32, 1)] ∧ on 1 = [(.n32, 0x19)] ∧ on 12 = [(.n32, 3)] ∧ on 13 = [(.n32, 4)] ∧ on 14 = [(.n32, 5)] ∧ on 11 = [] := by decide +kernel

/-! Memory -/

/-- Loads and stores of the global window and of both vault windows, with every lane active and with none. -/
theorem witness_LoadsAndStores :
    Meets opLdG (fld 3 2 11 0 0 0) (fun s x i => i.mask != 0 && okRes (s.readAcc x [.glob] (accSize i) (i.laneAcc (accSize i)))) ∧
    Meets opStG (fld 3 2 11 3 0 0) (fun s x i => i.mask != 0 && okRes (s.access x [.glob] (accSize i) false true (i.laneAcc (accSize i)))) ∧
    Meets opLdVa (fld 3 2 11 0 0 0) (fun s x i => i.mask != 0 && okRes (s.readAcc x [.all, .die] (accSize i) (i.laneAcc (accSize i)))) ∧
    Meets opStVa (fld 3 2 11 3 0 0) (fun s x i => i.mask != 0 && okRes (s.access x [.all, .die] (accSize i) false true (i.laneAcc (accSize i)))) ∧
    Meets opStVa (fld 3 2 11 3 0 1) (fun _ _ i => i.mask == 0) :=
  ⟨meets_sound mem0 launch0 blk0 (waveOf (valsAt (fun k => 0x1000 + 64 * k) fun k => k)) (by decide +kernel),
   meets_sound mem0 launch0 blk0 (waveOf (valsAt (fun k => 0x1000 + 64 * k) fun k => k)) (by decide +kernel),
   meets_sound mem0 launchV blk0 (waveOf (valsAt (fun k => 0xFFFFFF00000000 + 4 * k) fun k => k)) (by decide +kernel),
   meets_sound mem0 launchV blk0 (waveOf (valsAt (fun k => 0xFFFFFE00000000 + 4 * k) fun k => k)) (by decide +kernel),
   meets_sound mem0 launchV blk0 (waveOf everyTy) (by decide +kernel)⟩

/-- A store of four bytes in each lane is read back; two lanes that store to one word leave the higher lane's value. -/
theorem test_store :
    let run (a : Fin 32 → Nat) := match exec (.stG (fld 3 2 11 3 0 0)) (mk mem0 launch0 blk0 (waveOf (valsAt a fun k => 7 * k))) with
      | .next t => (t.mem.length, Mem.readN t.mem 0x1000 4, Mem.readN t.mem (0x1000 + 64 * 31) 4)
      | _ => (0, [], [])
    run (fun k => 0x1000 + 64 * k) = (31, [0, 0, 0, 0], [217, 0, 0, 0]) ∧ run (fun _ => 0x1000) = (1, [217, 0, 0, 0], [0, 0, 0, 0]) := by
  decide +kernel

/-- The checks of 13 R267 at their boundaries: an address of 2^56, one of the wrong window, a vault offset past its block and one
that crosses a chunk, a misaligned address, and a page that is not mapped. -/
theorem witness_AccessChecks :
    let P (a : Nat) (c : Bool → Bool → Bool → Bool → Bool → Bool) : State → Site → OpIn → Bool := fun s x i =>
      let as := i.laneAcc (accSize i)
      c (decide (2 ^ 56 ≤ a)) (winOf a != .glob) (s.vaultTrap x as).isSome (a % accSize i != 0)
        (match (s.allSpans x true false as).2 with | .error _ => true | .ok _ => false)
    Meets opLdG (fld 3 2 11 0 0 0) (P (2 ^ 56) fun w _ _ _ _ => w) ∧
    Meets opLdG (fld 3 2 11 0 0 0) (P 0xFFFFFF00000000 fun w f _ _ _ => !w && f) ∧
    Meets opLdVa (fld 3 2 11 0 0 0) (P 0xFFFFFF00010000 fun w f v _ _ => !w && f && v) ∧
    Meets opLdVa (fld 3 2 11 0 0 0) (P 0xFFFFFF0000000E fun w f v _ _ => !w && f && v) ∧
    Meets opLdG (fld 3 2 11 0 0 0) (P 0x1002 fun w f v m _ => !w && !f && !v && m) ∧
    Meets opLdG (fld 3 2 11 0 0 0) (P 0x40000000 fun w f v m p => !w && !f && !v && !m && p) :=
  ⟨meets_sound mem0 launch0 blk0 (waveOf (valsAt (fun _ => 2 ^ 56) fun _ => 0)) (by decide +kernel),
   meets_sound mem0 launch0 blk0 (waveOf (valsAt (fun _ => 0xFFFFFF00000000) fun _ => 0)) (by decide +kernel),
   meets_sound mem0 launchV blk0 (waveOf (valsAt (fun _ => 0xFFFFFF00010000) fun _ => 0)) (by decide +kernel),
   meets_sound mem0 launchV blk0 (waveOf (valsAt (fun _ => 0xFFFFFF0000000E) fun _ => 0)) (by decide +kernel),
   meets_sound mem0 launch0 blk0 (waveOf (valsAt (fun _ => 0x1002) fun _ => 0)) (by decide +kernel),
   meets_sound { mem0 with ctxs := [] } launch0 blk0 (waveOf (valsAt (fun _ => 0x40000000) fun _ => 0)) (by decide +kernel)⟩

/-- Every atomic has a type at which all lanes' accesses pass, none poisoned, and runs with no lane active. -/
def atomFields (op : Op) (p : Nat) : Option Fields :=
  ([2, 3, 4, 5, 6] : List Nat).findSome? fun typ => (op.form typ 0).map fun fm => fld typ 0 11 (refFor fm.b) (refFor fm.c) p

theorem atomics_check : (rowsAtomic.all fun e => match atomFields e.op 0 with
    | some f => meets mem0 launch0 blk0 (waveOf (valsAt (fun k => 0x1000 + 8 * k) fun k => k)) e.op f fun s x i =>
        i.mask != 0 && (match s.access x winsAll (i.ty.bits / 8) true true (i.laneAcc (i.ty.bits / 8)) with
          | .ok (s1, sp) => !s1.anyPoison sp
          | .error _ => false)
    | none => false) = true := by decide +kernel

theorem witness_Atomics : ∀ e ∈ rowsAtomic, ∃ f, Meets e.op f fun s x i =>
    i.mask != 0 && (match s.access x winsAll (i.ty.bits / 8) true true (i.laneAcc (i.ty.bits / 8)) with
      | .ok (s1, sp) => !s1.anyPoison sp
      | .error _ => false) := by
  intro e he
  have h := List.all_eq_true.mp atomics_check e he
  split at h
  · exact ⟨_, meets_sound _ _ _ _ h⟩
  · cases h

/-- Thirty-two lanes that each add 1 to one word get 0 to 31 and leave 32; one lane that exchanges stores its value. -/
theorem test_atomics :
    let run (e : Fields → Instr) (f : Fields) := match exec (e f) (mk mem0 launch0 blk0 (waveOf (valsAt (fun _ => 0x1000) fun _ => 1))) with
      | .next t => (ofLe (Mem.readN t.mem 0x1000 4), (defined (.next t)).take 1)
      | _ => (0, [])
    run .atomAdd (fld 3 0 11 3 0 0) = (32, [(.n32, 3)]) ∧ run .atomXchg (fld 3 0 11 3 0 0) = (1, [(.n32, 1)]) := by decide +kernel

theorem witness_TileStoreAndPrefetch :
    Meets opStTile (fld 13 0 11 13 0 0) (fun s x i => i.mask != 0 && okRes (s.access x winsAll 16 false true (i.laneAcc 128))) ∧
    Meets opPfG (fld 0 0 11 0 0 0) (fun _ _ i => i.mask.list.all fun k => decide (i.a.nat k < 2 ^ 56) && winOf (i.a.nat k) == .glob) ∧
    Meets opPfG (fld 0 0 11 0 0 0) (fun _ _ i => i.mask.has 0 && winOf (i.a.nat 0) != .glob) :=
  ⟨meets_sound mem0 launch0 blk0 (waveOf (valsAt (fun k => 0x1000 + 128 * k) fun k => k)) (by decide +kernel),
   meets_sound mem0 launch0 blk0 (waveOf (valsAt (fun k => 0x1000 + 128 * k) fun k => k)) (by decide +kernel),
   meets_sound mem0 launch0 blk0 (waveOf (valsAt (fun _ => 0xFFFFFF00000000) fun k => k)) (by decide +kernel)⟩

/-! Synchronisation -/

/-- Some fields, with a place and operands, meet a condition. -/
def MeetsSome (op : Op) (P : State → Site → OpIn → Bool) : Prop := ∃ f, Meets op f P

/-- The fields of an operation's first form with another modifier. -/
def fieldsMd (op : Op) (md : Nat) : Option Fields :=
  (List.range 15).findSome? fun typ => (op.form typ md).map fun fm => fld typ md (refFor fm.a) (refFor fm.b) (refFor fm.c) 0

def meetsMd (g : State) (l : Launch) (b : Block) (y : Wave) (op : Op) (md : Nat) (P : State → Site → OpIn → Bool) : Bool :=
  match fieldsMd op md with
  | some f => meets g l b y op f P
  | none => false

theorem some_of_md {op : Op} {P : State → Site → OpIn → Bool} (g : State) (l : Launch) (b : Block) (y : Wave) (md : Nat)
    (h : meetsMd g l b y op md P = true) : MeetsSome op P := by
  unfold meetsMd at h
  split at h
  · exact ⟨_, meets_sound g l b y h⟩
  · cases h

/-- A launch with group 0 of kind 1 whose only member is block 0. -/
def launchG : Launch := { launchV with groups := [{ kind := 1, members := [0] }] }

/-- A wave whose n32 and n64 values are n and whose addresses are a, in every lane. -/
def waveAt (a n : Nat) : Wave := waveOf (valsAt (fun _ => a) fun _ => n)

theorem witness_SyncInstructions :
    MeetsSome opBarB (fun _ _ _ => true) ∧
    MeetsSome opBarG (fun _ x i => (groupOf x.launch x.w.blk (i.uni i.a)).isNone) ∧
    MeetsSome opBarG (fun _ x i => (groupOf x.launch x.w.blk (i.uni i.a)).isSome && !(x.block.slotOf (i.uni i.a)).arrived) ∧
    MeetsSome opBarGLv (fun _ x i => (groupOf x.launch x.w.blk (i.uni i.a)).isSome && (x.block.slotOf (i.uni i.a)).arrived &&
      decide ((x.block.slotOf (i.uni i.a)).gens < x.launch.gens.getD 0 (i.uni i.a)) && !(x.block.slotOf (i.uni i.a)).passed.contains x.w.wav) ∧
    MeetsSome opWait (fun s x i => (s.readWord x (i.uni i.a) (i.b.ty.bits / 8)).toOption.any fun e =>
      condInt 0 (toInt i.b.ty e.2.1) (toInt i.b.ty (i.uni i.b))) ∧
    MeetsSome opWait (fun s x i => (s.readWord x (i.uni i.a) (i.b.ty.bits / 8)).toOption.any fun e =>
      i.md == 1 && !condInt 1 (toInt i.b.ty e.2.1) (toInt i.b.ty (i.uni i.b)) && e.1.failed.isEmpty) ∧
    MeetsSome opXfence (fun s x i => decide (i.uni i.a < 65536) && decide (i.uni i.a % 256 < 64) && decide (i.uni i.a / 256 < 64) &&
      s.placedBefore x.tile (BitVec.ofNat 8 (i.uni i.a)) s.nextId) ∧
    MeetsSome opCdrain (fun s x i => s.drained x.tile i.md s.nextId) ∧
    MeetsSome opGred (fun s x i => i.mask.lowest.any fun k => (groupOf x.launch x.w.blk (i.c.nat k)).isSome &&
      okRes (s.access x [.glob, .all] (i.ty.bits / 8) true true [(i.a.nat k, i.ty.bits / 8)]) && x.launch.greds.isEmpty) :=
  ⟨some_of_md mem0 launchG blk0 (waveAt 0 0) 0 (by decide +kernel),
   some_of_md mem0 launchG blk0 (waveAt 0 1) 0 (by decide +kernel),
   some_of_md mem0 launchG blk0 (waveAt 0 0) 0 (by decide +kernel),
   some_of_md mem0 { launchG with gens := [(0, 1)] } { blk0 with slots := [{ g := 0, arrived := true, gens := 0, passed := [] }] } (waveAt 0 0) 0
     (by decide +kernel),
   some_of_md mem0 launchG blk0 (waveAt 0x1000 0) 0 (by decide +kernel),
   some_of_md mem0 launchG blk0 (waveAt 0x1000 0) 1 (by decide +kernel),
   some_of_md mem0 launchG blk0 (waveAt 0x1000 0) 0 (by decide +kernel),
   some_of_md mem0 launchG blk0 (waveAt 0x1000 0) 0 (by decide +kernel),
   some_of_md mem0 launchG blk0 (waveAt 0x1000 0) 0 (by decide +kernel)⟩

/-- A state g with launch 0, its block, and the block's waves; no wave is selected. -/
def mkB (g : State) (l : Launch) (b : Block) : State := { g with launches := [(0, { l with blocks := [(0, b)] })], nextLid := 1 }

theorem witness_BarrierReleases :
    let one := { blk0 with waves := [{ waveOf [] with mode := .barB }] }
    let two := { blk0 with waves := [{ waveOf [] with mode := .barB }, waveOf []] }
    let at0 := { blk0 with slots := [{ g := 0, arrived := true, gens := 0, passed := [] }] }
    ((mkB mem0 launchG one).block? b0 = some one ∧ one.allAtBarB = true ∧ two.allAtBarB = false ∧
      one.waves.all (fun y => y.native.isNone && y.top?.isSome) = true) ∧
    (launchG.groups.all fun gr => gr.members.all fun m => !launchG.waiting 0 m && !(launchOf launchG blk0).blockEnded m) = true ∧
    (one.waves.all fun y => y.native.all fun n => !n.seqs.all Seq.stopped) = true ∧ 0 ∉ (one.slotOf 0).passed ∧
    ({ launchG with blocks := [(0, at0)] } : Launch).waiting 0 0 = true ∧ launchG.greds = [] := by decide +kernel

/-- A round of `gred` on group 0 with the contribution of block 0 to the word at 0x1000. -/
def round0 : GredRound := { g := 0, va := 0x1000, ty := .n32, op := 0, contrib := [(0, 5)], wave := w0 }

theorem witness_SyncWakes :
    let x (m : WaveMode) := siteOf launchG blk0 { waveOf [] with mode := m }
    let s (m : WaveMode) := mk mem0 launchG blk0 { waveOf [] with mode := m }
    let wt (v start tmo : Nat) := WaveMode.wait 0x1000 (BitVec.ofNat 64 v) 0 .n32 tmo start
    (∀ m ∈ [wt 0 0 0, wt 1 0 0, wt 1 0 5], (s m).site? w0 = some (x m) ∧ ((s m).readWord (x m) 0x1000 4).isOk = true) ∧
    condInt 0 (toInt .n32 0) (toInt .n32 0) = true ∧ condInt 0 (toInt .n32 0) (toInt .n32 1) = false ∧
    5 ≤ ({ s (wt 1 0 5) with tick := 100 }).ctlNow (x (wt 1 0 5)).tile - 0 ∧
    failKey w0.block 0xFFFFFF00000000 ≠ none ∧
    (s (.cdrain 0 4)).site? w0 = some (x (.cdrain 0 4)) ∧ (s (.xfence 1 1 4)).site? w0 = some (x (.xfence 1 1 4)) ∧
    (let l := { launchG with greds := [round0] }
     let t := mk mem0 l blk0 (waveOf [])
     t.launch? 0 = some (launchOf l { blk0 with waves := [waveOf []] }) ∧
       l.greds.find? (fun e => e.g == 0 && e.va == 0x1000) = some round0 ∧ (launchOf l blk0).gredDone round0 = true ∧
       combine .n32 0 round0.contrib [0] = some 5 ∧
       (t.spansOf (siteOf l blk0 (waveOf [])) 0x1000 4 true true).2.isOk = true ∧
       (match t.spansOf (siteOf l blk0 (waveOf [])) 0x1000 4 true true with
        | (u, .ok ks) => (u.spansPoisoned ks, { u with poison := ks.map Prod.fst }.spansPoisoned ks)
        | _ => (true, false)) = (false, true)) := by decide +kernel

/-- A round of `gred` adds its members' sum to the word. -/
theorem test_gred :
    (match exec (.gredRoundComplete 0 0 0x1000 [0]) (mk mem0 { launchG with greds := [round0] } blk0 (waveOf [])) with
     | .next t => (Mem.readN t.mem 0x1000 4, (t.launch? 0).map fun l => l.greds)
     | _ => ([], none)) = ([5, 0, 0, 0], some []) := by decide +kernel

/-! Copies -/

theorem witness_CopyInstructions :
    MeetsSome opCpyW (fun s x i => i.mask != 0 && decide (s.copyCount x.tile < 32) &&
      (s.copyTrap x (i.mask.list.map fun k => CopyAddr.mk .dst (i.a.nat k) (i.ty.bits / 8) (i.ty.bits / 8))).isNone) ∧
    MeetsSome opCpyW (fun s x i => i.mask != 0 &&
      s.copyTrap x (i.mask.list.map fun k => CopyAddr.mk .dst (i.a.nat k) (i.ty.bits / 8) (i.ty.bits / 8)) == some trapBounds) ∧
    MeetsSome opCpyW (fun s x i => i.mask != 0 &&
      s.copyTrap x (i.mask.list.map fun k => CopyAddr.mk .dst (i.a.nat k) (i.ty.bits / 8) (i.ty.bits / 8)) == some trapAlign) ∧
    MeetsSome opCpyFill (fun s x i => i.mask != 0 && (ctlTrap i false i.mask.list).isNone &&
      (s.copyTrap x (i.mask.list.map fun k => CopyAddr.mk .dst (i.a.nat k) (ctlLen (i.c.nat k)) 1)).isNone) ∧
    MeetsSome opCpyBlk (fun s x i => (ctlTrap i false i.mask.list).isNone && (s.roundAt x.w.block x.wave.cpyBlk).isNone &&
      (s.copyTrap x (i.mask.list.flatMap fun k => [CopyAddr.mk .src (i.a.nat k) (ctlLen (i.c.nat k)) 1,
        CopyAddr.mk .dst (i.b.nat k) (ctlLen (i.c.nat k)) 1])).isNone) ∧
    MeetsSome opCpyGrp (fun _ x i => (i.mask.list.find? fun k => !ctlCw (i.c.nat k)).any fun k =>
      (ctlTrap i true [k]).isNone && (groupOf x.launch x.w.blk (ctlGrp (i.c.nat k))).isSome && ctlLen (i.c.nat k) == 16 &&
        winOf (i.b.nat k) == .die && x.launch.cgrps.isEmpty) ∧
    MeetsSome opCpyGrp (fun _ x i => (i.mask.list.find? fun k => !ctlCw (i.c.nat k)).any fun k =>
      (ctlTrap i true [k]).isNone && (groupOf x.launch x.w.blk (ctlGrp (i.c.nat k))).isSome && ctlLen (i.c.nat k) % 16 != 0) :=
  ⟨some_of_md mem0 launchG blk0 (waveAt 0x1000 16) 0 (by decide +kernel),
   some_of_md mem0 launchG blk0 (waveAt (2 ^ 62) 16) 0 (by decide +kernel),
   some_of_md mem0 launchG blk0 (waveAt 0x1001 16) 0 (by decide +kernel),
   some_of_md mem0 launchG blk0 (waveAt 0x1000 16) 0 (by decide +kernel),
   some_of_md mem0 launchG blk0 (waveAt 0x1000 16) 0 (by decide +kernel),
   some_of_md mem0 launchG blk0 (waveAt 0xFFFFFF00000000 16) 0 (by decide +kernel),
   some_of_md mem0 launchG blk0 (waveAt 0xFFFFFF00000000 15) 0 (by decide +kernel)⟩

/-- A descriptor at 0x1000: rows of 16 bytes, two speculative positions of which the path keeps number 1, the committed length in the
vault block. -/
def kvMem (magic : Nat) : State :=
  (mem0.writeKey 0x1000 (leBytes 64 (0x2000 * 2 ^ 448 + 0x3000 * 2 ^ 384 + 0x4000 * 2 ^ 320 + 0xFFFFFF00000000 * 2 ^ 256 + 0x5000 * 2 ^ 192 +
    16 * 2 ^ 160 + 2 * 2 ^ 144 + 2 ^ 128 + magic * 2 ^ 112 + 1))).writeKey 0x4000 [1, 0]

theorem witness_KvCommitInstruction :
    MeetsSome opKvcommit (fun s x i => (s.readAcc x winsAll 64 [(i.uni i.a, 64)]).toOption.any fun e =>
      (kvDescOf (ofLe e.2.flatten)).trap? == some trapFormat) ∧
    MeetsSome opKvcommit (fun s x i => (s.readAcc x winsAll 64 [(i.uni i.a, 64)]).toOption.any fun e =>
      let d := kvDescOf (ofLe e.2.flatten)
      d.trap?.isNone && (e.1.readAcc x [.all, .die] 4 [(d.clen, 4)]).toOption.any fun r =>
        decide (ofLe r.2.flatten + d.nspec < 2 ^ 32) && (r.1.readAcc x winsAll 1 (pieces d.path (2 * d.npath))).toOption.any fun q =>
          let ns := numsOf 2 q.2.flatten d.npath
          pathRising ns && ns.all fun n => decide (n < d.nspec)) ∧
    MeetsSome opKvcommit (fun s x i => (s.readAcc x winsAll 64 [(i.uni i.a, 64)]).toOption.any fun e =>
      let d := kvDescOf (ofLe e.2.flatten)
      d.trap?.isNone && (e.1.readAcc x [.all, .die] 4 [(d.clen, 4)]).toOption.any fun r =>
        (r.1.readAcc x winsAll 1 (pieces d.path (2 * d.npath))).toOption.any fun q =>
          (numsOf 2 q.2.flatten d.npath).any fun n => decide (d.nspec ≤ n)) :=
  ⟨some_of_md (kvMem 0) launchV blk0 (waveAt 0x1000 0) 0 (by decide +kernel),
   some_of_md (kvMem 0x4B56) launchV blk0 (waveAt 0x1000 0) 0 (by decide +kernel),
   some_of_md ((kvMem 0x4B56).writeKey 0x4000 [2, 0]) launchV blk0 (waveAt 0x1000 0) 0 (by decide +kernel)⟩

def issuer0 : Issuer := { wave := w0, point := { func := 0, block := 0, vidx := 0 }, mask := 1, cls := 1 }

/-- A pair that fills 16 bytes at 0x1000, and a command with it. -/
def pair0 : CopyPair :=
  { by_ := issuer0, ch := 0, lane := 0, src := none, dst := 0x1000, len := 16, toRead := [], toWrite := [(0, 16)], buf := [], bad := [], peer := none }

def copy0 : CopyCmd :=
  { id := 3, kind := .fill, ctx := 0, block := b0, round := 0, reuse := 0, issued := [], chans := [(t0, 0, 3)], pairs := [pair0], words := [], gap := 0,
    started := false, paused := none }

def word0 : OwedWord := { by_ := issuer0, va := 0x1010, value := 1, peer := none }

def withTile (g : State) (up : Tile → Tile) : State := g.setTile t0 (up (g.tile t0))

/-- The block of `mkB` over mem0, with this copy queue on tile 0. -/
def copyState (g : State) (q : List CopyCmd) : State := withTile (mkB g launchV { blk0 with waves := [waveOf []] }) fun t => { t with copyQ := q }

theorem witness_CopyEngineEvents :
    let s := copyState mem0 [copy0]
    let done := { copy0 with started := true, pairs := [] }
    ((mkB mem0 launchV blk0).tile t0).copyQ.find? ((mkB mem0 launchV blk0).copyReady t0) = none ∧
    ((s.tile t0).copyQ.find? (s.copyReady t0) = some copy0 ∧ s.paceOk t0 0 copy0.gap = true ∧ copy0.stray? = none) ∧
    (let far := { copy0 with words := [{ word0 with va := 0x0100000000001000 }] }
     ((copyState mem0 [far]).tile t0).copyQ.find? ((copyState mem0 [far]).copyReady t0) = some far ∧ far.stray?.isSome = true) ∧
    (let late := { copy0 with gap := 9 }
     let s := withTile (copyState mem0 [late]) fun t => { t with starts := [(0, 0)] }
     (s.tile t0).copyQ.find? (s.copyReady t0) = some late ∧ s.paceOk t0 0 9 = false) ∧
    ((copyState mem0 [done]).copy? t0 3 = some done ∧ (copyState mem0 [done]).sentPending t0 done = false) ∧
    ((copyState mem0 [{ done with words := [word0] }]).copy? t0 3 = some { done with words := [word0] } ∧ word0.va.toNat < 2 ^ 56 ∧
      (match ((copyState mem0 [{ done with words := [word0] }]).writeWord t0 word0).2 with | .ok _ => true | _ => false) = true) ∧
    ((copyState { mem0 with tlb := [] } [{ copy0 with started := true }]).copy? t0 3 = some { copy0 with started := true } ∧
      (pair0.faulting (copyState { mem0 with tlb := [] } [{ copy0 with started := true }]) 0) = some (0x1000, true)) := by decide +kernel

/-- A fill's bytes land, and its completion word after them. -/
theorem test_copy_word :
    (match exec (.copyCommandComplete t0 3) (copyState mem0 [{ copy0 with started := true, pairs := [], words := [word0] }]) with
     | .next t => (Mem.readN t.mem 0x1010 4, (t.tile t0).copyQ)
     | _ => ([], [])) = ([1, 0, 0, 0], []) := by decide +kernel

/-- Blocks 0 and 1 of group 0 in a round of 16 bytes: block 0 has read its 16-byte slice and has it still to write to rank 1. -/
def grpIssue (blk : Nat) (wr : List (Nat × Nat × Nat)) : GrpIssue :=
  { id := 5 + blk, blk := blk, tile := t0, by_ := { issuer0 with wave := { w0 with blk := blk } }, ch := 0, dst := 0xFFFFFF00000000,
    word := none, slice := { pair0 with src := some 0x1000, toWrite := [], buf := (List.range 16).map fun k => (k, 7#8) }, gap := 0, started := true,
    opened := [1], toWrite := wr, paused := none, ended := false }

def grpState : State :=
  { mem0 with
    launches := [(0, { launchV with
      nblock := 2, groups := [{ kind := 1, members := [0, 1] }],
      blocks := [(0, { blk0 with waves := [waveOf []] }), (1, { blk0 with waves := [waveOf []], vbase := 65536 })],
      cgrps := [{ g := 0, len := 16, issues := [grpIssue 0 [(1, 0, 16)], grpIssue 1 []] }] })], nextLid := 1 }

/-- A tile with 32 commands in its copy queue. -/
def fullMem : State := withTile mem0 fun t => { t with copyQ := (List.range 32).map fun k => { copy0 with id := k } }

/-- Control operands that a copy's checks turn away: a reserved bit, a length above 2^24, two completion words, and a word on a peer. -/
theorem witness_CopyChecks :
    MeetsSome opCpyFill (fun _ _ i => i.mask != 0 && ctlTrap i false i.mask.list == some .reserved) ∧
    MeetsSome opCpyBlk (fun _ _ i => ctlTrap i false i.mask.list == some trapBounds) ∧
    MeetsSome opCpyBlk (fun _ _ i => ctlTrap i false i.mask.list == some trapBounds && i.mask.list.all fun k => ctlCw (i.c.nat k)) ∧
    Meets opCpyFill (fld 0 0 11 3 5 1) (fun _ _ i => i.mask == 1 && (ctlTrap i false i.mask.list).isNone &&
      i.mask.list.all fun k => ctlCw (i.c.nat k) && decide (2 ^ 56 ≤ i.a.nat k)) ∧
    MeetsSome opCpyW (fun s x i => i.mask != 0 && s.copyCount x.tile == 32) ∧
    MeetsSome opCpyGrp (fun s x i => i.mask != 0 && s.copyCount x.tile == 32 && (groupOf x.launch x.w.blk 0).isSome) ∧
    Meets opCpyGrp (fld 0 0 11 11 5 1) (fun _ _ i => (i.mask.list.find? fun k => !ctlCw (i.c.nat k)).isNone && (ctlTrap i true []).isNone) :=
  ⟨some_of_md mem0 launchG blk0 (waveAt 0x1000 (2 ^ 41)) 0 (by decide +kernel),
   some_of_md mem0 launchG blk0 (waveAt 0x1000 (2 ^ 24 + 1)) 0 (by decide +kernel),
   some_of_md mem0 launchG blk0 (waveAt 0x1000 (2 ^ 40)) 0 (by decide +kernel),
   meets_sound mem0 launchG blk0 (waveOf ((valsAt (fun _ => 2 ^ 56) fun _ => 2 ^ 40).set 0 (predOf fun k => k == 0))) (by decide +kernel),
   some_of_md fullMem launchG blk0 (waveAt 0x1000 16) 0 (by decide +kernel),
   some_of_md fullMem launchG blk0 (waveAt 0x1000 16) 0 (by decide +kernel),
   meets_sound mem0 launchG blk0 (waveOf ((valsAt (fun _ => 0) fun _ => 16).set 0 (splat .pred 0))) (by decide +kernel)⟩

/-- The rounds that `cpy.grp` and `cpy.blk` find: one that the block has joined, one of another member, and the block's own collective. -/
theorem witness_CopyRounds :
    (grpState.launches.all fun e => match e.2.cgrps with
      | [r] => r.closed e.2 [0, 1, 2] == false && (r.issues.any fun i => i.blk == 0) && (r.issues.all fun i => i.blk != 2) && r.len == 16
      | _ => false) = true ∧
    (copyState mem0 [{ copy0 with kind := .blk, issued := [] }]).roundAt b0 copy0.round = some t0 := by decide +kernel

theorem witness_GroupCopyAndCommitEvents :
    ((grpState.grpAt 0 0 fun i => i.blk == 0 && !i.ended && (!i.opened.contains 1 || i.toWrite.any fun e => e.1 == 1)).any (fun r =>
        r.issue.started && r.issue.paused.isNone && !r.issue.ended && r.issue.slice.toRead.isEmpty && r.issue.toWrite == [(1, 0, 16)] &&
        (grpState.grpAt 0 0 fun i => i.id == r.issue.id) == some r && (r.issue.slice.bytes? 0 16).isSome) = true ∧
      (match (grpState.ownSpans { lid := 0, blk := 1 } 0 16).2 with | .ok _ => true | _ => false) = true) ∧
    (let k : KvCmd :=
       { id := 9, by_ := issuer0, ctx := 0, block := b0, rel := 0x5000, rowb := 16, ops := [], owed := word0, gap := 0,
         started := true, paused := none }
     let s := withTile (mkB mem0 launchV { blk0 with waves := [waveOf []] }) fun t => { t with kvQ := [k] }
     let op := KvOp.move 0x2000 0 1 none none none
     let u := withTile (mkB { mem0 with tlb := [] } launchV { blk0 with waves := [waveOf []] }) fun t => { t with kvQ := [{ k with ops := [op] }] }
     s.kv? t0 9 = some k ∧ s.startKv t0 9 = s ∧ (s.tile t0).fenced 4 9 = false ∧ (match (s.writeWord t0 word0).2 with | .ok _ => true | _ => false) = true ∧
     u.kv? t0 9 = some { k with ops := [op] } ∧ u.copy? t0 9 = none ∧
     (match (u.kvAccess { k with ops := [op] } t0 op 0).2 with | .fault _ _ => true | _ => false) = true) := by
  refine ⟨?_, ?_⟩ <;> decide +kernel

/-- The slice of a group copy lands in the vault block of the member of rank 1. -/
theorem test_group_slice :
    (match exec (.cpyGrpSliceLand 0 0 0 1) grpState with
     | .next t => Mem.readN t.mem (vaultKey 0 0 65536) 2
     | _ => []) = [7, 7] := by decide +kernel

/-! Matrix and tree -/

theorem witness_TileElements : ∀ T ∈ tyTelem, AtEvery fun _ _ _ c => ∃ (f g h : Fields) (vt vi ve : Value),
    (f.typ.toNat = Ty.tile.code ∧ f.md = 0 ∧ f.a = 0 ∧ f.b = 0 ∧ f.c = 0 ∧ f.p = 0) ∧
    (g.typ.toNat = T.code ∧ g.md = 0 ∧ Names c g.a .tile vt ∧ Names c g.b .n32 vi ∧ g.c = 0) ∧
    (h.typ.toNat = Ty.tile.code ∧ h.md = 0 ∧ Names c h.a .tile vt ∧ Names c h.b T ve ∧ Names c h.c .n32 vi) := by
  intro T hT
  have hv : T ≠ .void ∧ T.code < 16 := by revert T; decide
  exact at_every ⟨fld 13 0 0 0 0 0, fld T.code 0 13 3 0 0, fld 13 0 13 T.code 3 0, _, _, _, by decide,
    ⟨Nat.mod_eq_of_lt hv.2, rfl, nm .tile nofun, nm .n32 nofun, rfl⟩, ⟨rfl, rfl, nm .tile nofun, nm T hv.1, nm .n32 nofun⟩⟩

/-- An element put into a tile row is got back. -/
theorem test_tile_elements :
    let s := small [splat .tile 0, splat .n32 77, splat .n32 31]
    (match exec (.tins (fld 13 0 1 2 3 0)) s with
     | .next t => (defined (exec (.textr (fld 3 0 1 4 0 0)) t)).take 1
     | _ => []) = [(.n32, 77)] := by decide +kernel

/-- Memory with a format block at 0x1000 whose halves name these formats. -/
def fmtMem (fa fb : Nat) : State := mem0.writeKey 0x1000 (leBytes 64 (fa * 4096 + fb * 4096 * 2 ^ 256))

/-- A wave whose addresses, and whose fragments' format blocks, are at 0x1000. -/
def waveFmt : Wave := waveOf ((valsAt (fun _ => 0x1000) fun _ => 0).set 11 (splat .frag (0x1000 * 2 ^ 1536)))

/-- The same wave after three quarters of that format block have been read. -/
def waveQ (fa fb : Nat) : Wave := { waveFmt with quarters := [fa * 4096, 0, fb * 4096] }

theorem witness_FormatBlockInstructions :
    MeetsSome opFmtld (fun s x i => i.mask != 0 && (s.readBlock x true (i.low i.a)).toOption.any fun e => (blockTrap e.2 true).isNone) ∧
    MeetsSome opFmtld (fun s x i => i.mask != 0 && (s.readBlock x true (i.low i.a)).toOption.any fun e => blockTrap e.2 true == some trapFormat) ∧
    MeetsSome opLdFrag (fun s x i => i.mask != 0 && (s.readBlock x true (i.low i.b)).toOption.any fun e => (blockTrap e.2 true).isNone &&
      okRes (e.1.readAcc x winsAll 16 (i.laneAcc (rowBytes (fmtHalf e.2 (i.md % 2)).fmt (prodK (fmtHalf e.2 0).fmt (fmtHalf e.2 1).fmt))))) ∧
    MeetsSome opTcvt (fun s x i => i.mask != 0 && !(s.tile x.tile).fenced 2 s.nextId && (s.readBlock x false (i.low i.b)).toOption.isSome &&
      decide (x.wave.quarters.length < 3)) ∧
    MeetsSome opTcvt (fun s x i => i.mask != 0 && !(s.tile x.tile).fenced 2 s.nextId && (s.fetchBlock x (i.low i.b)).toOption.any fun e =>
      (blockTrap e.2 true).isNone && (fmtHalf e.2 (i.md / 4 % 2)).fmt == 10) ∧
    MeetsSome opTcvt (fun s x i => i.mask != 0 && !(s.tile x.tile).fenced 2 s.nextId && (s.fetchBlock x (i.low i.b)).toOption.any fun e =>
      (blockTrap e.2 true).isNone && (fmtHalf e.2 (i.md / 4 % 2)).fmt == 0) :=
  ⟨some_of_md (fmtMem 10 11) launchV blk0 waveFmt 0 (by decide +kernel),
   some_of_md (mem0.writeKey 0x1000 (leBytes 64 (11 * 4096 + 1024 + 11 * 4096 * 2 ^ 256))) launchV blk0 waveFmt 0 (by decide +kernel),
   some_of_md (fmtMem 10 11) launchV blk0 waveFmt 0 (by decide +kernel),
   some_of_md (fmtMem 10 11) launchV blk0 waveFmt 0 (by decide +kernel),
   some_of_md (fmtMem 10 11) launchV blk0 (waveQ 10 11) 0 (by decide +kernel),
   some_of_md (mem0.writeKey 0x1000 (leBytes 64 (128 + 128 * 2 ^ 256))) launchV blk0 { waveFmt with quarters := [128, 0, 128] } 0 (by decide +kernel)⟩

def staged0 : Staged :=
  { id := 2, l2 := false, md := 22, mask := BitVec.allOnes 32, a := splat .frag (0x1000 * 2 ^ 1536), b := splat .frag (0x1000 * 2 ^ 1536),
    c := splat .tile 0, fmt := BitVec.ofNat 512 (11 * 4096 + 11 * 4096 * 2 ^ 256), fetched := [] }

theorem witness_MatrixProducts :
    (∀ e ∈ [opMma, opMmaL2], MeetsSome e fun s x i =>
      i.mask != 0 && !(s.tile x.tile).fenced 2 s.nextId && s.paceOk x.tile 2 (i.gaps s).pmma && !x.wave.replay &&
      (s.readBlock x false i.fba).toOption.isSome && decide (x.wave.quarters.length < 3)) ∧
    (∀ e ∈ [(opMma, false), (opMmaL2, true)], MeetsSome e.1 fun s x i =>
      i.mask != 0 && !(s.tile x.tile).fenced 2 s.nextId && s.paceOk x.tile 2 (i.gaps s).pmma && !x.wave.replay &&
      (s.fetchBlock x i.fba).toOption.any fun q =>
        (blockTrap q.2 ((fmtHalf q.2 0).fmt == i.md / 2 % 16)).isNone && (productTrap i e.2 q.2).isNone) := by
  simp only [List.mem_cons, List.not_mem_nil, or_false, forall_eq_or_imp, forall_eq]
  exact ⟨⟨some_of_md (fmtMem 11 11) launchV blk0 waveFmt 22 (by decide +kernel),
    some_of_md (fmtMem 11 11) launchV blk0 waveFmt 22 (by decide +kernel)⟩,
    some_of_md (fmtMem 11 11) launchV blk0 (waveQ 11 11) 22 (by decide +kernel),
    some_of_md (fmtMem 11 11) launchV blk0 (waveQ 11 11) 22 (by decide +kernel)⟩

theorem witness_MatrixProducts_complete :
    let y := { waveOf [] with mode := .mma, staged := some staged0 }
    let s := mk (fmtMem 11 11) launchV blk0 y
    let x := siteOf launchV blk0 y
    s.site? w0 = some x ∧ (s.tile x.tile).fenced 2 2 = false ∧
      ((s.fetchRest x [] staged0.chunks).toOption.any fun e => (staged0.product e.2).isSome) = true := by decide +kernel

theorem witness_TokenTrees : AtEvery fun _ _ _ c => ∃ (f g : Fields) (vt vn ve : Value),
    (f.typ.toNat = Ty.n32.code ∧ f.md = 0 ∧ Names c f.a .tile vt ∧ Names c f.b .n32 vn ∧ Names c f.c .n32 vn ∧
      Active c f.p (BitVec.allOnes 32)) ∧
    (g.typ.toNat = Ty.tile.code ∧ g.md = 0 ∧ Names c g.a .tile vt ∧ Names c g.b .n32 vn ∧ Names c g.c .f32 ve ∧ ∀ k, ve.nat k < 2 ^ 32) :=
  at_every ⟨fld 3 0 13 3 3 0, fld 13 0 13 3 6 0, _, _, _, ⟨rfl, rfl, nm .tile nofun, nm .n32 nofun, nm .n32 nofun, every_lane _ rfl⟩,
    rfl, rfl, nm .tile nofun, nm .n32 nofun, nm .f32 nofun, by decide +kernel⟩

theorem witness_TokenTreeAncestors :
    MeetsSome opTanc (fun _ _ i => i.mask.lowest.any fun l => decide (i.c.nat l < 1)) ∧
    MeetsSome opTanc (fun _ _ i => i.mask.lowest.any fun l => i.c.nat l == 257) ∧
    MeetsSome opTanc (fun _ _ i => i.mask.lowest.any fun l => i.c.nat l == 1) ∧
    MeetsSome opTanc (fun _ _ i => i.mask.lowest.any fun l => i.c.nat l == 2 && i.a.nat 0 / 2 ^ 8 % 256 == 0) ∧
    MeetsSome opTanc (fun _ _ i => i.mask.lowest.any fun l => decide (2 ≤ i.c.nat l) && decide (1 ≤ i.a.nat 0 / 2 ^ 8 % 256)) :=
  ⟨some_of_md mem0 launchV blk0 (waveAt 0 0) 0 (by decide +kernel), some_of_md mem0 launchV blk0 (waveAt 0 257) 0 (by decide +kernel),
   some_of_md mem0 launchV blk0 (waveAt 0 1) 0 (by decide +kernel), some_of_md mem0 launchV blk0 (waveAt 0 2) 0 (by decide +kernel),
   ⟨fld 13 0 1 2 2 0, meets_sound mem0 launchV blk0 (waveOf [splat .n64 0x0100, splat .n32 2]) (by decide +kernel)⟩⟩

/-! The row engine -/

def row0 : RowCmd :=
  { id := 4, unit := .top, by_ := issuer0, ctx := 0, bf := false, row := 0xFFFFFF00000000, recVa := 0xFFFFFF00001000, out := 0xFFFFFF00000000, n := 1,
    tau := 0x3F800000, gap := 9, key := vaultKey 0 0 4096, arrive := 0, start := none, fin := 0, got := [], outs := none, status := 1 }

def rowState (q : List RowCmd) : State := withTile (mkB mem0 launchV { blk0 with waves := [waveOf []] }) fun t => { t with rowQ := q }

/-- A note's hypotheses at a row of n elements. -/
def noteMeets (op : Op) (row rc n : Nat) (P : State → Site → OpIn → Bool) : Bool :=
  meets mem0 launchV blk0 (waveOf [splat .addr row, splat .addr rc, splat .n32 n]) op (fld 0 0 1 2 3 0) P

theorem witness_RowInstructions :
    (∀ e ∈ [opRowTop, opRowHeart, opRowBase], Meets e (fld 0 0 1 2 3 0) fun s x i =>
      let out := (((i.uni i.a : Nat) : Int) + toInt .i32 x.wave.ofs.toNat) % 2 ^ 64
      i.uni i.c == 1 && (s.rowKey x (i.uni i.a) 4).any fun kr => (s.rowKey x (i.uni i.b) 16).any fun kc => (s.rowKey x out.toNat 4).any fun ko =>
        !rangesMeet kr 4 kc 16 && !rangesMeet ko 4 kc 16 && toInt .i32 x.wave.ofs.toNat % 4 == 0 && decide ((s.tile x.tile).rowWaiting < 16)) ∧
    Meets opRowTop (fld 0 0 1 2 3 0) (fun _ _ i => i.uni i.c == 8193) ∧ Meets opRowTop (fld 0 0 1 2 3 0) (fun _ _ i => i.uni i.c == 0) ∧
    Meets opRowTop (fld 0 0 1 2 3 0) (fun _ _ i => i.uni i.c == 1 && i.uni i.a % 4 != 0) ∧
    Meets opRowTop (fld 0 0 1 2 3 0) (fun _ _ i => i.uni i.c == 1 && i.uni i.b % 16 != 0) ∧
    MeetsSome opRowPace (fun s x i => i.uni i.a == 65535 && decide ((s.tile x.tile).rowWaiting < 16)) ∧
    MeetsSome opRowPace (fun _ _ i => i.uni i.a == 65536) ∧
    MeetsSome opRowSync (fun s x _ => !s.rowPending x.w) ∧
    Meets opRowCfg (fld 0 0 1 2 0 0) (fun _ _ i => i.uni i.a == 0x00800000) ∧ Meets opRowCfg (fld 0 0 1 2 0 0) (fun _ _ i => i.uni i.a == 0x7F800000) := by
  have note (op : Op) (row rc n : Nat) (P : State → Site → OpIn → Bool) (h : noteMeets op row rc n P = true) : Meets op (fld 0 0 1 2 3 0) P :=
    meets_sound _ _ _ _ h
  refine ⟨?_, note _ 0xFFFFFF00000000 0xFFFFFF00001000 8193 _ (by decide +kernel), note _ 0xFFFFFF00000000 0xFFFFFF00001000 0 _ (by decide +kernel),
    note _ 0xFFFFFF00000002 0xFFFFFF00001000 1 _ (by decide +kernel), note _ 0xFFFFFF00000000 0xFFFFFF00001008 1 _ (by decide +kernel),
    some_of_md mem0 launchV blk0 (waveAt 0 65535) 0 (by decide +kernel), some_of_md mem0 launchV blk0 (waveAt 0 65536) 0 (by decide +kernel),
    some_of_md mem0 launchV blk0 (waveAt 0 0) 0 (by decide +kernel),
    meets_sound mem0 launchV blk0 (waveOf [splat .f32 0x00800000, splat .i32 4]) (by decide +kernel),
    meets_sound mem0 launchV blk0 (waveOf [splat .f32 0x7F800000, splat .i32 4]) (by decide +kernel)⟩
  simp only [List.mem_cons, List.not_mem_nil, or_false, forall_eq_or_imp, forall_eq]
  exact ⟨note _ 0xFFFFFF00000000 0xFFFFFF00001000 1 _ (by decide +kernel), note _ 0xFFFFFF00000000 0xFFFFFF00001000 1 _ (by decide +kernel),
    note _ 0xFFFFFF00000000 0xFFFFFF00001000 1 _ (by decide +kernel)⟩

theorem witness_RowEngineEvents :
    let s := rowState [row0]
    let done := { row0 with start := some 0, got := [(0, [0, 0, 128, 63])], outs := some [] }
    ((s.tile t0).rowQ.find? (fun c => c.start.isNone) = some row0 ∧ (s.tile t0).rowStart row0 = some 0 ∧ 0 ≤ s.engNow t0 ∧
      (s.tile t0).fenced 3 4 = false) ∧
    ((rowState [{ row0 with unit := .pace }]).tile t0).rowStart { row0 with unit := .pace } = some 0 ∧
    ((rowState [{ row0 with arrive := 1 }]).tile t0).rowStart { row0 with arrive := 1 } = some 1 ∧
    ((rowState [done]).row? t0 4 = some done ∧ done.fin ≤ (rowState [done]).engNow t0 ∧
      (match ((rowState [done]).writeWord t0 { done.owed with value := 1 }).2 with | .ok _ => true | _ => false) = true) ∧
    ((rowState []).wave? w0).isSome = true := by decide +kernel

/-- What a top note with nothing left writes in its status word. -/
theorem test_row_done :
    (match exec (.rowNoteDone t0 4) (rowState [{ row0 with start := some 0, got := row0.reads.map fun p => (p.1, List.replicate p.2 0), outs := some [] }]) with
     | .next t => (Mem.readN t.mem (vaultKey 0 0 4108) 1, (t.tile t0).rowQ.length)
     | _ => ([], 9)) = ([1], 0) := by decide +kernel

/-! Gears -/

theorem witness_GearInstructions :
    MeetsSome opGear (fun s x i => decide (i.md < 8) && ((s.tile x.tile).switch.any fun w => w.landed.isNone) &&
      (s.tile x.tile).act == x.launch.ctx && (s.tile x.tile).lastGear.isNone) ∧
    MeetsSome opGear (fun s x _ => (s.tile x.tile).lastGear.any fun e => e.1 == s.ctlNow x.tile && decide (16 * (x.w.wav % 2) + x.wave.slot < e.2)) ∧
    MeetsSome opGear (fun _ _ i => decide (i.md < 8)) ∧ MeetsSome opGear (fun _ _ i => decide (8 ≤ i.md)) ∧ MeetsSome opGearRd (fun _ _ _ => true) ∧
    (∀ md ∈ [0, 1, 2], MeetsSome opClk (fun _ _ i => i.md == md)) ∧
    (∀ md ∈ [0, 1, 2, 3], MeetsSome opPace (fun _ _ i => i.md == md && i.uni i.a == 65535)) ∧ MeetsSome opPace (fun _ _ i => i.uni i.a == 65536) ∧
    MeetsSome opBoost (fun _ _ i => i.md == 0) ∧ MeetsSome opBoost (fun _ _ i => i.md == 1) := by
  have some' (op : Op) (n md : Nat) (P : State → Site → OpIn → Bool) (h : meetsMd mem0 launchV blk0 (waveAt 0 n) op md P = true) :
      MeetsSome op P := some_of_md _ _ _ _ _ h
  have at' (t : Tile) (op : Op) (P : State → Site → OpIn → Bool)
      (h : meetsMd (withTile mem0 fun _ => t) launchV blk0 (waveAt 0 0) op 1 P = true) : MeetsSome op P := some_of_md _ _ _ _ _ h
  refine ⟨at' { Tile.reset with switch := some { other := 1, t0 := 0, landed := none } } _ _ (by decide +kernel),
    at' { Tile.reset with lastGear := some (0, 99) } _ _ (by decide +kernel),
    some' _ 0 1 _ (by decide +kernel), some' _ 0 8 _ (by decide +kernel), some' _ 0 0 _ (by decide +kernel), ?_, ?_,
    some' _ 65536 0 _ (by decide +kernel), some' _ 0 0 _ (by decide +kernel), some' _ 0 1 _ (by decide +kernel)⟩
  · simp only [List.mem_cons, List.not_mem_nil, or_false, forall_eq_or_imp, forall_eq]
    exact ⟨some' _ 0 0 _ (by decide +kernel), some' _ 0 1 _ (by decide +kernel), some' _ 0 2 _ (by decide +kernel)⟩
  · simp only [List.mem_cons, List.not_mem_nil, or_false, forall_eq_or_imp, forall_eq]
    exact ⟨some' _ 65535 0 _ (by decide +kernel), some' _ 65535 1 _ (by decide +kernel), some' _ 65535 2 _ (by decide +kernel),
      some' _ 65535 3 _ (by decide +kernel)⟩

/-- A tile whose context asks for gear g, with a change decided for the boundary at tick 64. -/
def gearState (g : Nat) (stall : Option Nat) (now : Nat) : State :=
  { withTile mem0 (fun t => { t with
      ctxs := [(0, { TileCtx.reset with gear := g })]
      clock := { t.clock with change := some { bound := 64, stallEnd := stall, tgt := 1, tfast := false, tcause := 0, tthr := false, causes := [0] } } }) with tick := now }

/-- Each case of GearChanges at the ticks where it begins: before the boundary, at it with a divisor change, a rail change and no change, and
before and at the end of a stall. -/
theorem witness_GearChanges :
    ((gearState 3 none 63).tick < 64 ∧ 64 ≤ (gearState 3 none 64).tick) ∧
    (gearState 3 none 64).effGear t0 = (3, true) ∧ (gearState 1 none 64).effGear t0 = (1, false) ∧ (gearState 4 none 64).effGear t0 = (4, true) ∧
    (((gearState 3 none 64).tile t0).clock.gd, ((gearState 3 none 64).tile t0).clock.fast) = (4, true) ∧
    (gearState 1 (some 456) 455).tick < 456 ∧ 456 ≤ (gearState 1 (some 456) 456).tick := by decide +kernel

/-- The clauses of GearChanges on R221: a 5 without a grant runs as 4, a throttle lowers the divisors and not the rail, and a hold of the active
context lowers both. -/
theorem test_effective_gear :
    let s (c : Nat) (hs : List (Nat × Nat × Nat)) := { gearState 5 none 64 with launches := [(0, launchV)] }.modTile t0 fun t => { t with clock := { t.clock with cap := c, holds := hs } }
    (s 5 []).gearGr t0 = 4 ∧ (s 5 []).effGear t0 = (4, true) ∧ (s 1 []).effGear t0 = (1, true) ∧
      (s 5 [(0, 0, 3)]).effGear t0 = (3, true) ∧ (s 5 [(0, 0, 1)]).effGear t0 = (1, false) := by decide +kernel

/-- A gear asked for is in effect from its boundary on; a rail change stalls the tile for 392 ticks. -/
theorem test_gear :
    (match exec (.gearChangeEdge t0) (gearState 3 none 64) with | .next t => (t.tile t0).clock.gd | _ => 9) = 3 ∧
    (match exec (.gearChangeEdge t0) (gearState 1 none 64) with
     | .next t => ((t.tile t0).clock.change.bind GearChange.stallEnd) | _ => none) = some 456 := by decide +kernel

/-! Native operations -/

/-- A native wave whose streams stand at address 0 of a translation of 64 bytes. -/
def nativeWave (n : Native) : Wave := { waveOf [] with native := some n }

def nativeState (n : Native) : State :=
  mk { mem0 with store := [{ code1 [[]] with codeLen := 64 }] } launchV { blk0 with spill := 4096 } (nativeWave n)

theorem witness_NativeInstructions :
    let n := { placedNative with s := [(0, 16)] }
    let s := nativeState n
    let x := siteOf launchV { blk0 with spill := 4096 } (nativeWave n)
    (s.cur = some x.w ∧ s.site? x.w = some x ∧ x.wave.mode = .run ∧ n.waits = [] ∧ (s.code? (frameOf [])).isSome = true ∧
      (∀ k < 4, (n.seqs[k]?).any (fun q => decide (q.noSp < 63)) = true) ∧ s.opStream 0 = 0 ∧ s.opStream 1 = 1) ∧
    (let m := { n with seqs := n.seqs.map fun q => { q with noSp := 63 } }
     (m.seqs[0]?).map Seq.noSp = some 63 ∧ (nativeState m).opStream 0 = 0) ∧
    ((Instr.nop (slot 0 0 0 0 0 0 none)).slotWf = true ∧ (Instr.nop (slot 0 1 0 0 0 0 none)).slotWf = false ∧
      (Instr.mov (slot 5 1 0x901 0 0 0 none)).slotWf = true ∧ n.srcFits .n64 0x901#12 = true ∧ n.dstFits 0 .n64 1#12 = true ∧
      (Instr.mov (slot 3 0 0x800 0 0 0 none)).slotWf = true) ∧
    ((Instr.jmp (slot 0 0 1 0 0 0 none)).slotWf = true ∧ (jumpTo 64 0 (disp24 0 1)).isSome = true ∧ (jumpTo 64 0 (disp24 0x800 0)).isNone = true) ∧
    ((Instr.jc (slot 0 0x900 0 1 0 0 none)).slotWf = true ∧ (Instr.jal (slot 0 255 0 1 0 0 none)).slotWf = true ∧
      (Instr.jr (slot 0 0 0x900 0 0 0 none)).slotWf = true ∧ (n.sreg 0x900#12).toNat % 2 ^ 32 = 16) ∧
    ((Instr.bcs (slot 3 0 0x900 0 0 0 none)).slotWf = true ∧ n.dstFits 1 .n32 0#12 = true ∧ n.srcFits .n32 0x900#12 = true) ∧
    ((Instr.spst (slot 3 0 0 0 0 0 (ext 0 0 62))).slotWf = true ∧ 64 * 62 + 128 * vNames .n32 ≤ 4096 ∧ 4096 < 64 * 63 + 128 * vNames .n32 ∧
      (Instr.spld (slot 3 0 0 0 0 0 (ext 0 0 62))).slotWf = true ∧ s.poisoned (x.spillKey (64 * 62)) (128 * vNames .n32) = false ∧
      { s with poison := [x.spillKey (64 * 62)] }.poisoned (x.spillKey (64 * 62)) (128 * vNames .n32) = true) ∧
    ((Instr.lcfg (slot 0 0 0x900 0 0 0 (ext 0 0 (16 * 2048)))).slotWf = true ∧ n.budget = 16) := by decide +kernel

/-- `jal` saves the address after its bundle and jumps; `spst` and `spld` take a value through the spill area. -/
theorem test_native :
    (match exec (.jal (slot 0 7 0 1 0 0 none)) (nativeState placedNative) with
     | .next t => ((t.wave? w0).bind Wave.native).map fun n => (Tab.getD n.s 0 7, (n.seqs.map Seq.pc).take 1)
     | _ => none) = some (16#64, [16]) ∧
    (match exec (.spst (slot 3 0 5 0 0 0 (ext 0 0 1))) (nativeState { placedNative with v := [(5, Lanes.all 42)] }) with
     | .next t =>
       match exec (.spld (slot 3 6 0 0 0 0 (ext 0 0 1))) t with
       | .next u => ((u.wave? w0).bind Wave.native).map fun n => (Tab.getD n.v (Lanes.all 0) 6).get 31
       | _ => none
     | _ => none) = some 42#32 := by decide +kernel

/-! Launches, fabric, trace, debug and system instructions -/

/-- Memory with a status word at 0x1000 in this state. -/
def statusMem (state : Nat) : State := mem0.writeKey 0x1000 (leBytes 16 state)

/-- The sixteen loads of a record from a place where `launch` may read one. -/
def recordRead (s : State) (x : Site) (i : OpIn) : Option (State × List (List Byte)) :=
  if i.uni i.a % 64 != 0 || (List.range 16).any fun k => 2 ^ 56 ≤ i.uni i.a + 16 * k || winOf (i.uni i.a + 16 * k) != .glob then none
  else (s.readAcc x [.glob] 16 ((List.range 16).map fun k => (i.uni i.a + 16 * k, 16))).toOption

theorem witness_LaunchInstructions :
    MeetsSome opLaunch (fun _ _ i => (List.range 16).any fun k => 2 ^ 56 ≤ i.uni i.a + 16 * k || winOf (i.uni i.a + 16 * k) != .glob) ∧
    MeetsSome opLaunch (fun _ _ i => i.uni i.a % 64 != 0 &&
      (List.range 16).all fun k => i.uni i.a + 16 * k < 2 ^ 56 && winOf (i.uni i.a + 16 * k) == .glob) ∧
    MeetsSome opLaunch (fun s x i => (recordRead s x i).any fun e =>
      ((e.1.ctx? x.launch.ctx).any fun k => decide (k.dlq.length < 256)) && okRes (i.snapshot e.1 (launchRecOf (ofLe e.2.flatten)))) ∧
    MeetsSome opLaunch (fun s x i => (recordRead s x i).any fun e =>
      ((e.1.ctx? x.launch.ctx).any fun k => decide (k.dlq.length < 256)) &&
        (match i.snapshot e.1 (launchRecOf (ofLe e.2.flatten)) with | .error (.page _ a false) => a == 2 ^ 40 | _ => false)) ∧
    MeetsSome opLaunch (fun s x i => (recordRead s x i).any fun e =>
      (e.1.ctx? x.launch.ctx).any fun k => decide (256 ≤ k.dlq.length)) ∧
    MeetsSome opTrig (fun _ _ _ => true) ∧
    MeetsSome opLwait (fun s x i => (s.readAcc x [.glob] 16 [(i.uni i.a, 16)]).toOption.any fun e => i.md == 0 && ofLe (e.2.flatten.take 1) == 2) ∧
    MeetsSome opLwait (fun s x i => (s.readAcc x [.glob] 16 [(i.uni i.a, 16)]).toOption.any fun e => i.md == 1 && ofLe (e.2.flatten.take 1) == 2) ∧
    (∀ md ∈ [0, 1, 2, 3], MeetsSome opCtxid (fun s x i => i.md == md && (s.ctx? x.launch.ctx).isSome)) ∧
    MeetsSome opPrio (fun _ x i => i.uni i.a == 0 && !x.launch.sys && decide (0 < x.block.cls)) ∧
    MeetsSome opPrio (fun _ x i => i.uni i.a == 3 && decide (x.block.cls ≤ 3)) ∧ MeetsSome opPrio (fun _ _ i => i.uni i.a == 4) := by
  have some' (g : State) (op : Op) (a n md : Nat) (P : State → Site → OpIn → Bool) (h : meetsMd g launchV blk0 (waveAt a n) op md P = true) :
      MeetsSome op P := some_of_md _ _ _ _ _ h
  refine ⟨some' mem0 _ (2 ^ 56) 0 0 _ (by decide +kernel), some' mem0 _ 0x1010 0 0 _ (by decide +kernel), some' mem0 _ 0x1000 0 0 _ (by decide +kernel),
    some' (mem0.writeKey 0x1000 (leBytes 256 (2 ^ 40 * 2 ^ 896 + 64 * 2 ^ 435))) _ 0x1000 0 0 _ (by decide +kernel),
    some' { mem0 with ctxs := [(0, { ctx0 with dlq := List.replicate 256 { num := 0, record := [], params := [], sys := false, wave := w0 } })] } _ 0x1000 0 0 _
      (by decide +kernel),
    some' mem0 _ 0x1000 0 0 _ (by decide +kernel), some' (statusMem 2) _ 0x1000 0 0 _ (by decide +kernel),
    some' (statusMem 2) _ 0x1000 0 1 _ (by decide +kernel), ?_,
    some_of_md mem0 { launchV with sys := false } blk0 (waveAt 0 0) 0 (by decide +kernel), some' mem0 _ 0 3 0 _ (by decide +kernel),
    some' mem0 _ 0 4 0 _ (by decide +kernel)⟩
  simp only [List.mem_cons, List.not_mem_nil, or_false, forall_eq_or_imp, forall_eq]
  exact ⟨some' mem0 _ 0 0 0 _ (by decide +kernel), some' mem0 _ 0 0 1 _ (by decide +kernel), some' mem0 _ 0 0 2 _ (by decide +kernel),
    some' mem0 _ 0 0 3 _ (by decide +kernel)⟩

/-- Peer 0 has link 0: its entry of the peer table stands at device address 0. -/
def peerMem : State := mem0.writeKey 0 (leBytes 16 (2 ^ 96 + 2 ^ 87))

theorem witness_FabricAndLinkInstructions :
    (∀ e ∈ [opFabLd, opFabSt, opFabAtom], MeetsSome e fun s x i => i.mask != 0 && !i.fabHeld s && (fabTrap i s 8).isNone) ∧
    MeetsSome opFabSt (fun _ _ i => i.mask.has 0 && decide (i.a.nat 0 < 2 ^ 56)) ∧
    Meets opLkPark (fld 0 0 1 2 0 0) (fun s _ i => i.uni i.a == 0 && i.uni i.b == 14 && s.hasPeer 0 && (s.link 0).groups.length == 4) ∧
    Meets opLkWake (fld 0 0 1 2 0 0) (fun s _ i => i.uni i.a == 31 && i.uni i.b == 14 && !s.hasPeer 31) ∧
    Meets opLkPark (fld 0 0 1 2 0 0) (fun _ _ i => i.uni i.a == 32) ∧ Meets opLkPark (fld 0 0 1 2 0 0) (fun _ _ i => i.uni i.b == 1) ∧
    Meets opLkPark (fld 0 0 1 2 0 0) (fun _ _ i => i.uni i.b == 16) ∧
    Meets opLkHeat (fld 0 0 1 2 3 0) (fun _ x i => x.launch.sys && i.uni i.a == 127 && i.uni i.b == 15 && i.uni i.c == 4095) ∧
    Meets opLkHeat (fld 0 0 1 2 3 0) (fun _ x i => x.launch.sys && i.uni i.c == 4096) ∧
    Meets opLkStat (fld 3 0 1 0 0 0) (fun _ _ i => i.uni i.a == 31) ∧ Meets opLkStat (fld 3 0 1 0 0 0) (fun _ _ i => i.uni i.a == 32) ∧
    Meets opLkStat (fld 3 1 1 2 0 0) (fun _ _ i => i.uni i.a == 127 && i.uni i.b == 15) ∧
    Meets opLkThr (fld 0 0 1 2 0 0) (fun _ _ i => i.uni i.a == 31 && i.uni i.b == 255) ∧
    Meets opLkThr (fld 0 0 1 2 0 0) (fun _ _ i => i.uni i.b == 256) := by
  have at3 (a b c : Nat) (op : Op) (f : Fields) (P : State → Site → OpIn → Bool)
      (h : meets peerMem launchV blk0 (waveOf [splat .n32 a, splat .n32 b, splat .n32 c]) op f P = true) : Meets op f P := meets_sound _ _ _ _ h
  have fab (op : Op) (md a : Nat) (P : State → Site → OpIn → Bool) (h : meetsMd peerMem launchV blk0 (waveAt a 0) op md P = true) :
      MeetsSome op P := some_of_md _ _ _ _ _ h
  refine ⟨?_, fab _ 0 0x1000 _ (by decide +kernel), at3 0 14 0 _ _ _ (by decide +kernel), at3 31 14 0 _ _ _ (by decide +kernel), at3 32 0 0 _ _ _ (by decide +kernel),
    at3 0 1 0 _ _ _ (by decide +kernel), at3 0 16 0 _ _ _ (by decide +kernel), at3 127 15 4095 _ _ _ (by decide +kernel),
    at3 127 15 4096 _ _ _ (by decide +kernel), at3 31 0 0 _ _ _ (by decide +kernel), at3 32 0 0 _ _ _ (by decide +kernel),
    at3 127 15 0 _ _ _ (by decide +kernel), at3 31 255 0 _ _ _ (by decide +kernel), at3 31 256 0 _ _ _ (by decide +kernel)⟩
  simp only [List.mem_cons, List.not_mem_nil, or_false, forall_eq_or_imp, forall_eq]
  exact ⟨fab _ 0 (2 ^ 56 + 0x1000) _ (by decide +kernel), fab _ 0 (2 ^ 56 + 0x1000) _ (by decide +kernel),
    fab _ 0 (2 ^ 56 + 0x1000) _ (by decide +kernel)⟩

theorem witness_TraceAndDebugInstructions :
    Meets opTrcMark (fld 0 0 1 0 0 0) (fun s x _ => !s.traceMK x) ∧ Meets opTrcMark (fld 0 0 1 0 0 0) (fun s x _ => s.traceMK x) ∧
    Meets opTrcOn (fld 0 1 0 0 0 0) (fun s x _ => (s.ctx? x.launch.ctx).isSome) ∧
    Meets opTrcOff (fld 0 2 0 0 0 0) (fun s x _ => (s.ctx? x.launch.ctx).isSome) ∧
    Meets opCntRd (fld 5 0 1 0 0 0) (fun _ _ i => i.uni i.a == 2 ^ 19) ∧ Meets opCntRd (fld 5 0 1 0 0 0) (fun _ _ i => i.uni i.a == 0x40) ∧
    Meets opCntRd (fld 5 0 1 0 0 0) (fun _ _ i => i.uni i.a == 0x140 + 96 * 4096) ∧
    Meets opCntRd (fld 5 0 1 0 0 0) (fun _ _ i => i.uni i.a == 0x140 + 95 * 4096) ∧
    (∀ op ∈ [opDbgBrk, opDbgStop], Meets op (fld 0 0 0 0 0 0) (fun s x _ => !s.debugOn x.launch.ctx) ∧
      Meets op (fld 0 0 0 0 0 0) (fun s x i => s.debugOn x.launch.ctx && i.mask != 0 && ((s.tile x.tile).part (x.w.wav % 2 == 1)).dbg.isNone)) ∧
    Meets opDbgBrk (fld 0 0 0 0 0 1) (fun _ _ i => i.mask == 0) ∧
    Meets opDbgUndo (fld 0 0 1 0 0 0) (fun s x i => !s.debugOn x.launch.ctx || i.uni i.a == 0) ∧
    Meets opDbgUndo (fld 0 0 1 0 0 0) (fun s x i => s.debugOn x.launch.ctx && i.uni i.a == 1 && ((s.emitDebug x 2).undo x.w 1).2 == 0) := by
  have on (k : Context) (n : Nat) (op : Op) (f : Fields) (P : State → Site → OpIn → Bool)
      (h : meets { mem0 with ctxs := [(0, k)] } launchV blk0 (waveOf [splat .n32 n]) op f P = true) : Meets op f P := meets_sound _ _ _ _ h
  refine ⟨on ctx0 0 _ _ _ (by decide +kernel), on { ctx0 with tmask := 2 } 0 _ _ _ (by decide +kernel), on ctx0 0 _ _ _ (by decide +kernel),
    on ctx0 0 _ _ _ (by decide +kernel), on ctx0 (2 ^ 19) _ _ _ (by decide +kernel), on ctx0 0x40 _ _ _ (by decide +kernel),
    on ctx0 (0x140 + 96 * 4096) _ _ _ (by decide +kernel), on ctx0 (0x140 + 95 * 4096) _ _ _ (by decide +kernel), ?_,
    meets_sound mem0 launchV blk0 (waveOf [splat .pred 0]) (by decide +kernel), on ctx0 0 _ _ _ (by decide +kernel),
    on { ctx0 with dbg := true } 1 _ _ _ (by decide +kernel)⟩
  simp only [List.mem_cons, List.not_mem_nil, or_false, forall_eq_or_imp, forall_eq]
  exact ⟨⟨on ctx0 0 _ _ _ (by decide +kernel), on { ctx0 with dbg := true } 0 _ _ _ (by decide +kernel)⟩,
    ⟨on ctx0 0 _ _ _ (by decide +kernel), on { ctx0 with dbg := true } 0 _ _ _ (by decide +kernel)⟩⟩

/-- A descriptor that 17 R349 accepts, at 0x1000. -/
def descMem (magic : Nat) : State :=
  mem0.writeKey 0x1000 (leBytes 128 (0x10000 * 2 ^ 960 + 0x20000 * 2 ^ 896 + 0x30000 * 2 ^ 832 + 2 * 2 ^ 800 + 0x40000 * 2 ^ 736 + 2 * 2 ^ 720 +
    0x50000 * 2 ^ 656 + 0x60000 * 2 ^ 576 + 4096 * 2 ^ 563 + 0 * 2 ^ 550 + 4096 * 2 ^ 537 + magic * 65536 + 1))

/-- A launch with and without system privilege, and a wave with a system instruction begun. -/
def sysMeets (g : State) (sys : Bool) (r : Option SysReq) (vs : List Value) (op : Op) (f : Fields) (P : State → Site → OpIn → Bool) : Bool :=
  meets g { launchV with sys := sys } blk0 { waveOf vs with sysReq := r } op f P

/-- A write to a peer, by the command of number 3, that has not been answered. -/
def sentWord : FabOut :=
  { id := 3, tag := 9, mop := 7, by_ := { wave := ⟨0, 0, 0⟩, point := ⟨0, 0, 0⟩, mask := 0, cls := 1 }, tile := t0, lane := 0, peer := 0,
    entry := { links := 0xFFFFFFFF, fid := 5, ctx := 0 }, va := 0x1000, size := 4, ty := .n32, cmd := some 3 }

def sysRows : List (Op × Fields) :=
  [(opSysCap, fld 3 0 1 0 0 0), (opSysFloor, fld 3 0 1 1 0 0), (opSysRetire, fld 3 0 1 0 0 0), (opSysCkpt, fld 3 0 2 0 0 0),
   (opSysRsync, fld 3 0 2 1 0 0), (opSysMigr, fld 3 0 2 0 0 0), (opSysL3cls, fld 3 0 1 0 0 0), (opSysWdog, fld 3 0 1 3 0 0),
   (opSysCtx, fld 3 0 1 2 0 0), (opSysCtx, fld 3 1 1 0 0 0), (opSysCtx, fld 3 2 1 1 0 0), (opSysCtx, fld 3 3 1 1 0 0), (opSysQ, fld 3 0 1 0 0 0),
   (opLkHeat, fld 0 0 1 1 1 0)]

/-- Every system instruction fits without system privilege, and with it. -/
theorem witness_SystemInstructions_priv :
    (sysRows.all fun e => sysMeets mem0 false none [splat .n32 0, splat .addr 0x1000, splat .n64 (2 ^ 16)] e.1 e.2 fun _ x _ => !x.launch.sys) = true ∧
    (sysRows.all fun e => sysMeets mem0 true none [splat .n32 0, splat .addr 0x1000, splat .n64 (2 ^ 16)] e.1 e.2 fun _ x _ => x.launch.sys) = true := by
  decide +kernel

/-- The cases of each system instruction at the ends of its ranges: unit and context numbers, the checkpoint's descriptor, the migration
record, the targets, the watchdog limit, the context descriptor and tile word, and the queue operand. -/
theorem witness_SystemInstructions :
    (let on (n : Nat) (P : State → Site → OpIn → Bool) := sysMeets mem0 true none [splat .n32 n] opSysRetire (fld 3 0 1 0 0 0) P
     (on (2 ^ 12) fun _ _ i => !(decide (i.uni i.a < 2 ^ 12) && unitKind (i.uni i.a) != 3)) = true ∧
     (on (96 * 32) fun s x i => let u := i.uni i.a
        decide (u < 2 ^ 12) && unitKind u == 0 && decide (tilesOf (unitDie u) ≤ unitIdx u) && !s.quiesced && !x.wave.sysReq.isSome) = true ∧
     (on (95 * 32) fun s x i => let u := i.uni i.a
        !(s.unitDead u) && !s.quiesced && decide (unitIdx u < tilesOf (unitDie u)) && !(unitTiles u).contains x.tile) = true ∧
     (on 0 fun s x i => !(s.unitDead (i.uni i.a)) && (unitTiles (i.uni i.a)).contains x.tile) = true) ∧
    (sysMeets { mem0 with retired := [] } true (some (.retire 128)) [splat .n32 0] opSysRetire (fld 3 0 1 0 0 0) (fun s _ _ =>
      !s.occupied (unitTiles 128) fun _ => true) = true) ∧
    (sysMeets mem0 true none [splat .addr 0x1000] opSysCkpt (fld 3 0 1 0 0 0) (fun s x i =>
      decide (x.launch.nblock ≤ 1) && okRes (s.readAcc x [.glob] 16 [(i.uni i.a, 64)])) = true ∧
     sysMeets mem0 true (some (.ckpt 0 0 0 0)) [splat .addr 0x1000] opSysCkpt (fld 3 0 1 0 0 0) (fun s x _ => s.ckptReady x.w.block) = true ∧
     sysMeets (withTile mem0 fun t => { t with copyQ := [copy0] }) true (some (.ckpt 0 0 0 0)) [splat .addr 0x1000] opSysCkpt (fld 3 0 1 0 0 0)
       (fun s x _ => !s.ckptReady x.w.block) = true ∧
     sysMeets mem0 true (some (.flacon 3 0 false)) [splat .addr 0x1000] opSysCkpt (fld 3 0 1 0 0 0) (fun s _ _ => !s.flaconWaits 3) = true ∧
     sysMeets { mem0 with fabOut := [sentWord] } true (some (.flacon 3 0 true)) [splat .addr 0x1000] opSysCkpt (fld 3 0 1 0 0 0)
       (fun s _ _ => s.flaconWaits 3) = true) ∧
    (sysMeets mem0 true none [splat .addr 0x1000, splat .n32 0] opSysRsync (fld 3 0 1 2 0 0) (fun s x i =>
      (s.readAcc x [.glob] 16 [(i.uni i.a, 16)]).toOption.any fun e => decide (i.uni i.b < e.1.summaryBytes.length)) = true ∧
     sysMeets mem0 true none [splat .addr 0x1000, splat .n32 0x10000000] opSysRsync (fld 3 0 1 2 0 0) (fun s x i =>
      (s.readAcc x [.glob] 16 [(i.uni i.a, 16)]).toOption.isSome) = true) ∧
    (sysMeets mem0 true none [splat .addr 0x1000] opSysMigr (fld 3 0 1 0 0 0) (fun s x i =>
      okRes (s.readAcc x [.glob] 16 [(i.uni i.a, 32)])) = true) ∧
    (let on (n : Nat) (P : State → Site → OpIn → Bool) := sysMeets mem0 true none [splat .n32 n] opSysL3cls (fld 3 0 1 0 0 0) P
     (on (2 ^ 28) fun _ _ i => decide (2 ^ 28 ≤ i.uni i.a)) = true ∧ (on 65 fun _ _ i => i.uni i.a % 128 == 65) = true ∧
     (on (64 + 128) fun _ _ i => i.uni i.a == 192) = true) ∧
    (sysMeets mem0 true none [splat .n32 3, splat .n64 (2 ^ 32)] opSysWdog (fld 3 0 1 2 0 0) (fun _ _ i => i.uni i.b == 2 ^ 32) = true) ∧
    (sysMeets (descMem 0x4358) true none [splat .n32 1, splat .addr 0x1000] opSysCtx (fld 3 0 1 2 0 0) (fun s x i =>
      (s.readAcc x [.glob] 16 [(i.uni i.b, 128)]).toOption.any fun e => (e.1.ctx? 1).isNone && e.1.descOk (ofLe e.2.flatten)) = true ∧
     sysMeets (descMem 0) true none [splat .n32 1, splat .addr 0x1000] opSysCtx (fld 3 0 1 2 0 0) (fun s x i =>
      (s.readAcc x [.glob] 16 [(i.uni i.b, 128)]).toOption.any fun e => (e.1.ctx? 1).isNone && !e.1.descOk (ofLe e.2.flatten)) = true) ∧
    (sysMeets mem0 true none [splat .n32 0] opSysCtx (fld 3 1 1 0 0 0) (fun s _ i => (s.ctx? (i.uni i.a)).isSome && !s.quiescent 0 s.nextLid) = true ∧
     sysMeets mem0 true none [splat .n32 1] opSysCtx (fld 3 1 1 0 0 0) (fun s _ i => (s.ctx? (i.uni i.a)).isNone) = true ∧
     sysMeets { mem0 with ctxs := [(1, ctx0)] } true none [splat .n32 1] opSysCtx (fld 3 1 1 0 0 0) (fun s _ i =>
       (s.ctx? (i.uni i.a)).isSome && s.quiescent 1 s.nextLid) = true) ∧
    (sysMeets mem0 true none [splat .n32 128] opSysCtx (fld 3 2 1 1 0 0) (fun _ _ i => i.uni i.a / 128 % 2 == 1) = true ∧
     sysMeets mem0 true none [splat .n32 96, splat .n32 0] opSysCtx (fld 3 2 1 2 0 0) (fun _ _ i => decide (tilesOf 0 ≤ i.uni i.a % 128)) = true ∧
     sysMeets mem0 true none [splat .n32 95, splat .n32 0] opSysCtx (fld 3 2 1 2 0 0) (fun s _ i => wordOk (i.uni i.b) &&
       (wordOwners (i.uni i.b)).all fun o => (s.ctx? o).isSome) = true ∧
     sysMeets mem0 true none [splat .n32 95, splat .n32 (1 * 2 ^ 11)] opSysCtx (fld 3 2 1 2 0 0) (fun s _ i => wordOk (i.uni i.b) &&
       !(wordOwners (i.uni i.b)).all fun o => (s.ctx? o).isSome) = true ∧
     sysMeets mem0 true none [splat .n32 95, splat .n32 1] opSysCtx (fld 3 2 1 2 0 0) (fun _ _ i => !wordOk (i.uni i.b)) = true) ∧
    (sysMeets mem0 true none [splat .n32 0, splat .n32 1] opSysCtx (fld 3 3 1 2 0 0) (fun s _ i => (s.ctx? (i.uni i.a)).any fun k => !k.dbg) = true) ∧
    (let on (n : Nat) (P : State → Site → OpIn → Bool) := sysMeets mem0 true none [splat .n32 n] opSysQ (fld 3 0 1 0 0 0) P
     (on 32 fun _ _ i => decide (32 ≤ i.uni i.a)) = true ∧ (on 15 fun _ _ i => decide (i.uni i.a < 16)) = true ∧
     (on 31 fun s _ i => !s.qenBit (i.uni i.a - 16)) = true) := by decide +kernel

/-- A read of the power word below Pidle, and the debug bit set on a context. -/
theorem test_system :
    (defined (exec (.sysCap (fld 3 0 1 0 0 0)) (mk mem0 launchV blk0 (waveOf [splat .n32 100])))).take 1 =
      [(.n32, 261 * 2 ^ 20 + 1 * 2 ^ 16 + 261)] ∧
    (match exec (.sysCtxDbg (fld 3 3 1 2 0 0)) (mk mem0 launchV blk0 (waveOf [splat .n32 0, splat .n32 1])) with
     | .next t => (t.ctx? 0).map Context.dbg | _ => none) = some true := by decide +kernel

/-! Events -/

/-- The entry of wave 0 in a partition. -/
def entry0 : Entry := { slot := 0, wave := w0, from_ := 0, rt := none, ages := [0, 0, 0, 0] }
def part0 (act pend : List Entry) : Part := { active := act, pending := pend, dbg := none }

/-- A native wave in the even partition of tile 0, its code's first line in the cluster's cache, and a bundle of two `nop` at address 0. -/
def issueState : State :=
  let s := withTile { nativeState placedNative with store := [{ code1 [[]] with codeLen := 64, base := 0x1700000000 }],
                                                      clusters := [(0, { Cluster.reset with lines := [(0, 0)] })] }
    fun t => { t with even := part0 [entry0] [] }
  s.writeKey 0x1700000000 (leBytes 16 0x000000E0000000000000E0000000000000)

def loop0 : Loop := { placedNative.loop with cf := true, pm := 6, lc := 3, wsz := 8, ec := 2, tops := [0, 16, 32, 48] }

def loopState (l : Loop) : State := nativeState { placedNative with loop := l }

/-- An op of bundle 0 of the compute stream. -/
def dest0 : NDest :=
  { stream := 2, slotB := false, half := false, addr := 0, bun := 0, sp := false, cuts := 0, pop := 0, stg := 0, opc := 0, dst := 0, names := [],
    ty := .n32, mask := 0 }

/-- Places of a wave whose compute stream has waited for a pop since control cycle 0, with a global read outstanding. -/
def popState (now : Nat) : State :=
  let n : Native := { placedNative with seqs := placedNative.seqs.map fun q => { q with popWait := some 0 } }
  let s0 : State := { mk mem0 launchV blk0 ({ nativeWave n with gcnt := 1 } : Wave) with
      store := [{ code1 [[]] with codeLen := 64, base := 0x1700000000 }], tick := now,
      clusters := [(0, { Cluster.reset with lines := [(0, 0)] })] }
  let s := withTile s0 fun t => { t with even := part0 [entry0] [] }
  s.writeKey 0x1700000000 (leBytes 16 (2 ^ 120 + 0x000000E0000000000000E0000000000000))

theorem witness_WaveEvents :
    (pickEntry 0 [{ entry0 with slot := 2, ages := [5, 0, 0, 0] }, { entry0 with slot := 1, ages := [5, 0, 0, 0] }, entry0]).map Entry.slot = some 1 ∧
    ((issueState.tile t0).part false).active = [entry0] ∧ (issueState.code? (frameOf [])).isSome = true ∧
    (match issueState.ready (siteOf launchV { blk0 with spill := 4096 } (nativeWave placedNative)) 0 with | .yes _ a => some a | _ => none) = some 0 ∧
    (mem0.tile t0).part false = part0 [] [] ∧
    (let s0 := issueState.setWave w0 (nativeWave placedNative)
     ((s0.site? w0).map fun y => match s0.ready y 0 with | .yes _ a => some a | _ => none) = some (some 0)) ∧
    (let n : Native := { placedNative with seqs := placedNative.seqs.map fun q => { q with pushes := [(0, 0b010)] } }
     let m : Native := { n with cur := some dest0 }
     n.inProgress = [] ∧ m.inProgress.any (fun d => d.stream == 2 && d.bun == 0) = true ∧ (n.seqs[2]?).map Seq.pushes = some [(0, 0b010)]) ∧
    (∀ e ∈ [(47, false), (48, true)], ((popState e.1).site? w0).map (fun y => ((popState e.1).ready y 2, (popState e.1).blockedLong y)) =
      some (.popWait, e.2)) ∧
    ((popState 47).ctlNow t0 < 0 + 24 ∧ 0 + 24 ≤ (popState 48).ctlNow t0) ∧
    (loop0.cf = true ∧ loop0.pm ≠ 0 ∧ (6#4 &&& loop0.pm) = loop0.pm ∧ loop0.halted = false ∧ loop0.dr = false ∧ loop0.sm = false) ∧
    (let p := part0 [entry0] [{ entry0 with slot := 3, wave := { w0 with wav := 2 }, rt := some 0 }]
     let s := withTile (mkB mem0 launchV { blk0 with waves := [{ waveOf [] with mode := .barB }, waveOf [], waveOf []] }) fun t => { t with even := p }
     p.dbg = none ∧ (s.site? w0).map s.blockedLong = some true ∧ (s.site? { w0 with wav := 1 }).map s.blockedLong = some false ∧
     (s.oldestReady (s.tile t0) (s.ctlNow t0) p.pending).map Entry.slot = some 3 ∧ entry0.slot < 16) ∧
    (let x := { waveOf [] with wdog := 5, wlim := 5 }
     x.wlim ≤ x.wdog ∧ x.stop ≠ .landed ∧ x.owed = none ∧ x.atProgress = false ∧ x.unfinished = false ∧ x.native = none ∧
       (nativeWave placedNative).native ≠ none) := by decide +kernel

/-- The loop engine: OPEN takes one from LC and raises stage 0; BACK rotates the registers and opens the next stage. -/
theorem test_loop :
    (match exec (.openStep w0) (loopState { loop0 with opened := 6 }) with
     | .next t => ((t.wave? w0).bind Wave.native).map fun n => (n.loop.lc, n.loop.sb, n.loop.opened) | _ => none) = some (2#32, 1#7, 0#4) ∧
    (match exec (.backStep w0) (loopState { loop0 with backed := 6, sb := 1 }) with
     | .next t => ((t.wave? w0).bind Wave.native).map fun n => (n.loop.lc, n.loop.sb, n.loop.rrb) | _ => none) = some (2#32, 3#7, 7#8) ∧
    (match exec (.bundleIssue t0 false .scalar) issueState with
     | .next t => ((t.wave? w0).bind Wave.native).map fun n => (n.seqs.map Seq.pc).take 2 | _ => none) = some [16, 0] := by decide +kernel

/-- A resident block whose wave has landed, and one with a fault record in the ring at index 0. -/
def landedWave : Wave := { waveOf [] with stop := .landed }

def stopState (p : BlockPhase) (fate : Option StopFate) (y : Wave) : State :=
  mkB mem0 launch0 { blk0 with waves := [y], phase := p, fate := fate, unresolved := [0] }

/-- A fault record whose resolution is this, at index 0 of the ring. -/
def ringMem (res : Nat) : State := mem0.writeKey (0x200000 + 64) (leBytes 64 (res * 2 ^ 288))

/-- A record of wave 0 that a ring takes, and every block of context 0 resident or ended. -/
def rec0 : FaultRec :=
  { blockId := 0, lseq := 1, wave := 0, die := 0, tile := 0, point := { func := 0, block := 0, vidx := 0 }, mask := 1, va := 0, kind := 1,
    trapk := 0, cls := 1, swap := false, wr := false, peer := 0, fsts := 0, eng := false, lanes := Lanes.all 0 }
def quietB (s : State) : Bool :=
  (s.blocksOf 0).all fun b => (s.block? b).any fun y => (y.phase == .resident || y.phase == .ended) && !y.killed

/-- The landing of a wave, in general and of one that stands between instructions; the release of its slot; and parking, for a block that has a
record to wait for and for one that has none. -/
theorem witness_StopEvents_land :
    (let x := { waveOf [] with stop := .requested }
     let s := stopState .resident none x
     (s.site? w0).any (fun y => y.wave.stop == .requested && y.block.phase == .resident && !y.wave.unfinished && y.wave.live && !y.pastBarB &&
       y.wave.native.isNone && !y.block.killed && y.wave.mode == .run && y.wave.sysReq.isNone && y.wave.owed.isNone && y.wave.stepLeft.isNone) = true ∧
       (s.tile t0).even.dbg = none ∧ (s.tile t0).odd.dbg = none ∧ (waveOf []).stop ≠ .requested ∧ (waveOf []).stepLeft = none) ∧
    (({ waveOf [] with mode := .ended } : Wave).mode = .ended ∧ ({ waveOf [] with mode := .ended } : Wave).vcnt = 0 ∧ (waveOf []).mode ≠ .ended) ∧
    (let s := stopState .resident (some .park) landedWave
     (s.block? b0).map (fun b => (b.phase, b.fate, s.stoppedWhole b, b.unresolved)) = some (.resident, some .park, true, [0])) ∧
    (let s := mkB mem0 launch0 { blk0 with waves := [landedWave], fate := some .park }
     (s.block? b0).any (fun b => b.phase == .resident && b.fate == some .park && s.stoppedWhole b && b.unresolved.isEmpty && !b.killed && !b.awaitsCode &&
       b.waves.all fun y => y.owed.isNone) = true) := by
  refine ⟨?_, ?_, ?_, ?_⟩ <;> decide +kernel

/-- A swap-out whose image finds its place. -/
theorem witness_StopEvents_swap :
    (let s := stopState .resident (some .swapOut) landedWave
     (s.block? b0).any (fun b => s.stoppedWhole b && (b.waves.all fun y => y.vcnt == 0) && b.fate == some .swapOut && b.unresolved == [0]) = true ∧
     (s.launch? 0).any (fun l => !(l.homes 0 0).all s.dieDead) = true) ∧
    (let s := stopState .resident (some .swapOut) landedWave
     (s.block? b0).map (fun b => match (s.placeImage 0 0 (s.blockImage launch0 b 0).1 (s.imageBad launch0 b (s.blockImage launch0 b 0).2)).2 with | .ok (some _) => true | _ => false) = some true) := by
  refine ⟨?_, ?_⟩ <;> decide +kernel

/-- A record that is resolved, with 1 and with 2, and one that is not. -/
theorem witness_StopEvents_resolve :
    (∀ res ∈ [1, 2],
      let s : State := { stopState .parked none landedWave with mem := (ringMem res).mem }
      let u := (s.resolution 0 0).1
      (s.resolution 0 0).2.map Prod.fst = some res ∧ u.blocksOf 0 = [b0] ∧
        (u.block? b0).any (fun y => y.phase == .parked && y.unresolved == [0] && y.waves.any Wave.live &&
          y.waves.all (fun z => z.owed.isNone && z.stop == .landed) && !y.killed && !y.awaitsCode && y.fate.isNone && y.tileRef == t0) = true ∧
        u.tiles = [] ∧ u.launches.all (fun e => e.2.cgrps.isEmpty && e.2.admitFault.isEmpty) = true) ∧
    ((ringMem 0).resolution 0 0).2.map Prod.fst = some 0 := by
  refine ⟨?_, ?_⟩ <;> decide +kernel

/-- A ring with room and one without, for a context that holds records and for one that holds none; and a launch whose status word is owed. -/
theorem witness_StopEvents_ring :
    (let s := stopState .resident none landedWave
     (s.ctx? 0).any (fun c => c.held.isEmpty && c.unfreed.isEmpty) = true ∧ quietB s = true ∧
       (s.block? b0).any (fun y => y.fate != some .swapOut) = true ∧ s.launches.all (fun e => e.2.owedState.isNone) = true) ∧
    (let s : State := { stopState .resident none landedWave with ctxs := [(0, { ctx0 with held := [(rec0, .wave w0)] })] }
     (match s.tryRecord 0 rec0 with
      | (u, .wrote _) => quietB u && (u.block? b0).any (fun y => y.phase == .resident && !y.killed && y.waves[0]?.isSome)
      | _ => false) = true) ∧
    (let s : State := { (stopState .resident none landedWave).writeKey 0x200004 [1] with ctxs := [(0, { ctx0 with held := [(rec0, .nobody)] })] }
     (match s.tryRecord 0 rec0 with | (u, .full) => quietB u | _ => false) = true) ∧
    (({ launch0 with owedState := some 3, blocks := [] } : Launch).owedState = some 3 ∧ launch0.ctx = 0) := by
  refine ⟨?_, ?_, ?_, ?_⟩ <;> decide +kernel

/-- A resolved record of a parked block: resumed, its waves may issue again; killed, it has ended. -/
theorem test_resolution :
    let run (res : Nat) := match exec (.faultRecordResolve 0 0) { stopState .parked none landedWave with mem := (ringMem res).mem } with
      | .next t => (t.block? b0).map fun b => (b.phase, b.waves.map Wave.stop) | _ => none
    run 1 = some (.resident, [.none]) ∧ (run 2).map Prod.fst = some .ended := by decide +kernel

/-- Launch 0 of `launchV` with its only block not started. -/
def pendLaunch : Launch := { launchV with subs := [{ entry := 0, die := 0, ranges := [(0, 0)] }], blocks := [] }
def pendState : State := { mem0 with ctxs := [(0, { ctx0 with vphi := 4096 })], launches := [(0, pendLaunch)], nextLid := 1, store := [code1 [[]]] }

/-- A code object at address 0x500000: one function of one block that holds `exit`. -/
def objBytes : List Byte :=
  leBytes 64 (2 ^ 416 + 64 * 2 ^ 384 + 0x4D50 * 2 ^ 16 + 1) ++ leBytes 16 (0x80 * 2 ^ 96 + 8 * 2 ^ 64 + 2 ^ 48) ++ List.replicate 48 0#8 ++
    [0xC0, 0x33, 0, 0, 0, 0, 0, 0, 0x00, 0x31, 0, 0, 0, 0, 0, 0]
def objState : State := mem0.writeKey 0x500000 objBytes

def req0 : TRequest :=
  { key := { ident := 0, func := 0, narrow := false, budget := 0 }, ctx := 0, cls := 1, code := 0x500000, waiter := .block b0, pressure := false, limit := 16,
    arrived := 0, debug := false, piv := 0 }

theorem witness_AdmissionEvents :
    ({ State.reset with started := false } : State).started = false ∧
    (let s := pendState.chooseSeats
     pendState.started = true ∧ (s.pending 0).map (fun p => (p.b, p.again)) = [(b0, false)] ∧
      (s.launch? 0).map (fun l => (l.admitBad, l.blocks)) = some ([], []) ∧
      ((s.storedFor 0 pendLaunch pendLaunch.entry (s.debugOn 0)).bind fun t =>
        s.bestTile 0 pendLaunch 1 t.key.budget t.spill) = some t0) ∧
    (({ Cluster.reset with serving := some req0 } : Cluster).serving = some req0 ∧ Cluster.reset.serving = none) ∧
    (nextRequest (State.reset.cluster c0).reqs = none ∧ nextRequest ({ Cluster.reset with reqs := [req0] } : Cluster).reqs = some req0) ∧
    (pendState.store.find? fun t => t.die == 0 && t.serves req0).isSome = true ∧
    (objState.store.find? fun t => t.die == 0 && t.serves req0) = none ∧
    (match objState.readCode 0 0 0x500000 0 with
     | (_, .ok nf _ _ bl cs) => nf == 1 && (bl.map fun b => b.2.length) == [1] && cs == []
     | _ => false) = true ∧
    (match mem0.readCode 0 0 (2 ^ 40) 0 with | (_, .fault va) => va == 2 ^ 40 | _ => false) = true ∧
    (pendState.store.find? fun t => t.tid == 0 && t.die == 0).isSome = true ∧ (pendState.cluster c0).lines = [] ∧
    (({ waveOf [] with gcnt := 2 } : Wave).gcnt = 2 ∧ (waveOf []).mode = .run ∧ (waveOf []).sysReq = none ∧ (waveOf []).native = none) := by
  refine ⟨?_, ?_, ?_, ?_, ?_, ?_, ?_, ?_, ?_, ?_⟩ <;> decide +kernel

/-- A translation whose code and side table have any length that the model gives fits an empty store. -/
theorem witness_makeRoom (k j : Nat) :
    objState.makeRoom c0 (16 * (k % 2 ^ 24) + 16 * (j % 2 ^ 24)) objState.store.length = some objState := by
  have h : objState.storeUsed c0.die = 0 := by decide +kernel
  have hl : objState.store.length = 0 := by decide +kernel
  have : 16 * (k % 2 ^ 24) + 16 * (j % 2 ^ 24) ≤ 2 ^ 32 := by omega
  simp only [hl, State.makeRoom, h, Nat.zero_add, if_pos this]

/-- A launch whose only block has ended, or has only triggered. -/
def endLaunch (ended trig : Bool) : Launch :=
  { launch0 with blocks := [(0, { blk0 with phase := if ended then .ended else .resident, triggered := trig,
                                            waves := if ended then [{ placedWave with mode := .released }] else [placedWave] })] }
def endState (ended trig : Bool) : State := { mem0 with launches := [(0, endLaunch ended trig)], nextLid := 1 }

def queue0 : Queue := { Queue.reset with enabled := true, headRead := true, ring := 0x8000, tail := 0x9000, head := 0x9004, nrec := 16 }
def queueState (tail : Nat) : State := { mem0 with queues := [(0, queue0)] }.writeKey 0x9000 (leBytes 4 tail)

def dlqReq : LaunchReq := { num := 7, record := List.replicate 256 0#8, params := [], sys := true, wave := w0 }
def dlqState : State :=
  { mkB mem0 launch0 { blk0 with waves := [{ waveOf [] with mode := .launch 7 }] } with ctxs := [(0, { ctx0 with dlq := [dlqReq] })] }

theorem witness_LaunchEvents :
    (let x := siteOf launch0 blk0 { waveOf [] with mode := .lwait 0x7000 true 5 0 }
     (match (mk mem0 launch0 blk0 x.wave).readAcc x [.glob] 16 [(0x7000, 16)] with
      | .ok (_, bs) => bs.flatten == List.replicate 16 0#8 | _ => false) = true) ∧
    (match (mem0.writeKey 0x7000 [3, 0]).readAcc (siteOf launch0 blk0 (waveOf [])) [.glob] 16 [(0x7000, 16)] with
      | .ok (_, bs) => ofLe (bs.flatten.take 1) == 3 | _ => false) = true ∧
    (let d : Dep := { fin := true, va := 0x7000, done := false, raised := false }
     let s := { mem0.writeKey 0x7000 [3, 0] with launches := [(0, { launch0 with deps := [d] })] }
     (match s.readVa 0 0 0x7000 16 with
      | (s1, .ok bs) => decide (3 ≤ ofLe (bs.take 1)) && (s1.launch? 0).any (fun l => l.deps == [d] && decide (l.state < 3)) | _ => false) = true) ∧
    ((endLaunch false true).state = 1 ∧ (endLaunch false true).code8 = 0 ∧
      (endLaunch false true).allBlocks ((endState false true).blockTriggered 0 (endLaunch false true)) = true ∧
      (endLaunch false true).allBlocks ((endState false true).blockOver 0 (endLaunch false true)) = false) ∧
    ((endLaunch true false).allBlocks ((endState true false).blockOver 0 (endLaunch true false)) = true ∧ (endLaunch true false).owedState ≠ some 4) ∧
    (match (endState true false).putVa { cls := 0, wave := none } 0 0 0 (statusBytes 0 0 3) with
     | (s1, .ok _) => (s1.launch? 0).isSome | _ => false) = true ∧
    ((State.reset.queue 0).enabled = false ∧ State.reset.servable 0 = false ∧ State.reset.quiesced = false ∧ State.reset.ctxs = []) ∧
    ((dlqState.ctx? 0).map (fun k => k.dlq) = some [dlqReq] ∧ dlqState.queues = [] ∧
      (let a := ({ dlqState with ctxs := [(0, ctx0)] } : State).accept dlqReq.record 0 true (some dlqReq.params)
       (a.1.site? w0).map (fun x => x.wave.mode) = some (.launch 7) ∧ (a.1.ctx? 1 = none ∧ a.1.ctx? 2 = none ∧ a.1.ctx? 3 = none) ∧
         a.1.queues = [])) ∧
    ((queueState 1).servable 0 = true ∧ ((queueState 1).queue 0).headOwed = false ∧ ((queueState 1).queue 0).headRead = true ∧
      (match (queueState 17).readVa 0 0 0x9000 4 with | (_, .ok bs) => decide (16 < ofLe bs) | _ => false) = true ∧
      (match (queueState 1).readVa 0 0 0x9000 4 with
       | (s1, .ok bs) => ofLe bs == 1 && (match s1.readVa 0 0 0x8000 256 with | (_, .ok r) => r.length == 256 | _ => false)
       | _ => false) = true) := by
  refine ⟨?_, ?_, ?_, ?_, ?_, ?_, ?_, ?_, ?_⟩ <;> decide +kernel

/-- Tile 0 of die 0 split between contexts 0 and 1, context 0 active. -/
def dualTile : Tile := { Tile.reset with word := 0xA000 }
def dualState (y : Tile) : State := { mem0 with ctxs := [(0, ctx0), (1, ctx0)], tiles := [(0, y)] }

/-- Context 0's time slice is over, and context 1 has a ready wave. -/
def dueState : State :=
  let p := part0 [] [{ entry0 with wave := { lid := 1, blk := 0, wav := 0 }, rt := some 0 }]
  { dualState { dualTile with even := p } with
    tick := 100000, launches := [(1, { launch0 with ctx := 1, blocks := [(0, blk0)] })], nextLid := 2 }

def sw0 (landed : Option Nat) : Switch := ⟨1, 0, landed⟩

theorem witness_ContextAndPowerEvents :
    (dualTile.dual = true ∧ dualTile.act = 0 ∧ dualTile.other = 1 ∧ (dueState.tile t0).switch = none ∧ (dueState.tile t0).reassign = none ∧
      (dueState.tile t0).debugged = false ∧ dualTile.debugged = false ∧ (dueState.ctx? 1).isSome = true ∧ dueState.switchDue t0 = true ∧ State.reset.switchDue t0 = false) ∧
    ((sw0 none).landed = none ∧ (sw0 none).other < 4 ∧ (dualState { dualTile with switch := some (sw0 none) }).sitesOn t0 0 = []) ∧
    ((sw0 (some 5)).landed = some 5 ∧ dualTile.clock.change = none ∧ dualTile.reassign = none ∧
      ¬(0 < max 5 dualTile.clock.t0 + 4 * dualTile.clock.cdiv ↔ max 5 dualTile.clock.t0 + 4 * dualTile.clock.cdiv ≤ 5)) ∧
    (let y := { dualTile with reassign := some 0 }
     let s := dualState y
     y.switch = none ∧ ((s.beginReassign t0).occupied [t0] fun c => y.hasShare c && !(wordOwners 0).contains c) = false) ∧
    (mem0.quiescent 0 0 = true ∧
      (match mem0.movePages (siteOf launch0 blk0 (waveOf [])) 0 0 0x7000 (List.range 1) with | (_, old) => decide (old.length ≤ 1)) = true) ∧
    (({ State.reset with tick := 56000 } : State).tick = 56000 * (State.reset.interval + 1) ∧
      State.reset.liveClusters.contains c0 = true ∧
      ({ State.reset with clusters := [(0, { Cluster.reset with retired := true })] } : State).clusterDead c0 = true ∧
      ([{ cl := c0, t := 401, i := 0, pw := 900 }] : List ClusterInputs).find? (fun e => e.cl == c0) =
        some { cl := c0, t := 401, i := 0, pw := 900 }) ∧
    (band 400 < 5 ∧ 5 ≤ band 300 ∧ railLimit 0 < 30000 ∧ 1000 * State.reset.capNow < 3000000 ∧ 100000 ≤ 950 * State.reset.capNow) ∧
    (({ Die.reset with pdStop := some (64, 4) } : Die).pdStop = some (64, 4)) := by
  refine ⟨?_, ?_, ?_, ?_, ?_, ?_, ?_, ?_⟩ <;> decide +kernel

/-- Reset with every cluster but the first retired. -/
def oneCluster : State :=
  { State.reset with
    dies := (List.range 7).map fun d => (d + 1, { Die.reset with retired := true })
    clusters := (List.range 31).map fun c => (c + 1, { Cluster.reset with retired := true }) }

/-- A thermal trip takes the ceiling to 0; the ceiling of R397 follows the band up and down. -/
theorem test_power :
    (match exec (.thermalTrip c0 440) State.reset with | .next t => some (t.cluster c0).ct | _ => none) = some 0 ∧
    (match exec (.controlInterval { p := 1000000, clusters := [{ cl := c0, t := 401, i := 0, pw := 900 }] })
       { oneCluster with tick := 56000 } with
     | .next t => some ((t.cluster c0).ct, t.lastP, t.interval) | _ => none) = some (2, 1000000, 1) := by decide +kernel

/-- Peer 0 has fabric identity 5 and every link. -/
def peerS (l : Link) : State := { mem0 with bar0 := { Bar0.reset with ptab := 0x10000 }, links := [(0, l)] }.writeKey 0x10000
  (leBytes 16 (0xFFFFFFFF * 2 ^ 96 + 5 * 2 ^ 90 + 2 ^ 87))

def msgTo (mop dst : Nat) : Message :=
  { mop := BitVec.ofNat 4 mop, vc := 0, src := 5, dst := BitVec.ofNat 6 dst, tag := 9, len := 4, rc := 0, ctx := 0, aop := 0, sts := 0, rsv := 0,
    va := 0x1000, payload := [1, 2, 3, 4] }

def out0 (mop : Nat) (cmd : Option Nat) : FabOut :=
  { id := 3, tag := 9, mop := mop, by_ := issuer0, tile := t0, lane := 0, peer := 0, entry := { links := 0xFFFFFFFF, fid := 5, ctx := 0 }, va := 0x1000, size := 4, ty := .n32,
    cmd := cmd }
def askState (mop : Nat) (cmd : Option Nat) : State := { peerS Link.reset with fabOut := [out0 mop cmd] }

/-- A flit of 240 bytes with its own CRC is intact. -/
theorem intact_of (f : Flit) (h : f.crc = crc32c (flitCovered f)) (hb : f.beats.length = 240) (ht : f.ftype.toNat ≤ 2) :
    flitIntact f = true := by
  simp [flitIntact, h, hb, ht]

/-- The flit before its CRC. -/
def bare0 : Flit := { ftype := 1, fseq := 1, ack := 0, cvc := 0, cred := 3, rsv := 0, crc := 0, beats := List.replicate 240 0#8 }

theorem flit0_intact : flitIntact { bare0 with crc := crc32c (flitCovered bare0) } = true :=
  intact_of _ (by unfold flitCovered; rfl) (by decide +kernel) (by decide +kernel)

theorem witness_LinkEvents :
    ((List.range 4).all (fun g => Link.reset.grp g == .on) = true ∧ Link.reset.groups.length = 4 ∧ Link.reset.parking = 0 ∧ Link.reset.up = true) ∧
    (let x := { Link.reset with parking := 0b0010 }
     x.grp 0 = .on ∧ x.parking.getLsbD 0 = false ∧ x.parking.getLsbD 1 = true ∧ x.grp 1 = .on) ∧
    (let x := { Link.reset with groups := [.on, .on, .on, .ready] }
     x.grp 3 = .ready ∧ Die.reset.pd = 2 ∧ Die.reset.pdStop = none) ∧
    (({ Link.reset with retrain := some 28 } : Link).retrain = some 28 ∧ ({ Link.reset with groups := [.on, .waking 5, .off, .off] } : Link).grp 1 = .waking 5) ∧
    (let x := { Link.reset with groups := [.locking 5, .locking 5, .off, .off], peerReady := 0b0010 }
     x.grp 0 = .locking 5 ∧ x.grp 1 = .locking 5 ∧ x.peerReady.getLsbD 1 = true ∧ x.peerReady.getLsbD 2 = false) ∧
    (let x := { Link.reset with thr := 1, txq := [{ num := 0, links := 1, msg := msgTo 2 0 }], groups := [.on, .off, .off, .off] }
     x.thr ≤ x.depth ∧ (peerS x).hasPeer 0 = true ∧ (State.reset.hasPeer 0 = false)) ∧
    ((peerS Link.reset).linkUp 0 = true ∧ flitIntact { bare0 with beats := [] } = false ∧
      bare0.fseq.toNat = (Link.reset.rseq + 1) % 65536 ∧ State.reset.linkUp 0 = false) ∧
    (3 % 8 / 2 ≠ 0 ∧ 2 ≤ 2 % 4 ∧ 1 % 8 / 2 = 0 ∧ (peerS Link.reset).hasPeer 0 = true ∧ ((peerS Link.reset).link 0).grp 0 = .on ∧
      (2 % 8 / 2 = 1 ∧ 1 % 4 < 2 ∧ ((peerS Link.reset).link 0).grp 1 = .on ∧ ((peerS Link.reset).link 0).groups.length = 4)) := by
  refine ⟨?_, ?_, ?_, ?_, ?_, ?_, ?_, ?_⟩ <;> decide +kernel

theorem witness_MessageEvents :
    ((peerS Link.reset).mine (msgTo 1 1) = false ∧ (peerS Link.reset).mine (msgTo 1 0) = true) ∧
    ((match (peerS Link.reset).peerSpans (msgTo 1 0) 4 true false false with | (_, .ok ks) => ks == [(0x1000, 4)] | _ => false) = true ∧
      (match (peerS Link.reset).peerSpans (msgTo 7 0) 4 false true true with | (_, .ok ks) => ks == [(0x1000, 4)] | _ => false) = true ∧
      (match (peerS Link.reset).peerSpans (msgTo 3 0) 4 true true false with | (_, .ok ks) => ks == [(0x1000, 4)] | _ => false) = true ∧
      (match (peerS Link.reset).peerSpans { msgTo 2 0 with va := 0x10000000000#56 } 4 false true false with | (_, .error e) => e == 1 | _ => false) = true ∧
      ((peerS Link.reset).ctx? 1).isNone = true) ∧
    ((askState 1 none).asked (msgTo 4 0) [1] = some (out0 1 none) ∧ (askState 3 none).asked (msgTo 6 0) [3] = some (out0 3 none) ∧
      (askState 2 none).asked (msgTo 5 0) [2, 7, 8] = some (out0 2 none) ∧ (askState 7 (some 3)).asked (msgTo 5 0) [2, 7, 8] = some (out0 7 (some 3)) ∧
      (peerS Link.reset).asked (msgTo 4 0) [1] = none) := by
  refine ⟨?_, ?_, ?_⟩ <;> decide +kernel

/-- CRC-32C of the nine digits is 0xE3069283, the check value of that CRC. -/
theorem test_crc : crc32c [0x31, 0x32, 0x33, 0x34, 0x35, 0x36, 0x37, 0x38, 0x39] = 0xE3069283#32 := by decide +kernel

/-- A peer's write reaches memory; a message for another device is counted. -/
theorem test_message :
    (match exec (.fabWrite (msgTo 2 0)) (peerS Link.reset) with | .next t => t.readKey 0x1000 4 | _ => []) = [1, 2, 3, 4] ∧
    (match exec (.fabWrite (msgTo 2 1)) (peerS Link.reset) with | .next t => some (t.discarded, t.readKey 0x1000 4) | _ => none) =
      some (1, [0, 0, 0, 0]) := by decide +kernel

def startIn : StartInputs := { failingRows := [], sweep := [], pbase := 200000 }

/-- Memory with a queue descriptor for queue 3 in a table at 0x40000: its context and its head word. -/
def descState (ctx head : Nat) : State :=
  ({ mem0 with bar0 := { Bar0.reset with qtab := 0x40000 } }).writeKey (0x40000 + 64 * 3)
    (leBytes 64 (0x2000 * 2 ^ 448 + 0x1000 * 2 ^ 384 + head * 2 ^ 320 + 16 * 2 ^ 307 + ctx * 2 ^ 305 + 0x5351))

/-- A retired tile whose copy engine still holds a command. -/
def deadBusy : State :=
  { State.reset with tiles := [(0, { Tile.reset with retired := true, copyQ := [copy0] })] }

/-- The descriptor that a queue's bit would read. -/
def descOf (s : State) : Option Queue := queueOf (ofLe (s.readLin (s.bar0.qtab.toNat + 64 * 3) 64))

theorem witness_queues :
    (mem0.qenBit 3 = false ∧ (descOf mem0).isNone = true) ∧
    ((descOf (descState 1 0x1000)).any fun x => ((descState 1 0x1000).ctx? x.ctx).isNone) = true ∧
    ((descOf (descState 0 0x1000)).any fun x =>
      ((descState 0 0x1000).ctx? x.ctx).isSome &&
        (((((descState 0 0x1000).setQen 3 true).setQueue 3 x).readVa x.ctx frontDie x.head 4).2).toOption.isSome) = true ∧
    ((descOf (descState 0 (2 ^ 40))).any fun x =>
      ((descState 0 (2 ^ 40)).ctx? x.ctx).isSome &&
        (((((descState 0 (2 ^ 40)).setQen 3 true).setQueue 3 x).readVa x.ctx frontDie x.head 4).2).toOption.isNone) = true ∧
    (((descState 0 0x1000).setQen 3 true).qenBit 3 = true) := by
  refine ⟨?_, ?_, ?_, ?_, ?_⟩ <;> decide +kernel

theorem witness_HostAndStartEvents :
    (State.reset.started = true ∧ State.reset.bar0.qen = 0 ∧ ({ Bar0.reset with qen := 1#16 <<< 3 } : Bar0).qen ≠ 0 ∧
      ∀ q < 16, (State.reset.queue q).enabled = false) ∧
    (3072 < (3073#64).toNat % 2 ^ 16 ∧ (5#64).toNat % 2 ^ 16 + (5#64).toNat / 2 ^ 32 % 2 ^ 16 ≤ 3072) ∧
    (64 % 64 + 64 ≤ 64 ∧ ([0#8] : List Byte) ≠ [] ∧ State.reset.winKey 0 = none ∧
      (let s : State := { State.reset with bar0 := { Bar0.reset with win := 0x0000000100000000#64 } }
       (s.winKey 0).map inStore = some false) ∧
      (let s : State := { State.reset with bar0 := { Bar0.reset with win := 0x0000000100000170#64 } }
       (s.winKey 0).map inStore = some true)) ∧
    (64 ∈ [128, 64, 32] ∧ 8 ∈ [16, 8, 4] ∧ ¬(5 ∈ [128, 64, 32])) ∧
    (∃ f : Firmware, Config.digest f.image = f.digest ∧ f.loading = []) ∧
    (MemInv State.reset ∧ startIn.failingRows = [] ∧ State.reset.rowErr = [] ∧ State.reset.trained = true ∧
      ({ State.reset with trained := false } : State).trained = false) ∧
    (∃ pc : FirmwarePiece, pc.last = true ∧ Config.digest (putPieceAt [] pc.off pc.bytes) = pc.digest) ∧
    (State.reset.ctxs = [] ∧ 2 ^ 48 / 2 ^ 48 = 1 ∧ State.reset.tileDead t0 = false ∧
      ({ State.reset with tiles := [(0, { Tile.reset with retired := true })] } : State).tileDead t0 = true ∧
      ({ State.reset with tiles := [(0, { Tile.reset with retired := true })] } : State).tileIdle t0 = true ∧
      deadBusy.tileDead t0 = true ∧ deadBusy.tileIdle t0 = false ∧ deadBusy.launches = [] ∧ deadBusy.ctxs = [] ∧
      State.reset.launches = []) := by
  refine ⟨?_, ?_, ?_, ?_, ⟨{ Firmware.reset with digest := Config.digest [] }, rfl, rfl⟩, ?_,
    ⟨{ off := 0, bytes := [], last := true, digest := Config.digest [] }, rfl, rfl⟩, ?_⟩ <;> decide +kernel

/-- Tile 0's even partition under a debug stop of context 0, with a command in its stop record. -/
def dbg0 : DebugStop := { cause := 2, ctx := 0, tick := 0, dumped := true, pend := [], regs := [], place := 0, len := 64, recs := [w0] }
def dbgState (cmd k n : Nat) (y : Wave) : State :=
  let g : State := { mem0 with ctxs := [(0, { ctx0 with dbg := true })], tiles := [(0, { Tile.reset with even := { part0 [entry0] [] with dbg := some dbg0 } })] }
  mk (g.writeKey 0x300000 (leBytes 64 (cmd * 2 ^ 416 + k * 2 ^ 400 + n * 2 ^ 352))) launch0 blk0 y

theorem witness_DebugAndTraceEvents :
    (State.reset.debugOn 0 = false ∧ Part.reset.dbg = none ∧
      (let s : State := { mem0 with ctxs := [(0, { ctx0 with dbg := true })] }
       s.debugOn (s.tile t0).act = true ∧ ((s.tile t0).part false).dbg = none)) ∧
    (State.reset.debugCmd t0 false = none ∧ (dbgState 1 0 0 landedWave).debugCmd t0 false = some (dbg0, 1, 0, 0) ∧
      (dbgState 2 0 3 landedWave).debugCmd t0 false = some (dbg0, 2, 0, 3) ∧ (dbgState 3 0 1 landedWave).debugCmd t0 false = some (dbg0, 3, 0, 1)) ∧
    (let s := dbgState 2 0 3 landedWave
     (((s.tile t0).part false).recordEntry 0) = some entry0 ∧
       (s.site? w0).any (fun x => x.wave.stop == .landed && x.block.fate.isNone && x.block.phase == .resident && x.wave.owed.isNone) = true ∧
       ((s.tile t0).part false).recordWave 0 = some w0) ∧
    (let e := TraceEng.reset
     let p : Packet := { kind := 8, tick := 5, order := 0, refs := [], body := [] }
     (p ∈ ({ e with held := [p] } : TraceEng).held ∧ p.tick < ({ e with held := [p] } : TraceEng).lastWrite + 56000) ∧
     e.held = [] ∧ e.frame = [] ∧ e.buf = [] ∧ ({ e with frame := [0#8] } : TraceEng).frame ≠ [] ∧
       ({ e with buf := [[], [], [], []] } : TraceEng).buf.length = 4 ∧ 56000 ≤ ({ State.reset with tick := 56000 } : State).tick) ∧
    ((1 = if 16383 ≤ 1 then 0 else 1) ∧ State.reset.numKey (traceBase 0 + 4) 4 = 0) ∧
    (let o : TraceOp := { wave := w0, on := true, kinds := 1, tick := 0 }
     ({ ctx0 with tnext := [o] } : Context).tnext = [o] ∧ o.tick + 1024 ≤ ({ mem0 with tick := 2000 } : State).tick) := by
  refine ⟨?_, ?_, ?_, ?_, ?_, ?_⟩ <;> decide +kernel

theorem witness_DecodeEncode :
    (∃ i : Instr, i.wf = true ∧ encode i ≠ .noWords) ∧
    (∃ i w, i.wf = true ∧ encode i = .words w []) ∧
    (∃ i, decodeWord 0x0008000400400000#64 [] = .ok i ∧ takesArgs (opcOf 0x0008000400400000#64).toNat = false) :=
  ⟨⟨.add (fld 2 0 2 1 0 0), by decide +kernel, by decide +kernel⟩, ⟨.add (fld 2 0 2 1 0 0), _, by decide +kernel, rfl⟩,
    ⟨_, rfl, by decide +kernel⟩⟩

/-- A state whose selected wave's next place is this word. -/
def wordState (w : BitVec 64) : State := State.reset.withFetchWord 64 w.toNat

/-- A wave that stands before a word that uses the place before it, whose value a global read, or a vault read, still owes. -/
def owedState0 (g v : Nat) : State :=
  let s : State := { wordState 0x0008000200400000#64 with
    store := (wordState 0x0008000200400000#64).store.map fun t => { t with blocks := t.blocks.map fun b => { b with params := [2#4] } } }
  s.modWave w0 fun y => { y with
    frames := y.frames.map fun f => { f with cur := some { block := 0, mask := BitVec.allOnes 32, vidx := 1, vals := [splat .i32 1] } }
    gcnt := g, vcnt := v, guse := if g = 0 then [] else [(1, 0)], vuse := if v = 0 then [] else [(1, 0)] }

theorem witness_StepRunsDecoded :
    (let s := wordState 0x3140000000000000#64
     s.agenda = [] ∧ s.cur = some w0 ∧ ((s.nextPlace w0).map fun p => p.word) = some 0x3140000000000000#64 ∧
       (s.site? w0).any (fun x => x.wave.top?.isSome && s.canIssue x && !s.badEntry x && s.picks x.tile w0 (portableStream 0x0C5)) = true) ∧
    (let s := wordState 0x3140000000000000#64
     let u := s.modTile t0 fun y => { y with even := { y.even with active := [] } }
     u.picks t0 w0 0 = false) ∧
    (∃ i, decodeWord 0x3140000000000000#64 [] = .ok i) ∧ (∃ e, decodeWord 0x33C0000000000000#64 [] = .error e) ∧
    (State.reset.agenda = [] ∧ State.reset.cur = none) ∧
    (let s := small []
     s.agenda = [] ∧ s.cur = some w0 ∧ (s.site? w0).any (fun x => !s.badEntry x) = true ∧ s.nextPlace w0 = none) ∧
    (let s : State := { wordState 0x3140000000000000#64 with store := [] }
     s.agenda = [] ∧ s.cur = some w0 ∧ (s.site? w0).any s.badEntry = true) := by
  refine ⟨?_, ?_, ⟨_, rfl⟩, ⟨_, rfl⟩, ?_, ?_, ?_⟩ <;> decide +kernel

theorem witness_StepRunsDecoded_waits :
    ∀ e ∈ [(1, 0, true), (0, 1, false)],
      let s := owedState0 e.1 e.2.1
      s.agenda = [] ∧ s.cur = some w0 ∧ s.nextPlace w0 = none ∧
        (s.site? w0).any (fun x => s.canIssue x && !s.badEntry x && (s.wordAt w0).any fun p => x.wave.dataWaits p.1 p.2 && (x.wave.uses p.1 p.2 x.wave.guse == e.2.2)) = true := by
  decide +kernel

/-- A step with an empty agenda and no wave lets a tick pass. -/
theorem witness_StepKeepsMemoryForm : MemInv State.reset ∧ ∃ t, step State.reset = .next t ∧ t.tick = 1 :=
  ⟨by decide +kernel, _, rfl, by decide +kernel⟩

/-- A state with an instruction that stores, and the step that runs it. -/
theorem test_step_store :
    (match step (State.reset.withFetchWord 64 0x3100000000000000) with | .next t => some (Mem.wf t.mem) | _ => none) = some true := by
  decide +kernel

end Sys2Proof.Tests
end

section
/-!
PROOFS. The native-only operations (O42): a wave that issues one as a bundle of its own, how that bundle ends, and the effect of each
operation.
-/

namespace Sys2Proof.Machine

open Sys2Proof

/-! ## A native wave that issues -/

/-- The selected wave of a site runs native code, none of its ops waits, and its stream k stands at q in the translation t. -/
structure NativeIssues (s : State) (x : Site) (n : Native) (t : Translation) (k : Nat) (q : Seq) : Prop where
  cur : s.cur = some x.w
  site : s.site? x.w = some x
  native : x.wave.native = some n
  mode : x.wave.mode = .run
  waits : n.waits = []
  code : ∃ fr fs, x.wave.frames = fr :: fs ∧ s.code? fr = some t
  seq : n.seqs[k]? = some q

/-- The native state of a wave of which no op is in execution. -/
def Native.idle (n : Native) : Native := { n with cur := none }

/-- A site whose wave has a native state. -/
def Site.withNative (x : Site) (n : Native) : Site := { x with wave := { x.wave with native := some n } }

/-- The native state of a wave whose stream k, which stands at q, passes a bundle without SP, STOP, tokens and loop code (R102). -/
def Native.past (n : Native) (k : Nat) (q : Seq) : Native :=
  { n with
    seqs := n.seqs.set k { q with pc := q.pc + 16, stopped := false, bun := q.bun + 1, noSp := q.noSp + 1, popWait := none }
    cur := none }

/-- A state in which the wave of a site has a native state. -/
def State.withNative (s : State) (x : Site) (n : Native) : State := s.setWave x.w { x.wave with native := some n }

/-- The lanes of a native-only op of a bundle with HALF = 0 (R102, R114). -/
def Site.loneLanes (x : Site) (n : Native) (k : Nat) : LaneMask :=
  if k = 0 then BitVec.allOnes 32
  else if narrowDie x.block.die then Tab.getD n.k 0 0 &&& 0x0000FFFF#32 else Tab.getD n.k 0 0

/-- Where an op stands that is alone in its bundle, of a type not yet known. -/
def Site.loneDest (x : Site) (n : Native) (k : Nat) (q : Seq) (opc : Nat) (sl : Slot) : NDest :=
  { stream := k, slotB := false, half := false, addr := q.pc, bun := q.bun, sp := false, cuts := q.cuts, pop := 0,
    stg := sl.stg.toNat, opc := opc, dst := sl.dst, names := [], ty := .void, mask := x.loneLanes n k }

/-- The bundle of an op alone. -/
def loneBundle (opc : Nat) (sl : Slot) : Bundle :=
  { sp := false, stop := false, push := 0, pop := 0, lec := 0, half := false, rsv := 0, slots := [(BitVec.ofNat 9 opc, sl)] }

@[simp] theorem Native.idle_srcFits (n : Native) (t : Ty) (f : BitVec 12) : n.idle.srcFits t f = n.srcFits t f := rfl
@[simp] theorem Native.idle_dstFits (n : Native) (k : Nat) (t : Ty) (d : BitVec 12) : n.idle.dstFits k t d = n.dstFits k t d := rfl
@[simp] theorem Native.idle_source (n : Native) (k : Nat) (t : Ty) (f : BitVec 12) : n.idle.source k t f = n.source k t f := rfl
@[simp] theorem Native.idle_k (n : Native) : n.idle.k = n.k := rfl
@[simp] theorem Native.idle_budget (n : Native) : n.idle.budget = n.budget := rfl
@[simp] theorem Native.idle_sreg (n : Native) (f : BitVec 12) : n.idle.sreg f = n.sreg f := rfl

@[simp] theorem Site.loneDest_stream (x : Site) (n : Native) (k : Nat) (q : Seq) (opc : Nat) (sl : Slot) :
    (x.loneDest n k q opc sl).stream = k := rfl
@[simp] theorem Site.loneDest_addr (x : Site) (n : Native) (k : Nat) (q : Seq) (opc : Nat) (sl : Slot) :
    (x.loneDest n k q opc sl).addr = q.pc := rfl
@[simp] theorem Site.loneDest_mask (x : Site) (n : Native) (k : Nat) (q : Seq) (opc : Nat) (sl : Slot) :
    (x.loneDest n k q opc sl).mask = x.loneLanes n k := rfl

@[simp] theorem Site.withNative_w (x : Site) (n : Native) : (x.withNative n).w = x.w := rfl
@[simp] theorem Site.withNative_block (x : Site) (n : Native) : (x.withNative n).block = x.block := rfl

/-! ## The bundle of an op alone -/

theorem Native.opMask_lone (x : Site) (n : Native) (k : Nat) {opc : Nat} (h : 0x1C0 ≤ opc) :
    n.opMask (narrowDie x.block.die) false k opc = x.loneLanes n k := by
  have he : isExchange opc = false := by simp [isExchange, inRange]; omega
  by_cases hk : k = 0
  · simp [Native.opMask, Site.loneLanes, hk]
  · cases hn : narrowDie x.block.die <;> simp [Native.opMask, Site.loneLanes, halfLanes, hk, he, hn]

theorem bundleDests_lone (x : Site) {n : Native} {k : Nat} {q : Seq} (hq : n.seqs[k]? = some q) {opc : Nat}
    (h : 0x1C0 ≤ opc) (h' : opc < 512) (sl : Slot) :
    bundleDests (loneBundle opc sl) n (narrowDie x.block.die) k q.pc = [(x.loneDest n k q opc sl, opc, sl)] := by
  have ho : opc % 512 = opc := Nat.mod_eq_of_lt h'
  simp [bundleDests, loneBundle, Site.loneDest, hq, Native.opMask_lone x n k h, ho]

theorem Native.passBundle_lone {n : Native} {k : Nat} {q : Seq} (hq : n.seqs[k]? = some q) (opc : Nat) (sl : Slot) :
    n.idle.passBundle k q.pc (loneBundle opc sl) = n.past k q := by
  simp [Native.passBundle, Native.idle, Native.past, loneBundle, hq, Native.popTokens, List.range_succ]

theorem NativeIssues.runNative_eq {s : State} {x : Site} {n : Native} {t : Translation} {k : Nat} {q : Seq} (h : NativeIssues s x n t k q)
    (opc : Nat) (sl : Slot) :
    runNative opc k sl s = .next (s.issueBundle (x.withNative n.idle) n.idle t k q.pc (loneBundle opc sl)) := by
  obtain ⟨fr, fs, hf, hc⟩ := h.code
  have hr : x.wave.atRest = { x.wave with native := some n.idle } := by simp [Wave.atRest, h.mode, h.native, Native.idle]
  have hq : n.idle.seqs[k]? = some q := h.seq
  simp [runNative, h.cur, h.site, hr, hf, hc, hq, Site.withNative, loneBundle]

theorem bundleHeadOk_lone (opc : Nat) (sl : Slot) (narrow : Bool) (k : Nat) : bundleHeadOk (loneBundle opc sl) narrow k = true := by
  simp [bundleHeadOk, loneBundle]

/-- R15: a bundle without SP after 63 of them is native-illegal. -/
theorem NativeIssues.runNative_spDue {s : State} {x : Site} {n : Native} {t : Translation} {k : Nat} {q : Seq}
    (h : NativeIssues s x n t k q) (hsp : 63 ≤ q.noSp) (opc : Nat) (sl : Slot) : runNative opc k sl s = .next (s.illegalNative x t.tid) := by
  have hq : n.idle.seqs[k]? = some q := h.seq
  have hd : q.spDue (loneBundle opc sl) = true := by simp [Seq.spDue, loneBundle, hsp]
  rw [h.runNative_eq]
  simp only [State.issueBundle, hq, hd, Bool.or_true, if_true]
  rfl

/-! ## How the op alone in its bundle ends -/

/-- The end of the slot of an op that is alone in a bundle of a wave that issues: what the op's own slot answers on the registers before
the bundle, in the state in which the stream has passed it. -/
def State.loneSlot (s : State) (x : Site) (n : Native) (len k : Nat) (q : Seq) (opc : Nat) (sl : Slot) : SlotRes :=
  (s.withNative x (n.past k q)).runSlot (x.withNative n.idle) n.idle (x.loneDest n k q opc sl) len opc sl

theorem Wave.unfocus_idle {x : Wave} {n : Native} (hx : x.native = some n) (hc : n.cur = none) : x.unfocus = x := by
  simp [Wave.unfocus, hx, hc]

/-- The state after a bundle whose one op is illegal or done at once. -/
def State.afterLone (s : State) (x : Site) (tid : Nat) : SlotRes → Option State
  | .illegal => some (s.illegalNative x tid)
  | .fin s2 => some ((s2.settleFocus x.w).endStopped x.w)
  | _ => none

section
variable {s u : State} {x : Site} {n : Native} {t : Translation} {k : Nat} {q : Seq} {opc : Nat} {sl : Slot}

theorem State.issueBundle_lone (hq : n.seqs[k]? = some q) (hsp : q.noSp < 63) (ho : 0x1C0 ≤ opc) (ho' : opc < 512)
    (hu : s.afterLone x t.tid (s.loneSlot x n t.codeLen k q opc sl) = some u) :
    s.issueBundle (x.withNative n.idle) n.idle t k q.pc (loneBundle opc sl) = u := by
  have hi : n.idle.seqs[k]? = some q := hq
  have hsd : q.spDue (loneBundle opc sl) = false := by simp [Seq.spDue]; omega
  unfold State.issueBundle
  extract_lets narrow w0 w1 n1 s1 x1 ds
  have hds : ds = [(x.loneDest n k q opc sl, opc, sl)] := bundleDests_lone x hi ho ho' sl
  have hs1 : s1 = s.withNative x (n.past k q) := congrArg (s.withNative x) (Native.passBundle_lone hq opc sl)
  have hown : s1.runOwnSlot x1 n.idle (x.loneDest n k q opc sl) t.codeLen opc sl = s.loneSlot x n t.codeLen k q opc sl := by
    rw [hs1]; rfl
  rw [if_neg (by simp [bundleHeadOk_lone, hi, hsd])]
  cases hl : s.loneSlot x n t.codeLen k q opc sl with
  | illegal =>
    rw [hl] at hu hown
    rw [if_pos (by simp [hds, hown, SlotRes.isIllegal])]
    exact Option.some.inj hu
  | fin s2 =>
    rw [hl] at hu hown
    rw [if_neg (by simp [hds, hown, SlotRes.isIllegal])]
    simp only [hds, State.runSlots, hown, SlotRes.after]
    exact Option.some.inj hu
  | faulted d | retry s2 | waits s2 => simp [hl, State.afterLone] at hu

/-- An op that ends at once leaves its wave without an event, an op in execution or one that waits, and its stream going on. -/
structure Native.GoesOn (n m : Native) (k : Nat) : Prop where
  leave : m.leave = n.leave
  held : m.held = n.held
  cur : m.cur = none
  waits : m.waits = []
  seq : ∃ q, m.seqs[k]? = some q ∧ q.stopped = false

/-- With nothing to bring into focus, the wave's focus stands. -/
theorem State.settleFocus_done {s : State} {w : WaveRef} {y : Wave} {m : Native} (hw : s.wave? w = some y)
    (hy : y.native = some m) (hc : m.cur = none) (hm : m.waits = []) : s.settleFocus w = s := by
  have hr : y.unfocus.refocus = y := by
    simp [Wave.unfocus_idle hy hc, Wave.refocus, Wave.focusWhere, oldestWait, hy, hm]
  rw [State.settleFocus, State.modWave_eq hw, hr, State.setWave_self hw]

/-- A native wave of which a stream goes on does not end. -/
theorem State.endStopped_running {s : State} {w : WaveRef} {y : Wave} {m : Native} {k : Nat} {q : Seq} (hw : s.wave? w = some y)
    (hy : y.native = some m) (hq : m.seqs[k]? = some q) (hs : q.stopped = false) : s.endStopped w = s := by
  have hall : m.seqs.all Seq.stopped = false := List.all_eq_false.mpr ⟨q, List.mem_of_getElem? hq, by simp [hs]⟩
  unfold State.endStopped
  cases hx : s.site? w with
  | none => rfl
  | some x =>
    obtain ⟨-, -, -, hxw⟩ := State.site_spec hx
    obtain rfl : x.wave = y := Option.some.inj (hxw.symm.trans hw)
    simp [hy, hall]

theorem NativeIssues.wave (h : NativeIssues s x n t k q) : s.wave? x.w = some x.wave := (State.site_spec h.site).2.2.2

theorem NativeIssues.wave_withNative (h : NativeIssues s x n t k q) (m : Native) :
    (s.withNative x m).wave? x.w = some { x.wave with native := some m } := State.wave?_setWave h.wave _

/-- What a native-only op does where it is alone in the bundle that its stream has just passed. -/
def State.loneEff (s : State) (x : Site) (n : Native) (len k : Nat) (q : Seq) (opc : Nat) (sl : Slot) (g : NativeOp) : Option State :=
  g (x.withNative n.idle) n.idle (x.loneDest n k q opc sl) len sl (s.withNative x (n.past k q))

/-- A native-only op that its definition rejects is native-illegal. -/
theorem NativeIssues.runNative_illegal (h : NativeIssues s x n t k q) (hsp : q.noSp < 63) {g : NativeOp} (hg : nativeEff opc = some g)
    (ho : 0x1C0 ≤ opc) (ho' : opc < 512) (hr : s.loneEff x n t.codeLen k q opc sl g = none) :
    runNative opc k sl s = .next (s.illegalNative x t.tid) := by
  have hl : s.loneSlot x n t.codeLen k q opc sl = .illegal := by
    simp only [State.loneEff] at hr
    simp only [State.loneSlot, State.runSlot, hg, hr, ite_self]
  rw [h.runNative_eq, State.issueBundle_lone h.seq hsp ho ho' (by rw [hl]; rfl)]

/-- A native-only op that its definition accepts, and that leaves its wave going on, ends its bundle with its effect. -/
theorem NativeIssues.runNative_done (h : NativeIssues s x n t k q) (hsp : q.noSp < 63) {g : NativeOp} (hg : nativeEff opc = some g)
    (ho : 0x1C0 ≤ opc) (ho' : opc < 512) (hst : streamOk k opc = true) (hstg : sl.stg = 0)
    (hr : s.loneEff x n t.codeLen k q opc sl g = some u) {m : Native} (hw : u.wave? x.w = some { x.wave with native := some m })
    (hm : n.GoesOn m k) : runNative opc k sl s = .next u := by
  obtain ⟨q2, hq2, hgo⟩ := hm.seq
  have hl : s.loneSlot x n t.codeLen k q opc sl = .fin u := by
    have hend : (s.withNative x (n.past k q)).slotRes u x.w (x.loneDest n k q opc sl) = .fin u := by
      simp [State.slotRes, h.wave_withNative, hw, Native.past, hm.leave, hm.held, hm.cur, h.mode]
    simp only [State.loneEff] at hr
    simpa [State.loneSlot, State.runSlot, hst, hg, hr, hstg, Native.stageOn] using hend
  rw [h.runNative_eq, State.issueBundle_lone h.seq hsp ho ho' (by rw [hl]; rfl),
    State.settleFocus_done hw rfl hm.cur hm.waits, State.endStopped_running hw rfl hq2 hgo]

end

/-! ## Native states that go on -/

theorem Native.past_seq {n : Native} {k : Nat} {q : Seq} (hq : n.seqs[k]? = some q) :
    (n.past k q).seqs[k]? =
      some { q with pc := q.pc + 16, stopped := false, bun := q.bun + 1, noSp := q.noSp + 1, popWait := none } := by
  obtain ⟨hk, -⟩ := List.getElem?_eq_some_iff.mp hq
  simp [Native.past, hk]

theorem Native.past_goesOn {n : Native} {k : Nat} {q : Seq} (hq : n.seqs[k]? = some q) (hw : n.waits = []) : n.GoesOn (n.past k q) k :=
  ⟨rfl, rfl, rfl, hw, _, Native.past_seq hq, rfl⟩

theorem Native.goto_eq {n : Native} {k : Nat} {q : Seq} (hq : n.seqs[k]? = some q) (a : Nat) :
    n.goto k a = { n with seqs := n.seqs.set k { q with pc := a } } := by
  simp [Native.goto, hq]

theorem Native.GoesOn.goto {n m : Native} {k : Nat} (h : n.GoesOn m k) (a : Nat) : n.GoesOn (m.goto k a) k := by
  obtain ⟨q, hq, hs⟩ := h.seq
  obtain ⟨hk, -⟩ := List.getElem?_eq_some_iff.mp hq
  rw [Native.goto_eq hq]
  exact ⟨h.leave, h.held, h.cur, h.waits, { q with pc := a }, by simp [hk], hs⟩

/-- Two native states whose streams, events, op in execution and waiting ops are the same: they differ in registers and the loop alone. -/
structure Native.SameCourse (n m : Native) : Prop where
  seqs : m.seqs = n.seqs
  leave : m.leave = n.leave
  held : m.held = n.held
  cur : m.cur = n.cur
  waits : m.waits = n.waits

theorem Native.SameCourse.refl (n : Native) : n.SameCourse n := ⟨rfl, rfl, rfl, rfl, rfl⟩

theorem Native.SameCourse.trans {a b c : Native} (h : a.SameCourse b) (g : b.SameCourse c) : a.SameCourse c :=
  ⟨g.seqs.trans h.seqs, g.leave.trans h.leave, g.held.trans h.held, g.cur.trans h.cur, g.waits.trans h.waits⟩

theorem Native.GoesOn.of_sameCourse {n m m' : Native} {k : Nat} (h : n.GoesOn m k) (g : m.SameCourse m') : n.GoesOn m' k :=
  ⟨g.leave.trans h.leave, g.held.trans h.held, g.cur.trans h.cur, g.waits.trans h.waits, by simpa only [g.seqs] using h.seq⟩

theorem Native.sameCourse_foldl {α : Type} {f : Native → α → Native} (hf : ∀ (n : Native) (a : α), n.SameCourse (f n a))
    (l : List α) (n : Native) : n.SameCourse (l.foldl f n) := by
  induction l generalizing n with
  | nil => exact .refl n
  | cons a l ih => exact (hf n a).trans (ih _)

theorem Native.setV_sameCourse (n : Native) (v : Nat) (m : LaneMask) (x : Fin 32 → Nat) : n.SameCourse (n.setV v m x) :=
  ⟨rfl, rfl, rfl, rfl, rfl⟩

theorem Native.setVs_sameCourse (n : Native) (t : Ty) (at_ : Nat → Nat) (m : LaneMask) (v : Value) : n.SameCourse (n.setVs t at_ m v) := by
  unfold Native.setVs
  split
  · refine Native.sameCourse_foldl (fun n r => ?_) _ n
    split
    · exact n.setV_sameCourse _ _ _
    · exact .refl n
  · exact Native.sameCourse_foldl (fun n j => n.setV_sameCourse _ _ _) _ n

theorem Native.setDrain_sameCourse (n : Native) (half : Bool) (m : Nat) (v : Value) : n.SameCourse (n.setDrain half m v) := by
  unfold Native.setDrain
  repeat' split
  all_goals exact ⟨rfl, rfl, rfl, rfl, rfl⟩

theorem Native.overwrite_sameCourse (n : Native) (d : NDest) : n.SameCourse (n.overwrite d) := by
  unfold Native.overwrite
  split <;> exact ⟨rfl, rfl, rfl, rfl, rfl⟩

theorem Native.writeLatch_sameCourse (n : Native) (d : NDest) (x : Lanes LaneBits) : n.SameCourse (n.writeLatch d x) :=
  ⟨rfl, rfl, rfl, rfl, rfl⟩

/-- The write of a result changes registers alone. -/
theorem Native.write_sameCourse (n : Native) (d : NDest) (v : Value) : n.SameCourse (n.write d v) := by
  unfold Native.write
  extract_lets n0 n1 num n2
  have h1 : n.SameCourse n1 := by
    refine (n.overwrite_sameCourse d).trans ?_
    dsimp only [n1]
    split
    · exact .refl n0
    · exact n0.writeLatch_sameCourse d v.x
  have h2 : n.SameCourse n2 := h1.trans (n1.setVs_sameCourse _ _ _ _)
  split
  · exact .refl n
  split
  · exact h1
  split
  · exact h1.trans ⟨rfl, rfl, rfl, rfl, rfl⟩
  split
  · exact h1.trans ⟨rfl, rfl, rfl, rfl, rfl⟩
  split
  · exact h2.trans (n2.setDrain_sameCourse _ _ _)
  · exact h2

/-! ## Registers, types and updates that the ops share -/

@[simp] theorem Native.source_ty (n : Native) (k : Nat) (t : Ty) (f : BitVec 12) : (n.source k t f).ty = t := by
  unfold Native.source
  dsimp only
  repeat' split
  all_goals rfl

/-- A destination with the type of its result, and the v registers that it names then. -/
def NDest.typed (d : NDest) (n : Native) (t : Ty) : NDest := { d with ty := t, names := n.destNames { d with ty := t } t }

section
variable {s : State} {x : Site} {n : Native} {t : Translation} {k : Nat} {q : Seq} {T : Ty} {sl : Slot}

theorem slotTy_of_code (hT : sl.typ.toNat = T.code) : slotTy sl = T := by simp [slotTy, hT]

theorem NativeIssues.modNative_eq (h : NativeIssues s x n t k q) (m : Native) (g : Native → Native) :
    (s.withNative x m).modNative x.w g = s.withNative x (g m) := by
  rw [State.modNative, State.modWave_eq (h.wave_withNative m), State.withNative, State.setWave_setWave]
  rfl

theorem NativeIssues.nativeResult_eq (h : NativeIssues s x n t k q) (m : Native) (d : NDest) (v : Value) :
    (s.withNative x m).nativeResult (x.withNative n.idle) d v = s.withNative x (m.write (d.typed m v.ty) v) := by
  have hw : (s.withNative x m).wave? (x.withNative n.idle).w = some { x.wave with native := some m } := h.wave_withNative m
  rw [State.nativeResult, State.modWave_eq hw, State.withNative]
  exact State.setWave_setWave s x.w _ _

/-- A native-only op whose one effect is on its wave's native state. -/
theorem NativeIssues.runNative_goes (h : NativeIssues s x n t k q) (hsp : q.noSp < 63) {opc : Nat} {g : NativeOp}
    (hg : nativeEff opc = some g) (ho : 0x1C0 ≤ opc) (ho' : opc < 512) (hst : streamOk k opc = true) (hstg : sl.stg = 0) {m : Native}
    (hr : s.loneEff x n t.codeLen k q opc sl g = some (s.withNative x m)) (hm : n.GoesOn m k) :
    runNative opc k sl s = .next (s.withNative x m) :=
  h.runNative_done hsp hg ho ho' hst hstg hr (h.wave_withNative m) hm

/-- A native-only op whose static rules (R99) hold has no stage predicate. -/
theorem stg_zero_of_slotWf {i : Instr}
    (hi : i ∈ [.nop sl, .mov sl, .bcs sl, .spst sl, .spld sl, .jmp sl, .jc sl, .jal sl, .jr sl, .lcfg sl]) (h : i.slotWf = true) :
    sl.stg = 0 := by
  simp only [List.mem_cons, List.not_mem_nil, or_false] at hi
  rcases hi with rfl | rfl | rfl | rfl | rfl | rfl | rfl | rfl | rfl | rfl <;> simp_all [Instr.slotWf]

theorem NativeIssues.past_goesOn (h : NativeIssues s x n t k q) : n.GoesOn (n.past k q) k := Native.past_goesOn h.seq h.waits

theorem streamOk_any {opc : Nat} (h : opc = 0x1C0 ∨ opc = 0x1C1 ∨ 0x1C5 ≤ opc ∧ opc ≤ 0x1C8) (k : Nat) : streamOk k opc = true := by
  have : inRange 0x1C0 0x1C1 opc || inRange 0x1C5 0x1C8 opc := by simp [inRange]; omega
  simp [streamOk, this]

/-! ## bcs -/

theorem NativeIssues.exec_bcs (h : NativeIssues s x n t k q) (hsp : q.noSp < 63) (hk : s.opStream 1 = k) (h0 : 0 < k) (h4 : k < 4)
    (hwf : (Instr.bcs sl).slotWf = true) (hs : n.srcFits (slotTy sl) sl.sa = true) (hd : n.dstFits k (slotTy sl) sl.dst = true) :
    exec (.bcs sl) s =
      .next (s.withNative x
        ((n.past k q).write ((x.loneDest n k q 0x1C2 sl).typed (n.past k q) (slotTy sl)) (n.source k (slotTy sl) sl.sa))) := by
  have hst : streamOk k 0x1C2 = true := by interval_cases k <;> rfl
  subst hk
  refine h.runNative_goes hsp rfl (by decide) (by decide) hst (stg_zero_of_slotWf (by simp) hwf)
    ?_ (h.past_goesOn.of_sameCourse (Native.write_sameCourse _ _ _))
  simp [State.loneEff, effBcs, hwf, hs, hd, h.nativeResult_eq, Nat.ne_of_gt h0]

/-! ## What jc and jal do to a native state -/

/-- The condition of `jc` where it stands alone in its bundle, by its modifier. -/
theorem Native.jcMet_iff (hwf : (Instr.jc sl).slotWf = true) {lanes : LaneMask}
    (hl : lanes = if k = 0 then Tab.getD n.k 0 0 else x.loneLanes n k) :
    n.idle.jcMet (x.loneDest n k q 0x1C6 sl) sl = true ↔
      (sl.mods = 0 ∧ n.sreg sl.dst ≠ 0) ∨ (sl.mods = 1 ∧ lanes &&& Tab.getD n.k 0 (sl.dst.toNat % 16) ≠ 0) ∨
        (sl.mods = 2 ∧ lanes &&& ~~~(Tab.getD n.k 0 (sl.dst.toNat % 16)) = 0) := by
  have hm : sl.mods = 0 ∨ sl.mods = 1 ∨ sl.mods = 2 := by
    have hle : sl.mods.toNat ≤ 2 := by simp [Instr.slotWf] at hwf; omega
    bv_omega
  subst hl
  rcases hm with hm | hm | hm <;> simp [Native.jcMet, hm]

/-- The native state after `jal`: at its target, with the address after the bundle in its latch and its s register. -/
def Native.jalTo (n : Native) (d : NDest) (r : Word64) (a : Nat) (f : BitVec 12) : Native :=
  { (n.goto d.stream a).writeLatch d (Lanes.all (r.setWidth 1600)) with s := n.s.put (f.toNat % 256) r }

/-- `jal` changes its stream's address, its latch and its s register alone. -/
theorem Native.jalTo_frame (n : Native) (d : NDest) (r : Word64) (a : Nat) (f : BitVec 12) :
    let m := n.jalTo d r a f
    m.seqs = (n.goto d.stream a).seqs ∧ m.v = n.v ∧ m.k = n.k ∧ m.tok = n.tok ∧ m.loop = n.loop ∧
      m.s = n.s.put (f.toNat % 256) r := by
  unfold Native.jalTo Native.writeLatch Native.goto
  split <;> exact ⟨rfl, rfl, rfl, rfl, rfl, rfl⟩

/-! ## nop and mov -/

section
variable (h : NativeIssues s x n t k q) (hsp : q.noSp < 63) (hk : s.opStream 0 = k)
include h hsp hk

theorem NativeIssues.exec_nop (hwf : (Instr.nop sl).slotWf = true) :
    exec (.nop sl) s = .next (s.withNative x (n.past k q)) := by
  subst hk
  exact h.runNative_goes hsp rfl (by decide) (by decide) (streamOk_any (by decide) _) (stg_zero_of_slotWf (by simp) hwf)
    (by simp [State.loneEff, effNop, hwf]) h.past_goesOn

theorem NativeIssues.exec_nop_illegal
    (hwf : (Instr.nop sl).slotWf = false) : exec (.nop sl) s = .next (s.illegalNative x t.tid) := by
  subst hk
  exact h.runNative_illegal hsp rfl (by decide) (by decide) (by simp [State.loneEff, effNop, hwf])

theorem NativeIssues.exec_mov (hwf : (Instr.mov sl).slotWf = true)
    (hs : n.srcFits (slotTy sl) sl.sa = true) (hd : n.dstFits k (slotTy sl) sl.dst = true) {U : Ty}
    (hU : U = if k = 0 ∧ sl.sa.toNat / 256 = 9 then .n64 else slotTy sl) :
    exec (.mov sl) s =
      .next (s.withNative x ((n.past k q).write ((x.loneDest n k q 0x1C1 sl).typed (n.past k q) U) (n.source k U sl.sa))) := by
  subst hk
  refine h.runNative_goes hsp rfl (by decide) (by decide) (streamOk_any (by decide) _) (stg_zero_of_slotWf (by simp) hwf)
    ?_ (h.past_goesOn.of_sameCourse (Native.write_sameCourse _ _ _))
  simp [State.loneEff, effMov, hwf, hs, hd, h.nativeResult_eq, hU]

theorem NativeIssues.exec_mov_illegal
    (hbad : (Instr.mov sl).slotWf = false ∨ n.srcFits (slotTy sl) sl.sa = false ∨ n.dstFits k (slotTy sl) sl.dst = false) :
    exec (.mov sl) s = .next (s.illegalNative x t.tid) := by
  subst hk
  refine h.runNative_illegal hsp rfl (by decide) (by decide) ?_
  rcases hbad with hb | hb | hb <;> simp [State.loneEff, effMov, hb]

/-! ## Jumps -/

theorem NativeIssues.exec_jmp (hwf : (Instr.jmp sl).slotWf = true)
    {a : Nat} (ha : jumpTo t.codeLen q.pc (disp24 sl.dst sl.sa) = some a) :
    exec (.jmp sl) s = .next (s.withNative x ((n.past k q).goto k a)) := by
  subst hk
  refine h.runNative_goes hsp rfl (by decide) (by decide) (streamOk_any (by decide) _) (stg_zero_of_slotWf (by simp) hwf)
    ?_ (h.past_goesOn.goto a)
  simp [State.loneEff, effJmp, hwf, ha, h.modNative_eq]

theorem NativeIssues.exec_jmp_illegal
    (ha : jumpTo t.codeLen q.pc (disp24 sl.dst sl.sa) = none) : exec (.jmp sl) s = .next (s.illegalNative x t.tid) := by
  subst hk
  exact h.runNative_illegal hsp rfl (by decide) (by decide) (by simp [State.loneEff, effJmp, ha])

theorem NativeIssues.exec_jc (hwf : (Instr.jc sl).slotWf = true)
    {a : Nat} (ha : jumpTo t.codeLen q.pc (disp24 sl.sa sl.sb) = some a) :
    (n.idle.jcMet (x.loneDest n k q 0x1C6 sl) sl = true →
      exec (.jc sl) s = .next (s.withNative x ((n.past k q).goto k a))) ∧
    (n.idle.jcMet (x.loneDest n k q 0x1C6 sl) sl = false → exec (.jc sl) s = .next (s.withNative x (n.past k q))) := by
  subst hk
  have hstg : sl.stg = 0 := stg_zero_of_slotWf (i := .jc sl) (by simp) hwf
  refine ⟨fun hm => ?_, fun hm => ?_⟩
  · refine h.runNative_goes hsp rfl (by decide) (by decide) (streamOk_any (by decide) _) hstg ?_ (h.past_goesOn.goto a)
    simp [State.loneEff, effJc, hwf, ha, h.modNative_eq, hm]
  · refine h.runNative_goes hsp rfl (by decide) (by decide) (streamOk_any (by decide) _) hstg ?_ h.past_goesOn
    simp [State.loneEff, effJc, hwf, ha, hm]

theorem NativeIssues.exec_jal (hwf : (Instr.jal sl).slotWf = true)
    {a : Nat} (ha : jumpTo t.codeLen q.pc (disp24 sl.sa sl.sb) = some a) :
    exec (.jal sl) s =
      .next (s.withNative x ((n.past k q).jalTo (x.loneDest n k q 0x1C7 sl) (BitVec.ofNat 64 (q.pc + 16)) a sl.dst)) := by
  subst hk
  refine h.runNative_goes hsp rfl (by decide) (by decide) (streamOk_any (by decide) _) (stg_zero_of_slotWf (by simp) hwf)
    ?_ ((h.past_goesOn.goto a).of_sameCourse ⟨rfl, rfl, rfl, rfl, rfl⟩)
  simp [State.loneEff, effJal, hwf, ha, h.modNative_eq, Native.jalTo]

theorem NativeIssues.exec_jr (hwf : (Instr.jr sl).slotWf = true)
    {a : Nat} (ha : (n.sreg sl.sa).toNat % 2 ^ 32 = a) (h16 : a % 16 = 0) (hlen : a + 16 ≤ t.codeLen) :
    exec (.jr sl) s = .next (s.withNative x ((n.past k q).goto k a)) := by
  subst hk
  refine h.runNative_goes hsp rfl (by decide) (by decide) (streamOk_any (by decide) _) (stg_zero_of_slotWf (by simp) hwf)
    ?_ (h.past_goesOn.goto a)
  simp [State.loneEff, effJr, hwf, ha, h16, hlen, h.modNative_eq, -Nat.reducePow]

theorem NativeIssues.exec_jr_illegal
    {a : Nat} (ha : (n.sreg sl.sa).toNat % 2 ^ 32 = a) (hbad : a % 16 ≠ 0 ∨ t.codeLen < a + 16) :
    exec (.jr sl) s = .next (s.illegalNative x t.tid) := by
  subst hk
  refine h.runNative_illegal hsp rfl (by decide) (by decide) ?_
  have hn : a % 16 = 0 → t.codeLen < a + 16 := by omega
  simpa [State.loneEff, effJr, ha, -Nat.reducePow] using fun _ => hn

end

/-! ## The spill area -/

theorem State.wave?_congr {s u : State} (h : u.launches = s.launches) (w : WaveRef) : u.wave? w = s.wave? w := by
  simp [State.wave?, State.block?, State.launch?, h]

theorem State.spillReg_launches (s : State) (a : Nat) (v : Lanes Word) (m : LaneMask) : (s.spillReg a v m).launches = s.launches := by
  unfold State.spillReg
  induction LaneMask.list m generalizing s with
  | nil => rfl
  | cons i l ih => rw [List.foldl_cons, ih, State.writeKey_launches]

/-- The state after `spst` has stored registers from one on to the spill area. -/
def State.spillRegs (s : State) (x : Site) (n : Native) (o : Nat) (f : BitVec 12) (c : Nat) (m : LaneMask) : State :=
  (List.range c).foldl (fun s j => s.spillReg (x.spillKey (o + 128 * j)) (n.vreg (n.vnum 3 (f.toNat + j))) m) s

theorem State.spillRegs_launches (s : State) (x : Site) (n : Native) (o : Nat) (f : BitVec 12) (c : Nat) (m : LaneMask) :
    (s.spillRegs x n o f c m).launches = s.launches := by
  unfold State.spillRegs
  induction List.range c generalizing s with
  | nil => rfl
  | cons j l ih => rw [List.foldl_cons, ih, State.spillReg_launches]

theorem spillOff_some {e : SlotExt} (he : sl.ext = some e) (hin : 64 * e.imm.toNat + 128 * vNames T ≤ x.block.spill) :
    spillOff (x.withNative n) T sl = some (64 * e.imm.toNat) := by
  simp [spillOff, he, hin]

theorem spillOff_none {e : SlotExt} (he : sl.ext = some e) (hout : x.block.spill < 64 * e.imm.toNat + 128 * vNames T) :
    spillOff (x.withNative n) T sl = none := by
  simp [spillOff, he, Nat.not_le.mpr hout]

theorem NativeIssues.exec_spst (h : NativeIssues s x n t 3 q) (hsp : q.noSp < 63) (hwf : (Instr.spst sl).slotWf = true)
    (hs : n.srcFits (slotTy sl) sl.sa = true) {e : SlotExt} (he : sl.ext = some e)
    (hin : 64 * e.imm.toNat + 128 * vNames (slotTy sl) ≤ x.block.spill) :
    exec (.spst sl) s =
      .next ((s.withNative x (n.past 3 q)).spillRegs x n (64 * e.imm.toNat) sl.sa (vNames (slotTy sl))
        (if narrowDie x.block.die then 0x0000FFFF#32 else BitVec.allOnes 32)) := by
  have hm : (if !narrowDie x.block.die then BitVec.allOnes 32 else halfLanes false) =
      if narrowDie x.block.die then 0x0000FFFF#32 else BitVec.allOnes 32 := by
    cases narrowDie x.block.die <;> rfl
  refine h.runNative_done hsp rfl (by decide) (by decide) rfl (stg_zero_of_slotWf (by simp) hwf) (m := n.past 3 q) ?_ ?_ h.past_goesOn
  · have ho := spillOff_some (n := n.idle) he hin
    simp only [State.loneEff, effSpst, hwf, Native.idle_srcFits, hs, ho, Site.loneDest_stream, beq_self_eq_true, Bool.and_self, if_true,
      Site.withNative_block]
    rw [← hm]
    rfl
  · rw [State.wave?_congr (State.spillRegs_launches _ _ _ _ _ _ _), h.wave_withNative]

theorem NativeIssues.exec_spst_illegal (h : NativeIssues s x n t 3 q) (hsp : q.noSp < 63) {e : SlotExt} (he : sl.ext = some e)
    (hout : x.block.spill < 64 * e.imm.toNat + 128 * vNames (slotTy sl)) :
    exec (.spst sl) s = .next (s.illegalNative x t.tid) := by
  refine h.runNative_illegal hsp rfl (by decide) (by decide) ?_
  simp [State.loneEff, effSpst, spillOff_none (n := n.idle) he hout]

@[simp] theorem State.withNative_poisoned (s : State) (x : Site) (m : Native) (a c : Nat) :
    (s.withNative x m).poisoned a c = s.poisoned a c := by
  simp [State.poisoned, State.withNative]

@[simp] theorem State.withNative_spillValue (s : State) (x : Site) (m : Native) (T : Ty) (a : Nat) :
    (s.withNative x m).spillValue T a = s.spillValue T a := by
  simp [State.spillValue, State.readKey, State.withNative]

/-- R99, R425: `spld` reads its result from the spill area, and poison there is a fault of the tile. -/
theorem NativeIssues.exec_spld (h : NativeIssues s x n t 1 q) (hsp : q.noSp < 63) (hwf : (Instr.spld sl).slotWf = true)
    (hd : n.dstFits 1 (slotTy sl) sl.dst = true) (hp : slotTy sl ≠ .pred) (ht : slotTy sl ≠ .tile) {e : SlotExt} (he : sl.ext = some e)
    (hin : 64 * e.imm.toNat + 128 * vNames (slotTy sl) ≤ x.block.spill) {a : Nat} (ha : x.spillKey (64 * e.imm.toNat) = a) {m : Native}
    (hm : m = (n.past 1 q).write ((x.loneDest n 1 q 0x1C4 sl).typed (n.past 1 q) (slotTy sl)) (s.spillValue (slotTy sl) a)) :
    exec (.spld sl) s =
      .next (if s.poisoned a (128 * vNames (slotTy sl)) then (s.withNative x m).raise (.tileFault x.tile 4) else s.withNative x m) := by
  have hstg : sl.stg = 0 := stg_zero_of_slotWf (i := .spld sl) (by simp) hwf
  have hgo : n.GoesOn m 1 := hm ▸ h.past_goesOn.of_sameCourse (Native.write_sameCourse _ _ _)
  have hk : (x.withNative n.idle).spillKey (64 * e.imm.toNat) = a := ha
  refine h.runNative_done hsp rfl (by decide) (by decide) rfl hstg ?_ ?_ hgo
  · have ho := spillOff_some (n := n.idle) he hin
    have hty : (s.spillValue (slotTy sl) a).ty = slotTy sl := rfl
    have htile : (x.withNative n.idle).tile = x.tile := rfl
    simp [State.loneEff, effSpld, hwf, hd, hp, ht, ho, hk, h.nativeResult_eq, hm, hty, htile]
  · split
    · exact h.wave_withNative m
    · exact h.wave_withNative m

/-! ## lcfg -/

/-- The loop state that `lcfg` sets up (R105). -/
def Loop.configured (l : Loop) (lc : Word) (i : BitVec 38) : Loop :=
  { l with lc := lc, wb := i.extractLsb' 0 11, wsz := i.extractLsb' 11 9, ec := i.extractLsb' 20 3, pm := i.extractLsb' 23 4,
           sb := 0, rrb := 0, cf := true }

theorem NativeIssues.exec_lcfg (h : NativeIssues s x n t 0 q) (hsp : q.noSp < 63) (hwf : (Instr.lcfg sl).slotWf = true) {e : SlotExt}
    (he : sl.ext = some e) (hb : (e.imm.extractLsb' 0 11).toNat + (e.imm.extractLsb' 11 9).toNat ≤ n.budget) :
    exec (.lcfg sl) s =
      .next (s.withNative x { n.past 0 q with loop := n.loop.configured ((n.sreg sl.sa).setWidth 32) e.imm }) := by
  refine h.runNative_goes hsp rfl (by decide) (by decide) rfl (stg_zero_of_slotWf (by simp) hwf)
    ?_ (h.past_goesOn.of_sameCourse ⟨rfl, rfl, rfl, rfl, rfl⟩)
  simp [State.loneEff, effLcfg, hwf, he, hb, h.modNative_eq, -BitVec.extractLsb'_toNat]
  rfl

theorem NativeIssues.exec_lcfg_illegal (h : NativeIssues s x n t 0 q) (hsp : q.noSp < 63) {e : SlotExt} (he : sl.ext = some e)
    (hb : n.budget < (e.imm.extractLsb' 0 11).toNat + (e.imm.extractLsb' 11 9).toNat) :
    exec (.lcfg sl) s = .next (s.illegalNative x t.tid) := by
  refine h.runNative_illegal hsp rfl (by decide) (by decide) ?_
  simp [State.loneEff, effLcfg, he, Nat.not_le.mpr hb, -BitVec.extractLsb'_toNat]

end

/-! ## The obligation -/

/-- Settles O42, op by op: each native-only op runs as a bundle of its own, of which `NativeIssues.runNative_done` and
`NativeIssues.runNative_illegal` say how it ends. -/
theorem nativeInstructions : Obligations.NativeInstructions := by
  unfold Obligations.NativeInstructions
  intro s x n fr fs t q k sl T hcur hsite hnative hmode hwaits hframes hcode hseq hT
  obtain rfl : slotTy sl = T := slotTy_of_code hT
  have h : NativeIssues s x n t k q := ⟨hcur, hsite, hnative, hmode, hwaits, ⟨fr, fs, hframes, hcode⟩, hseq⟩
  intro len n1 Goes Illegal k0 dst jump
  refine ⟨fun hsp hk => ?spDue, fun hsp => ⟨fun hk => ⟨?nop, ?nopIllegal, ?mov, ?movIllegal, ?jmp, ?jc, ?jal, ?jr⟩,
    ?bcs, ?spst, ?spld, ?lcfg⟩⟩
  case spDue =>
    subst hk
    exact ⟨h.runNative_spDue hsp 0x1C0 sl, h.runNative_spDue hsp 0x1C1 sl, h.runNative_spDue hsp 0x1C5 sl⟩
  case nop => exact fun hwf => h.exec_nop hsp hk hwf
  case nopIllegal => exact fun hwf => h.exec_nop_illegal hsp hk hwf
  case mov => exact fun hwf hs hd => h.exec_mov hsp hk hwf hs hd rfl
  case movIllegal => exact fun hbad => h.exec_mov_illegal hsp hk hbad
  case jmp => exact fun hwf => ⟨fun a ha => h.exec_jmp hsp hk hwf ha, fun ha => h.exec_jmp_illegal hsp hk ha⟩
  case jc =>
    intro hwf lanes met a ha
    have hmet := Native.jcMet_iff (n := n) (x := x) (k := k) (q := q) hwf (lanes := lanes) rfl
    obtain ⟨hjump, hpass⟩ := h.exec_jc hsp hk hwf ha
    exact ⟨fun hm => hjump (hmet.mpr hm), fun hm => hpass (Bool.eq_false_iff.mpr (mt hmet.mp hm))⟩
  case jal => exact fun hwf a ha => ⟨_, h.exec_jal hsp hk hwf ha, Native.jalTo_frame n1 (x.loneDest n k q 0x1C7 sl) _ a sl.dst⟩
  case jr => exact fun hwf => ⟨fun h16 hlen => h.exec_jr hsp hk hwf rfl h16 hlen, fun hbad => h.exec_jr_illegal hsp hk rfl hbad⟩
  case bcs => exact fun hk h0 h4 hwf hs hd => h.exec_bcs hsp hk h0 h4 hwf hs hd
  case spst =>
    rintro e rfl he hwf hs
    exact ⟨fun hin => h.exec_spst hsp hwf hs he hin, fun hout => h.exec_spst_illegal hsp he hout⟩
  case spld =>
    rintro e rfl he hwf hd hp ht hin key m
    have hx := h.exec_spld hsp hwf hd hp ht he hin (a := key) rfl (m := m) rfl
    exact ⟨fun hc => hx.trans (congrArg _ (if_neg (Bool.eq_false_iff.mp hc))), fun hc => hx.trans (congrArg _ (if_pos hc))⟩
  case lcfg =>
    rintro e rfl he hwf wb wsz
    exact ⟨fun hb => h.exec_lcfg hsp hwf he hb, fun hb => h.exec_lcfg_illegal hsp he hb⟩

end Sys2Proof.Machine
end


section
/-!
PROOFS. The instructions that read a format block (O36) and the matrix products (O37): what their meanings end in at each check, and
what the values that they define hold.
-/

namespace Sys2Proof

open Sys2Proof.Machine

/-! ## What the operands of a fitting instruction are -/

section
variable {op : Op} {f : Fields} {x : Site} {c : Cur} {fm : Form} {i : OpIn}

theorem Fits.x_eq (h : Fits op f x c fm i) : i.x = x := (Machine.Fits.spec h).1
theorem Fits.tile_eq (h : Fits op f x c fm i) : i.tile = x.tile := congrArg Site.tile h.x_eq
theorem Fits.md_eq (h : Fits op f x c fm i) : i.md = f.md.toNat := (Machine.Fits.spec h).2.2.2.1
theorem Fits.f_eq (h : Fits op f x c fm i) : i.f = f := (Machine.Fits.spec h).2.2.2.2

theorem Fits.form (h : Fits op f x c fm i) : op.form f.typ.toNat f.md.toNat = some fm := by
  obtain ⟨ty, -, hform, -⟩ := h
  exact hform

theorem Fits.argC (h : Fits op f x c fm i) : fetchArg c fm.c f.c = some i.c := by
  obtain ⟨ty, -, -, hi⟩ := h
  unfold fetchOperands at hi
  split at hi
  · rename_i hc _
    cases hi
    exact hc
  · cases hi

end

end Sys2Proof

namespace Sys2Proof.Machine

open Sys2Proof

/-! ## How an operation's result ends at its place -/

section
variable {op : Op} {f : Fields} {s t : State} {x : Site} {fr : Frame} {c : Cur} {fm : Form} {i : OpIn}

theorem runOp_wait (h : AtPlace s x fr c) (hf : Fits op f x c fm i) (hw : op.core i s = .wait t) : runOp op f s = .next t := by
  rw [runOp_fits h hf, hw]; rfl

theorem runOp_trapFormat (h : AtPlace s x fr c) (hf : Fits op f x c fm i) (ht : op.core i s = trapFormat) :
    runOp op f s = .next (s.takeParkTrap x i.mask 2 (Lanes.all 0)) := by
  rw [runOp_fits h hf, ht]; rfl

/-- An operation whose value stands in every lane that holds a path (log entries 29, 51). -/
theorem completesBy_everyPath {T : Ty} {v : Value} {P : Fin 32 → Nat → Prop} (h : AtPlace s x fr c) (hf : Fits op f x c fm i)
    (hpass : fm.pass = .everyPath) (hcore : op.core i s = .done t v) (hv : v.ty = T) (hP : ∀ k, P k (v.nat k)) :
    CompletesBy (runOp op f s) t x op.opc T (BitVec.allOnes 32) (fun _ => 0) P := by
  refine ⟨_, runOp_done h hf hcore, by rw [placeValue_ty, hv], fun k => ?_⟩
  have hk : LaneMask.has (BitVec.allOnes 32) k.val = true := (BitVec.getLsbD_allOnes ..).trans (decide_eq_true k.isLt)
  by_cases hp : 32 * x.w.wav + k.val < x.launch.lanes
  · rw [if_pos (by simpa [holdsPath] using hp), if_pos hk]
    simpa [placeValue, hpass, hf.x_eq, Value.nat, existMask_has, hp] using hP k
  · simp [placeValue, hpass, hf.x_eq, Value.nat, existMask_has, holdsPath, hp]

end

/-- The form that an operation has at a legal TYP and MOD. -/
theorem formFor_eq {ts : List Ty} {typ : Nat} {ok : Bool} {g : Ty → Form} {fm : Form} (h : formFor ts typ ok g = some fm) :
    ∃ T ∈ ts, fm = g T := by
  unfold formFor at h
  split at h
  · rename_i T _
    split at h
    · rename_i hok
      cases h
      exact ⟨T, by simpa using (Bool.and_eq_true_iff.mp hok).1, rfl⟩
    · cases h
  · cases h

theorem fetchArg_need_ty {c : Cur} {ts : List Ty} {r : Ref} {v : Value} (h : fetchArg c (.need ts) r = some v) : v.ty ∈ ts := by
  simp only [fetchArg] at h
  split at h
  · cases h
  · split at h
    · split at h
      · rename_i hty
        cases h
        simpa using hty
      · cases h
    · cases h

/-! ## Reading a format block -/

section
variable {s s1 : State} {x : Site} {b va : Nat}

/-- 02 R41: before the last quarter a try reads one quarter and waits. -/
theorem State.fetchBlock_quarter (hr : s.readBlock x false va = .ok (s1, b)) (hq : x.wave.quarters.length < 3) :
    s.fetchBlock x va = .error (.wait (s1.modWave x.w fun w => { w with
      quarters := x.wave.quarters ++ [b / 2 ^ (128 * x.wave.quarters.length) % 2 ^ 128] })) := by
  have hw : 128 * x.wave.quarters.length + 127 + 1 - 128 * x.wave.quarters.length = 128 := by omega
  simp [State.fetchBlock, hr, hq, bitsOf, hw, Nat.shiftRight_eq_div_pow]

end

theorem fragLane_fba (row fba : Nat) : fragLane row fba / 2 ^ 1536 = fba % 2 ^ 64 := by
  rw [fragLane, Nat.add_mul_div_right _ _ (Nat.two_pow_pos _), Nat.div_eq_of_lt (Nat.mod_lt _ (Nat.two_pow_pos _)), Nat.zero_add]

theorem fragLane_row (row fba : Nat) : fragLane row fba % 2 ^ 1536 = row % 2 ^ 1536 := by
  rw [fragLane, Nat.add_mul_mod_self_right, Nat.mod_mod]

theorem fragLane_lt (row fba : Nat) : fragLane row fba < 2 ^ 1600 := by
  have hr : row % 2 ^ 1536 < 2 ^ 1536 := Nat.mod_lt _ (Nat.two_pow_pos _)
  have hf : fba % 2 ^ 64 < 2 ^ 64 := Nat.mod_lt _ (Nat.two_pow_pos _)
  calc fragLane row fba < 2 ^ 1536 + fba % 2 ^ 64 * 2 ^ 1536 := Nat.add_lt_add_right hr _
    _ = (fba % 2 ^ 64 + 1) * 2 ^ 1536 := by ring
    _ ≤ 2 ^ 64 * 2 ^ 1536 := Nat.mul_le_mul_right _ hf
    _ = 2 ^ 1600 := by rw [← pow_add]

/-- A lane of a value of fragments is its fragment. -/
theorem nat_lanesOf_frag (row fba : Fin 32 → Nat) (k : Fin 32) :
    (lanesOf .frag fun k => fragLane (row k) (fba k)).nat k = fragLane (row k) (fba k) := by
  rw [lanesOf, Value.nat_tab]
  exact Nat.mod_eq_of_lt (fragLane_lt _ _)

/-- What a lane finds in a list of the active lanes is what is picked for it. -/
theorem pickLane_ofLane {α : Type} {m : LaneMask} {xs : List α} {k : Fin 32} {y : α} (h : OfLane m xs k y) : pickLane m xs k = some y := by
  obtain ⟨j, hk, hy⟩ := h
  obtain ⟨hj, rfl⟩ := List.getElem?_eq_some_iff.mp hk
  obtain ⟨hj', rfl⟩ := List.getElem?_eq_some_iff.mp hy
  have hnd : m.list.Nodup := (List.nodup_finRange 32).filter _
  have hfind : (m.list.zip xs).find? (fun e => e.1 == m.list[j]) = some (m.list[j], xs[j]) := by
    refine List.find?_eq_some_iff_getElem.mpr ⟨by simp, j, by simp [hj, hj'], by simp, fun i hi => ?_⟩
    have hne : m.list[i] ≠ m.list[j] := fun he => absurd ((hnd.getElem_inj_iff).mp he) (Nat.ne_of_lt hi)
    simpa using hne
  simp [pickLane, hfind]

/-! ## The instructions of O36 -/

section
variable {s s1 s2 : State} {x : Site} {fr : Frame} {c : Cur} {f : Fields} {fm : Form} {i : OpIn} {b : Nat}

theorem mask_beq_zero {m : LaneMask} (h : m ≠ 0) : (m == 0) = false := by simpa using h

theorem coreFmtld_eq (hm : i.mask ≠ 0) (hr : s.readBlock i.x true (i.low i.a) = .ok (s1, b)) :
    coreFmtld i s = match blockTrap b true with | some r => r | none => .done s1 (splat .fmt b) := by
  simp only [coreFmtld, mask_beq_zero hm, hr]
  rfl

theorem coreLdFrag_done (hm : i.mask ≠ 0) (hr : s.readBlock i.x true (i.low i.b) = .ok (s1, b)) (ht : blockTrap b true = none)
    {bs : List (List Byte)}
    (ha : s1.readAcc i.x winsAll 16 (i.laneAcc (rowBytes (fmtHalf b (i.md % 2)).fmt (prodK (fmtHalf b 0).fmt (fmtHalf b 1).fmt))) =
      .ok (s2, bs)) :
    coreLdFrag i s = .done s2 (lanesOf .frag fun k =>
      fragLane (if i.mask.has k.val then ofLe ((pickLane i.mask bs k).getD []) else 0) (i.low i.b)) := by
  simp only [coreLdFrag, mask_beq_zero hm, hr, ht, ha]
  rfl

/-- 12 R258: a fence holds no op that has begun to read its block. -/
def unheld (s : State) (x : Site) : Prop := (s.tile x.tile).fenced 2 s.nextId = false ∨ x.wave.quarters ≠ []

theorem unheld.not_held (h : unheld s x) : (x.wave.quarters == [] && (s.tile x.tile).fenced 2 s.nextId) = false := by
  rcases h with h | h
  · simp [h]
  · simp [h]

theorem coreTcvt_unread (hx : i.x = x) (hm : i.mask ≠ 0) (hu : unheld s x) {e : OpRes} (hr : s.fetchBlock x (i.low i.b) = .error e) :
    coreTcvt i s = e := by
  subst hx
  have hf : (i.x.wave.quarters == [] && (s.tile i.tile).fenced 2 s.nextId) = false := hu.not_held
  simp only [coreTcvt, mask_beq_zero hm, hf, hr]
  rfl

theorem coreTcvt_badFormat (hx : i.x = x) (hm : i.mask ≠ 0) (hu : unheld s x) (hr : s.fetchBlock x (i.low i.b) = .ok (s1, b))
    (ht : blockTrap b true = none) (h10 : (fmtHalf b (i.md / 4 % 2)).fmt ≠ 10) (h11 : (fmtHalf b (i.md / 4 % 2)).fmt ≠ 11) :
    coreTcvt i s = trapFormat := by
  subst hx
  have hf : (i.x.wave.quarters == [] && (s.tile i.tile).fenced 2 s.nextId) = false := hu.not_held
  have hn : ((fmtHalf b (i.md / 4 % 2)).fmt != 10 && (fmtHalf b (i.md / 4 % 2)).fmt != 11) = true := by simp [h10, h11]
  simp only [coreTcvt, mask_beq_zero hm, hf, hr, ht, hn]
  rfl

/-- A tile's row as `tcvt` converts it (08 R188): its 64 bytes and its flags. -/
def OpIn.tcvtOut (i : OpIn) (blk : Nat) (k : Fin 32) : Nat × Nat :=
  tcvtRow (if (fmtHalf blk (i.md / 4 % 2)).fmt == 10 then .bf16 else .f16) (i.md / 16) (i.md / 8 % 2 == 1) (i.a.nat k)

/-- The fragment row that `tcvt` leaves in a lane. -/
def OpIn.tcvtInto (i : OpIn) (blk : Nat) (k : Fin 32) : Nat :=
  let row := if i.c.ty == .frag then fragRow (i.c.nat k) else 0
  if i.mask.has k.val then putSlot row (i.md % 4) (i.tcvtOut blk k).1 else row

theorem coreTcvt_done (hx : i.x = x) (hm : i.mask ≠ 0) (hu : unheld s x) (hr : s.fetchBlock x (i.low i.b) = .ok (s1, b))
    (ht : blockTrap b true = none) (hh : (fmtHalf b (i.md / 4 % 2)).fmt = 10 ∨ (fmtHalf b (i.md / 4 % 2)).fmt = 11) :
    coreTcvt i s = .done (s1.orIeee x.w (lanesFlags i.mask fun k => (i.tcvtOut b k).2))
      (lanesOf .frag fun k => fragLane (i.tcvtInto b k) (i.low i.b)) := by
  subst hx
  have hf : (i.x.wave.quarters == [] && (s.tile i.tile).fenced 2 s.nextId) = false := hu.not_held
  have hn : ((fmtHalf b (i.md / 4 % 2)).fmt != 10 && (fmtHalf b (i.md / 4 % 2)).fmt != 11) = false := by
    rcases hh with h | h <;> simp [h]
  simp only [coreTcvt, mask_beq_zero hm, hf, hr, ht, hn]
  rfl

end

/-- Settles O36. -/
theorem formatBlockInstructions : Obligations.FormatBlockInstructions := by
  unfold Obligations.FormatBlockInstructions
  intro s s1 x fr c f fm i b hx hm
  refine ⟨fun hf hr => ?fmtld, fun s2 bs hf hr ht ha => ?ldFrag, fun hf hu hr hq => ?quarter, fun hf hu hr ht => ?tcvt⟩
  case fmtld =>
    have hcore := coreFmtld_eq hm (hf.x_eq ▸ hr)
    obtain ⟨_, -, rfl⟩ := formFor_eq hf.form
    refine ⟨fun ht => ?_, fun ht => ?_⟩
    · rw [ht] at hcore
      exact completesBy_everyPath hx hf rfl hcore rfl fun k => Value.nat_tab .fmt _ k
    · rw [ht] at hcore
      exact runOp_trapFormat hx hf hcore
  case ldFrag =>
    rw [← hf.md_eq] at ha
    have hcore := coreLdFrag_done hm (hf.x_eq ▸ hr) ht (hf.x_eq ▸ ha)
    obtain ⟨_, -, rfl⟩ := formFor_eq hf.form
    refine completesBy_everyPath hx hf rfl hcore rfl fun k => ?_
    rw [nat_lanesOf_frag, fragLane_fba, fragLane_row]
    refine ⟨rfl, ?_⟩
    split
    · intro r hr
      rw [pickLane_ofLane hr, Option.getD_some]
    · exact Nat.zero_mod _
  case quarter => exact runOp_wait hx hf (coreTcvt_unread hf.x_eq hm hu (State.fetchBlock_quarter hr hq))
  case tcvt =>
    rw [← hf.md_eq]
    refine ⟨fun h10 h11 => runOp_trapFormat hx hf (coreTcvt_badFormat hf.x_eq hm hu hr ht h10 h11), fun hh => ?_⟩
    have hcore := coreTcvt_done hf.x_eq hm hu hr ht hh
    obtain ⟨_, -, rfl⟩ := formFor_eq hf.form
    exact ⟨_, completesBy_everyPath hx hf rfl hcore rfl fun k => by rw [nat_lanesOf_frag, fragLane_fba]⟩

/-! ## Products at issue (08 R180) -/

theorem coreMma_idle {l2 : Bool} {i : OpIn} {s : State} (hm : i.mask = 0) : coreMma l2 i s = .done s i.c := by
  simp only [coreMma, hm]
  rfl

section
variable {l2 : Bool} {s s1 : State} {x : Site} {f : Fields} {i : OpIn} {b : Nat}

/-- An active product whose issue neither a fence nor its pacing holds back, and which follows no fault (12 R258; log entry 55). -/
structure ProductIssues (s : State) (x : Site) (i : OpIn) : Prop where
  site : i.x = x
  active : i.mask ≠ 0
  unheld : unheld s x
  paced : s.paceOk x.tile 2 (i.gaps s).pmma = true
  fresh : x.wave.replay = false

theorem ProductIssues.not_held (h : ProductIssues s x i) :
    ((i.x.wave.quarters == [] && (s.tile i.tile).fenced 2 s.nextId) || !s.paceOk i.tile 2 (i.gaps s).pmma) = false := by
  obtain ⟨rfl, -, hu, hp, -⟩ := h
  have hu' : (i.x.wave.quarters == [] && (s.tile i.tile).fenced 2 s.nextId) = false := hu.not_held
  have hp' : s.paceOk i.tile 2 (i.gaps s).pmma = true := hp
  rw [hu', hp']
  rfl

theorem ProductIssues.coreMma_quarter (h : ProductIssues s x i) {t : State} (hr : s.fetchBlock x i.fba = .error (.wait t)) :
    coreMma l2 i s = .wait t := by
  have hn := h.not_held
  obtain ⟨rfl, hm, -, -, hf⟩ := h
  simp only [coreMma, mask_beq_zero hm, hn, hf, Bool.false_eq_true, if_false, hr]

/-- A product that has been issued with a format block. -/
def OpIn.product (i : OpIn) (l2 : Bool) (id blk : Nat) : Staged :=
  { id := id, l2 := l2, md := i.f.md, mask := i.mask, a := i.a, b := i.b, c := i.c, fmt := BitVec.ofNat 512 blk, fetched := [] }

/-- The state in which a product has been issued: its wave holds it in flight. -/
def State.issueProduct (s : State) (x : Site) (g : Staged) : State :=
  { (s.noteStart x.tile 2).modWave x.w fun w => { w with staged := some g, mode := .mma } with nextId := s.nextId + 1 }

theorem ProductIssues.coreMma_issue (h : ProductIssues s x i) (hr : s.fetchBlock x i.fba = .ok (s1, b))
    (hb : blockTrap b ((fmtHalf b 0).fmt == i.md / 2 % 16) = none) (hp : productTrap i l2 b = none) :
    coreMma l2 i s = .wait (s1.issueProduct x (i.product l2 s1.nextId b)) := by
  have hn := h.not_held
  obtain ⟨rfl, hm, -, -, hf⟩ := h
  simp only [coreMma, mask_beq_zero hm, hn, hf, Bool.false_eq_true, if_false, hr, hb, hp]
  rfl

theorem State.issueProduct_mem (s : State) (x : Site) (g : Staged) : (s.issueProduct x g).mem = s.mem := by
  simp [State.issueProduct, State.noteStart, State.modTile]

theorem State.wave?_issueProduct {s : State} {x : Site} {y : Wave} (g : Staged) (h : s.wave? x.w = some y) :
    (s.issueProduct x g).wave? x.w = some { y with mode := .mma, staged := some g } := by
  have hn : (s.noteStart x.tile 2).wave? x.w = some y := h
  have hm := State.wave?_setWave hn { y with staged := some g, mode := .mma }
  rw [← State.modWave_eq hn fun w => { w with staged := some g, mode := .mma }] at hm
  exact hm

end

/-! ## Products at completion (08 R184) -/

/-- A wave that already waits as asked is in focus. -/
theorem State.focusOn_self {s : State} {w : WaveRef} {p : WaveMode → Option Staged → Bool} {y : Wave} (h : s.wave? w = some y)
    (hp : p y.mode y.staged = true) : s.focusOn w p = s := by
  simp [State.focusOn, h, hp]

theorem execMmaComplete_eq {s s1 : State} {w : WaveRef} {x : Site} {g : Staged} {cs : List (Nat × List Byte)} {v : Value}
    (hx : s.site? w = some x) (hg : x.wave.staged = some g) (hmode : x.wave.mode = .mma) (hf : (s.tile x.tile).fenced 2 g.id = false)
    (hr : s.fetchRest x g.fetched g.chunks = .ok (s1, cs)) (hv : g.product cs = some v) :
    execMmaComplete w s =
      .next ((s1.modWave w fun y => { y with staged := none }).release w (if g.l2 then 0x119 else 0x118) (x.inLanes v)) := by
  obtain ⟨-, -, -, hw⟩ := State.site_spec hx
  have hfocus : s.focusOn w (fun m _ => m == .mma) = s := State.focusOn_self hw (by simp [hmode])
  have hc : (x.wave.mode != .mma || (s.tile x.tile).fenced 2 g.id) = false := by simp [hmode, hf]
  simp only [execMmaComplete, hfocus, hx, hg, hc, hr, hv]
  rfl

/-! ## The obligation -/

section
variable {opc : Nat} {l2 : Bool} {s s1 : State} {x : Site} {fr : Frame} {c : Cur} {f : Fields} {fm : Form} {i : OpIn} {blk : Nat}

theorem runOp_mma_idle (hx : AtPlace s x fr c) (hf : Fits (mmaOp opc l2) f x c fm i) (hm : i.mask = 0) :
    CompletesBy (runOp (mmaOp opc l2) f s) s x opc .tile 0 i.c.nat fun _ _ => True := by
  have hcore : (mmaOp opc l2).core i s = .done s i.c := coreMma_idle hm
  have hc := hf.argC
  obtain ⟨_, -, rfl⟩ := formFor_eq hf.form
  have hty : i.c.ty = .tile := by simpa using fetchArg_need_ty hc
  refine ⟨_, runOp_done hx hf hcore, by rw [placeValue_ty, hty], ?_⟩
  rw [← hf.x_eq, ← hm]
  exact lanewise_opC rfl rfl fun _ _ => trivial

theorem runOp_mma_quarter (hx : AtPlace s x fr c) (hf : Fits (mmaOp opc l2) f x c fm i) (hi : ProductIssues s x i)
    (hr : s.readBlock x false i.fba = .ok (s1, blk)) (hq : x.wave.quarters.length < 3) :
    runOp (mmaOp opc l2) f s = .next (s1.modWave x.w fun w => { w with
      quarters := x.wave.quarters ++ [blk / 2 ^ (128 * x.wave.quarters.length) % 2 ^ 128] }) :=
  runOp_wait hx hf (hi.coreMma_quarter (State.fetchBlock_quarter hr hq))

theorem runOp_mma_issue (hx : AtPlace s x fr c) (hf : Fits (mmaOp opc l2) f x c fm i) (hi : ProductIssues s x i)
    (hr : s.fetchBlock x i.fba = .ok (s1, blk)) (hb : blockTrap blk ((fmtHalf blk 0).fmt == f.md.toNat / 2 % 16) = none)
    (hp : productTrap i l2 blk = none) :
    ∃ t, runOp (mmaOp opc l2) f s = .next t ∧ t.nextId = s1.nextId + 1 ∧ t.mem = s1.mem ∧
      ∀ y, s1.wave? x.w = some y → t.wave? x.w = some { y with
        mode := .mma
        staged := some { id := s1.nextId, l2 := l2, md := f.md, mask := i.mask, a := i.a, b := i.b, c := i.c,
                         fmt := BitVec.ofNat 512 blk, fetched := [] } } := by
  refine ⟨_, runOp_wait hx hf (hi.coreMma_issue hr (hf.md_eq ▸ hb) hp), rfl, State.issueProduct_mem _ _ _, fun y hy => ?_⟩
  rw [State.wave?_issueProduct _ hy, OpIn.product, hf.f_eq]

end

/-- Settles O37. -/
theorem matrixProducts : Obligations.MatrixProducts := by
  unfold Obligations.MatrixProducts
  intro s x
  refine ⟨fun e he fr c f fm i s1 blk hx hf => ?issue, fun w g s1 cs v hs hg hmode hfen hr hv => ?complete⟩
  case issue =>
    have hrow : ∃ opc l2, e.2 = mmaOp opc l2 ∧ (opc == 0x119) = l2 ∧ ∀ f s, exec (e.1 f) s = runOp e.2 f s := by
      simp only [List.mem_cons, List.not_mem_nil, or_false] at he
      rcases he with rfl | rfl
      · exact ⟨0x118, false, rfl, rfl, fun _ _ => rfl⟩
      · exact ⟨0x119, true, rfl, rfl, fun _ _ => rfl⟩
    obtain ⟨con, op⟩ := e
    obtain ⟨opc, l2, rfl, rfl, hexec⟩ := hrow
    rw [hexec]
    exact ⟨runOp_mma_idle hx hf, fun hm hu hp hw => runOp_mma_quarter hx hf ⟨hf.x_eq, hm, hu, hp, hw⟩,
      fun hm hu hp hw => runOp_mma_issue hx hf ⟨hf.x_eq, hm, hu, hp, hw⟩⟩
  case complete => exact execMmaComplete_eq hs hg hmode hfen hr hv

end Sys2Proof.Machine
end

section
/-!
PROOFS. Rounding to a grid (02 R21): what the four rounding codes do between two neighbours of an increasing sequence, and the
magnitudes of a format as such a sequence.
-/

namespace Sys2Proof.Machine

open Sys2Proof

/-! ## Rounding to the terms of an increasing sequence -/

/-- 02 R21: a magnitude x between two neighbours goes to the upper one, where c is the index of the lower one. -/
def GoesUp (rd : Nat) (neg : Bool) (c : Nat) (lo hi x : ℝ) : Prop :=
  match rd with
  | 0 => lo + hi < 2 * x ∨ 2 * x = lo + hi ∧ c % 2 = 1
  | 1 => False
  | 2 => neg = false ∧ lo < x
  | _ => neg = true ∧ lo < x

/-- The magnitude x of a value of a sign is rounded to term r of a sequence g. -/
def RoundsOn (g : Nat → ℝ) (rd : Nat) (neg : Bool) (x : ℝ) (r : Nat) : Prop :=
  ∃ c, g c ≤ x ∧ x < g (c + 1) ∧ (r = c ∧ ¬GoesUp rd neg c (g c) (g (c + 1)) x ∨ r = c + 1 ∧ GoesUp rd neg c (g c) (g (c + 1)) x)

/-- Does a rounding code round the magnitudes of a sign down, and up? -/
def roundsDown (rd : Nat) (neg : Bool) : Prop := rd = 1 ∨ rd = 2 ∧ neg = true ∨ rd = 3 ∧ neg = false
def roundsAway (rd : Nat) (neg : Bool) : Prop := rd = 2 ∧ neg = false ∨ rd = 3 ∧ neg = true

theorem GoesUp.lo_lt {rd : Nat} {neg : Bool} {c : Nat} {lo hi x : ℝ} (h : GoesUp rd neg c lo hi x) (hlt : lo < hi) : lo < x := by
  unfold GoesUp at h
  split at h
  · rcases h with h | ⟨h, -⟩ <;> linarith
  · exact h.elim
  · exact h.2
  · exact h.2

theorem GoesUp.scale {rd : Nat} {neg : Bool} {c c' : Nat} {lo hi x a : ℝ} (ha : 0 < a) (hc : c % 2 = c' % 2) :
    GoesUp rd neg c (lo * a) (hi * a) (x * a) ↔ GoesUp rd neg c' lo hi x := by
  have hmul : ∀ u v : ℝ, u * a < v * a ↔ u < v := fun u v => mul_lt_mul_iff_left₀ ha
  have heq : ∀ u v : ℝ, u * a = v * a ↔ u = v := fun u v => mul_left_inj' ha.ne'
  have hsum : lo * a + hi * a = (lo + hi) * a := by ring
  have htwo : 2 * (x * a) = 2 * x * a := by ring
  unfold GoesUp
  split
  · rw [hsum, htwo, hmul, heq, hc]
  · exact Iff.rfl
  · rw [hmul]
  · rw [hmul]

section
variable {g : Nat → ℝ} {rd : Nat} {neg : Bool} {x : ℝ} {r c : Nat}

theorem RoundsOn.le_of_le (h : RoundsOn g rd neg x r) (hg : StrictMono g) (hx : x ≤ g c) : r ≤ c := by
  obtain ⟨l, hlo, hhi, ⟨rfl, -⟩ | ⟨rfl, hup⟩⟩ := h
  · exact hg.le_iff_le.mp (hlo.trans hx)
  · exact hg.lt_iff_lt.mp ((hup.lo_lt (hg l.lt_succ_self)).trans_le hx)

theorem RoundsOn.ge_of_ge (h : RoundsOn g rd neg x r) (hg : StrictMono g) (hx : g c ≤ x) : c ≤ r := by
  obtain ⟨l, hlo, hhi, hr⟩ := h
  have hcl : c < l + 1 := hg.lt_iff_lt.mp (hx.trans_lt hhi)
  omega

theorem RoundsOn.eq_of_eq (h : RoundsOn g rd neg (g c) r) (hg : StrictMono g) : r = c :=
  Nat.le_antisymm (h.le_of_le hg le_rfl) (h.ge_of_ge hg le_rfl)

theorem RoundsOn.self (hg : StrictMono g) : RoundsOn g rd neg (g c) c :=
  ⟨c, le_rfl, hg c.lt_succ_self, .inl ⟨rfl, fun h => lt_irrefl _ (h.lo_lt (hg c.lt_succ_self))⟩⟩

/-- Rounding looks at nothing but how a value stands to the terms about it and to their middle. -/
theorem RoundsOn.congr {y : ℝ} (h : RoundsOn g rd neg x r)
    (hxy : ∀ l, g l ≤ x → x < g (l + 1) → g l ≤ y ∧ y < g (l + 1) ∧ (g l < x ↔ g l < y) ∧
      (g l + g (l + 1) < 2 * x ↔ g l + g (l + 1) < 2 * y) ∧ (2 * x = g l + g (l + 1) ↔ 2 * y = g l + g (l + 1))) :
    RoundsOn g rd neg y r := by
  obtain ⟨l, hlo, hhi, hr⟩ := h
  obtain ⟨ylo, yhi, hlt, hmid, heq⟩ := hxy l hlo hhi
  have hup : GoesUp rd neg l (g l) (g (l + 1)) x ↔ GoesUp rd neg l (g l) (g (l + 1)) y := by
    unfold GoesUp
    split
    · rw [hmid, heq]
    · exact Iff.rfl
    · rw [hlt]
    · rw [hlt]
  exact ⟨l, ylo, yhi, by rwa [← hup]⟩

/-- To nearest: no other term is closer, and of two that are as close the even one is taken. -/
theorem RoundsOn.nearest (h : RoundsOn g 0 neg x r) (hg : StrictMono g) (c : Nat) :
    |g r - x| ≤ |g c - x| ∧ (c ≠ r → |g r - x| = |g c - x| → r % 2 = 0) := by
  obtain ⟨l, hlo, hhi, hr⟩ := h
  have hc : g c ≤ g l ∧ (c ≠ l → g c < g l) ∨ g (l + 1) ≤ g c ∧ (c ≠ l + 1 → g (l + 1) < g c) := by
    rcases Nat.lt_or_ge l c with hlc | hlc
    · exact .inr ⟨hg.monotone hlc, fun hne => hg (by omega)⟩
    · exact .inl ⟨hg.monotone hlc, fun hne => hg (by omega)⟩
  have hl : |g l - x| = x - g l := by rw [abs_sub_comm, abs_of_nonneg (by linarith)]
  have hh : |g (l + 1) - x| = g (l + 1) - x := abs_of_nonneg (by linarith)
  have hcx : g c ≤ g l → |g c - x| = x - g c := fun h => by rw [abs_sub_comm, abs_of_nonneg (by linarith)]
  have hxc : g (l + 1) ≤ g c → |g c - x| = g c - x := fun h => abs_of_nonneg (by linarith)
  simp only [GoesUp, not_or, not_and, not_lt] at hr
  rcases hr with ⟨rfl, hmid, hodd⟩ | ⟨rfl, hup⟩
  · rw [hl]
    rcases hc with ⟨hc, hne⟩ | ⟨hc, hne⟩
    · rw [hcx hc]
      exact ⟨by linarith, fun hcr he => absurd (hne hcr) (by linarith)⟩
    · rw [hxc hc]
      refine ⟨by linarith, fun _ he => ?_⟩
      have := hodd (by linarith)
      omega
  · rw [hh]
    rcases hc with ⟨hc, hne⟩ | ⟨hc, hne⟩
    · rw [hcx hc]
      refine ⟨by rcases hup with h | ⟨h, -⟩ <;> linarith, fun _ he => ?_⟩
      rcases hup with h | ⟨-, h⟩
      · linarith
      · omega
    · rw [hxc hc]
      exact ⟨by linarith, fun hcr he => absurd (hne hcr) (by linarith)⟩

/-- To nearest, a value no nearer to an odd term than to the next one leaves the odd term below. -/
theorem RoundsOn.gt_of_middle (h : RoundsOn g 0 neg x r) (hg : StrictMono g) (hodd : c % 2 = 1) (hx : g c + g (c + 1) ≤ 2 * x) :
    c < r := by
  obtain ⟨l, hlo, hhi, hr⟩ := h
  have hcl : c < l + 1 := hg.lt_iff_lt.mp (by have := hg c.lt_succ_self; simp only [Nat.succ_eq_add_one] at this; linarith)
  rcases hr with ⟨rfl, hup⟩ | ⟨rfl, -⟩
  · refine lt_of_le_of_ne (Nat.lt_succ_iff.mp hcl) fun he => hup ?_
    subst he
    exact hx.lt_or_eq.imp id fun he => ⟨he.symm, hodd⟩
  · exact hcl

theorem RoundsOn.down (h : RoundsOn g rd neg x r) (hg : StrictMono g) (hd : roundsDown rd neg) :
    g r ≤ x ∧ ∀ c, g c ≤ x → g c ≤ g r := by
  refine ⟨?_, fun c hc => hg.monotone (h.ge_of_ge hg hc)⟩
  obtain ⟨l, hlo, -, ⟨rfl, -⟩ | ⟨-, hup⟩⟩ := h
  · exact hlo
  · rcases hd with rfl | ⟨rfl, rfl⟩ | ⟨rfl, rfl⟩ <;> simp [GoesUp] at hup

theorem RoundsOn.up (h : RoundsOn g rd neg x r) (hg : StrictMono g) (hu : roundsAway rd neg) :
    x ≤ g r ∧ ∀ c, x ≤ g c → g r ≤ g c := by
  refine ⟨?_, fun c hc => hg.monotone (h.le_of_le hg hc)⟩
  obtain ⟨l, hlo, hhi, ⟨rfl, hup⟩ | ⟨rfl, -⟩⟩ := h
  · rcases hu with ⟨rfl, rfl⟩ | ⟨rfl, rfl⟩ <;> simpa [GoesUp] using hup
  · exact hhi.le

end

/-! ## The magnitudes of a format, in units of its smallest subnormal (02 R20) -/

/-- The magnitude of the code c of a format's pattern without its sign, and so on beyond the largest finite one. -/
def FloatFmt.mag (f : FloatFmt) (c : Nat) : Nat :=
  if c / 2 ^ f.mb = 0 then c % 2 ^ f.mb else (2 ^ f.mb + c % 2 ^ f.mb) * 2 ^ (c / 2 ^ f.mb - 1)

/-- A significand m in units of 2^j is the magnitude of one code; a significand that a carry has made one bit longer is too. -/
theorem FloatFmt.mag_scaled (f : FloatFmt) {j m : Nat} (hm : m ≤ 2 ^ (f.mb + 1)) (hj : j = 0 ∨ 2 ^ f.mb ≤ m) :
    f.mag (j * 2 ^ f.mb + m) = m * 2 ^ j := by
  have hB : 0 < 2 ^ f.mb := Nat.two_pow_pos _
  have hdiv : ∀ k r, r < 2 ^ f.mb → (k * 2 ^ f.mb + r) / 2 ^ f.mb = k ∧ (k * 2 ^ f.mb + r) % 2 ^ f.mb = r := fun k r hr =>
    ⟨by rw [Nat.add_comm, Nat.add_mul_div_right _ _ hB, Nat.div_eq_of_lt hr, Nat.zero_add],
     by rw [Nat.add_comm, Nat.add_mul_mod_self_right, Nat.mod_eq_of_lt hr]⟩
  rw [pow_succ] at hm
  rcases Nat.lt_or_ge m (2 ^ f.mb) with hlt | hge
  · obtain rfl : j = 0 := by omega
    obtain ⟨hd, hr⟩ := hdiv 0 m hlt
    rw [FloatFmt.mag, hd, hr, if_pos rfl, pow_zero, mul_one]
  rcases Nat.lt_or_ge m (2 ^ f.mb * 2) with hlt2 | hge2
  · have hc : j * 2 ^ f.mb + m = (j + 1) * 2 ^ f.mb + (m - 2 ^ f.mb) := by rw [Nat.add_mul]; omega
    obtain ⟨hd, hr⟩ := hdiv (j + 1) (m - 2 ^ f.mb) (by omega)
    have hs : 2 ^ f.mb + (m - 2 ^ f.mb) = m := by omega
    simp [FloatFmt.mag, hc, hd, hr, hs]
  · obtain rfl : m = 2 ^ f.mb * 2 := Nat.le_antisymm hm hge2
    have hc : j * 2 ^ f.mb + 2 ^ f.mb * 2 = (j + 2) * 2 ^ f.mb + 0 := by ring
    obtain ⟨hd, hr⟩ := hdiv (j + 2) 0 hB
    rw [hc, FloatFmt.mag, hd, hr, if_neg (by omega)]
    simp [pow_succ]
    ring

theorem FloatFmt.exists_scaled (f : FloatFmt) (c : Nat) :
    ∃ j m, c = j * 2 ^ f.mb + m ∧ m < 2 ^ (f.mb + 1) ∧ (j = 0 ∨ 2 ^ f.mb ≤ m) := by
  have hr : c % 2 ^ f.mb < 2 ^ f.mb := Nat.mod_lt _ (Nat.two_pow_pos _)
  have hc : c = c / 2 ^ f.mb * 2 ^ f.mb + c % 2 ^ f.mb := (Nat.div_add_mod' c _).symm
  have h2 : 2 ^ (f.mb + 1) = 2 ^ f.mb * 2 := pow_succ 2 f.mb
  rcases hd : c / 2 ^ f.mb with _ | k
  · exact ⟨0, c % 2 ^ f.mb, by rw [hd] at hc; exact hc, by omega, .inl rfl⟩
  · refine ⟨k, 2 ^ f.mb + c % 2 ^ f.mb, ?_, by omega, .inr (by omega)⟩
    rw [hd, Nat.add_mul] at hc
    omega

theorem FloatFmt.mag_strictMono (f : FloatFmt) : StrictMono f.mag := by
  refine strictMono_nat_of_lt_succ fun c => ?_
  obtain ⟨j, m, rfl, hm, hj⟩ := f.exists_scaled c
  rw [Nat.add_assoc, f.mag_scaled hm.le hj, f.mag_scaled hm (hj.imp id fun h => Nat.le_succ_of_le h)]
  exact Nat.mul_lt_mul_of_pos_right m.lt_succ_self (Nat.two_pow_pos j)

@[simp] theorem FloatFmt.mag_zero (f : FloatFmt) : f.mag 0 = 0 := by simp [FloatFmt.mag]

/-- The magnitudes of a format among the reals. -/
def FloatFmt.grid (f : FloatFmt) (c : Nat) : ℝ := f.mag c

theorem FloatFmt.grid_strictMono (f : FloatFmt) : StrictMono f.grid := fun _ _ h => Nat.cast_lt.mpr (f.mag_strictMono h)

@[simp] theorem FloatFmt.grid_zero (f : FloatFmt) : f.grid 0 = 0 := by simp [FloatFmt.grid]

theorem FloatFmt.grid_normal (f : FloatFmt) : f.grid (2 ^ f.mb) = 2 ^ f.mb := by
  have h := f.mag_scaled (j := 0) (m := 2 ^ f.mb) (Nat.pow_le_pow_right two_pos (Nat.le_succ _)) (.inl rfl)
  rw [Nat.zero_mul, Nat.zero_add, pow_zero, mul_one] at h
  rw [FloatFmt.grid, h]
  push_cast
  rfl

theorem FloatFmt.grid_nonneg (f : FloatFmt) (c : Nat) : 0 ≤ f.grid c := Nat.cast_nonneg _

end Sys2Proof.Machine
end

section
/-!
PROOFS. Exact values as real numbers (02 R19-R21; 07 R145): what a finite value holds, and that `rnd` rounds it to the grid of its
format.
-/

namespace Sys2Proof.Machine

open Sys2Proof

/-! ## Finite values -/

/-- A magnitude with a sign. -/
def signedBy (s : Bool) (r : ℝ) : ℝ := if s then -r else r

@[simp] theorem signedBy_false (r : ℝ) : signedBy false r = r := rfl
@[simp] theorem signedBy_true (r : ℝ) : signedBy true r = -r := rfl
@[simp] theorem signedBy_zero (s : Bool) : signedBy s 0 = 0 := by cases s <;> simp
@[simp] theorem abs_signedBy (s : Bool) (r : ℝ) : |signedBy s r| = |r| := by cases s <;> simp
theorem signedBy_eq_zero {s : Bool} {r : ℝ} : signedBy s r = 0 ↔ r = 0 := by cases s <;> simp
theorem signedBy_mul (s : Bool) (r a : ℝ) : signedBy s r * a = signedBy s (r * a) := by cases s <;> simp
theorem signedBy_not (s : Bool) (r : ℝ) : signedBy (!s) r = -signedBy s r := by cases s <;> simp
theorem signedBy_mul_signedBy (s t : Bool) (r q : ℝ) : signedBy s r * signedBy t q = signedBy (s != t) (r * q) := by
  cases s <;> cases t <;> simp

/-- The magnitude n / d × 2^e. -/
noncomputable def ratio (n d : Nat) (e : Int) : ℝ := (n : ℝ) / d * 2 ^ e

theorem ratio_nonneg (n d : Nat) (e : Int) : 0 ≤ ratio n d e := by unfold ratio; positivity

theorem ratio_eq_zero {n d : Nat} {e : Int} (hd : 0 < d) : ratio n d e = 0 ↔ n = 0 := by
  have h2 : (2 : ℝ) ^ e ≠ 0 := by positivity
  have hd' : (d : ℝ) ≠ 0 := by positivity
  simp [ratio, h2, hd.ne']

theorem ratio_pos {n d : Nat} {e : Int} (hn : 0 < n) (hd : 0 < d) : 0 < ratio n d e := by unfold ratio; positivity

/-- An exact value is finite, of a sign, and is the number r. -/
def Exact.Holds (v : Exact) (s : Bool) (r : ℝ) : Prop := ∃ n d e, v = .fin s n d e ∧ 0 < d ∧ r = signedBy s (ratio n d e)

/-! ## The binary exponent of a ratio -/

theorem log2_bounds {n : Nat} (hn : 0 < n) : 2 ^ Nat.log2 n ≤ n ∧ n < 2 ^ (Nat.log2 n + 1) :=
  ⟨Nat.log2_self_le hn.ne', Nat.lt_log2_self⟩

/-- The comparison by which `floorLog2` settles its guess k. -/
theorem pow_le_ratio_iff {n d : Nat} (hd : 0 < d) (k : Int) : d * 2 ^ k.toNat ≤ n * 2 ^ (-k).toNat ↔ (2 : ℝ) ^ k ≤ ratio n d 0 := by
  have hd' : (0 : ℝ) < d := by positivity
  have hk : (2 : ℝ) ^ k = 2 ^ k.toNat / 2 ^ (-k).toNat := by
    rw [eq_div_iff (by positivity), ← zpow_natCast, ← zpow_natCast, ← zpow_add₀ two_ne_zero]
    congr 1
    omega
  rw [hk, ratio, zpow_zero, mul_one, div_le_div_iff₀ (by positivity) hd', ← Nat.cast_le (α := ℝ)]
  push_cast
  rw [mul_comm]

theorem floorLog2_spec {n d : Nat} (hn : 0 < n) (hd : 0 < d) :
    (2 : ℝ) ^ floorLog2 n d ≤ ratio n d 0 ∧ ratio n d 0 < 2 ^ (floorLog2 n d + 1) := by
  obtain ⟨hn1, hn2⟩ := log2_bounds hn
  obtain ⟨hd1, hd2⟩ := log2_bounds hd
  have hnr : (2 : ℝ) ^ Nat.log2 n ≤ n ∧ (n : ℝ) < 2 ^ (Nat.log2 n + 1) := ⟨by exact_mod_cast hn1, by exact_mod_cast hn2⟩
  have hdr : (2 : ℝ) ^ Nat.log2 d ≤ d ∧ (d : ℝ) < 2 ^ (Nat.log2 d + 1) := ⟨by exact_mod_cast hd1, by exact_mod_cast hd2⟩
  have hd0 : (0 : ℝ) < d := by positivity
  have hpow : ∀ a b : Nat, (2 : ℝ) ^ ((a : Int) - b) = 2 ^ a / 2 ^ b := fun a b => by
    rw [zpow_sub₀ two_ne_zero, zpow_natCast, zpow_natCast]
  have hq : ratio n d 0 = (n : ℝ) / d := by simp [ratio]
  have hlow : (2 : ℝ) ^ ((Nat.log2 n : Int) - Nat.log2 d - 1) ≤ ratio n d 0 := by
    have he : (Nat.log2 n : Int) - Nat.log2 d - 1 = (Nat.log2 n : Int) - (Nat.log2 d + 1 : Nat) := by push_cast; ring
    rw [he, hpow, hq, div_le_div_iff₀ (by positivity) hd0]
    exact mul_le_mul hnr.1 hdr.2.le hd0.le (by positivity)
  have hhigh : ratio n d 0 < 2 ^ ((Nat.log2 n : Int) - Nat.log2 d + 1) := by
    have he : (Nat.log2 n : Int) - Nat.log2 d + 1 = (Nat.log2 n + 1 : Nat) - (Nat.log2 d : Int) := by push_cast; ring
    rw [he, hpow, hq, div_lt_div_iff₀ hd0 (by positivity)]
    exact mul_lt_mul hnr.2 hdr.1 (by positivity) (by positivity)
  unfold floorLog2
  extract_lets k a b
  split
  · rename_i hk
    exact ⟨(pow_le_ratio_iff hd k).mp hk, hhigh⟩
  · rename_i hk
    refine ⟨hlow, ?_⟩
    rw [sub_add_cancel]
    exact not_le.mp fun h => hk ((pow_le_ratio_iff hd k).mpr h)

/-! ## Rounding at a unit -/

/-- `divShift` divides: the quotient, the remainder and the divisor of n / d × 2^sh. -/
theorem divShift_spec (n : Nat) {d : Nat} (hd : 0 < d) (sh : Int) :
    ∃ q r b, divShift n d sh = (q, r, b) ∧ 0 < b ∧ r < b ∧ ratio n d sh = q + (r : ℝ) / b := by
  have hb : 0 < d * 2 ^ (-sh).toNat := Nat.mul_pos hd (Nat.two_pow_pos _)
  refine ⟨_, _, _, rfl, hb, Nat.mod_lt _ hb, ?_⟩
  have hsh : (2 : ℝ) ^ sh = 2 ^ sh.toNat / 2 ^ (-sh).toNat := by
    rw [eq_div_iff (by positivity), ← zpow_natCast, ← zpow_natCast, ← zpow_add₀ two_ne_zero]
    congr 1
    omega
  have hmod := Nat.div_add_mod (n * 2 ^ sh.toNat) (d * 2 ^ (-sh).toNat)
  have hb' : ((d * 2 ^ (-sh).toNat : Nat) : ℝ) ≠ 0 := by positivity
  have hcast : ((n * 2 ^ sh.toNat : Nat) : ℝ) = (d * 2 ^ (-sh).toNat : Nat) * ((n * 2 ^ sh.toNat / (d * 2 ^ (-sh).toNat) : Nat) : ℝ) +
      ((n * 2 ^ sh.toNat % (d * 2 ^ (-sh).toNat) : Nat) : ℝ) := by exact_mod_cast hmod.symm
  have hval : ratio n d sh = ((n * 2 ^ sh.toNat : Nat) : ℝ) / (d * 2 ^ (-sh).toNat : Nat) := by
    rw [ratio, hsh]
    push_cast
    rw [div_mul_div_comm]
  rw [hval, hcast, add_div, mul_div_cancel_left₀ _ hb']

theorem roundsUp_iff {rd : Nat} {neg : Bool} {q r b : Nat} (hb : 0 < b) :
    roundsUp rd neg q r b = true ↔ GoesUp rd neg q q (q + 1 : Nat) (q + (r : ℝ) / b) := by
  have hb' : (0 : ℝ) < b := by positivity
  have hhalf : (b : ℝ) < 2 * r ↔ (q : ℝ) + (q + 1 : Nat) < 2 * (q + (r : ℝ) / b) := by
    have : 2 * ((q : ℝ) + r / b) = 2 * q + 2 * r / b := by ring
    rw [this, ← one_lt_div hb']
    push_cast
    constructor <;> intro h <;> linarith
  have htie : 2 * (r : ℝ) = b ↔ 2 * (q + (r : ℝ) / b) = (q : ℝ) + (q + 1 : Nat) := by
    have : 2 * ((q : ℝ) + r / b) = 2 * q + 2 * r / b := by ring
    rw [this, ← div_eq_one_iff_eq hb'.ne']
    push_cast
    constructor <;> intro h <;> linarith
  have hpos : r ≠ 0 ↔ (q : ℝ) < q + (r : ℝ) / b := by
    rw [lt_add_iff_pos_right, div_pos_iff_of_pos_right hb', Nat.cast_pos, Nat.pos_iff_ne_zero]
  unfold roundsUp GoesUp
  split
  · rw [← hhalf, ← htie]
    simp only [Bool.or_eq_true, decide_eq_true_eq, Bool.and_eq_true, beq_iff_eq]
    norm_cast
  · simp
  · rw [← hpos]
    simp
  · rename_i h0 h1 h2
    rw [← hpos]
    simp

/-- `roundAt` rounds to whole multiples of its unit. -/
theorem roundAt_rounds (rd : Nat) (neg : Bool) (n : Nat) {d : Nat} (hd : 0 < d) (e q : Int) :
    RoundsOn (fun m => (m : ℝ)) rd neg (ratio n d (e - q)) (roundAt rd neg n d e q).1 := by
  obtain ⟨m, r, b, hdiv, hb, hrb, hval⟩ := divShift_spec n hd (e - q)
  have hb' : (0 : ℝ) < b := by positivity
  have hfrac : (r : ℝ) / b < 1 := (div_lt_one hb').mpr (by exact_mod_cast hrb)
  have hfrac0 : 0 ≤ (r : ℝ) / b := by positivity
  have hup := roundsUp_iff (rd := rd) (neg := neg) (q := m) (r := r) hb
  refine ⟨m, by rw [hval]; linarith, by rw [hval]; push_cast; linarith, ?_⟩
  rw [hval, ← hup]
  simp only [roundAt, hdiv]
  cases roundsUp rd neg m r b <;> simp

end Sys2Proof.Machine
end

section
/-!
PROOFS. `rnd` (07 R145) rounds to the grid of its format: the code that it packs, when it overflows, and when it flushes.
-/

namespace Sys2Proof.Machine

open Sys2Proof

/-! ## The widths of a format -/

/-- A format of at least one fraction bit and two exponent bits. -/
structure FloatFmt.Wide (f : FloatFmt) : Prop where
  mb : 1 ≤ f.mb
  eb : 2 ≤ f.eb

theorem floatFmt_wide (T : Ty) : (floatFmt T).Wide := by
  cases T <;> exact ⟨by decide, by decide⟩

/-- A format's unit, the smallest subnormal, is 2^-K: this K. -/
def FloatFmt.unitExp (f : FloatFmt) : Nat := f.mb + f.bias - 1

/-- The sign of a pattern, in its place. -/
def FloatFmt.signPat (f : FloatFmt) (s : Bool) : Nat := if s then f.signBit else 0

section
variable {f : FloatFmt}

theorem FloatFmt.Wide.bias_pos (h : f.Wide) : 1 ≤ f.bias := by
  have h2 : 2 ^ 1 ≤ 2 ^ (f.eb - 1) := Nat.pow_le_pow_right (by decide) (by have := h.eb; omega)
  unfold FloatFmt.bias
  omega

theorem FloatFmt.Wide.two_pow_eb (h : f.Wide) : 2 ^ f.eb = 2 * f.bias + 2 := by
  have he := h.eb
  have hp : 2 ^ f.eb = 2 ^ (f.eb - 1) * 2 := by rw [← pow_succ]; congr 1; omega
  have h1 := h.bias_pos
  unfold FloatFmt.bias at *
  omega

theorem FloatFmt.Wide.infBits_eq (h : f.Wide) : f.infBits = (2 * f.bias + 1) * 2 ^ f.mb := by
  rw [FloatFmt.infBits, h.two_pow_eb]
  congr 1

theorem FloatFmt.Wide.emin_eq (h : f.Wide) : f.emin = (f.mb : Int) - f.unitExp := by
  have h1 := h.bias_pos
  unfold FloatFmt.emin FloatFmt.unitExp
  omega

/-- The finite codes of a format stand below its sign bit. -/
theorem FloatFmt.infBits_lt_signBit (f : FloatFmt) : f.infBits + 2 ^ f.mb = f.signBit := by
  rw [FloatFmt.infBits, FloatFmt.signBit, pow_add, Nat.sub_mul, one_mul]
  exact Nat.sub_add_cancel (Nat.le_mul_of_pos_left _ (Nat.two_pow_pos _))

end

/-! ## From whole significands to codes -/

section
variable {f : FloatFmt} {rd : Nat} {neg : Bool} {y : ℝ} {j m : Nat}

/-- A significand rounded to a whole number in units of 2^j is a code rounded to the grid. -/
theorem RoundsOn.toGrid (h : RoundsOn (fun m => (m : ℝ)) rd neg y m) (hf : f.Wide) (hy : y < 2 ^ (f.mb + 1))
    (hj : j = 0 ∨ 2 ^ f.mb ≤ y) :
    RoundsOn f.grid rd neg (y * 2 ^ j) (j * 2 ^ f.mb + m) ∧ m ≤ 2 ^ (f.mb + 1) ∧ (j = 0 ∨ 2 ^ f.mb ≤ m) := by
  have hmono : StrictMono fun m : Nat => (m : ℝ) := Nat.strictMono_cast
  have hm : m ≤ 2 ^ (f.mb + 1) := h.le_of_le hmono (by push_cast; exact hy.le)
  have hjm : j = 0 ∨ 2 ^ f.mb ≤ m := hj.imp id fun h2 => h.ge_of_ge hmono (by push_cast; exact h2)
  refine ⟨?_, hm, hjm⟩
  obtain ⟨l, hlo, hhi, hr⟩ := h
  replace hlo : (l : ℝ) ≤ y := hlo
  replace hhi : y < (l + 1 : Nat) := hhi
  have hl : l < 2 ^ (f.mb + 1) := by exact_mod_cast hlo.trans_lt hy
  have hjl : j = 0 ∨ 2 ^ f.mb ≤ l := hj.imp id fun h2 => Nat.lt_succ_iff.mp (by exact_mod_cast h2.trans_lt hhi)
  have hg : f.grid (j * 2 ^ f.mb + l) = l * 2 ^ j := by
    rw [FloatFmt.grid, f.mag_scaled hl.le hjl]; push_cast; rfl
  have hg1 : f.grid (j * 2 ^ f.mb + l + 1) = (l + 1 : Nat) * 2 ^ j := by
    rw [FloatFmt.grid, Nat.add_assoc, f.mag_scaled hl (hjl.imp id Nat.le_succ_of_le)]; push_cast; rfl
  have hpos : (0 : ℝ) < 2 ^ j := by positivity
  have hpar : (j * 2 ^ f.mb + l) % 2 = l % 2 := by
    obtain ⟨k, hk⟩ : 2 ∣ j * 2 ^ f.mb := (dvd_pow_self 2 (by have := hf.mb; omega)).mul_left j
    omega
  refine ⟨j * 2 ^ f.mb + l, ?_, ?_, ?_⟩
  · rw [hg]
    exact mul_le_mul_of_nonneg_right hlo hpos.le
  · rw [hg1]
    exact mul_lt_mul_of_pos_right hhi hpos
  · rw [hg, hg1, GoesUp.scale hpos hpar]
    exact hr.imp (And.imp_left fun h => by rw [h]) (And.imp_left fun h => by rw [h, Nat.add_assoc])

/-- A significand after a carry, and its unit. -/
def carried (f : FloatFmt) (m : Nat) (q : Int) : Nat × Int := if m = 2 ^ (f.mb + 1) then (2 ^ f.mb, q + 1) else (m, q)

theorem FloatFmt.Wide.pack_carried (hf : f.Wide) (hm : m ≤ 2 ^ (f.mb + 1)) (hj : j = 0 ∨ 2 ^ f.mb ≤ m) :
    f.pack neg (carried f m (j - f.unitExp)).1 (carried f m (j - f.unitExp)).2 = f.signPat neg + (j * 2 ^ f.mb + m) := by
  have hb := hf.bias_pos
  have h2 : 2 ^ (f.mb + 1) = 2 ^ f.mb * 2 := pow_succ 2 f.mb
  have hmul : (j + 1) * 2 ^ f.mb = j * 2 ^ f.mb + 2 ^ f.mb := Nat.succ_mul _ _
  have hmul2 : (j + 2) * 2 ^ f.mb = j * 2 ^ f.mb + 2 ^ f.mb + 2 ^ f.mb := by ring
  have hpack : ∀ (m' k : Nat) (q : Int), 2 ^ f.mb ≤ m' → q + f.mb + f.bias = k →
      f.pack neg m' q = f.signPat neg + (k * 2 ^ f.mb + (m' - 2 ^ f.mb)) := fun m' k q hm' hk => by
    simp only [FloatFmt.pack, Nat.not_lt.mpr hm', if_false, hk, Int.toNat_natCast, FloatFmt.signPat, Nat.add_assoc]
  rcases Nat.lt_or_ge m (2 ^ f.mb) with hlt | hge
  · obtain rfl : j = 0 := by omega
    rw [carried, if_neg (by omega), FloatFmt.pack, if_pos hlt, FloatFmt.signPat, Nat.zero_mul, Nat.zero_add]
  rcases hm.lt_or_eq with hlt | rfl
  · rw [carried, if_neg hlt.ne, hpack m (j + 1) _ hge (by unfold FloatFmt.unitExp; push_cast; omega)]
    omega
  · rw [carried, if_pos rfl, hpack (2 ^ f.mb) (j + 2) _ le_rfl (by unfold FloatFmt.unitExp; push_cast; omega)]
    omega

theorem FloatFmt.Wide.overflows_iff (hf : f.Wide) (hm : m ≤ 2 ^ (f.mb + 1)) (hj : j = 0 ∨ 2 ^ f.mb ≤ m) :
    (f.bias : Int) < (carried f m (j - f.unitExp)).2 + f.mb ↔ f.infBits ≤ j * 2 ^ f.mb + m := by
  have hb := hf.bias_pos
  have h2 : 2 ^ (f.mb + 1) = 2 ^ f.mb * 2 := pow_succ 2 f.mb
  have hB : 0 < 2 ^ f.mb := Nat.two_pow_pos _
  rw [hf.infBits_eq, ← Nat.le_div_iff_mul_le hB, Nat.mul_comm j, Nat.mul_add_div hB]
  unfold carried FloatFmt.unitExp
  split
  · have hd : m / 2 ^ f.mb = 2 := Nat.div_eq_of_lt_le (by omega) (by omega)
    simp only [hd]
    omega
  · rcases Nat.lt_or_ge m (2 ^ f.mb) with hlt | hge
    · have hd : m / 2 ^ f.mb = 0 := Nat.div_eq_of_lt hlt
      simp only [hd]
      omega
    · have hd : m / 2 ^ f.mb = 1 := Nat.div_eq_of_lt_le (by omega) (by omega)
      simp only [hd]
      omega

end

/-! ## `rnd` of a finite value -/

theorem ratio_add (n d : Nat) (e k : Int) : ratio n d (e + k) = ratio n d e * 2 ^ k := by
  rw [ratio, ratio, zpow_add₀ two_ne_zero, mul_assoc]

/-- The binary exponent of a positive magnitude. -/
theorem binExp_spec {n d : Nat} (hn : 0 < n) (hd : 0 < d) (e : Int) :
    (2 : ℝ) ^ (floorLog2 n d + e) ≤ ratio n d e ∧ ratio n d e < 2 ^ (floorLog2 n d + e + 1) := by
  obtain ⟨h1, h2⟩ := floorLog2_spec hn hd
  have he : ratio n d e = ratio n d 0 * 2 ^ e := by rw [← ratio_add, zero_add]
  have hpos : (0 : ℝ) < 2 ^ e := by positivity
  rw [he, add_right_comm, zpow_add₀ two_ne_zero, zpow_add₀ two_ne_zero (floorLog2 n d + 1)]
  exact ⟨mul_le_mul_of_nonneg_right h1 hpos.le, mul_lt_mul_of_pos_right h2 hpos⟩

/-- The significand of a magnitude of exponent E in units of 2^j of a format's unit: it has mb + 1 bits, or is a subnormal's. -/
theorem significand_spec {f : FloatFmt} (hf : f.Wide) {n d j : Nat} {e E : Int} (hlo : (2 : ℝ) ^ E ≤ ratio n d e)
    (hhi : ratio n d e < 2 ^ (E + 1)) (hj : max E f.emin - f.mb = (j : Int) - f.unitExp) :
    ratio n d (e - (j - f.unitExp)) < 2 ^ (f.mb + 1) ∧ (j = 0 ∨ 2 ^ f.mb ≤ ratio n d (e - (j - f.unitExp))) ∧
      ratio n d (e - (j - f.unitExp)) * 2 ^ j = ratio n d e * 2 ^ f.unitExp := by
  have hemin := hf.emin_eq
  have hone : (1 : ℝ) ≤ 2 := by norm_num
  have hunit : (0 : ℝ) < 2 ^ (-((j : Int) - f.unitExp)) := by positivity
  have hy : ratio n d (e - (j - f.unitExp)) = ratio n d e * 2 ^ (-((j : Int) - f.unitExp)) := by rw [← ratio_add, ← sub_eq_add_neg]
  have hscaled : ∀ k : Int, (2 : ℝ) ^ k * 2 ^ (-((j : Int) - f.unitExp)) = 2 ^ (k - (j - f.unitExp)) := fun k => by
    rw [← zpow_add₀ two_ne_zero, ← sub_eq_add_neg]
  refine ⟨?_, ?_, ?_⟩
  · rw [hy, ← zpow_natCast]
    refine (mul_lt_mul_of_pos_right hhi hunit).trans_le ?_
    rw [hscaled]
    exact zpow_le_zpow_right₀ hone (by push_cast; omega)
  · rcases Nat.eq_zero_or_pos j with h0 | hpos
    · exact .inl h0
    · rw [hy, ← zpow_natCast]
      refine .inr (le_trans ?_ (mul_le_mul_of_nonneg_right hlo hunit.le))
      rw [hscaled]
      exact zpow_le_zpow_right₀ hone (by omega)
  · rw [← zpow_natCast, ← zpow_natCast, ← ratio_add, ← ratio_add]
    congr 1
    ring

/-- The pattern of a rounded code of a sign: the format's overflow result where the code lies beyond the finite ones. -/
def FloatFmt.delivered (f : FloatFmt) (rd : Nat) (s : Bool) (code : Nat) : Nat :=
  if f.infBits ≤ code then f.overflow rd s else f.signPat s + code

theorem rnd_zero (T : Ty) (rd : Nat) (ftz s : Bool) (d : Nat) (e : Int) :
    (rnd T rd ftz (.fin s 0 d e)).1 = (floatFmt T).signPat s := by
  simp [rnd, FloatFmt.signPat]

/-- What `rnd` makes of a positive magnitude that it does not flush. -/
theorem rnd_kept {T : Ty} {rd : Nat} {ftz s : Bool} {n d : Nat} {e : Int} (hn : 0 < n)
    (hfl : (decide (floorLog2 n d + e < (floatFmt T).emin) && flushes T ftz) = false) :
    (rnd T rd ftz (.fin s n d e)).1 =
      let f := floatFmt T
      let q := max (floorLog2 n d + e) f.emin - f.mb
      let r := carried f (roundAt rd s n d e q).1 q
      if (f.bias : Int) < r.2 + f.mb then f.overflow rd s else f.pack s r.1 r.2 := by
  simp only [rnd, hn.ne', hfl, if_false, carried, Bool.false_eq_true]
  split_ifs <;> rfl

/-- What `rnd` makes of a positive magnitude that it flushes, where the exponent is unbounded. -/
theorem rnd_flushed {T : Ty} {rd : Nat} {ftz s : Bool} {n d : Nat} {e : Int} (hn : 0 < n)
    (hfl : (decide (floorLog2 n d + e < (floatFmt T).emin) && flushes T ftz) = true) :
    (rnd T rd ftz (.fin s n d e)).1 =
      let f := floatFmt T
      let q := floorLog2 n d + e - f.mb
      let r := carried f (roundAt rd s n d e q).1 q
      if r.2 + f.mb < f.emin then f.signPat s else f.pack s r.1 r.2 := by
  simp only [rnd, hn.ne', hfl, if_true, if_false, carried, FloatFmt.signPat]
  split_ifs <;> rfl

section
variable {T : Ty} {rd : Nat} {ftz s : Bool} {v : Exact} {r : ℝ}

/-- 02 R21, 07 R145: `rnd` rounds a value that it does not flush to the grid of the format. -/
theorem Exact.Holds.rnd_rounds (hv : v.Holds s r) (rd : Nat)
    (hfl : flushes T ftz = true → r = 0 ∨ 2 ^ (floatFmt T).mb ≤ |r| * 2 ^ (floatFmt T).unitExp) :
    ∃ code, RoundsOn (floatFmt T).grid rd s (|r| * 2 ^ (floatFmt T).unitExp) code ∧
      (rnd T rd ftz v).1 = (floatFmt T).delivered rd s code := by
  obtain ⟨n, d, e, rfl, hd, rfl⟩ := hv
  have hf := floatFmt_wide T
  generalize hF : floatFmt T = f at *
  rw [abs_signedBy, abs_of_nonneg (ratio_nonneg n d e), signedBy_eq_zero] at *
  rcases Nat.eq_zero_or_pos n with rfl | hn
  · refine ⟨0, ?_, ?_⟩
    · have hz : ratio 0 d e * 2 ^ f.unitExp = f.grid 0 := by simp [ratio]
      rw [hz]
      exact RoundsOn.self f.grid_strictMono
    · have hi : ¬f.infBits ≤ 0 := by
        rw [hf.infBits_eq, Nat.le_zero]
        positivity
      rw [rnd_zero, hF, FloatFmt.delivered, if_neg hi, Nat.add_zero]
  obtain ⟨hlo, hhi⟩ := binExp_spec hn hd e
  have hkept : (decide (floorLog2 n d + e < (floatFmt T).emin) && flushes T ftz) = false := by
    cases hb : flushes T ftz with
    | false => simp
    | true =>
      rw [hF]
      rcases hfl hb with h0 | hmin
      · exact absurd h0 (ratio_pos hn hd).ne'
      · have hpow : (2 : ℝ) ^ f.emin < 2 ^ (floorLog2 n d + e + 1) := by
          refine lt_of_le_of_lt ?_ hhi
          rw [hf.emin_eq, zpow_sub₀ two_ne_zero, zpow_natCast, zpow_natCast, div_le_iff₀ (by positivity)]
          exact hmin
        have := (zpow_lt_zpow_iff_right₀ (by norm_num : (1 : ℝ) < 2)).mp hpow
        simp only [Bool.and_true, decide_eq_false_iff_not, not_lt]
        omega
  rw [rnd_kept hn hkept, hF]
  obtain ⟨j, hj⟩ : ∃ j : Nat, max (floorLog2 n d + e) f.emin - f.mb = (j : Int) - f.unitExp :=
    ⟨(max (floorLog2 n d + e) f.emin - f.emin).toNat, by have := hf.emin_eq; omega⟩
  obtain ⟨hlt, hge, hy⟩ := significand_spec hf hlo hhi hj
  have hround := roundAt_rounds rd s n hd e (j - f.unitExp)
  obtain ⟨hgrid, hm, hjm⟩ := hround.toGrid hf hlt hge
  rw [hy] at hgrid
  refine ⟨_, hgrid, ?_⟩
  simp only [hj, hf.overflows_iff hm hjm, hf.pack_carried hm hjm]
  rfl

/-- 02 R21 (log entry 69): a value of at most half the smallest normal is flushed to a zero of its sign. -/
theorem Exact.Holds.rnd_flushes (hv : v.Holds s r) (rd : Nat) (hfl : flushes T ftz = true)
    (hr : 2 * (|r| * 2 ^ (floatFmt T).unitExp) ≤ 2 ^ (floatFmt T).mb) : (rnd T rd ftz v).1 = (floatFmt T).signPat s := by
  obtain ⟨n, d, e, rfl, hd, rfl⟩ := hv
  have hf := floatFmt_wide T
  generalize hF : floatFmt T = f at *
  rw [abs_signedBy, abs_of_nonneg (ratio_nonneg n d e)] at hr
  rcases Nat.eq_zero_or_pos n with rfl | hn
  · rw [rnd_zero, hF]
  obtain ⟨hlo, hhi⟩ := binExp_spec hn hd e
  have hle : ratio n d e ≤ 2 ^ (f.emin - 1) := by
    rw [hf.emin_eq, sub_right_comm, zpow_sub₀ two_ne_zero, zpow_natCast, le_div_iff₀ (by positivity), zpow_sub_one₀ two_ne_zero,
      zpow_natCast]
    linarith
  have hE : floorLog2 n d + e ≤ f.emin - 1 := (zpow_le_zpow_iff_right₀ (by norm_num : (1 : ℝ) < 2)).mp (hlo.trans hle)
  have hflush : (decide (floorLog2 n d + e < (floatFmt T).emin) && flushes T ftz) = true := by
    rw [hF, hfl, Bool.and_true, decide_eq_true_eq]
    omega
  rw [rnd_flushed hn hflush, hF]
  have hround := roundAt_rounds rd s n hd e (floorLog2 n d + e - f.mb)
  have hsmall : (carried f (roundAt rd s n d e (floorLog2 n d + e - f.mb)).1 (floorLog2 n d + e - f.mb)).2 + f.mb < f.emin := by
    unfold carried
    split
    · rename_i hcarry
      rcases hE.lt_or_eq with hlt | heq
      · simp only
        omega
      · have hone : ratio n d (e - (floorLog2 n d + e - f.mb)) ≤ ((2 ^ f.mb : Nat) : ℝ) := by
          rw [sub_eq_add_neg, ratio_add, heq]
          push_cast
          calc ratio n d e * 2 ^ (-(f.emin - 1 - f.mb)) ≤ 2 ^ (f.emin - 1) * 2 ^ (-(f.emin - 1 - (f.mb : Int))) :=
                mul_le_mul_of_nonneg_right hle (by positivity)
            _ = 2 ^ f.mb := by rw [← zpow_add₀ two_ne_zero, ← zpow_natCast]; congr 1; ring
        have hle2 := hround.le_of_le Nat.strictMono_cast hone
        rw [hcarry, pow_succ] at hle2
        have := Nat.two_pow_pos f.mb
        omega
    · simp only
      omega
  simp only [hsmall, if_true]

/-- A value below the smallest normal that is flushed goes to a zero or to the smallest normal (log entry 69). -/
theorem Exact.Holds.rnd_below_normal (hv : v.Holds s r) (rd : Nat) (hfl : flushes T ftz = true) (h0 : r ≠ 0)
    (hr : |r| * 2 ^ (floatFmt T).unitExp < 2 ^ (floatFmt T).mb) :
    ∃ code ≤ 2 ^ (floatFmt T).mb, (rnd T rd ftz v).1 = (floatFmt T).signPat s + code := by
  obtain ⟨n, d, e, rfl, hd, rfl⟩ := hv
  have hf := floatFmt_wide T
  generalize hF : floatFmt T = f at *
  rw [abs_signedBy, abs_of_nonneg (ratio_nonneg n d e)] at hr
  have hn : 0 < n := Nat.pos_of_ne_zero fun hn => h0 (by rw [hn]; simp [ratio])
  obtain ⟨hlo, -⟩ := binExp_spec hn hd e
  have hlt : ratio n d e < 2 ^ f.emin := by
    rwa [hf.emin_eq, zpow_sub₀ two_ne_zero, zpow_natCast, zpow_natCast, lt_div_iff₀ (by positivity)]
  have hE : floorLog2 n d + e < f.emin := (zpow_lt_zpow_iff_right₀ (by norm_num : (1 : ℝ) < 2)).mp (hlo.trans_lt hlt)
  have hflush : (decide (floorLog2 n d + e < (floatFmt T).emin) && flushes T ftz) = true := by
    rw [hF, hfl, Bool.and_true, decide_eq_true hE]
  rw [rnd_flushed hn hflush, hF]
  by_cases hsmall : (carried f (roundAt rd s n d e (floorLog2 n d + e - f.mb)).1 (floorLog2 n d + e - f.mb)).2 + f.mb < f.emin
  · exact ⟨0, Nat.zero_le _, by simp only [hsmall, if_true, Nat.add_zero]⟩
  · have hcarry : carried f (roundAt rd s n d e (floorLog2 n d + e - f.mb)).1 (floorLog2 n d + e - f.mb) =
        carried f (2 ^ f.mb) ((0 : Nat) - f.unitExp) := by
      have hemin := hf.emin_eq
      have hne : (2 : Nat) ^ f.mb ≠ 2 ^ (f.mb + 1) := (Nat.pow_lt_pow_right one_lt_two f.mb.lt_succ_self).ne
      unfold carried at hsmall ⊢
      split at hsmall
      · rename_i hc
        rw [if_pos hc, if_neg hne, Prod.mk.injEq]
        simp only at hsmall
        exact ⟨rfl, by omega⟩
      · simp only at hsmall
        omega
    have hpack := hf.pack_carried (neg := s) (j := 0) (Nat.pow_le_pow_right two_pos f.mb.le_succ) (.inl rfl)
    refine ⟨2 ^ f.mb, le_rfl, ?_⟩
    rw [hcarry] at hsmall
    simp only [hcarry, hsmall, if_false, hpack, Nat.zero_mul, Nat.zero_add]

end

end Sys2Proof.Machine
end

section
/-!
PROOFS. Patterns of the IEEE formats (02 R19-R22): a pattern is a sign and a code, and the statements' predicates on patterns say where
its code stands.
-/

namespace Sys2Proof.Machine

open Sys2Proof

/-! ## The widths that the statements name -/

section
variable {T : Ty} (hT : T ∈ tyFlt)
include hT

theorem mem_tyFlt_cases : T = .f32 ∨ T = .f16 ∨ T = .bf16 := by simpa [tyFlt] using hT

theorem fltWidths_eq : fltWidths T = ((floatFmt T).eb, (floatFmt T).mb) := by
  rcases mem_tyFlt_cases hT with rfl | rfl | rfl <;> rfl

theorem bits_eq : T.bits = (floatFmt T).eb + (floatFmt T).mb + 1 := by
  rcases mem_tyFlt_cases hT with rfl | rfl | rfl <;> rfl

theorem unitExp_eq : unitExp T = (floatFmt T).unitExp := by
  rcases mem_tyFlt_cases hT with rfl | rfl | rfl <;> decide

theorem signBit_eq : (floatFmt T).signBit = 2 ^ (T.bits - 1) := by rw [bits_eq hT]; rfl

theorem zeroOf_eq (s : Bool) : zeroOf T s = (floatFmt T).signPat s := by rw [zeroOf, FloatFmt.signPat, signBit_eq hT]

theorem infOf_eq (s : Bool) : infOf T s = (floatFmt T).signPat s + (floatFmt T).infBits := by
  rw [infOf, fltWidths_eq hT, FloatFmt.signPat, signBit_eq hT, Nat.add_comm]
  rfl

theorem canonNan_eq : canonNan T = (floatFmt T).nanBits := by
  rcases mem_tyFlt_cases hT with rfl | rfl | rfl <;> rfl

theorem two_pow_bits_eq : 2 ^ T.bits = 2 * (floatFmt T).signBit := by rw [bits_eq hT, pow_succ, FloatFmt.signBit, Nat.mul_comm]

end

/-! ## A pattern's sign and code -/

/-- The code of a pattern: all its bits but the sign. -/
def FloatFmt.code (f : FloatFmt) (x : Nat) : Nat := x % f.signBit

theorem FloatFmt.code_lt (f : FloatFmt) (x : Nat) : f.code x < f.signBit := Nat.mod_lt _ (Nat.two_pow_pos _)

theorem FloatFmt.code_div (f : FloatFmt) (x : Nat) : f.code x / 2 ^ f.mb = x / 2 ^ f.mb % 2 ^ f.eb := by
  rw [FloatFmt.code, FloatFmt.signBit, Nat.add_comm, pow_add, Nat.mod_mul_right_div_self]

theorem FloatFmt.code_mod (f : FloatFmt) (x : Nat) : f.code x % 2 ^ f.mb = x % 2 ^ f.mb := by
  rw [FloatFmt.code, FloatFmt.signBit, pow_add, Nat.mod_mul_left_mod]

/-- A pattern of a sign and a code. -/
theorem FloatFmt.signPat_add {f : FloatFmt} {s : Bool} {c : Nat} (hc : c < f.signBit) :
    f.code (f.signPat s + c) = c ∧ (f.signPat s + c) / f.signBit % 2 = s.toNat ∧ f.signPat s + c < 2 * f.signBit := by
  have hpos : 0 < f.signBit := Nat.two_pow_pos _
  cases s with
  | false =>
    have hz : f.signPat false + c = c := Nat.zero_add c
    rw [hz]
    exact ⟨Nat.mod_eq_of_lt hc, by rw [Nat.div_eq_of_lt hc]; rfl, by omega⟩
  | true =>
    have hz : f.signPat true + c = f.signBit + c := rfl
    rw [hz]
    exact ⟨by rw [FloatFmt.code, Nat.add_mod_left, Nat.mod_eq_of_lt hc], by rw [Nat.add_div_left _ hpos, Nat.div_eq_of_lt hc]; rfl, by omega⟩

theorem FloatFmt.Wide.infBits_pos {f : FloatFmt} (hf : f.Wide) : 2 ^ f.mb ≤ f.infBits := by
  rw [hf.infBits_eq]
  exact Nat.le_mul_of_pos_left _ (Nat.succ_pos _)

/-- A pattern within its width is its sign and its code. -/
theorem FloatFmt.eq_signPat_add {f : FloatFmt} {x : Nat} (hx : x < 2 * f.signBit) : x = f.signPat (x / f.signBit % 2 == 1) + f.code x := by
  have hdm := Nat.div_add_mod x f.signBit
  have hq : x / f.signBit < 2 := Nat.div_lt_of_lt_mul (by rwa [Nat.mul_comm])
  unfold FloatFmt.signPat FloatFmt.code
  rcases Nat.lt_succ_iff_lt_or_eq.mp hq with h0 | h1
  · rw [Nat.lt_one_iff.mp h0] at hdm ⊢
    simpa using hdm.symm
  · rw [h1] at hdm ⊢
    simpa using hdm.symm

section
variable {T : Ty} (hT : T ∈ tyFlt)
include hT

theorem signOf_eq (x : Nat) : signOf T x = (x / (floatFmt T).signBit % 2 == 1) := by
  rw [signOf, Nat.testBit_eq_decide_div_mod_eq, signBit_eq hT]
  rfl

theorem isFinite_iff (x : Nat) : isFinite T x ↔ (floatFmt T).code x < (floatFmt T).infBits := by
  have hlt : x / 2 ^ (floatFmt T).mb % 2 ^ (floatFmt T).eb < 2 ^ (floatFmt T).eb := Nat.mod_lt _ (Nat.two_pow_pos _)
  rw [isFinite, fltWidths_eq hT, FloatFmt.infBits, ← Nat.div_lt_iff_lt_mul (Nat.two_pow_pos _), FloatFmt.code_div]
  dsimp only
  omega

theorem isInfBits_iff (x : Nat) : isInfBits T x ↔ (floatFmt T).code x = (floatFmt T).infBits := by
  have hs := (floatFmt T).infBits_lt_signBit
  have hlt := (floatFmt T).code_lt x
  have hmod : (floatFmt T).infBits % 2 ^ (floatFmt T).mb = 0 := Nat.mul_mod_left _ _
  have hpos : 0 < 2 ^ (floatFmt T).mb := Nat.two_pow_pos _
  rw [isInfBits, isFinite_iff hT, fltWidths_eq hT, ← FloatFmt.code_mod]
  refine ⟨fun ⟨hge, h0⟩ => ?_, fun h => ⟨by omega, by rw [h, hmod]⟩⟩
  have hsub : ((floatFmt T).code x - (floatFmt T).infBits) % 2 ^ (floatFmt T).mb = 0 := by
    rw [← Nat.sub_add_cancel (Nat.le_of_not_lt hge), Nat.add_mod, hmod] at h0
    simpa using h0
  rw [Nat.mod_eq_of_lt (by omega)] at hsub
  omega

theorem isNanBits_iff (x : Nat) : isNanBits T x ↔ (floatFmt T).infBits < (floatFmt T).code x := by
  have hi := isInfBits_iff hT x
  have hf := isFinite_iff hT x
  have hn : isNanBits T x ↔ ¬isFinite T x ∧ ¬isInfBits T x := by
    unfold isNanBits isInfBits isFinite
    tauto
  rw [hn, hi, hf]
  omega

theorem isSubnormal_iff (x : Nat) : isSubnormal T x ↔ 0 < (floatFmt T).code x ∧ (floatFmt T).code x < 2 ^ (floatFmt T).mb := by
  have hpos : 0 < 2 ^ (floatFmt T).mb := Nat.two_pow_pos _
  rw [isSubnormal, fltWidths_eq hT, ← FloatFmt.code_mod, ← FloatFmt.code_div, Nat.div_eq_zero_iff_lt hpos]
  constructor
  · rintro ⟨hlt, h0⟩
    rw [Nat.mod_eq_of_lt hlt] at h0
    omega
  · rintro ⟨h0, hlt⟩
    rw [Nat.mod_eq_of_lt hlt]
    omega

end

/-! ## A pattern's value -/

/-- The magnitude that in() reads of a code (02 R21). -/
def FloatFmt.magIn (f : FloatFmt) (flush : Bool) (c : Nat) : Nat := if flush = true ∧ c < 2 ^ f.mb then 0 else f.mag c

/-- The statements' units of a pattern are the magnitude of its code with its sign. -/
theorem units_eq {T : Ty} (hT : T ∈ tyFlt) (flush : Bool) (x : Nat) :
    (units T flush x : ℝ) = signedBy (signOf T x) ((floatFmt T).magIn flush ((floatFmt T).code x)) := by
  have hpos : 0 < 2 ^ (floatFmt T).mb := Nat.two_pow_pos _
  have hm : (if x / 2 ^ (floatFmt T).mb % 2 ^ (floatFmt T).eb = 0 then (if flush then 0 else x % 2 ^ (floatFmt T).mb)
      else (2 ^ (floatFmt T).mb + x % 2 ^ (floatFmt T).mb) * 2 ^ (x / 2 ^ (floatFmt T).mb % 2 ^ (floatFmt T).eb - 1)) =
      (floatFmt T).magIn flush ((floatFmt T).code x) := by
    rw [FloatFmt.magIn, FloatFmt.mag, ← FloatFmt.code_div, ← FloatFmt.code_mod]
    simp only [Nat.div_eq_zero_iff_lt hpos]
    cases flush <;> by_cases hlt : (floatFmt T).code x < 2 ^ (floatFmt T).mb <;> simp [hlt]
  unfold units
  simp only [fltWidths_eq hT, hm]
  cases signOf T x <;> simp

/-- A pattern's value by its code. -/
theorem FloatFmt.value_code (f : FloatFmt) (x : Nat) :
    f.value x =
      let e := f.code x / 2 ^ f.mb
      let m := f.code x % 2 ^ f.mb
      let s := x / f.signBit % 2 == 1
      if e = 2 ^ f.eb - 1 then (if m = 0 then .inf s else .nan)
      else if e = 0 then .fin s m 1 (f.emin - f.mb)
      else .fin s (2 ^ f.mb + m) 1 (e - f.bias - f.mb) := by
  simp only [FloatFmt.code_div, FloatFmt.code_mod, FloatFmt.value, beq_iff_eq]

theorem FloatFmt.Wide.value_eq {f : FloatFmt} (hf : f.Wide) (x : Nat) :
    (f.code x < f.infBits → ∃ n e, f.value x = .fin (x / f.signBit % 2 == 1) n 1 e ∧ ratio n 1 e = f.mag (f.code x) / 2 ^ f.unitExp) ∧
    (f.code x = f.infBits → f.value x = .inf (x / f.signBit % 2 == 1)) ∧ (f.infBits < f.code x → f.value x = .nan) := by
  have hpos : 0 < 2 ^ f.mb := Nat.two_pow_pos _
  have hb := hf.bias_pos
  have htwo : 2 ^ f.eb - 1 = 2 * f.bias + 1 := by rw [hf.two_pow_eb]; rfl
  have hdm := Nat.div_add_mod' (f.code x) (2 ^ f.mb)
  have hmod : f.code x % 2 ^ f.mb < 2 ^ f.mb := Nat.mod_lt _ hpos
  have hsb := f.infBits_lt_signBit
  have hlt := f.code_lt x
  simp only [FloatFmt.value_code, htwo, FloatFmt.mag]
  refine ⟨fun hfin => ?_, fun hinf => ?_, fun hnan => ?_⟩
  · have he : ¬f.code x / 2 ^ f.mb = 2 * f.bias + 1 := by
      rw [hf.infBits_eq, ← Nat.div_lt_iff_lt_mul hpos] at hfin
      omega
    have hpow : ∀ k : Nat, (2 : ℝ) ^ ((k : Int) - f.unitExp) = 2 ^ k / 2 ^ f.unitExp := fun k => by
      rw [zpow_sub₀ two_ne_zero, zpow_natCast, zpow_natCast]
    rw [if_neg he]
    split
    · refine ⟨_, _, rfl, ?_⟩
      have hexp : f.emin - (f.mb : Int) = ((0 : Nat) : Int) - f.unitExp := by rw [hf.emin_eq]; push_cast; ring
      rw [ratio, hexp, hpow]
      simp [div_eq_mul_inv]
    · rename_i h0
      refine ⟨_, _, rfl, ?_⟩
      obtain ⟨k, hk⟩ := Nat.exists_eq_succ_of_ne_zero h0
      have hexp : ((f.code x / 2 ^ f.mb : Nat) : Int) - f.bias - f.mb = ((f.code x / 2 ^ f.mb - 1 : Nat) : Int) - f.unitExp := by
        unfold FloatFmt.unitExp
        omega
      rw [ratio, hexp, hpow]
      push_cast
      ring
  · have he : f.code x / 2 ^ f.mb = 2 * f.bias + 1 := by
      rw [hinf, hf.infBits_eq, Nat.mul_div_cancel _ hpos]
    have hm : f.code x % 2 ^ f.mb = 0 := by rw [hinf, hf.infBits_eq, Nat.mul_mod_left]
    rw [if_pos he, if_pos hm]
  · rw [hf.infBits_eq] at hnan hsb
    have he : f.code x / 2 ^ f.mb = 2 * f.bias + 1 :=
      Nat.div_eq_of_lt_le hnan.le (by rw [Nat.succ_mul]; omega)
    have hm : ¬f.code x % 2 ^ f.mb = 0 := by
      rw [he] at hdm
      omega
    rw [if_pos he, if_neg hm]

section
variable {T : Ty} (hT : T ∈ tyFlt)
include hT

theorem isSub_iff (x : Nat) : (floatFmt T).isSub x = true ↔ isSubnormal T x := by
  rw [isSubnormal, fltWidths_eq hT]
  simp [FloatFmt.isSub]

theorem readIn_eq_value {x : Nat} {ftz : Bool} (h : ¬(isSubnormal T x ∧ flushes T ftz = true)) :
    (readIn T ftz x).1 = (floatFmt T).value x := by
  rw [← isSub_iff hT, ← Bool.and_eq_true] at h
  simp only [readIn, h]
  rfl

theorem readIn_flushed {x : Nat} {ftz : Bool} (h : isSubnormal T x) (hfl : flushes T ftz = true) :
    (readIn T ftz x).1 = .fin (signOf T x) 0 1 0 := by
  rw [← isSub_iff hT] at h
  simp only [readIn, h, hfl, signOf_eq hT]
  rfl

theorem not_subnormal {x : Nat} (h : (floatFmt T).infBits ≤ (floatFmt T).code x) : ¬isSubnormal T x := fun hs => by
  have hi := (floatFmt_wide T).infBits_pos
  have := (isSubnormal_iff hT x).mp hs
  omega

/-- 02 R22: in() of a NaN. -/
theorem readIn_nan {x : Nat} (h : isNanBits T x) (ftz : Bool) : (readIn T ftz x).1 = .nan := by
  have hc := (isNanBits_iff hT x).mp h
  rw [readIn_eq_value hT fun hs => not_subnormal hT hc.le hs.1]
  exact ((floatFmt_wide T).value_eq x).2.2 hc

theorem readIn_inf {x : Nat} (h : isInfBits T x) (ftz : Bool) : (readIn T ftz x).1 = .inf (signOf T x) := by
  have hc := (isInfBits_iff hT x).mp h
  rw [readIn_eq_value hT fun hs => not_subnormal hT hc.ge hs.1, signOf_eq hT]
  exact ((floatFmt_wide T).value_eq x).2.1 hc

/-- 02 R20, R21: in() of a finite pattern is its value. -/
theorem readIn_fin {x : Nat} (h : isFinite T x) (ftz : Bool) :
    ∃ n e, (readIn T ftz x).1 = .fin (signOf T x) n 1 e ∧
      ratio n 1 e = (floatFmt T).magIn (flushes T ftz) ((floatFmt T).code x) / 2 ^ (floatFmt T).unitExp := by
  have hc := (isFinite_iff hT x).mp h
  by_cases hs : isSubnormal T x ∧ flushes T ftz = true
  · obtain ⟨hsub, hfl⟩ := hs
    refine ⟨0, 0, readIn_flushed hT hsub hfl, ?_⟩
    simp [FloatFmt.magIn, hfl, ((isSubnormal_iff hT x).mp hsub).2, ratio]
  · obtain ⟨n, e, hval, hratio⟩ := ((floatFmt_wide T).value_eq x).1 hc
    refine ⟨n, e, by rw [readIn_eq_value hT hs, hval, signOf_eq hT], ?_⟩
    rw [hratio, FloatFmt.magIn]
    split
    · rename_i hlow
      have hzero : (floatFmt T).code x = 0 := by
        rw [isSubnormal_iff hT] at hs
        by_contra h0
        exact hs ⟨⟨Nat.pos_of_ne_zero h0, hlow.2⟩, hlow.1⟩
      rw [hzero, FloatFmt.mag_zero]
    · rfl

theorem readIn_holds {x : Nat} (h : isFinite T x) (ftz : Bool) :
    (readIn T ftz x).1.Holds (signOf T x) (units T (flushes T ftz) x / 2 ^ (floatFmt T).unitExp) := by
  obtain ⟨n, e, hv, hr⟩ := readIn_fin hT h ftz
  refine ⟨n, 1, e, hv, one_pos, ?_⟩
  rw [hr, units_eq hT, div_eq_mul_inv, signedBy_mul, ← div_eq_mul_inv]

end

end Sys2Proof.Machine
end

section
/-!
PROOFS. What `rnd` delivers (02 R21; 07 R145): a code rounded to the grid is the pattern that the statements call rounded, and beyond the
finite range and below the normal one the result is the one that they name.
-/

namespace Sys2Proof.Machine

open Sys2Proof

/-! ## Signed terms of a sequence -/

section
variable {g : Nat → ℝ} {X : ℝ} {r : Nat} {s : Bool}

/-- Of signed terms, one that is rounded towards plus infinity is the least that is no less. -/
theorem signed_least (hX : 0 ≤ X) (hg0 : ∀ c, 0 ≤ g c) (hup : s = false → X ≤ g r ∧ ∀ c, X ≤ g c → g r ≤ g c)
    (hdown : s = true → g r ≤ X ∧ ∀ c, g c ≤ X → g c ≤ g r) (hzero : X = 0 → g r = 0) :
    signedBy s X ≤ signedBy s (g r) ∧ ∀ t c, signedBy s X ≤ signedBy t (g c) → signedBy s (g r) ≤ signedBy t (g c) := by
  cases s with
  | false =>
    obtain ⟨hle, hleast⟩ := hup rfl
    refine ⟨hle, fun t c hc => ?_⟩
    cases t with
    | false => exact hleast c hc
    | true =>
      have hgc := hg0 c
      simp only [signedBy_false, signedBy_true] at hc ⊢
      rw [hzero (by linarith)]
      linarith
  | true =>
    obtain ⟨hle, hmost⟩ := hdown rfl
    refine ⟨neg_le_neg hle, fun t c hc => ?_⟩
    have hgr := hg0 r
    cases t with
    | false =>
      have hgc := hg0 c
      simp only [signedBy_false, signedBy_true]
      linarith
    | true => exact neg_le_neg (hmost c (neg_le_neg_iff.mp hc))

/-- Of signed terms, one that is rounded to nearest is the closest. -/
theorem signed_nearest {neg : Bool} (h : RoundsOn g 0 neg X r) (hg : StrictMono g) (hg0 : ∀ c, 0 ≤ g c) (hzero : g 0 = 0)
    (hX : 0 ≤ X) (t : Bool) (c : Nat) :
    |signedBy s (g r) - signedBy s X| ≤ |signedBy t (g c) - signedBy s X| ∧
      (signedBy t (g c) ≠ signedBy s (g r) → |signedBy s (g r) - signedBy s X| = |signedBy t (g c) - signedBy s X| → r % 2 = 0) := by
  obtain ⟨hnear, htie⟩ := h.nearest hg c
  have hself : |signedBy s (g r) - signedBy s X| = |g r - X| := by
    cases s
    · rfl
    · simp only [signedBy_true, neg_sub_neg, abs_sub_comm]
  have hother : |g c - X| ≤ |signedBy t (g c) - signedBy s X| := by
    have habs := abs_abs_sub_abs_le (signedBy t (g c)) (signedBy s X)
    rwa [abs_signedBy, abs_signedBy, abs_of_nonneg (hg0 c), abs_of_nonneg hX] at habs
  rw [hself]
  refine ⟨hnear.trans hother, fun hne heq => ?_⟩
  by_cases hcr : c = r
  · subst hcr
    have hts : t = !s := by
      cases s <;> cases t <;> simp_all
    have hsum : |signedBy t (g c) - signedBy s X| = g c + X := by
      rw [hts, signedBy_not, ← abs_neg, neg_sub, sub_neg_eq_add, add_comm]
      have hadd : signedBy s (g c) + signedBy s X = signedBy s (g c + X) := by cases s <;> simp; ring
      rw [hadd, abs_signedBy, abs_of_nonneg (add_nonneg (hg0 c) hX)]
    rw [hsum] at heq
    have hprod : g c = 0 ∨ X = 0 := by
      have hgc := hg0 c
      rcases abs_cases (g c - X) with ⟨h1, -⟩ | ⟨h1, -⟩
      · exact .inr (by linarith)
      · exact .inl (by linarith)
    rcases hprod with h0 | h0
    · exact absurd (by rw [h0]; simp) hne
    · rw [h0, ← hzero] at h
      rw [h.eq_of_eq hg]
  · exact htie hcr (le_antisymm hnear (hother.trans heq.ge))

end

/-! ## The statements' rounded patterns -/

section
variable {T : Ty} (hT : T ∈ tyFlt)
include hT

theorem units_grid (x : Nat) : (units T false x : ℝ) = signedBy (signOf T x) ((floatFmt T).grid ((floatFmt T).code x)) := by
  rw [units_eq hT]
  simp [FloatFmt.magIn, FloatFmt.grid]

theorem signPat_even (s : Bool) : (floatFmt T).signPat s % 2 = 0 := by
  rcases mem_tyFlt_cases hT with rfl | rfl | rfl <;> cases s <;> decide

theorem signOf_signPat_add {s : Bool} {c : Nat} (hc : c < (floatFmt T).signBit) : signOf T ((floatFmt T).signPat s + c) = s := by
  rw [signOf_eq hT, (FloatFmt.signPat_add hc).2.1]
  cases s <;> rfl

omit hT in
theorem code_lt_signBit {c : Nat} (hc : c < (floatFmt T).infBits) : c < (floatFmt T).signBit := by
  exact hc.trans_le (Nat.le.intro (floatFmt T).infBits_lt_signBit)

theorem units_signPat_add {s : Bool} {c : Nat} (hc : c < (floatFmt T).signBit) :
    (units T false ((floatFmt T).signPat s + c) : ℝ) = signedBy s ((floatFmt T).grid c) := by
  rw [units_grid hT, signOf_signPat_add hT hc, (FloatFmt.signPat_add hc).1]

theorem isFinite_signPat_add {s : Bool} {c : Nat} (hc : c < (floatFmt T).infBits) : isFinite T ((floatFmt T).signPat s + c) := by
  rw [isFinite_iff hT, (FloatFmt.signPat_add (code_lt_signBit hc)).1]
  exact hc

end

/-- The statements' rounded pattern, in the units' real values: N / D is the real number q. -/
theorem rounded_of_real {T : Ty} {rd D d : Nat} {N : Int} {z : Option Bool} {q : ℝ} (hD : 0 < D) (hq : (N : ℝ) = q * D)
    (hd : d < 2 ^ T.bits) (hfin : isFinite T d) (hs : N ≠ 0 → signOf T d = decide (N < 0))
    (hz : ∀ b, N = 0 → z = some b → signOf T d = b)
    (hnear : rd = 0 → ∀ y, |(units T false d : ℝ) - q| ≤ |(units T false y : ℝ) - q| ∧
      ((units T false y : ℝ) ≠ units T false d → |(units T false d : ℝ) - q| = |(units T false y : ℝ) - q| → d % 2 = 0))
    (hcut : rd = 1 → |(units T false d : ℝ)| ≤ |q| ∧
      ∀ y, |(units T false y : ℝ)| ≤ |q| → |(units T false y : ℝ)| ≤ |(units T false d : ℝ)|)
    (hup : rd = 2 → q ≤ units T false d ∧ ∀ y, q ≤ units T false y → (units T false d : ℝ) ≤ units T false y)
    (hdown : rd = 3 → units T false d ≤ q ∧ ∀ y, units T false y ≤ q → (units T false y : ℝ) ≤ units T false d) :
    Rounded T rd N D z d := by
  have hD' : (0 : ℝ) < D := by exact_mod_cast hD
  have hle : ∀ a b : Int, (a * D ≤ b * D ↔ (a : ℝ) ≤ b) := fun a b => by
    rw [mul_le_mul_iff_left₀ (by exact_mod_cast hD), Int.cast_le]
  have hleN : ∀ a : Int, (a * D ≤ N ↔ (a : ℝ) ≤ q) := fun a => by
    rw [← Int.cast_le (R := ℝ), hq]
    push_cast
    rw [mul_le_mul_iff_left₀ hD']
  have hNle : ∀ a : Int, (N ≤ a * D ↔ q ≤ a) := fun a => by
    rw [← Int.cast_le (R := ℝ), hq]
    push_cast
    rw [mul_le_mul_iff_left₀ hD']
  have hdist : ∀ a : Int, (((a * D - N).natAbs : Nat) : ℝ) = |(a : ℝ) - q| * D := fun a => by
    rw [Nat.cast_natAbs, Int.cast_abs]
    push_cast
    rw [hq, ← sub_mul, abs_mul, abs_of_pos hD']
  have habs : ∀ a : Int, (((a * D).natAbs : Nat) : ℝ) = |(a : ℝ)| * D := fun a => by
    rw [Nat.cast_natAbs, Int.cast_abs]
    push_cast
    rw [abs_mul, abs_of_pos hD']
  have habsN : ((N.natAbs : Nat) : ℝ) = |q| * D := by rw [Nat.cast_natAbs, Int.cast_abs, hq, abs_mul, abs_of_pos hD']
  refine ⟨hd, hfin, hs, hz, fun h0 y _ => ?_, fun h1 => ?_, fun h2 => ?_, fun h3 => ?_⟩
  · obtain ⟨hclose, htie⟩ := hnear h0 y
    rw [← Nat.cast_le (α := ℝ), ← Nat.cast_inj (R := ℝ), hdist, hdist, mul_le_mul_iff_left₀ hD', mul_left_inj' hD'.ne']
    exact ⟨hclose, fun hne => htie fun he => hne (congrArg (· * (D : Int)) (Int.cast_inj.mp he))⟩
  · obtain ⟨hin, hmost⟩ := hcut h1
    simp only [← Nat.cast_le (α := ℝ), habs, habsN, mul_le_mul_iff_left₀ hD']
    exact ⟨hin, fun y _ => hmost y⟩
  · obtain ⟨hin, hleast⟩ := hup h2
    simp only [hNle, hle]
    exact ⟨hin, fun y _ => hleast y⟩
  · obtain ⟨hin, hmost⟩ := hdown h3
    simp only [hleN, hle]
    exact ⟨hin, fun y _ => hmost y⟩

section
variable {T : Ty} (hT : T ∈ tyFlt) {rd D : Nat} {s : Bool} {code : Nat} {N : Int} {z : Option Bool} {X : ℝ}
include hT

/-- A code that a magnitude is rounded to on the format's grid, with its sign, is the statements' rounded pattern. -/
theorem rounded_of_grid (h : RoundsOn (floatFmt T).grid rd s X code) (hX : 0 ≤ X) (hc : code < (floatFmt T).infBits) (hD : 0 < D)
    (hN : (N : ℝ) = signedBy s X * D) (hs : N ≠ 0 → s = decide (N < 0)) (hz : N = 0 → ∀ b, z = some b → s = b) :
    Rounded T rd N D z ((floatFmt T).signPat s + code) := by
  have hg := (floatFmt T).grid_strictMono
  have hg0 := (floatFmt T).grid_nonneg
  have hcs := code_lt_signBit hc
  have hsign := signOf_signPat_add hT (s := s) hcs
  have hzero : X = 0 → (floatFmt T).grid code = 0 := fun h0 => by
    rw [h0, ← (floatFmt T).grid_zero] at h
    rw [h.eq_of_eq hg, FloatFmt.grid_zero]
  refine rounded_of_real hD hN ((FloatFmt.signPat_add hcs).2.2.trans_eq (two_pow_bits_eq hT).symm) (isFinite_signPat_add hT hc)
    (fun h0 => hsign.trans (hs h0)) (fun b h0 hb => hsign.trans (hz h0 b hb)) ?nearest ?cut ?up ?down
  all_goals rw [units_signPat_add hT hcs]; simp only [units_grid hT]
  case nearest =>
    rintro rfl y
    obtain ⟨hclose, htie⟩ := signed_nearest (s := s) h hg hg0 (floatFmt T).grid_zero hX (signOf T y) ((floatFmt T).code y)
    refine ⟨hclose, fun hne heq => ?_⟩
    have hodd := htie hne heq
    have heven := signPat_even hT s
    omega
  case cut =>
    rintro rfl
    obtain ⟨hin, hmost⟩ := h.down hg (.inl rfl)
    simp only [abs_signedBy, abs_of_nonneg (hg0 _), abs_of_nonneg hX]
    exact ⟨hin, fun y => hmost _⟩
  case up =>
    rintro rfl
    obtain ⟨hin, hleast⟩ := signed_least (s := s) hX hg0 (fun hsf => h.up hg (.inl ⟨rfl, hsf⟩))
      (fun hst => h.down hg (.inr (.inl ⟨rfl, hst⟩))) hzero
    exact ⟨hin, fun y => hleast _ _⟩
  case down =>
    rintro rfl
    obtain ⟨hin, hleast⟩ := signed_least (s := !s) hX hg0 (fun hst => h.up hg (.inr ⟨rfl, by simpa using hst⟩))
      (fun hsf => h.down hg (.inr (.inr ⟨rfl, by simpa using hsf⟩))) hzero
    simp only [signedBy_not, neg_le_neg_iff] at hin hleast
    refine ⟨hin, fun y hy => ?_⟩
    have := hleast (!signOf T y) ((floatFmt T).code y)
    rw [signedBy_not, neg_le_neg_iff, neg_le_neg_iff] at this
    exact this hy

end

/-! ## The ends of the finite range -/

section
variable {f : FloatFmt} (hf : f.Wide)
include hf

/-- The magnitudes of the largest finite code and of the next one, by the exponent of the former. -/
theorem FloatFmt.Wide.mag_last :
    f.mag (f.infBits - 1) = (2 ^ (f.mb + 1) - 1) * 2 ^ (2 * f.bias - 1) ∧ f.mag f.infBits = 2 ^ (f.mb + 1) * 2 ^ (2 * f.bias - 1) := by
  have hb := hf.bias_pos
  have h2 : 2 ^ (f.mb + 1) = 2 ^ f.mb * 2 := pow_succ 2 f.mb
  have hB : 0 < 2 ^ f.mb := Nat.two_pow_pos _
  obtain ⟨k, hk⟩ : ∃ k, 2 * f.bias - 1 = k := ⟨_, rfl⟩
  have hinf : f.infBits = k * 2 ^ f.mb + 2 ^ (f.mb + 1) := by
    rw [hf.infBits_eq, (by omega : 2 * f.bias + 1 = k + 2), Nat.add_mul, h2, Nat.mul_comm 2]
  have hinf1 : f.infBits - 1 = k * 2 ^ f.mb + (2 ^ (f.mb + 1) - 1) := by omega
  rw [hk, hinf1, hinf, f.mag_scaled (Nat.sub_le _ _) (.inr (by omega)), f.mag_scaled le_rfl (.inr (by omega))]
  exact ⟨rfl, rfl⟩

theorem FloatFmt.Wide.last_odd : (f.infBits - 1) % 2 = 1 := by
  have hpos := hf.infBits_pos
  have hB : 0 < 2 ^ f.mb := Nat.two_pow_pos _
  obtain ⟨k, hk⟩ : 2 ∣ f.infBits := (dvd_pow_self 2 (by have := hf.mb; omega)).mul_left _
  omega

end

section
variable {T : Ty} (hT : T ∈ tyFlt)
include hT

theorem maxUnits_eq : maxUnits T = (floatFmt T).mag ((floatFmt T).infBits - 1) := by
  rw [(floatFmt_wide T).mag_last.1, maxUnits, fltWidths_eq hT, (floatFmt_wide T).two_pow_eb]
  congr 2

theorem two_overUnits_eq : 2 * overUnits T = (floatFmt T).mag ((floatFmt T).infBits - 1) + (floatFmt T).mag (floatFmt T).infBits := by
  have hb : 3 ≤ (floatFmt T).bias := by rcases mem_tyFlt_cases hT with rfl | rfl | rfl <;> decide
  obtain ⟨h1, h2⟩ := (floatFmt_wide T).mag_last
  obtain ⟨k, hk⟩ : ∃ k, 2 * (floatFmt T).bias - 1 = k + 1 := ⟨2 * (floatFmt T).bias - 2, by omega⟩
  have hexp : 2 * (floatFmt T).bias + 2 - 4 = k := by omega
  have hpos := Nat.two_pow_pos ((floatFmt T).mb + 1)
  rw [h1, h2, overUnits, fltWidths_eq hT, (floatFmt_wide T).two_pow_eb, hexp, hk, ← Nat.add_mul, pow_succ 2 k]
  dsimp only
  rw [pow_succ 2 ((floatFmt T).mb + 1)]
  have : 2 ^ ((floatFmt T).mb + 1) - 1 + 2 ^ ((floatFmt T).mb + 1) = 2 ^ ((floatFmt T).mb + 1) * 2 - 1 := by omega
  rw [this]
  ring

end

/-! ## What `rnd` delivers -/

theorem Exact.Holds.sign {v : Exact} {s : Bool} {r : ℝ} (hv : v.Holds s r) (h0 : r ≠ 0) : s = decide (r < 0) := by
  obtain ⟨n, d, e, -, -, rfl⟩ := hv
  have hn := ratio_nonneg n d e
  cases s with
  | false => exact (decide_eq_false (not_lt.mpr hn)).symm
  | true => exact (decide_eq_true (lt_of_le_of_ne (by simpa using hn) h0)).symm

theorem Exact.Holds.eq_signedBy {v : Exact} {s : Bool} {r : ℝ} (hv : v.Holds s r) : r = signedBy s |r| := by
  obtain ⟨n, d, e, -, -, rfl⟩ := hv
  rw [abs_signedBy, abs_of_nonneg (ratio_nonneg n d e)]

section
variable {T : Ty} (hT : T ∈ tyFlt) {ftz s : Bool} {v : Exact} {r : ℝ} {D : Nat} {N : Int} {z : Option Bool}
include hT

omit hT in
theorem FloatFmt.delivered_lt (f : FloatFmt) (rd : Nat) (s : Bool) (code : Nat) : f.delivered rd s code < 2 * f.signBit := by
  have hi := f.infBits_lt_signBit
  have hpos := Nat.two_pow_pos f.mb
  unfold FloatFmt.delivered
  split
  · have hs : f.overflow rd s = f.signPat s + (if (rd == 0 || (rd == 2 && !s) || (rd == 3 && s)) = true then f.infBits else f.infBits - 1) := rfl
    rw [hs]
    refine (FloatFmt.signPat_add ?_).2.2
    split <;> omega
  · exact (FloatFmt.signPat_add (by omega)).2.2

theorem Exact.Holds.rnd_lt (hv : v.Holds s r) (rd : Nat) (ftz : Bool) : (rnd T rd ftz v).1 < 2 ^ T.bits := by
  rw [two_pow_bits_eq hT]
  by_cases hfl : flushes T ftz = true ∧ r ≠ 0 ∧ |r| * 2 ^ (floatFmt T).unitExp < 2 ^ (floatFmt T).mb
  · obtain ⟨hfl, h0, hlt⟩ := hfl
    obtain ⟨code, hcode, hrnd⟩ := hv.rnd_below_normal rd hfl h0 hlt
    rw [hrnd]
    refine (FloatFmt.signPat_add ?_).2.2
    have hi := (floatFmt T).infBits_lt_signBit
    have := (floatFmt_wide T).infBits_pos
    have := Nat.two_pow_pos (floatFmt T).mb
    omega
  · obtain ⟨code, -, hrnd⟩ := hv.rnd_rounds (ftz := ftz) rd fun h => by
      by_contra hne
      rw [not_or, not_le] at hne
      exact hfl ⟨h, hne⟩
    rw [hrnd]
    exact (floatFmt T).delivered_lt _ _ _

/-- 02 R20-R22; 07 R145: `rnd` of a finite value of N / D units delivers what the statements say of N / D. -/
theorem Exact.Holds.rnd_delivers (hv : v.Holds s r) (rd : Nat) (hD : 0 < D) (hN : (N : ℝ) = r * 2 ^ (floatFmt T).unitExp * D)
    (hz : N = 0 → ∀ b, z = some b → s = b) : DeliversUnits T rd (flushes T ftz) N D z (rnd T rd ftz v).1 := by
  have hg := (floatFmt T).grid_strictMono
  have hD' : (0 : ℝ) < D := by exact_mod_cast hD
  have hK : (0 : ℝ) < 2 ^ (floatFmt T).unitExp := by positivity
  have habs : ((N.natAbs : Nat) : ℝ) = |r| * 2 ^ (floatFmt T).unitExp * D := by
    rw [Nat.cast_natAbs, Int.cast_abs, hN, abs_mul, abs_mul, abs_of_pos hD', abs_of_pos hK]
  have hr0 : r = 0 ↔ N = 0 := by
    rw [← Int.cast_inj (α := ℝ), hN, Int.cast_zero]
    simp [hD.ne']
  have hs : N ≠ 0 → s = decide (N < 0) := fun h0 => by
    rw [hv.sign (mt hr0.mp h0), decide_eq_decide, ← Int.cast_lt_zero (R := ℝ), hN, mul_assoc]
    exact ⟨fun h => mul_neg_of_neg_of_pos h (mul_pos hK hD'), fun h => neg_of_mul_neg_left h (mul_pos hK hD').le⟩
  have hNs : (N : ℝ) = signedBy s (|r| * 2 ^ (floatFmt T).unitExp) * D := by
    rw [← signedBy_mul, ← hv.eq_signedBy, hN]
  have hle : ∀ a : Nat, (N.natAbs ≤ a * D ↔ |r| * 2 ^ (floatFmt T).unitExp ≤ a) := fun a => by
    rw [← Nat.cast_le (α := ℝ), habs]
    push_cast
    rw [mul_le_mul_iff_left₀ hD']
  have hge : ∀ a : Nat, (a * D ≤ N.natAbs ↔ a ≤ |r| * 2 ^ (floatFmt T).unitExp) := fun a => by
    rw [← Nat.cast_le (α := ℝ), habs]
    push_cast
    rw [mul_le_mul_iff_left₀ hD']
  have hinf : 1 ≤ (floatFmt T).infBits := (Nat.two_pow_pos _).trans_le (floatFmt_wide T).infBits_pos
  refine ⟨fun hmax hmin => ?rounded, fun h0 hover => ?beyond, fun hfl h0 hsmall => ?flushed⟩
  case rounded =>
    rw [fltWidths_eq hT, hge] at hmin
    obtain ⟨code, hround, hrnd⟩ := hv.rnd_rounds (ftz := ftz) rd fun hfl => by
      simpa [hr0] using hmin hfl
    have hcode : code < (floatFmt T).infBits := by
      have hle := hround.le_of_le hg (c := (floatFmt T).infBits - 1) (by rw [hle, maxUnits_eq hT] at hmax; exact hmax)
      omega
    rw [hrnd, FloatFmt.delivered, if_neg (Nat.not_le.mpr hcode)]
    exact rounded_of_grid hT hround (by positivity) hcode hD hNs hs hz
  case beyond =>
    subst h0
    rw [hge] at hover
    have hmid : (floatFmt T).grid ((floatFmt T).infBits - 1) + (floatFmt T).grid ((floatFmt T).infBits - 1 + 1) ≤
        2 * (|r| * 2 ^ (floatFmt T).unitExp) := by
      rw [Nat.sub_add_cancel hinf, FloatFmt.grid, FloatFmt.grid, ← Nat.cast_add, ← two_overUnits_eq hT]
      push_cast
      linarith
    have hbig : (2 : ℝ) ^ (floatFmt T).mb ≤ |r| * 2 ^ (floatFmt T).unitExp := by
      have hlast : 2 ^ (floatFmt T).mb ≤ (floatFmt T).infBits - 1 := by
        have hb := (floatFmt_wide T).bias_pos
        have hmul := Nat.mul_le_mul_right (2 ^ (floatFmt T).mb) (show 2 ≤ 2 * (floatFmt T).bias + 1 by omega)
        have hpos := Nat.two_pow_pos (floatFmt T).mb
        rw [(floatFmt_wide T).infBits_eq]
        omega
      have hlo := hg.monotone hlast
      have hhi := hg ((floatFmt T).infBits - 1).lt_succ_self
      rw [FloatFmt.grid_normal] at hlo
      linarith
    obtain ⟨code, hround, hrnd⟩ := hv.rnd_rounds (ftz := ftz) 0 fun _ => .inr hbig
    have hcode := hround.gt_of_middle hg (floatFmt_wide T).last_odd hmid
    have hN0 : N ≠ 0 := fun h0 => by
      rw [hr0.mpr h0, abs_zero, zero_mul] at hbig
      exact absurd hbig (not_le.mpr (by positivity))
    rw [hrnd, FloatFmt.delivered, if_pos (by omega), infOf_eq hT, ← hs hN0]
    simp [FloatFmt.overflow, FloatFmt.signPat]
  case flushed =>
    rw [zeroOf_eq hT, ← hs h0]
    refine hv.rnd_flushes rd hfl ?_
    rw [fltWidths_eq hT, ← Nat.cast_le (α := ℝ)] at hsmall
    push_cast at hsmall
    rw [habs, ← mul_assoc, mul_le_mul_iff_left₀ hD'] at hsmall
    exact hsmall

end

end Sys2Proof.Machine
end

section
/-!
PROOFS. Exact arithmetic (07 R145, R147): the operations on finite exact values are those of the real numbers.
-/

namespace Sys2Proof.Machine

open Sys2Proof

/-- A finite value as an integer over a common denominator and exponent. -/
theorem Exact.numOver_eq (s : Bool) (n : Nat) {d m : Nat} {e e0 : Int} (hd : 0 < d) (he : e0 ≤ e) :
    ((Exact.fin s n d e).numOver (d * m) e0 : ℝ) = signedBy s (ratio n d e) * (d * m : Nat) / 2 ^ e0 := by
  have hpow : (2 : ℝ) ^ e = 2 ^ (e - e0).toNat * 2 ^ e0 := by
    rw [← zpow_natCast, ← zpow_add₀ two_ne_zero]
    congr 1
    omega
  have hdr : (d : ℝ) ≠ 0 := by positivity
  have hp : (2 : ℝ) ^ e0 ≠ 0 := by positivity
  have hval : ((n * (d * m / d) * 2 ^ (e - e0).toNat : Nat) : ℝ) = ratio n d e * (d * m : Nat) / 2 ^ e0 := by
    rw [Nat.mul_div_cancel_left _ hd, ratio, hpow]
    push_cast
    field_simp
  unfold Exact.numOver
  cases s
  · simp only [Bool.false_eq_true, if_false, signedBy_false, Int.cast_natCast, hval]
  · simp only [if_true, signedBy_true, Int.cast_neg, Int.cast_natCast, hval]
    ring

section
variable {x y w : Exact} {s t u : Bool} {r q p : ℝ}

theorem Exact.Holds.neg (h : x.Holds s r) : x.neg.Holds (!s) (-r) := by
  obtain ⟨n, d, e, rfl, hd, rfl⟩ := h
  exact ⟨n, d, e, rfl, hd, (signedBy_not _ _).symm⟩

theorem Exact.Holds.abs (h : x.Holds s r) : x.abs.Holds false |r| := by
  obtain ⟨n, d, e, rfl, hd, rfl⟩ := h
  exact ⟨n, d, e, rfl, hd, by rw [abs_signedBy, abs_of_nonneg (ratio_nonneg n d e), signedBy_false]⟩

theorem Exact.Holds.scale (h : x.Holds s r) (k : Int) : (x.scale k).Holds s (r * 2 ^ k) := by
  obtain ⟨n, d, e, rfl, hd, rfl⟩ := h
  exact ⟨n, d, e + k, rfl, hd, by rw [signedBy_mul, ratio_add]⟩

theorem Exact.Holds.sign_eq (h : x.Holds s r) : x.sign = s := by
  obtain ⟨n, d, e, rfl, -, -⟩ := h
  rfl

theorem Exact.Holds.isNan_eq (h : x.Holds s r) : x.isNan = false := by
  obtain ⟨n, d, e, rfl, -, -⟩ := h
  rfl

theorem Exact.Holds.isZero_iff (h : x.Holds s r) : x.isZero = true ↔ r = 0 := by
  obtain ⟨n, d, e, rfl, hd, rfl⟩ := h
  rw [signedBy_eq_zero, ratio_eq_zero hd]
  exact beq_iff_eq

theorem Exact.holds_zero (s : Bool) : (Exact.fin s 0 1 0).Holds s 0 := ⟨0, 1, 0, rfl, one_pos, by simp [ratio]⟩

theorem Exact.holds_one : Exact.one.Holds false 1 := ⟨1, 1, 0, rfl, one_pos, by simp [ratio]⟩

theorem Exact.Holds.mul (h : x.Holds s r) (h' : y.Holds t q) : ∃ v, x.mul y = some v ∧ v.Holds (s != t) (r * q) := by
  obtain ⟨n, d, e, rfl, hd, rfl⟩ := h
  obtain ⟨n', d', e', rfl, hd', rfl⟩ := h'
  refine ⟨_, rfl, n * n', d * d', e + e', rfl, Nat.mul_pos hd hd', ?_⟩
  rw [signedBy_mul_signedBy]
  congr 1
  rw [ratio, ratio, ratio, zpow_add₀ two_ne_zero]
  push_cast
  rw [mul_mul_mul_comm, div_mul_div_comm]

/-- 07 R145: the sum of two finite values; the sign of an exact zero. -/
theorem Exact.Holds.add (h : x.Holds s r) (h' : y.Holds t q) (rd : Nat) :
    ∃ v u, x.add rd y = some v ∧ v.Holds u (r + q) ∧ (r = 0 → q = 0 → s = t → u = s) ∧
      (r + q = 0 → ¬(r = 0 ∧ q = 0 ∧ s = t) → u = (rd == 3)) := by
  have hzx := h.isZero_iff
  have hzy := h'.isZero_iff
  obtain ⟨n, d, e, rfl, hd, hr⟩ := h
  obtain ⟨n', d', e', rfl, hd', hq⟩ := h'
  have hz : (((Exact.fin s n d e).numOver (d * d') (min e e') + (Exact.fin t n' d' e').numOver (d * d') (min e e') : Int) : ℝ) =
      (r + q) * (d * d' : Nat) / 2 ^ min e e' := by
    have h2 := Exact.numOver_eq t n' (m := d) hd' (min_le_right e e')
    rw [Nat.mul_comm d' d] at h2
    rw [Int.cast_add, Exact.numOver_eq s n hd (min_le_left e e'), h2, ← hr, ← hq]
    ring
  have hdd : 0 < d * d' := Nat.mul_pos hd hd'
  have hpow : (0 : ℝ) < 2 ^ min e e' := by positivity
  simp only [Exact.isZero, beq_iff_eq] at hzx hzy
  simp only [Exact.add]
  generalize (Exact.fin s n d e).numOver (d * d') (min e e') + (Exact.fin t n' d' e').numOver (d * d') (min e e') = z at hz ⊢
  have hz0 : z = 0 ↔ r + q = 0 := by
    rw [← Int.cast_inj (α := ℝ), hz, Int.cast_zero]
    simp [hd.ne', hd'.ne', hpow.ne']
  by_cases h0 : z = 0
  · refine ⟨_, if n == 0 && n' == 0 && s == t then s else rd == 3, if_pos h0, ?_, fun hr0 hq0 hst => ?_, fun _ hne => ?_⟩
    · rw [hz0.mp h0]
      exact Exact.holds_zero _
    · simp [hzx.mpr hr0, hzy.mpr hq0, hst]
    · rw [← hzx, ← hzy] at hne
      rw [if_neg (by simpa [and_assoc] using hne)]
  · refine ⟨_, decide (z < 0), if_neg h0, ⟨z.natAbs, d * d', min e e', rfl, hdd, ?_⟩, fun hr0 hq0 => ?_, fun hrq => absurd (hz0.mpr hrq) h0⟩
    · have habs : ((z.natAbs : Nat) : ℝ) = signedBy (decide (z < 0)) z := by
        rw [Nat.cast_natAbs, Int.cast_abs]
        rcases lt_or_gt_of_ne h0 with hlt | hgt
        · rw [decide_eq_true hlt, signedBy_true, abs_of_neg (by exact_mod_cast hlt)]
        · rw [decide_eq_false (by omega), signedBy_false, abs_of_pos (by exact_mod_cast hgt)]
      have hdd' : ((d * d' : Nat) : ℝ) ≠ 0 := by positivity
      have hself : ∀ a b : ℝ, signedBy (decide (z < 0)) (signedBy (decide (z < 0)) a * b) = a * b := fun a b => by
        cases decide (z < 0) <;> simp
      rw [ratio, habs, div_eq_mul_inv, mul_assoc, hself, hz]
      field_simp
    · exact absurd (hz0.mpr (by rw [hr0, hq0, add_zero])) h0

/-- A quotient of finite values, the divisor no zero. -/
theorem Exact.Holds.div (h : x.Holds s r) (h' : y.Holds t q) (hq : q ≠ 0) :
    ∃ v, exactDiv x y = (some v, 0) ∧ v.Holds (s != t) (r / q) := by
  have hz := mt h'.isZero_iff.mp hq
  obtain ⟨n, d, e, rfl, hd, rfl⟩ := h
  obtain ⟨n', d', e', rfl, hd', rfl⟩ := h'
  have hn' : n' ≠ 0 := by simpa [Exact.isZero] using hz
  refine ⟨_, by simp only [exactDiv, hn', if_false], n * d', d * n', e - e', rfl, Nat.mul_pos hd (Nat.pos_of_ne_zero hn'), ?_⟩
  have hinv : (signedBy t (ratio n' d' e'))⁻¹ = signedBy t (ratio n' d' e')⁻¹ := by cases t <;> simp [inv_neg]
  rw [div_eq_mul_inv, hinv, signedBy_mul_signedBy]
  congr 1
  rw [ratio, ratio, ratio, zpow_sub₀ two_ne_zero]
  push_cast
  have h1 : (n' : ℝ) ≠ 0 := by exact_mod_cast hn'
  have h2 : (d' : ℝ) ≠ 0 := by positivity
  have h3 : (d : ℝ) ≠ 0 := by positivity
  field_simp

/-- 07 R147: x × y + z. -/
theorem Exact.Holds.fma (h : x.Holds s r) (h' : y.Holds t q) (hw : w.Holds u p) (rd : Nat) :
    ∃ v b, exactFma rd x y w = some v ∧ v.Holds b (r * q + p) ∧ (r * q = 0 → p = 0 → (s != t) = u → b = u) ∧
      (r * q + p = 0 → ¬(r * q = 0 ∧ p = 0 ∧ (s != t) = u) → b = (rd == 3)) := by
  obtain ⟨m, hm, hmul⟩ := h.mul h'
  obtain ⟨v, b, hv, hadd, hsame, hother⟩ := hmul.add hw rd
  exact ⟨v, b, by simp only [exactFma, hm, hv], hadd, fun h0 h1 h2 => (hsame h0 h1 h2).trans h2, hother⟩

/-- 07 R147: x + z × (y − x). -/
theorem Exact.Holds.lerp (h : x.Holds s r) (h' : y.Holds t q) (hw : w.Holds u p) (rd : Nat) :
    ∃ v b, exactLerp rd x y w = some v ∧ v.Holds b (r + p * (q - r)) := by
  obtain ⟨d, b1, hd, hsub, -, -⟩ := h'.add h.neg rd
  obtain ⟨m, hm, hmul⟩ := hw.mul hsub
  obtain ⟨v, b, hv, hadd, -, -⟩ := h.add hmul rd
  exact ⟨v, b, by simp only [exactLerp, hd, hm, hv, Option.getD_some], by rwa [sub_eq_add_neg]⟩

end

/-- 07 R147: z + x0 × y0 + x1 × y1. -/
theorem Exact.Holds.dot2 {x0 y0 x1 y1 w : Exact} {s0 t0 s1 t1 u : Bool} {r0 q0 r1 q1 p : ℝ} (h0 : x0.Holds s0 r0) (h0' : y0.Holds t0 q0)
    (h1 : x1.Holds s1 r1) (h1' : y1.Holds t1 q1) (hw : w.Holds u p) (rd : Nat) :
    ∃ v b, exactDot2 rd x0 y0 x1 y1 w = some v ∧ v.Holds b (p + (r0 * q0 + r1 * q1)) := by
  obtain ⟨m0, hm0, hmul0⟩ := h0.mul h0'
  obtain ⟨m1, hm1, hmul1⟩ := h1.mul h1'
  obtain ⟨a, b1, ha, hsum, -, -⟩ := hmul0.add hmul1 rd
  obtain ⟨v, b2, hv, hadd, -, -⟩ := hw.add hsum rd
  have hnan : anyNan [m0, m1, w] = false := by simp [anyNan, hmul0.isNan_eq, hmul1.isNan_eq, hw.isNan_eq]
  have hlist : sumExact rd [w, m0, m1] = some v := by simp only [sumExact, ha, hv]
  simp only [exactDot2, hm0, hm1, hnan, hlist, Bool.false_eq_true, if_false]
  by_cases hz : v.isZero = true
  · rw [if_pos hz, hadd.isZero_iff.mp hz]
    exact ⟨_, _, rfl, Exact.holds_zero _⟩
  · rw [if_neg hz]
    exact ⟨v, b2, rfl, hadd⟩

end Sys2Proof.Machine
end

section
/-!
PROOFS. How a vector float operation completes (07 R145, R146): its lanes hold what its function of the lanes gives, and only sticky flags
of its wave can change beside its place.
-/

namespace Sys2Proof

open Sys2Proof.Machine

/-! ## Weaker statements of a completion -/

theorem Lanewise.mono {x : Site} {m : LaneMask} {v : Value} {pass : Fin 32 → Nat} {P Q : Fin 32 → Nat → Prop} (h : Lanewise x m v pass P)
    (hPQ : ∀ k d, P k d → Q k d) : Lanewise x m v pass Q := fun k => by
  have hk := h k
  split at hk
  · rename_i hp
    rw [if_pos hp]
    split at hk
    · rename_i hm
      rw [if_pos hm]
      exact hPQ _ _ hk
    · rename_i hm
      rwa [if_neg hm]
  · rename_i hp
    rwa [if_neg hp]

theorem CompletesBy.mono {r : Host.Outcome State Fault Refusal} {t : State} {x : Site} {opc : Nat} {T : Ty} {m : LaneMask}
    {pass : Fin 32 → Nat} {P Q : Fin 32 → Nat → Prop} (h : CompletesBy r t x opc T m pass P) (hPQ : ∀ k d, P k d → Q k d) :
    CompletesBy r t x opc T m pass Q := by
  obtain ⟨v, hr, hv, hl⟩ := h
  exact ⟨v, hr, hv, hl.mono hPQ⟩

end Sys2Proof

namespace Sys2Proof.Machine

open Sys2Proof

/-! ## Completion with flags -/

/-- An operation completes at its place and changes nothing else but sticky flags of its wave. -/
def CompletesFlagging (r : Host.Outcome State Fault Refusal) (s : State) (x : Site) (opc : Nat) (T : Ty) (m : LaneMask)
    (pass : Fin 32 → Nat) (P : Fin 32 → Nat → Prop) : Prop :=
  ∃ t, OnlyFlags s t x.w ∧ CompletesBy r t x opc T m pass P

theorem CompletesFlagging.mono {r : Host.Outcome State Fault Refusal} {s : State} {x : Site} {opc : Nat} {T : Ty} {m : LaneMask}
    {pass : Fin 32 → Nat} {P Q : Fin 32 → Nat → Prop} (h : CompletesFlagging r s x opc T m pass P) (hPQ : ∀ k d, P k d → Q k d) :
    CompletesFlagging r s x opc T m pass Q := by
  obtain ⟨t, ht, hc⟩ := h
  exact ⟨t, ht, hc.mono hPQ⟩

theorem onlyFlags_orIeee (s : State) (w : WaveRef) (fl : Nat) : OnlyFlags s (s.orIeee w fl) w :=
  ⟨BitVec.ofNat 5 fl, 0#5, by simp only [State.orIeee, BitVec.or_zero]⟩

/-- The operands of an instruction whose fields name a, b and c. -/
def laneIn (x : Site) (c : Cur) (f : Fields) (m : LaneMask) (T : Ty) (a b cc : Value) : OpIn :=
  { x := x, mask := m, amask := c.mask, ty := T, md := f.md.toNat, a := a, b := b, c := cc, f := f }

section
variable {op : Op} {f : Fields} {s : State} {x : Site} {fr : Frame} {c : Cur} {T R : Ty} {fm : Form} {a b cc : Value} {m : LaneMask}
  {g : Fin 32 → Nat × Nat}

theorem completesFlagging_of_fits {pass : Fin 32 → Nat} {i : OpIn} (hx : AtPlace s x fr c) (hf : Fits op f x c fm i)
    (hcore : op.core i s = doneIeee R i s g)
    (hl : ∀ (v : Value) (P : Fin 32 → Nat → Prop), v.ty = R → (∀ k, i.mask.has k.val = true → P k (v.nat k)) →
      Lanewise i.x i.mask (placeValue fm i v) pass P) :
    CompletesFlagging (runOp op f s) s x op.opc R i.mask pass fun k d => d = (g k).1 % 2 ^ R.bits := by
  obtain rfl := (Fits.x_eq hf).symm
  refine ⟨_, onlyFlags_orIeee _ _ _, _, runOp_done hx hf hcore, placeValue_ty _ _ _, hl _ _ rfl fun k hk => ?_⟩
  rw [lanesOf, Value.nat_tab, if_pos hk]

variable (hx : AtPlace s x fr c) (hT : f.typ.toNat = T.code) (hf : op.form T.code f.md.toNat = some fm)
  (ha : fetchArg c fm.a f.a = some a) (hb : fetchArg c fm.b f.b = some b) (hc : fetchArg c fm.c f.c = some cc)
  (hp : fm.pred = true) (hm : Active c f.p m) (hcore : op.core (laneIn x c f m T a b cc) s = doneIeee R (laneIn x c f m T a b cc) s g)
include hx hT hf ha hb hc hp hm hcore

theorem completesFlagging_opA (hpass : fm.pass = .opA) (hR : a.ty = R) :
    CompletesFlagging (runOp op f s) s x op.opc R m a.nat fun k d => d = (g k).1 % 2 ^ R.bits :=
  completesFlagging_of_fits hx (fits_mk (by rw [hT, Ty.ofCode_code]) (hT ▸ hf) ha hb hc hp hm) hcore fun _ _ hv hP =>
    lanewise_opA hpass (hR.trans hv.symm) hP

theorem completesFlagging_opC (hpass : fm.pass = .opC) (hR : cc.ty = R) :
    CompletesFlagging (runOp op f s) s x op.opc R m cc.nat fun k d => d = (g k).1 % 2 ^ R.bits :=
  completesFlagging_of_fits hx (fits_mk (by rw [hT, Ty.ofCode_code]) (hT ▸ hf) ha hb hc hp hm) hcore fun _ _ hv hP =>
    lanewise_opC hpass (hR.trans hv.symm) hP

theorem completesFlagging_zero (hpass : fm.pass = .zero) :
    CompletesFlagging (runOp op f s) s x op.opc R m (fun _ => 0) fun k d => d = (g k).1 % 2 ^ R.bits :=
  completesFlagging_of_fits hx (fits_mk (by rw [hT, Ty.ofCode_code]) (hT ▸ hf) ha hb hc hp hm) hcore fun _ _ _ hP =>
    lanewise_zero hpass hP

end

/-! ## The forms of the float group -/

/-- The form of a float operation of type T: operand a, and b and c where they are given. -/
def fltForm (T : Ty) (b c : Bool) : Form :=
  { a := .need [T], b := if b then .need [T] else .absent, c := if c then .need [T] else .absent, pred := true, res := T, pass := .opA }

theorem fetchArg_operand {c : Cur} {given : Bool} {r : Ref} {T : Ty} {v : Value} (h : Operand c given r T v) :
    fetchArg c (if given then .need [T] else .absent) r = some v := by
  cases given with
  | false =>
    obtain ⟨h0, rfl⟩ : r = 0 ∧ v = Value.void := h
    exact fetchArg_none h0
  | true => exact fetchArg_one h

theorem form_of_mem {T : Ty} (hT : T ∈ tyFlt) {ok : Bool} (hok : ok = true) (g : Ty → Form) : formFor tyFlt T.code ok g = some (g T) :=
  formFor_some (Ty.ofCode_code T) hT hok

section
variable {op : Op} {f : Fields} {s : State} {x : Site} {fr : Frame} {c : Cur} {T : Ty} {va vb vc : Value} {m : LaneMask} {given2 given3 : Bool}
  {g : OpIn → Fin 32 → Nat × Nat}

/-- A float operation completes with what its function gives in each lane. -/
theorem completes_flt (hx : AtPlace s x fr c) (hT : f.typ.toNat = T.code) (hform : op.form T.code f.md.toNat = some (fltForm T given2 given3))
    (ha : Names c f.a T va) (hb : Operand c given2 f.b T vb) (hc : Operand c given3 f.c T vc) (hm : Active c f.p m)
    (hcore : ∀ i s, op.core i s = doneIeee i.ty i s (g i)) :
    CompletesFlagging (runOp op f s) s x op.opc T m va.nat fun k d => d = (g (laneIn x c f m T va vb vc) k).1 % 2 ^ T.bits :=
  completesFlagging_opA hx hT hform (fetchArg_one ha) (fetchArg_operand hb) (fetchArg_operand hc) rfl hm (hcore _ _) rfl ha.2.2

end

theorem mdRdFtz_of {md : BitVec 6} (h : rdFtz md) : mdRdFtz md.toNat = true := beq_iff_eq.mpr h

theorem mdFtz_of {md : BitVec 6} (h : ftzOnly md) : mdFtz md.toNat = true := by
  rcases h with rfl | rfl <;> rfl

theorem modFtz_eq (md : Nat) : modFtz md = decide (md / 8 % 2 = 1) := beq_eq_decide ..

/-! ## Patterns within their width -/

section
variable {T : Ty} (hT : T ∈ tyFlt)
include hT

theorem signPat_add_mod {s : Bool} {c : Nat} (hc : c < (floatFmt T).signBit) :
    ((floatFmt T).signPat s + c) % 2 ^ T.bits = (floatFmt T).signPat s + c :=
  Nat.mod_eq_of_lt ((FloatFmt.signPat_add hc).2.2.trans_eq (two_pow_bits_eq hT).symm)

theorem canonNan_mod : (floatFmt T).nanBits % 2 ^ T.bits = canonNan T := by
  rw [← canonNan_eq hT]
  rcases mem_tyFlt_cases hT with rfl | rfl | rfl <;> rfl

theorem infOf_mod (s : Bool) : infOf T s % 2 ^ T.bits = infOf T s := by
  rw [infOf_eq hT, signPat_add_mod hT]
  exact Nat.lt_of_lt_of_eq (Nat.lt_add_of_pos_right (Nat.two_pow_pos _)) (floatFmt T).infBits_lt_signBit

theorem zeroOf_mod (s : Bool) : zeroOf T s % 2 ^ T.bits = zeroOf T s := by
  have h := signPat_add_mod hT (s := s) (c := 0) (Nat.two_pow_pos _)
  rwa [Nat.add_zero, ← zeroOf_eq hT] at h

end

end Sys2Proof.Machine
end

section
/-!
PROOFS. The arithmetic operations of 07 R147 whose exact result is rational (O11): each computes the exact value of finite operands and
rounds it once.
-/

namespace Sys2Proof

open Sys2Proof.Machine

/-! ## The exact value of each operation -/

/-- An exact value is what an operation's row says of its operands: the number of units, and the sign of an exact zero. -/
def FltRow.Exactly (e : FltRow) (T : Ty) (rd : Nat) (flush : Bool) (a b c : Nat) (v : Exact) : Prop :=
  let K := unitExp T
  let u (x : Nat) : Int := units T flush x
  ∃ s r, v.Holds s r ∧ (e.num K (u a) (u b) (u c) : ℝ) = r * 2 ^ K * e.den K (u a) (u b) (u c) ∧
    (e.num K (u a) (u b) (u c) = 0 →
      ∀ z, e.zero (u a) (u b) (u c) (signOf T a) (signOf T b) (signOf T c) (rd == 3) = some z → s = z)

/-- An operation of 07 R147: what its lanes are, its operand form, and its exact value on finite operands. -/
structure FltRow.Spec (e : FltRow) (g : OpIn → Fin 32 → Nat × Nat) : Prop where
  core : ∀ i s, e.op.core i s = doneIeee i.ty i s (g i)
  exec : ∀ f s, exec (e.con f) s = runOp e.op f s
  form : ∀ T ∈ tyFlt, ∀ md, mdRdFtz md = true → e.op.form T.code md = some (fltForm T (decide (2 ≤ e.args)) (decide (3 ≤ e.args)))
  value : ∀ (i : OpIn) (k : Fin 32), i.ty ∈ tyFlt → isFinite i.ty (i.a.nat k) → isFinite i.ty (i.b.nat k) → isFinite i.ty (i.c.nat k) →
    e.den (unitExp i.ty) (units i.ty (flushes i.ty (modFtz i.md)) (i.a.nat k)) (units i.ty (flushes i.ty (modFtz i.md)) (i.b.nat k))
      (units i.ty (flushes i.ty (modFtz i.md)) (i.c.nat k)) ≠ 0 →
    ∃ v, (g i k).1 = (rnd i.ty (modRd i.md) (modFtz i.md) v).1 ∧
      e.Exactly i.ty (modRd i.md) (flushes i.ty (modFtz i.md)) (i.a.nat k) (i.b.nat k) (i.c.nat k) v

end Sys2Proof

namespace Sys2Proof.Machine

open Sys2Proof

/-! ## Operands as they are read -/

/-- The operands of a lane as in() reads them. -/
theorem OpIn.in_holds {i : OpIn} {k : Fin 32} (hT : i.ty ∈ tyFlt) :
    (isFinite i.ty (i.a.nat k) →
      (i.inA k).1.Holds (signOf i.ty (i.a.nat k)) (units i.ty (flushes i.ty (modFtz i.md)) (i.a.nat k) / 2 ^ unitExp i.ty)) ∧
    (isFinite i.ty (i.b.nat k) →
      (i.inB k).1.Holds (signOf i.ty (i.b.nat k)) (units i.ty (flushes i.ty (modFtz i.md)) (i.b.nat k) / 2 ^ unitExp i.ty)) ∧
    (isFinite i.ty (i.c.nat k) →
      (i.inC k).1.Holds (signOf i.ty (i.c.nat k)) (units i.ty (flushes i.ty (modFtz i.md)) (i.c.nat k) / 2 ^ unitExp i.ty)) := by
  rw [unitExp_eq hT]
  exact ⟨fun h => readIn_holds hT h _, fun h => readIn_holds hT h _, fun h => readIn_holds hT h _⟩

theorem scaled_eq_zero {n : Int} {K : Nat} : (n : ℝ) / 2 ^ K = 0 ↔ n = 0 := by simp

section
variable {i : OpIn} {k : Fin 32}

theorem flt1_fst (F : Exact → Option Exact × Nat) (ha : (i.inA k).1.isNan = false) :
    (flt1 F i k).1 = (rndOpt i.ty (modRd i.md) (modFtz i.md) (F (i.inA k).1).1).1 := by
  simp only [flt1, ha]
  rfl

theorem flt2_fst (F : Nat → Exact → Exact → Option Exact × Nat) (ha : (i.inA k).1.isNan = false) (hb : (i.inB k).1.isNan = false) :
    (flt2 F i k).1 = (rndOpt i.ty (modRd i.md) (modFtz i.md) (F (modRd i.md) (i.inA k).1 (i.inB k).1).1).1 := by
  have hn : anyNan [(i.inA k).1, (i.inB k).1] = false := by simp [anyNan, ha, hb]
  simp only [flt2, hn]
  rfl

theorem flt3_fst (F : Nat → Exact → Exact → Exact → Option Exact) (ha : (i.inA k).1.isNan = false) (hb : (i.inB k).1.isNan = false)
    (hc : (i.inC k).1.isNan = false) :
    (flt3 F i k).1 = (rndOpt i.ty (modRd i.md) (modFtz i.md) (F (modRd i.md) (i.inA k).1 (i.inB k).1 (i.inC k).1)).1 := by
  have hn : anyNan [(i.inA k).1, (i.inB k).1, (i.inC k).1] = false := by simp [anyNan, ha, hb, hc]
  simp only [flt3, hn]
  rfl

end

theorem natAbs_eq_sign_mul (n : Int) : ((n.natAbs : Nat) : ℝ) = n.sign * n := by
  rw [Nat.cast_natAbs, ← Int.cast_mul, Int.sign_mul_self_eq_abs]

/-- The zero of a sum, from what the exact sum says of it. -/
theorem zero_of_sum {s t u w down : Bool} {a b : Int} {r q : ℝ} (hr : r = 0 ↔ a = 0) (hq : q = 0 ↔ b = 0)
    (hsame : r = 0 → q = 0 → s = t → u = w) (hother : ¬(r = 0 ∧ q = 0 ∧ s = t) → u = down) {z : Bool}
    (hz : some (if a = 0 ∧ b = 0 ∧ s = t then w else down) = some z) : u = z := by
  rw [← Option.some.inj hz]
  split
  · rename_i h
    exact hsame (hr.mpr h.1) (hq.mpr h.2.1) h.2.2
  · rename_i h
    exact hother fun h' => h ⟨hr.mp h'.1, hq.mp h'.2.1, h'.2.2⟩

/-! ## The rows -/

section
variable {i : OpIn} {k : Fin 32}

theorem fadd_spec : fltRows[0].Spec (flt2 fun rd x y => (x.add rd y, 0)) where
  core _ _ := rfl
  exec _ _ := rfl
  form T hT _ hmd := form_of_mem hT hmd _
  value i k hT ha hb _ _ := by
    have hA := (OpIn.in_holds hT).1 ha
    have hB := (OpIn.in_holds hT).2.1 hb
    obtain ⟨v, u, hv, hh, hsame, hother⟩ := hA.add hB (modRd i.md)
    refine ⟨v, by rw [flt2_fst _ hA.isNan_eq hB.isNan_eq, hv]; rfl, u, _, hh, ?_, fun h0 z hz => ?_⟩
    · simp only [fltRows, List.getElem_cons_zero]
      push_cast
      field_simp
    · simp only [fltRows, List.getElem_cons_zero] at h0 hz
      refine zero_of_sum scaled_eq_zero scaled_eq_zero hsame (hother ?_) hz
      rw [← add_div, ← Int.cast_add, h0, Int.cast_zero, zero_div]

theorem fsub_spec : fltRows[1].Spec (flt2 fun rd x y => (x.add rd y.neg, 0)) where
  core _ _ := rfl
  exec _ _ := rfl
  form T hT _ hmd := form_of_mem hT hmd _
  value i k hT ha hb _ _ := by
    have hA := (OpIn.in_holds hT).1 ha
    have hB := (OpIn.in_holds hT).2.1 hb
    obtain ⟨v, u, hv, hh, hsame, hother⟩ := hA.add hB.neg (modRd i.md)
    refine ⟨v, by rw [flt2_fst _ hA.isNan_eq hB.isNan_eq, hv]; rfl, u, _, hh, ?_, fun h0 z hz => ?_⟩
    · simp only [fltRows, List.getElem_cons_succ, List.getElem_cons_zero]
      push_cast
      field_simp
      ring
    · simp only [fltRows, List.getElem_cons_succ, List.getElem_cons_zero] at h0 hz
      refine zero_of_sum scaled_eq_zero (neg_eq_zero.trans scaled_eq_zero) hsame (hother ?_) hz
      rw [← sub_eq_add_neg, ← sub_div, ← Int.cast_sub, h0, Int.cast_zero, zero_div]

theorem fmul_spec : fltRows[2].Spec (flt2 fun _ x y => (x.mul y, 0)) where
  core _ _ := rfl
  exec _ _ := rfl
  form T hT _ hmd := form_of_mem hT hmd _
  value i k hT ha hb _ _ := by
    have hA := (OpIn.in_holds hT).1 ha
    have hB := (OpIn.in_holds hT).2.1 hb
    obtain ⟨v, hv, hh⟩ := hA.mul hB
    refine ⟨v, by rw [flt2_fst _ hA.isNan_eq hB.isNan_eq, hv]; rfl, _, _, hh, ?_, fun _ z hz => Option.some.inj hz⟩
    simp only [fltRows, List.getElem_cons_succ, List.getElem_cons_zero]
    push_cast
    field_simp

theorem fma_spec : fltRows[3].Spec (flt3 exactFma) where
  core _ _ := rfl
  exec _ _ := rfl
  form T hT _ hmd := form_of_mem hT hmd _
  value i k hT ha hb hc _ := by
    have hA := (OpIn.in_holds hT).1 ha
    have hB := (OpIn.in_holds hT).2.1 hb
    have hC := (OpIn.in_holds hT).2.2 hc
    obtain ⟨v, u, hv, hh, hsame, hother⟩ := hA.fma hB hC (modRd i.md)
    refine ⟨v, by rw [flt3_fst _ hA.isNan_eq hB.isNan_eq hC.isNan_eq, hv]; rfl, u, _, hh, ?_, fun h0 z hz => ?_⟩
    · simp only [fltRows, List.getElem_cons_succ, List.getElem_cons_zero]
      push_cast
      field_simp
    · simp only [fltRows, List.getElem_cons_succ, List.getElem_cons_zero] at h0 hz
      refine zero_of_sum (by simp) scaled_eq_zero hsame (hother ?_) hz
      rw [← Int.cast_inj (α := ℝ)] at h0
      push_cast at h0
      field_simp
      linarith

theorem fdiv_spec : fltRows[4].Spec (flt2 fun _ x y => exactDiv x y) where
  core _ _ := rfl
  exec _ _ := rfl
  form T hT _ hmd := form_of_mem hT hmd _
  value i k hT ha hb _ hden := by
    have hA := (OpIn.in_holds hT).1 ha
    have hB := (OpIn.in_holds hT).2.1 hb
    have hb0 := Int.natAbs_ne_zero.mp hden
    obtain ⟨v, hv, hh⟩ := hA.div hB (mt scaled_eq_zero.mp hb0)
    refine ⟨v, by rw [flt2_fst _ hA.isNan_eq hB.isNan_eq, hv]; rfl, _, _, hh, ?_, fun _ z hz => Option.some.inj hz⟩
    simp only [fltRows, List.getElem_cons_succ, List.getElem_cons_zero, natAbs_eq_sign_mul]
    push_cast
    have hne := Int.cast_ne_zero (α := ℝ).mpr hb0
    field_simp

theorem frcp_spec : fltRows[5].Spec (flt1 fun x => exactDiv Exact.one x) where
  core _ _ := rfl
  exec _ _ := rfl
  form T hT _ hmd := form_of_mem hT hmd _
  value i k hT ha _ _ hden := by
    have hA := (OpIn.in_holds hT).1 ha
    have ha0 := Int.natAbs_ne_zero.mp hden
    obtain ⟨v, hv, hh⟩ := Exact.holds_one.div hA (mt scaled_eq_zero.mp ha0)
    refine ⟨v, by rw [flt1_fst _ hA.isNan_eq, hv]; rfl, _, _, hh, ?_, fun _ _ hz => nomatch hz⟩
    simp only [fltRows, List.getElem_cons_succ, List.getElem_cons_zero, natAbs_eq_sign_mul]
    push_cast
    have hne := Int.cast_ne_zero (α := ℝ).mpr ha0
    field_simp
    ring

theorem flerp_spec : fltRows[6].Spec (flt3 exactLerp) where
  core _ _ := rfl
  exec _ _ := rfl
  form T hT _ hmd := form_of_mem hT hmd _
  value i k hT ha hb hc _ := by
    have hA := (OpIn.in_holds hT).1 ha
    have hB := (OpIn.in_holds hT).2.1 hb
    have hC := (OpIn.in_holds hT).2.2 hc
    obtain ⟨v, u, hv, hh⟩ := hA.lerp hB hC (modRd i.md)
    refine ⟨v, by rw [flt3_fst _ hA.isNan_eq hB.isNan_eq hC.isNan_eq, hv]; rfl, u, _, hh, ?_, fun _ _ hz => nomatch hz⟩
    simp only [fltRows, List.getElem_cons_succ, List.getElem_cons_zero]
    push_cast
    field_simp

end

theorem fltRows_spec : ∀ e ∈ fltRows, ∃ g, e.Spec g := by
  have h : ∀ (e : FltRow) (l : List FltRow), (∃ g, e.Spec g) → (∀ d ∈ l, ∃ g, d.Spec g) → ∀ d ∈ e :: l, ∃ g, d.Spec g := fun e l he hl =>
    List.forall_mem_cons.mpr ⟨he, hl⟩
  exact h _ _ ⟨_, fadd_spec⟩ (h _ _ ⟨_, fsub_spec⟩ (h _ _ ⟨_, fmul_spec⟩ (h _ _ ⟨_, fma_spec⟩ (h _ _ ⟨_, fdiv_spec⟩
    (h _ _ ⟨_, frcp_spec⟩ (h _ _ ⟨_, flerp_spec⟩ nofun))))))

end Sys2Proof.Machine
end

section
/-!
PROOFS. Roots (07 R147): `sqrtSticky` stands so close to the exact root, on its own side of every point that rounding looks at, that it
rounds as the root does.
-/

namespace Sys2Proof.Machine

open Sys2Proof

/-! ## The whole root -/

theorem sqrtBits_spec (n k r : Nat) (hlo : r * r ≤ n) (hhi : n < (r + 2 ^ k) * (r + 2 ^ k)) :
    sqrtBits n k r * sqrtBits n k r ≤ n ∧ n < (sqrtBits n k r + 1) * (sqrtBits n k r + 1) := by
  induction k generalizing r with
  | zero => exact ⟨hlo, hhi⟩
  | succ k ih =>
    have hpow : r + 2 ^ (k + 1) = r + 2 ^ k + 2 ^ k := by rw [pow_succ]; omega
    simp only [sqrtBits]
    split
    · rename_i h
      exact ih (r + 2 ^ k) h (hpow ▸ hhi)
    · rename_i h
      exact ih r hlo (Nat.lt_of_not_le h)

theorem isqrt_spec (n : Nat) : isqrt n * isqrt n ≤ n ∧ n < (isqrt n + 1) * (isqrt n + 1) := by
  refine sqrtBits_spec n _ 0 (Nat.zero_le _) ?_
  rw [Nat.zero_add, ← pow_add]
  exact Nat.lt_log2_self.trans_le (Nat.pow_le_pow_right two_pos (by omega))

/-! ## The sticky root -/

/-- A number z of steps with a sticky half: it stands to every whole number as the number y does. -/
theorem sticky_compare {r st : Nat} {y : ℝ} (hst : st ≤ 1) (hlo : r ≤ y) (hhi : y < r + 1) (hexact : st = 0 ↔ y = r) (t : Nat) :
    ((t : ℝ) ≤ r + st / 2 ↔ (t : ℝ) ≤ y) ∧ ((t : ℝ) < r + st / 2 ↔ (t : ℝ) < y) := by
  have hcast : t ≤ r → (t : ℝ) ≤ r := Nat.cast_le.mpr
  have hcast' : r < t → (r : ℝ) + 1 ≤ t := fun h => by exact_mod_cast h
  rcases Nat.le_one_iff_eq_zero_or_eq_one.mp hst with rfl | rfl
  · rw [hexact.mp rfl]
    simp
  · have hlt : (r : ℝ) < y := lt_of_le_of_ne hlo fun h => one_ne_zero (hexact.mpr h.symm)
    rcases Nat.lt_or_ge r t with h | h
    · have := hcast' h
      constructor <;> constructor <;> intro _ <;> push_cast at * <;> linarith
    · have := hcast h
      constructor <;> constructor <;> intro _ <;> push_cast at * <;> linarith

/-- Is the root of a / d no whole number? -/
def stickyBit (a d : Nat) : Nat := if isqrt (a / d) * isqrt (a / d) == a / d && a % d == 0 then 0 else 1

theorem stickyBit_le (a d : Nat) : stickyBit a d ≤ 1 := by
  unfold stickyBit
  split <;> decide

theorem stickyBit_eq_zero (a d : Nat) : stickyBit a d = 0 ↔ isqrt (a / d) * isqrt (a / d) = a / d ∧ a % d = 0 := by
  simp [stickyBit]

/-- The whole root of a quotient, with a last bit that says whether it is exact. -/
theorem root_of_quotient (a : Nat) {d : Nat} (hd : 0 < d) :
    (isqrt (a / d) : ℝ) ≤ √((a : ℝ) / d) ∧ √((a : ℝ) / d) < isqrt (a / d) + 1 ∧
      (stickyBit a d = 0 ↔ √((a : ℝ) / d) = isqrt (a / d)) := by
  rw [stickyBit_eq_zero]
  obtain ⟨hlo, hhi⟩ := isqrt_spec (a / d)
  generalize isqrt (a / d) = r at *
  have hd' : (0 : ℝ) < d := by exact_mod_cast hd
  have hdm := Nat.div_add_mod a d
  have hmod := Nat.mod_lt a hd
  have hle : r * r * d ≤ a := (Nat.mul_le_mul_right d hlo).trans (Nat.div_mul_le_self a d)
  have hlt : a < (r + 1) * (r + 1) * d := by
    calc a < (a / d + 1) * d := by rw [Nat.add_mul, Nat.mul_comm (a / d)]; omega
      _ ≤ (r + 1) * (r + 1) * d := Nat.mul_le_mul_right d hhi
  refine ⟨?_, ?_, ?_⟩
  · refine Real.le_sqrt_of_sq_le ?_
    rw [le_div_iff₀ hd', sq]
    exact_mod_cast hle
  · rw [Real.sqrt_lt' (by positivity), div_lt_iff₀ hd', sq]
    exact_mod_cast hlt
  · rw [Real.sqrt_eq_iff_mul_self_eq (by positivity) (by positivity), div_eq_iff hd'.ne']
    constructor
    · rintro ⟨h1, h2⟩
      have h3 : r * r * d = a := by rw [h1, Nat.mul_comm]; omega
      exact_mod_cast h3.symm
    · intro h
      have h3 : r * r * d = a := by exact_mod_cast h.symm
      rw [← h3]
      exact ⟨(Nat.mul_div_cancel _ hd).symm, Nat.mul_mod_left _ _⟩

/-- What `sqrtSticky` holds: a whole root of at least 100 bits in units of 2^g, with a last bit that says whether it is exact. -/
theorem sqrtSticky_spec {n d : Nat} (hn : 0 < n) (hd : 0 < d) (e : Int) :
    ∃ (r st : Nat) (g : Int), sqrtSticky n d e = .fin false (2 * r + st) 1 (g - 1) ∧ 2 ^ 99 ≤ r ∧ st ≤ 1 ∧
      r ≤ √(ratio n d e) / 2 ^ g ∧ √(ratio n d e) / 2 ^ g < r + 1 ∧ (st = 0 ↔ √(ratio n d e) / 2 ^ g = r) := by
  obtain ⟨e2, n2, heven, hn2, hval, heq⟩ : ∃ (e2 : Int) (n2 : Nat), e2 % 2 = 0 ∧ 0 < n2 ∧ ratio n2 d e2 = ratio n d e ∧
      sqrtSticky n d e =
        .fin false (2 * isqrt (n2 * 2 ^ (200 + 2 * Nat.log2 d) / d) + stickyBit (n2 * 2 ^ (200 + 2 * Nat.log2 d)) d) 1
          ((e2 - (200 + 2 * Nat.log2 d : Nat)) / 2 - 1) := by
    by_cases he : e % 2 = 0
    · refine ⟨e, n, he, hn, rfl, ?_⟩
      simp [sqrtSticky, stickyBit, he]
    · refine ⟨e - 1, 2 * n, by omega, by omega, ?_, ?_⟩
      · rw [ratio, ratio, zpow_sub_one₀ two_ne_zero]
        push_cast
        ring
      · simp [sqrtSticky, stickyBit, he]
  obtain ⟨g, hg⟩ : ∃ g : Int, e2 - (200 + 2 * Nat.log2 d : Nat) = 2 * g := ⟨(e2 - (200 + 2 * Nat.log2 d : Nat)) / 2, by omega⟩
  obtain ⟨hlo, hhi, hexact⟩ := root_of_quotient (n2 * 2 ^ (200 + 2 * Nat.log2 d)) hd
  have hroot : √(ratio n d e) / 2 ^ g = √(((n2 * 2 ^ (200 + 2 * Nat.log2 d) : Nat) : ℝ) / d) := by
    have hr : ratio n d e = ((n2 * 2 ^ (200 + 2 * Nat.log2 d) : Nat) : ℝ) / d * (2 ^ g) ^ 2 := by
      rw [← hval, ratio, ← zpow_natCast ((2 : ℝ) ^ g), ← zpow_mul, Nat.cast_ofNat, mul_comm g 2, ← hg, zpow_sub₀ two_ne_zero, zpow_natCast]
      push_cast
      field_simp
    rw [hr, Real.sqrt_mul (by positivity), Real.sqrt_sq (by positivity), mul_div_cancel_right₀ _ (by positivity)]
  have hbig : 2 ^ 99 ≤ isqrt (n2 * 2 ^ (200 + 2 * Nat.log2 d) / d) := by
    obtain ⟨-, hsq⟩ := isqrt_spec (n2 * 2 ^ (200 + 2 * Nat.log2 d) / d)
    have hquot : 2 ^ 99 * 2 ^ 99 ≤ n2 * 2 ^ (200 + 2 * Nat.log2 d) / d := by
      rw [Nat.le_div_iff_mul_le hd, ← pow_add]
      calc 2 ^ (99 + 99) * d ≤ 2 ^ (99 + 99) * 2 ^ (Nat.log2 d + 1) := Nat.mul_le_mul_left _ (log2_bounds hd).2.le
        _ ≤ 2 ^ (200 + 2 * Nat.log2 d) := by rw [← pow_add]; exact Nat.pow_le_pow_right two_pos (by omega)
        _ ≤ n2 * 2 ^ (200 + 2 * Nat.log2 d) := Nat.le_mul_of_pos_left _ hn2
    exact Nat.lt_succ_iff.mp (Nat.mul_self_lt_mul_self_iff.mp (hquot.trans_lt hsq))
  refine ⟨_, _, g, ?_, hbig, stickyBit_le _ _, by rw [hroot]; exact hlo, by rw [hroot]; exact hhi, by rw [hroot]; exact hexact⟩
  rw [heq, hg, Int.mul_ediv_cancel_left g two_ne_zero]

/-! ## Rounding a root -/

/-- Every point that rounding compares with, near a value of at least 2^99 steps of 2^g, is a whole number of these steps. -/
theorem FloatFmt.grid_steps {f : FloatFmt} (hmb : f.mb ≤ 23) {l : Nat} {x : ℝ} {g : Int} (hx : 2 ^ 99 * 2 ^ g ≤ x) (hl : x < f.grid (l + 1)) :
    ∃ a b c : Nat, f.grid l = a * 2 ^ g ∧ (f.grid l + f.grid (l + 1)) / 2 = b * 2 ^ g ∧ f.grid (l + 1) = c * 2 ^ g := by
  obtain ⟨j, m, rfl, hm, hj⟩ := f.exists_scaled l
  have hlo : f.grid (j * 2 ^ f.mb + m) = m * 2 ^ j := by
    rw [FloatFmt.grid, f.mag_scaled hm.le hj]
    push_cast
    rfl
  have hhi : f.grid (j * 2 ^ f.mb + m + 1) = (m + 1) * 2 ^ j := by
    rw [FloatFmt.grid, Nat.add_assoc, f.mag_scaled hm (hj.imp id Nat.le_succ_of_le)]
    push_cast
    rfl
  have hjg : g < j := by
    rw [hhi] at hl
    have hm' : (m : ℝ) + 1 ≤ 2 ^ (f.mb + 1) := by exact_mod_cast hm
    have hlt : (2 : ℝ) ^ (99 + g) < 2 ^ ((f.mb : Int) + 1 + j) := by
      calc (2 : ℝ) ^ (99 + g) = 2 ^ 99 * 2 ^ g := by rw [zpow_add₀ two_ne_zero]; norm_cast
        _ ≤ x := hx
        _ < (m + 1) * 2 ^ j := hl
        _ ≤ 2 ^ (f.mb + 1) * 2 ^ j := mul_le_mul_of_nonneg_right hm' (by positivity)
        _ = 2 ^ ((f.mb : Int) + 1 + j) := by rw [← pow_add, ← zpow_natCast]; push_cast; rfl
    have := (zpow_lt_zpow_iff_right₀ (by norm_num : (1 : ℝ) < 2)).mp hlt
    omega
  obtain ⟨h, hh⟩ : ∃ h : Nat, (j : Int) = h + 1 + g := ⟨((j : Int) - 1 - g).toNat, by omega⟩
  have hpow : (2 : ℝ) ^ j = 2 * 2 ^ h * 2 ^ g := by
    rw [← zpow_natCast, hh, zpow_add₀ two_ne_zero, zpow_add_one₀ two_ne_zero, zpow_natCast]
    ring
  refine ⟨m * (2 * 2 ^ h), (2 * m + 1) * 2 ^ h, (m + 1) * (2 * 2 ^ h), ?_, ?_, ?_⟩
  · rw [hlo, hpow]; push_cast; ring
  · rw [hlo, hhi, hpow]; push_cast; ring
  · rw [hhi, hpow]; push_cast; ring

/-- A number of steps with a sticky half rounds as the number that it stands for. -/
theorem RoundsOn.of_sticky {f : FloatFmt} (hmb : f.mb ≤ 23) {rd : Nat} {neg : Bool} {r st code : Nat} {g : Int} {y : ℝ}
    (h : RoundsOn f.grid rd neg ((r + st / 2) * 2 ^ g) code) (hr : 2 ^ 99 ≤ r) (hst : st ≤ 1) (hlo : r ≤ y) (hhi : y < r + 1)
    (hexact : st = 0 ↔ y = r) : RoundsOn f.grid rd neg (y * 2 ^ g) code := by
  have hg : (0 : ℝ) < 2 ^ g := by positivity
  have hbig : (2 : ℝ) ^ 99 * 2 ^ g ≤ (r + st / 2) * 2 ^ g := by
    have hr' : (2 : ℝ) ^ 99 ≤ r := by exact_mod_cast hr
    have hst' : (0 : ℝ) ≤ st / 2 := by positivity
    exact mul_le_mul_of_nonneg_right (by linarith) hg.le
  refine h.congr fun l hl hl1 => ?_
  obtain ⟨a, b, c, ha, hb, hc⟩ := f.grid_steps hmb hbig hl1
  have hle : ∀ t : Nat, ((t : ℝ) * 2 ^ g ≤ (r + st / 2) * 2 ^ g ↔ (t : ℝ) * 2 ^ g ≤ y * 2 ^ g) := fun t => by
    rw [mul_le_mul_iff_left₀ hg, mul_le_mul_iff_left₀ hg]
    exact (sticky_compare hst hlo hhi hexact t).1
  have hlt : ∀ t : Nat, ((t : ℝ) * 2 ^ g < (r + st / 2) * 2 ^ g ↔ (t : ℝ) * 2 ^ g < y * 2 ^ g) := fun t => by
    rw [mul_lt_mul_iff_left₀ hg, mul_lt_mul_iff_left₀ hg]
    exact (sticky_compare hst hlo hhi hexact t).2
  have hmid : ∀ z : ℝ, (f.grid l + f.grid (l + 1) < 2 * z ↔ b * 2 ^ g < z) ∧
      (2 * z = f.grid l + f.grid (l + 1) ↔ b * 2 ^ g ≤ z ∧ ¬b * 2 ^ g < z) :=
    fun z => by
      rw [← hb]
      constructor
      · constructor <;> intro _ <;> linarith
      · constructor
        · intro _
          constructor <;> linarith
        · rintro ⟨h1, h2⟩
          linarith
  refine ⟨?_, ?_, ?_, ?_, ?_⟩
  · rw [ha] at hl ⊢
    exact (hle a).mp hl
  · rw [hc] at hl1 ⊢
    exact not_le.mp ((not_congr (hle c)).mp (not_le.mpr hl1))
  · rw [ha]
    exact hlt a
  · rw [(hmid _).1, (hmid _).1]
    exact hlt b
  · rw [(hmid _).2, (hmid _).2, hle b, hlt b]

/-- A value that `rnd` reads with a sticky half is delivered as the root that it stands for, where this is normal and finite. -/
theorem rnd_sqrtSticky {T : Ty} (hT : T ∈ tyFlt) (rd : Nat) (ftz : Bool) {n d : Nat} {e : Int} (hn : 0 < n) (hd : 0 < d)
    (hmin : 2 ^ (floatFmt T).mb ≤ √(ratio n d e) * 2 ^ (floatFmt T).unitExp)
    (hmax : √(ratio n d e) * 2 ^ (floatFmt T).unitExp ≤ (floatFmt T).grid ((floatFmt T).infBits - 1)) :
    ∃ code < (floatFmt T).infBits, RoundsOn (floatFmt T).grid rd false (√(ratio n d e) * 2 ^ (floatFmt T).unitExp) code ∧
      (rnd T rd ftz (sqrtSticky n d e)).1 = code := by
  have hmb : (floatFmt T).mb ≤ 23 := by rcases mem_tyFlt_cases hT with rfl | rfl | rfl <;> decide
  have hinf : 0 < (floatFmt T).infBits := (Nat.two_pow_pos _).trans_le (floatFmt_wide T).infBits_pos
  obtain ⟨r, st, g, hv, hr, hst, hlo, hhi, hexact⟩ := sqrtSticky_spec hn hd e
  generalize hf : floatFmt T = f at *
  have hK : (2 : ℝ) ^ (g + f.unitExp) = 2 ^ g * 2 ^ f.unitExp := by rw [zpow_add₀ two_ne_zero, zpow_natCast]
  have hsteps : √(ratio n d e) / 2 ^ g * 2 ^ (g + f.unitExp) = √(ratio n d e) * 2 ^ f.unitExp := by
    rw [hK, ← mul_assoc, div_mul_cancel₀ _ (by positivity)]
  have hholds : (sqrtSticky n d e).Holds false ((r + st / 2) * 2 ^ g) := by
    refine ⟨_, 1, _, hv, one_pos, ?_⟩
    rw [signedBy_false, ratio, zpow_sub_one₀ two_ne_zero]
    push_cast
    ring
  have hunits : |((r : ℝ) + st / 2) * 2 ^ g| * 2 ^ f.unitExp = (r + st / 2) * 2 ^ (g + f.unitExp) := by
    rw [abs_of_nonneg (by positivity), hK, mul_assoc]
  have hnormal : (2 : ℝ) ^ f.mb ≤ (r + st / 2) * 2 ^ (g + f.unitExp) := by
    rcases Int.le_total (g + f.unitExp) f.mb with hle | hge
    · obtain ⟨t, ht⟩ : ∃ t : Nat, (f.mb : Int) = t + (g + f.unitExp) := ⟨((f.mb : Int) - (g + f.unitExp)).toNat, by omega⟩
      have hpow : (2 : ℝ) ^ f.mb = (2 ^ t : Nat) * 2 ^ (g + f.unitExp) := by
        rw [← zpow_natCast, ht, zpow_add₀ two_ne_zero, zpow_natCast]
        push_cast
        rfl
      rw [hpow, ← hsteps, mul_le_mul_iff_left₀ (by positivity)] at hmin
      rw [hpow, mul_le_mul_iff_left₀ (by positivity)]
      exact (sticky_compare hst hlo hhi hexact _).1.mpr hmin
    · have h1 : (1 : ℝ) ≤ r + st / 2 := by
        have : (1 : ℝ) ≤ r := by exact_mod_cast (Nat.one_le_two_pow.trans hr)
        have : (0 : ℝ) ≤ st / 2 := by positivity
        linarith
      calc (2 : ℝ) ^ f.mb ≤ 2 ^ (g + f.unitExp) := by
            rw [← zpow_natCast]
            exact zpow_le_zpow_right₀ (by norm_num) hge
        _ ≤ (r + st / 2) * 2 ^ (g + f.unitExp) := le_mul_of_one_le_left (by positivity) h1
  obtain ⟨code, hround, hrnd⟩ := hholds.rnd_rounds (T := T) (ftz := ftz) rd fun _ => .inr (by rw [hf, hunits]; exact hnormal)
  rw [hf, hunits] at hround
  replace hround := hround.of_sticky hmb hr hst hlo hhi hexact
  rw [hsteps] at hround
  have hcode : code ≤ f.infBits - 1 := hround.le_of_le f.grid_strictMono hmax
  refine ⟨code, by omega, hround, ?_⟩
  rw [hrnd, hf, FloatFmt.delivered, if_neg (by omega)]
  exact Nat.zero_add _

/-- A code that a root is rounded to is the statements' rounded root. -/
theorem rootRounded_of_grid {T : Ty} (hT : T ∈ tyFlt) {rd N D code : Nat} {X : ℝ} (h : RoundsOn (floatFmt T).grid rd false X code)
    (hc : code < (floatFmt T).infBits) (hX : 0 ≤ X) (hD : 0 < D) (hN : X * X * D = N) : RootRounded T rd N D code := by
  have hg := (floatFmt T).grid_strictMono
  have hD' : (0 : ℝ) < D := by exact_mod_cast hD
  have hcs := code_lt_signBit hc
  have hpat : code = (floatFmt T).signPat false + code := (Nat.zero_add _).symm
  have hv : (units T false code : ℝ) = (floatFmt T).grid code := by
    rw [hpat, units_signPat_add hT hcs, signedBy_false, ← hpat]
  have hw : ∀ y, 0 ≤ units T false y → (units T false y : ℝ) = (floatFmt T).grid ((floatFmt T).code y) := fun y hy => by
    have h0 : (0 : ℝ) ≤ units T false y := by exact_mod_cast hy
    rw [← abs_of_nonneg h0, units_grid hT, abs_signedBy, abs_of_nonneg ((floatFmt T).grid_nonneg _)]
  have hv0 : 0 ≤ units T false code := by
    rw [← Int.cast_nonneg_iff (R := ℝ), hv]
    exact (floatFmt T).grid_nonneg code
  have hsq : ∀ z : Int, 0 ≤ z → (z * z * D ≤ (N : Int) ↔ (z : ℝ) ≤ X) ∧ ((N : Int) ≤ z * z * D ↔ X ≤ z) := fun z hz => by
    have hz' : (0 : ℝ) ≤ z := by exact_mod_cast hz
    rw [← Int.cast_le (R := ℝ), ← Int.cast_le (R := ℝ)]
    push_cast
    rw [← hN, mul_le_mul_iff_left₀ hD', mul_le_mul_iff_left₀ hD']
    exact ⟨(mul_self_le_mul_self_iff hz' hX).symm, (mul_self_le_mul_self_iff hX hz').symm⟩
  have hfour : ∀ z : Int, 0 ≤ z → (z * z * D ≤ 4 * (N : Int) ↔ (z : ℝ) ≤ 2 * X) ∧
      (4 * (N : Int) ≤ z * z * D ↔ 2 * X ≤ z) := fun z hz => by
    have hz' : (0 : ℝ) ≤ z := by exact_mod_cast hz
    have hX' : 0 ≤ 2 * X := by positivity
    have hN' : 4 * (N : ℝ) = 2 * X * (2 * X) * D := by rw [← hN]; ring
    rw [← Int.cast_le (R := ℝ), ← Int.cast_le (R := ℝ)]
    push_cast
    rw [hN', mul_le_mul_iff_left₀ hD', mul_le_mul_iff_left₀ hD']
    exact ⟨(mul_self_le_mul_self_iff hz' hX').symm, (mul_self_le_mul_self_iff hX' hz').symm⟩
  refine ⟨?_, hpat ▸ isFinite_signPat_add hT hc, ?nearest, ?down, ?up⟩
  · rw [← signBit_eq hT]
    exact hcs
  case nearest =>
    rintro rfl y - hy
    obtain ⟨hclose, -⟩ := h.nearest hg ((floatFmt T).code y)
    rw [← hw y hy, ← hv, ← sq_le_sq] at hclose
    dsimp only
    rw [(hfour _ (by omega)).1, (hfour _ (by omega)).2, ← Int.cast_lt (R := ℝ), ← Int.cast_lt (R := ℝ), Int.cast_add]
    generalize (units T false code : ℝ) = v at *
    generalize (units T false y : ℝ) = w at *
    have hprod : (v - w) * (v + w) ≤ (v - w) * (2 * X) := by linarith only [hclose]
    exact ⟨fun hlt => le_of_mul_le_mul_left hprod (sub_pos.mpr hlt), fun hlt => (mul_le_mul_left_of_neg (sub_neg.mpr hlt)).mp hprod⟩
  case down =>
    intro hrd
    obtain ⟨hin, hmost⟩ := h.down hg (hrd.imp id fun h3 => .inr ⟨h3, rfl⟩)
    refine ⟨(hsq _ hv0).1.mpr (hv ▸ hin), fun y _ hy hle => ?_⟩
    rw [(hsq _ hy).1, hw y hy] at hle
    rw [← Int.cast_le (R := ℝ), hv, hw y hy]
    exact hmost _ hle
  case up =>
    rintro rfl
    obtain ⟨hin, hleast⟩ := h.up hg (.inl ⟨rfl, rfl⟩)
    refine ⟨(hsq _ hv0).2.mpr (hv ▸ hin), fun y _ hy hle => ?_⟩
    rw [(hsq _ hy).2, hw y hy] at hle
    rw [← Int.cast_le (R := ℝ), hv, hw y hy]
    exact hleast _ hle

end Sys2Proof.Machine
end

section
/-!
PROOFS. Float arithmetic (O11): the lanes of the operations of 07 R147, and the obligation.
-/

namespace Sys2Proof.Machine

open Sys2Proof

/-! ## Results that are delivered -/

section
variable {T : Ty} (hT : T ∈ tyFlt) (rd : Nat) (ftz : Bool)
include hT

theorem rndOpt_none_mod : (rndOpt T rd ftz none).1 % 2 ^ T.bits = canonNan T := canonNan_mod hT

theorem rnd_nan_mod : (rnd T rd ftz .nan).1 % 2 ^ T.bits = canonNan T := canonNan_mod hT

theorem rnd_inf (s : Bool) : (rnd T rd ftz (.inf s)).1 = infOf T s := by
  rw [infOf_eq hT, Nat.add_comm]
  rfl

theorem rndOpt_inf_mod (s : Bool) : (rndOpt T rd ftz (some (.inf s))).1 % 2 ^ T.bits = infOf T s := by
  rw [rndOpt, rnd_inf hT, infOf_mod hT]

theorem rndOpt_zero_mod (s : Bool) (d : Nat) (e : Int) : (rndOpt T rd ftz (some (.fin s 0 d e))).1 % 2 ^ T.bits = zeroOf T s := by
  rw [rndOpt, rnd_zero, ← zeroOf_eq hT, zeroOf_mod hT]

theorem rnd_mod {v : Exact} {s : Bool} {r : ℝ} (hv : v.Holds s r) : (rnd T rd ftz v).1 % 2 ^ T.bits = (rnd T rd ftz v).1 :=
  Nat.mod_eq_of_lt (hv.rnd_lt hT rd ftz)

end

theorem Exact.Holds.eq_zero {v : Exact} {s : Bool} (h : v.Holds s 0) : ∃ d e, v = .fin s 0 d e := by
  obtain ⟨n, d, e, rfl, hd, hr⟩ := h
  obtain rfl := (ratio_eq_zero hd).mp (signedBy_eq_zero.mp hr.symm)
  exact ⟨d, e, rfl⟩

theorem Exact.Holds.of_ne_zero {v : Exact} {s : Bool} {r : ℝ} (h : v.Holds s r) (h0 : r ≠ 0) :
    ∃ n d e, v = .fin s n d e ∧ n ≠ 0 ∧ 0 < d ∧ r = signedBy s (ratio n d e) := by
  obtain ⟨n, d, e, rfl, hd, rfl⟩ := h
  exact ⟨n, d, e, rfl, (ratio_eq_zero hd).not.mp (signedBy_eq_zero.not.mp h0), hd, rfl⟩

/-! ## Units within the finite range -/

section
variable {T : Ty} (hT : T ∈ tyFlt)
include hT

theorem natAbs_units_le {x : Nat} (hx : isFinite T x) (flush : Bool) : (units T flush x).natAbs ≤ maxUnits T := by
  have hmag : ((units T flush x).natAbs : ℝ) = ((floatFmt T).magIn flush ((floatFmt T).code x) : Nat) := by
    rw [Nat.cast_natAbs, Int.cast_abs, units_eq hT, abs_signedBy, Nat.abs_cast]
  rw [Nat.cast_inj.mp hmag, maxUnits_eq hT, FloatFmt.magIn]
  split
  · exact Nat.zero_le _
  · exact (floatFmt T).mag_strictMono.monotone (Nat.le_sub_one_of_lt ((isFinite_iff hT x).mp hx))

omit hT in
theorem signOf_eq_of_units_pos {x : Nat} {flush : Bool} (h : 0 < units T flush x) : signOf T x = false := by
  unfold units at h
  cases hs : signOf T x with
  | false => rfl
  | true =>
    rw [hs] at h
    simp only [if_true] at h
    omega

omit hT in
theorem signOf_eq_of_units_neg {x : Nat} {flush : Bool} (h : units T flush x < 0) : signOf T x = true := by
  unfold units at h
  cases hs : signOf T x with
  | true => rfl
  | false =>
    rw [hs] at h
    simp only [Bool.false_eq_true, if_false] at h
    omega

/-- The units that a root can have lie within the normal range. -/
theorem root_range : 2 ^ (2 * (floatFmt T).mb) ≤ 2 ^ unitExp T ∧ 2 ^ unitExp T ≤ maxUnits T ∧
    2 ^ (2 * (floatFmt T).mb) * maxUnits T ≤ 2 ^ (3 * unitExp T) ∧ 2 ^ (3 * unitExp T) ≤ maxUnits T * maxUnits T ∧
    2 * overUnits T ≤ 2 ^ 1024 ∧ maxUnits T < overUnits T := by
  rcases mem_tyFlt_cases hT with rfl | rfl | rfl <;> decide +kernel

end

/-! ## Roots -/

/-- A root whose square lies within the range of `root_range` is rounded once. -/
theorem rootRounded_rnd {T : Ty} (hT : T ∈ tyFlt) (rd : Nat) (ftz : Bool) {n d : Nat} {e : Int} (hn : 0 < n) (hd : 0 < d) {N D : Nat}
    (hD : 0 < D) (hN : ratio n d e * (2 ^ unitExp T) ^ 2 * D = N) (hmin : 2 ^ (2 * (floatFmt T).mb) * D ≤ N)
    (hmax : N ≤ maxUnits T * maxUnits T * D) :
    RootRounded T rd N D ((rnd T rd ftz (sqrtSticky n d e)).1 % 2 ^ T.bits) := by
  rw [unitExp_eq hT] at hN
  have hD' : (0 : ℝ) < D := by exact_mod_cast hD
  have hX : (0 : ℝ) ≤ √(ratio n d e) * 2 ^ (floatFmt T).unitExp := by positivity
  have hsq : √(ratio n d e) * 2 ^ (floatFmt T).unitExp * (√(ratio n d e) * 2 ^ (floatFmt T).unitExp) * D = N := by
    rw [mul_mul_mul_comm, Real.mul_self_sqrt (ratio_nonneg n d e), ← sq, hN]
  have hle : ∀ a : Nat, (a * a * D ≤ N → (a : ℝ) ≤ √(ratio n d e) * 2 ^ (floatFmt T).unitExp) ∧
      (N ≤ a * a * D → √(ratio n d e) * 2 ^ (floatFmt T).unitExp ≤ a) := fun a => by
    rw [← Nat.cast_le (α := ℝ), ← Nat.cast_le (α := ℝ), ← hsq]
    push_cast
    rw [mul_le_mul_iff_left₀ hD', mul_le_mul_iff_left₀ hD']
    exact ⟨(mul_self_le_mul_self_iff (Nat.cast_nonneg a) hX).mpr, (mul_self_le_mul_self_iff hX (Nat.cast_nonneg a)).mpr⟩
  have hlow : (2 : ℝ) ^ (floatFmt T).mb ≤ √(ratio n d e) * 2 ^ (floatFmt T).unitExp := by
    have h := (hle (2 ^ (floatFmt T).mb)).1 (by rwa [← pow_add, ← Nat.two_mul])
    exact_mod_cast h
  obtain ⟨code, hcode, hround, hrnd⟩ := rnd_sqrtSticky hT rd ftz hn hd hlow ((hle _).2 (maxUnits_eq hT ▸ hmax))
  have hroot := rootRounded_of_grid hT hround hcode hX hD hsq
  rw [hrnd, Nat.mod_eq_of_lt (hroot.1.trans (Nat.pow_lt_pow_right one_lt_two (by rw [bits_eq hT]; omega)))]
  exact hroot

section
variable {i : OpIn} {k : Fin 32} (hT : i.ty ∈ tyFlt)
include hT

/-- 07 R147: `fsqrt` in a lane. -/
theorem fsqrt_lane :
    let u := units i.ty (flushes i.ty (modFtz i.md)) (i.a.nat k)
    let d := (flt1 (fun x => (exactSqrt x, 0)) i k).1 % 2 ^ i.ty.bits
    (isFinite i.ty (i.a.nat k) → (0 < u → RootRounded i.ty (modRd i.md) (u.toNat * 2 ^ unitExp i.ty) 1 d) ∧
      (u = 0 → d = zeroOf i.ty (signOf i.ty (i.a.nat k))) ∧ (u < 0 → d = canonNan i.ty)) ∧
    (isInfBits i.ty (i.a.nat k) → d = if signOf i.ty (i.a.nat k) then canonNan i.ty else infOf i.ty false) := by
  dsimp only
  refine ⟨fun hfin => ?_, fun hinf => ?_⟩
  · have hA := (OpIn.in_holds hT).1 hfin
    have hmax := natAbs_units_le hT hfin (flushes i.ty (modFtz i.md))
    rw [flt1_fst _ hA.isNan_eq]
    generalize hu : units i.ty (flushes i.ty (modFtz i.md)) (i.a.nat k) = u at *
    refine ⟨fun hpos => ?_, fun h0 => ?_, fun hneg => ?_⟩
    · rw [signOf_eq_of_units_pos (hu ▸ hpos)] at hA
      obtain ⟨n, d, e, hv, hn, hd, hr⟩ := hA.of_ne_zero (scaled_eq_zero.not.mpr hpos.ne')
      have hur : ((u.toNat : Nat) : ℝ) = u := by exact_mod_cast Int.toNat_of_nonneg hpos.le
      obtain ⟨h1, h2, -⟩ := root_range hT
      simp only [hv, exactSqrt, hn, if_false, rndOpt, Bool.false_eq_true]
      refine rootRounded_rnd hT _ _ (Nat.pos_of_ne_zero hn) hd one_pos ?_ ?_ ?_
      · rw [← signedBy_false (ratio n d e), ← hr]
        push_cast
        rw [hur]
        field_simp
      · have hu1 : 1 ≤ u.toNat := by omega
        have := Nat.mul_le_mul hu1 h1
        omega
      · rw [Nat.mul_one]
        exact Nat.mul_le_mul (by omega) h2
    · rw [h0, Int.cast_zero, zero_div] at hA
      obtain ⟨d, e, hv⟩ := hA.eq_zero
      rw [hv]
      exact rndOpt_zero_mod hT _ _ _ _ _
    · rw [signOf_eq_of_units_neg (hu ▸ hneg)] at hA
      obtain ⟨n, d, e, hv, hn, hd, hr⟩ := hA.of_ne_zero (scaled_eq_zero.not.mpr hneg.ne)
      simp only [hv, exactSqrt, hn, if_false, if_true]
      exact rndOpt_none_mod hT _ _
  · have hA : (i.inA k).1 = .inf (signOf i.ty (i.a.nat k)) := readIn_inf hT hinf _
    rw [flt1_fst _ (by rw [hA]; rfl), hA]
    cases signOf i.ty (i.a.nat k)
    · exact rndOpt_inf_mod hT _ _ _
    · exact rndOpt_none_mod hT _ _

/-- 07 R147: `frsq` in a lane. -/
theorem frsq_lane :
    let u := units i.ty (flushes i.ty (modFtz i.md)) (i.a.nat k)
    let d := (flt1 exactRsqrt i k).1 % 2 ^ i.ty.bits
    (isFinite i.ty (i.a.nat k) → (0 < u → RootRounded i.ty (modRd i.md) (2 ^ (3 * unitExp i.ty)) u.toNat d) ∧
      (u = 0 → d = infOf i.ty (signOf i.ty (i.a.nat k))) ∧ (u < 0 → d = canonNan i.ty)) ∧
    (isInfBits i.ty (i.a.nat k) → d = if signOf i.ty (i.a.nat k) then canonNan i.ty else zeroOf i.ty false) := by
  dsimp only
  refine ⟨fun hfin => ?_, fun hinf => ?_⟩
  · have hA := (OpIn.in_holds hT).1 hfin
    have hmax := natAbs_units_le hT hfin (flushes i.ty (modFtz i.md))
    rw [flt1_fst _ hA.isNan_eq]
    generalize hu : units i.ty (flushes i.ty (modFtz i.md)) (i.a.nat k) = u at *
    refine ⟨fun hpos => ?_, fun h0 => ?_, fun hneg => ?_⟩
    · rw [signOf_eq_of_units_pos (hu ▸ hpos)] at hA
      obtain ⟨n, d, e, hv, hn, hd, hr⟩ := hA.of_ne_zero (scaled_eq_zero.not.mpr hpos.ne')
      have hur : ((u.toNat : Nat) : ℝ) = u := by exact_mod_cast Int.toNat_of_nonneg hpos.le
      have hu0 : (u : ℝ) ≠ 0 := by exact_mod_cast hpos.ne'
      obtain ⟨-, -, h3, h4, -⟩ := root_range hT
      simp only [hv, exactRsqrt, hn, if_false, rndOpt, Bool.false_eq_true]
      refine rootRounded_rnd hT _ _ hd (Nat.pos_of_ne_zero hn) (by omega) ?_ ?_ ?_
      · have hinv : ratio d n (-e) = (ratio n d e)⁻¹ := by
          rw [ratio, ratio, zpow_neg, mul_inv, inv_div]
        rw [hinv, ← signedBy_false (ratio n d e), ← hr, hur]
        push_cast
        field_simp
        ring
      · exact (Nat.mul_le_mul_left _ (by omega)).trans h3
      · exact h4.trans (Nat.le_mul_of_pos_right _ (by omega))
    · rw [h0, Int.cast_zero, zero_div] at hA
      obtain ⟨d, e, hv⟩ := hA.eq_zero
      rw [hv]
      exact rndOpt_inf_mod hT _ _ _
    · rw [signOf_eq_of_units_neg (hu ▸ hneg)] at hA
      obtain ⟨n, d, e, hv, hn, hd, hr⟩ := hA.of_ne_zero (scaled_eq_zero.not.mpr hneg.ne)
      simp only [hv, exactRsqrt, hn, if_false, if_true]
      exact rndOpt_none_mod hT _ _
  · have hA : (i.inA k).1 = .inf (signOf i.ty (i.a.nat k)) := readIn_inf hT hinf _
    rw [flt1_fst _ (by rw [hA]; rfl), hA]
    cases signOf i.ty (i.a.nat k)
    · exact rndOpt_zero_mod hT _ _ _ _ _
    · exact rndOpt_none_mod hT _ _

/-- 07 R147: `frcp` of a zero and of an infinity. -/
theorem frcp_lane :
    let d := (flt1 (fun x => exactDiv Exact.one x) i k).1 % 2 ^ i.ty.bits
    (isFinite i.ty (i.a.nat k) → units i.ty (flushes i.ty (modFtz i.md)) (i.a.nat k) = 0 → d = infOf i.ty (signOf i.ty (i.a.nat k))) ∧
    (isInfBits i.ty (i.a.nat k) → d = zeroOf i.ty (signOf i.ty (i.a.nat k))) := by
  dsimp only
  refine ⟨fun hfin h0 => ?_, fun hinf => ?_⟩
  · have hA := (OpIn.in_holds hT).1 hfin
    rw [flt1_fst _ hA.isNan_eq]
    rw [h0, Int.cast_zero, zero_div] at hA
    obtain ⟨d, e, hv⟩ := hA.eq_zero
    rw [hv]
    exact (rndOpt_inf_mod hT _ _ (false != signOf i.ty (i.a.nat k))).trans (by rw [Bool.false_bne])
  · have hA : (i.inA k).1 = .inf (signOf i.ty (i.a.nat k)) := readIn_inf hT hinf _
    rw [flt1_fst _ (by rw [hA]; rfl), hA]
    exact (rndOpt_zero_mod hT _ _ (false != signOf i.ty (i.a.nat k)) 1 0).trans (by rw [Bool.false_bne])

end

end Sys2Proof.Machine
end

section
/-!
PROOFS. Float arithmetic (O11), the rest: infinities, `fscale`, `fdot2`, and the obligation.
-/

namespace Sys2Proof.Machine

open Sys2Proof

/-! ## Infinities and zeros of two operands -/

section
variable {i : OpIn} {k : Fin 32} (hT : i.ty ∈ tyFlt)
include hT

/-- A zero operand as in() reads it. -/
theorem inA_zero (h : isFinite i.ty (i.a.nat k) ∧ units i.ty (flushes i.ty (modFtz i.md)) (i.a.nat k) = 0) :
    ∃ d e, (i.inA k).1 = .fin (signOf i.ty (i.a.nat k)) 0 d e := by
  have hA := (OpIn.in_holds hT).1 h.1
  rw [h.2, Int.cast_zero, zero_div] at hA
  exact hA.eq_zero

theorem inB_zero (h : isFinite i.ty (i.b.nat k) ∧ units i.ty (flushes i.ty (modFtz i.md)) (i.b.nat k) = 0) :
    ∃ d e, (i.inB k).1 = .fin (signOf i.ty (i.b.nat k)) 0 d e := by
  have hB := (OpIn.in_holds hT).2.1 h.1
  rw [h.2, Int.cast_zero, zero_div] at hB
  exact hB.eq_zero

omit hT in
/-- The lane of an operation of two operands that are no NaN. -/
theorem flt2_mod {F : Nat → Exact → Exact → Option Exact × Nat} {x y : Exact} (hx : (i.inA k).1 = x) (hy : (i.inB k).1 = y)
    (hxn : x.isNan = false) (hyn : y.isNan = false) {p : Nat}
    (h : (rndOpt i.ty (modRd i.md) (modFtz i.md) (F (modRd i.md) x y).1).1 % 2 ^ i.ty.bits = p) :
    (flt2 F i k).1 % 2 ^ i.ty.bits = p := by
  subst hx hy
  rw [flt2_fst F hxn hyn]
  exact h

theorem fadd_inf (ha : isInfBits i.ty (i.a.nat k)) (hb : isInfBits i.ty (i.b.nat k)) :
    (flt2 (fun rd x y => (x.add rd y, 0)) i k).1 % 2 ^ i.ty.bits =
      if signOf i.ty (i.a.nat k) = signOf i.ty (i.b.nat k) then infOf i.ty (signOf i.ty (i.a.nat k)) else canonNan i.ty := by
  refine flt2_mod (readIn_inf hT ha _) (readIn_inf hT hb _) rfl rfl ?_
  simp only [Exact.add, beq_iff_eq]
  split
  · exact rndOpt_inf_mod hT _ _ _
  · exact rndOpt_none_mod hT _ _

theorem fsub_inf (ha : isInfBits i.ty (i.a.nat k)) (hb : isInfBits i.ty (i.b.nat k)) :
    (flt2 (fun rd x y => (x.add rd y.neg, 0)) i k).1 % 2 ^ i.ty.bits =
      if signOf i.ty (i.a.nat k) = signOf i.ty (i.b.nat k) then canonNan i.ty else infOf i.ty (signOf i.ty (i.a.nat k)) := by
  refine flt2_mod (readIn_inf hT ha _) (readIn_inf hT hb _) rfl rfl ?_
  simp only [Exact.neg, Exact.add, beq_iff_eq, Bool.eq_not, ite_not]
  split
  · exact rndOpt_none_mod hT _ _
  · exact rndOpt_inf_mod hT _ _ _

theorem fmul_inf :
    (isInfBits i.ty (i.a.nat k) ∧ isFinite i.ty (i.b.nat k) ∧ units i.ty (flushes i.ty (modFtz i.md)) (i.b.nat k) = 0 ∨
        (isFinite i.ty (i.a.nat k) ∧ units i.ty (flushes i.ty (modFtz i.md)) (i.a.nat k) = 0) ∧ isInfBits i.ty (i.b.nat k) →
      (flt2 (fun _ x y => (x.mul y, 0)) i k).1 % 2 ^ i.ty.bits = canonNan i.ty) ∧
    (isInfBits i.ty (i.a.nat k) → isInfBits i.ty (i.b.nat k) →
      (flt2 (fun _ x y => (x.mul y, 0)) i k).1 % 2 ^ i.ty.bits = infOf i.ty (signOf i.ty (i.a.nat k) ^^ signOf i.ty (i.b.nat k))) := by
  refine ⟨?_, fun ha hb => ?_⟩
  · rintro (⟨ha, hb⟩ | ⟨ha, hb⟩)
    · obtain ⟨d, e, hy⟩ := inB_zero hT hb
      exact flt2_mod (readIn_inf hT ha _) hy rfl rfl (rndOpt_none_mod hT _ _)
    · obtain ⟨d, e, hx⟩ := inA_zero hT ha
      exact flt2_mod hx (readIn_inf hT hb _) rfl rfl (rndOpt_none_mod hT _ _)
  · exact flt2_mod (readIn_inf hT ha _) (readIn_inf hT hb _) rfl rfl (rndOpt_inf_mod hT _ _ _)

theorem fdiv_inf :
    ((isFinite i.ty (i.a.nat k) ∧ units i.ty (flushes i.ty (modFtz i.md)) (i.a.nat k) = 0) ∧
        isFinite i.ty (i.b.nat k) ∧ units i.ty (flushes i.ty (modFtz i.md)) (i.b.nat k) = 0 ∨
        isInfBits i.ty (i.a.nat k) ∧ isInfBits i.ty (i.b.nat k) →
      (flt2 (fun _ x y => exactDiv x y) i k).1 % 2 ^ i.ty.bits = canonNan i.ty) ∧
    (isFinite i.ty (i.a.nat k) → ¬(isFinite i.ty (i.a.nat k) ∧ units i.ty (flushes i.ty (modFtz i.md)) (i.a.nat k) = 0) →
      isFinite i.ty (i.b.nat k) ∧ units i.ty (flushes i.ty (modFtz i.md)) (i.b.nat k) = 0 →
      (flt2 (fun _ x y => exactDiv x y) i k).1 % 2 ^ i.ty.bits =
        infOf i.ty (signOf i.ty (i.a.nat k) ^^ signOf i.ty (i.b.nat k))) := by
  refine ⟨?_, fun hfin ha hb => ?_⟩
  · rintro (⟨ha, hb⟩ | ⟨ha, hb⟩)
    · obtain ⟨d, e, hx⟩ := inA_zero hT ha
      obtain ⟨d', e', hy⟩ := inB_zero hT hb
      exact flt2_mod hx hy rfl rfl (rndOpt_none_mod hT _ _)
    · exact flt2_mod (readIn_inf hT ha _) (readIn_inf hT hb _) rfl rfl (rndOpt_none_mod hT _ _)
  · obtain ⟨n, d, e, hx, hn, -, -⟩ := ((OpIn.in_holds hT).1 hfin).of_ne_zero (scaled_eq_zero.not.mpr fun h0 => ha ⟨hfin, h0⟩)
    obtain ⟨d', e', hy⟩ := inB_zero hT hb
    refine flt2_mod hx hy rfl rfl ?_
    simp only [exactDiv, if_true, hn, if_false]
    exact rndOpt_inf_mod hT _ _ _

end

/-! ## `fscale` -/

theorem FloatFmt.grid_one (f : FloatFmt) : f.grid 1 = 1 := by
  have h := f.mag_scaled (j := 0) (m := 1) Nat.one_le_two_pow (.inl rfl)
  rw [Nat.zero_mul, Nat.zero_add, pow_zero] at h
  rw [FloatFmt.grid, h, Nat.mul_one, Nat.cast_one]

/-- Positive values below half the smallest subnormal round alike. -/
theorem RoundsOn.of_tiny {f : FloatFmt} {rd code : Nat} {s : Bool} {x y : ℝ} (h : RoundsOn f.grid rd s x code)
    (hx : 0 < x ∧ 2 * x < 1) (hy : 0 < y ∧ 2 * y < 1) : RoundsOn f.grid rd s y code := by
  obtain ⟨hx0, hx1⟩ := hx
  obtain ⟨hy0, hy1⟩ := hy
  refine h.congr fun l hl _ => ?_
  obtain rfl : l = 0 := by
    refine Nat.lt_one_iff.mp (f.grid_strictMono.lt_iff_lt.mp ?_)
    rw [f.grid_one]
    linarith
  rw [Nat.zero_add, f.grid_zero, f.grid_one, zero_add]
  refine ⟨hy0.le, by linarith, iff_of_true hx0 hy0, iff_of_false (by linarith) (by linarith), iff_of_false (by linarith) (by linarith)⟩

section
variable {T : Ty} (hT : T ∈ tyFlt) {v : Exact} {s : Bool} {u : Int} (hv : v.Holds s (u / 2 ^ unitExp T)) (hu : u.natAbs ≤ maxUnits T)
  (rd : Nat) (ftz : Bool)
include hT hv

/-- A value of u units times a power of two, where it is not clamped. -/
theorem scale_delivers (n : Int) :
    DeliversUnits T rd (flushes T ftz) (u * 2 ^ n.toNat) (2 ^ (-n).toNat) (some s) (rnd T rd ftz (v.scale n)).1 := by
  refine (hv.scale n).rnd_delivers hT rd (Nat.two_pow_pos _) ?_ fun _ b hb => Option.some.inj hb
  have hpow : (2 : ℝ) ^ n * 2 ^ (-n).toNat = 2 ^ n.toNat := by
    rw [← zpow_natCast, ← zpow_natCast, ← zpow_add₀ two_ne_zero]
    congr 1
    omega
  rw [← unitExp_eq hT]
  push_cast
  rw [← hpow]
  field_simp

omit hT in
theorem scale_zero (h0 : u = 0) (n k : Int) : (rnd T rd ftz (v.scale n)).1 = (rnd T rd ftz (v.scale k)).1 := by
  rw [h0, Int.cast_zero, zero_div] at hv
  obtain ⟨d, e, rfl⟩ := hv.eq_zero
  exact (rnd_zero T rd ftz s d (e + n)).trans (rnd_zero T rd ftz s d (e + k)).symm

include hu

/-- A power beyond 2^1024 overflows as 2^1024 does. -/
theorem scale_above {n : Int} (hn : 1024 < n) :
    DeliversUnits T rd (flushes T ftz) (u * 2 ^ n.toNat) (2 ^ (-n).toNat) (some s) (rnd T rd ftz (v.scale 1024)).1 := by
  rcases eq_or_ne u 0 with h0 | h0
  · rw [scale_zero hv rd ftz h0 1024 n]
    exact scale_delivers hT hv rd ftz n
  obtain ⟨-, -, -, -, hover, hmax⟩ := root_range hT
  obtain ⟨-, hbeyond, -⟩ := scale_delivers hT hv rd ftz 1024
  have habs : ∀ j, (u * 2 ^ (1024 + j)).natAbs ≥ 2 ^ 1024 := fun j => by
    rw [Int.natAbs_mul, Int.natAbs_pow, pow_add]
    exact (Nat.le_mul_of_pos_right _ (Nat.two_pow_pos j)).trans (Nat.le_mul_of_pos_left _ (Int.natAbs_pos.mpr h0))
  have hsign : ∀ k : Nat, decide (u * 2 ^ k < 0) = decide (u < 0) := fun k => by
    rw [decide_eq_decide]
    exact ⟨fun h => neg_of_mul_neg_left h (by positivity), fun h => mul_neg_of_neg_of_pos h (by positivity)⟩
  have hmb : 2 ^ (fltWidths T).2 ≤ 2 ^ 1024 := by
    rcases mem_tyFlt_cases hT with rfl | rfl | rfl <;> decide +kernel
  have hneg : (-n).toNat = 0 := by omega
  obtain ⟨j, hj⟩ : ∃ j, n.toNat = 1024 + j := ⟨n.toNat - 1024, by omega⟩
  have hbig := habs j
  rw [hsign] at hbeyond
  rw [hneg, hj, pow_zero]
  refine ⟨fun h => absurd h (by omega), fun hrd _ => ?_, fun _ _ h => absurd h (by omega)⟩
  rw [hsign]
  exact hbeyond hrd ((Nat.mul_one _).trans_le (le_trans (by omega) (habs 0)))

/-- A power below 2^-1024 vanishes as 2^-1024 does. -/
theorem scale_below {n : Int} (hn : n < -1024) :
    DeliversUnits T rd (flushes T ftz) (u * 2 ^ n.toNat) (2 ^ (-n).toNat) (some s) (rnd T rd ftz (v.scale (-1024))).1 := by
  rcases eq_or_ne u 0 with h0 | h0
  · rw [scale_zero hv rd ftz h0 (-1024) n]
    exact scale_delivers hT hv rd ftz n
  obtain ⟨-, -, -, -, hover, hmax⟩ := root_range hT
  obtain ⟨-, -, hflushed⟩ := scale_delivers hT hv rd ftz (-1024)
  have hmb := Nat.two_pow_pos (fltWidths T).2
  have hpos : n.toNat = 0 := by omega
  obtain ⟨j, hj⟩ : ∃ j, (-n).toNat = 1024 + j := ⟨(-n).toNat - 1024, by omega⟩
  have hD : 2 ^ 1024 ≤ 2 ^ (1024 + j) := Nat.pow_le_pow_right two_pos (by omega)
  have hbound : ∀ m, 0 < m → ∀ j, 2 * u.natAbs < m * 2 ^ (1024 + j) := fun m hm j =>
    calc 2 * u.natAbs < 2 ^ 1024 := by omega
      _ ≤ 2 ^ (1024 + j) := Nat.pow_le_pow_right two_pos (Nat.le_add_right _ _)
      _ ≤ m * 2 ^ (1024 + j) := Nat.le_mul_of_pos_left _ hm
  have hlt := hbound 1 one_pos j
  have hself : u * 2 ^ (-1024 : Int).toNat = u := mul_one u
  rw [hself] at hflushed
  rw [hpos, hj, pow_zero, mul_one]
  refine ⟨fun _ hmin => ?_, fun _ h => absurd h ?_, fun hfl h _ => hflushed hfl h (hbound _ hmb 0).le⟩
  · have hfl : flushes T ftz = false := by
      by_contra hfl
      rcases hmin (by simpa using hfl) with h | h
      · exact h0 h
      · exact absurd (hbound _ hmb j) (by omega)
    obtain ⟨code, hround, hrnd⟩ := (hv.scale (-1024)).rnd_rounds (ftz := ftz) rd fun h => absurd h (by rw [hfl]; nofun)
    have htiny : ∀ j, 0 < (u.natAbs : ℝ) / 2 ^ (1024 + j) ∧ 2 * ((u.natAbs : ℝ) / 2 ^ (1024 + j)) < 1 := fun j => by
      have hlt : (2 : ℝ) * u.natAbs < 1 * 2 ^ (1024 + j) := by exact_mod_cast hbound 1 one_pos j
      refine ⟨div_pos (by exact_mod_cast Int.natAbs_pos.mpr h0) (by positivity), ?_⟩
      rwa [← mul_div_assoc, div_lt_iff₀ (by positivity)]
    have hx : |(u : ℝ) / 2 ^ unitExp T * 2 ^ (-1024 : Int)| * 2 ^ (floatFmt T).unitExp = u.natAbs / 2 ^ (1024 + 0) := by
      rw [← unitExp_eq hT, abs_mul, abs_div, Nat.cast_natAbs, Int.cast_abs, abs_of_nonneg (by positivity : (0 : ℝ) ≤ 2 ^ unitExp T),
        abs_of_nonneg (by positivity : (0 : ℝ) ≤ 2 ^ (-1024 : Int)), zpow_neg]
      field_simp
    rw [hx] at hround
    replace hround := hround.of_tiny (htiny 0) (htiny j)
    have hcode : code ≤ 1 := hround.le_of_le (floatFmt T).grid_strictMono (by rw [FloatFmt.grid_one]; linarith [htiny j])
    have hinf := (floatFmt_wide T).infBits_pos
    have hmb2 : 1 < 2 ^ (floatFmt T).mb := Nat.one_lt_two_pow (by have := (floatFmt_wide T).mb; omega)
    have hsu : (u : ℝ) = signedBy s u.natAbs := by
      have h := hv.eq_signedBy
      rw [abs_div, abs_of_nonneg (by positivity : (0 : ℝ) ≤ 2 ^ unitExp T), div_eq_mul_inv, div_eq_mul_inv, ← signedBy_mul] at h
      rw [Nat.cast_natAbs, Int.cast_abs]
      exact mul_right_cancel₀ (by positivity) h
    rw [hrnd, FloatFmt.delivered, if_neg (by omega)]
    refine rounded_of_grid hT hround (htiny j).1.le (by omega) (Nat.two_pow_pos _) ?_ (fun h => ?_) fun _ b hb => Option.some.inj hb
    · push_cast
      rw [signedBy_mul, div_mul_cancel₀ _ (by positivity)]
      exact hsu
    · rw [hv.sign (scaled_eq_zero.not.mpr h0), decide_eq_decide, div_neg_iff]
      simp
  · have := hbound (overUnits T) (by omega) j
    omega

/-- 07 R147: `fscale` clamps its power of two to ±1024, which no result shows. -/
theorem fscale_delivers (n : Int) :
    DeliversUnits T rd (flushes T ftz) (u * 2 ^ n.toNat) (2 ^ (-n).toNat) (some s)
      (rnd T rd ftz (v.scale (max (-1024) (min 1024 n)))).1 := by
  rcases lt_or_ge 1024 n with h | h
  · rw [min_eq_left h.le, max_eq_right (by decide)]
    exact scale_above hT hv hu rd ftz h
  rw [min_eq_right h]
  rcases lt_or_ge n (-1024) with h' | h'
  · rw [max_eq_left h'.le]
    exact scale_below hT hv hu rd ftz h'
  · rw [max_eq_right h']
    exact scale_delivers hT hv rd ftz n

end

/-! ## `fdot2` -/

theorem flushes_f32 (ftz : Bool) : flushes .f32 ftz = ftz := Bool.or_false ftz

/-- What `fdot2` computes in a lane. -/
def fdot2Lane (i : OpIn) (k : Fin 32) : Nat × Nat :=
  let g (v : Nat) := readIn i.ty (modFtz i.md) v
  let x0 := g (i.a.nat k % 65536)
  let x1 := g (i.a.nat k / 65536)
  let y0 := g (i.b.nat k % 65536)
  let y1 := g (i.b.nat k / 65536)
  let z := readIn .f32 (modFtz i.md) (i.c.nat k)
  let fl := x0.2 ||| x1.2 ||| y0.2 ||| y1.2 ||| z.2
  if anyNan [x0.1, x1.1, y0.1, y1.1, z.1] then ((floatFmt .f32).nanBits, fl)
  else finish .f32 i.md fl (exactDot2 (modRd i.md) x0.1 y0.1 x1.1 y1.1 z.1)

theorem fdot2_core (i : OpIn) (s : State) : opFdot2.core i s = doneIeee .f32 i s (fdot2Lane i) := rfl

/-- `fdot2` of finite values rounds the exact sum of its products. -/
theorem fdot2Lane_holds {i : OpIn} {k : Fin 32} (hT : i.ty ∈ tyFlt) (ha0 : isFinite i.ty (i.a.nat k % 65536))
    (hb0 : isFinite i.ty (i.b.nat k % 65536)) (ha1 : isFinite i.ty (i.a.nat k / 65536)) (hb1 : isFinite i.ty (i.b.nat k / 65536))
    (hc : isFinite .f32 (i.c.nat k)) :
    let u (n : Nat) : Int := units i.ty (flushes i.ty (modFtz i.md)) n
    ∃ v s, (fdot2Lane i k).1 = (rnd .f32 (modRd i.md) (modFtz i.md) v).1 ∧
      v.Holds s (units .f32 (flushes .f32 (modFtz i.md)) (i.c.nat k) / 2 ^ (floatFmt .f32).unitExp +
        (u (i.a.nat k % 65536) / 2 ^ (floatFmt i.ty).unitExp * (u (i.b.nat k % 65536) / 2 ^ (floatFmt i.ty).unitExp) +
          u (i.a.nat k / 65536) / 2 ^ (floatFmt i.ty).unitExp * (u (i.b.nat k / 65536) / 2 ^ (floatFmt i.ty).unitExp))) := by
  have hA0 := readIn_holds hT ha0 (modFtz i.md)
  have hB0 := readIn_holds hT hb0 (modFtz i.md)
  have hA1 := readIn_holds hT ha1 (modFtz i.md)
  have hB1 := readIn_holds hT hb1 (modFtz i.md)
  have hC := readIn_holds (by decide) hc (modFtz i.md)
  obtain ⟨v, s, hv, hh⟩ := hA0.dot2 hB0 hA1 hB1 hC (modRd i.md)
  have hn : anyNan [(readIn i.ty (modFtz i.md) (i.a.nat k % 65536)).1, (readIn i.ty (modFtz i.md) (i.a.nat k / 65536)).1,
      (readIn i.ty (modFtz i.md) (i.b.nat k % 65536)).1, (readIn i.ty (modFtz i.md) (i.b.nat k / 65536)).1,
      (readIn .f32 (modFtz i.md) (i.c.nat k)).1] = false := by
    simp [anyNan, hA0.isNan_eq, hA1.isNan_eq, hB0.isNan_eq, hB1.isNan_eq, hC.isNan_eq]
  refine ⟨v, s, ?_, hh⟩
  simp only [fdot2Lane, hn, finish, hv]
  rfl

/-- 07 R147: `fdot2` in a lane. -/
theorem fdot2_lane {i : OpIn} {k : Fin 32} (hT : i.ty ∈ [Ty.f16, .bf16]) :
    let lo (v : Value) : Nat := v.nat k % 65536
    let hi (v : Value) : Nat := v.nat k / 65536
    let u (n : Nat) : Int := units i.ty (flushes i.ty (modFtz i.md)) n
    let dot := u (lo i.a) * u (lo i.b) + u (hi i.a) * u (hi i.b)
    let z := units .f32 (flushes .f32 (modFtz i.md)) (i.c.nat k)
    let d := (fdot2Lane i k).1 % 2 ^ Ty.f32.bits
    isFinite i.ty (lo i.a) → isFinite i.ty (lo i.b) → isFinite i.ty (hi i.a) → isFinite i.ty (hi i.b) → isFinite .f32 (i.c.nat k) →
      (i.ty = .f16 → DeliversUnits .f32 (modRd i.md) (flushes .f32 (modFtz i.md)) (z + dot * 2 ^ 101) 1 none d) ∧
      (i.ty = .bf16 → DeliversUnits .f32 (modRd i.md) (flushes .f32 (modFtz i.md)) (z * 2 ^ 117 + dot) (2 ^ 117) none d) := by
  dsimp only
  intro ha0 hb0 ha1 hb1 hc
  have hf32 : Ty.f32 ∈ tyFlt := by decide
  obtain ⟨v, s, hv, hh⟩ := fdot2Lane_holds (by revert hT; generalize i.ty = T; revert T; decide) ha0 hb0 ha1 hb1 hc
  rw [hv, rnd_mod hf32 _ _ hh]
  constructor
  · intro h16
    refine hh.rnd_delivers hf32 _ one_pos ?_ nofun
    simp only [h16, (by decide : (floatFmt .f32).unitExp = 149), (by decide : (floatFmt .f16).unitExp = 24)]
    push_cast
    ring
  · intro hb16
    refine hh.rnd_delivers hf32 _ (Nat.two_pow_pos _) ?_ nofun
    simp only [hb16, (by decide : (floatFmt .f32).unitExp = 149), (by decide : (floatFmt .bf16).unitExp = 133)]
    push_cast
    ring

/-! ## The obligation -/

section
variable {f : Fields} {s : State} {x : Site} {fr : Frame} {c : Cur} {m : LaneMask} {T : Ty} {va vb vc : Value}
  (hx : AtPlace s x fr c) (hm : Active c f.p m) (hmd : rdFtz f.md)
include hx hm hmd

/-- The operations of `fltRows` deliver their exact values, rounded once. -/
theorem fltRow_completes {e : FltRow} (he : e ∈ fltRows) (hT : T ∈ tyFlt) (ht : f.typ.toNat = T.code) (ha : Names c f.a T va)
    (hb : Operand c (decide (2 ≤ e.args)) f.b T vb) (hc : Operand c (decide (3 ≤ e.args)) f.c T vc) :
    let K := unitExp T
    let u (v : Value) (k : Fin 32) : Int := units T (flushes T (modFtz f.md.toNat)) (v.nat k)
    let sg (v : Value) (k : Fin 32) : Bool := signOf T (v.nat k)
    CompletesFlagging (exec (e.con f) s) s x e.op.opc T m va.nat fun k d =>
      isFinite T (va.nat k) → isFinite T (vb.nat k) → isFinite T (vc.nat k) → e.den K (u va k) (u vb k) (u vc k) ≠ 0 →
      DeliversUnits T (modRd f.md.toNat) (flushes T (modFtz f.md.toNat)) (e.num K (u va k) (u vb k) (u vc k))
        (e.den K (u va k) (u vb k) (u vc k))
        (e.zero (u va k) (u vb k) (u vc k) (sg va k) (sg vb k) (sg vc k) (modRd f.md.toNat == 3)) d := by
  obtain ⟨g, hg⟩ := fltRows_spec e he
  rw [hg.exec]
  refine (completes_flt hx ht (hg.form T hT _ (mdRdFtz_of hmd)) ha hb hc hm hg.core).mono fun k d hd hfa hfb hfc hden => ?_
  obtain ⟨v, hv, sgn, r, hh, hN, hz⟩ := hg.value (laneIn x c f m T va vb vc) k hT hfa hfb hfc hden
  rw [hd, hv]
  refine (rnd_mod hT _ _ hh).symm ▸ hh.rnd_delivers hT _ (Nat.pos_of_ne_zero hden) ?_ hz
  rw [← unitExp_eq hT]
  exact hN

theorem fscale_completes (hT : T ∈ tyFlt) (ht : f.typ.toNat = T.code) (ha : Names c f.a T va) (hb : Names c f.b .i32 vb) (hc : f.c = 0) :
    CompletesFlagging (exec (.fscale f) s) s x 0x05D T m va.nat fun k d =>
      isFinite T (va.nat k) →
        DeliversUnits T (modRd f.md.toNat) (flushes T (modFtz f.md.toNat))
          (units T (flushes T (modFtz f.md.toNat)) (va.nat k) * 2 ^ (toInt .i32 (vb.nat k)).toNat) (2 ^ (-toInt .i32 (vb.nat k)).toNat)
          (some (signOf T (va.nat k))) d := by
  refine (completesFlagging_opA (op := opFscale) (cc := .void) hx ht (form_of_mem hT (mdRdFtz_of hmd) _) (fetchArg_one ha)
    (fetchArg_one hb) (fetchArg_none hc) rfl hm rfl rfl ha.2.2).mono fun k d hd hfin => ?_
  have hA := (OpIn.in_holds (i := laneIn x c f m T va vb .void) hT).1 hfin
  have hn : (laneIn x c f m T va vb .void).ib k = toInt .i32 (vb.nat k) := congrArg (toInt · _) hb.2.2
  rw [hd]
  refine (rnd_mod hT _ _ (hA.scale _)).symm ▸ ?_
  rw [hn]
  exact fscale_delivers hT hA (natAbs_units_le hT hfin _) _ _ _

theorem fltOp1_completes {opc : Nat} {F : Exact → Option Exact × Nat} (hT : T ∈ tyFlt) (ht : f.typ.toNat = T.code) (ha : Names c f.a T va)
    (hb : f.b = 0) (hc : f.c = 0) :
    CompletesFlagging (runOp (fltOp1 opc F) f s) s x opc T m va.nat fun k d =>
      d = (flt1 F (laneIn x c f m T va .void .void) k).1 % 2 ^ T.bits :=
  completes_flt (given2 := false) (given3 := false) hx ht (form_of_mem hT (mdRdFtz_of hmd) _) ha ⟨hb, rfl⟩ ⟨hc, rfl⟩ hm fun _ _ => rfl

theorem fltOp2_completes {opc : Nat} {F : Nat → Exact → Exact → Option Exact × Nat} (hT : T ∈ tyFlt) (ht : f.typ.toNat = T.code)
    (ha : Names c f.a T va) (hb : Names c f.b T vb) (hc : f.c = 0) :
    CompletesFlagging (runOp (fltOp2 opc F) f s) s x opc T m va.nat fun k d =>
      d = (flt2 F (laneIn x c f m T va vb .void) k).1 % 2 ^ T.bits :=
  completes_flt (given2 := true) (given3 := false) hx ht (form_of_mem hT (mdRdFtz_of hmd) _) ha hb ⟨hc, rfl⟩ hm fun _ _ => rfl

theorem fdot2_completes (hT : T ∈ [Ty.f16, .bf16]) (ht : f.typ.toNat = T.code) (ha : Names c f.a .n32 va) (hb : Names c f.b .n32 vb)
    (hc : Names c f.c .f32 vc) :
    CompletesFlagging (exec (.fdot2 f) s) s x 0x05E .f32 m vc.nat fun k d => d = (fdot2Lane (laneIn x c f m T va vb vc) k).1 % 2 ^ Ty.f32.bits :=
  completesFlagging_opC (op := opFdot2) hx ht (formFor_some (Ty.ofCode_code T) hT (mdRdFtz_of hmd)) (fetchArg_one ha) (fetchArg_one hb)
    (fetchArg_one hc) rfl hm (fdot2_core _ _) rfl hc.2.2

end

/-- Settles O11: each operation has the exact value of its operands as real numbers, and `rnd` rounds that to the grid of its format. -/
theorem floatArithmetic : Obligations.FloatArithmetic := by
  unfold Obligations.FloatArithmetic
  intro s x fr c f m hx hm hmd
  dsimp only
  rw [← modFtz_eq]
  refine ⟨fun T va hT ht ha => ⟨fun e he vb vc hb hc => ?_, fun vb hb hc => ?_, fun hb hc => ⟨?_, ?_, ?_⟩,
    fun vb hb hc => ⟨?_, ?_, ?_, ?_⟩⟩,
    fun T va vb vc hT ht ha hb hc => ?_⟩
  · exact fltRow_completes hx hm hmd he hT ht ha hb hc
  · exact (fscale_completes hx hm hmd hT ht ha hb hc).mono fun k d h hfin _ => h hfin
  · exact (fltOp1_completes hx hm hmd hT ht ha hb hc).mono fun k d hd => hd ▸ fsqrt_lane (i := laneIn x c f m T va .void .void) hT
  · exact (fltOp1_completes hx hm hmd hT ht ha hb hc).mono fun k d hd => hd ▸ frsq_lane (i := laneIn x c f m T va .void .void) hT
  · exact (fltOp1_completes hx hm hmd hT ht ha hb hc).mono fun k d hd => hd ▸ frcp_lane (i := laneIn x c f m T va .void .void) hT
  · exact (fltOp2_completes hx hm hmd hT ht ha hb hc).mono fun k d hd ia ib => hd.trans (fadd_inf (i := laneIn x c f m T va vb .void) hT ia ib)
  · exact (fltOp2_completes hx hm hmd hT ht ha hb hc).mono fun k d hd ia ib => hd.trans (fsub_inf (i := laneIn x c f m T va vb .void) hT ia ib)
  · exact (fltOp2_completes hx hm hmd hT ht ha hb hc).mono fun k d hd => hd ▸ fmul_inf (i := laneIn x c f m T va vb .void) hT
  · exact (fltOp2_completes hx hm hmd hT ht ha hb hc).mono fun k d hd => hd ▸ fdiv_inf (i := laneIn x c f m T va vb .void) hT
  · refine (fdot2_completes hx hm hmd hT ht ha hb hc).mono fun k d hd => hd ▸ ?_
    have h := fdot2_lane (i := laneIn x c f m T va vb vc) (k := k) hT
    rw [flushes_f32] at h
    exact h

end Sys2Proof.Machine
end

section
/-!
PROOFS. Patterns that in() reads and `rnd` delivers unchanged, their order, and powers of two (02 R21; 07 R148-R150, R153).
-/

namespace Sys2Proof.Machine

open Sys2Proof

section
variable {T : Ty} (hT : T ∈ tyFlt)
include hT

/-! ## Values of the format -/

/-- A value of the format is delivered as it is. -/
theorem Exact.Holds.rnd_exact {v : Exact} {s : Bool} {r : ℝ} {c : Nat} (hv : v.Holds s r) (rd : Nat) {ftz : Bool}
    (hr : |r| * 2 ^ unitExp T = (floatFmt T).grid c) (hc : c < (floatFmt T).infBits)
    (hfl : flushes T ftz = true → c = 0 ∨ 2 ^ (floatFmt T).mb ≤ c) : (rnd T rd ftz v).1 = (floatFmt T).signPat s + c := by
  rw [unitExp_eq hT] at hr
  obtain ⟨code, hround, hrnd⟩ := hv.rnd_rounds (T := T) (ftz := ftz) rd fun h => by
    rcases hfl h with h0 | hmin
    · rw [h0, FloatFmt.grid_zero] at hr
      exact .inl (abs_eq_zero.mp ((mul_eq_zero_iff_right (by positivity)).mp hr))
    · rw [hr, ← FloatFmt.grid_normal]
      exact .inr ((floatFmt T).grid_strictMono.monotone hmin)
  rw [hr] at hround
  rw [hrnd, hround.eq_of_eq (floatFmt T).grid_strictMono, FloatFmt.delivered, if_neg (by omega)]

theorem deliver_inf (s : Bool) : deliver T (.inf s) = infOf T s := rnd_inf hT 0 false s

theorem deliver_nan_mod : deliver T .nan % 2 ^ T.bits = canonNan T := rnd_nan_mod hT 0 false

/-! ## Patterns that are no NaN and no subnormal -/

/-- Such a pattern as in() reads it. -/
theorem readIn_plain {x : Nat} (hn : ¬isNanBits T x) (hs : ¬isSubnormal T x) (ftz : Bool) :
    (floatFmt T).code x = (floatFmt T).infBits ∧ (readIn T ftz x).1 = .inf (signOf T x) ∨
    (floatFmt T).code x < (floatFmt T).infBits ∧ ((floatFmt T).code x = 0 ∨ 2 ^ (floatFmt T).mb ≤ (floatFmt T).code x) ∧
      (readIn T ftz x).1.Holds (signOf T x) (signedBy (signOf T x) ((floatFmt T).grid ((floatFmt T).code x)) / 2 ^ unitExp T) := by
  rw [isNanBits_iff hT, not_lt] at hn
  rw [isSubnormal_iff hT, not_and_or, Nat.pos_iff_ne_zero, not_not, not_lt] at hs
  rcases hn.lt_or_eq with hlt | heq
  · refine .inr ⟨hlt, hs, ?_⟩
    have h := readIn_holds hT ((isFinite_iff hT x).mpr hlt) ftz
    have hmag : (floatFmt T).magIn (flushes T ftz) ((floatFmt T).code x) = (floatFmt T).mag ((floatFmt T).code x) := by
      unfold FloatFmt.magIn
      split
      · rw [hs.resolve_right (by omega), FloatFmt.mag_zero]
      · rfl
    rwa [units_eq hT, hmag, ← unitExp_eq hT] at h
  · exact .inl ⟨heq, readIn_inf hT ((isInfBits_iff hT x).mpr heq) ftz⟩

/-- 07 R149, R150: such a pattern is delivered again, and so is its magnitude. -/
theorem deliver_plain {x : Nat} (hn : ¬isNanBits T x) (hs : ¬isSubnormal T x) (ftz : Bool) :
    (readIn T ftz x).1.isNan = false ∧ (readIn T ftz x).1.sign = signOf T x ∧
    deliver T (readIn T ftz x).1 = (floatFmt T).signPat (signOf T x) + (floatFmt T).code x ∧
    deliver T (readIn T ftz x).1.abs = (floatFmt T).code x := by
  rcases readIn_plain hT hn hs ftz with ⟨hc, hv⟩ | ⟨hc, hnormal, hv⟩
  · rw [hv, hc]
    refine ⟨rfl, rfl, (deliver_inf hT _).trans (infOf_eq hT _), ?_⟩
    exact ((deliver_inf hT false).trans (infOf_eq hT false)).trans (Nat.zero_add _)
  · have hg : |signedBy (signOf T x) ((floatFmt T).grid ((floatFmt T).code x)) / 2 ^ unitExp T| * 2 ^ unitExp T =
        (floatFmt T).grid ((floatFmt T).code x) := by
      rw [abs_div, abs_signedBy, abs_of_nonneg ((floatFmt T).grid_nonneg _), abs_of_nonneg (by positivity : (0 : ℝ) ≤ 2 ^ unitExp T),
        div_mul_cancel₀ _ (by positivity)]
    refine ⟨hv.isNan_eq, hv.sign_eq, hv.rnd_exact hT 0 hg hc fun _ => hnormal, ?_⟩
    exact (hv.abs.rnd_exact hT 0 (by rw [abs_abs]; exact hg) hc fun _ => hnormal).trans (Nat.zero_add _)

theorem eq_of_sign_code {x : Nat} (hx : x < 2 ^ T.bits) : (floatFmt T).signPat (signOf T x) + (floatFmt T).code x = x := by
  rw [signOf_eq hT]
  exact (FloatFmt.eq_signPat_add (hx.trans_eq (two_pow_bits_eq hT))).symm

/-! ## The order of patterns -/

end

/-- Signed terms of an increasing sequence of magnitudes stand as their indices do. -/
theorem signed_lt_iff {g : Nat → ℝ} (hg : StrictMono g) (h0 : g 0 = 0) (s t : Bool) (a b : Nat) :
    signedBy s (g a) < signedBy t (g b) ↔ (if s then -(a : Int) else a) < if t then -(b : Int) else b := by
  have ha : 0 ≤ g a := h0 ▸ hg.monotone (Nat.zero_le a)
  have hb : 0 ≤ g b := h0 ▸ hg.monotone (Nat.zero_le b)
  have hzero : ∀ n, g n ≤ 0 ↔ n = 0 := fun n => by rw [← h0, hg.le_iff_le, Nat.le_zero]
  cases s <;> cases t <;> simp only [signedBy_false, signedBy_true, if_true, if_false, Bool.false_eq_true]
  · rw [hg.lt_iff_lt, Nat.cast_lt]
  · exact iff_of_false (by linarith) (by omega)
  · have h : ¬(g a ≤ 0 ∧ g b ≤ 0) ↔ ¬(a = 0 ∧ b = 0) := by rw [hzero, hzero]
    refine Iff.trans ⟨fun hlt hle => ?_, fun hne => ?_⟩ (h.trans ⟨fun hne => by omega, fun hlt => by omega⟩)
    · linarith [hle.1, hle.2]
    · by_contra hge
      exact hne ⟨by linarith, by linarith⟩
  · rw [neg_lt_neg_iff, hg.lt_iff_lt]
    omega

/-- 07 R148: the comparison of finite values. -/
theorem Exact.Holds.cmp {x y : Exact} {s t : Bool} {r q : ℝ} (h : x.Holds s r) (h' : y.Holds t q) :
    (x.cmp y < 0 ↔ r < q) ∧ (x.cmp y = 0 ↔ r = q) := by
  obtain ⟨n, d, e, rfl, hd, hr⟩ := h
  obtain ⟨n', d', e', rfl, hd', hq⟩ := h'
  have hx := Exact.numOver_eq s n (m := d') hd (min_le_left e e')
  have hy := Exact.numOver_eq t n' (m := d) hd' (min_le_right e e')
  rw [Nat.mul_comm d' d, ← hq] at hy
  rw [← hr] at hx
  have hdd : (0 : ℝ) < (d * d' : Nat) := by exact_mod_cast Nat.mul_pos hd hd'
  have hpow : (0 : ℝ) < 2 ^ min e e' := by positivity
  simp only [Exact.cmp]
  rw [Int.sign_neg_iff, Int.sign_eq_zero_iff_zero, sub_neg, sub_eq_zero, ← Int.cast_lt (R := ℝ), ← Int.cast_inj (α := ℝ), hx, hy,
    div_lt_div_iff_of_pos_right hpow, div_left_inj' hpow.ne', mul_lt_mul_iff_left₀ hdd, mul_left_inj' hdd.ne']
  exact ⟨Iff.rfl, Iff.rfl⟩

/-- A pattern's place among those that are no NaN, where its zeros are one. -/
def signedCode (T : Ty) (x : Nat) : Int :=
  if signOf T x then -((x % 2 ^ (T.bits - 1) : Nat) : Int) else ((x % 2 ^ (T.bits - 1) : Nat) : Int)

section
variable {T : Ty} (hT : T ∈ tyFlt)
include hT

theorem signedCode_eq (x : Nat) :
    signedCode T x = if signOf T x then -((floatFmt T).code x : Int) else ((floatFmt T).code x : Int) := by
  rw [signedCode, ← signBit_eq hT]
  rfl

/-- 07 R148: patterns are compared as their signed codes. -/
theorem cmp_plain {x y : Nat} (hx : ¬isNanBits T x ∧ ¬isSubnormal T x) (hy : ¬isNanBits T y ∧ ¬isSubnormal T y) (ftz : Bool) :
    ((readIn T ftz x).1.cmp (readIn T ftz y).1 < 0 ↔ signedCode T x < signedCode T y) ∧
      ((readIn T ftz x).1.cmp (readIn T ftz y).1 = 0 ↔ signedCode T x = signedCode T y) := by
  have hinf : 0 < (floatFmt T).infBits := (Nat.two_pow_pos _).trans_le (floatFmt_wide T).infBits_pos
  simp only [signedCode_eq hT]
  rcases readIn_plain hT hx.1 hx.2 ftz with ⟨hc, hv⟩ | ⟨hc, -, hv⟩ <;> rcases readIn_plain hT hy.1 hy.2 ftz with ⟨hc', hv'⟩ | ⟨hc', -, hv'⟩
  · rw [hv, hv', hc, hc']
    cases signOf T x <;> cases signOf T y <;> simp [Exact.cmp] <;> omega
  · obtain ⟨n, d, e, hfin, -, -⟩ := hv'
    rw [hv, hfin, hc]
    cases signOf T x <;> cases signOf T y <;> simp [Exact.cmp] <;> omega
  · obtain ⟨n, d, e, hfin, -, -⟩ := hv
    rw [hv', hfin, hc']
    cases signOf T x <;> cases signOf T y <;> simp [Exact.cmp] <;> omega
  · have hg := (floatFmt T).grid_strictMono
    have h0 := (floatFmt T).grid_zero
    have hK : (0 : ℝ) < 2 ^ unitExp T := by positivity
    obtain ⟨hlt, heq⟩ := hv.cmp hv'
    rw [hlt, heq, div_lt_div_iff_of_pos_right hK, div_left_inj' hK.ne', signed_lt_iff hg h0]
    refine ⟨Iff.rfl, ?_⟩
    rw [eq_iff_le_not_lt, ← not_lt, signed_lt_iff hg h0, signed_lt_iff hg h0]
    omega

theorem isZero_plain {x : Nat} (hx : ¬isNanBits T x ∧ ¬isSubnormal T x) (ftz : Bool) :
    (readIn T ftz x).1.isZero = true ↔ (floatFmt T).code x = 0 := by
  have hinf : 0 < (floatFmt T).infBits := (Nat.two_pow_pos _).trans_le (floatFmt_wide T).infBits_pos
  rcases readIn_plain hT hx.1 hx.2 ftz with ⟨hc, hv⟩ | ⟨hc, -, hv⟩
  · rw [hv, hc]
    exact iff_of_false nofun hinf.ne'
  · rw [hv.isZero_iff, div_eq_zero_iff, or_iff_left (by positivity), signedBy_eq_zero, ← (floatFmt T).grid_zero,
      (floatFmt T).grid_strictMono.injective.eq_iff]

/-- 07 R149: the order of `fmin` and `fmax`. -/
theorem fltLess_plain {x y : Nat} (hx : ¬isNanBits T x ∧ ¬isSubnormal T x) (hy : ¬isNanBits T y ∧ ¬isSubnormal T y) (ftz : Bool) :
    fltLess (readIn T ftz x).1 (readIn T ftz y).1 = true ↔ orderKey T x < orderKey T y := by
  obtain ⟨hlt, heq⟩ := cmp_plain hT hx hy ftz
  have hsx := (deliver_plain hT hx.1 hx.2 ftz).2.1
  have hsy := (deliver_plain hT hy.1 hy.2 ftz).2.1
  have hzx := isZero_plain hT hx ftz
  have hzy := isZero_plain hT hy ftz
  simp only [fltLess, Bool.or_eq_true, Bool.and_eq_true, decide_eq_true_eq, beq_iff_eq, Bool.not_eq_true', hlt, heq, hsx, hsy, hzx, hzy,
    signedCode_eq hT, orderKey, ← signBit_eq hT]
  change _ ↔ (if signOf T x = true then -((floatFmt T).code x : Int) - 1 else (floatFmt T).code x) <
    if signOf T y = true then -((floatFmt T).code y : Int) - 1 else (floatFmt T).code y
  cases signOf T x <;> cases signOf T y <;> simp <;> omega

/-! ## Powers of two -/

end

end Sys2Proof.Machine
end

section
/-!
PROOFS. NaN operands, comparison, minimum and maximum, operations on the sign bit, and classes (07 R147-R150, R152; O12).
-/

namespace Sys2Proof.Machine

open Sys2Proof

/-! ## NaN operands -/

section
variable {i : OpIn} {k : Fin 32} (hT : i.ty ∈ tyFlt)
include hT

theorem flt1_nan (F : Exact → Option Exact × Nat) (h : isNanBits i.ty (i.a.nat k)) : (flt1 F i k).1 % 2 ^ i.ty.bits = canonNan i.ty := by
  have hA : (i.inA k).1 = .nan := readIn_nan hT h _
  simp only [flt1, hA, Exact.isNan, if_true]
  exact canonNan_mod hT

theorem flt2_nan (F : Nat → Exact → Exact → Option Exact × Nat) (h : isNanBits i.ty (i.a.nat k) ∨ isNanBits i.ty (i.b.nat k)) :
    (flt2 F i k).1 % 2 ^ i.ty.bits = canonNan i.ty := by
  have hn : anyNan [(i.inA k).1, (i.inB k).1] = true := by
    rcases h with h | h
    · have hA : (i.inA k).1 = .nan := readIn_nan hT h _
      simp [anyNan, hA, Exact.isNan]
    · have hB : (i.inB k).1 = .nan := readIn_nan hT h _
      simp [anyNan, hB, Exact.isNan]
  simp only [flt2, hn, if_true]
  exact canonNan_mod hT

end

/-! ## Minimum and maximum -/

section
variable {T : Ty} (hT : T ∈ tyFlt)
include hT

theorem readIn_isNan {x : Nat} (h : isNanBits T x) (ftz : Bool) : (readIn T ftz x).1.isNan = true := by
  rw [readIn_nan hT h]
  rfl

/-- The statements' patterns that every operation of this file takes as they are. -/
theorem deliver_readIn_mod {x : Nat} (hx : x < 2 ^ T.bits ∧ ¬isNanBits T x ∧ ¬isSubnormal T x) (ftz : Bool) :
    deliver T (readIn T ftz x).1 % 2 ^ T.bits = x := by
  rw [(deliver_plain hT hx.2.1 hx.2.2 ftz).2.2.1, eq_of_sign_code hT hx.1, Nat.mod_eq_of_lt hx.1]

/-- 07 R149: `fmin` and `fmax` in a lane. -/
theorem fltMinMax_lane (mx ftz : Bool) (a b : Nat) :
    let same (x : Nat) : Prop := x < 2 ^ T.bits ∧ ¬isNanBits T x ∧ ¬isSubnormal T x
    let d := (fltMinMax T mx (readIn T ftz a) (readIn T ftz b)).1 % 2 ^ T.bits
    (isNanBits T a → isNanBits T b → d = canonNan T) ∧ (isNanBits T a → same b → d = b) ∧ (same a → isNanBits T b → d = a) ∧
    (same a → same b → d = if (if mx then orderKey T a < orderKey T b else orderKey T b < orderKey T a) then b else a) := by
  dsimp only
  refine ⟨fun ha hb => ?_, fun ha hb => ?_, fun ha hb => ?_, fun ha hb => ?_⟩
  · simp only [fltMinMax, readIn_isNan hT ha, readIn_isNan hT hb, Bool.and_self, if_true]
    exact canonNan_mod hT
  · have hbn := (deliver_plain hT hb.2.1 hb.2.2 ftz).1
    simp only [fltMinMax, readIn_isNan hT ha, hbn, Bool.and_false, Bool.false_eq_true, if_false, if_true]
    exact deliver_readIn_mod hT hb ftz
  · have han := (deliver_plain hT ha.2.1 ha.2.2 ftz).1
    simp only [fltMinMax, readIn_isNan hT hb, han, Bool.false_and, Bool.false_eq_true, if_false, if_true]
    exact deliver_readIn_mod hT ha ftz
  · have han := (deliver_plain hT ha.2.1 ha.2.2 ftz).1
    have hbn := (deliver_plain hT hb.2.1 hb.2.2 ftz).1
    have hpick : (if mx then fltLess (readIn T ftz a).1 (readIn T ftz b).1 else fltLess (readIn T ftz b).1 (readIn T ftz a).1) = true ↔
        if mx then orderKey T a < orderKey T b else orderKey T b < orderKey T a := by
      cases mx
      · exact fltLess_plain hT hb.2 ha.2 ftz
      · exact fltLess_plain hT ha.2 hb.2 ftz
    simp only [fltMinMax, han, hbn, Bool.and_self, Bool.false_eq_true, if_false]
    by_cases hp : if mx then orderKey T a < orderKey T b else orderKey T b < orderKey T a
    · rw [if_pos hp, if_pos (hpick.mpr hp)]
      exact deliver_readIn_mod hT hb ftz
    · rw [if_neg hp, if_neg (mt hpick.mp hp)]
      exact deliver_readIn_mod hT ha ftz

/-! ## The sign bit -/

/-- A pattern's bits when its sign is replaced. -/
theorem hasBits_sign (s : Bool) (x : Nat) :
    HasBits T.bits (fun j => if j = T.bits - 1 then s else x.testBit j) ((floatFmt T).signPat s + (floatFmt T).code x) := by
  refine ⟨(FloatFmt.signPat_add ((floatFmt T).code_lt x)).2.2.trans_eq (two_pow_bits_eq hT).symm, fun j hj => ?_⟩
  have hpat : (floatFmt T).signPat s = 2 ^ (T.bits - 1) * s.toNat := by
    rw [← signBit_eq hT, FloatFmt.signPat]
    cases s <;> simp
  have hcode : (floatFmt T).code x = x % 2 ^ (T.bits - 1) := by rw [← signBit_eq hT]; rfl
  rw [hpat, hcode, Nat.testBit_two_pow_mul_add _ (Nat.mod_lt _ (Nat.two_pow_pos _))]
  dsimp only
  rcases Nat.lt_or_ge j (T.bits - 1) with hlt | hge
  · rw [if_pos hlt, if_neg hlt.ne, Nat.testBit_mod_two_pow, decide_eq_true hlt, Bool.true_and]
  · obtain rfl : j = T.bits - 1 := by omega
    rw [if_neg (lt_irrefl _), if_pos rfl, Nat.sub_self]
    cases s <;> rfl

end

/-- What an operation on the sign bit computes in a lane. -/
def signLane (two : Bool) (sg : Bool → Bool → Bool) (i : OpIn) (k : Fin 32) : Nat × Nat :=
  let f := floatFmt i.ty
  let x := i.inA k
  let y := if two then i.inB k else (Exact.zero, 0)
  let sb := i.b.nat k / f.signBit % 2 == 1
  let m := deliver i.ty x.1.abs
  if x.1.isNan then (f.nanBits, x.2 ||| y.2)
  else (m + (if sg x.1.sign sb then f.signBit else 0), x.2 ||| y.2)

theorem signOp_core (opc : Nat) (two : Bool) (sg : Bool → Bool → Bool) (i : OpIn) (s : State) :
    (signOp opc two sg).core i s = doneIeee i.ty i s (signLane two sg i) := rfl

/-- 07 R150: an operation on the sign bit in a lane. -/
theorem signLane_spec {i : OpIn} {k : Fin 32} (hT : i.ty ∈ tyFlt) (two : Bool) (sg : Bool → Bool → Bool) :
    (isNanBits i.ty (i.a.nat k) → (signLane two sg i k).1 % 2 ^ i.ty.bits = canonNan i.ty) ∧
    (i.a.nat k < 2 ^ i.ty.bits ∧ ¬isNanBits i.ty (i.a.nat k) ∧ ¬isSubnormal i.ty (i.a.nat k) →
      HasBits i.ty.bits (fun j => if j = i.ty.bits - 1 then sg ((i.a.nat k).testBit j) ((i.b.nat k).testBit j) else (i.a.nat k).testBit j)
        ((signLane two sg i k).1 % 2 ^ i.ty.bits)) := by
  refine ⟨fun hn => ?_, fun ⟨_, hn, hs⟩ => ?_⟩
  · have hA : (i.inA k).1 = .nan := readIn_nan hT hn _
    simp only [signLane, hA, Exact.isNan, if_true]
    exact canonNan_mod hT
  · obtain ⟨hnan, hsign, -, habs⟩ := deliver_plain hT hn hs (modFtz i.md)
    have hval : (signLane two sg i k).1 =
        (floatFmt i.ty).signPat (sg (signOf i.ty (i.a.nat k)) (signOf i.ty (i.b.nat k))) + (floatFmt i.ty).code (i.a.nat k) := by
      simp only [signLane, OpIn.inA, hnan, hsign, habs, ← signOf_eq hT, Bool.false_eq_true, if_false]
      exact Nat.add_comm _ _
    rw [hval, signPat_add_mod hT ((floatFmt i.ty).code_lt _)]
    have hbits := hasBits_sign hT (sg (signOf i.ty (i.a.nat k)) (signOf i.ty (i.b.nat k))) (i.a.nat k)
    refine ⟨hbits.1, fun j hj => (hbits.2 j hj).trans (if_ctx_congr Iff.rfl (fun htop => ?_) fun _ => rfl)⟩
    rw [signOf, signOf, htop]

/-! ## Comparison -/

/-- What `fcmp` computes in a lane. -/
def fcmpLane (i : OpIn) (k : Fin 32) : Nat × Nat :=
  let x := i.inA k
  let y := i.inB k
  let cc := i.md % 8
  let iv := if 2 ≤ cc && cc ≤ 5 && anyNan [x.1, y.1] then fIV else 0
  (if fltCond cc x.1 y.1 then 1 else 0, x.2 ||| y.2 ||| iv)

theorem fcmp_core (i : OpIn) (s : State) : opFcmp.core i s = doneIeee .pred i s (fcmpLane i) := rfl

/-- The conditions of `fcmp` over a comparison's sign. -/
theorem fltCond_iff {cc : Nat} (hcc : cc < 8) {x y : Exact} (hx : x.isNan = false) (hy : y.isNan = false) {p q : Int}
    (hlt : x.cmp y < 0 ↔ p < q) (heq : x.cmp y = 0 ↔ p = q) :
    fltCond cc x y = true ↔ (cc = 0 ∧ p = q) ∨ (cc = 1 ∧ p ≠ q) ∨ (cc = 2 ∧ p < q) ∨ (cc = 3 ∧ p ≤ q) ∨ (cc = 4 ∧ q < p) ∨
      (cc = 5 ∧ q ≤ p) ∨ cc = 7 := by
  simp only [fltCond, hx, hy, Bool.or_self, Bool.false_eq_true, if_false]
  interval_cases cc <;> simp <;> omega

/-- 07 R148: `fcmp` in a lane. -/
theorem fcmp_lane {i : OpIn} {k : Fin 32} (hT : i.ty ∈ tyFlt) :
    let same (v : Value) : Prop := v.nat k < 2 ^ i.ty.bits ∧ ¬isNanBits i.ty (v.nat k) ∧ ¬isSubnormal i.ty (v.nat k)
    let cc := i.md % 8
    let p := signedCode i.ty (i.a.nat k)
    let q := signedCode i.ty (i.b.nat k)
    let d := (fcmpLane i k).1 % 2 ^ Ty.pred.bits
    (isNanBits i.ty (i.a.nat k) ∨ isNanBits i.ty (i.b.nat k) → d = if cc = 1 ∨ cc = 6 then 1 else 0) ∧
    (same i.a → same i.b → (d = 0 ∨ d = 1) ∧
      (d = 1 ↔ (cc = 0 ∧ p = q) ∨ (cc = 1 ∧ p ≠ q) ∨ (cc = 2 ∧ p < q) ∨ (cc = 3 ∧ p ≤ q) ∨ (cc = 4 ∧ q < p) ∨ (cc = 5 ∧ q ≤ p) ∨ cc = 7)) := by
  dsimp only
  have hd : (fcmpLane i k).1 % 2 ^ Ty.pred.bits = if fltCond (i.md % 8) (i.inA k).1 (i.inB k).1 = true then 1 else 0 := by
    unfold fcmpLane
    dsimp only
    split <;> rfl
  rw [hd]
  refine ⟨fun h => ?_, fun ha hb => ⟨?_, ?_⟩⟩
  · have hn : ((i.inA k).1.isNan || (i.inB k).1.isNan) = true := by
      rcases h with h | h
      · have hA : (i.inA k).1 = .nan := readIn_nan hT h _
        rw [hA]
        rfl
      · have hB : (i.inB k).1 = .nan := readIn_nan hT h _
        rw [hB]
        exact Bool.or_true _
    simp [fltCond, hn]
  · split
    · exact .inr rfl
    · exact .inl rfl
  · obtain ⟨hlt, heq⟩ := cmp_plain hT ha.2 hb.2 (modFtz i.md)
    rw [← fltCond_iff (Nat.mod_lt _ (by decide)) (deliver_plain hT ha.2.1 ha.2.2 (modFtz i.md)).1
      (deliver_plain hT hb.2.1 hb.2.2 (modFtz i.md)).1 hlt heq]
    exact ite_eq_iff'.trans (by simp [OpIn.inA, OpIn.inB])

/-! ## Classes -/

theorem units_eq_zero_iff {T : Ty} (hT : T ∈ tyFlt) (flush : Bool) (a : Nat) :
    units T flush a = 0 ↔ a / 2 ^ (floatFmt T).mb % 2 ^ (floatFmt T).eb = 0 ∧ (flush = true ∨ a % 2 ^ (floatFmt T).mb = 0) := by
  have hneg : ∀ (s : Bool) (n : Nat), (if s then -(n : Int) else (n : Int)) = 0 ↔ n = 0 := fun s n => by cases s <;> simp
  simp only [units, fltWidths_eq hT, hneg]
  split
  · rename_i he
    cases flush <;> simp [he]
  · rename_i he
    simp [he]

/-- 07 R152: the class of a pattern. -/
theorem fltClass_spec {T : Ty} (hT : T ∈ tyFlt) (ftz : Bool) (a : Nat) :
    let neg := signOf T a
    let top := a.testBit ((fltWidths T).2 - 1)
    let flush := flushes T ftz
    let d := 2 ^ fltClass T ftz a % 2 ^ Ty.n32.bits
    (isNanBits T a → d = if top then 2 else 1) ∧ (isInfBits T a → d = if neg then 4 else 512) ∧
    (isFinite T a → isSubnormal T a → flush = false → d = if neg then 16 else 128) ∧
    (isFinite T a → units T flush a = 0 → d = if neg then 32 else 64) ∧
    (isFinite T a → ¬isSubnormal T a → units T flush a ≠ 0 → d = if neg then 8 else 256) := by
  have hmax : 2 ^ (floatFmt T).eb - 1 ≠ 0 := by rcases mem_tyFlt_cases hT with rfl | rfl | rfl <;> decide
  simp only [isNanBits, isInfBits, isFinite, isSubnormal, ne_eq, units_eq_zero_iff hT, fltWidths_eq hT, fltClass, FloatFmt.isSnan,
    ← signOf_eq hT, Nat.testBit_eq_decide_div_mod_eq]
  refine ⟨fun ⟨he, hm⟩ => ?_, fun ⟨he, hm⟩ => ?_, fun _ ⟨he, hm⟩ hfl => ?_, fun _ ⟨he, hz⟩ => ?_, fun he hs hu => ?_⟩
  · rcases Nat.mod_two_eq_zero_or_one (a / 2 ^ ((floatFmt T).mb - 1)) with h | h <;> simp [he, hm, h, Ty.bits]
  · rw [not_not] at he
    cases signOf T a <;> simp [he, hm, Ty.bits]
  · cases signOf T a <;> simp [he, hm, hfl, hmax.symm, Ty.bits]
  · have hlow : (a % 2 ^ (floatFmt T).mb == 0 || flushes T ftz) = true := by simpa [or_comm] using hz
    cases signOf T a <;> simp [he, hlow, hmax.symm, Ty.bits]
  · have hnormal : a / 2 ^ (floatFmt T).mb % 2 ^ (floatFmt T).eb ≠ 0 := fun h0 => by
      rw [not_and, not_not] at hs
      exact hu ⟨h0, .inr (hs h0)⟩
    cases signOf T a <;> simp [he, hnormal, Ty.bits]

end Sys2Proof.Machine
end

section
/-!
PROOFS. Rounding to an integral value (07 R151; O12).
-/

namespace Sys2Proof.Machine

open Sys2Proof

/-! ## Rounding to whole numbers -/

section
variable {rd : Nat} {neg : Bool} {y : ℝ} {m : Nat}

/-- Whole numbers that a magnitude is rounded to lie within one of it, on the side that the rounding code names. -/
theorem RoundsOn.whole_down (h : RoundsOn (fun m => (m : ℝ)) rd neg y m) (hd : roundsDown rd neg) : (m : ℝ) ≤ y ∧ y < m + 1 := by
  obtain ⟨hle, hmost⟩ := h.down Nat.strictMono_cast hd
  refine ⟨hle, not_le.mp fun hge => ?_⟩
  have := hmost (m + 1) (by push_cast; exact hge)
  push_cast at this
  linarith

theorem RoundsOn.whole_up (h : RoundsOn (fun m => (m : ℝ)) rd neg y m) (hu : roundsAway rd neg) (hy : 0 ≤ y) : y ≤ m ∧ (m : ℝ) < y + 1 := by
  obtain ⟨hle, hleast⟩ := h.up Nat.strictMono_cast hu
  refine ⟨hle, not_le.mp fun hge => ?_⟩
  rcases m with _ | n
  · push_cast at hge
    linarith
  · push_cast at hge hleast
    have := hleast n (by linarith)
    linarith

theorem RoundsOn.whole_nearest (h : RoundsOn (fun m => (m : ℝ)) 0 neg y m) :
    2 * |(m : ℝ) - y| ≤ 1 ∧ (2 * |(m : ℝ) - y| = 1 → m % 2 = 0) := by
  obtain ⟨l, hlo, hhi, ⟨rfl, hup⟩ | ⟨rfl, hup⟩⟩ := h
  · rw [abs_sub_comm, abs_of_nonneg (by linarith)]
    simp only [GoesUp, not_or, not_and, not_lt] at hup
    push_cast at hup
    exact ⟨by linarith, fun heq => Nat.mod_two_ne_one.mp (hup.2 (by linarith))⟩
  · rw [abs_of_nonneg (by linarith)]
    simp only [GoesUp] at hup
    push_cast at hup ⊢
    rcases hup with hlt | ⟨heq, hodd⟩
    · exact ⟨by linarith, fun heq => by linarith⟩
    · exact ⟨by linarith, fun _ => by omega⟩

end

/-- 07 R151: an integral value of a finite value. -/
theorem Exact.Holds.integral {v : Exact} {s : Bool} {r : ℝ} (hv : v.Holds s r) (rd : Nat) :
    ∃ m : Nat, RoundsOn (fun m => (m : ℝ)) rd s |r| m ∧ (integral rd v).Holds s (signedBy s m) := by
  obtain ⟨n, d, e, rfl, hd, rfl⟩ := hv
  rw [abs_signedBy, abs_of_nonneg (ratio_nonneg n d e)]
  rcases eq_or_ne n 0 with rfl | hn
  · refine ⟨0, ?_, 0, d, e, rfl, hd, by simp [ratio]⟩
    have h0 : ratio 0 d e = ((0 : Nat) : ℝ) := by simp [ratio]
    rw [h0]
    exact RoundsOn.self Nat.strictMono_cast
  · have hround := roundAt_rounds rd s n hd e 0
    rw [sub_zero] at hround
    exact ⟨_, hround, (roundAt rd s n d e 0).1, 1, 0, by simp only [Machine.integral, hn, if_false], one_pos, by simp [ratio]⟩

/-! ## Whole numbers in a format -/

section
variable {T : Ty} (hT : T ∈ tyFlt)
include hT

theorem unitExp_bounds : (floatFmt T).mb ≤ unitExp T ∧ unitExp T + (floatFmt T).mb < (floatFmt T).mb + 2 * (floatFmt T).bias := by
  rcases mem_tyFlt_cases hT with rfl | rfl | rfl <;> decide

/-- A whole number of at most mb + 1 bits is a value of the format. -/
theorem exists_grid_whole {m : Nat} (hm : m ≤ 2 ^ (floatFmt T).mb) :
    ∃ c < (floatFmt T).infBits, (floatFmt T).grid c = m * 2 ^ unitExp T ∧ (c = 0 ∨ 2 ^ (floatFmt T).mb ≤ c) := by
  obtain ⟨hK, hlast⟩ := unitExp_bounds hT
  have hwide := floatFmt_wide T
  generalize floatFmt T = f at *
  generalize unitExp T = K at *
  rcases Nat.eq_zero_or_pos m with rfl | hpos
  · exact ⟨0, (Nat.two_pow_pos _).trans_le hwide.infBits_pos, by simp, .inl rfl⟩
  have hlog := log2_bounds hpos
  have hlogmb : Nat.log2 m ≤ f.mb := (Nat.pow_le_pow_iff_right one_lt_two).mp (hlog.1.trans hm)
  obtain ⟨i, hi⟩ : ∃ i, f.mb = Nat.log2 m + i := ⟨_, (Nat.add_sub_cancel' hlogmb).symm⟩
  have hlow : 2 ^ f.mb ≤ m * 2 ^ i := by
    rw [hi, pow_add]
    exact Nat.mul_le_mul_right _ hlog.1
  have hhigh : m * 2 ^ i ≤ 2 ^ (f.mb + 1) := by
    rw [hi, Nat.add_right_comm, pow_add]
    exact Nat.mul_le_mul_right _ hlog.2.le
  have hmag := f.mag_scaled (j := K - i) hhigh (.inr hlow)
  have hval : f.mag ((K - i) * 2 ^ f.mb + m * 2 ^ i) = m * 2 ^ K := by
    rw [hmag, Nat.mul_assoc, ← pow_add]
    congr 2
    omega
  refine ⟨(K - i) * 2 ^ f.mb + m * 2 ^ i, ?_, ?_, .inr (hlow.trans (Nat.le_add_left _ _))⟩
  · rw [← f.mag_strictMono.lt_iff_lt, hval, hwide.mag_last.2]
    calc m * 2 ^ K ≤ 2 ^ f.mb * 2 ^ K := Nat.mul_le_mul_right _ hm
      _ = 2 ^ (K + f.mb) := by rw [← pow_add, Nat.add_comm]
      _ < 2 ^ (f.mb + 2 * f.bias) := Nat.pow_lt_pow_right one_lt_two hlast
      _ = 2 ^ (f.mb + 1) * 2 ^ (2 * f.bias - 1) := by
        rw [← pow_add]
        congr 1
        have := hwide.bias_pos
        omega
  · rw [FloatFmt.grid, hval]
    push_cast
    rfl

/-- 07 R151: the whole number that a value of the format is rounded to is a value of the format. -/
theorem exists_grid_integral {rd c m : Nat} {s : Bool} (hc : c < (floatFmt T).infBits)
    (h : RoundsOn (fun m => (m : ℝ)) rd s ((floatFmt T).grid c / 2 ^ unitExp T) m) :
    ∃ c' < (floatFmt T).infBits, (floatFmt T).grid c' = m * 2 ^ unitExp T ∧ (c' = 0 ∨ 2 ^ (floatFmt T).mb ≤ c') := by
  have hK : (0 : ℝ) < 2 ^ unitExp T := by positivity
  rcases le_or_gt ((floatFmt T).grid c / 2 ^ unitExp T) ((2 ^ (floatFmt T).mb : Nat) : ℝ) with hle | hgt
  · exact exists_grid_whole hT (h.le_of_le Nat.strictMono_cast hle)
  · rw [lt_div_iff₀ hK] at hgt
    obtain ⟨j, n, hcode, hn, hj⟩ := (floatFmt T).exists_scaled c
    have hgrid : (floatFmt T).grid c = n * 2 ^ j := by
      rw [hcode, FloatFmt.grid, (floatFmt T).mag_scaled hn.le hj]
      push_cast
      rfl
    have hKj : unitExp T ≤ j := by
      have hlt : (2 : ℝ) ^ ((floatFmt T).mb + unitExp T) < 2 ^ ((floatFmt T).mb + 1 + j) := by
        calc (2 : ℝ) ^ ((floatFmt T).mb + unitExp T) = (2 ^ (floatFmt T).mb : Nat) * 2 ^ unitExp T := by rw [pow_add]; push_cast; rfl
          _ < n * 2 ^ j := hgrid ▸ hgt
          _ ≤ 2 ^ ((floatFmt T).mb + 1) * 2 ^ j := mul_le_mul_of_nonneg_right (by exact_mod_cast hn.le) (by positivity)
          _ = 2 ^ ((floatFmt T).mb + 1 + j) := by rw [← pow_add]
      have := (pow_lt_pow_iff_right₀ (by norm_num : (1 : ℝ) < 2)).mp hlt
      omega
    obtain ⟨i, rfl⟩ := Nat.exists_eq_add_of_le hKj
    have hwhole : (floatFmt T).grid c / 2 ^ unitExp T = ((n * 2 ^ i : Nat) : ℝ) := by
      rw [hgrid, pow_add]
      push_cast
      field_simp
    rw [hwhole] at h
    refine ⟨c, hc, ?_, .inr ?_⟩
    · rw [h.eq_of_eq Nat.strictMono_cast, ← hwhole, div_mul_cancel₀ _ hK.ne']
    · refine (floatFmt T).grid_strictMono.le_iff_le.mp ?_
      rw [FloatFmt.grid_normal]
      push_cast at hgt
      have h1 : (1 : ℝ) ≤ 2 ^ unitExp T := one_le_pow₀ (by norm_num)
      nlinarith [hgt, h1, (by positivity : (0 : ℝ) < 2 ^ (floatFmt T).mb)]

/-- The units of a finite pattern, flushed or not, are of a code of the format. -/
theorem exists_grid_units {x : Nat} (hx : isFinite T x) (flush : Bool) :
    ∃ c < (floatFmt T).infBits, (units T flush x : ℝ) = signedBy (signOf T x) ((floatFmt T).grid c) := by
  have hc := (isFinite_iff hT x).mp hx
  rw [units_eq hT, FloatFmt.magIn]
  split
  · exact ⟨0, (Nat.zero_le _).trans_lt hc, by simp⟩
  · exact ⟨_, hc, rfl⟩

end

/-! ## The operations -/

/-- What an operation of 07 R151 computes in a lane. -/
def integralLane (dir : Option Nat) (i : OpIn) (k : Fin 32) : Nat × Nat :=
  let x := i.inA k
  (deliver i.ty (integral (dir.getD (modRd i.md)) x.1), x.2)

theorem integralOp_core (opc : Nat) (dir : Option Nat) (i : OpIn) (s : State) :
    (integralOp opc dir).core i s = doneIeee i.ty i s (integralLane dir i) := rfl

section
variable {i : OpIn} {k : Fin 32} (hT : i.ty ∈ tyFlt) (dir : Option Nat)
include hT

theorem integralLane_nan (h : isNanBits i.ty (i.a.nat k)) : (integralLane dir i k).1 % 2 ^ i.ty.bits = canonNan i.ty := by
  have hA : (i.inA k).1 = .nan := readIn_nan hT h _
  simp only [integralLane, hA, integral]
  exact deliver_nan_mod hT

theorem integralLane_inf (h : isInfBits i.ty (i.a.nat k)) :
    (integralLane dir i k).1 % 2 ^ i.ty.bits = infOf i.ty (signOf i.ty (i.a.nat k)) := by
  have hA : (i.inA k).1 = .inf (signOf i.ty (i.a.nat k)) := readIn_inf hT h _
  simp only [integralLane, hA, integral]
  rw [deliver_inf hT, infOf_mod hT]

/-- A finite operand is rounded to a whole number of its sign. -/
theorem integralLane_whole (h : isFinite i.ty (i.a.nat k)) :
    let u := units i.ty (flushes i.ty (modFtz i.md)) (i.a.nat k)
    let s := signOf i.ty (i.a.nat k)
    let d := (integralLane dir i k).1 % 2 ^ i.ty.bits
    ∃ (m : Nat) (y : ℝ), 0 ≤ y ∧ RoundsOn (fun m => (m : ℝ)) (dir.getD (modRd i.md)) s y m ∧ (u : ℝ) = signedBy s y * 2 ^ unitExp i.ty ∧
      (units i.ty false d : ℝ) = signedBy s m * 2 ^ unitExp i.ty ∧ d < 2 ^ i.ty.bits ∧ isFinite i.ty d ∧ signOf i.ty d = s := by
  have hK : (0 : ℝ) < 2 ^ unitExp i.ty := by positivity
  have hA := (OpIn.in_holds hT).1 h
  obtain ⟨c, hc, hu⟩ := exists_grid_units hT h (flushes i.ty (modFtz i.md))
  have hg := (floatFmt i.ty).grid_nonneg c
  obtain ⟨m, hround, hint⟩ := hA.integral (dir.getD (modRd i.md))
  rw [hu, abs_div, abs_signedBy, abs_of_nonneg hg, abs_of_pos hK] at hround
  obtain ⟨c', hc', hgrid, hnormal⟩ := exists_grid_integral hT hc hround
  have hval : (integralLane dir i k).1 = (floatFmt i.ty).signPat (signOf i.ty (i.a.nat k)) + c' :=
    hint.rnd_exact hT 0 (by rw [abs_signedBy, Nat.abs_cast, hgrid]) hc' fun _ => hnormal
  have hcs := code_lt_signBit hc'
  dsimp only
  rw [hval, signPat_add_mod hT hcs]
  refine ⟨m, _, by positivity, hround, ?_, ?_, (FloatFmt.signPat_add hcs).2.2.trans_eq (two_pow_bits_eq hT).symm,
    isFinite_signPat_add hT hc', signOf_signPat_add hT hcs⟩
  · rw [hu, signedBy_mul, div_mul_cancel₀ _ hK.ne']
  · rw [units_signPat_add hT hcs, hgrid, signedBy_mul]

end

/-- 07 R151: a signed whole number of a rounding, in units. -/
theorem whole_units {rd m K : Nat} {s : Bool} {y : ℝ} {u r : Int} (hy : 0 ≤ y) (h : RoundsOn (fun m => (m : ℝ)) rd s y m)
    (hu : (u : ℝ) = signedBy s y * 2 ^ K) (hr : (r : ℝ) = signedBy s m * 2 ^ K) :
    (2 : Int) ^ K ∣ r ∧ (rd = 0 → 2 * (r - u).natAbs ≤ 2 ^ K ∧ (2 * (r - u).natAbs = 2 ^ K → (2 : Int) ^ (K + 1) ∣ r)) ∧
    (rd = 1 → r.natAbs ≤ u.natAbs ∧ u.natAbs < r.natAbs + 2 ^ K) ∧ (rd = 2 → u ≤ r ∧ r < u + 2 ^ K) ∧
    (rd = 3 → r ≤ u ∧ u < r + 2 ^ K) := by
  have hK : (0 : ℝ) < 2 ^ K := by positivity
  have hz : r = (if s then -(m : Int) else m) * 2 ^ K := by
    rw [← Int.cast_inj (α := ℝ), hr]
    cases s <;> simp
  have hdvd : ∀ j, (2 : Int) ^ j ∣ m * 2 ^ K → (2 : Int) ^ j ∣ r := fun j hj => by
    rw [hz]
    cases s
    · exact hj
    · simpa using hj
  have hle : (r ≤ u ↔ signedBy s (m : ℝ) ≤ signedBy s y) ∧ (u ≤ r ↔ signedBy s y ≤ signedBy s (m : ℝ)) := by
    rw [← Int.cast_le (R := ℝ), ← Int.cast_le (R := ℝ), hu, hr, mul_le_mul_iff_left₀ hK, mul_le_mul_iff_left₀ hK]
    exact ⟨Iff.rfl, Iff.rfl⟩
  have hlt : (r < u + 2 ^ K ↔ signedBy s (m : ℝ) < signedBy s y + 1) ∧ (u < r + 2 ^ K ↔ signedBy s y < signedBy s (m : ℝ) + 1) := by
    rw [← Int.cast_lt (R := ℝ), ← Int.cast_lt (R := ℝ)]
    push_cast
    rw [hu, hr, ← add_one_mul, ← add_one_mul, mul_lt_mul_iff_left₀ hK, mul_lt_mul_iff_left₀ hK]
    exact ⟨Iff.rfl, Iff.rfl⟩
  have hrabs : ((r.natAbs : Nat) : ℝ) = m * 2 ^ K := by
    rw [Nat.cast_natAbs, Int.cast_abs, hr, abs_mul, abs_signedBy, Nat.abs_cast, abs_of_pos hK]
  have huabs : ((u.natAbs : Nat) : ℝ) = y * 2 ^ K := by
    rw [Nat.cast_natAbs, Int.cast_abs, hu, abs_mul, abs_signedBy, abs_of_nonneg hy, abs_of_pos hK]
  have hdist : (((r - u).natAbs : Nat) : ℝ) = |(m : ℝ) - y| * 2 ^ K := by
    rw [Nat.cast_natAbs, Int.cast_abs, Int.cast_sub, hr, hu, ← sub_mul, abs_mul, abs_of_pos hK]
    cases s
    · rfl
    · rw [signedBy_true, signedBy_true, neg_sub_neg, abs_sub_comm]
  refine ⟨hdvd K (dvd_mul_left _ _), ?_, ?_, ?_, ?_⟩
  · rintro rfl
    obtain ⟨hnear, htie⟩ := h.whole_nearest
    rw [← Nat.cast_le (α := ℝ), ← Nat.cast_inj (R := ℝ)]
    push_cast
    rw [hdist, ← mul_assoc, mul_le_iff_le_one_left hK, mul_eq_right₀ hK.ne']
    refine ⟨hnear, fun heq => hdvd _ ?_⟩
    rw [pow_succ']
    have hm : (2 : Int) ∣ m := by
      have := htie heq
      omega
    exact mul_dvd_mul_right hm _
  · rintro rfl
    obtain ⟨hlo, hhi⟩ := h.whole_down (.inl rfl)
    rw [← Nat.cast_le (α := ℝ), ← Nat.cast_lt (α := ℝ)]
    push_cast
    rw [hrabs, huabs, ← add_one_mul, mul_le_mul_iff_left₀ hK, mul_lt_mul_iff_left₀ hK]
    exact ⟨hlo, hhi⟩
  · rintro rfl
    rw [hle.2, hlt.1]
    cases s with
    | false => exact h.whole_up (.inl ⟨rfl, rfl⟩) hy
    | true =>
      obtain ⟨hlo, hhi⟩ := h.whole_down (.inr (.inl ⟨rfl, rfl⟩))
      simp only [signedBy_true]
      exact ⟨by linarith, by linarith⟩
  · rintro rfl
    rw [hle.1, hlt.2]
    cases s with
    | false => exact h.whole_down (.inr (.inr ⟨rfl, rfl⟩))
    | true =>
      obtain ⟨hlo, hhi⟩ := h.whole_up (.inr ⟨rfl, rfl⟩) hy
      simp only [signedBy_true]
      exact ⟨by linarith, by linarith⟩

/-- 07 R151: an operation that rounds to an integral value, in a lane of a finite operand. -/
theorem integralLane_spec {i : OpIn} {k : Fin 32} (hT : i.ty ∈ tyFlt) (dir : Option Nat) (h : isFinite i.ty (i.a.nat k)) :
    let K := unitExp i.ty
    let u := units i.ty (flushes i.ty (modFtz i.md)) (i.a.nat k)
    let d := (integralLane dir i k).1 % 2 ^ i.ty.bits
    let r := units i.ty false d
    let rd := dir.getD (modRd i.md)
    d < 2 ^ i.ty.bits ∧ isFinite i.ty d ∧ signOf i.ty d = signOf i.ty (i.a.nat k) ∧ (2 : Int) ^ K ∣ r ∧
    (rd = 0 → 2 * (r - u).natAbs ≤ 2 ^ K ∧ (2 * (r - u).natAbs = 2 ^ K → (2 : Int) ^ (K + 1) ∣ r)) ∧
    (rd = 1 → r.natAbs ≤ u.natAbs ∧ u.natAbs < r.natAbs + 2 ^ K) ∧ (rd = 2 → u ≤ r ∧ r < u + 2 ^ K) ∧
    (rd = 3 → r ≤ u ∧ u < r + 2 ^ K) := by
  obtain ⟨m, y, hy, hround, hu, hr, hd, hfin, hsign⟩ := integralLane_whole hT dir h
  exact ⟨hd, hfin, hsign, whole_units hy hround hu hr⟩

end Sys2Proof.Machine
end

section
/-!
PROOFS. Special functions where their values are exact (07 R153), and the obligation O12.
-/

namespace Sys2Proof.Machine

open Sys2Proof

/-! ## Powers of two -/

section
variable {T : Ty} (hT : T ∈ tyFlt)
include hT

theorem bias_eq : 2 ^ ((fltWidths T).1 - 1) = (floatFmt T).bias + 1 ∧ (floatFmt T).bias ≤ 2 ^ (floatFmt T).mb ∧ (floatFmt T).bias < 2 ^ 9 := by
  rcases mem_tyFlt_cases hT with rfl | rfl | rfl <;> decide

theorem powOf_eq (s : Bool) (n : Int) :
    powOf T s n = (floatFmt T).signPat s + (n + (floatFmt T).bias).toNat * 2 ^ (floatFmt T).mb := by
  rw [powOf, (bias_eq hT).1, fltWidths_eq hT, zeroOf_eq hT, Nat.add_sub_cancel, Nat.add_comm]

/-- The code of a power of two of the normal range. -/
theorem grid_pow {n : Int} (hlo : -((floatFmt T).bias : Int) < n) (hhi : n ≤ (floatFmt T).bias) :
    (n + (floatFmt T).bias).toNat * 2 ^ (floatFmt T).mb < (floatFmt T).infBits ∧
    2 ^ (floatFmt T).mb ≤ (n + (floatFmt T).bias).toNat * 2 ^ (floatFmt T).mb ∧
    (floatFmt T).grid ((n + (floatFmt T).bias).toNat * 2 ^ (floatFmt T).mb) = 2 ^ n * 2 ^ unitExp T := by
  obtain ⟨e, he⟩ : ∃ e : Nat, (n + (floatFmt T).bias).toNat = e + 1 := ⟨(n + (floatFmt T).bias - 1).toNat, by omega⟩
  have hb := (floatFmt_wide T).bias_pos
  have hpos := Nat.two_pow_pos (floatFmt T).mb
  rw [he, (floatFmt_wide T).infBits_eq, unitExp_eq hT]
  refine ⟨Nat.mul_lt_mul_of_pos_right (by omega) hpos, Nat.le_mul_of_pos_left _ e.succ_pos, ?_⟩
  have hmag := (floatFmt T).mag_scaled (j := e) (Nat.pow_le_pow_right two_pos (Nat.le_succ (floatFmt T).mb)) (.inr le_rfl)
  rw [Nat.succ_mul, FloatFmt.grid, hmag, ← zpow_natCast, ← zpow_add₀ two_ne_zero]
  push_cast
  rw [← pow_add, ← zpow_natCast]
  congr 1
  unfold FloatFmt.unitExp
  omega

/-- A power of two of the normal range is delivered as its pattern. -/
theorem Exact.Holds.rnd_pow {v : Exact} {s : Bool} {n : Int} (hv : v.Holds s (signedBy s (2 ^ n))) (rd : Nat) (ftz : Bool)
    (hlo : -((floatFmt T).bias : Int) < n) (hhi : n ≤ (floatFmt T).bias) : (rnd T rd ftz v).1 = powOf T s n := by
  obtain ⟨hinf, hmin, hgrid⟩ := grid_pow hT hlo hhi
  rw [powOf_eq hT]
  refine hv.rnd_exact hT rd ?_ hinf fun _ => .inr hmin
  rw [abs_signedBy, abs_of_nonneg (by positivity), hgrid]

theorem powOf_mod (s : Bool) {n : Int} (hlo : -((floatFmt T).bias : Int) < n) (hhi : n ≤ (floatFmt T).bias) :
    powOf T s n % 2 ^ T.bits = powOf T s n := by
  rw [powOf_eq hT, signPat_add_mod hT (code_lt_signBit (grid_pow hT hlo hhi).1)]

/-- in() of a finite pattern, over a divisor of 1. -/
theorem readIn_units {x : Nat} (h : isFinite T x) (ftz : Bool) :
    ∃ n e, (readIn T ftz x).1 = .fin (signOf T x) n 1 e ∧ signedBy (signOf T x) (ratio n 1 e) = units T (flushes T ftz) x / 2 ^ unitExp T := by
  obtain ⟨n, e, hv, hr⟩ := readIn_fin hT h ftz
  refine ⟨n, e, hv, ?_⟩
  rw [hr, units_eq hT, unitExp_eq hT, div_eq_mul_inv, div_eq_mul_inv, signedBy_mul]

end

/-- Is a ratio a whole number? Then `intValue?` finds it. -/
theorem intValue?_of_ratio {n k : Nat} {e : Int} (h : ratio n 1 e = k) (neg : Bool) :
    intValue? n e neg = some (if neg then -(k : Int) else k) := by
  obtain ⟨q, r, b, hdiv, hb, hrb, hval⟩ := divShift_spec n one_pos e
  have hb' : (0 : ℝ) < b := by exact_mod_cast hb
  have hmul : k * b = q * b + r := by
    rw [h] at hval
    field_simp at hval
    exact_mod_cast hval
  have hr : r = 0 := by
    have hdvd : b ∣ r := (Nat.dvd_add_right (Dvd.intro_left q rfl)).mp (hmul ▸ Dvd.intro_left k rfl)
    exact Nat.eq_zero_of_dvd_of_lt hdvd hrb
  have hk : q = k := by
    rw [hr, Nat.add_zero] at hmul
    exact (Nat.eq_of_mul_eq_mul_right hb hmul).symm
  simp only [intValue?, hdiv, hr, hk, beq_self_eq_true, if_true]

/-- A ratio that is a power of two, over a divisor of 1, is one bit. -/
theorem eq_two_pow_of_ratio {m : Nat} {e n : Int} (h : ratio m 1 e = 2 ^ n) : m = 2 ^ Nat.log2 m ∧ e + (Nat.log2 m : Int) = n := by
  have hm : (m : ℝ) = 2 ^ (n - e) := by
    rw [zpow_sub₀ two_ne_zero, ← h, ratio, Nat.cast_one, div_one, mul_div_cancel_right₀ _ (by positivity)]
  have hpos : m ≠ 0 := by
    rintro rfl
    rw [Nat.cast_zero] at hm
    exact absurd hm.symm (by positivity)
  have hge : 0 ≤ n - e := (one_le_zpow_iff_right₀ (by norm_num : (1 : ℝ) < 2)).mp (hm ▸ by exact_mod_cast Nat.one_le_iff_ne_zero.mpr hpos)
  obtain ⟨t, ht⟩ := Int.eq_ofNat_of_zero_le hge
  have hmt : m = 2 ^ t := by
    rw [ht, zpow_natCast] at hm
    exact_mod_cast hm
  have hlog : Nat.log2 m = t := by rw [hmt, Nat.log2_two_pow]
  exact ⟨by rw [hlog, hmt], by omega⟩

theorem Exact.holds_ofInt (n : Int) : (Exact.ofInt n).Holds (decide (n < 0)) n := by
  refine ⟨n.natAbs, 1, 0, rfl, one_pos, ?_⟩
  rw [ratio, zpow_zero, mul_one, Nat.cast_one, div_one, Nat.cast_natAbs, Int.cast_abs]
  rcases lt_or_ge n 0 with h | h
  · rw [decide_eq_true h, signedBy_true, abs_of_neg (by exact_mod_cast h), neg_neg]
  · rw [decide_eq_false (by omega), signedBy_false, abs_of_nonneg (by exact_mod_cast h)]

/-! ## The values of a special function -/

/-- A special function at an infinity, and at a zero. -/
def specialInf (T : Ty) (F : Fn) (s : Bool) : Nat :=
  match F with
  | .exp2 | .exp => if s then 0 else (floatFmt T).infBits
  | .log2 | .log => if s then (floatFmt T).nanBits else (floatFmt T).infBits
  | .sin | .cos => (floatFmt T).nanBits
  | .tanh => deliver T (.fin s 1 1 0)
  | .sigm => if s then 0 else deliver T Exact.one
  | .gelu | .silu => if s then (floatFmt T).signBit else (floatFmt T).infBits

def specialZero (T : Ty) (F : Fn) (s : Bool) : Nat :=
  match F with
  | .exp2 | .exp | .cos => deliver T Exact.one
  | .log2 | .log => (floatFmt T).infBits + (floatFmt T).signBit
  | .sin | .tanh | .gelu | .silu => if s then (floatFmt T).signBit else 0
  | .sigm => deliver T (.fin false 1 2 0)

section
variable {T : Ty} {F : Fn} {ftz : Bool} {x : Nat}

theorem special_of_nan (h : (readIn T ftz x).1 = .nan) : (special T ftz F x).1 = (floatFmt T).nanBits := by
  simp only [special, h]

theorem special_of_inf {s : Bool} (h : (readIn T ftz x).1 = .inf s) : (special T ftz F x).1 = specialInf T F s := by
  simp only [special, h]
  cases F <;> cases s <;> rfl

theorem special_of_zero {s : Bool} {d : Nat} {e : Int} (h : (readIn T ftz x).1 = .fin s 0 d e) :
    (special T ftz F x).1 = specialZero T F s := by
  simp only [special, h, if_true]
  cases F <;> rfl

theorem special_of_fin {s : Bool} {n d : Nat} {e : Int} (h : (readIn T ftz x).1 = .fin s n d e) (hn : n ≠ 0) :
    special T ftz F x = specialFinite T ftz F s (n / d) e := by
  simp only [special, h, hn, if_false]

end

section
variable {T : Ty} (hT : T ∈ tyFlt) (ftz : Bool) {x : Nat}
include hT

/-- 07 R153: the logarithms of a negative value are invalid. -/
theorem special_log_neg {F : Fn} (hF : F = .log2 ∨ F = .log) (hfin : isFinite T x) (hneg : units T (flushes T ftz) x < 0) :
    (special T ftz F x).1 % 2 ^ T.bits = canonNan T := by
  have hA := readIn_holds hT hfin ftz
  rw [signOf_eq_of_units_neg hneg] at hA
  obtain ⟨n, d, e, hv, hn, -, -⟩ := hA.of_ne_zero (scaled_eq_zero.not.mpr hneg.ne)
  rw [special_of_fin hv hn]
  rcases hF with rfl | rfl <;> exact canonNan_mod hT

variable {n : Int} (hlo : -((floatFmt T).bias : Int) < n) (hhi : n ≤ (floatFmt T).bias)
include hlo hhi

/-- 07 R153: 2^n of a whole number n of the normal range is exact. -/
theorem special_exp2 (hfin : isFinite T x) (hu : units T (flushes T ftz) x = n * 2 ^ unitExp T) :
    (special T ftz .exp2 x).1 % 2 ^ T.bits = powOf T false n := by
  rw [← powOf_mod hT false hlo hhi]
  congr 1
  obtain ⟨m, e, hv, hr⟩ := readIn_units hT hfin ftz
  rw [hu] at hr
  push_cast at hr
  rw [mul_div_cancel_right₀ _ (by positivity)] at hr
  rcases eq_or_ne n 0 with rfl | h0
  · rw [Int.cast_zero, signedBy_eq_zero, ratio_eq_zero one_pos] at hr
    rw [hr] at hv
    rw [special_of_zero hv]
    exact Exact.holds_one.rnd_pow (n := 0) hT 0 false hlo hhi
  have hrpos : ratio m 1 e = n.natAbs := by
    rw [Nat.cast_natAbs, Int.cast_abs, ← hr, abs_signedBy, abs_of_nonneg (ratio_nonneg m 1 e)]
  have hm : 0 < m := by
    refine Nat.pos_of_ne_zero fun hm => ?_
    rw [hm, (ratio_eq_zero one_pos).mpr rfl] at hrpos
    exact h0 (Int.natAbs_eq_zero.mp (by exact_mod_cast hrpos.symm))
  have hint : intValue? m e (signOf T x) = some n := by
    have hsign : (if signOf T x = true then -(n.natAbs : Int) else n.natAbs) = n := by
      rw [hrpos, Nat.cast_natAbs] at hr
      cases hs : signOf T x with
      | false =>
        rw [hs, signedBy_false] at hr
        rw [if_neg Bool.false_ne_true]
        exact_mod_cast hr
      | true =>
        rw [hs, signedBy_true] at hr
        rw [if_pos rfl]
        exact_mod_cast hr
    rw [intValue?_of_ratio hrpos, hsign]
  have hsmall : ¬9 ≤ floorLog2 m 1 + e := fun h9 => by
    have hlow := (zpow_le_zpow_right₀ (by norm_num : (1 : ℝ) ≤ 2) h9).trans (binExp_spec hm one_pos e).1
    have hge : 2 ^ 9 ≤ n.natAbs := by
      rw [hrpos] at hlow
      exact_mod_cast hlow
    have := (bias_eq hT).2.2
    omega
  rw [special_of_fin hv hm.ne', Nat.div_one]
  simp only [specialFinite, hsmall, if_false, hint]
  refine Exact.Holds.rnd_pow hT ?_ 0 ftz hlo hhi
  exact ⟨1, 1, n, rfl, one_pos, by simp [ratio]⟩

/-- 07 R153: the logarithm to base 2 of a power of two is exact. -/
theorem special_log2 (hx : x = powOf T false n) :
    let d := (special T ftz .log2 x).1 % 2 ^ T.bits
    d < 2 ^ T.bits ∧ isFinite T d ∧ units T false d = n * 2 ^ unitExp T ∧ signOf T d = decide (n < 0) := by
  obtain ⟨hinf, hmin, hgrid⟩ := grid_pow hT hlo hhi
  rw [powOf_eq hT] at hx
  obtain ⟨hcode, -, -⟩ := FloatFmt.signPat_add (s := false) (code_lt_signBit hinf)
  have hfin : isFinite T x := hx ▸ isFinite_signPat_add hT hinf
  have hsign : signOf T x = false := hx ▸ signOf_signPat_add hT (code_lt_signBit hinf)
  obtain ⟨m, e, hv, hr⟩ := readIn_fin hT hfin ftz
  rw [hx, hcode, FloatFmt.magIn, if_neg (fun h => absurd h.2 (by omega))] at hr
  replace hr : ratio m 1 e = 2 ^ n := by
    rw [hr, ← unitExp_eq hT, div_eq_iff (by positivity)]
    exact hgrid
  obtain ⟨hm, he⟩ := eq_two_pow_of_ratio hr
  have hm0 : m ≠ 0 := by
    rw [hm]
    exact (Nat.two_pow_pos _).ne'
  obtain ⟨c, hc, hwhole, hnormal⟩ := exists_grid_whole hT (m := n.natAbs) (by have := (bias_eq hT).2.1; omega)
  have hval : (special T ftz .log2 x).1 = (floatFmt T).signPat (decide (n < 0)) + c := by
    rw [special_of_fin (hsign ▸ hv) hm0, Nat.div_one]
    simp only [specialFinite, ← hm, beq_self_eq_true, if_true, Bool.false_eq_true, if_false, he]
    refine (Exact.holds_ofInt n).rnd_exact hT 0 ?_ hc fun _ => hnormal
    rw [hwhole, Nat.cast_natAbs, Int.cast_abs]
  have hcs := code_lt_signBit hc
  dsimp only
  rw [hval, signPat_add_mod hT hcs]
  refine ⟨(FloatFmt.signPat_add hcs).2.2.trans_eq (two_pow_bits_eq hT).symm, isFinite_signPat_add hT hc, ?_, signOf_signPat_add hT hcs⟩
  rw [← Int.cast_inj (α := ℝ), units_signPat_add hT hcs, hwhole, ← signedBy_mul, Nat.cast_natAbs, Int.cast_abs,
    ← (Exact.holds_ofInt n).eq_signedBy]
  push_cast
  rfl

end

/-! ## The rows of the special functions -/

/-- A row of the special functions: its function, and its values at infinities and zeros. -/
structure SpecialSpec (e : OpRow × (Ty → Nat) × (Ty → Nat) × (Ty → Bool → Nat)) (F : Fn) : Prop where
  op : e.1.2 = specialOp e.1.2.opc F
  exec : ∀ f s, exec (e.1.1 f) s = runOp e.1.2 f s
  inf : ∀ T ∈ tyFlt, ∀ s, specialInf T F s % 2 ^ T.bits = if s then e.2.1 T else e.2.2.1 T
  zero : ∀ T ∈ tyFlt, ∀ s, specialZero T F s % 2 ^ T.bits = e.2.2.2 T s
  opcodes : (e.1.2.opc = 0x04E → F = .exp2) ∧ (e.1.2.opc = 0x04F → F = .log2) ∧ (e.1.2.opc = 0x051 → F = .log)

theorem specialRows_spec : ∀ e ∈ specialRows, ∃ F, SpecialSpec e F := by
  simp only [specialRows, List.forall_mem_cons, List.not_mem_nil, false_imp_iff, implies_true, and_true]
  refine ⟨⟨.exp2, ?_⟩, ⟨.exp, ?_⟩, ⟨.log2, ?_⟩, ⟨.log, ?_⟩, ⟨.sin, ?_⟩, ⟨.cos, ?_⟩, ⟨.tanh, ?_⟩, ⟨.sigm, ?_⟩, ⟨.gelu, ?_⟩, ⟨.silu, ?_⟩⟩
  all_goals exact ⟨rfl, fun _ _ => rfl, by decide +kernel, by decide +kernel, by decide⟩

end Sys2Proof.Machine
end

section
/-!
PROOFS. The obligation O12: what each instruction of 07 R147-R153 completes with, from what it computes in a lane.
-/

namespace Sys2Proof.Machine

open Sys2Proof

/-- A special function in a lane, by its row. -/
theorem SpecialSpec.lane {e : OpRow × (Ty → Nat) × (Ty → Nat) × (Ty → Bool → Nat)} {F : Fn} (h : SpecialSpec e F) {T : Ty}
    (hT : T ∈ tyFlt) (ftz : Bool) (a : Nat) :
    let neg := signOf T a
    let K := unitExp T
    let u := units T (flushes T ftz) a
    let d := (special T ftz F a).1 % 2 ^ T.bits
    (isNanBits T a → d = canonNan T) ∧ (isInfBits T a → d = if neg then e.2.1 T else e.2.2.1 T) ∧
    (isFinite T a → u = 0 → d = e.2.2.2 T neg) ∧
    (isFinite T a → u < 0 → e.1.2.opc = 0x04F ∨ e.1.2.opc = 0x051 → d = canonNan T) ∧
    (∀ n : Int, -(2 ^ ((fltWidths T).1 - 1) : Int) + 2 ≤ n → n < 2 ^ ((fltWidths T).1 - 1) →
      (e.1.2.opc = 0x04E → isFinite T a → u = n * 2 ^ K → d = powOf T false n) ∧
      (e.1.2.opc = 0x04F → a = powOf T false n →
        d < 2 ^ T.bits ∧ isFinite T d ∧ units T false d = n * 2 ^ K ∧ signOf T d = decide (n < 0))) := by
  obtain ⟨hexp2, hlog2, hlog⟩ := h.opcodes
  dsimp only
  refine ⟨fun hnan => ?_, fun hinf => ?_, fun hfin h0 => ?_, fun hfin hneg hopc => ?_, fun n hlo hhi => ?_⟩
  · rw [special_of_nan (readIn_nan hT hnan ftz)]
    exact canonNan_mod hT
  · rw [special_of_inf (readIn_inf hT hinf ftz)]
    exact h.inf T hT _
  · have hA := readIn_holds hT hfin ftz
    rw [h0, Int.cast_zero, zero_div] at hA
    obtain ⟨d, e', hv⟩ := hA.eq_zero
    rw [special_of_zero hv]
    exact h.zero T hT _
  · exact special_log_neg hT ftz (hopc.imp hlog2 hlog) hfin hneg
  · have hbias : (2 : Int) ^ ((fltWidths T).1 - 1) = (floatFmt T).bias + 1 := by exact_mod_cast (bias_eq hT).1
    rw [hbias] at hlo hhi
    refine ⟨fun hopc hfin hu => ?_, fun hopc ha => ?_⟩
    · rw [hexp2 hopc]
      exact special_exp2 hT ftz (by omega) (by omega) hfin hu
    · rw [hlog2 hopc]
      exact special_log2 hT ftz (by omega) (by omega) ha

section
variable {f : Fields} {s : State} {x : Site} {fr : Frame} {c : Cur} {m : LaneMask} {T : Ty} {va vb : Value}
  (hx : AtPlace s x fr c) (hm : Active c f.p m) (hT : T ∈ tyFlt) (ht : f.typ.toNat = T.code) (ha : Names c f.a T va) (hc : f.c = 0)
include hx hm hT ht ha hc

/-- A float operation of one operand whose modifier is legal. -/
theorem completes_flt1 {op : Op} {ok : Nat → Bool} {g : OpIn → Fin 32 → Nat × Nat} (hform : op.form = fun t md => form1 tyFlt t (ok md))
    (hok : ok f.md.toNat = true) (hcore : ∀ i s, op.core i s = doneIeee i.ty i s (g i)) (hb : f.b = 0) :
    CompletesFlagging (runOp op f s) s x op.opc T m va.nat fun k d => d = (g (laneIn x c f m T va .void .void) k).1 % 2 ^ T.bits :=
  completes_flt (given2 := false) (given3 := false) hx ht (by rw [hform]; exact form_of_mem hT hok _) ha ⟨hb, rfl⟩ ⟨hc, rfl⟩ hm hcore

/-- A float operation of two operands whose modifier is legal. -/
theorem completes_flt2 {op : Op} {ok : Nat → Bool} {g : OpIn → Fin 32 → Nat × Nat} (hform : op.form = fun t md => form2 tyFlt t (ok md))
    (hok : ok f.md.toNat = true) (hcore : ∀ i s, op.core i s = doneIeee i.ty i s (g i)) (hb : Names c f.b T vb) :
    CompletesFlagging (runOp op f s) s x op.opc T m va.nat fun k d => d = (g (laneIn x c f m T va vb .void) k).1 % 2 ^ T.bits :=
  completes_flt (given2 := true) (given3 := false) hx ht (by rw [hform]; exact form_of_mem hT hok _) ha hb ⟨hc, rfl⟩ hm hcore

theorem completes_flt1_nan (hmd : rdFtz f.md) (hb : f.b = 0) :
    ∀ e ∈ ([(.fsqrt, opFsqrt), (.frsq, opFrsq), (.frcp, opFrcp), (.fround, opFround)] : List OpRow),
      CompletesFlagging (exec (e.1 f) s) s x e.2.opc T m va.nat fun k d => isNanBits T (va.nat k) → d = canonNan T := by
  have hflt : ∀ (opc : Nat) (F : Exact → Option Exact × Nat),
      CompletesFlagging (runOp (fltOp1 opc F) f s) s x opc T m va.nat fun k d => isNanBits T (va.nat k) → d = canonNan T := fun opc F =>
    (fltOp1_completes hx hm hmd hT ht ha hb hc).mono fun k d hd hn =>
      hd.trans (flt1_nan (i := laneIn x c f m T va .void .void) hT F hn)
  simp only [List.forall_mem_cons, List.not_mem_nil, false_imp_iff, implies_true, and_true]
  refine ⟨hflt _ _, hflt _ _, hflt _ _, ?_⟩
  exact (completes_flt1 (op := opFround) hx hm hT ht ha hc rfl (mdRdFtz_of hmd) (integralOp_core _ _) hb).mono fun k d hd hn =>
    hd.trans (integralLane_nan (i := laneIn x c f m T va .void .void) hT none hn)

theorem completes_flt2_nan (hmd : rdFtz f.md) (hb : Names c f.b T vb) :
    ∀ e ∈ ([(.fadd, opFadd), (.fsub, opFsub), (.fmul, opFmul), (.fdiv, opFdiv)] : List OpRow),
      CompletesFlagging (exec (e.1 f) s) s x e.2.opc T m va.nat fun k d => isNanBits T (va.nat k) ∨ isNanBits T (vb.nat k) → d = canonNan T := by
  have hflt : ∀ (opc : Nat) (F : Nat → Exact → Exact → Option Exact × Nat), CompletesFlagging (runOp (fltOp2 opc F) f s) s x opc T m va.nat
      fun k d => isNanBits T (va.nat k) ∨ isNanBits T (vb.nat k) → d = canonNan T := fun opc F =>
    (fltOp2_completes hx hm hmd hT ht ha hb hc).mono fun k d hd hn =>
      hd.trans (flt2_nan (i := laneIn x c f m T va vb .void) hT F hn)
  simp only [List.forall_mem_cons, List.not_mem_nil, false_imp_iff, implies_true, and_true]
  exact ⟨hflt _ _, hflt _ _, hflt _ _, hflt _ _⟩

theorem fcmp_completes (hmd : f.md.toNat < 16) (hb : Names c f.b T vb) :
    CompletesFlagging (exec (.fcmp f) s) s x 0x04C .pred m (fun _ => 0) fun k d =>
      d = (fcmpLane (laneIn x c f m T va vb .void) k).1 % 2 ^ Ty.pred.bits :=
  completesFlagging_zero (op := opFcmp) hx ht (form_of_mem hT (by simpa using Nat.div_eq_of_lt hmd) _) (fetchArg_one ha) (fetchArg_one hb)
    (fetchArg_none hc) rfl hm (fcmp_core _ _) rfl

/-- 07 R152: `fclass` sets no flag. -/
theorem fclass_completes (hmd : ftzOnly f.md) (hb : f.b = 0) :
    CompletesBy (exec (.fclass f) s) s x 0x04D .n32 m (fun _ => 0) fun k d =>
      d = 2 ^ fltClass T (modFtz f.md.toNat) (va.nat k) % 2 ^ Ty.n32.bits := by
  refine completesBy_zero (op := opFclass) hx (by rw [ht, Ty.ofCode_code]) (ht ▸ form_of_mem hT (mdFtz_of hmd) _) (fetchArg_one ha)
    (fetchArg_none hb) (fetchArg_none hc) rfl hm rfl rfl rfl fun k _ => ?_
  rw [lanesOf, Value.nat_tab]

theorem integral_completes (hmd : ftzOnly f.md) (hb : f.b = 0) :
    ∀ e ∈ ([((.ffloor, opFfloor), 3), ((.fceil, opFceil), 2), ((.ftrunc, opFtrunc), 1)] : List (OpRow × Nat)),
      CompletesFlagging (exec (e.1.1 f) s) s x e.1.2.opc T m va.nat fun k d =>
        d = (integralLane (some e.2) (laneIn x c f m T va .void .void) k).1 % 2 ^ T.bits := by
  have hop : ∀ opc rd, CompletesFlagging (runOp (integralOp opc (some rd)) f s) s x opc T m va.nat fun k d =>
      d = (integralLane (some rd) (laneIn x c f m T va .void .void) k).1 % 2 ^ T.bits := fun opc rd =>
    completes_flt1 (op := integralOp opc (some rd)) hx hm hT ht ha hc rfl (mdFtz_of hmd) (integralOp_core _ _) hb
  simp only [List.forall_mem_cons, List.not_mem_nil, false_imp_iff, implies_true, and_true]
  exact ⟨hop _ _, hop _ _, hop _ _⟩

theorem special_completes (hmd : ftzOnly f.md) (hb : f.b = 0) {e : OpRow × (Ty → Nat) × (Ty → Nat) × (Ty → Bool → Nat)} {F : Fn}
    (h : SpecialSpec e F) :
    CompletesFlagging (exec (e.1.1 f) s) s x e.1.2.opc T m va.nat fun k d =>
      d = (special T (modFtz f.md.toNat) F (va.nat k)).1 % 2 ^ T.bits := by
  have hop := h.op
  rw [h.exec]
  generalize e.1.2 = op at hop
  exact completes_flt1 (ok := mdFtz) (g := fun i k => special i.ty (modFtz i.md) F (i.a.nat k)) hx hm hT ht ha hc (by rw [hop]; rfl)
    (mdFtz_of hmd) (fun i s => by rw [hop]; rfl) hb

theorem sign1_completes (hmd : ftzOnly f.md) (hb : f.b = 0) {opc : Nat} {sg : Bool → Bool → Bool} :
    CompletesFlagging (runOp (signOp opc false sg) f s) s x opc T m va.nat fun k d =>
      d = (signLane false sg (laneIn x c f m T va .void .void) k).1 % 2 ^ T.bits :=
  completes_flt1 (op := signOp opc false sg) hx hm hT ht ha hc rfl (mdFtz_of hmd) (signOp_core _ _ _) hb

theorem sign2_completes (hmd : ftzOnly f.md) (hb : Names c f.b T vb) {opc : Nat} {sg : Bool → Bool → Bool} :
    CompletesFlagging (runOp (signOp opc true sg) f s) s x opc T m va.nat fun k d =>
      d = (signLane true sg (laneIn x c f m T va vb .void) k).1 % 2 ^ T.bits :=
  completes_flt2 (op := signOp opc true sg) hx hm hT ht ha hc rfl (mdFtz_of hmd) (signOp_core _ _ _) hb

theorem minMax_completes (hmd : ftzOnly f.md) (hb : Names c f.b T vb) :
    ∀ e ∈ ([((.fmin, opFmin), false), ((.fmax, opFmax), true)] : List (OpRow × Bool)),
      CompletesFlagging (exec (e.1.1 f) s) s x e.1.2.opc T m va.nat fun k d =>
        d = (fltMinMax T e.2 (readIn T (modFtz f.md.toNat) (va.nat k)) (readIn T (modFtz f.md.toNat) (vb.nat k))).1 % 2 ^ T.bits := by
  simp only [List.forall_mem_cons, List.not_mem_nil, false_imp_iff, implies_true, and_true]
  exact ⟨completes_flt2 (op := opFmin) hx hm hT ht ha hc rfl (mdFtz_of hmd) (fun _ _ => rfl) hb,
    completes_flt2 (op := opFmax) hx hm hT ht ha hc rfl (mdFtz_of hmd) (fun _ _ => rfl) hb⟩

end

/-- Settles O12: a pattern is a sign and a code, the codes are in the order of their magnitudes, and values of the grid are delivered as
they are. -/
theorem floatNansAndSigns : Obligations.FloatNansAndSigns := by
  unfold Obligations.FloatNansAndSigns
  intro s x fr c f m T va hx hT ht ha hm hc
  dsimp only
  rw [← modFtz_eq]
  refine ⟨fun vb hb hmd => ?_, fun hb hmd => ?_, fun vb hb hmd => ?_,
    fun hmd => ⟨fun hb => ⟨?_, ?_, ?_, ?_, ?_⟩, fun vb hb => ⟨?_, ?_⟩⟩, fun hmd hb => ?_⟩
  · exact completes_flt2_nan hx hm hT ht ha hc hmd hb
  · exact completes_flt1_nan hx hm hT ht ha hc hmd hb
  · exact (fcmp_completes hx hm hT ht ha hc hmd hb).mono fun k d hd => hd ▸ fcmp_lane (i := laneIn x c f m T va vb .void) hT
  · exact (sign1_completes hx hm hT ht ha hc hmd hb).mono fun k d hd =>
      hd ▸ signLane_spec (i := laneIn x c f m T va .void .void) hT false (fun a _ => !a)
  · exact (sign1_completes hx hm hT ht ha hc hmd hb).mono fun k d hd =>
      hd ▸ signLane_spec (i := laneIn x c f m T va .void .void) hT false (fun _ _ => false)
  · intro e he
    refine (integral_completes hx hm hT ht ha hc hmd hb e he).mono fun k d hd => hd ▸ ⟨fun hn => ?_, fun hi => ?_, fun hfin => ?_⟩
    · exact integralLane_nan (i := laneIn x c f m T va .void .void) hT _ hn
    · exact integralLane_inf (i := laneIn x c f m T va .void .void) hT _ hi
    · obtain ⟨hlt, hfd, hsign, hdvd, -, htrunc, hceil, hfloor⟩ :=
        integralLane_spec (i := laneIn x c f m T va .void .void) hT (some e.2) hfin
      exact ⟨hlt, hfd, hsign, hdvd, hfloor, hceil, htrunc⟩
  · exact (fclass_completes hx hm hT ht ha hc hmd hb).mono fun k d hd => hd ▸ fltClass_spec hT _ _
  · intro e he
    obtain ⟨F, h⟩ := specialRows_spec e he
    exact (special_completes hx hm hT ht ha hc hmd hb h).mono fun k d hd => hd ▸ h.lane hT _ _
  · exact (sign2_completes hx hm hT ht ha hc hmd hb).mono fun k d hd =>
      hd ▸ signLane_spec (i := laneIn x c f m T va vb .void) hT true (fun _ b => b)
  · intro e he
    exact (minMax_completes hx hm hT ht ha hc hmd hb e he).mono fun k d hd => hd ▸ fltMinMax_lane hT _ _ _ _
  · refine (completes_flt1 (op := opFround) hx hm hT ht ha hc rfl (mdRdFtz_of hmd) (integralOp_core _ _) hb).mono fun k d hd hfin => ?_
    rw [hd]
    exact integralLane_spec (i := laneIn x c f m T va .void .void) hT none hfin

end Sys2Proof.Machine
end

section
/-!
PROOFS. SLI patterns by their fields (03 R42): a pattern is a sign, a reciprocal bit, and the level code and fraction as one number, and an
ordinary one decodes to the level index that they give.
-/

namespace Sys2Proof.Machine

open Sys2Proof

/-! ## Bits of a pattern -/

/-- The pattern of a sign s, a reciprocal bit r, and the level code and fraction `low`. -/
def sliBits (fb : Nat) (s r : Bool) (low : Nat) : Nat := low + (if r then 2 ^ (fb + 3) else 0) + if s then 2 ^ (fb + 4) else 0

theorem sliBits_eq_mul_add (fb : Nat) (s r : Bool) (low : Nat) : sliBits fb s r low = 2 ^ (fb + 3) * (2 * s.toNat + r.toNat) + low := by
  have h : 2 ^ (fb + 4) = 2 ^ (fb + 3) * 2 := Nat.pow_succ ..
  cases s <;> cases r <;> simp [sliBits, h] <;> omega

theorem sliPattern_eq (fb : Nat) (s r : Bool) (code frac : Nat) : sliPattern fb s r code frac = sliBits fb s r (code * 2 ^ fb + frac) := by
  simp only [sliPattern, sliBits]
  omega

theorem sliZero_eq (fb : Nat) : sliZero (fb + 5) = sliBits fb false true 0 := by simp [sliZero, sliBits]

theorem sliInv_eq (fb : Nat) : sliInv (fb + 5) = sliBits fb true true 0 := by simp [sliInv, sliBits, Nat.add_comm]

theorem sliBits_one (fb : Nat) (s : Bool) : sliBits fb s false 0 = sliPattern fb s false 0 0 := by simp [sliPattern_eq]

section
variable {fb low : Nat} {s r : Bool} (hlow : low < 2 ^ (fb + 3))
include hlow

theorem sliBits_lt : sliBits fb s r low < 2 ^ (fb + 5) := by
  have h4 : 2 ^ (fb + 4) = 2 ^ (fb + 3) * 2 := Nat.pow_succ ..
  have h5 : 2 ^ (fb + 5) = 2 ^ (fb + 4) * 2 := Nat.pow_succ ..
  unfold sliBits
  split <;> split <;> omega

theorem sliBits_mod_low : sliBits fb s r low % 2 ^ (fb + 3) = low := by
  rw [sliBits_eq_mul_add, Nat.mul_add_mod, Nat.mod_eq_of_lt hlow]

theorem sliBits_mod_abs : sliBits fb s r low % 2 ^ (fb + 4) = sliBits fb false r low := by
  have h : 2 ^ (fb + 4) = 2 ^ (fb + 3) * 2 := Nat.pow_succ ..
  have hlt : sliBits fb false r low < 2 ^ (fb + 4) := by
    unfold sliBits
    cases r <;> simp <;> omega
  have hs : sliBits fb s r low = sliBits fb false r low + 2 ^ (fb + 4) * s.toNat := by cases s <;> simp [sliBits]
  rw [hs, Nat.add_mul_mod_self_left, Nat.mod_eq_of_lt hlt]

theorem testBit_sliBits (j : Nat) :
    (sliBits fb s r low).testBit j = if j = fb + 4 then s else if j = fb + 3 then r else low.testBit j := by
  rw [sliBits_eq_mul_add, Nat.testBit_two_pow_mul_add _ hlow]
  rcases Nat.lt_or_ge j (fb + 3) with hj | hj
  · rw [if_pos hj, if_neg (by omega), if_neg (by omega)]
  · obtain ⟨i, rfl⟩ := Nat.exists_eq_add_of_le hj
    have hz : low.testBit (fb + 3 + i) = false :=
      Nat.testBit_lt_two_pow (hlow.trans_le (Nat.pow_le_pow_right Nat.two_pos (Nat.le_add_right ..)))
    rw [if_neg (Nat.not_lt.mpr hj), Nat.add_sub_cancel_left, hz]
    match i with
    | 0 => cases s <;> cases r <;> simp
    | 1 => cases s <;> cases r <;> simp [Nat.testBit]
    | i + 2 =>
      rw [if_neg (by omega), if_neg (by omega)]
      have hlt : 2 * s.toNat + r.toNat < 2 ^ 2 := by cases s <;> cases r <;> decide
      exact Nat.testBit_lt_two_pow (hlt.trans_le (Nat.pow_le_pow_right Nat.two_pos (Nat.le_add_left ..)))

theorem testBit_sliBits_sign : (sliBits fb s r low).testBit (fb + 4) = s := by rw [testBit_sliBits hlow, if_pos rfl]

theorem testBit_sliBits_recip : (sliBits fb s r low).testBit (fb + 3) = r := by
  rw [testBit_sliBits hlow, if_neg (by omega), if_pos rfl]

theorem sliBits_inj {s' r' : Bool} {low' : Nat} (hlow' : low' < 2 ^ (fb + 3)) :
    sliBits fb s r low = sliBits fb s' r' low' ↔ s = s' ∧ r = r' ∧ low = low' := by
  refine ⟨fun h => ⟨?_, ?_, ?_⟩, fun ⟨hs, hr, hl⟩ => by rw [hs, hr, hl]⟩
  · rw [← testBit_sliBits_sign hlow (s := s) (r := r), h, testBit_sliBits_sign hlow']
  · rw [← testBit_sliBits_recip hlow (s := s) (r := r), h, testBit_sliBits_recip hlow']
  · rw [← sliBits_mod_low hlow (s := s) (r := r), h, sliBits_mod_low hlow']

end

/-- Every pattern is that of its own fields. -/
theorem eq_sliBits {fb a : Nat} (ha : a < 2 ^ (fb + 5)) : a = sliBits fb (a.testBit (fb + 4)) (a.testBit (fb + 3)) (a % 2 ^ (fb + 3)) := by
  have h4 : a / 2 ^ (fb + 4) = a / 2 ^ (fb + 3) / 2 := by rw [Nat.div_div_eq_div_mul, ← Nat.pow_succ]
  have hq : a / 2 ^ (fb + 3) < 4 := Nat.div_lt_of_lt_mul (by rwa [← show 2 ^ (fb + 5) = 2 ^ (fb + 3) * 4 by rw [Nat.pow_add _ (fb + 3) 2]])
  have hfields : 2 * (a.testBit (fb + 4)).toNat + (a.testBit (fb + 3)).toNat = a / 2 ^ (fb + 3) := by
    rw [Nat.toNat_testBit, Nat.toNat_testBit, h4]
    generalize a / 2 ^ (fb + 3) = q at hq ⊢
    omega
  rw [sliBits_eq_mul_add, hfields, Nat.div_add_mod]

/-! ## One bit inverted -/

theorem eq_of_hasBits {w : Nat} {b : Nat → Bool} {d e : Nat} (hd : HasBits w b d) (he : HasBits w b e) : d = e := by
  refine Nat.eq_of_testBit_eq fun j => ?_
  rcases Nat.lt_or_ge j w with hj | hj
  · rw [hd.2 j hj, he.2 j hj]
  · have hle := Nat.pow_le_pow_right Nat.two_pos hj
    rw [Nat.testBit_lt_two_pow (hd.1.trans_le hle), Nat.testBit_lt_two_pow (he.1.trans_le hle)]

theorem flipBit_iff {n k x d e : Nat} (he : flipBit n k x e) : flipBit n k x d ↔ d = e :=
  ⟨fun hd => eq_of_hasBits hd he, fun h => h ▸ he⟩

section
variable {fb low : Nat} {s r : Bool} (hlow : low < 2 ^ (fb + 3))
include hlow

theorem flipBit_sign_iff {d : Nat} : flipBit (fb + 5) (fb + 4) (sliBits fb s r low) d ↔ d = sliBits fb (!s) r low := by
  refine flipBit_iff ⟨sliBits_lt hlow, fun j _ => ?_⟩
  simp only [testBit_sliBits hlow]
  split <;> rfl

theorem flipBit_recip_iff {d : Nat} : flipBit (fb + 5) (fb + 3) (sliBits fb s r low) d ↔ d = sliBits fb s (!r) low := by
  refine flipBit_iff ⟨sliBits_lt hlow, fun j _ => ?_⟩
  simp only [testBit_sliBits hlow]
  rcases eq_or_ne j (fb + 3) with rfl | hj
  · simp
  · simp [hj]

end

/-! ## Ordinary patterns -/

/-- A pattern is neither zero nor INV. -/
abbrev sliOrdinary (fb a : Nat) : Prop := a ≠ sliZero (fb + 5) ∧ a ≠ sliInv (fb + 5)

/-- `a` is the ordinary pattern of sign s, reciprocal bit r, and level code and fraction `low`. -/
structure SliOrd (fb a : Nat) (s r : Bool) (low : Nat) : Prop where
  eq : a = sliBits fb s r low
  lt : low < 2 ^ (fb + 3)
  ne : r = true → low ≠ 0

section
variable {fb a low : Nat} {s r : Bool}

theorem SliOrd.bound (h : SliOrd fb a s r low) : a < 2 ^ (fb + 5) := h.eq ▸ sliBits_lt h.lt

theorem SliOrd.sign (h : SliOrd fb a s r low) : a.testBit (fb + 4) = s := h.eq ▸ testBit_sliBits_sign h.lt

theorem SliOrd.recip (h : SliOrd fb a s r low) : a.testBit (fb + 3) = r := h.eq ▸ testBit_sliBits_recip h.lt

theorem SliOrd.mod_low (h : SliOrd fb a s r low) : a % 2 ^ (fb + 3) = low := h.eq ▸ sliBits_mod_low h.lt

theorem SliOrd.mod_abs (h : SliOrd fb a s r low) : a % 2 ^ (fb + 4) = sliBits fb false r low := h.eq ▸ sliBits_mod_abs h.lt

theorem SliOrd.ordinary (h : SliOrd fb a s r low) : sliOrdinary fb a := by
  rw [sliOrdinary, h.eq, sliZero_eq, sliInv_eq, Ne, Ne, sliBits_inj h.lt (Nat.two_pow_pos _), sliBits_inj h.lt (Nat.two_pow_pos _)]
  exact ⟨fun ⟨_, hr, hl⟩ => h.ne hr hl, fun ⟨_, hr, hl⟩ => h.ne hr hl⟩

theorem sliOrd_one (fb : Nat) (s : Bool) : SliOrd fb (sliBits fb s false 0) s false 0 := ⟨rfl, Nat.two_pow_pos _, nofun⟩

/-- A pattern that is neither zero nor INV is the ordinary one of its fields. -/
theorem sliOrd_of_ordinary (ha : a < 2 ^ (fb + 5)) (h : sliOrdinary fb a) :
    SliOrd fb a (a.testBit (fb + 4)) (a.testBit (fb + 3)) (a % 2 ^ (fb + 3)) := by
  refine ⟨eq_sliBits ha, Nat.mod_lt _ (Nat.two_pow_pos _), fun hr hl => ?_⟩
  have heq := eq_sliBits ha
  rw [hr, hl] at heq
  cases hs : a.testBit (fb + 4) with
  | false => exact h.1 (heq.trans (by rw [hs, sliZero_eq]))
  | true => exact h.2 (heq.trans (by rw [hs, sliInv_eq]))

/-- A pattern is zero, INV or ordinary. -/
theorem sli_cases (ha : a < 2 ^ (fb + 5)) : a = sliZero (fb + 5) ∨ a = sliInv (fb + 5) ∨ ∃ s r low, SliOrd fb a s r low := by
  by_cases hz : a = sliZero (fb + 5)
  · exact .inl hz
  · by_cases hi : a = sliInv (fb + 5)
    · exact .inr (.inl hi)
    · exact .inr (.inr ⟨_, _, _, sliOrd_of_ordinary ha ⟨hz, hi⟩⟩)

/-- The patterns of ±1 are those whose magnitude bits are all 0. -/
theorem sliOrd_of_one (ha : a < 2 ^ (fb + 5)) (h : a % 2 ^ (fb + 4) = 0) : SliOrd fb a (a.testBit (fb + 4)) false 0 := by
  have hl := Nat.mod_lt a (Nat.two_pow_pos (fb + 3))
  have heq := eq_sliBits ha
  have habs : sliBits fb false (a.testBit (fb + 3)) (a % 2 ^ (fb + 3)) = sliBits fb false false 0 := by
    rw [← sliBits_mod_abs hl (s := a.testBit (fb + 4)), ← heq, h]
    rfl
  obtain ⟨-, hr, hl0⟩ := (sliBits_inj hl (Nat.two_pow_pos _)).mp habs
  rw [hr, hl0] at heq
  exact ⟨heq, Nat.two_pow_pos _, nofun⟩

theorem SliOrd.not_one (h : SliOrd fb a s r low) (h1 : ¬a % 2 ^ (fb + 4) = 0) : low ≠ 0 := by
  rintro rfl
  cases r with
  | true => exact h.ne rfl rfl
  | false => exact h1 h.mod_abs

end

/-! ## Decoding -/

theorem liOne_eq {fb : Nat} (hfb : fb ≤ 40) : liOne = 2 ^ fb * 2 ^ (40 - fb) := by rw [← Nat.pow_add, Nat.add_sub_cancel' hfb]; rfl

theorem sliDecode_zero (fb : Nat) : sliDecode fb (sliZero (fb + 5)) = .zero := if_pos rfl

theorem sliZero_ne_sliInv (fb : Nat) : sliZero (fb + 5) ≠ sliInv (fb + 5) := by
  rw [sliZero_eq, sliInv_eq, Ne, sliBits_inj (Nat.two_pow_pos _) (Nat.two_pow_pos _)]
  exact fun h => nomatch h.1

theorem sliDecode_inv (fb : Nat) : sliDecode fb (sliInv (fb + 5)) = .inv :=
  (if_neg (sliZero_ne_sliInv fb).symm).trans (if_pos rfl)

theorem SliOrd.decode {fb a low : Nat} {s r : Bool} (hfb : fb ≤ 40) (h : SliOrd fb a s r low) :
    sliDecode fb a = .ord s r (liOne + low * 2 ^ (40 - fb)) := by
  have hcode : a / 2 ^ fb % 8 = low / 2 ^ fb := by
    rw [← h.mod_low, Nat.pow_add, Nat.mod_mul_right_div_self]
  have hfrac : a % 2 ^ fb = low % 2 ^ fb := by
    rw [← h.mod_low, Nat.mod_mod_of_dvd _ (Nat.pow_dvd_pow 2 (Nat.le_add_right ..))]
  have hbit : ∀ j, (a / 2 ^ j % 2 == 1) = a.testBit j := fun j => by
    rw [Nat.testBit_eq_decide_div_mod_eq, beq_eq_decide]
  have hlevel : (low / 2 ^ fb + 1) * liOne + low % 2 ^ fb * 2 ^ (40 - fb) = liOne + low * 2 ^ (40 - fb) := by
    conv_rhs => rw [← Nat.div_add_mod low (2 ^ fb)]
    rw [liOne_eq hfb]
    ring
  obtain ⟨hz, hi⟩ : a ≠ sliZeroBits fb ∧ a ≠ sliInvBits fb := h.ordinary
  rw [sliDecode, if_neg hz, if_neg hi, hbit, hbit, h.sign, h.recip, hcode, hfrac, hlevel]

theorem sliDecode_ne_inv {fb a : Nat} (hfb : fb ≤ 40) (ha : a < 2 ^ (fb + 5)) (hi : a ≠ sliInv (fb + 5)) : sliDecode fb a ≠ .inv := by
  rcases sli_cases ha with rfl | rfl | ⟨s, r, low, h⟩
  · rw [sliDecode_zero]
    exact nofun
  · exact absurd rfl hi
  · rw [h.decode hfb]
    exact nofun

end Sys2Proof.Machine
end

section
/-!
PROOFS. Products and quotients of SLI values (03 R50, R52): ROUNDSLI delivers an ordinary pattern of the sign it is given, exactly where the
level index is one of the format; and SUMPHI is exact where a level index is 0 and where the sum stays below 1.
-/

namespace Sys2Proof.Machine

open Sys2Proof

/-! ## Rounding the level index (R50) -/

section
variable {fb : Nat} {sg rc : Bool}

/-- A level index in units of the format gives its pattern, but that 1 has none on the reciprocal side (R43). -/
theorem sliOrd_level {q : Nat} (h1 : 2 ^ fb ≤ q) (h9 : q < 9 * 2 ^ fb) :
    SliOrd fb (sliPattern fb sg (rc && q != 2 ^ fb) (q / 2 ^ fb - 1) (q % 2 ^ fb)) sg (rc && q != 2 ^ fb) (q - 2 ^ fb) := by
  refine ⟨?_, ?_, fun hr => ?_⟩
  · have hq : (q / 2 ^ fb - 1) * 2 ^ fb + q % 2 ^ fb = q - 2 ^ fb := by
      rw [Nat.sub_mul, one_mul, ← Nat.sub_add_comm (Nat.le_mul_of_pos_left _ (Nat.div_pos h1 (Nat.two_pow_pos _))), Nat.div_add_mod']
    rw [sliPattern_eq, hq]
  · have h8 : 2 ^ (fb + 3) = 2 ^ fb * 8 := Nat.pow_add ..
    omega
  · rw [Bool.and_eq_true, bne_iff_ne] at hr
    obtain ⟨-, hne⟩ := hr
    omega

theorem roundSli_ord (hfb : fb ≤ 40) (w : Nat) (st : Bool) : ∃ r low, SliOrd fb (roundSli fb sg rc (liOne + w) st).1 sg r low := by
  have hq0 : 2 ^ fb ≤ (liOne + w) / 2 ^ (40 - fb) := by
    rw [liOne_eq hfb, Nat.add_comm, Nat.add_mul_div_right _ _ (Nat.two_pow_pos _)]
    exact Nat.le_add_left ..
  have hpos := Nat.two_pow_pos fb
  unfold roundSli
  extract_lets q0 rem half q inx tooBig q' recip'
  have hq : 2 ^ fb ≤ q := by
    show 2 ^ fb ≤ if _ then _ else _
    split
    · exact hq0.trans (Nat.le_succ _)
    · exact hq0
  have hq' : 2 ^ fb ≤ q' ∧ q' < 9 * 2 ^ fb := by
    show 2 ^ fb ≤ (if decide (9 * 2 ^ fb ≤ q) then _ else _) ∧ (if decide (9 * 2 ^ fb ≤ q) then _ else _) < _
    split
    · omega
    · rename_i h
      exact ⟨hq, Nat.not_le.mp (by simpa using h)⟩
  exact ⟨_, _, sliOrd_level hq'.1 hq'.2⟩

theorem roundSli_exact (hfb : fb ≤ 40) {low : Nat} (hlow : low < 2 ^ (fb + 3)) (hrc : rc = true → low ≠ 0) :
    (roundSli fb sg rc (liOne + low * 2 ^ (40 - fb)) false).1 = sliBits fb sg rc low := by
  have hs : liOne + low * 2 ^ (40 - fb) = (2 ^ fb + low) * 2 ^ (40 - fb) := by rw [liOne_eq hfb, Nat.add_mul]
  have hq : (liOne + low * 2 ^ (40 - fb)) / 2 ^ (40 - fb) = 2 ^ fb + low := by rw [hs, Nat.mul_div_cancel _ (Nat.two_pow_pos _)]
  have hrem : (liOne + low * 2 ^ (40 - fb)) % 2 ^ (40 - fb) = 0 := by rw [hs, Nat.mul_mod_left]
  have h9 : 2 ^ fb + low < 9 * 2 ^ fb := by
    have h8 : 2 ^ (fb + 3) = 2 ^ fb * 8 := Nat.pow_add ..
    omega
  have hrec : (rc && 2 ^ fb + low != 2 ^ fb) = rc := by
    cases rc with
    | false => rfl
    | true => simpa using hrc rfl
  have hpat := (sliOrd_level (sg := sg) (rc := rc) (Nat.le_add_right (2 ^ fb) low) h9).eq
  rw [hrec, Nat.add_sub_cancel_left] at hpat
  have hhalf : (0 == 2 ^ (39 - fb)) = false := beq_false_of_ne (Nat.two_pow_pos _).ne
  simp only [roundSli, hq, hrem, hhalf, Nat.not_lt_zero, decide_false, Bool.false_and, Bool.or_false, Bool.false_eq_true,
    if_false, Nat.not_le.mpr h9, hrec, hpat]

end

/-! ## Sums below 1 (R46, R48, R49) -/

/-- A level index below 1 as an internal value. -/
def Dy.ofLi (t : Nat) : Dy := { z := (t : Int), e := -40 }

theorem topOf_ofLi {t : Nat} (h0 : 0 < t) (h1 : t < liOne) : -39 ≤ topOf (t : Int) (-40) ∧ topOf (t : Int) (-40) ≤ 0 := by
  have hlog : Nat.log2 t < 40 := (Nat.log2_lt h0.ne').mpr h1
  simp only [topOf, Int.natAbs_natCast]
  omega

theorem Dy.trunc_ofLi {t : Nat} (h0 : 0 < t) (h1 : t < liOne) : Dy.trunc (t : Int) (-40) = (Dy.ofLi t, false) := by
  have hlog : Nat.log2 t < 40 := (Nat.log2_lt h0.ne').mpr h1
  have hk : Nat.log2 t - 40 = 0 := by omega
  have hlow : ¬(-40 + (Nat.log2 t : Int) < -(2 ^ 30 : Nat)) := by omega
  have hz : ¬(t : Int) = 0 := by omega
  have hneg : ¬(t : Int) < 0 := by omega
  simp only [Dy.trunc, Int.natAbs_natCast, if_neg hz, if_neg hlow, if_neg hneg, hk, Nat.pow_zero, Nat.div_one, Nat.mod_one]
  rfl

theorem sumDy_ofLi {t1 t2 : Nat} (h1 : 0 < t1) (h1' : t1 < liOne) (h2 : 0 < t2) (h2' : t2 < liOne) :
    sumDy (t1 : Int) (-40) (t2 : Int) (-40) = (((t1 + t2 : Nat) : Int), -40) := by
  obtain ⟨hlo1, hhi1⟩ := topOf_ofLi h1 h1'
  obtain ⟨hlo2, hhi2⟩ := topOf_ofLi h2 h2'
  have hz1 : ¬(t1 : Int) = 0 := by omega
  have hz2 : ¬(t2 : Int) = 0 := by omega
  have hfar1 : ¬topOf (t2 : Int) (-40) < min (-40) (topOf (t1 : Int) (-40) - 60) - 200 := by omega
  have hfar2 : ¬topOf (t1 : Int) (-40) < min (-40) (topOf (t2 : Int) (-40) - 60) - 200 := by omega
  simp only [sumDy, if_neg hz1, if_neg hz2, if_neg hfar1, if_neg hfar2]
  simp

theorem Dy.add_ofLi {t1 t2 : Nat} (h1 : 0 < t1) (h2 : 0 < t2) (h : t1 + t2 < liOne) :
    (Dy.ofLi t1).add (Dy.ofLi t2) = (Dy.ofLi (t1 + t2), false) := by
  simp only [Dy.add, Dy.ofLi, sumDy_ofLi h1 (by omega) h2 (by omega)]
  exact Dy.trunc_ofLi (by omega) h

theorem sliPhi_lt_one {t : Nat} (h0 : 0 < t) (h1 : t < liOne) : sliPhi t = (Dy.ofLi t, false) := by
  simp [sliPhi, Nat.div_eq_of_lt h1, Nat.mod_eq_of_lt h1, Dy.trunc_ofLi h0 h1, sliExpIter]

theorem sliPsi_lt_one {v : Nat} (h0 : 0 < v) (h1 : v < liOne) (n : Nat) : sliPsi (n + 1) (Dy.ofLi v) = (v, false) := by
  obtain ⟨hlo, hhi⟩ := topOf_ofLi h0 h1
  have hge : ¬(Dy.ofLi v).geOne = true := by
    rw [Dy.geOne, Dy.ofLi, decide_eq_false (Int.not_lt.mpr hhi), Bool.and_false]
    exact Bool.false_ne_true
  have hbelow : ¬(Dy.ofLi v).magBelow (-60) = true := by
    rw [Dy.magBelow, Bool.or_eq_true, beq_iff_eq, decide_eq_true_eq]
    show ¬((v : Int) = 0 ∨ topOf (v : Int) (-40) ≤ -60)
    omega
  rw [sliPsi, if_neg hge, if_neg hbelow]
  simp [Dy.ofLi, divShift, Nat.mod_one]

theorem sliSumPhi_zero (t : Nat) (minus : Bool) : sliSumPhi t minus 0 = (t, false) := by simp [sliSumPhi]

theorem sliSumPhi_lt_one {t1 t2 : Nat} (h1 : 0 < t1) (h : t1 + t2 < liOne) : sliSumPhi t1 false t2 = (t1 + t2, false) := by
  rcases Nat.eq_zero_or_pos t2 with rfl | h2
  · exact sliSumPhi_zero ..
  · have hfive : t1 < liFive := (by omega : t1 < liOne).trans (by decide)
    have hphi1 := sliPhi_lt_one h1 (by omega)
    have hphi2 := sliPhi_lt_one h2 (by omega)
    have hpsi := sliPsi_lt_one (by omega : 0 < t1 + t2) h 11
    rw [sliSumPhi, if_neg h2.ne', if_pos hfive, hphi1, hphi2]
    simp only [stickyThen, Bool.false_eq_true, if_false, Dy.add_ofLi h1 h2 h, hpsi, Bool.or_self]

/-! ## Products and quotients of ordinary operands (R52) -/

section
variable {fb : Nat} (hfb : fb ≤ 40)
include hfb

theorem sliMulDivOrd_ord (div s1 r1 : Bool) (x : Nat) (s2 r2 : Bool) (y : Nat) :
    ∃ r low, SliOrd fb (sliMulDivOrd fb div s1 r1 x s2 r2 y).1 (s1 ^^ s2) r low := by
  unfold sliMulDivOrd
  extract_lets _ _ _ _ _ c
  split
  · rw [← sliBits_one]
    exact ⟨false, 0, sliOrd_one ..⟩
  · exact roundSli_ord hfb _ _

/-- A factor or divisor ±1 keeps the magnitude. -/
theorem sliMulDivOrd_one {low : Nat} {div s1 r1 s2 : Bool} (hlow : low < 2 ^ (fb + 3)) (hr : r1 = true → low ≠ 0) :
    (sliMulDivOrd fb div s1 r1 (liOne + low * 2 ^ (40 - fb)) s2 false (liOne + 0)).1 = sliBits fb (s1 ^^ s2) r1 low := by
  simp only [sliMulDivOrd, Nat.add_sub_cancel_left, Nat.not_lt_zero, if_false]
  split
  · rename_i hcancel
    obtain ⟨h0, hne⟩ : low = 0 ∧ r1 ≠ (false != div) := by simpa using hcancel
    obtain rfl : r1 = false := by
      cases r1 with
      | false => rfl
      | true => exact absurd h0 (hr rfl)
    rw [h0, sliBits_one]
  · rw [sliSumPhi_zero]
    exact roundSli_exact hfb hlow hr

omit hfb in
/-- A product of reciprocals and a quotient of equals is ±1. -/
theorem sliMulDivOrd_cancel {div r1 r2 : Bool} (h : r1 ≠ (r2 != div)) (s1 s2 : Bool) (x : Nat) :
    (sliMulDivOrd fb div s1 r1 x s2 r2 x).1 = sliBits fb (s1 ^^ s2) false 0 := by
  have hne : (r1 != (r2 != div)) = true := bne_iff_ne.mpr h
  simp [sliMulDivOrd, hne, sliBits_one]

/-- Level indexes below 2 on the same side add their fractions, where the sum stays at level 1. -/
theorem sliMulDivOrd_level_one {l1 l2 : Nat} {s1 s2 r : Bool} (h0 : l1 + l2 ≠ 0) (h : l1 + l2 < 2 ^ fb) :
    (sliMulDivOrd fb false s1 r (liOne + l1 * 2 ^ (40 - fb)) s2 r (liOne + l2 * 2 ^ (40 - fb))).1 = sliBits fb (s1 ^^ s2) r (l1 + l2) := by
  have hu := Nat.two_pow_pos (40 - fb)
  have hlt : l1 * 2 ^ (40 - fb) + l2 * 2 ^ (40 - fb) < liOne := by
    rw [liOne_eq hfb, ← Nat.add_mul]
    exact Nat.mul_lt_mul_of_pos_right h hu
  have hpos : 0 < l1 * 2 ^ (40 - fb) + l2 * 2 ^ (40 - fb) := by
    rw [← Nat.add_mul]
    exact Nat.mul_pos (Nat.pos_of_ne_zero h0) hu
  have hround : (roundSli fb (s1 ^^ s2) r (liOne + (l1 * 2 ^ (40 - fb) + l2 * 2 ^ (40 - fb))) false).1 =
      sliBits fb (s1 ^^ s2) r (l1 + l2) := by
    rw [← Nat.add_mul]
    exact roundSli_exact hfb (h.trans_le (Nat.pow_le_pow_right Nat.two_pos (Nat.le_add_right ..))) fun _ => h0
  simp only [sliMulDivOrd, Nat.add_sub_cancel_left, Bool.bne_false]
  generalize l1 * 2 ^ (40 - fb) = t1 at *
  generalize l2 * 2 ^ (40 - fb) = t2 at *
  rcases Nat.lt_or_ge t1 t2 with hswap | hswap
  · simp only [if_pos hswap, bne_self_eq_false, Bool.and_false, Bool.false_eq_true, if_false,
      sliSumPhi_lt_one (by omega : 0 < t2) (by omega : t2 + t1 < liOne), Nat.add_comm t2 t1]
    exact hround
  · simp only [if_neg (Nat.not_lt.mpr hswap), bne_self_eq_false, Bool.and_false, Bool.false_eq_true, if_false,
      sliSumPhi_lt_one (by omega : 0 < t1) hlt]
    exact hround

end

end Sys2Proof.Machine
end

section
/-!
PROOFS. The order of SLI values (03 R51; 07 R157): the rank of a pattern is its value's place in the order, and the model's keys and
comparisons are those of the ranks.
-/

namespace Sys2Proof.Machine

open Sys2Proof

/-! ## Magnitudes -/

/-- The rank of an ordinary magnitude, from its reciprocal bit and the level code and fraction. -/
def sliMag (fb : Nat) (r : Bool) (low : Nat) : Nat := if r then 2 ^ (fb + 3) - low else 2 ^ (fb + 3) + low

section
variable {fb a b low l1 l2 : Nat} {s r r1 r2 s1 s2 : Bool}

theorem sliMag_pos (h : low < 2 ^ (fb + 3)) : 0 < sliMag fb r low := by
  unfold sliMag
  split <;> omega

theorem sliRank_zero : sliRank (fb + 5) (sliZero (fb + 5)) = 0 := if_pos rfl

theorem SliOrd.rank (h : SliOrd fb a s r low) : sliRank (fb + 5) a = if s then -(sliMag fb r low : Int) else sliMag fb r low := by
  unfold sliRank
  rw [show fb + 5 - 2 = fb + 3 from rfl, show fb + 5 - 1 = fb + 4 from rfl, if_neg h.ordinary.1, h.sign, h.recip, h.mod_low]
  rfl

theorem SliOrd.natAbs_rank (h : SliOrd fb a s r low) : (sliRank (fb + 5) a).natAbs = sliMag fb r low := by
  rw [h.rank]
  split <;> simp

theorem SliOrd.sign_rank (h : SliOrd fb a s r low) : (sliRank (fb + 5) a).sign = if s then -1 else 1 := by
  have hpos : 0 < (sliMag fb r low : Int) := Int.natCast_pos.mpr (sliMag_pos h.lt)
  rw [h.rank]
  split
  · exact Int.sign_eq_neg_one_of_neg (Int.neg_neg_of_pos hpos)
  · exact Int.sign_eq_one_of_pos hpos

/-- The key of a magnitude is its rank in units of the fraction, moved by seven levels. -/
theorem sliKey_eq (hfb : fb ≤ 40) (hlow : low < 2 ^ (fb + 3)) :
    sliKey r (liOne + low * 2 ^ (40 - fb)) = sliMag fb r low * (2 ^ (40 - fb) : Nat) - 7 * (liOne : Int) := by
  have h8 : (2 ^ (fb + 3) * 2 ^ (40 - fb) : Int) = 8 * liOne := by
    rw [liOne_eq hfb, pow_add]
    push_cast
    ring
  cases r with
  | true =>
    simp only [sliKey, sliMag, if_true, Nat.cast_sub hlow.le]
    push_cast
    rw [sub_mul, h8]
    ring
  | false =>
    simp only [sliKey, sliMag, Bool.false_eq_true, if_false]
    push_cast
    rw [add_mul, h8]
    ring

theorem sliKey_lt_iff (hfb : fb ≤ 40) (h1 : l1 < 2 ^ (fb + 3)) (h2 : l2 < 2 ^ (fb + 3)) :
    sliKey r1 (liOne + l1 * 2 ^ (40 - fb)) < sliKey r2 (liOne + l2 * 2 ^ (40 - fb)) ↔ sliMag fb r1 l1 < sliMag fb r2 l2 := by
  rw [sliKey_eq hfb h1, sliKey_eq hfb h2, sub_lt_sub_iff_right, ← Nat.cast_mul, ← Nat.cast_mul, Nat.cast_lt,
    Nat.mul_lt_mul_right (Nat.two_pow_pos _)]

/-! ## Comparison -/

/-- The signed keys of a value, from its rank. -/
theorem sliOrder_eq (hfb : fb ≤ 40) (ha : a < 2 ^ (fb + 5)) (hi : a ≠ sliInv (fb + 5)) :
    sliOrder (sliDecode fb a) = ((sliRank (fb + 5) a).sign,
      sliRank (fb + 5) a * (2 ^ (40 - fb) : Nat) - (sliRank (fb + 5) a).sign * (7 * (liOne : Int))) := by
  rcases sli_cases ha with rfl | rfl | ⟨s, r, low, h⟩
  · simp only [sliDecode_zero, sliOrder, sliRank_zero, Int.sign_zero, zero_mul, sub_zero]
  · exact absurd rfl hi
  · rw [h.decode hfb, h.sign_rank, h.rank, sliOrder, sliKey_eq hfb h.lt]
    cases s
    · simp
    · simp [sub_eq_add_neg, add_comm]

theorem sign_lt_sign {p q : Int} (h : p.sign < q.sign) : p < q := by
  rcases lt_trichotomy p 0 with hp | rfl | hp
  · rw [Int.sign_eq_neg_one_of_neg hp] at h
    have hq : ¬q < 0 := fun hq => by
      rw [Int.sign_eq_neg_one_of_neg hq] at h
      exact lt_irrefl _ h
    omega
  · exact Int.sign_pos_iff.mp h
  · rw [Int.sign_eq_one_of_pos hp] at h
    have hq : 0 < q := Int.sign_pos_iff.mp (one_pos.trans h)
    rw [Int.sign_eq_one_of_pos hq] at h
    exact absurd h (lt_irrefl _)

/-- Signs first and then the keys compare as the ranks do. -/
theorem sliCompare_eq (hfb : fb ≤ 40) (ha : a < 2 ^ (fb + 5)) (hb : b < 2 ^ (fb + 5)) (hia : a ≠ sliInv (fb + 5))
    (hib : b ≠ sliInv (fb + 5)) :
    sliCompare (sliDecode fb a) (sliDecode fb b) = (sliRank (fb + 5) a - sliRank (fb + 5) b).sign := by
  rw [sliCompare, sliOrder_eq hfb ha hia, sliOrder_eq hfb hb hib]
  generalize sliRank (fb + 5) a = p
  generalize sliRank (fb + 5) b = q
  dsimp only
  split
  · rename_i hlt
    exact (Int.sign_eq_neg_one_of_neg (sub_neg.mpr (sign_lt_sign hlt))).symm
  · split
    · rename_i _ hgt
      exact (Int.sign_eq_one_of_pos (sub_pos.mpr (sign_lt_sign hgt))).symm
    · rename_i hlt hgt
      have hu : 0 < ((2 ^ (40 - fb) : Nat) : Int) := Int.natCast_pos.mpr (Nat.two_pow_pos _)
      rw [le_antisymm (not_lt.mp hgt) (not_lt.mp hlt), sub_sub_sub_cancel_right, ← sub_mul, Int.sign_mul,
        Int.sign_eq_one_of_pos hu, mul_one]

theorem sliCond_of_inv (cc : Nat) (h : a = sliInv (fb + 5) ∨ b = sliInv (fb + 5)) : sliCond cc fb a b = (cc == 1) := by
  rcases h with rfl | rfl
  · rw [sliCond, sliDecode_inv]
  · rw [sliCond, sliDecode_inv]
    cases sliDecode fb a <;> rfl

/-- 07 R157: the conditions of `sli.cmp`. -/
theorem sliCond_iff {cc : Nat} (hcc : cc ≤ 5) (hfb : fb ≤ 40) (ha : a < 2 ^ (fb + 5)) (hb : b < 2 ^ (fb + 5)) (hia : a ≠ sliInv (fb + 5))
    (hib : b ≠ sliInv (fb + 5)) :
    let p := sliRank (fb + 5) a
    let q := sliRank (fb + 5) b
    sliCond cc fb a b = true ↔
      (cc = 0 ∧ p = q) ∨ (cc = 1 ∧ p ≠ q) ∨ (cc = 2 ∧ p < q) ∨ (cc = 3 ∧ p ≤ q) ∨ (cc = 4 ∧ q < p) ∨ (cc = 5 ∧ q ≤ p) := by
  have hcond : sliCond cc fb a b = condInt cc (sliCompare (sliDecode fb a) (sliDecode fb b)) 0 := by
    have ha' := sliDecode_ne_inv hfb ha hia
    have hb' := sliDecode_ne_inv hfb hb hib
    unfold sliCond
    split
    · exact absurd ‹_› ha'
    · exact absurd ‹_› hb'
    · rfl
  rw [hcond, sliCompare_eq hfb ha hb hia hib]
  dsimp only
  generalize sliRank (fb + 5) a = p
  generalize sliRank (fb + 5) b = q
  have hneg : (p - q).sign < 0 ↔ p < q := by rw [Int.sign_neg_iff, sub_neg]
  have hpos : 0 < (p - q).sign ↔ q < p := by rw [Int.sign_pos_iff, sub_pos]
  have hzero : (p - q).sign = 0 ↔ p = q := by rw [Int.sign_eq_zero_iff_zero, sub_eq_zero]
  interval_cases cc <;> simp [condInt] <;> omega

end

end Sys2Proof.Machine
end

section
/-!
PROOFS. The SLI operations in a lane (03 R51-R54; 07 R156, R157): on zero and INV, and on ordinary operands by their fields.
-/

namespace Sys2Proof.Machine

open Sys2Proof

/-! ## The exact operations (R53) -/

theorem sliNegBits_zero (fb : Nat) : sliNegBits fb (sliZero (fb + 5)) = sliZero (fb + 5) := by
  rw [sliNegBits, sliDecode_zero]
  rfl

theorem sliNegBits_inv (fb : Nat) : sliNegBits fb (sliInv (fb + 5)) = sliInv (fb + 5) := by
  rw [sliNegBits, sliDecode_inv]
  rfl

theorem sliNeg_fst (fb a : Nat) : (sliNeg fb a).1 = sliNegBits fb a := by
  unfold sliNeg
  split <;> rfl

theorem sliAbs_zero (fb : Nat) : (sliAbs fb (sliZero (fb + 5))).1 = sliZero (fb + 5) := by
  rw [sliAbs, sliDecode_zero]
  rfl

theorem sliAbs_inv (fb : Nat) : (sliAbs fb (sliInv (fb + 5))).1 = sliInv (fb + 5) := by
  rw [sliAbs, sliDecode_inv]
  rfl

theorem sliLargest_eq (fb : Nat) (s : Bool) : sliLargest fb s = sliMax (fb + 5) s := by
  have hpos := Nat.two_pow_pos fb
  have h8 : 2 ^ (fb + 3) = 2 ^ fb * 8 := Nat.pow_add ..
  show _ = 2 ^ (fb + 3) - 1 + if s then 2 ^ (fb + 4) else 0
  rw [sliLargest, sliPattern_eq, sliBits, if_neg Bool.false_ne_true]
  omega

theorem sliRcp_zero (fb : Nat) : (sliRcp fb (sliZero (fb + 5))).1 = sliMax (fb + 5) false := by
  rw [sliRcp, sliDecode_zero]
  exact sliLargest_eq ..

theorem sliRcp_inv (fb : Nat) : (sliRcp fb (sliInv (fb + 5))).1 = sliInv (fb + 5) := by
  rw [sliRcp, sliDecode_inv]
  rfl

section
variable {fb a b low l1 l2 : Nat} {s r s1 r1 s2 r2 : Bool}

theorem sliZero_lt (fb : Nat) : sliZero (fb + 5) < 2 ^ (fb + 5) := sliZero_eq fb ▸ sliBits_lt (Nat.two_pow_pos _)

theorem sliInv_lt (fb : Nat) : sliInv (fb + 5) < 2 ^ (fb + 5) := sliInv_eq fb ▸ sliBits_lt (Nat.two_pow_pos _)

theorem sliMax_lt (fb : Nat) (s : Bool) : sliMax (fb + 5) s < 2 ^ (fb + 5) := by
  have hpos := Nat.two_pow_pos (fb + 3)
  have h4 : 2 ^ (fb + 4) = 2 ^ (fb + 3) * 2 := Nat.pow_succ ..
  have h5 : 2 ^ (fb + 5) = 2 ^ (fb + 4) * 2 := Nat.pow_succ ..
  show 2 ^ (fb + 3) - 1 + (if s then 2 ^ (fb + 4) else 0) < _
  split <;> omega

/-- A pattern that is not ordinary is zero or INV. -/
theorem eq_of_not_ordinary (h : ¬sliOrdinary fb a) : a = sliZero (fb + 5) ∨ a = sliInv (fb + 5) := by
  rwa [not_and_or, not_not, not_not] at h

/-- Two operands: one is INV, or else one is zero, or both are ordinary. -/
theorem sli_cases₂ {P : Prop} (ha : a < 2 ^ (fb + 5)) (hb : b < 2 ^ (fb + 5)) (inv : a = sliInv (fb + 5) ∨ b = sliInv (fb + 5) → P)
    (zero_left : a = sliZero (fb + 5) → b ≠ sliInv (fb + 5) → P) (zero_right : ∀ s r low, SliOrd fb a s r low → b = sliZero (fb + 5) → P)
    (ord : ∀ s1 r1 l1 s2 r2 l2, SliOrd fb a s1 r1 l1 → SliOrd fb b s2 r2 l2 → P) : P := by
  rcases sli_cases ha with hz | hi | ⟨s1, r1, l1, h1⟩
  · by_cases hi : b = sliInv (fb + 5)
    · exact inv (.inr hi)
    · exact zero_left hz hi
  · exact inv (.inl hi)
  · rcases sli_cases hb with hz | hi | ⟨s2, r2, l2, h2⟩
    · exact zero_right _ _ _ h1 hz
    · exact inv (.inr hi)
    · exact ord _ _ _ _ _ _ h1 h2

theorem SliOrd.negBits (hfb : fb ≤ 40) (h : SliOrd fb a s r low) : SliOrd fb (sliNegBits fb a) (!s) r low := by
  refine ⟨?_, h.lt, h.ne⟩
  rw [sliNegBits, h.decode hfb, h.eq]
  cases s <;> simp [sliBits]

theorem SliOrd.sliAbs_fst (hfb : fb ≤ 40) (h : SliOrd fb a s r low) : (sliAbs fb a).1 = a % 2 ^ (fb + 4) := by
  rw [sliAbs, h.decode hfb]

theorem SliOrd.sliRcp_one (hfb : fb ≤ 40) (h : SliOrd fb a s r 0) : (sliRcp fb a).1 = a := by
  rw [sliRcp, h.decode hfb, Nat.zero_mul]
  exact congrArg Prod.fst (if_pos rfl)

theorem SliOrd.sliRcp_ord (hfb : fb ≤ 40) (h : SliOrd fb a s r low) (h0 : low ≠ 0) : SliOrd fb (sliRcp fb a).1 s (!r) low := by
  refine ⟨?_, h.lt, fun _ => h0⟩
  have hs : ¬liOne + low * 2 ^ (40 - fb) = liOne := by
    have hpos := Nat.mul_pos (Nat.pos_of_ne_zero h0) (Nat.two_pow_pos (40 - fb))
    omega
  rw [sliRcp, h.decode hfb]
  dsimp only
  rw [if_neg hs, h.eq]
  cases r <;> simp only [sliBits, Bool.not_true, Bool.not_false, Bool.false_eq_true, if_true, if_false] <;> omega

/-! ## Sums (R51, R54) -/

theorem sliAdd_of_inv (h : a = sliInv (fb + 5) ∨ b = sliInv (fb + 5)) : (sliAdd fb a b).1 = sliInv (fb + 5) := by
  rcases h with rfl | rfl
  · rw [sliAdd, sliDecode_inv]
    rfl
  · rw [sliAdd, sliDecode_inv]
    cases sliDecode fb a <;> rfl

theorem sliAdd_zero_left (hfb : fb ≤ 40) (hb : b < 2 ^ (fb + 5)) (hi : b ≠ sliInv (fb + 5)) : (sliAdd fb (sliZero (fb + 5)) b).1 = b := by
  rcases sli_cases hb with rfl | rfl | ⟨s, r, low, h⟩
  · rw [sliAdd, sliDecode_zero]
  · exact absurd rfl hi
  · rw [sliAdd, sliDecode_zero, h.decode hfb]

theorem sliAdd_zero_right (hfb : fb ≤ 40) (ha : a < 2 ^ (fb + 5)) (hi : a ≠ sliInv (fb + 5)) : (sliAdd fb a (sliZero (fb + 5))).1 = a := by
  rcases sli_cases ha with rfl | rfl | ⟨s, r, low, h⟩
  · rw [sliAdd, sliDecode_zero]
  · exact absurd rfl hi
  · rw [sliAdd, sliDecode_zero, h.decode hfb]

/-- A value and its negation add to zero. -/
theorem SliOrd.sliAdd_opposite (hfb : fb ≤ 40) (h1 : SliOrd fb a s r low) (h2 : SliOrd fb b (!s) r low) :
    (sliAdd fb a b).1 = sliZero (fb + 5) := by
  have hs : (s != !s) = true := by cases s <;> rfl
  simp only [sliAdd, h1.decode hfb, h2.decode hfb, hs, beq_self_eq_true, Bool.and_self, if_true]
  rfl

theorem sliAddOrd_ord (hfb : fb ≤ 40) (xs xr : Bool) (x : Nat) (ys yr : Bool) (y : Nat) :
    ∃ r low, SliOrd fb (sliAddOrd fb xs xr x ys yr y).1 xs r low := roundSli_ord hfb _ _

/-- Any other sum of ordinary values is an ordinary one, with the sign of the operand of the larger magnitude. -/
theorem SliOrd.sliAdd_ord (hfb : fb ≤ 40) (h1 : SliOrd fb a s1 r1 l1) (h2 : SliOrd fb b s2 r2 l2) (hne : ¬(s2 = !s1 ∧ r1 = r2 ∧ l1 = l2)) :
    ∃ r low, SliOrd fb (sliAdd fb a b).1 (if sliMag fb r1 l1 < sliMag fb r2 l2 then s2 else s1) r low := by
  have hsum : ¬(s1 != s2 && r1 == r2 && liOne + l1 * 2 ^ (40 - fb) == liOne + l2 * 2 ^ (40 - fb)) = true := by
    simp only [Bool.and_eq_true, bne_iff_ne, beq_iff_eq, Nat.add_left_cancel_iff, Nat.mul_left_inj (Nat.two_pow_pos (40 - fb)).ne']
    rintro ⟨⟨hs, hr⟩, hl⟩
    exact hne ⟨Bool.eq_not.mpr (Ne.symm hs), hr, hl⟩
  simp only [sliAdd, h1.decode hfb, h2.decode hfb, if_neg hsum, sliKey_lt_iff hfb h1.lt h2.lt]
  split
  · exact sliAddOrd_ord hfb ..
  · exact sliAddOrd_ord hfb ..

theorem sliAdd_lt (hfb : fb ≤ 40) (ha : a < 2 ^ (fb + 5)) (hb : b < 2 ^ (fb + 5)) : (sliAdd fb a b).1 < 2 ^ (fb + 5) := by
  refine sli_cases₂ ha hb (fun hi => ?_) (fun hz hi => ?_) (fun s r low h hz => ?_) fun s1 r1 l1 s2 r2 l2 h1 h2 => ?_
  · exact sliAdd_of_inv hi ▸ sliInv_lt fb
  · rwa [hz, sliAdd_zero_left hfb hb hi]
  · rwa [hz, sliAdd_zero_right hfb ha h.ordinary.2]
  · by_cases hne : s2 = !s1 ∧ r1 = r2 ∧ l1 = l2
    · obtain ⟨rfl, rfl, rfl⟩ := hne
      exact h1.sliAdd_opposite hfb h2 ▸ sliZero_lt fb
    · obtain ⟨r, low, h⟩ := h1.sliAdd_ord hfb h2 hne
      exact h.bound

/-! ## Products and quotients (R52, R54) -/

theorem sliMul_of_inv (h : a = sliInv (fb + 5) ∨ b = sliInv (fb + 5)) : (sliMul fb a b).1 = sliInv (fb + 5) := by
  rcases h with rfl | rfl
  · rw [sliMul, sliDecode_inv]
    rfl
  · rw [sliMul, sliDecode_inv]
    cases sliDecode fb a <;> rfl

theorem sliMul_zero_left (hfb : fb ≤ 40) (hb : b < 2 ^ (fb + 5)) (hi : b ≠ sliInv (fb + 5)) :
    (sliMul fb (sliZero (fb + 5)) b).1 = sliZero (fb + 5) := by
  rcases sli_cases hb with rfl | rfl | ⟨s, r, low, h⟩
  · rw [sliMul, sliDecode_zero]
    rfl
  · exact absurd rfl hi
  · rw [sliMul, sliDecode_zero, h.decode hfb]
    rfl

theorem sliMul_zero_right (hfb : fb ≤ 40) (ha : a < 2 ^ (fb + 5)) (hi : a ≠ sliInv (fb + 5)) :
    (sliMul fb a (sliZero (fb + 5))).1 = sliZero (fb + 5) := by
  rcases sli_cases ha with rfl | rfl | ⟨s, r, low, h⟩
  · rw [sliMul, sliDecode_zero]
    rfl
  · exact absurd rfl hi
  · rw [sliMul, sliDecode_zero, h.decode hfb]
    rfl

/-- The function of ordinary operands is a variable here, for the kernel must not unfold it: it would count down from 2^40. -/
theorem sliMul_of_decode {G : Bool → Bool → Nat → Bool → Bool → Nat → Nat × Nat} {x y : Nat} (hG : sliMulDivOrd fb false = G)
    (h1 : sliDecode fb a = .ord s1 r1 x) (h2 : sliDecode fb b = .ord s2 r2 y) : (sliMul fb a b).1 = (G s1 r1 x s2 r2 y).1 := by
  rw [sliMul, hG, h1, h2]

theorem SliOrd.sliMul_fst (hfb : fb ≤ 40) (h1 : SliOrd fb a s1 r1 l1) (h2 : SliOrd fb b s2 r2 l2) :
    (sliMul fb a b).1 = (sliMulDivOrd fb false s1 r1 (liOne + l1 * 2 ^ (40 - fb)) s2 r2 (liOne + l2 * 2 ^ (40 - fb))).1 := by
  exact sliMul_of_decode rfl (h1.decode hfb) (h2.decode hfb)

theorem SliOrd.sliMul_ord (hfb : fb ≤ 40) (h1 : SliOrd fb a s1 r1 l1) (h2 : SliOrd fb b s2 r2 l2) :
    ∃ r low, SliOrd fb (sliMul fb a b).1 (s1 ^^ s2) r low := by
  rw [h1.sliMul_fst hfb h2]
  exact sliMulDivOrd_ord hfb ..

theorem SliOrd.sliMul_one (hfb : fb ≤ 40) (h1 : SliOrd fb a s1 r1 l1) (h2 : SliOrd fb b s2 false 0) :
    (sliMul fb a b).1 = sliBits fb (s1 ^^ s2) r1 l1 := by
  rw [h1.sliMul_fst hfb h2, Nat.zero_mul]
  exact sliMulDivOrd_one hfb h1.lt h1.ne

theorem SliOrd.sliMul_rcp (hfb : fb ≤ 40) (h1 : SliOrd fb a s1 r1 l1) (h2 : SliOrd fb b s2 (!r1) l1) :
    (sliMul fb a b).1 = sliBits fb (s1 ^^ s2) false 0 := by
  rw [h1.sliMul_fst hfb h2]
  exact sliMulDivOrd_cancel (by cases r1 <;> decide) ..

theorem SliOrd.sliMul_level_one (hfb : fb ≤ 40) (h1 : SliOrd fb a s1 r l1) (h2 : SliOrd fb b s2 r l2) (h0 : l1 + l2 ≠ 0)
    (h : l1 + l2 < 2 ^ fb) : (sliMul fb a b).1 = sliBits fb (s1 ^^ s2) r (l1 + l2) := by
  rw [h1.sliMul_fst hfb h2]
  exact sliMulDivOrd_level_one hfb h0 h

theorem sliMul_lt (hfb : fb ≤ 40) (ha : a < 2 ^ (fb + 5)) (hb : b < 2 ^ (fb + 5)) : (sliMul fb a b).1 < 2 ^ (fb + 5) := by
  refine sli_cases₂ ha hb (fun hi => ?_) (fun hz hi => ?_) (fun s r low h hz => ?_) fun s1 r1 l1 s2 r2 l2 h1 h2 => ?_
  · exact sliMul_of_inv hi ▸ sliInv_lt fb
  · rw [hz, sliMul_zero_left hfb hb hi]
    exact sliZero_lt fb
  · rw [hz, sliMul_zero_right hfb ha h.ordinary.2]
    exact sliZero_lt fb
  · obtain ⟨r, low, h⟩ := h1.sliMul_ord hfb h2
    exact h.bound

theorem sliDiv_of_inv (h : a = sliInv (fb + 5) ∨ b = sliInv (fb + 5)) : (sliDiv fb a b).1 = sliInv (fb + 5) := by
  rcases h with rfl | rfl
  · rw [sliDiv, sliDecode_inv]
    rfl
  · rw [sliDiv, sliDecode_inv]
    cases sliDecode fb a <;> rfl

theorem sliDiv_zero_left (hfb : fb ≤ 40) (hb : b < 2 ^ (fb + 5)) (hi : b ≠ sliInv (fb + 5)) :
    (sliDiv fb (sliZero (fb + 5)) b).1 = sliZero (fb + 5) := by
  rcases sli_cases hb with rfl | rfl | ⟨s, r, low, h⟩
  · rw [sliDiv, sliDecode_zero]
    rfl
  · exact absurd rfl hi
  · rw [sliDiv, sliDecode_zero, h.decode hfb]
    rfl

theorem SliOrd.sliDiv_zero (hfb : fb ≤ 40) (h : SliOrd fb a s r low) : (sliDiv fb a (sliZero (fb + 5))).1 = sliMax (fb + 5) s := by
  rw [sliDiv, h.decode hfb, sliDecode_zero]
  exact sliLargest_eq ..

theorem sliDiv_of_decode {G : Bool → Bool → Nat → Bool → Bool → Nat → Nat × Nat} {x y : Nat} (hG : sliMulDivOrd fb true = G)
    (h1 : sliDecode fb a = .ord s1 r1 x) (h2 : sliDecode fb b = .ord s2 r2 y) : (sliDiv fb a b).1 = (G s1 r1 x s2 r2 y).1 := by
  rw [sliDiv, hG, h1, h2]

theorem SliOrd.sliDiv_fst (hfb : fb ≤ 40) (h1 : SliOrd fb a s1 r1 l1) (h2 : SliOrd fb b s2 r2 l2) :
    (sliDiv fb a b).1 = (sliMulDivOrd fb true s1 r1 (liOne + l1 * 2 ^ (40 - fb)) s2 r2 (liOne + l2 * 2 ^ (40 - fb))).1 := by
  exact sliDiv_of_decode rfl (h1.decode hfb) (h2.decode hfb)

theorem SliOrd.sliDiv_ord (hfb : fb ≤ 40) (h1 : SliOrd fb a s1 r1 l1) (h2 : SliOrd fb b s2 r2 l2) :
    ∃ r low, SliOrd fb (sliDiv fb a b).1 (s1 ^^ s2) r low := by
  rw [h1.sliDiv_fst hfb h2]
  exact sliMulDivOrd_ord hfb ..

theorem SliOrd.sliDiv_one (hfb : fb ≤ 40) (h1 : SliOrd fb a s1 r1 l1) (h2 : SliOrd fb b s2 false 0) :
    (sliDiv fb a b).1 = sliBits fb (s1 ^^ s2) r1 l1 := by
  rw [h1.sliDiv_fst hfb h2, Nat.zero_mul]
  exact sliMulDivOrd_one hfb h1.lt h1.ne

theorem SliOrd.sliDiv_self (hfb : fb ≤ 40) (h : SliOrd fb a s r low) : (sliDiv fb a a).1 = 0 := by
  rw [h.sliDiv_fst hfb h, sliMulDivOrd_cancel (by cases r <;> decide), Bool.xor_self]
  rfl

theorem sliDiv_lt (hfb : fb ≤ 40) (ha : a < 2 ^ (fb + 5)) (hb : b < 2 ^ (fb + 5)) : (sliDiv fb a b).1 < 2 ^ (fb + 5) := by
  refine sli_cases₂ ha hb (fun hi => ?_) (fun hz hi => ?_) (fun s r low h hz => ?_) fun s1 r1 l1 s2 r2 l2 h1 h2 => ?_
  · exact sliDiv_of_inv hi ▸ sliInv_lt fb
  · rw [hz, sliDiv_zero_left hfb hb hi]
    exact sliZero_lt fb
  · rw [hz, h.sliDiv_zero hfb]
    exact sliMax_lt ..
  · obtain ⟨r, low, h⟩ := h1.sliDiv_ord hfb h2
    exact h.bound

/-! ## Minimum, maximum and level (07 R157) -/

theorem sliMinMax_of_inv (mx : Bool) (h : a = sliInv (fb + 5) ∨ b = sliInv (fb + 5)) : sliMinMax mx fb a b = sliInv (fb + 5) := by
  rcases h with rfl | rfl
  · rw [sliMinMax, sliDecode_inv]
    rfl
  · rw [sliMinMax, sliDecode_inv]
    cases sliDecode fb a <;> rfl

/-- Where neither operand is INV, the one of the lower or of the higher rank is delivered, and operand a of equals. -/
theorem sliMinMax_eq (mx : Bool) (hfb : fb ≤ 40) (ha : a < 2 ^ (fb + 5)) (hb : b < 2 ^ (fb + 5)) (hia : a ≠ sliInv (fb + 5))
    (hib : b ≠ sliInv (fb + 5)) :
    sliMinMax mx fb a b =
      if (if mx then sliRank (fb + 5) a < sliRank (fb + 5) b else sliRank (fb + 5) b < sliRank (fb + 5) a) then b else a := by
  have hcompare : sliMinMax mx fb a b = if (if mx then decide (sliCompare (sliDecode fb a) (sliDecode fb b) < 0)
      else decide (0 < sliCompare (sliDecode fb a) (sliDecode fb b))) then b else a := by
    have ha' := sliDecode_ne_inv hfb ha hia
    have hb' := sliDecode_ne_inv hfb hb hib
    unfold sliMinMax
    split
    · exact absurd ‹_› ha'
    · exact absurd ‹_› hb'
    · rfl
  simp only [hcompare, sliCompare_eq hfb ha hb hia hib, Int.sign_neg_iff, Int.sign_pos_iff, sub_neg, sub_pos]
  cases mx <;> simp

theorem sliLvl_zero (fb : Nat) : sliLvl fb (sliZero (fb + 5)) = 0x20 := by rw [sliLvl, sliDecode_zero]

theorem sliLvl_inv (fb : Nat) : sliLvl fb (sliInv (fb + 5)) = 0x40 := by rw [sliLvl, sliDecode_inv]

theorem SliOrd.sliLvl_eq (hfb : fb ≤ 40) (h : SliOrd fb a s r low) : sliLvl fb a = low / 2 ^ fb + 1 + if r then 16 else 0 := by
  have hlevel : sliLevel (liOne + low * 2 ^ (40 - fb)) = low / 2 ^ fb + 1 := by
    rw [sliLevel, Nat.add_div_left _ (by decide), liOne_eq hfb, Nat.mul_div_mul_right _ _ (Nat.two_pow_pos _)]
  rw [sliLvl, h.decode hfb]
  dsimp only
  rw [hlevel]

end

end Sys2Proof.Machine
end

section
/-!
PROOFS. The SLI results (O13): what each operation delivers in a lane, in the terms of the statement, and how an SLI operation completes.
-/

namespace Sys2Proof.Machine

open Sys2Proof

/-! ## Ordinary patterns and bits -/

section
variable {fb a b : Nat}

theorem SliOrd.flipBit_sign {s r : Bool} {low d : Nat} (h : SliOrd fb a s r low) :
    flipBit (fb + 5) (fb + 4) a d ↔ d = sliBits fb (!s) r low := h.eq ▸ flipBit_sign_iff h.lt

theorem SliOrd.flipBit_recip {s r : Bool} {low d : Nat} (h : SliOrd fb a s r low) :
    flipBit (fb + 5) (fb + 3) a d ↔ d = sliBits fb s (!r) low := h.eq ▸ flipBit_recip_iff h.lt

theorem ordinary_sign {s : Bool} (h : ∃ r low, SliOrd fb a s r low) : sliOrdinary fb a ∧ a.testBit (fb + 4) = s := by
  obtain ⟨r, low, h⟩ := h
  exact ⟨h.ordinary, h.sign⟩

end

/-! ## What the operations deliver in a lane -/

section
variable {fb a b : Nat} (hfb : fb ≤ 40) (ha : a < 2 ^ (fb + 5))
include hfb ha

theorem sliNeg_lane :
    let d := (sliNeg fb a).1
    (¬sliOrdinary fb a → d = a) ∧ (sliOrdinary fb a → flipBit (fb + 5) (fb + 4) a d) := by
  dsimp only
  rw [sliNeg_fst]
  refine ⟨fun h => ?_, fun h => ?_⟩
  · rcases eq_of_not_ordinary h with rfl | rfl
    · exact sliNegBits_zero fb
    · exact sliNegBits_inv fb
  · have h := sliOrd_of_ordinary ha h
    exact h.flipBit_sign.mpr (h.negBits hfb).eq

theorem sliNeg_lt : (sliNeg fb a).1 < 2 ^ (fb + 5) := by
  by_cases h : sliOrdinary fb a
  · exact ((sliNeg_lane hfb ha).2 h).1
  · exact ((sliNeg_lane hfb ha).1 h).trans_lt ha

theorem sliAbs_lane :
    let d := (sliAbs fb a).1
    (¬sliOrdinary fb a → d = a) ∧ (sliOrdinary fb a → d = a % 2 ^ (fb + 4)) := by
  refine ⟨fun h => ?_, fun h => (sliOrd_of_ordinary ha h).sliAbs_fst hfb⟩
  rcases eq_of_not_ordinary h with rfl | rfl
  · exact sliAbs_zero fb
  · exact sliAbs_inv fb

theorem sliAbs_lt : (sliAbs fb a).1 < 2 ^ (fb + 5) := by
  by_cases h : sliOrdinary fb a
  · exact ((sliAbs_lane hfb ha).2 h).trans_lt ((Nat.mod_le ..).trans_lt ha)
  · exact ((sliAbs_lane hfb ha).1 h).trans_lt ha

theorem sliRcp_lane :
    let d := (sliRcp fb a).1
    (a = sliZero (fb + 5) → d = sliMax (fb + 5) false) ∧ (a = sliInv (fb + 5) → d = a) ∧ (a % 2 ^ (fb + 4) = 0 → d = a) ∧
    (sliOrdinary fb a → ¬a % 2 ^ (fb + 4) = 0 → flipBit (fb + 5) (fb + 3) a d) := by
  refine ⟨?_, ?_, fun h1 => ?_, fun h h1 => ?_⟩
  · rintro rfl
    exact sliRcp_zero fb
  · rintro rfl
    exact sliRcp_inv fb
  · exact (sliOrd_of_one ha h1).sliRcp_one hfb
  · have h := sliOrd_of_ordinary ha h
    exact h.flipBit_recip.mpr (h.sliRcp_ord hfb (h.not_one h1)).eq

theorem sliRcp_lt : (sliRcp fb a).1 < 2 ^ (fb + 5) := by
  obtain ⟨hz, hi, h1, h⟩ := sliRcp_lane hfb ha
  by_cases hord : sliOrdinary fb a
  · by_cases hone : a % 2 ^ (fb + 4) = 0
    · exact (h1 hone).trans_lt ha
    · exact (h hord hone).1
  · rcases eq_of_not_ordinary hord with hza | hia
    · exact (hz hza).trans_lt (sliMax_lt ..)
    · exact (hi hia).trans_lt ha

theorem sliLvl_lane :
    let d := sliLvl fb a
    (a = sliZero (fb + 5) → d = 0x20) ∧ (a = sliInv (fb + 5) → d = 0x40) ∧
    (sliOrdinary fb a → d = a % 2 ^ (fb + 3) / 2 ^ fb + 1 + if a.testBit (fb + 3) then 16 else 0) := by
  refine ⟨?_, ?_, fun h => (sliOrd_of_ordinary ha h).sliLvl_eq hfb⟩
  · rintro rfl
    exact sliLvl_zero fb
  · rintro rfl
    exact sliLvl_inv fb

theorem sliLvl_lt : sliLvl fb a < 2 ^ 32 := by
  obtain ⟨hz, hi, h⟩ := sliLvl_lane hfb ha
  by_cases hord : sliOrdinary fb a
  · have hcode : a % 2 ^ (fb + 3) / 2 ^ fb < 8 := Nat.div_lt_of_lt_mul ((Nat.mod_lt _ (Nat.two_pow_pos _)).trans_eq (Nat.pow_add ..))
    rw [h hord]
    split <;> omega
  · rcases eq_of_not_ordinary hord with hza | hia
    · exact (hz hza).trans_lt (by decide)
    · exact (hi hia).trans_lt (by decide)

/-- 03 R52 at level 1: fractions add on the same side, where the sum stays below the next level. -/
theorem sliMul_level_one (hb : b < 2 ^ (fb + 5)) (hoa : sliOrdinary fb a) (hob : sliOrdinary fb b)
    (hr : a.testBit (fb + 3) = b.testBit (fb + 3)) (h : a % 2 ^ (fb + 3) + b % 2 ^ (fb + 3) < 2 ^ fb)
    (h0 : a % 2 ^ (fb + 3) + b % 2 ^ (fb + 3) ≠ 0) :
    (sliMul fb a b).1 = a % 2 ^ (fb + 3) + b % 2 ^ (fb + 3) + (if a.testBit (fb + 3) then 2 ^ (fb + 3) else 0) +
      if a.testBit (fb + 4) ^^ b.testBit (fb + 4) then 2 ^ (fb + 4) else 0 :=
  (sliOrd_of_ordinary ha hoa).sliMul_level_one hfb (hr ▸ sliOrd_of_ordinary hb hob) h0 h

theorem sliSq_lane :
    let d := (sliMul fb a a).1
    (¬sliOrdinary fb a → d = a) ∧ (a % 2 ^ (fb + 4) = 0 → d = 0) := by
  refine ⟨fun h => ?_, fun h1 => ?_⟩
  · rcases eq_of_not_ordinary h with rfl | rfl
    · exact sliMul_zero_left hfb ha (sliZero_ne_sliInv fb)
    · exact sliMul_of_inv (.inl rfl)
  · have h := sliOrd_of_one ha h1
    rw [h.sliMul_one hfb h, Bool.xor_self]
    rfl

variable (hb : b < 2 ^ (fb + 5))
include hb

theorem sliAdd_lane :
    let d := (sliAdd fb a b).1
    (a = sliInv (fb + 5) ∨ b = sliInv (fb + 5) → d = sliInv (fb + 5)) ∧
    (a = sliZero (fb + 5) → b ≠ sliInv (fb + 5) → d = b) ∧ (b = sliZero (fb + 5) → a ≠ sliInv (fb + 5) → d = a) ∧
    (sliOrdinary fb a → sliOrdinary fb b → (flipBit (fb + 5) (fb + 4) a b → d = sliZero (fb + 5)) ∧
      (¬flipBit (fb + 5) (fb + 4) a b → sliOrdinary fb d ∧
        d.testBit (fb + 4) =
          if (sliRank (fb + 5) a).natAbs < (sliRank (fb + 5) b).natAbs then b.testBit (fb + 4) else a.testBit (fb + 4))) := by
  refine ⟨sliAdd_of_inv, ?_, ?_, fun hoa hob => ?_⟩
  · rintro rfl hi
    exact sliAdd_zero_left hfb hb hi
  · rintro rfl hi
    exact sliAdd_zero_right hfb ha hi
  · have h1 := sliOrd_of_ordinary ha hoa
    have h2 := sliOrd_of_ordinary hb hob
    refine ⟨fun hf => ?_, fun hf => ?_⟩
    · exact h1.sliAdd_opposite hfb ⟨h1.flipBit_sign.mp hf, h1.lt, h1.ne⟩
    · rw [h1.natAbs_rank, h2.natAbs_rank]
      refine ordinary_sign (h1.sliAdd_ord hfb h2 fun ⟨hs, hr, hl⟩ => hf (h1.flipBit_sign.mpr ?_))
      rw [hr, hl, ← hs]
      exact h2.eq

theorem sliSub_lane :
    let d := (sliSub fb a b).1
    (a = sliInv (fb + 5) ∨ b = sliInv (fb + 5) → d = sliInv (fb + 5)) ∧
    (b = sliZero (fb + 5) → a ≠ sliInv (fb + 5) → d = a) ∧
    (a = sliZero (fb + 5) → sliOrdinary fb b → flipBit (fb + 5) (fb + 4) b d) ∧
    (sliOrdinary fb a → sliOrdinary fb b → (a = b → d = sliZero (fb + 5)) ∧
      (a ≠ b → sliOrdinary fb d ∧
        d.testBit (fb + 4) =
          if (sliRank (fb + 5) a).natAbs < (sliRank (fb + 5) b).natAbs then !b.testBit (fb + 4) else a.testBit (fb + 4))) := by
  unfold sliSub
  refine ⟨fun h => sliAdd_of_inv (h.imp id ?_), ?_, ?_, fun hoa hob => ?_⟩
  · rintro rfl
    exact sliNegBits_inv fb
  · rintro rfl hi
    rw [sliNegBits_zero]
    exact sliAdd_zero_right hfb ha hi
  · rintro rfl hob
    have h2 := sliOrd_of_ordinary hb hob
    have hn := h2.negBits hfb
    rw [sliAdd_zero_left hfb hn.bound hn.ordinary.2]
    exact h2.flipBit_sign.mpr hn.eq
  · have h1 := sliOrd_of_ordinary ha hoa
    have h2 := sliOrd_of_ordinary hb hob
    refine ⟨fun hab => ?_, fun hne => ?_⟩
    · subst hab
      exact h1.sliAdd_opposite hfb (h1.negBits hfb)
    · rw [h1.natAbs_rank, h2.natAbs_rank]
      refine ordinary_sign (h1.sliAdd_ord hfb (h2.negBits hfb) fun ⟨hs, hr, hl⟩ => hne ?_)
      rw [h1.eq, h2.eq, hr, hl, Bool.not_inj hs]

theorem sliSub_lt : (sliSub fb a b).1 < 2 ^ (fb + 5) :=
  sliAdd_lt hfb ha (sliNeg_fst fb b ▸ sliNeg_lt hfb hb)

theorem sliMul_lane :
    let d := (sliMul fb a b).1
    (a = sliInv (fb + 5) ∨ b = sliInv (fb + 5) → d = sliInv (fb + 5)) ∧
    (a = sliZero (fb + 5) → b ≠ sliInv (fb + 5) → d = sliZero (fb + 5)) ∧
    (b = sliZero (fb + 5) → a ≠ sliInv (fb + 5) → d = sliZero (fb + 5)) ∧
    (sliOrdinary fb a → sliOrdinary fb b → sliOrdinary fb d ∧ d.testBit (fb + 4) = (a.testBit (fb + 4) ^^ b.testBit (fb + 4))) ∧
    (sliOrdinary fb a → b % 2 ^ (fb + 4) = 0 → d % 2 ^ (fb + 4) = a % 2 ^ (fb + 4)) ∧
    (sliOrdinary fb a → flipBit (fb + 5) (fb + 3) (a % 2 ^ (fb + 4)) (b % 2 ^ (fb + 4)) → sliOrdinary fb b → d % 2 ^ (fb + 4) = 0) := by
  refine ⟨sliMul_of_inv, ?_, ?_, fun hoa hob => ?_, fun hoa h1 => ?_, fun hoa hf hob => ?_⟩
  · rintro rfl hi
    exact sliMul_zero_left hfb hb hi
  · rintro rfl hi
    exact sliMul_zero_right hfb ha hi
  · exact ordinary_sign ((sliOrd_of_ordinary ha hoa).sliMul_ord hfb (sliOrd_of_ordinary hb hob))
  · have h := sliOrd_of_ordinary ha hoa
    rw [h.sliMul_one hfb (sliOrd_of_one hb h1), sliBits_mod_abs h.lt, h.mod_abs]
  · have h1 := sliOrd_of_ordinary ha hoa
    have h2 := sliOrd_of_ordinary hb hob
    rw [h1.mod_abs, h2.mod_abs, flipBit_recip_iff h1.lt, sliBits_inj h2.lt h1.lt] at hf
    obtain ⟨-, hr, hl⟩ := hf
    rw [hr, hl] at h2
    rw [h1.sliMul_rcp hfb h2, sliBits_mod_abs (Nat.two_pow_pos _)]
    rfl

theorem sliDiv_lane :
    let d := (sliDiv fb a b).1
    (a = sliInv (fb + 5) ∨ b = sliInv (fb + 5) → d = sliInv (fb + 5)) ∧
    (a = sliZero (fb + 5) → b ≠ sliInv (fb + 5) → d = sliZero (fb + 5)) ∧
    (sliOrdinary fb a → b = sliZero (fb + 5) → d = sliMax (fb + 5) (a.testBit (fb + 4))) ∧
    (sliOrdinary fb a → sliOrdinary fb b → sliOrdinary fb d ∧ d.testBit (fb + 4) = (a.testBit (fb + 4) ^^ b.testBit (fb + 4))) ∧
    (sliOrdinary fb a → b % 2 ^ (fb + 4) = 0 → d % 2 ^ (fb + 4) = a % 2 ^ (fb + 4)) ∧
    (sliOrdinary fb a → a = b → d = 0) := by
  refine ⟨sliDiv_of_inv, ?_, fun hoa hz => ?_, fun hoa hob => ?_, fun hoa h1 => ?_, fun hoa hab => ?_⟩
  · rintro rfl hi
    exact sliDiv_zero_left hfb hb hi
  · rw [hz]
    exact (sliOrd_of_ordinary ha hoa).sliDiv_zero hfb
  · exact ordinary_sign ((sliOrd_of_ordinary ha hoa).sliDiv_ord hfb (sliOrd_of_ordinary hb hob))
  · have h := sliOrd_of_ordinary ha hoa
    rw [h.sliDiv_one hfb (sliOrd_of_one hb h1), sliBits_mod_abs h.lt, h.mod_abs]
  · rw [← hab]
    exact (sliOrd_of_ordinary ha hoa).sliDiv_self hfb

theorem sliMinMax_lt (mx : Bool) : sliMinMax mx fb a b < 2 ^ (fb + 5) := by
  by_cases hi : a = sliInv (fb + 5) ∨ b = sliInv (fb + 5)
  · exact sliMinMax_of_inv mx hi ▸ sliInv_lt fb
  · obtain ⟨hia, hib⟩ := not_or.mp hi
    rw [sliMinMax_eq mx hfb ha hb hia hib]
    split_ifs <;> assumption

theorem sliMinMax_lane (mx : Bool) :
    let d := sliMinMax mx fb a b
    (a = sliInv (fb + 5) ∨ b = sliInv (fb + 5) → d = sliInv (fb + 5)) ∧
    (a ≠ sliInv (fb + 5) → b ≠ sliInv (fb + 5) →
      d = if (if mx then sliRank (fb + 5) a < sliRank (fb + 5) b else sliRank (fb + 5) b < sliRank (fb + 5) a) then b else a) :=
  ⟨sliMinMax_of_inv mx, sliMinMax_eq mx hfb ha hb⟩

theorem sliCmp_lane {cc : Nat} (hcc : cc ≤ 5) :
    let p := sliRank (fb + 5) a
    let q := sliRank (fb + 5) b
    let d := if sliCond cc fb a b then 1 else 0
    (a = sliInv (fb + 5) ∨ b = sliInv (fb + 5) → d = if cc = 1 then 1 else 0) ∧
    (a ≠ sliInv (fb + 5) → b ≠ sliInv (fb + 5) → (d = 0 ∨ d = 1) ∧
      (d = 1 ↔ (cc = 0 ∧ p = q) ∨ (cc = 1 ∧ p ≠ q) ∨ (cc = 2 ∧ p < q) ∨ (cc = 3 ∧ p ≤ q) ∨ (cc = 4 ∧ q < p) ∨ (cc = 5 ∧ q ≤ p))) := by
  refine ⟨fun h => ?_, fun hia hib => ⟨?_, ?_⟩⟩
  · rw [sliCond_of_inv cc h]
    simp
  · split
    · exact .inr rfl
    · exact .inl rfl
  · exact (ite_eq_iff'.trans (by simp)).trans (sliCond_iff hcc hfb ha hb hia hib)

end

/-! ## Completion -/

theorem onlyFlags_orSli (s : State) (w : WaveRef) (fl : Nat) : OnlyFlags s (s.orSli w fl) w :=
  ⟨0#5, BitVec.ofNat 5 fl, by simp only [State.orSli, BitVec.or_zero]⟩

theorem tySli_bits {T : Ty} (hT : T ∈ tySli) : sliFb T ≤ 40 ∧ T.bits = sliFb T + 5 := by
  revert T
  decide

section
variable {op : Op} {f : Fields} {s : State} {x : Site} {fr : Frame} {c : Cur} {T : Ty} {va vb : Value} {m : LaneMask} {given2 : Bool}
  {g : OpIn → Fin 32 → Nat × Nat}

/-- An operation with SLI flags completes with what its function gives in each lane, where that is a pattern of its type. -/
theorem completes_sli (hx : AtPlace s x fr c) (hT : f.typ.toNat = T.code) (hform : op.form T.code f.md.toNat = some (fltForm T given2 false))
    (ha : Names c f.a T va) (hb : Operand c given2 f.b T vb) (hc : f.c = 0) (hm : Active c f.p m)
    (hcore : ∀ i s, op.core i s = doneSli i.ty i s (g i)) (hlt : ∀ k, (g (laneIn x c f m T va vb .void) k).1 < 2 ^ T.bits) :
    CompletesFlagging (runOp op f s) s x op.opc T m va.nat fun k d => d = (g (laneIn x c f m T va vb .void) k).1 := by
  refine ⟨_, onlyFlags_orSli _ _ _, completesBy_opA hx (hT ▸ Ty.ofCode_code T) (hT ▸ hform) (fetchArg_one ha) (fetchArg_operand hb)
    (fetchArg_none hc) rfl hm rfl (hcore _ _) rfl ha.2.2 fun k hk => ?_⟩
  rw [lanesOf, Value.nat_tab, if_pos hk]
  exact Nat.mod_eq_of_lt (hlt k)

variable (hx : AtPlace s x fr c) (hTs : T ∈ tySli) (hT : f.typ.toNat = T.code) (hmd : f.md = 0) (ha : Names c f.a T va)
  (hm : Active c f.p m) (hc : f.c = 0)
include hx hTs hT hmd ha hm hc

theorem completes_sliOp1 {opc : Nat} {F : Nat → Nat → Nat × Nat} (hb : f.b = 0)
    (hlt : ∀ k, (F (sliFb T) (va.nat k)).1 < 2 ^ (sliFb T + 5)) {P : Fin 32 → Nat → Prop} (hP : ∀ k, P k (F (sliFb T) (va.nat k)).1) :
    CompletesFlagging (runOp (sliOp1 opc F) f s) s x opc T m va.nat P :=
  (completes_sli (op := sliOp1 opc F) (given2 := false) (vb := .void) (g := fun i k => F (sliFb i.ty) (i.a.nat k)) hx hT
    (formFor_some (Ty.ofCode_code T) hTs (by rw [hmd]; rfl)) ha ⟨hb, rfl⟩ hc hm (fun _ _ => rfl)
    ((tySli_bits hTs).2 ▸ hlt)).mono fun k _ hd => hd ▸ hP k

theorem completes_sliOp2 {opc : Nat} {F : Nat → Nat → Nat → Nat × Nat} (hb : Names c f.b T vb)
    (hlt : ∀ k, (F (sliFb T) (va.nat k) (vb.nat k)).1 < 2 ^ (sliFb T + 5)) {P : Fin 32 → Nat → Prop}
    (hP : ∀ k, P k (F (sliFb T) (va.nat k) (vb.nat k)).1) :
    CompletesFlagging (runOp (sliOp2 opc F) f s) s x opc T m va.nat P :=
  (completes_sli (op := sliOp2 opc F) (given2 := true) (vb := vb) (g := fun i k => F (sliFb i.ty) (i.a.nat k) (i.b.nat k)) hx hT
    (formFor_some (Ty.ofCode_code T) hTs (by rw [hmd]; rfl)) ha hb hc hm (fun _ _ => rfl)
    ((tySli_bits hTs).2 ▸ hlt)).mono fun k _ hd => hd ▸ hP k

end

section
variable {f : Fields} {s : State} {x : Site} {fr : Frame} {c : Cur} {T : Ty} {va vb : Value} {m : LaneMask} {P : Fin 32 → Nat → Prop}
  (hx : AtPlace s x fr c) (hTs : T ∈ tySli) (ha : Names c f.a T va) (hm : Active c f.p m) (hc : f.c = 0)
include hx hTs ha hm hc

theorem completes_sliCmp (hT : f.typ.toNat = T.code) (hmd : f.md.toNat ≤ 5) (hb : Names c f.b T vb)
    (hP : ∀ k, P k (if sliCond f.md.toNat (sliFb T) (va.nat k) (vb.nat k) then 1 else 0)) :
    CompletesBy (exec (.sliCmp f) s) s x 0x087 .pred m (fun _ => 0) P := by
  refine completesBy_zero (op := opSliCmp) hx (hT ▸ Ty.ofCode_code T) (hT ▸ formFor_some (Ty.ofCode_code T) hTs (decide_eq_true hmd))
    (fetchArg_one ha) (fetchArg_one hb) (fetchArg_none hc) rfl hm rfl rfl rfl fun k _ => ?_
  have hval : ∀ q : Bool, (if q then 1 else 0) % 2 ^ Ty.pred.bits = if q then 1 else 0 := by decide
  rw [predOf, Value.nat_tab, hval]
  exact hP k

theorem completes_sliLvl (hT : f.typ.toNat = Ty.n32.code) (hmd : f.md = 0) (hb : f.b = 0)
    (hlt : ∀ k, sliLvl (sliFb T) (va.nat k) < 2 ^ 32) (hP : ∀ k, P k (sliLvl (sliFb T) (va.nat k))) :
    CompletesBy (exec (.sliLvl f) s) s x 0x08C .n32 m (fun _ => 0) P := by
  refine completesBy_zero (op := opSliLvl) hx (hT ▸ Ty.ofCode_code .n32)
    (hT ▸ formFor_some (Ty.ofCode_code .n32) (List.mem_singleton_self _) (by rw [hmd]; rfl))
    (fetchArg_need ha (List.contains_iff_mem.mpr hTs)) (fetchArg_none hb) (fetchArg_none hc) rfl hm rfl rfl rfl fun k _ => ?_
  rw [lanesOf, Value.nat_tab]
  show P k (sliLvl (sliFb va.ty) (va.nat k) % 2 ^ 32)
  rw [ha.2.2, Nat.mod_eq_of_lt (hlt k)]
  exact hP k

end

/-! ## The obligation -/

/-- Settles O13: patterns are taken by their fields; ROUNDSLI keeps the sign it is given and is exact on the format's own level indexes, which
the exact cases and products at level 1 have; and the comparisons are those of the ranks. -/
theorem sliResults : Obligations.SliResults := by
  unfold Obligations.SliResults
  intro s x fr c f m T va hx hTs ha hva hm hc
  obtain ⟨hfb, hn⟩ := tySli_bits hTs
  rw [hn] at hva ⊢
  refine ⟨fun hT hmd hb => ⟨?_, ?_, ?_, ?_⟩, fun vb hT hmd hb hvb => ⟨?_, ?_, ?_, ?_, fun e he => ?_⟩, fun vb hT hmd hb hvb => ?_,
    fun hT hmd hb => ?_⟩
  · exact completes_sliOp1 hx hTs hT hmd ha hm hc hb (fun k => sliNeg_lt hfb (hva k)) fun k => sliNeg_lane hfb (hva k)
  · exact completes_sliOp1 hx hTs hT hmd ha hm hc hb (fun k => sliAbs_lt hfb (hva k)) fun k => sliAbs_lane hfb (hva k)
  · exact completes_sliOp1 hx hTs hT hmd ha hm hc hb (fun k => sliRcp_lt hfb (hva k)) fun k => sliRcp_lane hfb (hva k)
  · refine completes_sliOp1 (F := fun fb a => sliMul fb a a) hx hTs hT hmd ha hm hc hb (fun k => sliMul_lt hfb (hva k) (hva k)) fun k => ?_
    obtain ⟨hspecial, hone⟩ := sliSq_lane hfb (hva k)
    exact ⟨hspecial, hone, fun hoa hob _ _ hr h h0 => sliMul_level_one hfb (hva k) (hva k) hoa hob hr h h0⟩
  · exact completes_sliOp2 hx hTs hT hmd ha hm hc hb (fun k => sliAdd_lt hfb (hva k) (hvb k)) fun k => sliAdd_lane hfb (hva k) (hvb k)
  · exact completes_sliOp2 hx hTs hT hmd ha hm hc hb (fun k => sliSub_lt hfb (hva k) (hvb k)) fun k => sliSub_lane hfb (hva k) (hvb k)
  · refine completes_sliOp2 hx hTs hT hmd ha hm hc hb (fun k => sliMul_lt hfb (hva k) (hvb k)) fun k => ?_
    obtain ⟨hinv, hza, hzb, hord, hone, hrcp⟩ := sliMul_lane hfb (hva k) (hvb k)
    exact ⟨hinv, hza, hzb, hord, fun hoa hob _ _ hr h h0 => sliMul_level_one hfb (hva k) (hvb k) hoa hob hr h h0, hone, hrcp⟩
  · exact completes_sliOp2 hx hTs hT hmd ha hm hc hb (fun k => sliDiv_lt hfb (hva k) (hvb k)) fun k => sliDiv_lane hfb (hva k) (hvb k)
  · rcases List.mem_pair.mp he with rfl | rfl
    · exact completes_sliOp2 hx hTs hT hmd ha hm hc hb (fun k => sliMinMax_lt hfb (hva k) (hvb k) false) fun k =>
        sliMinMax_lane hfb (hva k) (hvb k) false
    · exact completes_sliOp2 hx hTs hT hmd ha hm hc hb (fun k => sliMinMax_lt hfb (hva k) (hvb k) true) fun k =>
        sliMinMax_lane hfb (hva k) (hvb k) true
  · exact completes_sliCmp hx hTs ha hm hc hT hmd hb fun k => sliCmp_lane hfb (hva k) (hvb k) hmd
  · exact completes_sliLvl hx hTs ha hm hc hT hmd hb (fun k => sliLvl_lt hfb (hva k)) fun k => sliLvl_lane hfb (hva k)

end Sys2Proof.Machine
end

section
/-!
PROOFS. Decoding and encoding agree (O57): the encodings of portable words and of native bundles read back, and a word that decodes
is the encoding of what it decodes to.
-/

namespace Sys2Proof.Laws.RoundTrip

/-- The opcode tables of the decoder and the encoder agree at every instruction: the recursor applied to the lemma of each
constructor. -/
theorem statement_all : (i : Instr) → Statement i :=
  Instr.rec
    add sub mul mulhi mulw mad div rem neg abs min max and or xor not shl shr rot popc clz ctz brev bfx bfi cmp sel ext aoff
    adiff vaddr dp4 const constw param id fadd fsub fmul fma fdiv fsqrt frsq frcp fmin fmax fneg fabs fcmp fclass fexp2 flog2
    fexp flog fsin fcos ftanh fsigm fgelu fsilu ffloor fceil fround ftrunc fcopys fscale fdot2 flerp fstat fclr sliAdd sliSub
    sliMul sliDiv sliNeg sliAbs sliRcp sliCmp sliMin sliMax sliStat sliClr sliLvl sliSq cvt bitc qz dq pkn upkn xscl hadm shfl
    vote scan red gtrans bcast lsel br brc call ret exit yield trap trapinfo tret ldG stG ldVa stVa ldFrag stTile pfG atomAdd
    atomMin atomMax atomAnd atomOr atomXor atomXchg atomCas atomFadd barB barG barGLv wait xfence cdrain gred cpyBlk cpyGrp cpyW
    kvcommit cpyFill mma mmaL2 tzero textr tins fmtld tcvt mmaComplete rowTop rowHeart rowBase rowPace rowSync rowCfg tanc tmask
    tsel gear gearRd clk pace boostReq boostRel launch trig lwait ctxid prio fabLd fabSt fabAtom lkPark lkWake lkHeat lkStatSt
    lkStatPd lkThr trcMark trcOn trcOff dbgBrk dbgStop cntRd dbgUndo sysCap sysFloor sysRetire sysCkpt sysRsync sysMigr sysL3cls
    sysWdog sysCtxMk sysCtxRet sysCtxTile sysCtxDbg sysQ nop mov bcs spst spld jmp jc jal jr lcfg bundleIssue tokenPush openStep
    backStep loopClose stopLanded faultRingRoom regfaultRetry park swapOut faultRecordResolve blockAdmission translationComplete
    translationRefill activeSetSwap popWaitExpiry watchdog waveSlotRelease vaultRequestComplete globalAccessComplete ptsAdvance
    barBRelease groupBarrierRelease waitWake lwaitWake cdrainDone rowSyncDone xfenceDone gredRoundComplete copyCommandStart
    copyCommandComplete cpyGrpSliceLand enginePageFault kvcommitComplete rowNoteStart rowNoteDone gearChangeEdge railChangeEnd
    contextSwitchStart contextSwitchLanded contextSwitchIssue tileReassignApply migrationApply controlInterval thermalTrip
    pdStopEnd qtabWrite qenWrite ptabWrite winWrite evringWrite evtailWrite fidWrite bar0OtherWrite cxlMemRead cxlMemWrite
    tailSnoop queueServeTurn dependencyReread launchTriggered launchEnded widthChange retrainEnd laserStartDone ringLockDone
    peerReadiness thresholdWake lossOfLock flitReceive fabRead fabWrite fabAtomic readResponse writeAcknowledgement
    atomicResponse copyWrite completionWrite mctpBaseControl identity sensorReadings eventRingMirror summary clearRetirement
    flaconLoad recoveryLoad coldStart warmStart powerRemoval heaterFlashWrite unrecoverableFault debugInterfaceStop debugResume
    debugStep debugUndo tracePacketWrite traceFrameClose traceFrameWrite traceMaskApply cxlLinkRetrain

end Sys2Proof.Laws.RoundTrip

namespace Sys2Proof.Laws

/-! ## What `encode` answers -/

theorem encode_words {i : Instr} {opc : Nat} {f : Fields} (ho : i.opcode? = some opc) (hf : i.fields? = some f) :
    encode i = .words (wordOf (BitVec.ofNat 9 opc) f) (i.argWords.map encodeArg) := by
  simp only [encode, ho, hf]

/-- An instruction is encoded as the words of a portable opcode, as the bundle of a native-only one, or not at all (04 R66; 05 R92). -/
theorem encode_cases (i : Instr) :
    (∃ opc f, i.opcode? = some opc ∧ i.fields? = some f ∧
      encode i = .words (wordOf (BitVec.ofNat 9 opc) f) (i.argWords.map encodeArg)) ∨
    (∃ opc s, i.nativeOpcode? = some opc ∧ i.slot? = some s ∧ encode i = .bundle (encodeBundleOp (BitVec.ofNat 9 opc) s)) ∨
    encode i = .noWords := by
  unfold encode
  split
  · exact .inl ⟨_, _, by assumption, by assumption, rfl⟩
  · split
    · exact .inr (.inl ⟨_, _, by assumption, by assumption, rfl⟩)
    · exact .inr (.inr rfl)

/-! ## Portable words -/

theorem getLsbD_wordOf_63 (o : BitVec 9) (f : Fields) : (wordOf o f).getLsbD 63 = false := by
  simp only [wordOf, BitVec.getLsbD_append]
  rfl

theorem toNat_ofNat_opcode {opc : Nat} (h : opc < 512) : (BitVec.ofNat 9 opc).toNat = opc := Nat.mod_eq_of_lt h

/-- `decodeWord` answers an instruction exactly where no check fails and the opcode has one (04 R66, R67, R89). -/
theorem decodeWord_eq_ok {w : BitVec 64} {aw : List ArgWord} {i : Instr} :
    decodeWord w aw = .ok i ↔
      w.getLsbD 63 = false ∧ (opcOf w).toNat ≠ 0x0CF ∧ (opcOf w).toNat < 0x1C0 ∧
        (takesArgs (opcOf w).toNat = true → aw.length = (fieldsOf w).md.toNat ∧ aw.all ArgWord.wf = true) ∧
        decodeOp (opcOf w).toNat (fieldsOf w) aw = some i := by
  unfold decodeWord
  split_ifs with hmark hhead hnative hargs
  · simp [hmark]
  · simp_all
  · simp only [false_iff]
    rintro ⟨-, -, hlt, -⟩
    omega
  · simp only [false_iff]
    rintro ⟨-, -, -, hok, -⟩
    simp only [Bool.and_eq_true, Bool.not_eq_true', Bool.and_eq_false_iff, beq_eq_false_iff_ne, ne_eq] at hargs
    obtain ⟨ht, hbad⟩ := hargs
    obtain ⟨hlen, hall⟩ := hok ht
    exact hbad.elim (fun hne => hne hlen) fun hfalse => by rw [hall] at hfalse; cases hfalse
  · have hok : takesArgs (opcOf w).toNat = true → aw.length = (fieldsOf w).md.toNat ∧ aw.all ArgWord.wf = true := by
      intro ht
      simpa [ht] using hargs
    split
    · simp_all
    · simp_all

/-- The argument words of a well-formed instruction are well formed, and as many as its MOD says where its opcode takes any (04 R67, R69). -/
theorem argWords_of_wf {i : Instr} {opc : Nat} {f : Fields} (h : decodeOp opc f i.argWords = some i) (hlt : opc < 0x1C0) (hw : i.wf = true) :
    i.argWords.all ArgWord.wf = true ∧ (takesArgs opc = true → i.argWords.length = f.md.toNat) := by
  by_cases ht : takesArgs opc = true
  · have hopc : opc = 0x0C0 ∨ opc = 0x0C1 ∨ opc = 0x0C2 := by
      simp only [takesArgs, Bool.and_eq_true, decide_eq_true_eq] at ht
      omega
    have hfields : i.fieldsWf = true := by
      simp only [Instr.wf, Bool.and_eq_true] at hw
      exact hw.1.1
    generalize i.argWords = aw at h ⊢
    rcases hopc with rfl | rfl | rfl
    all_goals
      cases h
      simp only [Instr.fieldsWf, Bool.and_eq_true, beq_iff_eq] at hfields
      exact ⟨by tauto, fun _ => by tauto⟩
  · obtain ⟨-, -, ha⟩ := decodeOp_fields opc hlt f _ i h
    rw [if_neg ht] at ha
    simp [ha, ht]

/-- A well-formed portable instruction is what its encoded word and argument words decode to. -/
theorem decodeWord_encoded {i : Instr} {opc : Nat} {f : Fields} (ho : i.opcode? = some opc) (hf : i.fields? = some f) (hw : i.wf = true) :
    decodeWord (wordOf (BitVec.ofNat 9 opc) f) i.argWords = .ok i := by
  obtain ⟨hlt, hdec⟩ := (RoundTrip.statement_all i).1 opc f ho hf hw
  obtain ⟨hall, hlen⟩ := argWords_of_wf hdec hlt hw
  rw [decodeWord_eq_ok, opcOf_wordOf, fieldsOf_wordOf, toNat_ofNat_opcode (by omega)]
  refine ⟨getLsbD_wordOf_63 _ _, ?_, hlt, fun ht => ⟨hlen ht, hall⟩, hdec⟩
  rintro rfl
  cases hdec

/-! ## Native bundles -/

section
variable (h : BitVec 16) (a b : BitVec 56)

theorem extractLsb'_slotA : (h ++ a ++ b).extractLsb' 56 56 = a := by
  rw [BitVec.extractLsb'_append_eq_of_le (by decide), BitVec.extractLsb'_append_eq_of_add_le (by decide), BitVec.extractLsb'_eq_self]

theorem extractLsb'_slotB : (h ++ a ++ b).extractLsb' 0 56 = b := by
  rw [BitVec.extractLsb'_append_eq_of_add_le (by decide), BitVec.extractLsb'_eq_self]

theorem getLsbD_pair : (h ++ a ++ b).getLsbD 115 = h.getLsbD 3 := by simp only [BitVec.getLsbD_append]; rfl

end

/-- The slots of an encoded bundle: its op with its extension, or its op and a `nop` (05 R91, R93). -/
theorem slots_encodeBundleOp (o : BitVec 9) (s : Slot) :
    (bundleOf (encodeBundleOp o s)).slots =
      match s.ext with
      | some _ => [(o, s)]
      | none => [(o, s), (0x1C0#9, slotOf nopSlot none)] := by
  obtain ⟨typ, dst, sa, sb, stg, mods, ext⟩ := s
  cases ext with
  | some e =>
    simp only [bundleOf, encodeBundleOp, getLsbD_pair, extractLsb'_slotA, extractLsb'_slotB, opc_encodeSlot, slotOf_encodeSlot,
      slotExtOf_encodeExt]
    rfl
  | none =>
    simp only [bundleOf, encodeBundleOp, getLsbD_pair, extractLsb'_slotA, extractLsb'_slotB, opc_encodeSlot, slotOf_encodeSlot]
    rfl

/-- A well-formed native-only operation is what its encoded bundle decodes to. -/
theorem decodeBundleOp_encoded {i : Instr} {opc : Nat} {s : Slot} (ho : i.nativeOpcode? = some opc) (hs : i.slot? = some s) (hw : i.wf = true) :
    decodeBundleOp (encodeBundleOp (BitVec.ofNat 9 opc) s) = .ok i := by
  obtain ⟨hlt, hdec⟩ := (RoundTrip.statement_all i).2.1 opc s ho hs
  have hslot : i.slotWf = true := by
    simp only [Instr.wf, Bool.and_eq_true] at hw
    exact hw.1.2
  have hnop : (Instr.nop (slotOf nopSlot none)).slotWf = true := by decide
  unfold decodeBundleOp
  simp only [slots_encodeBundleOp]
  cases s.ext with
  | some e => simp only [toNat_ofNat_opcode hlt, hdec, hslot, if_true]
  | none =>
    simp only [toNat_ofNat_opcode hlt, hdec, hslot, hnop]
    rfl

/-! ## The obligation -/

/-- The word of a decoded instruction is its encoding, with the argument words that stood behind it (04 R66, R69). -/
theorem encode_decoded {w : BitVec 64} {as : List ArgWord} {i : Instr} (h : decodeWord w as = .ok i)
    (ha : takesArgs (opcOf w).toNat = false → as = []) : encode i = .words w (as.map encodeArg) := by
  obtain ⟨hmark, -, hlt, -, hdec⟩ := decodeWord_eq_ok.mp h
  obtain ⟨ho, hf, hargs⟩ := decodeOp_fields _ hlt _ _ _ hdec
  have has : i.argWords = as := by
    rw [hargs]
    split
    · rfl
    · exact (ha (Bool.eq_false_iff.mpr ‹_›)).symm
  rw [encode_words ho hf, BitVec.ofNat_toNat, BitVec.setWidth_eq, wordOf_fieldsOf w hmark, has]

theorem wf_argWords {i : Instr} {opc : Nat} {f : Fields} (ho : i.opcode? = some opc) (hf : i.fields? = some f) (hw : i.wf = true) :
    i.argWords.all ArgWord.wf = true := by
  obtain ⟨hlt, hdec⟩ := (RoundTrip.statement_all i).1 opc f ho hf hw
  exact (argWords_of_wf hdec hlt hw).1

/-- The bytes of an encoded instruction decode to it, whatever follows them (04 R64, R67). -/
theorem decodeBytes_encoded {i : Instr} {opc : Nat} {f : Fields} (ho : i.opcode? = some opc) (hf : i.fields? = some f) (hw : i.wf = true)
    (rest : List Byte) :
    decodeBytes ((wordOf (BitVec.ofNat 9 opc) f :: i.argWords.map encodeArg).flatMap wordBytes ++ rest) = .ok i := by
  obtain ⟨hlt, hdec⟩ := (RoundTrip.statement_all i).1 opc f ho hf hw
  obtain ⟨hall, hlen⟩ := argWords_of_wf hdec hlt hw
  have hargs := (decodeOp_fields opc hlt f _ i hdec).2.2
  unfold decodeBytes
  rw [wordsOf_wordBytes]
  simp only [List.cons_append, opcOf_wordOf, fieldsOf_wordOf, toNat_ofNat_opcode (show opc < 512 by omega)]
  split
  · rename_i ht
    rw [← hlen ht, takeArgWords_encode _ hall]
    exact decodeWord_encoded ho hf hw
  · rename_i ht
    rw [if_neg ht] at hargs
    rw [← hargs]
    exact decodeWord_encoded ho hf hw

end Sys2Proof.Laws

namespace Sys2Proof

/-- Settles O57: an instruction's encoding is its portable words, its bundle, or none, and each reads back; what a word decodes to has
the word's own opcode, fields and argument words. -/
theorem decodeEncode : Obligations.DecodeEncode := by
  unfold Obligations.DecodeEncode
  refine ⟨fun i hw hne => ?_, fun i w args rest hw he => ?_, fun w as i h ha => Laws.encode_decoded h ha⟩
  · rcases Laws.encode_cases i with ⟨opc, f, ho, hf, he⟩ | ⟨opc, s, ho, hs, he⟩ | he
    · have htake := Laws.takeArgWords_encode i.argWords (Laws.wf_argWords ho hf hw) []
      rw [List.append_nil] at htake
      rw [he]
      simp only [decode, List.length_map, htake]
      exact Laws.decodeWord_encoded ho hf hw
    · rw [he]
      exact Laws.decodeBundleOp_encoded ho hs hw
    · exact absurd he hne
  · rcases Laws.encode_cases i with ⟨opc, f, ho, hf, he'⟩ | ⟨opc, s, -, -, he'⟩ | he'
    · cases he'.symm.trans he
      exact Laws.decodeBytes_encoded ho hf hw rest
    · cases he'.symm.trans he
    · cases he'.symm.trans he

end Sys2Proof
end

section
/-!
PROOFS. Words of the encoding tables (O56), words that fit no operand form (O20), and the register operations: how each ends (O9) and
what it leaves unchanged (O59).
-/

namespace Sys2Proof.Machine

open Sys2Proof

/-- Settles O56, by running the decoder on each word. -/
theorem decodeWords : Obligations.DecodeWords := by
  unfold Obligations.DecodeWords
  exact ⟨rfl, rfl, rfl, rfl, rfl, rfl, rfl, rfl, rfl, rfl, _, rfl⟩

/-! ## Instructions by operand form -/

/-- An instruction with an operand form runs its operation: the two lists of meanings are one. -/
theorem exec_eq_runOp {e : OpRow} (he : e ∈ rowsAll) (f : Fields) (s : State) : exec (e.1 f) s = runOp e.2 f s := by
  have hlists : rowsAll.map (fun e f s => exec (e.1 f) s) = rowsAll.map fun e => runOp e.2 := rfl
  exact congrFun (congrFun (List.map_inj_left.mp hlists e he) f) s

/-- Settles O20: an operation whose fields fit no form takes trap(RESERVED) before it has any meaning. -/
theorem illegalFormsTrap : Obligations.IllegalFormsTrap := by
  unfold Obligations.IllegalFormsTrap
  intro e he f s x fr c hx hno
  rw [exec_eq_runOp he]
  exact runOp_unfit hx hno

/-! ## Operations that only define their place and set flags -/

/-- An operation always defines its place, and changes nothing else but status flags of its wave (02 R23; 03 R45). -/
def Op.SetsFlags (op : Op) : Prop := ∀ i s, ∃ t v, op.core i s = .done t v ∧ OnlyFlags s t i.x.w

theorem onlyFlags_refl (s : State) (w : WaveRef) : OnlyFlags s s w :=
  ⟨0, 0, (State.modWave_self s w fun x => by simp).symm⟩

theorem onlyFlags_trans {s t u : State} {w : WaveRef} (h : OnlyFlags s t w) (g : OnlyFlags t u w) : OnlyFlags s u w := by
  obtain ⟨n, m, rfl⟩ := h
  obtain ⟨n', m', rfl⟩ := g
  exact ⟨n ||| n', m ||| m', by simp only [State.modWave_modWave, BitVec.or_assoc]⟩

section
variable {op : Op}

theorem setsFlags_done (h : ∀ i s, ∃ v, op.core i s = .done s v) : op.SetsFlags := fun i s =>
  have ⟨v, hv⟩ := h i s
  ⟨s, v, hv, onlyFlags_refl s _⟩

theorem setsFlags_ieee (h : ∀ i s, ∃ T g, op.core i s = doneIeee T i s g) : op.SetsFlags := fun i s =>
  have ⟨_, _, hv⟩ := h i s
  ⟨_, _, hv, onlyFlags_orIeee _ _ _⟩

theorem setsFlags_sli (h : ∀ i s, ∃ T g, op.core i s = doneSli T i s g) : op.SetsFlags := fun i s =>
  have ⟨_, _, hv⟩ := h i s
  ⟨_, _, hv, onlyFlags_orSli _ _ _⟩

theorem setsFlags_both (h : ∀ i s, ∃ fl g, op.core i s = doneFlags i s fl g) : op.SetsFlags := fun i s =>
  have ⟨_, _, hv⟩ := h i s
  ⟨_, _, hv, onlyFlags_trans (onlyFlags_orIeee _ _ _) (onlyFlags_orSli _ _ _)⟩

end

theorem opLsel_setsFlags : opLsel.SetsFlags := setsFlags_done fun i s => by
  simp only [opLsel]
  cases (if i.md == 1 then i.mask.highest else i.mask.lowest) with
  | none => exact ⟨_, rfl⟩
  | some k => exact ⟨_, rfl⟩

theorem opTmask_setsFlags : opTmask.SetsFlags := setsFlags_done fun i s => by
  simp only [opTmask, coreTmask]
  cases i.mask.lowest with
  | none => exact ⟨_, rfl⟩
  | some k => exact ⟨_, rfl⟩

theorem rowsInteger_setsFlags : ∀ e ∈ rowsInteger, e.2.SetsFlags := by
  intro e he
  fin_cases he <;> exact setsFlags_done fun _ _ => ⟨_, rfl⟩

/-- `fclass` reads a pattern and sets no flag; every other float operation reads values. -/
theorem rowsFloat_setsFlags : ∀ e ∈ rowsFloat, e.2.SetsFlags := by
  intro e he
  fin_cases he
  pick_goal 14
  · exact setsFlags_done fun _ _ => ⟨_, rfl⟩
  all_goals exact setsFlags_ieee fun _ _ => ⟨_, _, rfl⟩

/-- `sli.cmp` and `sli.lvl` set no flag. -/
theorem rowsSli_setsFlags : ∀ e ∈ rowsSli, e.2.SetsFlags := by
  intro e he
  fin_cases he
  pick_goal 8
  · exact setsFlags_done fun _ _ => ⟨_, rfl⟩
  pick_goal 10
  · exact setsFlags_done fun _ _ => ⟨_, rfl⟩
  all_goals exact setsFlags_sli fun _ _ => ⟨_, _, rfl⟩

/-- Of the lane and tile operations `scan` and `red` compute, and the others move bits. -/
theorem rowsLane_setsFlags : ∀ e ∈ rowsLane, e.2.SetsFlags := by
  intro e he
  simp only [rowsLane, List.mem_cons, List.not_mem_nil, or_false] at he
  rcases he with rfl | rfl | rfl | rfl | rfl | rfl | rfl | rfl | rfl | rfl | rfl | rfl
  case inr.inr.inl | inr.inr.inr.inl => exact setsFlags_both fun _ _ => ⟨_, _, rfl⟩
  case inr.inr.inr.inr.inr.inr.inl => exact opLsel_setsFlags
  case inr.inr.inr.inr.inr.inr.inr.inl => exact opTmask_setsFlags
  all_goals exact setsFlags_done fun _ _ => ⟨_, rfl⟩

/-- The operations that read and write registers alone. -/
theorem register_setsFlags {e : OpRow} (he : e ∈ rowsInteger ++ rowsFloat ++ rowsSli ++ rowsLane) : e.2.SetsFlags := by
  simp only [List.mem_append] at he
  rcases he with ((he | he) | he) | he
  · exact rowsInteger_setsFlags e he
  · exact rowsFloat_setsFlags e he
  · exact rowsSli_setsFlags e he
  · exact rowsLane_setsFlags e he

theorem register_mem_rowsAll {e : OpRow} (he : e ∈ rowsInteger ++ rowsFloat ++ rowsSli ++ rowsLane) : e ∈ rowsAll :=
  List.mem_append_left _ (List.mem_append_left _ (List.mem_append_left _ he))

theorem register_completesAs {e : OpRow} (he : e ∈ rowsInteger ++ rowsFloat ++ rowsSli ++ rowsLane) {f : Fields} {s : State} {x : Site}
    {fr : Frame} {c : Cur} {fm : Form} {i : OpIn} (hx : AtPlace s x fr c) (hf : Fits e.2 f x c fm i) : CompletesAs e f s x fm i := by
  obtain ⟨t, v, hcore, hflags⟩ := register_setsFlags he i s
  rw [hf.x_eq] at hflags
  exact ⟨t, v, hcore, hflags, by rw [exec_eq_runOp (register_mem_rowsAll he)]; exact runOp_done hx hf hcore⟩

/-- Settles O9: the meanings end in a value and flags, whatever the operands hold. -/
theorem registerOpsComplete : Obligations.RegisterOpsComplete := by
  unfold Obligations.RegisterOpsComplete
  exact fun e he f s x fr c fm i hx hf => register_completesAs he hx hf

/-! ## The frame of a register operation -/

section
variable {s : State} {w : WaveRef} {x : Site}

theorem State.debugFrame_setWave (s : State) (w : WaveRef) (y : Wave) (fr : Frame) : (s.setWave w y).debugFrame fr = s.debugFrame fr := by
  simp [State.debugFrame, State.code?]

theorem State.site?_of_wave {y : Wave} (h : s.wave? w = some y) : ∃ z, s.site? w = some z ∧ z.wave = y := by
  obtain ⟨b, hb, hw⟩ := State.block_of_wave h
  obtain ⟨l, hl, hg⟩ := State.launch_of_block hb
  refine ⟨⟨w, l, b, y⟩, ?_, rfl⟩
  simp only [WaveRef.block] at hl hg
  simp only [State.site?, hl, hg, hw]

/-- Completing a place of a wave whose flags alone have changed writes that wave once. -/
theorem completePlace_flags {t : State} {fr : Frame} {rest : List Frame} {c : Cur} (opc : Nat) (v : Value) (hx : AtPlace s x fr c)
    (hn : x.wave.native = none) (hstep : x.wave.stepLeft = none) (hd : s.debugFrame fr = false) (hfr : x.wave.frames = fr :: rest)
    (ht : OnlyFlags s t x.w) :
    ∃ n m, t.completePlace x.w opc v [] = s.setWave x.w { x.wave with
      frames := { fr with cur := some { c with vals := v :: c.vals, vidx := c.vals.length + 1 } } :: rest
      mode := .run, ieee := x.wave.ieee ||| n, sli := x.wave.sli ||| m } := by
  obtain ⟨n, m, rfl⟩ := ht
  obtain ⟨-, hsite, htop⟩ := hx
  obtain ⟨-, -, -, hw⟩ := State.site_spec hsite
  have hcur : fr.cur = some c := by
    simp only [Wave.top?, hfr] at htop
    split at htop <;> simp_all
  refine ⟨n, m, ?_⟩
  rw [State.modWave_eq hw]
  obtain ⟨z, hz, hzw⟩ := State.site?_of_wave (State.wave?_setWave hw { x.wave with ieee := x.wave.ieee ||| n, sli := x.wave.sli ||| m })
  rw [State.completePlace_eq opc v [] hz (by rw [hzw]; exact hn) (by rw [hzw]; exact htop) (by rw [State.debugFrame_setWave]; exact hd),
    State.setWave_setWave, hzw]
  simp only [Wave.define, hfr, hcur, Wave.countStep, hstep]
  rfl

end

/-- Flags that are set stand among those that result. -/
theorem and_or_self_flags (a b : BitVec 5) : a &&& (a ||| b) = a := by
  ext k hk
  rw [BitVec.getElem_and, BitVec.getElem_or]
  cases a[k] <;> rfl

/-- Settles O59: a register operation writes its own wave, with one more value at its place and perhaps more flags. -/
theorem registerOpsFrame : Obligations.RegisterOpsFrame := by
  unfold Obligations.RegisterOpsFrame
  intro e he f s t x fr rest c fm i hx hn hstep hd hfr hf hexec
  obtain ⟨u, v, -, hflags, hdone⟩ := register_completesAs he hx hf
  cases hdone.symm.trans hexec
  obtain ⟨n, m, heq⟩ := completePlace_flags e.2.opc (placeValue fm i v) hx hn hstep hd hfr hflags
  obtain ⟨-, -, -, hw⟩ := State.site_spec hx.2.1
  rw [heq]
  refine ⟨_, placeValue fm i v, rfl, State.wave?_setWave hw _, fun w hne => State.wave?_setWave_other _ _ hne, fun a => by simp,
    by simp, by simp, by simp, by simp, rfl, and_or_self_flags _ _, and_or_self_flags _ _, rfl⟩

end Sys2Proof.Machine
end

section
/-!
PROOFS. What one step does (O58): the issue of a placed word, the waits of a wave that may issue none, and the head of the agenda.
-/

namespace Sys2Proof.Machine

open Sys2Proof

/-! ## A state that has picked a wave -/

theorem State.touch_launches (s : State) (t : Translation) : (s.touch t).launches = s.launches := rfl

theorem State.touchWave_cases (s : State) (x : Site) : s.touchWave x = s ∨ ∃ t, s.touchWave x = s.touch t := by
  unfold State.touchWave
  split
  · split
    · exact .inr ⟨_, rfl⟩
    · exact .inl rfl
  · exact .inl rfl

theorem State.site?_congr {s u : State} (h : u.launches = s.launches) (w : WaveRef) : u.site? w = s.site? w := by
  simp only [State.site?, State.launch?, h]

section
variable {s : State} {x : Site} {w : WaveRef}

/-- The issue of a word changes neither the selected wave nor its site before the word runs. -/
theorem atPlace_picked {fr : Frame} {c : Cur} {t : TileRef} {k : Nat} (hcur : s.cur = some w) (hx : s.site? w = some x)
    (ht : x.wave.top? = some (fr, c)) : AtPlace ((s.picked t w k).touchWave x) x fr c := by
  obtain ⟨rfl, -⟩ := State.site_spec hx
  rcases State.touchWave_cases (s.picked t x.w k) x with he | ⟨u, he⟩
  · rw [he]
    exact ⟨by simpa [State.picked] using hcur, by rw [State.site?_congr (s := s) (by simp [State.picked]), hx], ht⟩
  · rw [he]
    exact ⟨by simpa [State.picked, State.touch] using hcur,
      by rw [State.site?_congr (s := s) (by simp [State.touch_launches, State.picked]), hx], ht⟩

/-! ## The issue of a word -/

theorem runPlace_decoded {p : PlaceCode} {i : Instr} (u : State) (hovr : (p.ovr && ovrIllegal (opcOf p.word).toNat) = false)
    (hdec : decodeWord p.word p.args = .ok i) : runPlace p u = exec i u := by
  simp only [runPlace, hovr, hdec, Bool.false_eq_true, if_false]

/-- A word that is no instruction, or has an override where none may stand, is trap(RESERVED) (04 R65, R82). -/
theorem runPlace_reserved {p : PlaceCode} {u : State} {fr : Frame} {c : Cur} (hu : AtPlace u x fr c)
    (h : (p.ovr && ovrIllegal (opcOf p.word).toNat) = true ∨ ∃ e, decodeWord p.word p.args = .error e) :
    runPlace p u = .next (u.takeReserved x c p.word (wordResTy p.word)) := by
  unfold runPlace
  split
  · exact atSite_eq hu _
  · rename_i hovr
    obtain ⟨e, he⟩ := h.resolve_left hovr
    simp only [he]
    exact atSite_eq hu _

theorem issue_badEntry (hx : s.site? w = some x) (hb : s.badEntry x = true) :
    issue w s = .next (s.takeParkTrap x x.wave.mask 5 (Lanes.all 0)) := by
  simp only [issue, hx, hb, if_true]

theorem issue_place {p : PlaceCode} (hx : s.site? w = some x) (hb : s.badEntry x = false) (hp : s.nextPlace w = some p) :
    issue w s =
      if s.picks x.tile w (portableStream (opcOf p.word).toNat) then
        runPlace p ((s.picked x.tile w (portableStream (opcOf p.word).toNat)).touchWave x)
      else .next s := by
  simp only [issue, hx, hb, hp, Bool.false_eq_true, if_false]

/-! ## A step with an empty agenda -/

section
variable (ha : s.agenda = []) (hcur : s.cur = some w) (hx : s.site? w = some x)
include ha hcur hx

theorem step_issues (h : s.badEntry x = true ∨ (s.nextPlace w).isSome = true) : step s = issue w s := by
  have hor : (s.badEntry x || (s.nextPlace w).isSome) = true := by simpa using h
  simp only [step, ha, runOn, hcur, hx, hor, if_true]

theorem step_passes (hp : s.nextPlace w = none) (hb : s.badEntry x = false) (h : s.canIssue x = false ∨ s.waitsData x = false) :
    step s = .next (s.pass 1) := by
  have hand : (s.canIssue x && s.waitsData x) = false := Bool.and_eq_false_iff.mpr h
  simp [step, ha, runOn, hcur, hx, hp, hb, hand]

/-- While the word waits for the data of a read, that data returns (11 R238). -/
theorem step_data_returns {c : Cur} {p : PlaceCode} (hp : s.nextPlace w = none) (hb : s.badEntry x = false) (hi : s.canIssue x = true)
    (hw : s.wordAt w = some (c, p)) (hd : x.wave.dataWaits c p = true) :
    step s = if x.wave.uses c p x.wave.guse then execGlobalAccessComplete w s else execVaultRequestComplete w s := by
  have hwaits : s.waitsData x = true := by simp only [State.waitsData, (State.site_spec hx).1, hw, hd]
  simp [step, ha, runOn, hcur, hx, hp, hb, hi, hwaits, hw]

end

/-! ## The next word of a wave -/

theorem nextPlace_code {fr : Frame} {c : Cur} {t : Translation} {b : BlockCode} {p : PlaceCode} (hx : s.site? w = some x)
    (hn : x.wave.native = none) (hi : s.canIssue x = true) (ht : x.wave.top? = some (fr, c)) (hcode : s.code? fr = some t)
    (hb : t.blocks[c.block]? = some b) (hp : b.code[c.place - b.params.length]? = some p) :
    s.nextPlace w = if x.wave.dataWaits c p then none else some p := by
  simp [State.nextPlace, State.wordAt, State.fetch, hx, hn, hi, ht, hcode, hb, hp]

theorem nextPlace_none (hx : s.site? w = some x) (h : s.canIssue x = false ∨ x.wave.native ≠ none) : s.nextPlace w = none := by
  rcases h with hi | hn
  · simp [State.nextPlace, hx, hi]
  · obtain ⟨n, hn⟩ := Option.ne_none_iff_exists'.mp hn
    simp [State.nextPlace, State.wordAt, hx, hn]

end

theorem step_agenda {s : State} {a : Act} {r : List Act} (h : s.agenda = a :: r) : step s = perform a { s with agenda := r } := by
  simp only [step, h]

/-! ## The obligation -/

/-- Settles O58: each clause is the case of the step, of the issue or of the next word that it speaks of. -/
theorem stepRunsDecoded : Obligations.StepRunsDecoded := by
  unfold Obligations.StepRunsDecoded
  intro s
  refine ⟨fun w p x fr c ha hcur hp hx hb ht => ?_, fun w x ha hcur hx hb => ?_, fun w x ha hcur hx hp hb => ⟨fun h => ?_, fun c p hi hw hd => ?_⟩,
    fun ha hcur => ?_, fun a r ha => step_agenda ha, fun i r ha => step_agenda ha, fun w r p i x ha => ?_,
    fun w x fr c t b p hx hn hi ht hcode hb hp => ?_, fun w x hx h => nextPlace_none hx h⟩
  · have hstep : step s = _ := (step_issues ha hcur hx (.inr (by rw [hp]; rfl))).trans (issue_place hx hb hp)
    refine ⟨fun hk => ?_, fun i hk hovr hdec => ?_, fun hk h => ?_⟩
    · rw [hstep, hk]
      rfl
    · rw [hstep, hk, if_pos rfl]
      exact runPlace_decoded _ hovr hdec
    · rw [hstep, hk, if_pos rfl]
      exact runPlace_reserved (atPlace_picked hcur hx ht) h
  · rw [step_issues ha hcur hx (.inl hb), issue_badEntry hx hb]
  · exact step_passes ha hcur hx hp hb h
  · rw [step_data_returns ha hcur hx hp hb hi hw hd]
    exact ⟨fun hu => if_pos hu, fun hu => if_neg (by simp [hu])⟩
  · simp only [step, ha, runOn, hcur]
  · intro u k hp hx hb hk hovr hdec
    rw [step_agenda ha]
    show issue w u = _
    rw [issue_place hx hb hp, if_pos hk]
    exact runPlace_decoded _ hovr hdec
  · rw [nextPlace_code hx hn hi ht hcode hb hp]
    exact ⟨fun h => by simp [h], fun h => by simp [h]⟩

end Sys2Proof.Machine
end

section
/-!
PROOFS. `const`, `constw`, `param` and `id` (O8): how an instruction without operands ends at its place, the range of an immediate, and
the groups of a block.
-/

namespace Sys2Proof.Machine

open Sys2Proof

/-! ## Instructions without operands -/

/-- What the meaning of an instruction without operands is given: its path's lanes and its type. -/
def immIn (x : Site) (c : Cur) (f : Fields) (T : Ty) : OpIn :=
  { x := x, mask := c.mask, amask := c.mask, ty := T, md := f.md.toNat, a := Value.void, b := Value.void, c := Value.void, f := f }

section
variable {s : State} {x : Site} {fr : Frame} {c : Cur} {opc : Nat} {ok : Bool} {res : Ty} {f : Fields} {g : OpIn → State → OpRes}
  (hx : AtPlace s x fr c)
include hx

theorem runImm_legal (hok : ok = true) :
    runImm opc ok res f g s =
      .next (settle s x c c.mask opc (wordOf (BitVec.ofNat 9 opc) f) res (fun v => v) (g (immIn x c f res) s)) := by
  simp only [runImm, atSite_eq hx, hok, if_true, immIn]

theorem runImm_illegal (hok : ok = false) :
    runImm opc ok res f g s = .next (s.takeReserved x c (wordOf (BitVec.ofNat 9 opc) f) res) := by
  simp only [runImm, atSite_eq hx, hok, Bool.false_eq_true, if_false]

theorem runImm_trap {k : Nat} {codes : Lanes Word} (hok : ok = true) (h : g (immIn x c f res) s = .trap k codes) :
    runImm opc ok res f g s = .next (s.takeParkTrap x c.mask k codes) := by
  rw [runImm_legal hx hok, h]
  rfl

/-- A legal instruction without operands defines a value tabled lane by lane. -/
theorem completesAll_runImm {T : Ty} {v val : Fin 32 → Nat} (hok : ok = true) (hres : res = T)
    (h : g (immIn x c f T) s = .done s (Value.tab T v)) (hv : ∀ k, v k % 2 ^ T.bits = val k) :
    CompletesAll (runImm opc ok res f g s) s x opc T val := by
  subst hres
  refine ⟨Value.tab res v, ?_, rfl, fun k => (Value.nat_tab res v k).trans (hv k)⟩
  rw [runImm_legal hx hok, h]
  rfl

end

/-- The result type of an accepted type that an operation keeps. -/
theorem resSame_code {ts : List Ty} {T : Ty} (h : T ∈ ts) : resSame ts T.code = some T := by
  simp [resSame, h]

theorem tyOf_code {typ : BitVec 4} {T : Ty} (h : typ.toNat = T.code) : tyOf typ = T := by
  simp [tyOf, h]

/-! ## `const` (R78) -/

section
variable {s : State} {x : Site} {fr : Frame} {c : Cur} {f : Fields} {T : Ty}

/-- An immediate of 33 bits is legal where the type's width holds it. -/
theorem constImmOk_iff {I : Nat} (hT : T ∈ tyConst) (hI : I < 2 ^ 33) : constImmOk T.code I = true ↔ I < 2 ^ T.bits := by
  simp only [tyConst, List.mem_cons, List.not_mem_nil, or_false] at hT
  rcases hT with rfl | rfl | rfl | rfl | rfl | rfl | rfl | rfl | rfl | rfl | rfl <;> simp [constImmOk, Ty.code, Ty.bits] <;> omega

theorem exec_const (hx : AtPlace s x fr c) (hty : f.typ.toNat = T.code) (hT : T ∈ tyConst) (hmd : f.md = 0) (hp : f.p = 0)
    (hI : f.imm33.toNat < 2 ^ T.bits) {n : Nat} (hn : constBits T f.imm33.toNat % 2 ^ T.bits = n) :
    CompletesAll (exec (.const f) s) s x 0x020 T fun _ => n :=
  completesAll_runImm hx (by simp [hty, (constImmOk_iff hT f.imm33.isLt).mpr hI, hmd, hp]) (by rw [hty, resSame_code hT]; rfl) rfl
    fun _ => hn

theorem exec_const_illegal (hx : AtPlace s x fr c) (hty : f.typ.toNat = T.code) (hT : T ∈ tyConst)
    (hI : 2 ^ T.bits ≤ f.imm33.toNat) : exec (.const f) s = .next (s.takeReserved x c (wordOf 0x020#9 f) T) := by
  have hres : (resSame tyConst f.typ.toNat).getD (fallbackTy f.typ.toNat) = T := by rw [hty, resSame_code hT]; rfl
  have hok : (constImmOk f.typ.toNat f.imm33.toNat && f.md == 0 && f.p == 0) = false := by
    simp [hty, mt (constImmOk_iff hT f.imm33.isLt).mp (Nat.not_lt.mpr hI)]
  exact (runImm_illegal hx hok).trans (by rw [hres])

/-- An immediate of a narrow or unsigned type stands as it is. -/
theorem constBits_of_lt {I : Nat} (hT : T ≠ .i64) (hI : I < 2 ^ T.bits) : constBits T I % 2 ^ T.bits = I := by
  simp [constBits, hT, Nat.mod_eq_of_lt hI]

/-- An immediate of `i64` is extended from its bit 32. -/
theorem constBits_i64 (I : BitVec 33) : constBits .i64 I.toNat % 2 ^ 64 = if I.msb then 2 ^ 64 - 2 ^ 33 + I.toNat else I.toNat := by
  have hlt := I.isLt
  rw [BitVec.msb_eq_decide]
  simp only [constBits, Ty.bits, BEq.rfl, Bool.true_and, decide_eq_true_eq]
  split <;> omega

end

/-! ## `param` (R80) -/

theorem ofLe_lt (bs : List Byte) : ofLe bs < 256 ^ bs.length := by
  induction bs with
  | nil => simp [ofLe]
  | cons b r ih =>
    have hb := b.isLt
    simp only [ofLe, List.length_cons, pow_succ]
    omega

/-- The bytes that a parameter's type takes fill its width. -/
theorem ofLe_take_lt {T : Ty} (hT : T ∈ tyParam) (bs : List Byte) : ofLe (bs.take (T.bits / 8)) < 2 ^ T.bits := by
  have hbits : 256 ^ (T.bits / 8) = 2 ^ T.bits := by
    simp only [tyParam, List.mem_cons, List.not_mem_nil, or_false] at hT
    rcases hT with rfl | rfl | rfl | rfl | rfl | rfl | rfl | rfl | rfl | rfl <;> rfl
  calc ofLe (bs.take (T.bits / 8)) < 256 ^ (bs.take (T.bits / 8)).length := ofLe_lt _
    _ ≤ 256 ^ (T.bits / 8) := Nat.pow_le_pow_right (by decide) (List.length_take_le _ _)
    _ = 2 ^ T.bits := hbits

section
variable {s : State} {x : Site} {fr : Frame} {c : Cur} {f : Fields} {T : Ty} (hx : AtPlace s x fr c) (hty : f.typ.toNat = T.code)
  (hT : T ∈ tyParam) (hmd : f.md = 0) (ha : f.a = 0) (hp : f.p = 0)
include hx hty hT hmd ha hp

theorem exec_param (hal : f.off22.toNat % (T.bits / 8) = 0) (hin : f.off22.toNat + T.bits / 8 ≤ x.launch.params.length) :
    CompletesAll (exec (.param f) s) s x 0x022 T fun _ => ofLe ((x.launch.params.drop f.off22.toNat).take (T.bits / 8)) := by
  refine completesAll_runImm (v := fun _ => ofLe ((x.launch.params.drop f.off22.toNat).take (T.bits / 8))) hx
    (by simp [tyOf_code hty, hT, hmd, ha, hp]) (by rw [hty, resSame_code hT]; rfl) ?_
    fun _ => Nat.mod_eq_of_lt (ofLe_take_lt hT _)
  simp only [coreParam, immIn, hal, Nat.not_lt.mpr hin]
  rfl

theorem exec_param_trap {k : Nat} (h : coreParam f.off22.toNat (immIn x c f T) s = .trap k (Lanes.all 0)) :
    exec (.param f) s = .next (s.takeParkTrap x c.mask k (Lanes.all 0)) := by
  have hres : (resSame tyParam f.typ.toNat).getD (fallbackTy f.typ.toNat) = T := by rw [hty, resSame_code hT]; rfl
  exact runImm_trap hx (by simp [tyOf_code hty, hT, hmd, ha, hp]) (by rw [hres]; exact h)

end

/-! ## The groups of a block (09 R204) -/

/-- Of the numbers below n that keep a test, the one behind k others. -/
theorem getElem?_filter_range {n g k : Nat} {p : Nat → Bool} (hg : g < n) (hp : p g = true)
    (hk : ((List.range g).filter p).length = k) : ((List.range n).filter p)[k]? = some g := by
  obtain ⟨m, rfl⟩ : ∃ m, n = g + (m + 1) := ⟨n - g - 1, by omega⟩
  rw [List.range_add, List.filter_append, List.getElem?_append_right (Nat.le_of_eq hk), hk, Nat.sub_self, List.range_succ_eq_map]
  simp [hp]

section
variable {x : Site} {k : Nat}

/-- Is the block of a site a member of a group (09 R204)? -/
def Site.inGroup (x : Site) (g : Nat) : Bool := (x.launch.groups[g]?).any fun gr => decide (x.w.blk ∈ gr.members)

theorem groupsOf_eq (x : Site) : groupsOf x.launch x.w.blk = (List.range x.launch.groups.length).filter x.inGroup := by
  refine List.filter_congr fun g _ => ?_
  unfold Site.inGroup
  cases x.launch.groups[g]? with
  | none => rfl
  | some gr => simp

theorem kthGroup_some {g : Nat} {gr : Group} (hg : x.launch.groups[g]? = some gr) (hm : x.w.blk ∈ gr.members)
    (hk : ((List.range g).filter x.inGroup).length = k) : kthGroup x.launch x.w.blk k = some (g, gr.members) := by
  have hlt : g < x.launch.groups.length := (List.getElem?_eq_some_iff.mp hg).1
  have hin : x.inGroup g = true := by simp [Site.inGroup, hg, hm]
  simp only [kthGroup, groupsOf_eq, getElem?_filter_range hlt hin hk, hg]
  rfl

theorem kthGroup_none (h : ((List.range x.launch.groups.length).filter x.inGroup).length ≤ k) :
    kthGroup x.launch x.w.blk k = none := by
  simp only [kthGroup, groupsOf_eq, List.getElem?_eq_none h]

/-- The group identifiers of R81: the number, the rank in it and the size of a block's k-th group. -/
theorem idValue_group (hk : k < 4) (lane : Nat) :
    idValue x (5 + k) lane = ((kthGroup x.launch x.w.blk k).map Prod.fst).getD 0xFFFFFFFF ∧
    idValue x (9 + k) lane = ((kthGroup x.launch x.w.blk k).map fun e => rankIn e.2 x.w.blk).getD 0xFFFFFFFF ∧
    idValue x (13 + k) lane = ((kthGroup x.launch x.w.blk k).map fun e => e.2.length).getD 0 := by
  have hcases : k = 0 ∨ k = 1 ∨ k = 2 ∨ k = 3 := by omega
  rcases hcases with rfl | rfl | rfl | rfl <;>
    cases h : kthGroup x.launch x.w.blk _ <;> simp [idValue, h]

end

/-! ## `constw` (R79) and `id` (R81) -/

section
variable {s : State} {x : Site} {fr : Frame} {c : Cur} {f : Fields} {T : Ty} (hx : AtPlace s x fr c) (hty : f.typ.toNat = T.code)
include hx hty

theorem exec_constw (hT : T ∈ tyExt) (hsh : f.md.toNat ≤ 20) :
    CompletesAll (exec (.constw f) s) s x 0x021 T fun _ => f.imm44.toNat * 2 ^ f.md.toNat % 2 ^ T.bits := by
  change CompletesAll (execConstw f s) s x 0x021 T _
  exact completesAll_runImm (v := fun _ => f.imm44.toNat * 2 ^ f.md.toNat) hx (by simp [tyOf_code hty, hT, hsh])
    (by rw [hty, resSame_code hT]; rfl) rfl fun _ => rfl

theorem exec_constw_illegal (hT : T ∈ tyExt) (hsh : 20 < f.md.toNat) :
    exec (.constw f) s = .next (s.takeReserved x c (wordOf 0x021#9 f) T) := by
  have hres : (resSame tyExt f.typ.toNat).getD (fallbackTy f.typ.toNat) = T := by rw [hty, resSame_code hT]; rfl
  have hok : (tyExt.contains (tyOf f.typ) && decide (f.md.toNat ≤ 20)) = false := by simp [hsh]
  change execConstw f s = _
  exact (runImm_illegal hx hok).trans (by rw [hres])

omit hx in
/-- When a word of `id` is legal. -/
theorem id_legal_iff :
    (f.md.toNat ≤ 19 && f.typ == (if f.md == 4 then 5 else 3) && f.a == 0 && f.b == 0 && f.c == 0 && f.p == 0) = true ↔
      f.md.toNat ≤ 19 ∧ T = (if f.md = 4 then Ty.n64 else .n32) ∧ f.a = 0 ∧ f.b = 0 ∧ f.c = 0 ∧ f.p = 0 := by
  have h5 : f.typ = 5 ↔ T = .n64 := by rw [← BitVec.toNat_inj, hty]; cases T <;> simp [Ty.code]
  have h3 : f.typ = 3 ↔ T = .n32 := by rw [← BitVec.toNat_inj, hty]; cases T <;> simp [Ty.code]
  by_cases hmd : f.md = 4 <;>
    simp only [Bool.and_eq_true, decide_eq_true_eq, beq_iff_eq, hmd, if_true, if_false, h5, h3, and_assoc]

omit hx hty in
theorem id_res (T : Ty) : (resSame [.n32, .n64] T.code).getD (fallbackTy T.code) = if T.code ≤ 11 then T else .void := by
  cases T <;> rfl

theorem exec_id (hT : T = if f.md = 4 then Ty.n64 else .n32) (hmd : f.md.toNat ≤ 19) (h0 : f.a = 0 ∧ f.b = 0 ∧ f.c = 0 ∧ f.p = 0)
    {val : Fin 32 → Nat} (hv : ∀ k, idValue x f.md.toNat k.val % 2 ^ T.bits = val k) : CompletesAll (exec (.id f) s) s x 0x023 T val := by
  have hmem : T ∈ [Ty.n32, .n64] := by rw [hT]; split <;> decide
  exact completesAll_runImm hx ((id_legal_iff hty).mpr ⟨hmd, hT, h0⟩) (by rw [hty, resSame_code hmem]; rfl) rfl hv

theorem exec_id_n32 (hT : T = .n32) {n : Nat} (hmd : f.md.toNat = n) (hn : n ≤ 19 ∧ n ≠ 4) (h0 : f.a = 0 ∧ f.b = 0 ∧ f.c = 0 ∧ f.p = 0)
    {val : Fin 32 → Nat} (hv : ∀ k, idValue x n k.val % 2 ^ 32 = val k) : CompletesAll (exec (.id f) s) s x 0x023 T val := by
  have hne : f.md ≠ 4 := fun h => hn.2 (by rw [← hmd, h]; rfl)
  subst hT
  exact exec_id hx hty (by rw [if_neg hne]) (hmd ▸ hn.1) h0 (by rw [hmd]; exact hv)

theorem exec_id_illegal
    (h : 19 < f.md.toNat ∨ T ≠ (if f.md = 4 then Ty.n64 else .n32) ∨ f.a ≠ 0 ∨ f.b ≠ 0 ∨ f.c ≠ 0 ∨ f.p ≠ 0) :
    exec (.id f) s = .next (s.takeReserved x c (wordOf 0x023#9 f) (if T.code ≤ 11 then T else .void)) := by
  have hno : ¬(f.md.toNat ≤ 19 ∧ T = (if f.md = 4 then Ty.n64 else .n32) ∧ f.a = 0 ∧ f.b = 0 ∧ f.c = 0 ∧ f.p = 0) := by
    rintro ⟨hmd, hT, ha, hb, hc, hp⟩
    rcases h with h | h | h | h | h | h
    · omega
    · exact h hT
    · exact h ha
    · exact h hb
    · exact h hc
    · exact h hp
  have hok := Bool.eq_false_iff.mpr (mt (id_legal_iff hty).mp hno)
  exact (runImm_illegal hx hok).trans (by rw [hty, id_res])

/-- The group identifiers of a block that has a k-th group, and of one that has none. -/
theorem exec_id_group (hT : T = .n32) (h0 : f.a = 0 ∧ f.b = 0 ∧ f.c = 0 ∧ f.p = 0) {k : Nat} (hk : k < 4) :
    (∀ g gr, x.launch.groups[g]? = some gr → x.w.blk ∈ gr.members → ((List.range g).filter x.inGroup).length = k →
      (f.md.toNat = 5 + k → CompletesAll (exec (.id f) s) s x 0x023 T fun _ => g % 2 ^ 32) ∧
      (f.md.toNat = 9 + k →
        CompletesAll (exec (.id f) s) s x 0x023 T fun _ => (gr.members.filter fun m => m < x.w.blk).length % 2 ^ 32) ∧
      (f.md.toNat = 13 + k → CompletesAll (exec (.id f) s) s x 0x023 T fun _ => gr.members.length % 2 ^ 32)) ∧
    (((List.range x.launch.groups.length).filter x.inGroup).length ≤ k →
      (f.md.toNat = 5 + k ∨ f.md.toNat = 9 + k → CompletesAll (exec (.id f) s) s x 0x023 T fun _ => 2 ^ 32 - 1) ∧
      (f.md.toNat = 13 + k → CompletesAll (exec (.id f) s) s x 0x023 T fun _ => 0)) := by
  refine ⟨fun g gr hg hm hr => ?_, fun hno => ?_⟩
  · have hkth := kthGroup_some hg hm hr
    refine ⟨fun hmd => ?_, fun hmd => ?_, fun hmd => ?_⟩ <;> refine exec_id_n32 hx hty hT hmd (by omega) h0 fun j => ?_
    · rw [(idValue_group hk j.val).1, hkth]
      rfl
    · rw [(idValue_group hk j.val).2.1, hkth]
      rfl
    · rw [(idValue_group hk j.val).2.2, hkth]
      rfl
  · have hkth := kthGroup_none hno
    refine ⟨fun hmd => ?_, fun hmd => ?_⟩
    · rcases hmd with hmd | hmd <;> refine exec_id_n32 hx hty hT hmd (by omega) h0 fun j => ?_
      · rw [(idValue_group hk j.val).1, hkth]
        rfl
      · rw [(idValue_group hk j.val).2.1, hkth]
        rfl
    · refine exec_id_n32 hx hty hT hmd (by omega) h0 fun j => ?_
      rw [(idValue_group hk j.val).2.2, hkth]
      rfl

end

/-! ## The obligation -/

section
variable {s : State} {x : Site} {fr : Frame} {c : Cur} {f : Fields} {T : Ty}

/-- The clauses of R78, by the width of the type. -/
theorem const_clauses (hx : AtPlace s x fr c) (hty : f.typ.toNat = T.code) (hT : T ∈ tyConst) (hmd : f.md = 0) (hp : f.p = 0) :
    let I := f.imm33.toNat
    (T ∈ [Ty.pred] → I < 2 → CompletesAll (exec (.const f) s) s x 0x020 T fun _ => I) ∧
    (T ∈ [Ty.i32, .n32, .f32, .sli32] → I < 2 ^ 32 → CompletesAll (exec (.const f) s) s x 0x020 T fun _ => I) ∧
    (T ∈ [Ty.f16, .bf16, .sli16] → I < 2 ^ 16 → CompletesAll (exec (.const f) s) s x 0x020 T fun _ => I) ∧
    (T ∈ [Ty.n64, .addr] → CompletesAll (exec (.const f) s) s x 0x020 T fun _ => I) ∧
    (T = .i64 → CompletesAll (exec (.const f) s) s x 0x020 T fun _ => if f.imm33.msb then 2 ^ 64 - 2 ^ 33 + I else I) ∧
    (T = .pred ∧ 2 ≤ I ∨ T ∈ [Ty.i32, .n32, .f32, .sli32] ∧ 2 ^ 32 ≤ I ∨ T ∈ [Ty.f16, .bf16, .sli16] ∧ 2 ^ 16 ≤ I →
      exec (.const f) s = .next (s.takeReserved x c (wordOf 0x020#9 f) T)) := by
  intro I
  have hI : I < 2 ^ 33 := f.imm33.isLt
  have h1 : ∀ T ∈ [Ty.pred], T ≠ .i64 ∧ T.bits = 1 := by decide
  have h32 : ∀ T ∈ [Ty.i32, .n32, .f32, .sli32], T ≠ .i64 ∧ T.bits = 32 := by decide
  have h16 : ∀ T ∈ [Ty.f16, .bf16, .sli16], T ≠ .i64 ∧ T.bits = 16 := by decide
  have h64 : ∀ T ∈ [Ty.n64, .addr], T ≠ .i64 ∧ T.bits = 64 := by decide
  have hfits {w : Nat} (h : T ≠ .i64 ∧ T.bits = w) (hlt : I < 2 ^ w) : CompletesAll (exec (.const f) s) s x 0x020 T fun _ => I := by
    have hlt' : I < 2 ^ T.bits := by rw [h.2]; exact hlt
    exact exec_const hx hty hT hmd hp hlt' (constBits_of_lt h.1 hlt')
  have hexceeds {w : Nat} (h : T ≠ .i64 ∧ T.bits = w) (hge : 2 ^ w ≤ I) :
      exec (.const f) s = .next (s.takeReserved x c (wordOf 0x020#9 f) T) := exec_const_illegal hx hty hT (by rw [h.2]; exact hge)
  refine ⟨fun hm => hfits (h1 T hm), fun hm => hfits (h32 T hm), fun hm => hfits (h16 T hm), fun hm => hfits (h64 T hm) (by omega), ?_, ?_⟩
  · rintro rfl
    have hlt : I < 2 ^ Ty.bits .i64 := by
      simp only [Ty.bits]
      omega
    exact exec_const hx hty hT hmd hp hlt (constBits_i64 f.imm33)
  · rintro (⟨rfl, hge⟩ | ⟨hm, hge⟩ | ⟨hm, hge⟩)
    · exact hexceeds (w := 1) ⟨by decide, rfl⟩ hge
    · exact hexceeds (h32 T hm) hge
    · exact hexceeds (h16 T hm) hge

/-- The clauses of R80. -/
theorem param_clauses (hx : AtPlace s x fr c) (hty : f.typ.toNat = T.code) (hT : T ∈ tyParam) (hmd : f.md = 0) (ha : f.a = 0)
    (hp : f.p = 0) :
    let off := f.off22.toNat
    let n := T.bits / 8
    (off % n = 0 → off + n ≤ x.launch.params.length →
      CompletesAll (exec (.param f) s) s x 0x022 T fun _ => ofLe ((x.launch.params.drop off).take n)) ∧
    (off % n ≠ 0 → exec (.param f) s = .next (s.takeParkTrap x c.mask 3 (Lanes.all 0))) ∧
    (off % n = 0 → x.launch.params.length < off + n → exec (.param f) s = .next (s.takeParkTrap x c.mask 4 (Lanes.all 0))) := by
  refine ⟨exec_param hx hty hT hmd ha hp, fun hal => ?_, fun hal hout => ?_⟩ <;> refine exec_param_trap hx hty hT hmd ha hp ?_
  · simp [coreParam, immIn, hal, trapAlign]
  · simp [coreParam, immIn, hal, hout, trapBounds]

end

/-- Settles O8: each instruction is legal where its immediate, type and absent fields are, and then tables its value. -/
theorem constantsAndIdentifiers : Obligations.ConstantsAndIdentifiers := by
  unfold Obligations.ConstantsAndIdentifiers
  intro s x fr c f T hx hty
  refine ⟨fun hT hmd hp => const_clauses hx hty hT hmd hp, fun hT => ⟨exec_constw hx hty hT, exec_constw_illegal hx hty hT⟩,
    fun hT hmd ha hp => param_clauses hx hty hT hmd ha hp, fun ha hb hc hp => ?_, exec_id_illegal hx hty⟩
  have h0 : f.a = 0 ∧ f.b = 0 ∧ f.c = 0 ∧ f.p = 0 := ⟨ha, hb, hc, hp⟩
  refine ⟨fun hmd hT => ?_, fun hT => ⟨fun hmd => ?_, fun hmd => ?_, fun hmd => ?_, fun hmd => ?_, fun hmd => ?_, fun hmd => ?_, fun hmd => ?_,
    fun k hk => exec_id_group hx hty hT h0 hk⟩⟩
  · subst hT
    exact exec_id hx hty (by rw [if_pos hmd]) (by rw [hmd]; decide) h0 fun _ => by rw [hmd]; rfl
  · exact exec_id_n32 hx hty hT (n := 0) (by rw [hmd]; rfl) (by decide) h0 fun k => Nat.mod_eq_of_lt (by simp only [idValue]; omega)
  all_goals exact exec_id_n32 hx hty hT (by rw [hmd]) (by decide) h0 fun _ => rfl

end Sys2Proof.Machine
end

section
/-!
PROOFS. The system instructions (O46). The statement takes the summary's write by `sys.rsync` after the access that checks its operand, which
counts an outstanding global read (09 R209); the meaning checks the write from the state before that access. One concrete wave shows the
difference: the statement leaves it with a read outstanding, and the instruction with none.
-/

namespace Sys2Proof.Machine

open Sys2Proof

/-! ## The length of a summary (22 R439) -/

theorem leBytes_length (n x : Nat) : (leBytes n x).length = n := by
  induction n generalizing x with
  | zero => rfl
  | succ n ih => rw [leBytes, List.length_cons, ih]

theorem summaryRecord_length (kind : Nat) (xs : List Nat) : (summaryRecord kind xs).length = 64 := by
  simp only [summaryRecord, List.length_append, leBytes_length, List.length_take, List.length_replicate]
  omega

/-- The records of a summary, in kind order. -/
def State.summaryRecords (s : State) : List (List Byte) :=
  s.summaryCtx ++ s.summaryQueues ++ s.summaryLaunches ++ s.summaryBlocks ++ s.summaryUnits ++ s.summaryDies ++ s.summaryLinks

theorem summaryRecords_length_mem (s : State) : ∀ r ∈ s.summaryRecords, r.length = 64 := by
  intro r hr
  simp only [State.summaryRecords, State.summaryCtx, State.summaryQueues, State.summaryLaunches, State.summaryBlocks, State.summaryUnits,
    State.summaryDies, State.summaryLinks, List.mem_append, List.mem_map, List.mem_flatMap] at hr
  rcases hr with (((((⟨_, _, rfl⟩ | ⟨_, _, rfl⟩) | ⟨_, _, rfl⟩) | ⟨_, _, _, _, rfl⟩) | (⟨_, _, rfl⟩ | ⟨_, _, rfl⟩)) | ⟨_, _, rfl⟩) | ⟨_, _, rfl⟩ <;>
    exact summaryRecord_length _ _

/-- A summary is its header and its records, of 64 bytes each. -/
theorem summaryBytes_length (s : State) : s.summaryBytes.length = 64 * (s.summaryRecords.length + 1) := by
  have hsum : (s.summaryRecords.map List.length).sum = s.summaryRecords.length * 64 :=
    List.sum_eq_card_nsmul _ 64 (by simpa using summaryRecords_length_mem s) |>.trans (by simp)
  calc s.summaryBytes.length = 64 + (s.summaryRecords.map List.length).sum := by
        simp only [State.summaryBytes, List.length_append, leBytes_length, List.length_flatten]; rfl
    _ = 64 * (s.summaryRecords.length + 1) := by rw [hsum]; omega

/-! ## Reads outstanding -/

/-- A portable wave has n global reads outstanding. -/
def State.HasReads (s : State) (w : WaveRef) (n : Nat) : Prop := ∃ y, s.wave? w = some y ∧ y.native = none ∧ y.gcnt = n

theorem State.HasReads.unique {s : State} {w : WaveRef} {m n : Nat} (hm : s.HasReads w m) (hn : s.HasReads w n) : m = n := by
  obtain ⟨y, hy, -, rfl⟩ := hm
  obtain ⟨z, hz, -, rfl⟩ := hn
  rw [Option.some.inj (hy.symm.trans hz)]

theorem logPlace_reads (x : Wave) (opc : Nat) (v : Value) (recs : List MemRec) :
    (logPlace x opc v recs).native = x.native ∧ (logPlace x opc v recs).gcnt = x.gcnt := by
  unfold logPlace
  split
  · exact ⟨rfl, rfl⟩
  · split
    · exact ⟨rfl, rfl⟩
    · dsimp only
      split <;> exact ⟨rfl, rfl⟩

theorem Wave.define_reads (x : Wave) (v : Value) : (x.define v).native = x.native ∧ (x.define v).gcnt = x.gcnt := by
  unfold Wave.define
  split
  · exact ⟨rfl, rfl⟩
  · split <;> exact ⟨rfl, rfl⟩

theorem Wave.countStep_reads (x : Wave) (now : Nat) : (x.countStep now).native = x.native ∧ (x.countStep now).gcnt = x.gcnt := by
  unfold Wave.countStep
  split
  · split <;> exact ⟨rfl, rfl⟩
  · exact ⟨rfl, rfl⟩

section
variable {s : State} {w : WaveRef} {n : Nat} (h : s.HasReads w n)
include h

theorem State.HasReads.congr {t : State} (hl : t.launches = s.launches) : t.HasReads w n := by
  obtain ⟨y, hy, hn, hg⟩ := h
  exact ⟨y, (State.wave?_congr hl w).trans hy, hn, hg⟩

theorem State.HasReads.modWave {f : Wave → Wave} (hf : ∀ y, (f y).native = y.native ∧ (f y).gcnt = y.gcnt) : (s.modWave w f).HasReads w n := by
  obtain ⟨y, hy, hn, hg⟩ := h
  rw [State.modWave_eq hy]
  exact ⟨f y, State.wave?_setWave hy _, (hf y).1.trans hn, (hf y).2.trans hg⟩

/-- Completing a place leaves a wave's outstanding reads alone. -/
theorem State.HasReads.completePlace (opc : Nat) (v : Value) (recs : List MemRec) : (s.completePlace w opc v recs).HasReads w n := by
  obtain ⟨y, hy, hn, hg⟩ := h
  obtain ⟨z, hz, rfl⟩ := State.site?_of_wave hy
  have hset (x : Wave) (hx : x.native = z.wave.native ∧ x.gcnt = z.wave.gcnt) :
      (s.setWave w (({ x.define v with mode := .run } : Wave).countStep s.tick)).HasReads w n := by
    obtain ⟨hcn, hcg⟩ := Wave.countStep_reads ({ x.define v with mode := .run } : Wave) s.tick
    obtain ⟨hdn, hdg⟩ := Wave.define_reads x v
    exact ⟨_, State.wave?_setWave hy _, hcn.trans (hdn.trans (hx.1.trans hn)), hcg.trans (hdg.trans (hx.2.trans hg))⟩
  simp only [State.completePlace, hz, hn]
  cases z.wave.top? with
  | none => exact ⟨_, hy, hn, hg⟩
  | some e =>
    dsimp only
    split
    · exact hset _ (logPlace_reads _ _ _ _)
    · exact hset _ ⟨rfl, rfl⟩

end

theorem State.writeSpans_launches (s : State) (ks : List (Nat × Nat)) (bs : List Byte) : (s.writeSpans ks bs).launches = s.launches := by
  induction ks generalizing s bs with
  | nil => rfl
  | cons e r ih => rw [State.writeSpans, ih]; rfl

theorem State.noteSpans_launches (s : State) (by_ : Writer) (ks : List (Nat × Nat)) : (s.noteSpans by_ ks).launches = s.launches := by
  induction ks generalizing s with
  | nil => rfl
  | cons e r ih => exact (ih _).trans rfl

theorem State.putSpans_launches (s : State) (by_ : Writer) (ks : List (Nat × Nat)) (bs : List Byte) :
    (s.putSpans by_ ks bs).launches = s.launches := by
  rw [State.putSpans, State.noteSpans_launches, State.writeSpans_launches]

/-- What `sys.rsync` and a completed place make of a state after the summary's access leaves the wave's outstanding reads alone. -/
theorem State.HasReads.rsyncEnd {s : State} {w : WaveRef} {n : Nat} (h : s.HasReads w n) (by_ : Writer) (ks : List (Nat × Nat))
    (bs : List Byte) (opc : Nat) (v : Value) :
    (((s.putSpans by_ ks bs).modWave w fun y => { y with sysReq := none }).completePlace w opc v []).HasReads w n := by
  have hput : (s.putSpans by_ ks bs).HasReads w n := h.congr (State.putSpans_launches s by_ ks bs)
  have hdone := hput.modWave (f := fun y => { y with sysReq := none }) fun y => ⟨rfl, rfl⟩
  exact hdone.completePlace opc v []

/-! ## A wave at `sys.rsync` -/

namespace RsyncCase

/-- The operands: a buffer of 4,096 bytes at address 0x1000. -/
def path : Cur := { block := 0, mask := BitVec.allOnes 32, vidx := 2, vals := [splat .addr 0x1000, splat .n32 0x1000] }

def frame : Frame :=
  { kind := .base, func := 0, tid := 0, pending := [], cur := some path, retMask := 0, ret := Lanes.all 0, retTy := .void, trap := none, kept := [] }

def wave : Wave := { placedWave with frames := [frame] }

/-- The site: wave 0 of the block of a launch of system privilege. -/
def site : Site :=
  { w := { lid := 0, blk := 0, wav := 0 }, launch := placedLaunch (placedBlock wave), block := placedBlock wave, wave := wave }

/-- The state: that wave issues, and the ports of its tile's load and store sequencers have the first 2^30 addresses of context 0 cached. -/
def state : State :=
  { State.reset with
    cur := some site.w, launches := [(0, site.launch)], nextLid := 1
    tlb := [16, 32].map fun u => { ctx := 0, unit := u, page := 0, size := 7, pa := 0, r := true, w := true } }

/-- `sys.rsync` of the last two values. -/
def fields : Fields := { typ := 3, md := 0, a := 1, b := 2, c := 0, p := 0 }

def form : Form := { a := .need [.addr], b := .need [.n32], c := .absent, pred := false, res := .n32, pass := .everyPath }

/-- The first access of the instruction, which checks its operand. -/
def check : Except OpRes (State × List (List Byte)) := state.readAcc site [.glob] 16 [(0x1000, 16)]

/-- The access for a summary of 57 records and its header. -/
def write (s : State) : Except OpRes (State × List (List (Nat × Nat))) := s.access site [.glob] 16 false true [(0x1000, 3712)]

/-- Has the wave n reads outstanding? -/
def hasReads (s : State) (n : Nat) : Bool := (s.wave? site.w).any fun y => y.native.isNone && y.gcnt == n

theorem hasReads_sound {s : State} {n : Nat} (h : hasReads s n = true) : s.HasReads site.w n := by
  obtain ⟨y, hy, hyn⟩ := Option.any_eq_true _ _ |>.mp h
  simp only [Bool.and_eq_true, Option.isNone_iff_eq_none, beq_iff_eq] at hyn
  exact ⟨y, hy, hyn.1, hyn.2⟩

theorem atPlace : AtPlace state site frame path := ⟨rfl, rfl, rfl⟩

theorem write_after_check_hasRead : ∃ s1 b s2 sp, check = .ok (s1, b) ∧ s1.summaryBytes.length = 3712 ∧ write s1 = .ok (s2, sp) ∧ s2.HasReads site.w 1 := by
  have hrun : (check.toOption.any fun e => e.1.summaryRecords.length == 57 && (write e.1).toOption.any fun u => hasReads u.1 1) = true := by
    decide +kernel
  cases hc : check with
  | error r => simp [hc, Except.toOption] at hrun
  | ok e =>
    cases hw : write e.1 with
    | error r => simp [hc, hw, Except.toOption] at hrun
    | ok u =>
      simp only [hc, hw, Except.toOption, Option.any_some, Bool.and_eq_true, beq_iff_eq] at hrun
      exact ⟨e.1, e.2, u.1, u.2, rfl, by rw [summaryBytes_length, hrun.1], hw, hasReads_sound hrun.2⟩

theorem write_hasNoReads : ∃ s3 sp, state.summaryBytes.length = 3712 ∧ write state = .ok (s3, sp) ∧ s3.HasReads site.w 0 := by
  have hlen : state.summaryRecords.length = 57 := by decide +kernel
  have hrun : ((write state).toOption.any fun u => hasReads u.1 0) = true := by decide +kernel
  cases hw : write state with
  | error r => simp [hw, Except.toOption] at hrun
  | ok u =>
    simp only [hw, Except.toOption, Option.any_some] at hrun
    exact ⟨u.1, u.2, by rw [summaryBytes_length, hlen], rfl, hasReads_sound hrun⟩

theorem fits : ∃ i, Fits opSysRsync fields site path form i ∧ i.x = site ∧ i.uni i.a = 0x1000 ∧ i.uni i.b = 0x1000 := by
  have hrun : ((fetchOperands form fields site path .n32).any fun i => i.uni i.a == 0x1000 && i.uni i.b == 0x1000) = true := by decide +kernel
  obtain ⟨i, hi, hab⟩ := Option.any_eq_true _ _ |>.mp hrun
  simp only [Bool.and_eq_true, beq_iff_eq] at hab
  have hf : Fits opSysRsync fields site path form i := ⟨.n32, rfl, rfl, hi⟩
  exact ⟨i, hf, hf.x_eq, hab.1, hab.2⟩

/-- The instruction writes the summary and completes, with no read of its wave outstanding. -/
theorem exec_sysRsync_hasNoReads : ∃ t, exec (.sysRsync fields) state = .next t ∧ t.HasReads site.w 0 := by
  obtain ⟨i, hf, hx, ha, hb⟩ := fits
  obtain ⟨s1, b, -, -, hcheck, -, -, -⟩ := write_after_check_hasRead
  obtain ⟨s3, sp, hlen, hwrite, hreads⟩ := write_hasNoReads
  have hcore : opSysRsync.core i state = i.sysDone (s3.putSpans site.laneWriter sp.flatten state.summaryBytes) (3712 % 2 ^ 32) := by
    unfold check at hcheck
    unfold write at hwrite
    simp only [opSysRsync, sysOp, coreSysRsync, ha, hb, hlen, hx, hcheck, hwrite]
    rfl
  refine ⟨_, runOp_done atPlace hf hcore, ?_⟩
  rw [OpIn.modWave, hx]
  exact hreads.rsyncEnd _ _ _ _ _

end RsyncCase

section

open RsyncCase

/-- Refutes O46: the summary that `sys.rsync` has written leaves its wave no read outstanding, where the statement says one. -/
theorem not_systemInstructions : ¬ Obligations.SystemInstructions := by
  unfold Obligations.SystemInstructions
  intro h
  obtain ⟨i, hf, -, ha, hb⟩ := fits
  obtain ⟨s1, b, s2, sp, hcheck, hlen, hwrite, hclaim⟩ := write_after_check_hasRead
  obtain ⟨t, hexec, hreads⟩ := exec_sysRsync_hasNoReads
  obtain ⟨-, -, -, -, -, hsync, -⟩ := (h state site frame path fields form i atPlace).2 rfl
  obtain ⟨v, hv, -, -⟩ := (hsync s1 b hf (by rw [ha]; exact hcheck)).2 s2 sp (by rw [hlen, hb]; decide) (by rw [hlen, ha]; exact hwrite)
  obtain rfl := Host.Outcome.next.inj (hexec.symm.trans hv)
  exact absurd (hreads.unique (hclaim.rsyncEnd _ _ _ _ _)) (by decide)

end

end Sys2Proof.Machine
end

section
/-!
PROOFS. The events of waves (O47): which entry a partition picks, the issue of a lone wave's bundle, the pushes of tokens, the steps of the
loop engine, the exchange of blocked waves, and the watchdog.
-/

namespace Sys2Proof.Machine

open Sys2Proof

/-! ## PICK (09 R211) -/

theorem pickEntry_eq_none {k : Nat} {es : List Entry} (h : pickEntry k es = none) : es = [] := by
  cases es with
  | nil => rfl
  | cons a r =>
    cases hr : pickEntry k r with
    | none => simp [pickEntry, hr] at h
    | some b =>
      simp only [pickEntry, hr] at h
      split at h <;> simp at h

theorem pickEntry_oldest {k : Nat} {es : List Entry} {e : Entry} (h : pickEntry k es = some e) :
    e ∈ es ∧ ∀ d ∈ es, (d.ages[k]?).getD 0 ≤ (e.ages[k]?).getD 0 ∧ ((d.ages[k]?).getD 0 = (e.ages[k]?).getD 0 → e.slot ≤ d.slot) := by
  induction es generalizing e with
  | nil => simp [pickEntry] at h
  | cons a r ih =>
    rw [pickEntry] at h
    cases hr : pickEntry k r with
    | none =>
      obtain rfl : a = e := by simpa [hr] using h
      simp [pickEntry_eq_none hr]
    | some b =>
      obtain ⟨hb, hmax⟩ := ih hr
      simp only [hr] at h
      split at h
      · next hab =>
        obtain rfl := Option.some.inj h
        simp only [Bool.or_eq_true, decide_eq_true_eq, Bool.and_eq_true, beq_iff_eq] at hab
        refine ⟨List.mem_cons_self, fun d hd => ?_⟩
        rcases List.mem_cons.mp hd with rfl | hd
        · exact ⟨le_rfl, fun _ => le_rfl⟩
        · have := hmax d hd
          omega
      · next hab =>
        obtain rfl := Option.some.inj h
        simp only [Bool.or_eq_true, decide_eq_true_eq, Bool.and_eq_true, beq_iff_eq] at hab
        refine ⟨List.mem_cons_of_mem _ hb, fun d hd => ?_⟩
        rcases List.mem_cons.mp hd with rfl | hd
        · omega
        · exact hmax d hd

/-! ## The issue of a bundle (05 R102; 09 R211) -/

theorem State.leaveNative_of_noLeave {s : State} {w : WaveRef} {x : Site} {n : Native} (hx : s.site? w = some x)
    (hn : x.wave.native = some n) (hl : n.leave = none) : s.leaveNative w = s := by
  simp [State.leaveNative, hx, hn, hl, Native.badLeave]

theorem State.tile_setTile (s : State) (t : TileRef) (x : Tile) : (s.setTile t x).tile t = x := Tab.getD_put_same _ _ _ _

section
variable {s : State} {t : TileRef} {odd : Bool} {k : Nat} {e : Entry} {x : Site} {n : Native} {fr : Frame} {fs : List Frame}
  {tr : Translation} {q : Seq} {b : Bundle} {addr : Nat}

/-- A stream that can issue a bundle goes on. -/
theorem State.ready_running (hn : x.wave.native = some n) (hf : x.wave.frames = fr :: fs) (hc : s.code? fr = some tr)
    (hq : n.seqs[k]? = some q) (hr : s.ready x k = .yes b addr) : q.stopped = false := by
  by_contra hs
  simp [State.ready, hn, hf, hc, hq, Bool.eq_true_of_not_eq_false hs] at hr

theorem State.issuesIn_of_ready (hx : s.site? e.wave = some x) (hn : x.wave.native = some n) (hr : s.ready x k = .yes b addr) :
    s.issuesIn e.wave k = true := by
  simp [State.issuesIn, hx, hn, hr]

/-- A pop that has not waited, and does not wait now, is not marked. -/
theorem State.markPopWait_of_ready (hx : s.site? e.wave = some x) (hn : x.wave.native = some n) (hq : n.seqs[k]? = some q)
    (hw : q.popWait = none) (hr : s.ready x k = .yes b addr) : s.markPopWait x k = s := by
  obtain ⟨hxw, -, -, hwave⟩ := State.site_spec hx
  rw [State.markPopWait, State.modNative, hxw, State.modWave_eq hwave]
  have hstays : (s.ready x k == .popWait) = q.popWait.isSome := by rw [hr, hw]; rfl
  simp only [hn, Option.map_some, hq, hstays, beq_self_eq_true, if_true]
  rw [← hn]
  exact State.setWave_self hwave

/-- The only wave of a partition issues the bundle before which its stream stands. -/
theorem State.bundleIssue_lone (ha : ((s.tile t).part odd).active = [e]) (hp : ((s.tile t).part odd).pending = [])
    (ho : (e.wave.wav % 2 == 1) = odd) (hx : s.site? e.wave = some x) (hn : x.wave.native = some n) (hf : x.wave.frames = fr :: fs)
    (hc : s.code? fr = some tr) (hq : n.seqs[k]? = some q) (hw : q.popWait = none) (hr : s.ready x k = .yes b addr) :
    s.bundleIssue t odd k =
      (((s.setTile t ((s.tile t).setPart odd (agePart ((s.tile t).part odd) k [e] e.wave))).useLine t.cluster (tr.tid, addr / 256)).touch
        tr).issueBundle x n tr k addr b := by
  have hcand : s.candidates ((s.tile t).part odd) k = [e] := by
    simp [State.candidates, Part.all, ha, hp, State.issuesIn_of_ready hx hn hr]
  have hpick : s.picked t e.wave k = s.setTile t ((s.tile t).setPart odd (agePart ((s.tile t).part odd) k [e] e.wave)) := by
    simp only [State.picked, ho, hcand, State.modTile]
  have hcode : (s.picked t e.wave k).code? fr = some tr := by rw [hpick]; exact hc
  simp only [State.bundleIssue, hcand, ha, pickEntry, List.foldl_cons, List.foldl_nil, hx, hn, Option.isSome_some, if_true,
    State.markPopWait_of_ready hx hn hq hw hr, hf, hcode, hr]
  rw [hpick]
  rfl

theorem exec_bundleIssue_lone {st : Stream} (ha : ((s.tile t).part odd).active = [e]) (hp : ((s.tile t).part odd).pending = [])
    (ho : (e.wave.wav % 2 == 1) = odd) (hx : s.site? e.wave = some x) (hn : x.wave.native = some n) (hl : n.leave = none)
    (hf : x.wave.frames = fr :: fs) (hc : s.code? fr = some tr) (hq : n.seqs[streamNum st]? = some q) (hw : q.popWait = none)
    (hr : s.ready x (streamNum st) = .yes b addr) :
    exec (.bundleIssue t odd st) s =
      .next ((((s.setTile t ((s.tile t).setPart odd (agePart ((s.tile t).part odd) (streamNum st) [e] e.wave))).useLine t.cluster
        (tr.tid, addr / 256)).touch tr).issueBundle x n tr (streamNum st) addr b) := by
  have hstays : (s.leaveNative e.wave).endStopped e.wave = s := by
    rw [State.leaveNative_of_noLeave hx hn hl,
      State.endStopped_running (State.site_spec hx).2.2.2 hn hq (State.ready_running hn hf hc hq hr)]
  have hall : ((s.tile t).part odd).all = [e] := by simp [Part.all, ha, hp]
  calc exec (.bundleIssue t odd st) s = .next (s.bundleIssue t odd (streamNum st)) := by
        show execBundleIssue t odd st s = _
        simp only [execBundleIssue, hall, List.foldl_cons, List.foldl_nil, hstays]
    _ = _ := by rw [State.bundleIssue_lone ha hp ho hx hn hf hc hq hw hr]

theorem exec_bundleIssue_empty {st : Stream} (ha : ((s.tile t).part odd).active = []) (hp : ((s.tile t).part odd).pending = []) :
    exec (.bundleIssue t odd st) s = .next s := by
  show execBundleIssue t odd st s = _
  simp [execBundleIssue, State.bundleIssue, State.candidates, Part.all, ha, hp, pickEntry]

end

/-! ## Pushes (05 R103) -/

/-- The token queues after the pushes of a bundle of stream k. -/
def addTokens (k : Nat) (p : BitVec 3) (tok : Tab Nat) : Tab Nat :=
  (List.range 3).foldl (fun t j => if p.getLsbD j then t.put (3 * k + j) (Tab.getD t 0 (3 * k + j) + 1) else t) tok

theorem getD_addToken (t : Tab Nat) (c : Bool) (j i : Nat) :
    Tab.getD (if c then t.put j (Tab.getD t 0 j + 1) else t) 0 i = Tab.getD t 0 i + if i = j ∧ c then 1 else 0 := by
  cases c with
  | false => simp
  | true =>
    by_cases hi : i = j
    · simp [hi, Tab.getD_put_same]
    · simp [hi, Tab.getD_put_other _ _ _ _ _ hi]

theorem getD_addTokens_pushed (k : Nat) (p : BitVec 3) (tok : Tab Nat) {j : Nat} (hj : j < 3) :
    Tab.getD (addTokens k p tok) 0 (3 * k + j) = Tab.getD tok 0 (3 * k + j) + if p.getLsbD j then 1 else 0 := by
  simp only [addTokens, List.range_succ, List.range_zero, List.nil_append, List.cons_append, List.foldl_cons, List.foldl_nil]
  rw [getD_addToken, getD_addToken, getD_addToken]
  obtain rfl | rfl | rfl : j = 0 ∨ j = 1 ∨ j = 2 := by omega
  all_goals simp

theorem getD_addTokens_other (k : Nat) (p : BitVec 3) (tok : Tab Nat) {i : Nat} (hi : i < 3 * k ∨ 3 * k + 3 ≤ i) :
    Tab.getD (addTokens k p tok) 0 i = Tab.getD tok 0 i := by
  have h0 : i ≠ 3 * k := by omega
  have h1 : i ≠ 3 * k + 1 := by omega
  have h2 : i ≠ 3 * k + 2 := by omega
  simp only [addTokens, List.range_succ, List.range_zero, List.nil_append, List.cons_append, List.foldl_cons, List.foldl_nil]
  rw [getD_addToken, getD_addToken, getD_addToken]
  simp [h0, h1, h2]

theorem Native.bundleDone_iff {n : Native} {k bun : Nat} :
    n.bundleDone k bun = true ↔ ∀ d ∈ n.pendingDests, d.stream = k → d.bun ≠ bun := by
  simp [Native.bundleDone, List.all_eq_true, imp_iff_not_or]

theorem Native.bundleDone_eq_false {n : Native} {k bun : Nat} (h : ∃ d ∈ n.pendingDests, d.stream = k ∧ d.bun = bun) :
    n.bundleDone k bun = false := by
  obtain ⟨d, hd, hk, hb⟩ := h
  exact Bool.eq_false_iff.mpr fun hdone => Native.bundleDone_iff.mp hdone d hd hk hb

/-! ## The loop engine (05 R105, R106) -/

theorem Loop.all_iff (l : Loop) (m : BitVec 4) : l.all m = true ↔ m ≠ 0 ∧ m &&& l.pm = l.pm := by simp [Loop.all]

/-- A set that holds every stream of the loop is not empty. -/
theorem Loop.all_of_whole {l : Loop} {m : BitVec 4} (h : l.pm ≠ 0 ∧ m &&& l.pm = l.pm) : l.all m = true := by
  refine (Loop.all_iff l m).mpr ⟨?_, h.2⟩
  rintro rfl
  exact h.1 (by simpa using h.2.symm)

/-- The loop after an OPEN step with no halt and no event held: the trip count gives the first iteration. -/
def Loop.begun (l : Loop) : Loop :=
  Loop.note { l with
    sb := if l.lc ≠ 0 then 1 else 0, lc := if l.lc ≠ 0 then l.lc - 1 else l.lc, opened := l.opened &&& ~~~l.pm, dr := false, sm := false }

theorem Native.openStep_begun {n : Native} (hh : n.loop.halted = false) (he : n.held = none) :
    n.openStep = { n with loop := n.loop.begun } := by
  simp [Native.openStep, Loop.begun, hh, he]

/-- The loop after a BACK step that neither drains nor runs a held iteration alone: the rotation goes back by one, and the stages move
up. -/
def Loop.turned (l : Loop) : Loop :=
  Loop.note { l with
    rrb := if l.wsz = 0 then l.rrb else BitVec.ofNat 8 ((l.rrb.toNat + l.wsz.toNat - 1) % l.wsz.toNat)
    sb := ((l.sb <<< 1) ||| (if l.lc ≠ 0 then 1 else 0)) &&& BitVec.ofNat 7 (2 * 2 ^ l.ec.toNat - 1)
    lc := if l.lc ≠ 0 then l.lc - 1 else l.lc, backed := l.backed &&& ~~~l.pm }

theorem Native.backStep_turned {n : Native} (hd : n.loop.dr = false) (hs : n.loop.sm = false) (he : n.held = none) :
    n.backStep false = if n.loop.turned.sb ≠ 0 then { n with loop := n.loop.turned }.toTops else { n with loop := n.loop.turned } := by
  simp [Native.backStep, Loop.turned, Loop.note, hd, hs, he]

theorem Native.toTops_seq {n : Native} {k : Nat} {q : Seq} (hq : n.seqs[k]? = some q) :
    n.toTops.seqs[k]? = some (if n.loop.pm.getLsbD k then { q with pc := (n.loop.tops[k]?).getD q.pc } else q) := by
  have hzip : ((List.range n.seqs.length).zip n.seqs)[k]? = some (k, q) := by
    obtain ⟨hk, -⟩ := List.getElem?_eq_some_iff.mp hq
    rw [List.getElem?_zip_eq_some]
    exact ⟨List.getElem?_range hk, hq⟩
  simp only [Native.toTops, List.getElem?_map, hzip, Option.map_some]

/-- The streams of the loop stand at their tops after a BACK step, unless every stage is off. -/
theorem Native.backStep_seq {n : Native} (hd : n.loop.dr = false) (hs : n.loop.sm = false) (he : n.held = none) {k : Nat} {q : Seq}
    (hq : n.seqs[k]? = some q) :
    (n.backStep false).seqs[k]? =
      some (if n.loop.turned.sb ≠ 0 ∧ n.loop.pm.getLsbD k = true then { q with pc := (n.loop.tops[k]?).getD q.pc } else q) := by
  rw [Native.backStep_turned hd hs he]
  by_cases hz : n.loop.turned.sb ≠ 0
  · rw [if_pos hz, Native.toTops_seq (n := { n with loop := n.loop.turned }) hq]
    simp only [hz, ne_eq, not_false_eq_true, true_and]
    rfl
  · simp only [hz, if_false, false_and, hq]

/-- What a BACK step leaves alone. -/
theorem Native.backStep_frame {n : Native} (hd : n.loop.dr = false) (hs : n.loop.sm = false) (he : n.held = none) :
    (n.backStep false).loop = n.loop.turned ∧ (n.backStep false).v = n.v ∧ (n.backStep false).s = n.s ∧ (n.backStep false).k = n.k := by
  rw [Native.backStep_turned hd hs he]
  split <;> exact ⟨rfl, rfl, rfl, rfl⟩

section
variable {s : State} {w : WaveRef} {x : Wave} {n : Native} (hx : s.wave? w = some x) (hn : x.native = some n)
include hx hn

theorem exec_tokenPush_waits {st : Stream} {q : Seq} (hq : n.seqs[streamNum st]? = some q)
    (hp : ∀ p ∈ q.pushes, ∃ d ∈ n.pendingDests, d.stream = streamNum st ∧ d.bun = p.1) : exec (.tokenPush w st) s = .next s := by
  have hnone : (q.pushes.find? fun p => n.bundleDone (streamNum st) p.1) = none :=
    List.find?_eq_none.mpr fun p hm => by simp [Native.bundleDone_eq_false (hp p hm)]
  show execTokenPush w st s = _
  simp only [execTokenPush, hx, hn, hq, hnone]

/-- Of the bundles whose ops have completed the oldest pushes its tokens. -/
theorem exec_tokenPush_oldest {st : Stream} {q : Seq} {early r : List (Nat × BitVec 3)} {bun : Nat} {p : BitVec 3}
    (hq : n.seqs[streamNum st]? = some q) (hp : q.pushes = early ++ (bun, p) :: r)
    (he : ∀ b ∈ early, ∃ d ∈ n.pendingDests, d.stream = streamNum st ∧ d.bun = b.1)
    (hb : ∀ d ∈ n.pendingDests, d.stream = streamNum st → d.bun ≠ bun) :
    exec (.tokenPush w st) s = .next (s.setWave w { x with native := some { n with
      tok := addTokens (streamNum st) p n.tok, seqs := n.seqs.set (streamNum st) { q with pushes := early ++ r } } }) := by
  have hfirst : (early ++ (bun, p) :: r).find? (fun p => n.bundleDone (streamNum st) p.1) = some (bun, p) := by
    have hnone : (early.find? fun p => n.bundleDone (streamNum st) p.1) = none :=
      List.find?_eq_none.mpr fun b hm => by simp [Native.bundleDone_eq_false (he b hm)]
    rw [List.find?_append, hnone, Option.none_or, List.find?_cons_of_pos]
    exact Native.bundleDone_iff.mpr hb
  have hnew : (bun, p) ∉ early := fun hm => by
    obtain ⟨d, hd, hk, hdb⟩ := he _ hm
    exact hb d hd hk hdb
  have herase : (early ++ (bun, p) :: r).erase (bun, p) = early ++ r := by
    rw [List.erase_append_right _ hnew, List.erase_cons_head]
  show execTokenPush w st s = _
  simp only [execTokenPush, hx, hn, hq, hp, hfirst, herase]
  rfl

theorem exec_openStep (hc : n.loop.cf = true) (ha : n.loop.all n.loop.opened = true) (hh : n.loop.halted = false) (he : n.held = none) :
    exec (.openStep w) s = .next (s.setWave w { x with native := some { n with loop := n.loop.begun } }) := by
  show execOpenStep w s = _
  simp only [execOpenStep, hx, hn, hc, ha, Bool.true_or, Bool.and_self, if_true, Native.openStep_begun hh he]

theorem exec_openStep_idle (hc : n.loop.cf = false) : exec (.openStep w) s = .next s := by
  show execOpenStep w s = _
  simp [execOpenStep, hx, hn, hc]

theorem exec_backStep (ha : n.loop.all n.loop.backed = true) (hs : x.stop = .none) :
    exec (.backStep w) s = .next (s.setWave w { x with native := some (n.backStep false) }) := by
  have hstop : (x.stop == .requested) = false := by rw [hs]; rfl
  show execBackStep w s = _
  simp only [execBackStep, hx, hn, ha, if_true, hstop]

theorem exec_backStep_idle (ha : ¬(n.loop.backed ≠ 0 ∧ n.loop.backed &&& n.loop.pm = n.loop.pm)) : exec (.backStep w) s = .next s := by
  show execBackStep w s = _
  simp only [execBackStep, hx, hn, Loop.all_iff, ha, if_false]

theorem exec_loopClose (ha : n.loop.all n.loop.closed = true) :
    exec (.loopClose w) s =
      .next (s.setWave w { x with native := some { n with loop := { n.loop with cf := false, closed := 0 } } }) := by
  show execLoopClose w s = _
  simp only [execLoopClose, hx, hn, ha, if_true]

end

/-! ## Swaps (09 R209, R210, R215) -/

section
variable {s : State} {t : TileRef} {odd : Bool}

/-- Nothing of the agenda comes before a swap. -/
theorem State.deferSwap_quiet (hq : ∀ a ∈ s.agenda, s.beforeSwaps t odd a = false) (i : Instr) : s.deferSwap t odd i = none := by
  have hafter : ((s.agenda.takeWhile fun a => !a.isAdvance).reverse.takeWhile fun a => !s.beforeSwaps t odd a) =
      (s.agenda.takeWhile fun a => !a.isAdvance).reverse := by
    rw [List.takeWhile_eq_self_iff]
    intro a ha
    rw [hq a ((List.takeWhile_sublist _).subset (List.mem_reverse.mp ha))]
    rfl
  simp [State.deferSwap, hafter]

theorem Act.isAdvance_of_beforeSwaps {a : Act} (h : s.beforeSwaps t odd a = true) : a.isAdvance = false := by
  cases a with
  | advance n => simp [State.beforeSwaps] at h
  | _ => rfl

/-- The swap goes behind the last act of the cycle that comes before it. -/
theorem State.deferSwap_behind {a : Act} {now rest : List Act} (hg : s.agenda = a :: now ++ rest) (ha : s.beforeSwaps t odd a = true)
    (hnow : ∀ b ∈ now, b.isAdvance = false ∧ s.beforeSwaps t odd b = false) (hrest : ∀ b r, rest = b :: r → b.isAdvance = true) (i : Instr) :
    s.deferSwap t odd i = some { s with agenda := a :: .event i :: now ++ rest } := by
  have hcycle : ((a :: now ++ rest).takeWhile fun a => !a.isAdvance) = a :: now := by
    rw [List.takeWhile_append_of_pos]
    · cases rest with
      | nil => simp
      | cons b r => simp [hrest b r rfl]
    · intro b hb
      rcases List.mem_cons.mp hb with rfl | hb
      · simp [Act.isAdvance_of_beforeSwaps ha]
      · simp [(hnow b hb).1]
  have hafter : ((a :: now).reverse.takeWhile fun a => !s.beforeSwaps t odd a) = now.reverse := by
    rw [List.reverse_cons, List.takeWhile_append_of_pos]
    · simp [ha]
    · intro b hb
      simp [(hnow b (List.mem_reverse.mp hb)).2]
  simp only [State.deferSwap, hg, hcycle, hafter]
  simp

theorem Tile.part_setPart (x : Tile) (odd : Bool) (p : Part) : (x.setPart odd p).part odd = p := by cases odd <;> rfl

theorem State.part_wakeTile (s : State) (t : TileRef) (odd : Bool) :
    ((s.wakeTile t).tile t).part odd = s.freeEntries (s.ctlNow t) ((s.tile t).part odd) := by
  rw [State.wakeTile, State.modTile, State.tile_setTile]
  cases odd <;> rfl

theorem exec_activeSetSwap_behind {a : Act} {now rest : List Act} (hg : s.agenda = a :: now ++ rest) (ha : s.beforeSwaps t odd a = true)
    (hnow : ∀ b ∈ now, b.isAdvance = false ∧ s.beforeSwaps t odd b = false) (hrest : ∀ b r, rest = b :: r → b.isAdvance = true) :
    exec (.activeSetSwap t odd) s = .next { s with agenda := a :: .event (.activeSetSwap t odd) :: now ++ rest } := by
  show execActiveSetSwap t odd s = _
  simp only [execActiveSetSwap, State.deferSwap_behind hg ha hnow hrest]

theorem exec_activeSetSwap_halted (hq : ∀ a ∈ s.agenda, s.beforeSwaps t odd a = false) (hd : ((s.tile t).part odd).dbg ≠ none) :
    exec (.activeSetSwap t odd) s = .next s := by
  have hhalt : (((s.wakeTile t).tile t).part odd).dbg.isSome = true := by
    rw [State.part_wakeTile]
    exact Option.isSome_iff_ne_none.mpr hd
  show execActiveSetSwap t odd s = _
  simp only [execActiveSetSwap, State.deferSwap_quiet hq, hhalt, if_true]

theorem filterMap_range_eq {α : Type} (a : α) (c n : Nat) :
    ((List.range n).filterMap fun k => if c = k then some a else none) = if c < n then [a] else [] := by
  induction n with
  | zero => simp
  | succ n ih =>
    rw [List.range_succ, List.filterMap_append, ih]
    by_cases hc : c = n
    · simp [hc]
    · have hlt : c < n + 1 ↔ c < n := by omega
      simp [hc, hlt]

/-- The only active wave is exchanged when it is blocked long; then free places are filled. -/
theorem exec_activeSetSwap_lone {e : Entry} {y : Site} (hq : ∀ a ∈ s.agenda, s.beforeSwaps t odd a = false)
    (hd : ((s.tile t).part odd).dbg = none) (ha : ((s.tile t).part odd).active = [e]) (hs : e.slot < 16)
    (hy : (s.wakeTile t).site? e.wave = some y) :
    exec (.activeSetSwap t odd) s =
      .next ((if (s.wakeTile t).blockedLong y then (s.wakeTile t).swapPlace t odd e.wave false else s.wakeTile t).refill t) := by
  have hrun : (((s.wakeTile t).tile t).part odd).dbg.isSome = false := by
    rw [State.part_wakeTile]
    exact Option.isSome_eq_false_iff.mpr (Option.isNone_iff_eq_none.mpr hd)
  have hact : (((s.wakeTile t).tile t).part odd).active = [e] := by rw [State.part_wakeTile]; exact ha
  have hslots : ((List.range 16).filterMap fun k => [e].find? fun e => e.slot == k) = [e] := by
    have hslot (k : Nat) : ([e].find? fun e => e.slot == k) = if e.slot = k then some e else none := by
      by_cases hk : e.slot = k <;> simp [hk]
    simp only [hslot, filterMap_range_eq e e.slot 16, if_pos hs]
  show execActiveSetSwap t odd s = _
  simp only [execActiveSetSwap, State.deferSwap_quiet hq, hrun, hact, hslots, List.foldl_cons, List.foldl_nil, hy, Bool.false_eq_true, if_false]

/-- A pending wave that nothing blocks any more is ready from now on. -/
theorem State.freeEntries_pending {p : Part} {e : Entry} (now : Nat) (he : e ∈ p.pending) :
    ∃ r ∈ (s.freeEntries now p).pending, r.wave = e.wave ∧
      ∀ x, s.site? e.wave = some x → e.rt = none → x.block.phase = .resident → r.rt = if s.blockedLong x then none else some now := by
  refine ⟨_, List.mem_map_of_mem he, ?_, fun x hx hrt hph => ?_⟩
  · split
    · split <;> rfl
    · rfl
  · cases hb : s.blockedLong x <;> simp [hx, hrt, hph, hb]

/-- An active wave and the oldest ready pending one exchange their places. -/
theorem State.part_swapPlace {w : WaveRef} {a e : Entry} (ready : Bool)
    (ha : ((s.tile t).part odd).active.find? (fun y => y.wave == w) = some a)
    (he : s.oldestReady (s.tile t) (s.ctlNow t) ((s.tile t).part odd).pending = some e) :
    ((s.swapPlace t odd w ready).tile t).part odd = { ((s.tile t).part odd) with
      active := ((s.tile t).part odd).active.filter (fun y => y.wave != w) ++
        [{ e with from_ := s.ctlNow t + 4, rt := none, ages := [0, 0, 0, 0] }]
      pending := ((s.tile t).part odd).pending.filter (fun y => y.wave != e.wave) ++
        [{ a with from_ := s.ctlNow t, rt := if ready then some (s.ctlNow t) else none }] } := by
  have hmod (u : State) : (u.modWave w Wave.clearLatches).tile t = u.tile t := by simp [State.tile]
  simp only [State.swapPlace, ha, he, hmod, State.tile_setTile, Tile.part_setPart, Part.enter]

end

/-! ## Pops that wait (09 R209) -/

section
variable {s : State} {w : WaveRef} {st : Stream} {y : Site} {n : Native} {q : Seq}

theorem State.popExpired_eq (hn : y.wave.native = some n) {k : Nat} (hq : n.seqs[k]? = some q) :
    s.popExpired y k = q.popWait.any fun c => c + 24 ≤ s.ctlNow y.tile && s.ready y k == .popWait := by
  simp only [State.popExpired, hn, Option.bind_some, hq]
  cases q.popWait <;> rfl

theorem exec_popWaitExpiry_stays (hy : s.site? w = some y) (h : s.popExpired y (streamNum st) = false ∨ s.blockedLong y = false) :
    exec (.popWaitExpiry w st) s = .next s := by
  show execPopWaitExpiry w st s = _
  rcases h with h | h <;> simp [execPopWaitExpiry, hy, h]

theorem exec_popWaitExpiry_swaps (hy : s.site? w = some y) (he : s.popExpired y (streamNum st) = true) (hb : s.blockedLong y = true)
    (hq : ∀ a ∈ s.agenda, s.beforeSwaps y.tile (w.wav % 2 == 1) a = false) :
    exec (.popWaitExpiry w st) s = .next ((s.wakeTile y.tile).swapPlace y.tile (w.wav % 2 == 1) w false) := by
  show execPopWaitExpiry w st s = _
  simp only [execPopWaitExpiry, hy, he, hb, Bool.and_self, if_true, State.deferSwap_quiet hq]

end

/-! ## The watchdog (09 R213) -/

section
variable {s : State} {w : WaveRef} {x : Site}

theorem exec_watchdog_early (hx : s.site? w = some x) (h : x.wave.wdog < x.wave.wlim) : exec (.watchdog w) s = .next s := by
  show execWatchdog w s = _
  simp [execWatchdog, hx, Nat.not_le.mpr h]

/-- The count has reached its limit, and the wave can take the trap at its next safe point. -/
structure Site.WatchdogDue (x : Site) : Prop where
  limit : x.wave.wlim ≤ x.wave.wdog
  resident : x.block.phase = .resident
  running : x.wave.stop ≠ .landed
  owes : x.wave.owed = none
  counts : x.wave.atProgress = false

theorem exec_watchdog_due (hx : s.site? w = some x) (h : x.WatchdogDue) (hs : x.wave.native ≠ none ∨ x.wave.unfinished = false) :
    exec (.watchdog w) s =
      .next ((if x.wave.native.isSome then s.stopWith x { x.record x.wave.placePoint x.wave.mask with kind := 2, trapk := 8 } .park
        else s.takeParkTrap x x.wave.mask 8 (Lanes.all 0)).modWave w
          fun y => { y with wdog := 0, wlim := (s.wdogs[x.launch.ctx]?).getD 16777216 }) := by
  have hsafe : (x.wave.native.isSome || !x.wave.unfinished) = true := by
    rcases hs with hs | hs
    · simp [Option.isSome_iff_ne_none.mpr hs]
    · simp [hs]
  show execWatchdog w s = _
  simp only [execWatchdog, hx]
  rw [if_pos (by simp [h.limit, h.resident, h.running, h.owes, h.counts, hsafe])]

end

/-- Settles O47: each event by the lemma of its unit above. -/
theorem waveEvents : Obligations.WaveEvents := by
  unfold Obligations.WaveEvents
  refine ⟨fun k es e h => pickEntry_oldest h, ?_, fun s t odd st ha hp => exec_bundleIssue_empty ha hp, ?_, ?_, ?_⟩
  · intro s t odd st e x y n fr fs tr q b addr ha hp ho hx hn hl hf hc hq hw hr s0 hy _
    have hs0 : s0 = s := State.setWave_self (State.site_spec hx).2.2.2
    obtain rfl : x = y := Option.some.inj (hx.symm.trans (hs0 ▸ hy))
    rw [hs0]
    exact exec_bundleIssue_lone ha hp ho hx hn hl hf hc hq hw hr
  · intro s w x n hx hn set l whole
    refine ⟨fun st q hq => ⟨fun hp => exec_tokenPush_waits hx hn hq hp, fun early bun p r hp he hb =>
        ⟨_, exec_tokenPush_oldest hx hn hq hp he hb, fun j hj => getD_addTokens_pushed _ p n.tok hj,
          fun i hi => getD_addTokens_other _ p n.tok hi⟩⟩,
      fun hc ha hh he => exec_openStep hx hn hc (Loop.all_of_whole ha) hh he, fun hc => exec_openStep_idle hx hn hc,
      fun ha hd hs he hst => ?_, fun ha => exec_backStep_idle hx hn ha, fun ha => exec_loopClose hx hn (Loop.all_of_whole ha),
      fun st q y hy hq => ?_⟩
    · obtain ⟨hloop, hv, hsreg, hk⟩ := Native.backStep_frame hd hs he
      refine ⟨n.backStep false, exec_backStep hx hn (Loop.all_of_whole ha) hst, ?_, ?_, ?_, ?_, hv, hsreg, hk,
        fun k q hq => Native.backStep_seq hd hs he hq⟩
      all_goals rw [hloop]
      · rfl
      · rfl
      · show (if l.lc ≠ 0 then l.lc - 1 else l.lc) = _
        split <;> simp_all
      · rfl
    · have hyn : y.wave.native = some n := by
        rw [← hn, Option.some.inj ((State.site_spec hy).2.2.2.symm.trans hx)]
      have hexp := State.popExpired_eq (s := s) hyn hq
      refine ⟨fun hw => exec_popWaitExpiry_stays hy (.inl ?_), fun c hw hlt => exec_popWaitExpiry_stays hy (.inl ?_),
        fun hb => exec_popWaitExpiry_stays hy (.inr hb), fun c hw hle hr hb hquiet => exec_popWaitExpiry_swaps hy ?_ hb hquiet⟩
      · simp [hexp, hw]
      · simp [hexp, hw, hlt]
      · simp [hexp, hw, hle, hr]
  · intro s t odd p quiet
    refine ⟨fun a now rest hg ha hnow hrest => exec_activeSetSwap_behind hg ha hnow hrest, fun hq hd => exec_activeSetSwap_halted hq hd,
      fun e x y hq hd ha hs _ hy => ⟨fun hb => ?_, fun hb => ?_⟩, fun e he => ?_, fun w a e ready ha he => ?_⟩
    · rw [exec_activeSetSwap_lone hq hd ha hs hy, if_pos hb]
    · rw [exec_activeSetSwap_lone hq hd ha hs hy, hb]
      rfl
    · obtain ⟨r, hr, hw, hrt⟩ := State.freeEntries_pending (s := s) (s.ctlNow t) he
      exact ⟨r, by rw [State.part_wakeTile]; exact hr, hw, hrt⟩
    · rw [State.part_swapPlace ready ha he]
      exact ⟨rfl, rfl⟩
  · intro s w x hx again
    refine ⟨fun h => exec_watchdog_early hx h, fun hl hph hst ho hp => ⟨fun hn hu => ?_, fun hn => ?_⟩⟩
    · rw [exec_watchdog_due hx ⟨hl, hph, hst, ho, hp⟩ (.inr hu), hn]
      rfl
    · rw [exec_watchdog_due hx ⟨hl, hph, hst, ho, hp⟩ (.inl hn), if_pos (Option.isSome_iff_ne_none.mpr hn)]

end Sys2Proof.Machine
end

section
/-!
PROOFS. What the part's own accesses to memory leave alone (14 R311; 16 R339-R346; 17 R350, R358; 18 R369): launches, contexts, tiles,
clusters and dies.
-/

namespace Sys2Proof.Machine

open Sys2Proof

/-- The units stand as they were: launches, contexts, tiles, clusters and dies. -/
structure State.SameUnits (s t : State) : Prop where
  launches : t.launches = s.launches
  ctxs : t.ctxs = s.ctxs
  tiles : t.tiles = s.tiles
  clusters : t.clusters = s.clusters
  dies : t.dies = s.dies

namespace State.SameUnits

theorem refl (s : State) : s.SameUnits s := ⟨rfl, rfl, rfl, rfl, rfl⟩

theorem trans {s t u : State} (h : s.SameUnits t) (g : t.SameUnits u) : s.SameUnits u :=
  ⟨g.launches.trans h.launches, g.ctxs.trans h.ctxs, g.tiles.trans h.tiles, g.clusters.trans h.clusters, g.dies.trans h.dies⟩

theorem foldl {α : Type} {f : State → α → State} (hf : ∀ (s : State) (a : α), s.SameUnits (f s a)) (l : List α) (s : State) : s.SameUnits (l.foldl f s) := by
  induction l generalizing s with
  | nil => exact refl s
  | cons a r ih => exact (hf s a).trans (ih _)

/-- The registers of the event ring belong to no unit. -/
theorem withEvents {s t : State} (h : s.SameUnits t) (b : Bar0) (d m : Bool) :
    s.SameUnits { t with bar0 := b, evDropped := d, msix := m } :=
  ⟨h.launches, h.ctxs, h.tiles, h.clusters, h.dies⟩

end State.SameUnits

open State (SameUnits)

/-! ## Writes -/

theorem State.writeKey_sameUnits (s : State) (k : Nat) (bs : List Byte) : s.SameUnits (s.writeKey k bs) := ⟨rfl, rfl, rfl, rfl, rfl⟩

theorem State.writeSpans_sameUnits (s : State) (ks : List (Nat × Nat)) (bs : List Byte) : s.SameUnits (s.writeSpans ks bs) := by
  induction ks generalizing s bs with
  | nil => exact .refl s
  | cons e r ih => exact (s.writeKey_sameUnits _ _).trans (ih _ _)

theorem State.putSpans_sameUnits (s : State) (by_ : Writer) (ks : List (Nat × Nat)) (bs : List Byte) : s.SameUnits (s.putSpans by_ ks bs) := by
  refine (s.writeSpans_sameUnits ks bs).trans ?_
  unfold State.putSpans State.noteSpans
  exact SameUnits.foldl (f := fun s e => s.noteWrite by_ e.1 e.2) (fun _ _ => ⟨rfl, rfl, rfl, rfl, rfl⟩) ks _

theorem State.addPoison_sameUnits (s : State) (k n : Nat) : s.SameUnits (s.addPoison k n) := ⟨rfl, rfl, rfl, rfl, rfl⟩

theorem State.spoil_sameUnits (s : State) (ks bad : List (Nat × Nat)) : s.SameUnits (s.spoil ks bad) := by
  unfold State.spoil
  exact SameUnits.foldl (fun s e => SameUnits.foldl (fun u p => u.addPoison_sameUnits p.1 p.2) (spansSlice ks e.1 e.2) s) bad s

theorem State.event_sameUnits (s : State) (code arg data : Nat) : s.SameUnits (s.event code arg data) := by
  unfold State.event
  dsimp only
  split
  · exact ⟨rfl, rfl, rfl, rfl, rfl⟩
  · refine SameUnits.withEvents ?_ _ _ _
    split
    · exact s.putSpans_sameUnits partWriter _ _
    · exact .refl s

/-! ## Translation -/

theorem State.writeReplicas_sameUnits (s : State) (first size e : Nat) : s.SameUnits (s.writeReplicas first size e) := by
  unfold State.writeReplicas
  exact SameUnits.foldl (fun s i => s.writeKey_sameUnits (first + 8 * i) _) _ s

theorem State.poolFrame_sameUnits {s s1 : State} {ctx die size f : Nat} (h : s.poolFrame ctx die size = some (s1, f)) : s.SameUnits s1 := by
  unfold State.poolFrame at h
  split at h
  · simp at h
  · split at h
    · simp at h
    · dsimp only at h
      split at h
      · simp at h
      · split at h
        · simp at h
        · split at h
          · obtain ⟨rfl, -⟩ := Prod.mk.inj (Option.some.inj h)
            exact s.writeKey_sameUnits _ _
          · simp at h

theorem State.takeFrame_sameUnits {s s1 : State} {ctx die size f : Nat} (h : s.takeFrame ctx die size = some (s1, f)) : s.SameUnits s1 := by
  unfold State.takeFrame at h
  dsimp only at h
  split at h
  · obtain ⟨rfl, -⟩ := Prod.mk.inj (Option.some.inj h)
    exact ⟨rfl, rfl, rfl, rfl, rfl⟩
  · exact State.poolFrame_sameUnits h

theorem State.bindLeaf_sameUnits {s s1 : State} {ctx die level e : Nat} {l : Leaf} {rd wr : Bool}
    (h : s.bindLeaf ctx die level l rd wr = some (s1, e)) : s.SameUnits s1 := by
  unfold State.bindLeaf at h
  split at h
  · simp at h
  · dsimp only at h
    split at h
    · split at h
      · obtain ⟨rfl, -⟩ := Prod.mk.inj (Option.some.inj h)
        exact .refl s
      · simp at h
    · split at h
      · simp at h
      · next hf =>
        obtain ⟨rfl, -⟩ := Prod.mk.inj (Option.some.inj h)
        exact (State.takeFrame_sameUnits hf).trans (State.writeReplicas_sameUnits _ _ _ _)

theorem State.translate_sameUnits (s : State) (ctx port va : Nat) (rd wr : Bool) : s.SameUnits (s.translate ctx port va rd wr).1 := by
  unfold State.translate
  dsimp only
  split
  · split <;> exact ⟨rfl, rfl, rfl, rfl, rfl⟩
  · split
    · exact .refl s
    · split
      · exact .refl s
      · split
        · exact .refl s
        · split
          · exact .refl s
          · next s1 e hb =>
            have hs : s.SameUnits s1 := by
              split at hb
              · obtain ⟨rfl, -⟩ := Prod.mk.inj (Option.some.inj hb)
                exact .refl s
              · exact State.bindLeaf_sameUnits hb
            exact hs.trans ⟨rfl, rfl, rfl, rfl, rfl⟩

theorem State.translatePieces_sameUnits (s : State) (ctx die : Nat) (rd wr : Bool) (ps : List (Nat × Nat)) :
    s.SameUnits (s.translatePieces ctx die rd wr ps).1 := by
  induction ps generalizing s with
  | nil => exact .refl s
  | cons p r ih =>
    obtain ⟨va, n⟩ := p
    have ht := s.translate_sameUnits ctx die va rd wr
    unfold State.translatePieces
    split
    · next he => rwa [he] at ht
    · next s1 k he =>
      rw [he] at ht
      have hr := ht.trans (ih s1)
      split <;> next hp => rwa [hp] at hr

section
variable {s t : State} {ctx die va n : Nat}

theorem State.translateN_sameUnits {rd wr : Bool} {r : Except Nat (List (Nat × Nat))} (h : s.translateN ctx die va n rd wr = (t, r)) :
    s.SameUnits t := by
  unfold State.translateN at h
  split at h
  · have hp := s.translatePieces_sameUnits ctx die rd wr (pieces va n)
    rwa [h] at hp
  · exact (Prod.mk.inj h).1 ▸ .refl s

theorem State.readVa_sameUnits {r : Except Nat (List Byte)} (h : s.readVa ctx die va n = (t, r)) : s.SameUnits t := by
  unfold State.readVa at h
  split at h <;> next ht => exact (Prod.mk.inj h).1 ▸ State.translateN_sameUnits ht

theorem State.putVa_sameUnits {by_ : Writer} {bs : List Byte} {r : Except Nat Unit} (h : s.putVa by_ ctx die va bs = (t, r)) :
    s.SameUnits t := by
  unfold State.putVa at h
  split at h
  · next ht => exact (Prod.mk.inj h).1 ▸ (State.translateN_sameUnits ht).trans (State.putSpans_sameUnits _ _ _ _)
  · next ht => exact (Prod.mk.inj h).1 ▸ State.translateN_sameUnits ht

/-! ## Swap areas and fault rings (17 R350, R358) -/

theorem State.markPages_sameUnits {first : Nat} {used : Bool} (h : s.markPages ctx die first n used = some t) : s.SameUnits t := by
  unfold State.markPages at h
  split at h
  · simp at h
  · dsimp only at h
    split at h
    · simp at h
    · next hr =>
      split at h
      · next hw => exact Option.some.inj h ▸ (State.readVa_sameUnits hr).trans (State.putVa_sameUnits hw)
      · simp at h

theorem State.placeImage_sameUnits {img : List Byte} {bad : List (Nat × Nat)} {r : Except Nat (Option Nat)}
    (h : s.placeImage ctx die img bad = (t, r)) : s.SameUnits t := by
  unfold State.placeImage at h
  split at h
  · exact (Prod.mk.inj h).1 ▸ .refl s
  · split at h
    · next hr => exact (Prod.mk.inj h).1 ▸ State.readVa_sameUnits hr
    · next hr =>
      dsimp only at h
      split at h
      · exact (Prod.mk.inj h).1 ▸ State.readVa_sameUnits hr
      · split at h
        · next ht => exact (Prod.mk.inj h).1 ▸ (State.readVa_sameUnits hr).trans (State.translateN_sameUnits ht)
        · next ht =>
          have h2 := (State.readVa_sameUnits hr).trans (State.translateN_sameUnits ht)
          split at h
          · next hm =>
            exact (Prod.mk.inj h).1 ▸
              ((h2.trans (State.markPages_sameUnits hm)).trans (State.putSpans_sameUnits _ _ _ _)).trans (State.spoil_sameUnits _ _ _)
          · exact (Prod.mk.inj h).1 ▸ h2

end

/-- A try to write a record changes no unit but the head of its context's ring. -/
theorem State.tryRecord_cases (s : State) (ctx : Nat) (r : FaultRec) :
    ∃ u, s.SameUnits u ∧ ((s.tryRecord ctx r).1 = u ∨ ∃ n, (s.tryRecord ctx r).1 = u.modCtx ctx fun c => { c with head := n }) := by
  unfold State.tryRecord
  split
  · exact ⟨s, .refl s, .inl rfl⟩
  · split
    · next hr => exact ⟨_, State.readVa_sameUnits hr, .inl rfl⟩
    · next hr =>
      have h1 := State.readVa_sameUnits hr
      dsimp only
      split
      · exact ⟨_, h1, .inl rfl⟩
      · split
        · next ht => exact ⟨_, h1.trans (State.translateN_sameUnits ht), .inl rfl⟩
        · next ht =>
          have h2 := h1.trans (State.translateN_sameUnits ht)
          split
          · next hp => exact ⟨_, h2.trans (State.putVa_sameUnits hp), .inl rfl⟩
          · next hp => exact ⟨_, (h2.trans (State.putVa_sameUnits hp)).trans (State.putSpans_sameUnits _ _ _ _), .inr ⟨_, rfl⟩⟩

theorem State.tryRecord_launches (s : State) (ctx : Nat) (r : FaultRec) : (s.tryRecord ctx r).1.launches = s.launches := by
  obtain ⟨u, hu, he | ⟨n, he⟩⟩ := s.tryRecord_cases ctx r
  · rw [he, hu.launches]
  · rw [he, State.modCtx_launches, hu.launches]

theorem State.ctx?_modCtx {s : State} {ctx : Nat} {c : Context} (h : s.ctx? ctx = some c) (f : Context → Context) :
    (s.modCtx ctx f).ctx? ctx = some (f c) := by
  simp only [State.modCtx, h]
  exact Tab.get?_put_same _ _ _

theorem State.ctx?_tryRecord {s : State} {ctx : Nat} {c : Context} (h : s.ctx? ctx = some c) (r : FaultRec) :
    ∃ d, (s.tryRecord ctx r).1.ctx? ctx = some d := by
  obtain ⟨u, hu, he⟩ := s.tryRecord_cases ctx r
  have hc : u.ctx? ctx = some c := by rw [State.ctx?, hu.ctxs]; exact h
  rcases he with he | ⟨n, he⟩
  · exact ⟨c, by rw [he, hc]⟩
  · exact ⟨_, by rw [he, State.ctx?_modCtx hc]⟩

end Sys2Proof.Machine
end

section
/-!
PROOFS. What the scheduler, the gears and the group barriers leave alone (09 R210; 10 R218-R231; 13 R279) where waves leave their tile:
memory, blocks but for the waves that a gear change releases, engine queues, and which units are retired.
-/

namespace Sys2Proof.Machine

open Sys2Proof

/-! ## Tables and folds -/

theorem foldl_stays {α β : Type} {f : β → α → β} {s : β} {l : List α} (h : ∀ a ∈ l, f s a = s) : l.foldl f s = s := by
  induction l with
  | nil => rfl
  | cons a r ih => rw [List.foldl_cons, h a List.mem_cons_self, ih fun c hc => h c (List.mem_cons_of_mem _ hc)]

/-- A fold of which one element changes something, once. -/
theorem foldl_once {α β : Type} {f : β → α → β} {s u : β} {b : α} {l : List α} (hm : b ∈ l) (hb : f s b = u)
    (hs : ∀ a ∈ l, a ≠ b → f s a = s) (hu : ∀ a ∈ l, f u a = u) : l.foldl f s = u := by
  induction l with
  | nil => simp at hm
  | cons a r ih =>
    rw [List.foldl_cons]
    by_cases ha : a = b
    · rw [ha, hb]
      exact foldl_stays fun c hc => hu c (List.mem_cons_of_mem _ hc)
    · rw [hs a List.mem_cons_self ha]
      exact ih ((List.mem_cons.mp hm).resolve_left (Ne.symm ha)) (fun c hc => hs c (List.mem_cons_of_mem _ hc))
        fun c hc => hu c (List.mem_cons_of_mem _ hc)

/-- A table seen through a function of its entries. -/
def tabMap {α β : Type} (f : α → β) (t : Tab α) : Tab β := t.map fun e => (e.1, f e.2)

theorem get?_tabMap {α β : Type} (f : α → β) (t : Tab α) (k : Nat) : Tab.get? (tabMap f t) k = (Tab.get? t k).map f := by
  induction t with
  | nil => rfl
  | cons e r ih =>
    by_cases h : e.1 = k
    · simp [tabMap, Tab.get?, h]
    · simpa [tabMap, Tab.get?, h] using ih

/-- A new entry that looks like the old one cannot be seen. -/
theorem tabMap_put {α β : Type} {f : α → β} {t : Tab α} {k : Nat} {u v : α} (hu : Tab.get? t k = some u) (h : f v = f u) :
    tabMap f (t.put k v) = tabMap f t := by
  induction t with
  | nil => simp [Tab.get?] at hu
  | cons e r ih =>
    by_cases hk : e.1 = k
    · simp only [Tab.get?, hk, if_true, Option.some.injEq] at hu
      simp [tabMap, Tab.put, hk, h, hu]
    · simp only [Tab.get?, hk, if_false] at hu
      simpa [tabMap, Tab.put, hk] using ih hu

/-! ## The relation -/

/-- A launch without its blocks and the generations of its groups, and a block without its waves. -/
def Launch.gist (l : Launch) : Launch := { l with blocks := [], gens := [], bars := [] }
def Block.shell (b : Block) : Block := { b with waves := [] }

/-- What a block shows without its waves is the same in blocks that differ in their waves only. -/
theorem Block.shell_congr {α : Type} {x y : Block} (h : y.shell = x.shell) (f : Block → α) (hf : ∀ z : Block, f z.shell = f z := by intro; rfl) :
    f y = f x := by
  rw [← hf y, h, hf]

/-- No wave of the block waits for a change of gear. -/
def Block.NoGear (b : Block) : Prop := ∀ v ∈ b.waves, WaveMode.gear ∉ v.modes

/-- A tile's engine queues stand as they were, and so does its retirement. -/
def Tile.SameQueues (x y : Tile) : Prop := y.copyQ = x.copyQ ∧ y.kvQ = x.kvQ ∧ y.retired = x.retired

/-- Beside the sets of the partitions, gears, barriers and counters, only waves differ that waited for a change of gear. -/
structure State.Rescheduled (s t : State) : Prop where
  mem : t.mem = s.mem
  dies : t.dies = s.dies
  cluster : ∀ c, (t.cluster c).retired = (s.cluster c).retired
  tile : ∀ r, (s.tile r).SameQueues (t.tile r)
  gist : tabMap Launch.gist t.launches = tabMap Launch.gist s.launches
  shell : ∀ b, (t.block? b).map Block.shell = (s.block? b).map Block.shell
  noGear : ∀ b z, s.block? b = some z → z.NoGear → t.block? b = some z

/-- A launch of a table looks like one of a table that looks the same. -/
theorem launches_of_gist {s t : State} (h : tabMap Launch.gist t.launches = tabMap Launch.gist s.launches) {e : Nat × Launch}
    (he : e ∈ t.launches) : ∃ d ∈ s.launches, e.2.gist = d.2.gist := by
  have hm : (e.1, e.2.gist) ∈ tabMap Launch.gist s.launches := h ▸ List.mem_map_of_mem he
  obtain ⟨d, hd, hde⟩ := List.mem_map.mp hm
  exact ⟨d, hd, (Prod.mk.inj hde).2.symm⟩

theorem State.block?_congr {s u : State} (h : u.launches = s.launches) (b : BlockRef) : u.block? b = s.block? b := by
  simp only [State.block?, State.launch?, h]

open State (Rescheduled)

namespace State.Rescheduled

/-- The same launches, with units that look the same. -/
theorem ofUnits {s t : State} (hm : t.mem = s.mem) (hd : t.dies = s.dies) (hc : ∀ c, (t.cluster c).retired = (s.cluster c).retired)
    (ht : ∀ r, (s.tile r).SameQueues (t.tile r)) (hl : t.launches = s.launches) : s.Rescheduled t where
  mem := hm
  dies := hd
  cluster := hc
  tile := ht
  gist := by rw [hl]
  shell b := by rw [State.block?_congr hl]
  noGear b z hz _ := by rw [State.block?_congr hl, hz]

theorem refl (s : State) : s.Rescheduled s := ofUnits rfl rfl (fun _ => rfl) (fun _ => ⟨rfl, rfl, rfl⟩) rfl

theorem trans {s t u : State} (h : s.Rescheduled t) (g : t.Rescheduled u) : s.Rescheduled u where
  mem := g.mem.trans h.mem
  dies := g.dies.trans h.dies
  cluster c := (g.cluster c).trans (h.cluster c)
  tile r := by
    obtain ⟨h1, h2, h3⟩ := h.tile r
    obtain ⟨g1, g2, g3⟩ := g.tile r
    exact ⟨g1.trans h1, g2.trans h2, g3.trans h3⟩
  gist := g.gist.trans h.gist
  shell b := (g.shell b).trans (h.shell b)
  noGear b z hz hn := g.noGear b z (h.noGear b z hz hn) hn

/-- Sleeping waits and the hold of a checkpoint belong to no unit. -/
theorem withWaits {s t : State} (h : s.Rescheduled t) (ws : List WaitRec) : s.Rescheduled { t with waits := ws } :=
  h.trans (ofUnits rfl rfl (fun _ => rfl) (fun _ => ⟨rfl, rfl, rfl⟩) rfl)

theorem withQuiesced {s t : State} (h : s.Rescheduled t) (q : Bool) : s.Rescheduled { t with quiesced := q } :=
  h.trans (ofUnits rfl rfl (fun _ => rfl) (fun _ => ⟨rfl, rfl, rfl⟩) rfl)

theorem foldl {α : Type} {f : State → α → State} (hf : ∀ (s : State) (a : α), s.Rescheduled (f s a)) (l : List α) (s : State) :
    s.Rescheduled (l.foldl f s) := by
  induction l generalizing s with
  | nil => exact refl s
  | cons a r ih => exact (hf s a).trans (ih _)

section
variable {s t : State} (h : s.Rescheduled t)
include h

theorem block {b : BlockRef} {z : Block} (hz : s.block? b = some z) : ∃ y, t.block? b = some y ∧ y.shell = z.shell := by
  have hs := h.shell b
  rw [hz] at hs
  obtain ⟨y, hy, hyz⟩ := Option.map_eq_some_iff.mp hs
  exact ⟨y, hy, hyz⟩

/-- A block that is there afterwards was there before. -/
theorem block_back {b : BlockRef} {y : Block} (hy : t.block? b = some y) : ∃ z, s.block? b = some z ∧ y.shell = z.shell := by
  have hs := h.shell b
  rw [hy] at hs
  obtain ⟨z, hz, hyz⟩ := Option.map_eq_some_iff.mp hs.symm
  exact ⟨z, hz, hyz.symm⟩

theorem launch {k : Nat} {l : Launch} (hl : s.launch? k = some l) : ∃ m, t.launch? k = some m ∧ m.gist = l.gist := by
  have hg : (t.launch? k).map Launch.gist = some l.gist := by
    rw [State.launch?, ← get?_tabMap, h.gist, get?_tabMap]
    exact congrArg (Option.map Launch.gist) hl
  exact Option.map_eq_some_iff.mp hg

theorem dieDead (d : Nat) : t.dieDead d = s.dieDead d := by
  have hdead (r : TileRef) : t.tileDead r = s.tileDead r := by
    rw [State.tileDead, State.tileDead, (h.tile r).2.2, h.cluster, State.die, State.die, h.dies]
  simp only [State.dieDead, hdead]

end

end State.Rescheduled

/-! ## Tiles and clusters -/

theorem State.tile_setTile_other (s : State) {t r : TileRef} (x : Tile) (h : 128 * r.die + r.tile ≠ 128 * t.die + t.tile) :
    (s.setTile t x).tile r = s.tile r := Tab.getD_put_other _ _ _ _ _ h

theorem State.setTile_rescheduled {s : State} {t : TileRef} {x : Tile} (h : (s.tile t).SameQueues x) : s.Rescheduled (s.setTile t x) := by
  refine .ofUnits rfl rfl (fun _ => rfl) (fun r => ?_) rfl
  by_cases hr : 128 * r.die + r.tile = 128 * t.die + t.tile
  · have hs : s.tile r = s.tile t := by rw [State.tile, State.tile, hr]
    have ht : (s.setTile t x).tile r = x := by rw [State.tile, hr]; exact s.tile_setTile t x
    rw [hs, ht]
    exact h
  · rw [State.tile_setTile_other _ _ hr]
    exact ⟨rfl, rfl, rfl⟩

theorem State.modTile_rescheduled {s : State} {t : TileRef} {f : Tile → Tile} (h : (s.tile t).SameQueues (f (s.tile t))) :
    s.Rescheduled (s.modTile t f) := State.setTile_rescheduled h

theorem State.refill_rescheduled (s : State) (t : TileRef) : s.Rescheduled (s.refill t) := State.setTile_rescheduled ⟨rfl, rfl, rfl⟩

theorem State.dropEntry_rescheduled (s : State) (t : TileRef) (w : WaveRef) : s.Rescheduled (s.dropEntry t w) :=
  (State.modTile_rescheduled ⟨rfl, rfl, rfl⟩).trans (State.refill_rescheduled _ _)

theorem State.cluster_setCluster_retired (s : State) (c d : ClusterRef) {x : Cluster} (h : x.retired = (s.cluster c).retired) :
    ((s.setCluster c x).cluster d).retired = (s.cluster d).retired := by
  by_cases hd : 32 * d.die + d.cl = 32 * c.die + c.cl
  · have hs : s.cluster d = s.cluster c := by rw [State.cluster, State.cluster, hd]
    rw [hs, ← h, State.cluster, hd]
    exact congrArg Cluster.retired (Tab.getD_put_same _ _ _ _)
  · exact congrArg Cluster.retired (Tab.getD_put_other _ _ _ _ _ hd)

theorem State.countCluster_rescheduled (s : State) (c : ClusterRef) (n : Nat) : s.Rescheduled (s.countCluster c n) := by
  unfold State.countCluster
  split
  · exact .refl s
  · exact .ofUnits rfl rfl (fun d => s.cluster_setCluster_retired c d rfl) (fun _ => ⟨rfl, rfl, rfl⟩) rfl

/-! ## Waves that a change of gear releases (10 R225) -/

/-- One wave has been written, or nothing. -/
def State.WritesWave (w : WaveRef) (s t : State) : Prop := t = s ∨ ∃ x, t = s.setWave w x

theorem State.WritesWave.trans {w : WaveRef} {s t u : State} (h : State.WritesWave w s t) (g : State.WritesWave w t u) :
    State.WritesWave w s u := by
  rcases h with rfl | ⟨x, rfl⟩
  · exact g
  · rcases g with rfl | ⟨y, rfl⟩
    · exact .inr ⟨x, rfl⟩
    · exact .inr ⟨y, State.setWave_setWave _ _ _ _⟩

theorem State.WritesWave.foldl {w : WaveRef} {α : Type} {f : State → α → State} (hf : ∀ (s : State) (a : α), State.WritesWave w s (f s a))
    (l : List α) (s : State) : State.WritesWave w s (l.foldl f s) := by
  induction l generalizing s with
  | nil => exact .inl rfl
  | cons a r ih => exact (hf s a).trans (ih _)

theorem State.focusOn_writesWave (s : State) (w : WaveRef) (p : WaveMode → Option Staged → Bool) :
    State.WritesWave w s (s.focusOn w p) := by
  unfold State.focusOn
  split
  · split
    · exact .inl rfl
    · exact .inr ⟨_, rfl⟩
  · exact .inl rfl

theorem State.completePlace_writesWave (s : State) (w : WaveRef) (opc : Nat) (v : Value) (recs : List MemRec) :
    State.WritesWave w s (s.completePlace w opc v recs) := by
  unfold State.completePlace
  split
  · exact .inl rfl
  · split
    · exact .inr ⟨_, rfl⟩
    · exact .inl rfl
    · exact .inr ⟨_, rfl⟩

theorem State.gist_setBlock (s : State) (b : BlockRef) (x : Block) :
    tabMap Launch.gist (s.setBlock b x).launches = tabMap Launch.gist s.launches := by
  cases hl : s.launch? b.lid with
  | none => simp [State.setBlock, hl]
  | some l => rw [State.setBlock_eq hl]; exact tabMap_put hl rfl

theorem State.gist_setWave (s : State) (w : WaveRef) (x : Wave) :
    tabMap Launch.gist (s.setWave w x).launches = tabMap Launch.gist s.launches := by
  unfold State.setWave
  split
  · exact State.gist_setBlock _ _ _
  · rfl

theorem State.shell_setWave (s : State) (w : WaveRef) (x : Wave) (b : BlockRef) :
    ((s.setWave w x).block? b).map Block.shell = (s.block? b).map Block.shell := by
  cases hy : s.block? w.block with
  | none => simp [State.setWave, hy]
  | some y =>
    rw [State.setWave_eq hy]
    by_cases hb : b = w.block
    · rw [hb, State.block?_setBlock hy, hy]
      rfl
    · rw [State.block?_setBlock_other _ _ hb]

/-- A wave that waits for a change of gear may be written. -/
theorem State.WritesWave.rescheduled {w : WaveRef} {s t : State} {x : Wave} (h : State.WritesWave w s t) (hx : s.wave? w = some x)
    (hg : WaveMode.gear ∈ x.modes) : s.Rescheduled t := by
  rcases h with rfl | ⟨y, rfl⟩
  · exact .refl _
  · refine ⟨by simp, by simp, fun c => by simp [State.cluster], fun r => by simp [State.tile, Tile.SameQueues], State.gist_setWave _ _ _,
      State.shell_setWave _ _ _, fun b z hz hn => ?_⟩
    obtain ⟨d, hd, hdx⟩ := State.block_of_wave hx
    by_cases hb : b = w.block
    · subst hb
      obtain rfl : d = z := Option.some.inj (hd.symm.trans hz)
      exact absurd hg (hn x (List.mem_of_getElem? hdx))
    · rw [State.setWave_eq hd, State.block?_setBlock_other _ _ hb, hz]

theorem State.wakeGear_rescheduled (s : State) (t : TileRef) : s.Rescheduled (s.wakeGear t) := by
  unfold State.wakeGear
  refine Rescheduled.foldl (fun s w => ?_) _ s
  split
  · next x hx =>
    have hw := State.WritesWave.foldl (w := w) (f := fun s (_ : WaveMode) =>
      (s.focusOn w fun m _ => m == .gear).completePlace w 0x134 Value.void [])
      (fun s _ => (s.focusOn_writesWave w _).trans (State.completePlace_writesWave _ _ _ _ _)) (x.modes.filter fun m => m == .gear) s
    by_cases hg : WaveMode.gear ∈ x.modes
    · exact hw.rescheduled hx hg
    · have hnone : (x.modes.filter fun m => m == .gear) = [] :=
        List.filter_eq_nil_iff.mpr fun m hm hmg => hg (eq_of_beq hmg ▸ hm)
      rw [hnone]
      exact .refl s
  · exact .refl s

/-! ## Gears and barriers (10 R218-R231; 13 R279) -/

theorem State.decideGear_rescheduled (s : State) (t : TileRef) (cause : Nat) : s.Rescheduled (s.decideGear t cause) := by
  unfold State.decideGear
  dsimp only
  split
  · split <;> exact State.setTile_rescheduled ⟨rfl, rfl, rfl⟩
  · split
    · refine .trans (State.setTile_rescheduled ?_) (State.wakeGear_rescheduled _ _)
      exact ⟨rfl, rfl, rfl⟩
    · exact State.setTile_rescheduled ⟨rfl, rfl, rfl⟩

theorem State.setHolds_rescheduled (s : State) (t : TileRef) (hs : List (Nat × Nat × Nat)) : s.Rescheduled (s.setHolds t hs) := by
  unfold State.setHolds
  dsimp only
  split
  · exact State.modTile_rescheduled ⟨rfl, rfl, rfl⟩
  · exact (State.modTile_rescheduled ⟨rfl, rfl, rfl⟩).trans (State.decideGear_rescheduled _ _ _)

theorem State.dropHolds_rescheduled (s : State) (t : TileRef) (lid : Nat) (b : Block) : s.Rescheduled (s.dropHolds t lid b) := by
  unfold State.dropHolds
  refine Rescheduled.foldl (fun s e => ?_) _ s
  split
  · exact State.setHolds_rescheduled _ _ _
  · exact .refl s

/-- A launch with the same blocks, but for the generations of its groups. -/
theorem State.setLaunch_rescheduled {s : State} {lid : Nat} {l m : Launch} (hl : s.launch? lid = some l) (hb : m.blocks = l.blocks)
    (hg : m.gist = l.gist) : s.Rescheduled (s.setLaunch lid m) := by
  have hblock (b : BlockRef) : (s.setLaunch lid m).block? b = s.block? b := by
    by_cases h : b.lid = lid
    · subst h
      rw [State.block?_eq hl, State.block?_eq (s.launch?_setLaunch b.lid m), hb]
    · rw [State.block?, State.launch?_setLaunch_other _ _ h, State.block?]
  exact ⟨rfl, rfl, fun _ => rfl, fun _ => ⟨rfl, rfl, rfl⟩, tabMap_put hl hg, fun b => by rw [hblock b],
    fun b z hz _ => by rw [hblock b, hz]⟩

theorem State.completeBar_rescheduled (s : State) (lid g : Nat) : s.Rescheduled (s.completeBar lid g) := by
  unfold State.completeBar
  split
  · exact .refl s
  · next hl =>
    split
    · exact .refl s
    · split
      · exact State.setLaunch_rescheduled hl rfl rfl
      · exact .refl s

end Sys2Proof.Machine
end

section
/-!
PROOFS. Stopped blocks (O48): how a block settles, goes on or ends as killed (14 R309, R312), and how a wave lands (05 R108).
-/

namespace Sys2Proof.Machine

open Sys2Proof

/-! ## Blocks and waves of a state -/

section
variable {s : State} {b : BlockRef} {x : Block} {w : WaveRef} {v : Wave}

theorem State.modBlock_eq (hb : s.block? b = some x) (f : Block → Block) : s.modBlock b f = s.setBlock b (f x) := by
  simp [State.modBlock, hb]

theorem State.wave?_eq (hb : s.block? w.block = some x) : s.wave? w = x.waves[w.wav]? := by simp [State.wave?, hb]

/-- The block of a wave that has been written. -/
theorem State.block?_setWave (hb : s.block? w.block = some x) (v : Wave) :
    (s.setWave w v).block? w.block = some { x with waves := x.waves.set w.wav v } := by
  rw [State.setWave_eq hb, State.block?_setBlock hb]

/-- Writes of one wave into states with the same launches leave the same launches. -/
theorem State.setWave_launches_congr {u : State} (h : u.launches = s.launches) (w : WaveRef) (v : Wave) :
    (u.setWave w v).launches = (s.setWave w v).launches := by
  simp only [State.setWave, State.block?_congr h, State.setBlock, State.launch?, h]
  split
  · split
    · simp only [State.setLaunch, h]
    · exact h
  · exact h

theorem State.fileOwed_of_none (hv : s.wave? w = some v) (ho : v.owed = none) : s.fileOwed w = s := by
  obtain ⟨z, hz, rfl⟩ := State.site?_of_wave hv
  simp only [State.fileOwed, hz, ho]

theorem State.dumpLanded_of_none {t : TileRef} {odd : Bool} (h : ((s.tile t).part odd).dbg = none) : s.dumpLanded t odd = s := by
  simp only [State.dumpLanded, h]

theorem State.writeDump_launches (s : State) (t : TileRef) (odd : Bool) (d : DebugStop) (head : Bool) :
    (s.writeDump t odd d head).launches = s.launches := by
  unfold State.writeDump
  split
  · rfl
  · dsimp only
    generalize (if head = true then (_ : Nat × List Byte) else _) = q
    split
    · rfl
    · split
      · rfl
      · exact (State.putVa_sameUnits rfl).launches

end

/-! ## Blocks that settle (14 R309, R312) -/

section
variable {s : State} {b : BlockRef} {x : Block}

/-- A block that stands on its tile, or has ended, and is not killed has nothing to settle. -/
theorem State.settleBlock_quiet (hb : s.block? b = some x) (hp : x.phase = .resident ∨ x.phase = .ended) (hk : x.killed = false) :
    s.settleBlock b = s := by
  simp only [State.settleBlock, hb, hk, Bool.false_and, Bool.false_eq_true, if_false]
  rcases hp with hp | hp <;> simp [hp]

/-- A block waits while a record is not resolved, or not written. -/
theorem State.settleBlock_waits (hb : s.block? b = some x) (hw : x.unresolved ≠ [] ∨ ∃ z ∈ x.waves, z.owed ≠ none) : s.settleBlock b = s := by
  simp only [State.settleBlock, hb]
  refine if_pos ?_
  rcases hw with hu | ⟨z, hz, ho⟩
  · simp [hu]
  · have : x.waves.any (fun y => y.owed.isSome) = true := List.any_eq_true.mpr ⟨z, hz, Option.isSome_iff_ne_none.mpr ho⟩
    simp [this]

/-- Every record of a block with a live wave is written and resolved. -/
structure Block.Resolved (x : Block) : Prop where
  unresolved : x.unresolved = []
  owed : ∀ z ∈ x.waves, z.owed = none
  live : ∃ z ∈ x.waves, z.live = true

theorem Block.Resolved.settles (h : x.Resolved) (hp : x.phase = .parked) :
    (x.ended || x.unresolved != [] || x.waves.any (fun y => y.owed.isSome)) = false := by
  have howed : x.waves.any (fun y => y.owed.isSome) = false := List.any_eq_false.mpr fun z hz => by simp [h.owed z hz]
  obtain ⟨z, hz, hl⟩ := h.live
  have hlive : (x.waves.all fun y => !y.live) = false := List.all_eq_false.mpr ⟨z, hz, by simp [hl]⟩
  simp [Block.ended, hp, hlive, h.unresolved, howed]

theorem State.settleBlock_resumes (hb : s.block? b = some x) (hp : x.phase = .parked) (hr : x.Resolved) (hk : x.killed = false)
    (hc : x.awaitsCode = false) (hf : x.fate ≠ some .swapOut) : s.settleBlock b = s.resumeBlock b := by
  simp only [State.settleBlock, hb, hr.settles hp, hk, hc, hp]
  simp [hf]

theorem State.settleBlock_kills (hb : s.block? b = some x) (hp : x.phase = .parked) (hr : x.Resolved) (hk : x.killed = true)
    (hl : ∀ z ∈ x.waves, z.live = true → z.stop = .landed) : s.settleBlock b = s.killBlock b := by
  have hall : x.waves.all (fun y => !y.live || y.stop == .landed || x.phase == .swapped) = true := by
    refine List.all_eq_true.mpr fun z hz => ?_
    cases hz' : z.live with
    | false => rfl
    | true => simp [hl z hz hz']
  simp only [State.settleBlock, hb, hr.settles hp, hk, hall]
  rfl

/-! ## Blocks that end as killed (14 R312) -/

/-- What is left of a block that has been killed on its tile. -/
def Block.dead (x : Block) : Block := { x.kill with imgLen := 0 }

theorem Wave.kill_dead (v : Wave) : v.kill.live = false ∧ v.kill.native = none ∧ WaveMode.gear ∉ v.kill.modes := by
  unfold Wave.kill
  dsimp only
  split <;> simp [Wave.live, Wave.modes]

theorem Block.dead_waves (x : Block) : ∀ v ∈ x.dead.waves, v.live = false := by
  intro v hv
  obtain ⟨u, -, rfl⟩ := List.mem_map.mp hv
  exact u.kill_dead.1

theorem Block.dead_noGear (x : Block) : x.dead.NoGear := by
  intro v hv
  obtain ⟨u, -, rfl⟩ := List.mem_map.mp hv
  exact u.kill_dead.2.2

theorem Block.dead_ended (x : Block) : x.dead.ended = true := by
  have : (x.dead.waves.all fun v => !v.live) = true := List.all_eq_true.mpr fun v hv => by simp [x.dead_waves v hv]
  simp [Block.ended, this]

/-- With its last wave a dead block may complete generations that wait for it. -/
theorem State.Rescheduled.afterDead {u : State} (hb : s.block? b = some x) (h : (s.setBlock b x.dead).Rescheduled u) :
    (s.setBlock b x.dead).Rescheduled (u.afterWaveEnd b) := by
  have hu : u.block? b = some x.dead := h.noGear b _ (State.block?_setBlock hb _) x.dead_noGear
  obtain ⟨l, hl, -⟩ := State.launch_of_block hu
  simp only [State.afterWaveEnd, hl, hu, x.dead_ended, if_true]
  exact h.trans (State.Rescheduled.foldl (fun s g => s.completeBar_rescheduled b.lid g) _ u)

/-- A parked block that is killed is dead; nothing else goes but its places on the tile. -/
theorem State.killBlock_parked (hb : s.block? b = some x) (hp : x.phase = .parked) (he : x.ended = false) :
    (s.setBlock b x.dead).Rescheduled (s.killBlock b) := by
  have hsw : (x.phase == .swapped) = false := by rw [hp]; rfl
  have hen : (x.phase == .ended) = false := by rw [hp]; rfl
  simp only [State.killBlock, hb, he, hsw, hen, Bool.or_self, Bool.false_eq_true, if_false]
  refine .afterDead hb (.trans (.trans (.trans ?_ (.foldl (fun u i => ?_) _ _)) (State.refill_rescheduled _ _))
    (State.dropHolds_rescheduled _ _ _ _))
  · exact (State.Rescheduled.refl _).withQuiesced _
  · refine .withWaits (State.modTile_rescheduled ?_) _
    exact ⟨rfl, rfl, rfl⟩

/-- A parked block that settles is still there, and memory stands. -/
theorem State.settleBlock_parked (hb : s.block? b = some x) (hp : x.phase = .parked) :
    (s.settleBlock b).mem = s.mem ∧ ∃ z, (s.settleBlock b).block? b = some z := by
  have hstays : s.mem = s.mem ∧ ∃ z, s.block? b = some z := ⟨rfl, x, hb⟩
  simp only [State.settleBlock, hb]
  split
  · exact hstays
  · next hopen =>
    have he : x.ended = false := by
      simp only [Bool.or_eq_true, not_or, Bool.not_eq_true] at hopen
      exact hopen.1.1
    split
    · have hk := State.killBlock_parked hb hp he
      exact ⟨hk.mem.trans (by simp), _, hk.noGear b _ (State.block?_setBlock hb _) x.dead_noGear⟩
    · split
      · exact hstays
      · split
        · exact hstays
        · split
          · simp only [State.resumeBlock, hb]
            exact ⟨by simp, _, State.block?_setBlock hb _⟩
          · exact ⟨by simp, _, State.block?_setBlock hb _⟩

end

/-! ## Landing (05 R108) -/

section
variable {s : State} {w : WaveRef} {x : Site}

theorem exec_stopLanded_stays (hx : s.site? w = some x) (hs : x.wave.stop ≠ .requested) (hl : x.wave.stepLeft = none) :
    exec (.stopLanded w) s = .next s := by
  have hland : s.land w = none := by simp [State.land, hx, hs, Wave.stepEnds, hl]
  show execStopLanded w s = _
  simp only [execStopLanded, hland]

/-- A wave under a stop request that has no instruction to finish and stands at no barrier that has completed: it may land. -/
structure Site.MayLand (x : Site) : Prop where
  stop : x.wave.stop = .requested
  phase : x.block.phase = .resident
  finished : x.wave.unfinished = false
  live : x.wave.live = true
  barB : x.pastBarB = false
  native : x.wave.native = none

omit x in
theorem State.launches_modWave {u : State} {v y : Wave} {g : Wave → Wave} (hu : u.launches = s.launches) (hv : s.wave? w = some v)
    (hg : g v = y) : (u.modWave w g).launches = (s.setWave w y).launches := by
  rw [State.modWave_eq ((State.wave?_congr hu w).trans hv), State.setWave_launches_congr hu, hg]

/-- Of the launches, withdrawing a portable wave from its wait changes only what the wave waits for. -/
theorem State.withdrawOne_launches (hx : s.site? w = some x) (hn : x.wave.native = none) :
    ∃ m, (s.withdrawOne x).launches = (s.setWave w { x.wave with mode := m }).launches := by
  obtain ⟨rfl, -, -, hv⟩ := State.site_spec hx
  have hstays : ∃ m, s.launches = (s.setWave x.w { x.wave with mode := m }).launches := ⟨x.wave.mode, by rw [State.setWave_self hv]⟩
  unfold State.withdrawOne
  dsimp only
  split
  · refine ⟨.run, State.launches_modWave ?_ hv ?_⟩
    · rfl
    · simp [Wave.refocus, hn]
  · split
    · refine ⟨.run, State.launches_modWave (u := s.unfence _ _ _) rfl hv ?_⟩
      simp [Wave.refocus, hn]
    · exact hstays
  iterate 5
    · refine ⟨.run, State.launches_modWave (u := s) rfl hv ?_⟩
      simp [Wave.refocus, hn]
  · exact hstays

theorem State.withdraw_launches (hx : s.site? w = some x) (hn : x.wave.native = none) :
    ∃ m, (s.withdraw x).launches = (s.setWave w { x.wave with mode := m }).launches := by
  have hone : s.withdraw x = s.withdrawOne x := by
    simp only [State.withdraw, Wave.modes, hn, List.foldl_cons, List.foldl_nil, (State.site_spec hx).1, hx]
  rw [hone]
  exact State.withdrawOne_launches hx hn

/-- A wave of the portable form lands as it stands after the wait at which it stood has been withdrawn. -/
theorem State.land_portable {y : Site} (hx : s.site? w = some x) (h : x.MayLand) (hy : (s.withdraw x).site? w = some y)
    (hn : y.wave.native = none) :
    let z := if x.wave.owed.isSome || x.wave.mode != .run then y.wave.stand else y.wave
    s.land w = some ((s.withdraw x).setWave w (Wave.landed { z with owed := z.owed.map fun r => { r with point := z.placePoint } })) := by
  simp only [State.land, hx, h.stop, h.phase, h.finished, h.live, h.barB, hy, hn]
  rfl

end

/-- The wave of a block that stands on its tile has landed, with so many frames. -/
def State.LandedAt (s : State) (w : WaveRef) (n : Nat) : Prop :=
  ∃ b v, s.block? w.block = some b ∧ b.phase = .resident ∧ b.killed = false ∧ b.waves[w.wav]? = some v ∧ v.stop = .landed ∧
    v.stepLeft = none ∧ v.frames.length = n

namespace State.LandedAt

theorem ofSetWave {s : State} {w : WaveRef} {b : Block} {v : Wave} (hb : s.block? w.block = some b) (hp : b.phase = .resident)
    (hk : b.killed = false) (hlt : w.wav < b.waves.length) (hs : v.stop = .landed) (hl : v.stepLeft = none) :
    (s.setWave w v).LandedAt w v.frames.length :=
  ⟨_, v, State.block?_setWave hb v, hp, hk, by simp [hlt], hs, hl, rfl⟩

variable {s t : State} {w : WaveRef} {n : Nat} (h : s.LandedAt w n)
include h

theorem congr (hl : t.launches = s.launches) : t.LandedAt w n := by
  unfold State.LandedAt
  rwa [State.block?_congr hl]

theorem modBlock {f : Block → Block} (hf : ∀ b, (f b).phase = b.phase ∧ (f b).killed = b.killed ∧ (f b).waves = b.waves) :
    (s.modBlock w.block f).LandedAt w n := by
  obtain ⟨b, v, hb, hp, hk, hv, hs⟩ := h
  obtain ⟨fp, fk, fw⟩ := hf b
  exact ⟨f b, v, by rw [State.modBlock_eq hb, State.block?_setBlock hb], fp.trans hp, fk.trans hk, fw ▸ hv, hs⟩

theorem modWave {f : Wave → Wave} (hf : ∀ v, (f v).stop = v.stop ∧ (f v).stepLeft = v.stepLeft ∧ (f v).frames = v.frames) :
    (s.modWave w f).LandedAt w n := by
  obtain ⟨b, v, hb, hp, hk, hv, hs, hl, rfl⟩ := h
  obtain ⟨fs, fl, ff⟩ := hf v
  rw [State.modWave_eq ((State.wave?_eq hb).trans hv), ← ff]
  exact ofSetWave hb hp hk (List.getElem?_eq_some_iff.mp hv).1 (fs.trans hs) (fl.trans hl)

theorem recorded (k : Nat) : (s.recorded (.wave w) k).LandedAt w n := by
  show ((s.modWave w _).modBlock w.block _).LandedAt w n
  refine (h.modWave fun v => ?_).modBlock fun b => ?_ <;> exact ⟨rfl, rfl, rfl⟩

theorem fileRecord (ctx : Nat) (r : FaultRec) : (s.fileRecord ctx r (.wave w)).LandedAt w n := by
  have htried := h.congr (s.tryRecord_launches ctx r)
  unfold State.fileRecord
  split
  · exact h
  · split
    · exact h.congr rfl
    · split
      · next he =>
        rw [he] at htried
        exact htried.recorded _
      · next he =>
        rw [he] at htried
        exact htried.congr (State.modCtx_launches _ _ _)
      · next he =>
        rw [he] at htried
        exact (htried.congr (State.modCtx_launches _ _ _)).congr (State.event_sameUnits _ _ _ _).launches

theorem fileOwed : (s.fileOwed w).LandedAt w n := by
  unfold State.fileOwed
  split
  · exact h
  · split
    · exact h.fileRecord _ _
    · exact h

theorem dumpLanded (t : TileRef) (odd : Bool) : (s.dumpLanded t odd).LandedAt w n := by
  unfold State.dumpLanded
  dsimp only
  split
  · split
    · exact h.congr (State.writeDump_launches _ _ _ _ _)
    · exact h
  · exact h

theorem stepStop (x : Wave) : (s.stepStop w x).LandedAt w n := by
  refine h.congr ?_
  unfold State.stepStop
  split <;> rfl

theorem settleBlock : (s.settleBlock w.block).LandedAt w n := by
  obtain ⟨b, v, hb, hp, hk, hv⟩ := h
  rw [State.settleBlock_quiet hb (.inl hp) hk]
  exact ⟨b, v, hb, hp, hk, hv⟩

end State.LandedAt

section
variable {s : State} {w : WaveRef} {x : Site}

theorem State.land_landedAt (hx : s.site? w = some x) (h : x.MayLand) (hk : x.block.killed = false) :
    ∃ t, s.land w = some t ∧ t.LandedAt w x.wave.frames.length := by
  obtain ⟨-, -, hb, hv⟩ := State.site_spec hx
  obtain ⟨m, hm⟩ := State.withdraw_launches hx h.native
  have hlt : w.wav < x.block.waves.length := (List.getElem?_eq_some_iff.mp ((State.wave?_eq hb).symm.trans hv)).1
  obtain ⟨y, hy, hym⟩ := State.site?_of_wave ((State.wave?_congr hm w).trans (State.wave?_setWave hv _))
  have hstand (v : Wave) : v.stand.frames.length = v.frames.length := by
    unfold Wave.stand
    cases v.frames <;> rfl
  obtain ⟨z, hz, hs, hl, hlen⟩ : ∃ z, s.land w = some ((s.withdraw x).setWave w z) ∧ z.stop = .landed ∧ z.stepLeft = none ∧
      z.frames.length = x.wave.frames.length := by
    refine ⟨_, State.land_portable hx h hy (by rw [hym]; exact h.native), rfl, rfl, ?_⟩
    simp only [Wave.landed]
    split
    · rw [hstand, hym]
    · rw [hym]
  have hb' := (State.block?_congr hm w.block).trans (State.block?_setWave hb _)
  exact ⟨_, hz, hlen ▸ State.LandedAt.ofSetWave hb' h.phase hk (by simpa using hlt) hs hl⟩

theorem exec_stopLanded_lands (hx : s.site? w = some x) (h : x.MayLand) (hk : x.block.killed = false) :
    ∃ t, exec (.stopLanded w) s = .next t ∧ t.LandedAt w x.wave.frames.length := by
  obtain ⟨s1, hland, h1⟩ := State.land_landedAt hx h hk
  have hstep : (if x.wave.stepLeft.isSome then s1.stepStop w x.wave else s1).LandedAt w x.wave.frames.length := by
    split
    · exact h1.stepStop _
    · exact h1
  have hfiled := (hstep.modBlock (f := Block.settleFate) fun b => by unfold Block.settleFate; split <;> exact ⟨rfl, rfl, rfl⟩).fileOwed
  obtain ⟨b, v, hb, -⟩ := id hfiled
  refine ⟨_, ?_, ((hfiled.dumpLanded b.tileRef false).dumpLanded b.tileRef true).settleBlock⟩
  show execStopLanded w s = _
  simp only [execStopLanded, hland, (State.site_spec hx).2.2.2, hb]

/-- A fate by class, written in the shape of the statement. -/
theorem Block.settleFate_eq (b : Block) :
    b.settleFate = { b with fate := if b.fate = some .byClass then some (if b.cls ≤ 1 then .park else .swapOut) else b.fate } := by
  unfold Block.settleFate
  split
  · next hf => simp [hf]
  · next hf =>
    have : b.fate ≠ some .byClass := hf
    simp [this]

theorem Tile.part_dbg {t : Tile} (he : t.even.dbg = none) (hd : t.odd.dbg = none) (odd : Bool) : (t.part odd).dbg = none := by
  cases odd
  · exact he
  · exact hd

/-- A landed wave that owes no record, on a tile that no debug stop holds, has nothing left to do but to settle its block's fate. -/
theorem exec_stopLanded_settles {s1 : State} {v z : Wave} {b : Block} (hland : s.land w = some s1) (hv : s.wave? w = some v)
    (hl : v.stepLeft = none) (hb : s1.block? w.block = some b) (hz : b.waves[w.wav]? = some z) (ho : z.owed = none)
    (hp : b.phase = .resident) (hk : b.killed = false) (hd : ∀ odd, ((s1.tile b.tileRef).part odd).dbg = none) :
    exec (.stopLanded w) s = .next (s1.modBlock w.block Block.settleFate) := by
  have hb2 := State.block?_setBlock hb b.settleFate
  have hd2 (odd : Bool) : (((s1.setBlock w.block b.settleFate).tile b.settleFate.tileRef).part odd).dbg = none := by
    have ht : b.settleFate.tileRef = b.tileRef := by
      rw [Block.settleFate_eq]
      rfl
    simpa [State.tile, ht] using hd odd
  show execStopLanded w s = _
  simp only [execStopLanded, hland, hv, hl, Option.isSome_none, Bool.false_eq_true, if_false, State.modBlock_eq hb]
  have hfile := State.fileOwed_of_none ((State.wave?_eq hb2).trans (by simpa [Block.settleFate_eq] using hz)) ho
  simp only [hfile, hb2, State.dumpLanded_of_none (hd2 false), State.dumpLanded_of_none (hd2 true)]
  rw [State.settleBlock_quiet hb2 (.inl ?_) ?_]
  · rw [Block.settleFate_eq]
    exact hp
  · rw [Block.settleFate_eq]
    exact hk

/-- A wave between two instructions lands as it stands. -/
theorem exec_stopLanded_between (hx : s.site? w = some x) (h : x.MayLand) (hk : x.block.killed = false) (hm : x.wave.mode = .run)
    (ho : x.wave.owed = none) (hl : x.wave.stepLeft = none) (he : (s.tile x.tile).even.dbg = none) (hd : (s.tile x.tile).odd.dbg = none) :
    exec (.stopLanded w) s = .next ((s.setWave w { x.wave with stop := .landed, stepEnd := none, quarters := [], quartersB := [] }).modBlock
      w.block Block.settleFate) := by
  obtain ⟨hxw, -, hb, hv⟩ := State.site_spec hx
  have hstays : s.withdraw x = s := by
    simp only [State.withdraw, Wave.modes, h.native, List.foldl_cons, List.foldl_nil, hxw, hx, State.withdrawOne, hm]
  have hland : s.land w = some (s.setWave w { x.wave with stop := .landed, stepEnd := none, quarters := [], quartersB := [] }) := by
    have hy : (s.withdraw x).site? w = some x := by rw [hstays, hx]
    rw [State.land_portable hx h hy h.native, hstays]
    simp [hm, ho, hl, h.native, Wave.landed]
  have hlt : w.wav < x.block.waves.length := (List.getElem?_eq_some_iff.mp ((State.wave?_eq hb).symm.trans hv)).1
  refine exec_stopLanded_settles hland hv hl (State.block?_setWave hb _) (List.getElem?_set_self hlt) ho h.phase hk fun odd => ?_
  rw [State.tile, State.setWave_tiles]
  exact Tile.part_dbg he hd odd

end

end Sys2Proof.Machine
end

section
/-!
PROOFS. The release of slots and parks (O48; 06 R136; 14 R309).
-/

namespace Sys2Proof.Machine

open Sys2Proof

/-! ## The release of slots (06 R136) -/

section
variable {s : State} {w : WaveRef} {x : Site}

theorem exec_waveSlotRelease_stays (hx : s.site? w = some x) (h : x.wave.mode ≠ .ended ∨ x.wave.vcnt ≠ 0) :
    exec (.waveSlotRelease w) s = .next s := by
  show execWaveSlotRelease w s = _
  rcases h with h | h <;> simp [execWaveSlotRelease, hx, h]

/-- A block that ends when its last slot is released. -/
def Block.release (b : Block) : Block := if b.waves.all fun y => y.mode == .released then { b with phase := .ended } else b

theorem Block.release_waves (b : Block) : b.release.waves = b.waves := by
  unfold Block.release
  split <;> rfl

theorem Block.release_phase {b : Block} (h : (b.release.waves.all fun y => y.mode == .released) = true) : b.release.phase = .ended := by
  rw [Block.release_waves] at h
  simp [Block.release, h]

theorem exec_waveSlotRelease_releases (hx : s.site? w = some x) (hm : x.wave.mode = .ended) (hv : x.wave.vcnt = 0) :
    ∃ t y b, exec (.waveSlotRelease w) s = .next t ∧ t.wave? w = some y ∧ y.mode = .released ∧ t.block? w.block = some b ∧
      ((b.waves.all fun z => z.mode == .released) = true → b.phase = .ended) ∧ t.mem = s.mem := by
  obtain ⟨-, -, hb, hw⟩ := State.site_spec hx
  have hlt : w.wav < x.block.waves.length := (List.getElem?_eq_some_iff.mp ((State.wave?_eq hb).symm.trans hw)).1
  obtain ⟨b, hb1, hz⟩ : ∃ b, (s.setWave w { x.wave with mode := .released }).block? w.block = some b ∧
      b.waves[w.wav]? = some { x.wave with mode := .released } := ⟨_, State.block?_setWave hb _, List.getElem?_set_self hlt⟩
  have hexec : exec (.waveSlotRelease w) s = .next ((s.setWave w { x.wave with mode := .released }).modBlock w.block Block.release) := by
    show execWaveSlotRelease w s = _
    simp only [execWaveSlotRelease, hx, hm, hv]
    rfl
  rw [State.modBlock_eq hb1] at hexec
  have hb2 := State.block?_setBlock hb1 b.release
  refine ⟨_, _, _, hexec, (State.wave?_eq hb2).trans (b.release_waves ▸ hz), rfl, hb2, Block.release_phase, by simp⟩

end

/-! ## Parks (14 R309) -/

section
variable {s : State} {b : BlockRef} {x : Block}

theorem exec_park_stays (hb : s.block? b = some x) (h : x.phase ≠ .resident ∨ x.fate ≠ some .park ∨ s.stoppedWhole x = false) :
    exec (.park b) s = .next s := by
  show execPark b s = _
  rcases h with h | h | h <;> simp [execPark, hb, h]

/-- A parked block, whose waves' latches are gone. -/
def Block.park (x : Block) : Block := { x with phase := .parked, waves := x.waves.map Wave.clearLatches }

theorem Wave.clearLatches_spec (v : Wave) : v.clearLatches.owed = v.owed ∧ v.clearLatches.live = v.live := by
  unfold Wave.clearLatches
  split <;> exact ⟨rfl, rfl⟩

theorem State.countCluster_launches (s : State) (c : ClusterRef) (n : Nat) : (s.countCluster c n).launches = s.launches := by
  unfold State.countCluster
  split <;> rfl

/-- A block that parks: the waves leave the active sets, and their latches go. -/
def State.parkBlock (s : State) (b : BlockRef) (x : Block) : State :=
  ((s.setBlock b { x with phase := .parked }).modTile x.tileRef fun t =>
    { t with even := t.even.deactivate b, odd := t.odd.deactivate b }).modBlock b fun y => { y with waves := y.waves.map Wave.clearLatches }

theorem State.block?_parkBlock (hb : s.block? b = some x) : (s.parkBlock b x).block? b = some x.park := by
  have h1 (f : Tile → Tile) : ((s.setBlock b { x with phase := .parked }).modTile x.tileRef f).block? b = some { x with phase := .parked } :=
    (State.block?_congr (State.modTile_launches _ _ _) b).trans (State.block?_setBlock hb _)
  rw [State.parkBlock, State.modBlock_eq (h1 _), State.block?_setBlock (h1 _)]
  rfl

theorem exec_park_settles (hb : s.block? b = some x) (hp : x.phase = .resident) (hf : x.fate = some .park) (hs : s.stoppedWhole x = true) :
    ∃ u : State, exec (.park b) s = .next (u.settleBlock b) ∧ u.mem = s.mem ∧ u.block? b = some x.park := by
  refine ⟨((s.parkBlock b x).refill x.tileRef).countCluster x.tileRef.cluster 0x26, ?_, ?_, ?_⟩
  · show execPark b s = _
    have hdue : (x.phase == .resident && x.fate == some .park && s.stoppedWhole x) = true := by simp [hp, hf, hs]
    simp only [execPark, hb]
    exact if_pos hdue
  · rw [(State.countCluster_rescheduled _ _ _).mem, (State.refill_rescheduled _ _).mem, State.parkBlock, State.modBlock_mem,
      State.modTile_mem, State.setBlock_mem]
  · rw [← State.block?_parkBlock hb]
    exact State.block?_congr (State.countCluster_launches _ _ _) b

theorem State.stoppedWhole_spec (h : s.stoppedWhole x = true) :
    (∃ z ∈ x.waves, z.live = true) ∧ ∀ z ∈ x.waves, z.live = true → z.stop = .landed := by
  rw [State.stoppedWhole, Bool.and_eq_true, List.any_eq_true, List.all_eq_true] at h
  obtain ⟨hlive, hall⟩ := h
  refine ⟨hlive, fun z hz hl => ?_⟩
  rw [← List.map_snd_zip (l₁ := List.range x.waves.length) (l₂ := x.waves) (by simp)] at hz
  obtain ⟨e, he, rfl⟩ := List.mem_map.mp hz
  have := hall e he
  simp only [hl, Bool.not_true, Bool.false_or, Bool.and_eq_true, beq_iff_eq] at this
  exact this.1

theorem exec_park (hb : s.block? b = some x) (hp : x.phase = .resident) (hf : x.fate = some .park) (hs : s.stoppedWhole x = true) :
    ∃ t y, exec (.park b) s = .next t ∧ t.block? b = some y ∧ t.mem = s.mem ∧
      (x.unresolved ≠ [] ∨ (∃ z ∈ x.waves, z.owed ≠ none) → y.phase = .parked ∧ y.fate = some .park) ∧
      (x.unresolved = [] → (∀ z ∈ x.waves, z.owed = none) → x.killed = false → x.awaitsCode = false →
        y.phase = .resident ∧ y.fate = none) := by
  obtain ⟨u, hu, hm, hub⟩ := exec_park_settles hb hp hf hs
  obtain ⟨hmem, y, hy⟩ := State.settleBlock_parked hub rfl
  refine ⟨_, y, hu, hy, hmem.trans hm, fun hw => ?_, fun hr ho hk hc => ?_⟩
  · have hwaits : x.park.unresolved ≠ [] ∨ ∃ z ∈ x.park.waves, z.owed ≠ none := hw.imp_right fun ⟨z, hz, ho⟩ =>
      ⟨z.clearLatches, List.mem_map_of_mem hz, by rwa [z.clearLatches_spec.1]⟩
    rw [State.settleBlock_waits hub hwaits, hub] at hy
    obtain rfl := Option.some.inj hy
    exact ⟨rfl, hf⟩
  · have hres : x.park.Resolved := by
      obtain ⟨⟨z, hz, hl⟩, -⟩ := State.stoppedWhole_spec hs
      refine ⟨hr, fun v hv => ?_, z.clearLatches, List.mem_map_of_mem hz, z.clearLatches_spec.2.trans hl⟩
      obtain ⟨y, hy, rfl⟩ := List.mem_map.mp hv
      exact y.clearLatches_spec.1.trans (ho y hy)
    have hfate : x.park.fate ≠ some .swapOut := by
      show x.fate ≠ _
      simp [hf]
    rw [State.settleBlock_resumes hub rfl hres hk hc hfate, State.resumeBlock, hub] at hy
    rw [State.block?_setBlock hub] at hy
    obtain rfl := Option.some.inj hy
    exact ⟨rfl, rfl⟩

end

end Sys2Proof.Machine
end

section
/-!
PROOFS. Swap-outs (O48; 14 R310; 17 R358): what leaving its tile for its image does to a block.
-/

namespace Sys2Proof.Machine

open Sys2Proof

section
variable {s : State} {b : BlockRef} {l : Launch} {x : Block}

/-- Only a block whose fate is a swap-out is swapped out. -/
theorem State.trySwap_stays (hb : s.block? b = some x) (h : x.fate ≠ some .swapOut) : s.trySwap b = s := by
  obtain ⟨l, hl, -⟩ := State.launch_of_block hb
  simp [State.trySwap, hl, hb, h]

theorem State.trySwap_swaps (hl : s.launch? b.lid = some l) (hb : s.block? b = some x) (hp : x.phase = .resident ∨ x.phase = .parked)
    (hf : x.fate = some .swapOut) (hs : s.stoppedWhole x = true) (hv : (x.waves.all fun y => y.vcnt == 0) = true) :
    s.trySwap b = s.swapBlock b l x := by
  have hphase : (x.phase == .resident || x.phase == .parked) = true := by simpa using hp
  simp only [State.trySwap, hl, hb]
  exact if_pos (by simp [hphase, hf, hs, hv])

/-- A block whose image stands at a page of its context's swap area. -/
def Block.swapped (x : Block) (p n k : Nat) : Block :=
  { x with phase := .swapped, fate := none, ready := false, seats := [], swapRaised := false, imgPage := p, imgLen := n, imgVault := k,
           waves := x.waves.map fun w => { w with native := none } }

/-- The tile resources that a swap-out frees. -/
def State.freeTile (s : State) (b : BlockRef) (x : Block) : State :=
  (((List.range x.waves.length).foldl (fun s i => s.dropEntry x.tileRef (b.wave i)) s).dropHolds x.tileRef b.lid x).countCluster
    x.tileRef.cluster 0x25

theorem State.freeTile_rescheduled (s : State) (b : BlockRef) (x : Block) : s.Rescheduled (s.freeTile b x) :=
  ((State.Rescheduled.foldl (fun s i => s.dropEntry_rescheduled x.tileRef (b.wave i)) _ s).trans
    (State.dropHolds_rescheduled _ _ _ _)).trans (State.countCluster_rescheduled _ _ _)

theorem State.swapBlock_placed {img : List Byte} {k p : Nat} {s1 : State} (hi : s.blockImage l x b.blk = (img, k))
    (hp : s.placeImage l.ctx x.die img (s.imageBad l x k) = (s1, .ok (some p))) :
    s.swapBlock b l x =
      (((s1.setBlock b (x.swapped p (ceilDiv img.length 4096) k)).freeTile b x).settleBlock b).endStray b := by
  simp only [State.swapBlock, hi, hp]
  rfl

theorem State.dieDead_congr {t : State} (ht : t.tiles = s.tiles) (hc : t.clusters = s.clusters) (hd : t.dies = s.dies) (d : Nat) :
    t.dieDead d = s.dieDead d := by
  simp only [State.dieDead, State.tileDead, State.tile, State.cluster, State.die, ht, hc, hd]

/-- A swapped-out block with a die that is not retired has a place to come back to. -/
theorem State.endStray_stays (hl : s.launch? b.lid = some l) (hb : s.block? b = some x) (h : (l.homes b.blk x.home).all s.dieDead = false) :
    s.endStray b = s := by
  simp [State.endStray, hl, hb, h]

/-- The homes of a block follow from its launch without blocks. -/
theorem Launch.homes_congr {l m : Launch} (h : m.gist = l.gist) (blk home : Nat) : m.homes blk home = l.homes blk home := by
  have hg := congrArg (fun g : Launch => g.homes blk home) h
  exact hg

/-- A block with a record to resolve that is swapped out stands in its image, and nothing else becomes of it. -/
theorem State.swapBlock_block {img : List Byte} {k p : Nat} {s1 : State} (hl : s.launch? b.lid = some l) (hb : s.block? b = some x)
    (hi : s.blockImage l x b.blk = (img, k)) (hp : s.placeImage l.ctx x.die img (s.imageBad l x k) = (s1, .ok (some p)))
    (hu : x.unresolved ≠ []) (hd : (l.homes b.blk x.home).all s.dieDead = false) :
    ∃ y, (s.swapBlock b l x).block? b = some y ∧ y.shell = (x.swapped p (ceilDiv img.length 4096) k).shell ∧
      (s.swapBlock b l x).mem = s1.mem := by
  have hunits := State.placeImage_sameUnits hp
  have hb1 : s1.block? b = some x := (State.block?_congr hunits.launches b).trans hb
  have hl1 : s1.launch? b.lid = some l := by rw [State.launch?, hunits.launches]; exact hl
  rw [State.swapBlock_placed hi hp]
  generalize hy : x.swapped p (ceilDiv img.length 4096) k = y
  have hfree := (s1.setBlock b y).freeTile_rescheduled b x
  obtain ⟨z, hz, hzy⟩ := hfree.block (State.block?_setBlock hb1 y)
  obtain ⟨m, hm, hml⟩ := hfree.launch (k := b.lid) (l := { l with blocks := l.blocks.put b.blk y }) (by simp [State.setBlock_eq hl1])
  have hzu : z.unresolved = x.unresolved := (Block.shell_congr hzy (·.unresolved)).trans (hy ▸ rfl)
  have hzh : z.home = x.home := (Block.shell_congr hzy (·.home)).trans (hy ▸ rfl)
  rw [State.settleBlock_waits hz (.inl (hzu ▸ hu)), State.endStray_stays hm hz]
  · exact ⟨z, hz, hzy, hfree.mem.trans (by simp)⟩
  · rw [hzh, Launch.homes_congr (l := l) hml, ← hd]
    refine congrArg _ (funext fun d => (hfree.dieDead d).trans (State.dieDead_congr ?_ ?_ ?_ d))
    · rw [State.setBlock_tiles, hunits.tiles]
    · rw [State.setBlock_clusters, hunits.clusters]
    · rw [State.setBlock_dies, hunits.dies]

theorem exec_swapOut_swaps (hl : s.launch? b.lid = some l) (hb : s.block? b = some x) (hp : x.phase = .resident ∨ x.phase = .parked)
    (hf : x.fate = some .swapOut) (hs : s.stoppedWhole x = true) (hv : (x.waves.all fun y => y.vcnt == 0) = true) :
    exec (.swapOut b) s = .next (s.swapBlock b l x) := by
  rw [← State.trySwap_swaps hl hb hp hf hs hv]
  rfl

theorem exec_swapOut_placed (hl : s.launch? b.lid = some l) (hb : s.block? b = some x) (he : exec (.swapOut b) s = .next (s.swapBlock b l x))
    (img : List Byte) (k : Nat) (s1 : State) (p : Nat) (hi : s.blockImage l x b.blk = (img, k))
    (hp : s.placeImage l.ctx x.die img (s.imageBad l x k) = (s1, .ok (some p))) (hu : x.unresolved ≠ [])
    (hd : (l.homes b.blk x.home).all s.dieDead = false) :
    ∃ t y, exec (.swapOut b) s = .next t ∧ t.block? b = some y ∧ y.phase = .swapped ∧ y.fate = none ∧ y.imgPage = p ∧
      y.imgLen = (img.length + 4095) / 4096 ∧ y.unresolved = x.unresolved ∧ t.mem = s1.mem := by
  obtain ⟨y, hy, hshell, hm⟩ := State.swapBlock_block hl hb hi hp hu hd
  exact ⟨_, y, he, hy, Block.shell_congr hshell (·.phase), Block.shell_congr hshell (·.fate), Block.shell_congr hshell (·.imgPage),
    Block.shell_congr hshell (·.imgLen), Block.shell_congr hshell (·.unresolved), hm⟩

end

end Sys2Proof.Machine
end

section
/-!
PROOFS. Records that service software has resolved (O48; 14 R312): the block goes on or ends, and nothing else that the record does not
name changes.
-/

namespace Sys2Proof.Machine

open Sys2Proof

section
variable {s : State} {b : BlockRef} {x : Block} {ctx k res wav : Nat}

theorem exec_faultRecordResolve_stays {s1 : State} (hr : s.resolution ctx k = (s1, some (res, wav))) (h1 : res ≠ 1) (h2 : res ≠ 2) :
    exec (.faultRecordResolve ctx k) s = .next s1 := by
  show execFaultRecordResolve ctx k s = _
  simp [execFaultRecordResolve, hr, h1, h2]

/-! ## What a record does not name -/

theorem State.resolveBlock_stays (h : ∀ z, s.block? b = some z → k ∉ z.unresolved) : s.resolveBlock b k res = s := by
  unfold State.resolveBlock
  split
  · rfl
  · next z hz => simp [h z hz]

theorem State.resolveTile_stays {t : TileRef} (hc : ∀ c ∈ (s.tile t).copyQ, c.paused ≠ some (some k))
    (hk : ∀ c ∈ (s.tile t).kvQ, c.paused ≠ some (some k)) : s.resolveTile ctx k res wav t = s := by
  have hcopy : ((s.tile t).copyQ.filter fun c => c.ctx == ctx && c.paused == some (some k)) = [] :=
    List.filter_eq_nil_iff.mpr fun c hm => by simp [hc c hm]
  have hkv : ((s.tile t).kvQ.filter fun c => c.ctx == ctx && c.paused == some (some k)) = [] :=
    List.filter_eq_nil_iff.mpr fun c hm => by simp [hk c hm]
  simp only [State.resolveTile, hcopy, hkv, List.foldl_nil]

/-- A launch none of whose group copies and pending blocks waits for the record. -/
def Launch.Unnamed (l : Launch) (k : Nat) : Prop :=
  (∀ r ∈ l.cgrps, ∀ i ∈ r.issues, i.paused ≠ some (some k)) ∧ ∀ a ∈ l.admitFault, k ∉ a.2.1

theorem Launch.Unnamed.congr {l m : Launch} (h : l.Unnamed k) (hg : m.gist = l.gist) : m.Unnamed k := by
  have hm := congrArg (fun g : Launch => g.Unnamed k) hg
  exact hm.mpr h

theorem State.resolveGrps_stays (h : ∀ e ∈ s.launches, e.2.Unnamed k) :
    s.launches.foldl (fun s e =>
      if e.2.ctx != ctx then s
      else e.2.cgrps.foldl (fun s r => r.issues.foldl (fun s i =>
        if i.paused == some (some k) then s.resolveGrp e.1 r.g i.id res else s) s) s) s = s := by
  refine foldl_stays fun e he => ?_
  have hgrps : e.2.cgrps.foldl (fun s r => r.issues.foldl (fun s i =>
      if i.paused == some (some k) then s.resolveGrp e.1 r.g i.id res else s) s) s = s :=
    foldl_stays fun r hr => foldl_stays fun i hi => by simp [(h e he).1 r hr i hi]
  rw [hgrps, ite_self]

theorem State.resolveCodes_stays (h : ∀ e ∈ s.launches, e.2.Unnamed k) :
    s.launches.foldl (fun s e =>
      if e.2.ctx != ctx then s else e.2.admitFault.foldl (fun s a => s.resolveCode ctx k res e.1 a) s) s = s := by
  refine foldl_stays fun e he => ?_
  have hcodes : e.2.admitFault.foldl (fun s a => s.resolveCode ctx k res e.1 a) s = s :=
    foldl_stays fun a ha => by simp [State.resolveCode, (h e he).2 a ha]
  rw [hcodes, ite_self]

/-! ## The block of a record -/

/-- A parked block whose waves have landed and wait for one record alone. -/
structure Block.Awaits (x : Block) (k : Nat) : Prop where
  phase : x.phase = .parked
  unresolved : x.unresolved = [k]
  live : ∃ v ∈ x.waves, v.live = true
  waves : ∀ v ∈ x.waves, v.owed = none ∧ (v.live = true → v.stop = .landed)
  killed : x.killed = false
  code : x.awaitsCode = false
  fate : x.fate ≠ some .swapOut

/-- The block once its record is resolved. -/
def Block.resolve (x : Block) (kill : Bool) : Block := { x with unresolved := [], killed := kill }

theorem Block.Awaits.resolved (h : x.Awaits k) (kill : Bool) : (x.resolve kill).Resolved :=
  ⟨rfl, fun z hz => (h.waves z hz).1, h.live⟩

theorem State.resolveBlock_settles (hb : s.block? b = some x) (h : x.Awaits k) :
    s.resolveBlock b k res = (s.setBlock b (x.resolve (res == 2))).settleBlock b := by
  simp [State.resolveBlock, hb, h.unresolved, h.killed, Block.resolve]

/-- A wave that goes on. -/
def Wave.goOn (v : Wave) : Wave := if v.live then { v with stop := .none } else v

def Block.goOn (x : Block) : Block := { x with phase := .resident, fate := none, waves := x.waves.map Wave.goOn }

/-- Where no debug stop holds the tile, every live wave of a block that is resumed goes on. -/
theorem State.resumeBlock_eq (hb : s.block? b = some x) (hd : ∀ odd, ((s.tile x.tileRef).part odd).dbg = none) :
    s.resumeBlock b = s.setBlock b x.goOn := by
  have hgo : ((List.range x.waves.length).zip x.waves).map (Wave.goOn ∘ Prod.snd) = x.waves.map Wave.goOn := by
    rw [← List.map_map, List.map_snd_zip (by simp)]
  simp only [State.resumeBlock, hb, State.haltsIn, hd, Option.isSome_none, Bool.false_eq_true, if_false]
  rw [Block.goOn, ← hgo]
  rfl

/-- The resolution of its record changes a block, and beside it only what its waves held on their tile. -/
structure State.Resolves (s u : State) (b : BlockRef) (y : Block) : Prop where
  block : u.block? b = some y
  rest : (s.setBlock b y).Rescheduled u
  done : y.unresolved = []

theorem State.resolveBlock_resumes (hb : s.block? b = some x) (h : x.Awaits k) (hd : ∀ odd, ((s.tile x.tileRef).part odd).dbg = none) :
    s.Resolves (s.resolveBlock b k 1) b (x.resolve false).goOn := by
  have hb1 := State.block?_setBlock hb (x.resolve false)
  have he : s.resolveBlock b k 1 = s.setBlock b (x.resolve false).goOn := by
    rw [State.resolveBlock_settles hb h]
    show (s.setBlock b (x.resolve false)).settleBlock b = _
    rw [State.settleBlock_resumes hb1 h.phase (h.resolved false) rfl h.code h.fate, State.resumeBlock_eq hb1 fun odd => ?_,
      State.setBlock_setBlock]
    rw [State.tile, State.setBlock_tiles]
    exact hd odd
  rw [he]
  exact ⟨State.block?_setBlock hb _, .refl _, rfl⟩

theorem State.resolveBlock_kills (hb : s.block? b = some x) (h : x.Awaits k) :
    s.Resolves (s.resolveBlock b k 2) b (x.resolve true).dead := by
  have hb1 := State.block?_setBlock hb (x.resolve true)
  have hr := h.resolved true
  have he : s.resolveBlock b k 2 = (s.setBlock b (x.resolve true)).killBlock b := by
    rw [State.resolveBlock_settles hb h]
    exact State.settleBlock_kills hb1 h.phase hr rfl fun v hv hl => (h.waves v hv).2 hl
  have hended : (x.resolve true).ended = false := by
    have := hr.settles h.phase
    simp only [Bool.or_eq_false_iff] at this
    exact this.1.1
  have hk := State.killBlock_parked hb1 h.phase hended
  rw [State.setBlock_setBlock] at hk
  rw [he]
  exact ⟨hk.noGear b _ (State.block?_setBlock hb _) (Block.dead_noGear _), hk, rfl⟩

/-! ## Nothing else changes -/

section
variable {u : State} {y : Block} (h : s.Resolves u b y)
include h

theorem State.Resolves.blocks {c : BlockRef} (hs : c ≠ b → ∀ z, s.block? c = some z → k ∉ z.unresolved) : u.resolveBlock c k res = u := by
  refine State.resolveBlock_stays fun z hz => ?_
  by_cases hc : c = b
  · subst hc
    obtain rfl := Option.some.inj (h.block.symm.trans hz)
    simp [h.done]
  · obtain ⟨d, hd, hzd⟩ := h.rest.block_back hz
    rw [State.block?_setBlock_other _ _ hc] at hd
    rw [Block.shell_congr hzd (·.unresolved)]
    exact hs hc d hd

theorem State.Resolves.tiles (hs : ∀ t, (∀ c ∈ (s.tile t).copyQ, c.paused ≠ some (some k)) ∧ ∀ c ∈ (s.tile t).kvQ, c.paused ≠ some (some k))
    (t : TileRef) : u.resolveTile ctx k res wav t = u := by
  obtain ⟨hc, hk, -⟩ := h.rest.tile t
  have ht : (s.setBlock b y).tile t = s.tile t := by rw [State.tile, State.setBlock_tiles, State.tile]
  exact State.resolveTile_stays (by rw [hc, ht]; exact (hs t).1) (by rw [hk, ht]; exact (hs t).2)

theorem State.Resolves.launches (hs : ∀ e ∈ s.launches, e.2.Unnamed k) : ∀ e ∈ u.launches, e.2.Unnamed k := by
  intro e he
  obtain ⟨d, hd, hed⟩ := launches_of_gist (h.rest.gist.trans (s.gist_setBlock b y)) he
  exact (hs d hd).congr hed

end

/-- A record that names one block, and neither an engine's command nor a group copy nor code, does what it does to that block. -/
theorem exec_faultRecordResolve_resolves {s1 : State} {y : Block} (hr : s.resolution ctx k = (s1, some (res, wav)))
    (hres : res = 1 ∨ res = 2) (hm : b ∈ s1.blocksOf ctx) (h : s1.Resolves (s1.resolveBlock b k res) b y)
    (hb : ∀ c z, c ∈ s1.blocksOf ctx → c ≠ b → s1.block? c = some z → k ∉ z.unresolved)
    (ht : ∀ t, (∀ c ∈ (s1.tile t).copyQ, c.paused ≠ some (some k)) ∧ ∀ c ∈ (s1.tile t).kvQ, c.paused ≠ some (some k))
    (hl : ∀ e ∈ s1.launches, e.2.Unnamed k) :
    exec (.faultRecordResolve ctx k) s = .next (s1.resolveBlock b k res) := by
  have hblocks : (s1.blocksOf ctx).foldl (fun s b => s.resolveBlock b k res) s1 = s1.resolveBlock b k res :=
    foldl_once hm rfl (fun c hc hne => State.resolveBlock_stays fun z hz => hb c z hc hne hz)
      fun c hc => h.blocks fun hne z hz => hb c z hc hne hz
  have htiles : (s1.resolveBlock b k res).tiles.foldl (fun s e => s.resolveTile ctx k res wav (tileOfKey e.1)) (s1.resolveBlock b k res) =
      s1.resolveBlock b k res := foldl_stays fun e _ => h.tiles ht (tileOfKey e.1)
  have hgo : (res != 1 && res != 2) = false := by rcases hres with rfl | rfl <;> rfl
  show execFaultRecordResolve ctx k s = _
  simp only [execFaultRecordResolve, hr, hgo, hblocks, htiles, State.resolveGrps_stays (h.launches hl), State.resolveCodes_stays (h.launches hl)]
  rfl

/-- What becomes of a block whose record is resolved. -/
theorem exec_faultRecordResolve_block {s1 : State} (hr : s.resolution ctx k = (s1, some (res, wav))) (hres : res = 1 ∨ res = 2)
    (hm : b ∈ s1.blocksOf ctx) (hx : s1.block? b = some x) (h : x.Awaits k) (hd : ∀ odd, ((s1.tile x.tileRef).part odd).dbg = none)
    (hb : ∀ c z, c ∈ s1.blocksOf ctx → c ≠ b → s1.block? c = some z → k ∉ z.unresolved)
    (ht : ∀ t, (∀ c ∈ (s1.tile t).copyQ, c.paused ≠ some (some k)) ∧ ∀ c ∈ (s1.tile t).kvQ, c.paused ≠ some (some k))
    (hl : ∀ e ∈ s1.launches, e.2.Unnamed k) :
    ∃ t z, exec (.faultRecordResolve ctx k) s = .next t ∧ t.block? b = some z ∧ z.unresolved = [] ∧
      (res = 1 → z.phase = .resident ∧ z.fate = none ∧ z.killed = false ∧
        z.waves = x.waves.map fun v => if v.live then { v with stop := .none } else v) ∧
      (res = 2 → z.killed = true ∧ (∀ v ∈ z.waves, v.live = false) ∧ ((∀ v ∈ x.waves, v.vcnt = 0) → z.phase = .ended)) := by
  rcases hres with rfl | rfl
  · have hgoes := State.resolveBlock_resumes hx h hd
    refine ⟨_, _, exec_faultRecordResolve_resolves hr (.inl rfl) hm hgoes hb ht hl, hgoes.block, hgoes.done, fun _ => ?_, by simp⟩
    exact ⟨rfl, rfl, rfl, rfl⟩
  · have hdies := State.resolveBlock_kills hx h
    refine ⟨_, _, exec_faultRecordResolve_resolves hr (.inr rfl) hm hdies hb ht hl, hdies.block, hdies.done, by simp, fun _ => ?_⟩
    refine ⟨rfl, Block.dead_waves _, fun hv => if_pos ?_⟩
    exact List.all_eq_true.mpr fun v hvm => by simp [hv v hvm]

end

end Sys2Proof.Machine
end

section
/-!
PROOFS. Fault rings and writes that are tried again (O48; 17 R350, R358), and the stops and resolutions as a whole.
-/

namespace Sys2Proof.Machine

open Sys2Proof

section
variable {s u : State} {ctx : Nat} {c : Context}

/-! ## Blocks of a context that have nothing to settle -/

/-- Every one of these blocks stands on its tile, or has ended, and is not killed. -/
def State.Quiet (u : State) (bs : List BlockRef) : Prop :=
  ∀ b ∈ bs, ∃ y, u.block? b = some y ∧ (y.phase = .resident ∨ y.phase = .ended) ∧ y.killed = false

theorem State.Quiet.congr {t : State} {bs : List BlockRef} (h : u.Quiet bs) (ht : t.launches = u.launches) : t.Quiet bs := fun b hb => by
  rw [State.block?_congr ht]
  exact h b hb

theorem State.Quiet.setBlock {bs : List BlockRef} {d : BlockRef} {x y : Block} (h : u.Quiet bs) (hd : u.block? d = some y)
    (hp : x.phase = .resident) (hk : x.killed = false) : (u.setBlock d x).Quiet bs := fun b hb => by
  by_cases he : b = d
  · exact ⟨x, by rw [he, State.block?_setBlock hd], .inl hp, hk⟩
  · rw [State.block?_setBlock_other _ _ he]
    exact h b hb

theorem State.Quiet.settle {bs : List BlockRef} (h : u.Quiet bs) : bs.foldl State.settleBlock u = u :=
  foldl_stays fun b hb => by
    obtain ⟨y, hy, hp, hk⟩ := h b hb
    exact State.settleBlock_quiet hy hp hk

/-! ## The ring (17 R350) -/

theorem State.drainRing_eq (hc : s.ctx? ctx = some c) (hd : s.drainHeld ctx (c.held.length + 1) = u) (hq : u.Quiet (s.blocksOf ctx)) :
    s.drainRing ctx = u := by
  simp only [State.drainRing, hc, hd]
  exact hq.settle

theorem State.drainHeld_none (hc : s.ctx? ctx = some c) (hh : c.held = []) (n : Nat) :
    s.drainHeld ctx (n + 1) = s.setCtx ctx { c with heldRaised := false } := by
  simp only [State.drainHeld, hc, hh]

theorem State.drainRing_none (hc : s.ctx? ctx = some c) (hh : c.held = []) (hq : s.Quiet (s.blocksOf ctx)) :
    s.drainRing ctx = s.setCtx ctx { c with heldRaised := false } :=
  State.drainRing_eq hc (State.drainHeld_none hc hh _) (hq.congr rfl)

theorem exec_faultRingRoom_none (hc : s.ctx? ctx = some c) (hh : c.held = []) (hq : s.Quiet (s.blocksOf ctx)) :
    exec (.faultRingRoom ctx) s = .next (s.setCtx ctx { c with heldRaised := false }) :=
  congrArg Host.Outcome.next (State.drainRing_none hc hh hq)

theorem exec_faultRingRoom_full {r : FaultRec} {o : RecOwner} {s1 : State} (hc : s.ctx? ctx = some c) (hh : c.held = [(r, o)])
    (ht : s.tryRecord ctx r = (s1, .full)) (hq : s1.Quiet (s.blocksOf ctx)) : exec (.faultRingRoom ctx) s = .next s1 := by
  refine congrArg Host.Outcome.next (State.drainRing_eq hc ?_ hq)
  simp only [hh, State.drainHeld, hc, ht]

/-- The record of a wave that has been written: the wave owes it no longer, and its block waits for its resolution. -/
def Block.file (x : Block) (wav : Nat) (v : Wave) (k : Nat) : Block :=
  { x with waves := x.waves.set wav { v with owed := none }, unresolved := x.unresolved ++ [k] }

theorem State.recorded_wave {w : WaveRef} {y : Block} {v : Wave} (hy : s.block? w.block = some y) (hv : y.waves[w.wav]? = some v) (k : Nat) :
    s.recorded (.wave w) k = s.setBlock w.block (y.file w.wav v k) := by
  have h1 := State.block?_setWave hy { v with owed := none }
  simp only [State.recorded]
  rw [State.modWave_eq ((State.wave?_eq hy).trans hv), State.modBlock_eq h1, State.setWave_eq hy, State.setBlock_setBlock]
  rfl

theorem State.setBlock_ctx? (s : State) (b : BlockRef) (x : Block) (n : Nat) : (s.setBlock b x).ctx? n = s.ctx? n := by
  rw [State.ctx?, State.setBlock_ctxs, State.ctx?]

theorem exec_faultRingRoom_wave {r : FaultRec} {w : WaveRef} {s1 : State} {k : Nat} {y : Block} {v : Wave} (hc : s.ctx? ctx = some c)
    (hh : c.held = [(r, .wave w)]) (ht : s.tryRecord ctx r = (s1, .wrote k)) (hq : s1.Quiet (s.blocksOf ctx))
    (hy : s1.block? w.block = some y) (hv : y.waves[w.wav]? = some v) (hp : y.phase = .resident) (hk : y.killed = false) :
    ∃ t c1 z v1, exec (.faultRingRoom ctx) s = .next t ∧ t.ctx? ctx = some c1 ∧ c1.held = [] ∧ t.mem = s1.mem ∧
      t.block? w.block = some z ∧ z.unresolved = y.unresolved ++ [k] ∧ z.waves[w.wav]? = some v1 ∧ v1.owed = none := by
  obtain ⟨d, hd⟩ := State.ctx?_tryRecord hc r
  rw [ht] at hd
  have hl2 := State.modCtx_launches s1 ctx fun c => { c with held := [], heldRaised := false }
  have hm2 := State.modCtx_mem s1 ctx fun c => { c with held := [], heldRaised := false }
  have hc2 := State.ctx?_modCtx hd fun c => { c with held := [], heldRaised := false }
  have hdrain : s.drainHeld ctx (c.held.length + 1) =
      ((s1.modCtx ctx fun c => { c with held := [], heldRaised := false }).recorded (.wave w) k).drainHeld ctx 1 := by
    rw [hh]
    conv_lhs => rw [List.length_singleton, State.drainHeld]
    simp only [hc, hh, ht]
  generalize (s1.modCtx ctx fun c => { c with held := [], heldRaised := false }) = s2 at hl2 hm2 hc2 hdrain
  have hy2 := (State.block?_congr hl2 w.block).trans hy
  rw [State.recorded_wave hy2 hv, State.drainHeld_none ((State.setBlock_ctx? _ _ _ _).trans hc2) rfl] at hdrain
  have hq2 : (s2.setBlock w.block (y.file w.wav v k)).Quiet (s.blocksOf ctx) := (hq.congr hl2).setBlock hy2 hp hk
  refine ⟨_, _, y.file w.wav v k, _, congrArg Host.Outcome.next (State.drainRing_eq hc hdrain (hq2.congr rfl)), Tab.get?_put_same _ _ _,
    rfl, ?_, (State.block?_congr rfl _).trans (State.block?_setBlock hy2 _), rfl,
    List.getElem?_set_self (List.getElem?_eq_some_iff.mp hv).1, rfl⟩
  rw [State.setCtx_mem, State.setBlock_mem, hm2]

/-! ## Writes that are tried again -/

theorem State.freeOwed_none (hc : s.ctx? ctx = some c) (hf : c.unfreed = []) : s.freeOwed ctx = s := by
  simp only [State.freeOwed, hc, hf, List.foldl_nil]

/-- The last part of the retry: the statuses that a context's launches owe are written. -/
def State.retryStatuses (s : State) (ctx : Nat) : State :=
  s.launches.foldl (fun s e => match e.2.owedState with
    | some n => if e.2.ctx == ctx then s.putStatus e.1 n else s
    | none => s) s

theorem State.retryStatuses_none (h : ∀ e ∈ s.launches, e.2.ctx = ctx → e.2.owedState = none) : s.retryStatuses ctx = s := by
  refine foldl_stays fun e he => ?_
  split
  · next n hn =>
    have hne : e.2.ctx ≠ ctx := fun hctx => by simp [h e he hctx] at hn
    exact if_neg (by simpa using hne)
  · rfl

theorem State.retryStatuses_one {lid n : Nat} {l : Launch} (hl : s.launches = [(lid, l)]) (hc : l.ctx = ctx) (ho : l.owedState = some n) :
    s.retryStatuses ctx = s.putStatus lid n := by
  simp [State.retryStatuses, hl, hc, ho]

/-- The statuses are all that is tried again when the ring, the swap area's bitmap and the swap-outs have nothing left to do. -/
theorem exec_regfaultRetry_eq (hc : s.ctx? ctx = some c) (hh : c.held = []) (hf : c.unfreed = []) (hq : s.Quiet (s.blocksOf ctx))
    (hs : ∀ b ∈ s.blocksOf ctx, ∀ y, s.block? b = some y → y.fate ≠ some .swapOut) :
    exec (.regfaultRetry ctx) s = .next ((s.setCtx ctx { c with heldRaised := false }).retryStatuses ctx) := by
  have hfree := State.freeOwed_none (s := s.setCtx ctx { c with heldRaised := false }) (Tab.get?_put_same _ _ _) hf
  have hswap : ((s.setCtx ctx { c with heldRaised := false }).blocksOf ctx).foldl State.trySwap
      (s.setCtx ctx { c with heldRaised := false }) = s.setCtx ctx { c with heldRaised := false } := by
    refine foldl_stays fun b hb => ?_
    obtain ⟨y, hy, -⟩ := hq b hb
    exact State.trySwap_stays ((State.block?_congr rfl b).trans hy) (hs b hb y hy)
  show execRegfaultRetry ctx s = _
  simp only [execRegfaultRetry, State.drainRing_none hc hh hq, hfree, hswap]
  rfl

theorem exec_regfaultRetry_none (hc : s.ctx? ctx = some c) (hh : c.held = []) (hf : c.unfreed = []) (hq : s.Quiet (s.blocksOf ctx))
    (hs : ∀ b ∈ s.blocksOf ctx, ∀ y, s.block? b = some y → y.fate ≠ some .swapOut)
    (ho : ∀ e ∈ s.launches, e.2.ctx = ctx → e.2.owedState = none) :
    exec (.regfaultRetry ctx) s = .next (s.setCtx ctx { c with heldRaised := false }) := by
  rw [exec_regfaultRetry_eq hc hh hf hq hs, State.retryStatuses_none]
  exact ho

theorem exec_regfaultRetry_one {lid n : Nat} {l : Launch} (hc : s.ctx? ctx = some c) (hh : c.held = []) (hf : c.unfreed = [])
    (hl : s.launches = [(lid, l)]) (hlc : l.ctx = ctx) (hb : l.blocks = []) (ho : l.owedState = some n) :
    exec (.regfaultRetry ctx) s = .next ((s.setCtx ctx { c with heldRaised := false }).putStatus lid n) := by
  have hblocks : s.blocksOf ctx = [] := by simp [State.blocksOf, hl, hlc, hb]
  rw [exec_regfaultRetry_eq hc hh hf (by simp [State.Quiet, hblocks]) (by simp [hblocks]), State.retryStatuses_one _ hlc ho]
  exact hl

end

/-! ## The statements -/

/-- Settles O48: what each stop does to the one block it is about, and that beside it only the sets of its tile change. -/
theorem stopEvents : Obligations.StopEvents := by
  unfold Obligations.StopEvents
  intro s
  refine ⟨fun w x hx => ⟨exec_stopLanded_stays hx, fun hs hp hf hl hb hn hk => ?_, fun hs hp hm hr hn ho hl hk he hd => ?_,
      exec_waveSlotRelease_releases hx, exec_waveSlotRelease_stays hx⟩,
    fun b x hb => ⟨exec_park hb, exec_park_stays hb, fun l hl hp hf hs hv => ?_, fun hf => ?_⟩,
    fun ctx k s1 res wav hr => ⟨exec_faultRecordResolve_stays hr, fun b y hres hm hy hp hu hl hw hk hc hf he ho hb ht hn => ?_⟩,
    fun ctx c hc => ⟨exec_faultRingRoom_none hc, fun r w s1 k y v hh ht hq => exec_faultRingRoom_wave hc hh ht hq,
      fun r s1 hh => exec_faultRingRoom_full hc hh, exec_regfaultRetry_none hc,
      fun lid l n hl hlc hb ho hh hf => exec_regfaultRetry_one hc hh hf hl hlc hb ho⟩⟩
  · obtain ⟨t, ht, b, v, htb, -, -, hv, hstop, hstep, hlen⟩ := exec_stopLanded_lands hx ⟨hs, hp, hf, hl, hb, hn⟩ hk
    exact ⟨t, v, ht, (State.wave?_eq htb).trans hv, hstop, hstep, hlen⟩
  · have hland : x.MayLand := ⟨hs, hp, by simp [Wave.unfinished, hm, hr], by simp [Wave.live, hm], by simp [Site.pastBarB, hm], hn⟩
    rw [exec_stopLanded_between hx hland hk hm ho hl he hd, funext Block.settleFate_eq]
  · have he := exec_swapOut_swaps hl hb hp hf hs hv
    exact ⟨he, exec_swapOut_placed hl hb he⟩
  · exact congrArg Host.Outcome.next (State.trySwap_stays hb hf)
  · exact exec_faultRecordResolve_block hr hres hm hy ⟨hp, hu, hl, hw, hk, hc, hf⟩ (Tile.part_dbg he ho) hb ht hn

end Sys2Proof.Machine
end

section
/-!
PROOFS. How the integer operations complete (06 R116-R119): the lanes of an operation that tables a number in each, and the table of exact
results (O1), each wrapped or saturated once.
-/

namespace Sys2Proof

open Sys2Proof.Machine

theorem Names.ty_eq {c : Cur} {r : Ref} {t : Ty} {v : Value} (h : Names c r t v) : v.ty = t := h.2.2

theorem Names.ne_zero {c : Cur} {r : Ref} {t : Ty} {v : Value} (h : Names c r t v) : r ≠ 0 := h.1

theorem Operand.names {c : Cur} {given : Bool} {r : Ref} {t : Ty} {v : Value} (h : Operand c given r t v) (hg : given = true) :
    Names c r t v := by
  subst hg
  exact h

end Sys2Proof

namespace Sys2Proof.Machine

open Sys2Proof

/-! ## Wrapping and saturating (R116) -/

theorem wrapTo_lt (t : Ty) (z : Int) : wrapTo t z < 2 ^ t.bits := by
  have hpos : (0 : Int) < (2 ^ t.bits : Nat) := by exact_mod_cast Nat.two_pow_pos _
  have hlt := Int.emod_lt_of_pos z hpos
  unfold wrapTo
  omega

theorem wrapSat_lt (sat : Bool) (t : Ty) (z : Int) : wrapSat sat t z < 2 ^ t.bits := by
  cases sat <;> exact wrapTo_lt t _

theorem wrapSat_mod (sat : Bool) (t : Ty) (z : Int) : wrapSat sat t z % 2 ^ t.bits = wrapSat sat t z :=
  Nat.mod_eq_of_lt (wrapSat_lt sat t z)

theorem delivers_wrapTo (t : Ty) (z : Int) : Delivers false t z (wrapTo t z) :=
  Int.toNat_of_nonneg (Int.emod_nonneg z (by exact_mod_cast (Nat.two_pow_pos _).ne'))

theorem delivers_wrapSat (sat : Bool) (t : Ty) (z : Int) : Delivers sat t z (wrapSat sat t z) := by
  cases sat <;> exact delivers_wrapTo t _

theorem delivers_lane (sat : Bool) (t : Ty) (z : Int) : Delivers sat t z (wrapSat sat t z % 2 ^ t.bits) := by
  rw [wrapSat_mod]
  exact delivers_wrapSat sat t z

/-- The modifiers of an operation that takes `.sat` (R116). -/
theorem modSat_eq {md : BitVec 6} (h : md = 0 ∨ md = 32) : onlySat md.toNat = true ∧ modSat md.toNat = (md == 32) := by
  rcases h with rfl | rfl <;> exact ⟨rfl, rfl⟩

/-! ## Lanes that an operation tables -/

section
variable {op : Op} {f : Fields} {s : State} {x : Site} {fr : Frame} {c : Cur} {T R : Ty} {fm : Form} {a b cc : Value} {m : LaneMask}
  {g : Fin 32 → Nat} {P : Fin 32 → Nat → Prop} (hx : AtPlace s x fr c) (hT : f.typ.toNat = T.code)
  (hf : op.form T.code f.md.toNat = some fm) (ha : fetchArg c fm.a f.a = some a) (hb : fetchArg c fm.b f.b = some b)
  (hc : fetchArg c fm.c f.c = some cc) (hp : fm.pred = true) (hm : Active c f.p m)
  (hcore : op.core (laneIn x c f m T a b cc) s = .done s (lanesOf R g))
include hx hT hf ha hb hc hp hm hcore

theorem completes_lanes_opA (hpass : fm.pass = .opA) (hR : a.ty = R) (hP : ∀ k, m.has k.val = true → P k (g k % 2 ^ R.bits)) :
    CompletesBy (runOp op f s) s x op.opc R m a.nat P :=
  completesBy_opA hx (hT ▸ Ty.ofCode_code T) (hT ▸ hf) ha hb hc hp hm hpass hcore rfl hR fun k hk => by
    rw [lanesOf, Value.nat_tab]
    exact hP k hk

theorem completes_lanes_zero (hpass : fm.pass = .zero) (hP : ∀ k, m.has k.val = true → P k (g k % 2 ^ R.bits)) :
    CompletesBy (runOp op f s) s x op.opc R m (fun _ => 0) P :=
  completesBy_zero hx (hT ▸ Ty.ofCode_code T) (hT ▸ hf) ha hb hc hp hm hpass hcore rfl fun k hk => by
    rw [lanesOf, Value.nat_tab]
    exact hP k hk

end

end Sys2Proof.Machine

namespace Sys2Proof

open Sys2Proof.Machine

/-! ## The table of exact results (R119) -/

/-- The operand form that a row gives a type. -/
def IntRow.form (e : IntRow) (T : Ty) : Form :=
  { a := .need [T], b := if decide (2 ≤ e.args) then .need [T] else .absent, c := if decide (3 ≤ e.args) then .need [T] else .absent,
    pred := true, res := e.res T, pass := if e.zero then .zero else .opA }

/-- The operands that a row takes have the type of the instruction. -/
structure IntRow.Typed (e : IntRow) (i : OpIn) : Prop where
  a : i.a.ty = i.ty
  b : 2 ≤ e.args → i.b.ty = i.ty
  c : 3 ≤ e.args → i.c.ty = i.ty

/-- An operation is that of a row: it runs for the row's instruction, takes the row's operands, and tables the row's exact result, wrapped
or saturated. -/
structure IntRow.Meaning (e : IntRow) (op : Op) : Prop where
  exec : ∀ f s, exec (e.con f) s = runOp op f s
  opc : op.opc = e.opc
  form : ∀ T ∈ e.types, ∀ md : BitVec 6, md = 0 ∨ e.sat = true ∧ md = 32 → op.form T.code md.toNat = some (e.form T)
  res : e.zero = false → ∀ T, e.res T = T
  core : ∀ i s, e.Typed i → (e.sat = false → modSat i.md = false) →
    op.core i s =
      .done s (lanesOf (e.res i.ty) fun k => wrapSat (modSat i.md) (e.res i.ty) (e.F i.ty (i.a.nat k) (i.b.nat k) (i.c.nat k)))

theorem byteOf_eq (t : Ty) (a k : Nat) : byteOf t a k = byteInt t a k := by
  simp [byteOf, byteInt, Nat.shiftRight_eq_div_pow]

/-- A form for every type of a list, at the modifiers 0 and, where the row takes it, `.sat`. -/
theorem formFor_modifier {ts : List Ty} {T : Ty} (hT : T ∈ ts) {sat : Bool} {md : BitVec 6} (hmd : md = 0 ∨ sat = true ∧ md = 32)
    (g : Ty → Form) : formFor ts T.code (if sat then onlySat md.toNat else md.toNat == 0) g = some (g T) := by
  refine formFor_some (Ty.ofCode_code T) hT ?_
  rcases hmd with rfl | ⟨rfl, rfl⟩
  · cases sat <;> rfl
  · rfl

/-- The rows of two operands of one type, whose exact result is a function of their exact values. -/
theorem meaning_intOp2 {con : Fields → Instr} {opc : Nat} {sat : Bool} {F : Ty → Int → Int → Int}
    (hexec : ∀ f s, exec (con f) s = runOp (intOp2 opc sat F) f s) :
    IntRow.Meaning
      { con := con, opc := opc, types := tyInt, args := 2, sat := sat, res := id, zero := false,
        F := fun t a b _ => F t (toInt t a) (toInt t b) } (intOp2 opc sat F) where
  exec := hexec
  opc := rfl
  form _ hT _ hmd := formFor_modifier hT hmd _
  res _ _ := rfl
  core i s hi _ := by simp only [intOp2, intCore, OpIn.ia, OpIn.ib, hi.a, hi.b le_rfl, id]

theorem meaning_mulw :
    IntRow.Meaning
      { con := .mulw, opc := 0x004, types := tyInt32, args := 2, sat := false, res := wideTy, zero := true, F := onAB (· * ·) } opMulw where
  exec _ _ := rfl
  opc := rfl
  form _ hT _ hmd := formFor_modifier hT hmd _
  res h := by cases h
  core i s hi hsat := by simp only [opMulw, OpIn.ia, OpIn.ib, hi.a, hi.b le_rfl, onAB, hsat rfl, wrapSat, Bool.false_eq_true, if_false]

theorem meaning_mad :
    IntRow.Meaning
      { con := .mad, opc := 0x005, types := tyInt, args := 3, sat := true, res := id, zero := false,
        F := fun t a b c => toInt t a * toInt t b + toInt t c } opMad where
  exec _ _ := rfl
  opc := rfl
  form _ hT _ hmd := formFor_modifier (sat := true) hT hmd _
  res _ _ := rfl
  core i s hi _ := by simp only [opMad, intCore, OpIn.ia, OpIn.ib, OpIn.ic, hi.a, hi.b (by decide), hi.c le_rfl, id]

theorem meaning_neg :
    IntRow.Meaning
      { con := .neg, opc := 0x008, types := tySigned, args := 1, sat := true, res := id, zero := false, F := onAB fun x _ => -x } opNeg where
  exec _ _ := rfl
  opc := rfl
  form _ hT _ hmd := formFor_modifier (sat := true) hT hmd _
  res _ _ := rfl
  core i s hi _ := by simp only [opNeg, intCore, OpIn.ia, hi.a, onAB, id]

theorem natAbs_eq_ite (z : Int) : (z.natAbs : Int) = if z < 0 then -z else z := by
  split <;> omega

theorem meaning_abs :
    IntRow.Meaning
      { con := .abs, opc := 0x009, types := tySigned, args := 1, sat := true, res := id, zero := false,
        F := onAB fun x _ => if x < 0 then -x else x } opAbs where
  exec _ _ := rfl
  opc := rfl
  form _ hT _ hmd := formFor_modifier (sat := true) hT hmd _
  res _ _ := rfl
  core i s hi _ := by simp only [opAbs, intCore, OpIn.ia, hi.a, onAB, id, natAbs_eq_ite]

theorem meaning_dp4 :
    IntRow.Meaning
      { con := .dp4, opc := 0x01F, types := tyInt32, args := 3, sat := true, res := id, zero := false,
        F := fun t a b c => toInt t c + (byteOf t a 0 * byteOf t b 0 + byteOf t a 1 * byteOf t b 1 +
          byteOf t a 2 * byteOf t b 2 + byteOf t a 3 * byteOf t b 3) } opDp4 where
  exec _ _ := rfl
  opc := rfl
  form _ hT _ hmd := formFor_modifier (sat := true) hT hmd _
  res _ _ := rfl
  core i s hi _ := by simp [opDp4, intCore, OpIn.ic, hi.c le_rfl, byteOf_eq, List.range_succ]

/-- Each row has its operation. -/
theorem intRows_meaning : ∀ e ∈ intRows, ∃ op, e.Meaning op := by
  intro e he
  simp only [intRows, List.mem_cons, List.not_mem_nil, or_false] at he
  rcases he with rfl | rfl | rfl | rfl | rfl | rfl | rfl | rfl | rfl | rfl | rfl
  · exact ⟨opAdd, meaning_intOp2 fun _ _ => rfl⟩
  · exact ⟨opSub, meaning_intOp2 fun _ _ => rfl⟩
  · exact ⟨opMul, meaning_intOp2 fun _ _ => rfl⟩
  · exact ⟨opMulhi, meaning_intOp2 (F := fun t x y => (x * y).fdiv (2 ^ t.bits : Nat)) fun _ _ => rfl⟩
  · exact ⟨opMulw, meaning_mulw⟩
  · exact ⟨opMad, meaning_mad⟩
  · exact ⟨opNeg, meaning_neg⟩
  · exact ⟨opAbs, meaning_abs⟩
  · exact ⟨opMin, meaning_intOp2 (F := fun _ x y => min x y) fun _ _ => rfl⟩
  · exact ⟨opMax, meaning_intOp2 (F := fun _ x y => max x y) fun _ _ => rfl⟩
  · exact ⟨opDp4, meaning_dp4⟩

/-- The instruction of a row completes with the row's exact result, wrapped or saturated once in the result type. -/
theorem IntRow.Meaning.completes {e : IntRow} {op : Op} (h : e.Meaning op) {s : State} {x : Site} {fr : Frame} {c : Cur} {f : Fields}
    {m : LaneMask} {T : Ty} {va vb vc : Value} (hx : AtPlace s x fr c) (hTe : T ∈ e.types) (hT : f.typ.toNat = T.code)
    (hmd : f.md = 0 ∨ e.sat = true ∧ f.md = 32) (ha : Names c f.a T va) (hb : Operand c (decide (2 ≤ e.args)) f.b T vb)
    (hc : Operand c (decide (3 ≤ e.args)) f.c T vc) (hm : Active c f.p m) :
    CompletesBy (Machine.exec (e.con f) s) s x e.opc (e.res T) m (if e.zero then fun _ => 0 else va.nat) fun k =>
      Delivers (f.md == 32) (e.res T) (e.F T (va.nat k) (vb.nat k) (vc.nat k)) := by
  have htyped : e.Typed (laneIn x c f m T va vb vc) :=
    ⟨ha.ty_eq, fun hn => (hb.names (decide_eq_true hn)).ty_eq, fun hn => (hc.names (decide_eq_true hn)).ty_eq⟩
  obtain ⟨-, hsat⟩ := modSat_eq (hmd.imp id And.right)
  have hplain : e.sat = false → modSat f.md.toNat = false := fun hs => by
    rcases hmd with hmd | ⟨hs', -⟩
    · rw [hmd]; rfl
    · rw [hs] at hs'; cases hs'
  have hcore := h.core _ s htyped hplain
  have hform := h.form T hTe f.md hmd
  rw [h.exec, ← h.opc, ← hsat]
  cases hz : e.zero with
  | true =>
    exact completes_lanes_zero hx hT hform (fetchArg_one ha) (fetchArg_operand hb) (fetchArg_operand hc) rfl hm hcore
      (by simp [IntRow.form, hz]) fun k _ => delivers_lane _ _ _
  | false =>
    exact completes_lanes_opA hx hT hform (fetchArg_one ha) (fetchArg_operand hb) (fetchArg_operand hc) rfl hm hcore
      (by simp [IntRow.form, hz]) (ha.ty_eq.trans (h.res hz T).symm) fun k _ => delivers_lane _ _ _

/-- Settles O1: each row of the table is an operation that tables the row's exact result in its lanes. -/
theorem integerArithmetic : Obligations.IntegerArithmetic := by
  unfold Obligations.IntegerArithmetic
  intro e he s x fr c f m T va vb vc hx hTe hT hmd ha hb hc hm
  obtain ⟨op, hop⟩ := intRows_meaning e he
  exact hop.completes hx hTe hT hmd ha hb hc hm

end Sys2Proof
end

section
/-!
PROOFS. Division and remainder (06 R120; O2), which are two-operand operations like the rows of R119.
-/

namespace Sys2Proof

open Sys2Proof.Machine

theorem mem_tyInt_cases {T : Ty} (h : T ∈ tyInt) : T = .i32 ∨ T = .n32 ∨ T = .i64 ∨ T = .n64 := by simpa [tyInt] using h

/-! ## Exact values and delivered patterns -/

/-- A pattern and its exact value are congruent. -/
theorem toInt_emod (T : Ty) (n : Nat) : toInt T n % (2 ^ T.bits : Nat) = (n % 2 ^ T.bits : Nat) := by
  unfold toInt
  push_cast
  split
  · split
    · rfl
    · exact Int.sub_emod_right ..
  · rfl

/-- What is delivered of the exact value of a pattern. -/
theorem Delivers.of_toInt {T : Ty} {n d : Nat} (h : Delivers false T (toInt T n) d) : d = n % 2 ^ T.bits :=
  Int.ofNat.inj (h.trans (toInt_emod T n))

/-! ## The ends of a type's range -/

section
variable {T : Ty} {sat : Bool} {d : Nat}

theorem two_pow_bits (T : Ty) (h : 0 < T.bits) : 2 ^ T.bits = 2 * 2 ^ (T.bits - 1) := by
  rw [← pow_succ', Nat.sub_add_cancel h]

theorem tyInt_bits_pos (hT : T ∈ tyInt) : 0 < T.bits := by
  revert T
  decide

theorem Delivers.of_nonneg {z : Int} (h : Delivers false T z d) (h0 : 0 ≤ z) (hlt : z < (2 ^ T.bits : Nat)) : (d : Int) = z :=
  h.trans (Int.emod_eq_of_lt h0 hlt)

/-- Within the range, saturation changes nothing. -/
theorem Delivers.of_range {z : Int} (h : Delivers sat T z d) (hlo : tyMin T ≤ z) (hhi : z ≤ tyMax T) : Delivers false T z d := by
  cases sat with
  | false => exact h
  | true => rwa [Delivers, if_pos rfl, min_eq_right hhi, max_eq_right hlo] at h

variable (hT : T ∈ tyInt)
include hT

/-- The range of a type of w bits, by h = 2^(w-1). -/
theorem range_of_half {h : Nat} (hh : 2 ^ (T.bits - 1) = h) :
    0 < h ∧ 2 ^ T.bits = 2 * h ∧ tyMin T = (if T.signed then -(h : Int) else 0) ∧ tyMax T = if T.signed then (h : Int) - 1 else 2 * h - 1 := by
  have h2 := two_pow_bits T (tyInt_bits_pos hT)
  subst hh
  refine ⟨Nat.two_pow_pos _, h2, rfl, ?_⟩
  unfold tyMax
  rw [h2]
  push_cast
  rfl

theorem Delivers.of_tyMax (h : Delivers sat T (tyMax T) d) : (d : Int) = tyMax T := by
  obtain ⟨hpos, h2, hmin, hmax⟩ := range_of_half hT rfl
  refine (h.of_range ?_ le_rfl).of_nonneg ?_ ?_ <;> rw [hmax]
  · rw [hmin]; split <;> omega
  · split <;> omega
  · rw [h2]; split <;> omega

variable (hs : T.signed = true)
include hs

theorem Delivers.of_tyMin (h : Delivers sat T (tyMin T) d) : d = 2 ^ (T.bits - 1) := by
  generalize hh : 2 ^ (T.bits - 1) = half
  obtain ⟨hpos, h2, hmin, hmax⟩ := range_of_half hT hh
  simp only [hs, if_true] at hmin hmax
  have hd : (d : Int) = -half % (2 * half : Nat) := by
    have := h.of_range le_rfl (by omega)
    rwa [hmin, Delivers, h2] at this
  have hwrap : -(half : Int) % (2 * half : Nat) = half := by
    rw [← Int.add_emod_right, Int.emod_eq_of_lt (by omega) (by omega)]
    push_cast
    ring
  exact Int.ofNat.inj (hd.trans hwrap)

/-- One past the largest value: it saturates, or wraps to the smallest value's pattern. -/
theorem Delivers.of_half (h : Delivers sat T (2 ^ (T.bits - 1) : Nat) d) :
    d = if sat then 2 ^ (T.bits - 1) - 1 else 2 ^ (T.bits - 1) := by
  generalize hh : 2 ^ (T.bits - 1) = half at h ⊢
  obtain ⟨hpos, h2, hmin, hmax⟩ := range_of_half hT hh
  simp only [hs, if_true] at hmin hmax
  cases sat with
  | false =>
    have := h.of_nonneg (by omega) (by omega)
    simpa using this
  | true =>
    have hclamp : Delivers false T (tyMax T) d := by
      rwa [Delivers, if_pos rfl, min_eq_left (by omega), max_eq_right (by omega)] at h
    have := Delivers.of_tyMax hT hclamp
    rw [if_pos rfl]
    omega

end

/-! ## The instructions -/

/-- Division (R120): the truncated quotient, and its edge cases. -/
theorem Delivers.divInt_spec {T : Ty} {sat : Bool} {a b : Int} {d : Nat} (hT : T ∈ tyInt) (h : Delivers sat T (divInt T a b) d) :
    let half := 2 ^ (T.bits - 1)
    (b ≠ 0 → Delivers sat T (a.tdiv b) d) ∧ (b = 0 → T.signed = false → d = 2 ^ T.bits - 1) ∧
    (b = 0 → T.signed = true → 0 ≤ a → d = half - 1) ∧ (b = 0 → T.signed = true → a < 0 → d = half) ∧
    (T.signed = true → a = -half → b = -1 → d = if sat then half - 1 else half) := by
  intro half
  obtain ⟨hpos, h2, -, hmax⟩ := range_of_half hT (h := half) rfl
  refine ⟨fun hb => ?_, fun hb hs => ?_, fun hb hs ha => ?_, fun hb hs ha => ?_, fun hs ha hb => ?_⟩
  · rwa [divInt, if_neg hb] at h
  · have := Delivers.of_tyMax (sat := sat) hT (by simpa [divInt, hb, hs] using h)
    simp only [hs, Bool.false_eq_true, if_false] at hmax
    omega
  · have := Delivers.of_tyMax (sat := sat) hT (by simpa [divInt, hb, hs, ha] using h)
    simp only [hs, if_true] at hmax
    omega
  · exact Delivers.of_tyMin (sat := sat) hT hs (by simpa [divInt, hb, hs, not_le.mpr ha] using h)
  · have hq : divInt T a b = (half : Nat) := by rw [ha, hb]; simp [divInt]
    rw [hq] at h
    exact h.of_half hT hs

/-- The remainder (R120), and its edge cases. -/
theorem Delivers.remInt_spec {T : Ty} {n : Nat} {b : Int} {d : Nat} (h : Delivers false T (remInt (toInt T n) b) d) :
    let a := toInt T n
    (b ≠ 0 → Delivers false T (a - b * a.tdiv b) d) ∧ (b = 0 → d = n % 2 ^ T.bits) ∧
    (T.signed = true → a = -(2 ^ (T.bits - 1)) → b = -1 → d = 0) := by
  refine ⟨fun hb => ?_, fun hb => ?_, fun _ ha hb => ?_⟩
  · rwa [remInt, if_neg hb, Int.tmod_def] at h
  · rw [remInt, if_pos hb] at h
    exact h.of_toInt
  · rw [ha, hb] at h
    have hrem : remInt (-(2 ^ (T.bits - 1))) (-1) = 0 := by simp [remInt]
    rw [hrem] at h
    exact Int.ofNat.inj (h.of_nonneg le_rfl (by exact_mod_cast Nat.two_pow_pos _))

/-- An operation of two operands of one type, whose inactive lanes keep the first (R119). -/
theorem completes_intOp2 {con : Fields → Instr} {opc : Nat} {sat : Bool} {F : Ty → Int → Int → Int}
    (hexec : ∀ f s, exec (con f) s = runOp (intOp2 opc sat F) f s) {s : State} {x : Site} {fr : Frame} {c : Cur} {f : Fields} {m : LaneMask}
    {T : Ty} {va vb : Value} (hx : AtPlace s x fr c) (hTi : T ∈ tyInt) (hT : f.typ.toNat = T.code) (hmd : f.md = 0 ∨ sat = true ∧ f.md = 32)
    (ha : Names c f.a T va) (hb : Names c f.b T vb) (hc : f.c = 0) (hm : Active c f.p m) :
    CompletesBy (exec (con f) s) s x opc T m va.nat fun k => Delivers (f.md == 32) T (F T (toInt T (va.nat k)) (toInt T (vb.nat k))) :=
  (meaning_intOp2 hexec).completes (vc := .void) hx hTi hT hmd ha hb ⟨hc, rfl⟩ hm

/-- Settles O2: both are two-operand operations that deliver an exact result, which the edge cases name. -/
theorem divisionAndRemainder : Obligations.DivisionAndRemainder := by
  unfold Obligations.DivisionAndRemainder
  intro s x fr c f m T va vb hx hTi hT ha hb hc hm
  refine ⟨fun hmd => ?_, fun hmd => ?_⟩
  · exact (completes_intOp2 (F := divInt) (sat := true) (fun _ _ => rfl) hx hTi hT (hmd.imp id (⟨rfl, ·⟩)) ha hb hc hm).mono
      fun k d hd => hd.divInt_spec hTi
  · have hdone := completes_intOp2 (F := fun _ x y => remInt x y) (con := .rem) (opc := 0x007) (sat := false) (fun _ _ => rfl) hx hTi hT
      (.inl hmd) ha hb hc hm
    rw [hmd] at hdone
    exact hdone.mono fun k d hd => hd.remInt_spec

end Sys2Proof
end

section
/-!
PROOFS. Bitwise and counting instructions (06 R121; O3), bit by bit.
-/

namespace Sys2Proof.Machine

open Sys2Proof

/-! ## Bits -/

/-- The low bits of a number. -/
theorem hasBits_mod {w n : Nat} {b : Nat → Bool} (h : ∀ j < w, n.testBit j = b j) : HasBits w b (n % 2 ^ w) :=
  ⟨Nat.mod_lt _ (Nat.two_pow_pos w), fun j hj => by rw [Nat.testBit_mod_two_pow, decide_eq_true hj, Bool.true_and, h j hj]⟩

theorem testBit_not (w n : Nat) {j : Nat} (hj : j < w) : ((2 ^ w - 1) ^^^ n).testBit j = !n.testBit j := by
  rw [Nat.testBit_xor, Nat.testBit_two_pow_sub_one, decide_eq_true hj, Bool.true_xor]

theorem popBits_eq (w n : Nat) : popBits w n = ((List.range w).filter fun j => n.testBit j).length := by
  induction w generalizing n with
  | zero => rfl
  | succ w ih =>
    rw [popBits, ih, List.range_succ_eq_map, List.filter_cons, List.filter_map, Nat.testBit_zero]
    have hshift : ((fun j => n.testBit j) ∘ Nat.succ) = fun j => (n / 2).testBit j := funext fun j => Nat.testBit_succ n j
    rw [hshift]
    rcases Nat.mod_two_eq_zero_or_one n with h | h
    · simp [h]
    · simp [h, Nat.add_comm]

theorem popBits_le (w n : Nat) : popBits w n ≤ w := by
  rw [popBits_eq]
  exact (List.length_filter_le _ _).trans_eq List.length_range

/-- A count of zeros from the top: no set bit stands above the place that it names. -/
theorem clzBits_spec (w n : Nat) :
    clzBits w n ≤ w ∧ (∀ j < w, w ≤ j + clzBits w n → n.testBit j = false) ∧
      (clzBits w n < w → n.testBit (w - 1 - clzBits w n) = true) := by
  have hlow : ∀ j < w, n.testBit j = (n % 2 ^ w).testBit j := fun j hj => by simp [Nat.testBit_mod_two_pow, hj]
  unfold clzBits
  split
  · rename_i h0
    exact ⟨le_rfl, fun j hj _ => by rw [hlow j hj, h0, Nat.zero_testBit], fun h => absurd h (lt_irrefl w)⟩
  · rename_i h0
    have hlog : Nat.log2 (n % 2 ^ w) < w := (Nat.log2_lt h0).mpr (Nat.mod_lt _ (Nat.two_pow_pos w))
    refine ⟨by omega, fun j hj hge => ?_, fun _ => ?_⟩
    · rw [hlow j hj]
      exact Nat.testBit_lt_two_pow (Nat.lt_log2_self.trans_le (Nat.pow_le_pow_right Nat.two_pos (by omega)))
    · have hidx : w - 1 - (w - 1 - Nat.log2 (n % 2 ^ w)) = Nat.log2 (n % 2 ^ w) := by omega
      rw [hidx, hlow _ hlog]
      exact Nat.testBit_log2 h0

/-- A count of zeros from the bottom: no set bit stands below the place that it names. -/
theorem ctzBits_spec (w n : Nat) :
    ctzBits w n ≤ w ∧ (∀ j < ctzBits w n, n.testBit j = false) ∧ (ctzBits w n < w → n.testBit (ctzBits w n) = true) := by
  induction w generalizing n with
  | zero => exact ⟨le_rfl, fun j hj => absurd hj (Nat.not_lt_zero j), fun h => absurd h (lt_irrefl 0)⟩
  | succ w ih =>
    obtain ⟨hle, hzero, hone⟩ := ih (n / 2)
    unfold ctzBits
    split
    · rename_i h1
      exact ⟨Nat.zero_le _, fun j hj => absurd hj (Nat.not_lt_zero j), fun _ => by simp [Nat.testBit_zero, h1]⟩
    · rename_i h1
      refine ⟨by omega, fun j hj => ?_, fun hlt => ?_⟩
      · cases j with
        | zero => simp [Nat.testBit_zero, h1]
        | succ j => rw [Nat.testBit_succ]; exact hzero j (by omega)
      · rw [Nat.add_comm, Nat.testBit_succ]
        exact hone (by omega)

theorem revBits_lt (w n : Nat) : revBits w n < 2 ^ w := by
  induction w generalizing n with
  | zero => exact Nat.one_pos
  | succ w ih =>
    have hrest := ih (n / 2)
    have hbit : n % 2 * 2 ^ w ≤ 1 * 2 ^ w := Nat.mul_le_mul_right _ (by omega)
    rw [revBits, Nat.pow_succ]
    omega

theorem testBit_revBits {w j : Nat} (hj : j < w) (n : Nat) : (revBits w n).testBit j = n.testBit (w - 1 - j) := by
  induction w generalizing n with
  | zero => exact absurd hj (Nat.not_lt_zero j)
  | succ w ih =>
    rw [revBits, Nat.mul_comm, Nat.testBit_two_pow_mul_add _ (revBits_lt w _)]
    split
    · rename_i hlt
      have hidx : w + 1 - 1 - j = (w - 1 - j) + 1 := by omega
      rw [ih hlt, hidx, Nat.testBit_succ]
    · obtain rfl : j = w := by omega
      simp [Nat.testBit_zero]

/-! ## Instructions of one type -/

section
variable {op : Op} {ts : List Ty} {f : Fields} {s : State} {x : Site} {fr : Frame} {c : Cur} {T : Ty} {va vb : Value} {m : LaneMask}
  {g : OpIn → Fin 32 → Nat} (hx : AtPlace s x fr c) (hTs : T ∈ ts) (hT : f.typ.toNat = T.code) (ha : Names c f.a T va) (hc : f.c = 0)
  (hm : Active c f.p m) (hcore : ∀ i s, op.core i s = .done s (lanesOf i.ty (g i)))
include hx hTs hT ha hc hm hcore

theorem completes_form1 (hform : ∀ t, op.form t f.md.toNat = form1 ts t true) (hb : f.b = 0) :
    CompletesBy (runOp op f s) s x op.opc T m va.nat fun k d => d = g (laneIn x c f m T va .void .void) k % 2 ^ T.bits :=
  completes_lanes_opA hx hT ((hform _).trans (formFor_some (Ty.ofCode_code T) hTs rfl)) (fetchArg_one ha) (fetchArg_none hb)
    (fetchArg_none hc) rfl hm (hcore _ _) rfl ha.ty_eq fun _ _ => rfl

theorem completes_form2 (hform : ∀ t, op.form t f.md.toNat = form2 ts t true) (hb : Names c f.b T vb) :
    CompletesBy (runOp op f s) s x op.opc T m va.nat fun k d => d = g (laneIn x c f m T va vb .void) k % 2 ^ T.bits :=
  completes_lanes_opA hx hT ((hform _).trans (formFor_some (Ty.ofCode_code T) hTs rfl)) (fetchArg_one ha) (fetchArg_one hb)
    (fetchArg_none hc) rfl hm (hcore _ _) rfl ha.ty_eq fun _ _ => rfl

end

section
variable {f : Fields} {s : State} {x : Site} {fr : Frame} {c : Cur} {T : Ty} {va vb : Value} {m : LaneMask}
  (hx : AtPlace s x fr c) (hT : f.typ.toNat = T.code) (hmd : f.md = 0) (ha : Names c f.a T va) (hc : f.c = 0) (hm : Active c f.p m)
include hx hT hmd ha hc hm

theorem completes_bitOp2 {opc : Nat} {F : Nat → Nat → Nat} {b : Fin 32 → Nat → Bool} (hTs : T ∈ Ty.pred :: tyInt) (hb : Names c f.b T vb)
    (hbits : ∀ k j, (F (va.nat k) (vb.nat k)).testBit j = b k j) :
    CompletesBy (runOp (bitOp2 opc F) f s) s x opc T m va.nat fun k => HasBits T.bits (b k) :=
  (completes_form2 (op := bitOp2 opc F) hx hTs hT ha hc hm (fun _ _ => rfl) (fun t => by rw [hmd]; rfl) hb).mono fun k _ hd =>
    hd ▸ hasBits_mod fun j _ => hbits k j

/-- A count of the bits of an integer, which always fits its n32. -/
theorem completes_countOp {opc : Nat} {F : Nat → Nat → Nat} {P : Fin 32 → Nat → Prop} (hTi : T ∈ tyInt) (hb : f.b = 0)
    (hle : ∀ k, F T.bits (va.nat k) ≤ T.bits) (hP : ∀ k, P k (F T.bits (va.nat k))) :
    CompletesBy (runOp (countOp opc F) f s) s x opc .n32 m (fun _ => 0) P := by
  have hbits : T.bits ≤ 64 := by rcases mem_tyInt_cases hTi with rfl | rfl | rfl | rfl <;> decide
  refine completes_lanes_zero (op := countOp opc F) hx hT (formFor_some (Ty.ofCode_code T) hTi (by rw [hmd]; rfl)) (fetchArg_one ha)
    (fetchArg_none hb) (fetchArg_none hc) rfl hm rfl rfl fun k _ => ?_
  have hfit : F T.bits (va.nat k) < 2 ^ 32 := ((hle k).trans hbits).trans_lt (by decide)
  exact (Nat.mod_eq_of_lt hfit).symm ▸ hP k

end

/-- Settles O3: a bitwise operation acts bit by bit, and a count or a reversal is its own recursion on the bits. -/
theorem bitsAndCounts : Obligations.BitsAndCounts := by
  unfold Obligations.BitsAndCounts
  intro s x fr c f m T va hx hTs hT hmd ha hc hm
  refine ⟨fun vb hb => ⟨?_, ?_, ?_⟩, fun hb => ⟨?_, fun hp => ?_⟩⟩
  · exact completes_bitOp2 hx hT hmd ha hc hm hTs hb fun k j => Nat.testBit_and ..
  · exact completes_bitOp2 hx hT hmd ha hc hm hTs hb fun k j => Nat.testBit_or ..
  · exact completes_bitOp2 hx hT hmd ha hc hm hTs hb fun k j => Nat.testBit_xor ..
  · exact (completes_form1 (op := opNot) hx hTs hT ha hc hm (fun _ _ => rfl) (fun t => by rw [hmd]; rfl) hb).mono fun k _ hd =>
      hd ▸ hasBits_mod fun j hj => testBit_not _ _ hj
  · have hTi : T ∈ tyInt := List.mem_of_ne_of_mem hp hTs
    refine ⟨?_, ?_, ?_, ?_⟩
    · exact completes_countOp hx hT hmd ha hc hm hTi hb (fun k => popBits_le _ _) fun k => popBits_eq _ _
    · exact completes_countOp hx hT hmd ha hc hm hTi hb (fun k => (clzBits_spec _ _).1) fun k =>
        clzBits_spec _ _
    · exact completes_countOp hx hT hmd ha hc hm hTi hb (fun k => (ctzBits_spec _ _).1) fun k => ctzBits_spec _ _
    · exact (completes_form1 (op := opBrev) hx hTi hT ha hc hm (fun _ _ => rfl) (fun t => by rw [hmd]; rfl) hb).mono fun k _ hd =>
        hd ▸ hasBits_mod fun j hj => testBit_revBits hj _

end Sys2Proof.Machine
end

section
/-!
PROOFS. Shifts and rotations (06 R122; O4).
-/

namespace Sys2Proof.Machine

open Sys2Proof

/-! ## Counts past the width -/

theorem toInt_bounds {N : Nat} (T : Ty) (hN : T.bits ≤ N) {n : Nat} (hn : n < 2 ^ N) : -(2 ^ N : Int) ≤ toInt T n ∧ toInt T n < 2 ^ N := by
  have hcast : (n : Int) < 2 ^ N := by exact_mod_cast hn
  have hle : ((2 ^ T.bits : Nat) : Int) ≤ 2 ^ N := by exact_mod_cast Nat.pow_le_pow_right Nat.two_pos hN
  have hpos : (0 : Int) < 2 ^ N := by positivity
  unfold toInt
  generalize 2 ^ T.bits = B at *
  split
  · split <;> omega
  · omega

/-- A value of N bits shifted right by N places or more leaves its sign. -/
theorem fdiv_pow_min {N : Nat} {z : Int} (hlo : -(2 ^ N : Int) ≤ z) (hhi : z < 2 ^ N) (n : Nat) :
    z.fdiv (2 ^ min n N : Nat) = z.fdiv (2 ^ n) := by
  rcases Nat.le_total n N with hle | hge
  · rw [min_eq_left hle]
    push_cast
    rfl
  · have hpow : (2 ^ N : Int) ≤ 2 ^ n := by exact_mod_cast Nat.pow_le_pow_right Nat.two_pos hge
    have hpos : (0 : Int) < 2 ^ N := by positivity
    have hsign : ∀ b : Int, 2 ^ N ≤ b → z / b = if 0 ≤ z then 0 else -1 := fun b hb => by
      split
      · rename_i h0
        exact Int.ediv_eq_zero_of_lt h0 (hhi.trans_le hb)
      · exact (Int.ediv_eq_iff_of_pos (hpos.trans_le hb)).mpr ⟨by omega, by omega⟩
    rw [min_eq_right hge, Int.fdiv_eq_ediv_of_nonneg _ (by positivity), Int.fdiv_eq_ediv_of_nonneg _ (by positivity), hsign _ hpow,
      hsign _ (by push_cast; exact le_rfl)]

/-- A product with at least 2^w lies beyond the range of a w-bit type, unless it is 0. -/
theorem clamp_mul {T : Ty} (hT : T ∈ tyInt) (z : Int) {B : Int} (hB : (2 ^ T.bits : Nat) ≤ B) :
    max (tyMin T) (min (tyMax T) (z * B)) = if z = 0 then 0 else if z < 0 then tyMin T else tyMax T := by
  obtain ⟨hpos, h2, hmin, hmax⟩ := range_of_half hT rfl
  have hmin' : -B ≤ tyMin T ∧ tyMin T ≤ 0 := by rw [hmin]; split <;> omega
  have hmax' : tyMax T ≤ B ∧ 0 ≤ tyMax T := by rw [hmax]; split <;> omega
  rcases lt_trichotomy z 0 with h | rfl | h
  · have hz : z * B ≤ -B := by nlinarith
    rw [if_neg h.ne, if_pos h]
    omega
  · simp only [zero_mul, if_true]
    omega
  · have hz : B ≤ z * B := by nlinarith
    rw [if_neg h.ne', if_neg h.not_gt]
    omega

/-- Beyond twice the width a left shift saturates by its sign, or wraps to zero. -/
theorem delivers_shift {sat : Bool} {T : Ty} (hT : T ∈ tyInt) (z : Int) (n : Nat) {d : Nat}
    (h : Delivers sat T (z * (2 ^ min n (2 * T.bits) : Nat)) d) : Delivers sat T (z * 2 ^ n) d := by
  rcases Nat.le_total n (2 * T.bits) with hle | hge
  · rw [min_eq_left hle] at h
    push_cast at h
    exact h
  rw [min_eq_right hge] at h
  have hdvd : ∀ m, T.bits ≤ m → ((2 ^ T.bits : Nat) : Int) ∣ 2 ^ m := fun m hm => by exact_mod_cast Nat.pow_dvd_pow 2 hm
  have hle : ∀ m, T.bits ≤ m → ((2 ^ T.bits : Nat) : Int) ≤ 2 ^ m := fun m hm => by exact_mod_cast Nat.pow_le_pow_right Nat.two_pos hm
  push_cast at h
  cases sat with
  | true => rwa [Delivers, if_pos rfl, clamp_mul hT z (hle _ (by omega)), ← clamp_mul hT z (hle n (by omega))] at h
  | false =>
    have hzero : ∀ m, T.bits ≤ m → z * 2 ^ m % (2 ^ T.bits : Nat) = 0 := fun m hm => Int.emod_eq_zero_of_dvd ((hdvd m hm).mul_left z)
    exact h.trans ((hzero _ (by omega)).trans (hzero n (by omega)).symm)

/-! ## Rotations -/

/-- A bit of a rotation comes from q places below it, around the width. -/
theorem testBit_rotlBits {w q j : Nat} (hq : q < w) (hj : j < w) (n : Nat) :
    (rotlBits w n q).testBit j = n.testBit ((j + (w - q)) % w) := by
  have hlow : ∀ i, (n % 2 ^ w).testBit i = (decide (i < w) && n.testBit i) := fun i => Nat.testBit_mod_two_pow ..
  rw [rotlBits, Nat.testBit_mod_two_pow, Nat.testBit_or, Nat.testBit_shiftLeft, Nat.testBit_shiftRight, hlow, hlow]
  rcases Nat.lt_or_ge j q with hlt | hge
  · rw [Nat.mod_eq_of_lt (by omega)]
    have hidx : w - q + j = j + (w - q) := by omega
    simp [hj, hidx, Nat.not_le.mpr hlt, show j + (w - q) < w by omega]
  · have hidx : j + (w - q) = j - q + w := by omega
    rw [hidx, Nat.add_mod_right, Nat.mod_eq_of_lt (by omega)]
    simp [hj, hge, show j - q < w by omega, show ¬w - q + j < w by omega]

/-- A rotation to the right by q places is one to the left by the others. -/
theorem testBit_rotr {w q j : Nat} (hq : q < w) (hj : j < w) (n : Nat) :
    (rotlBits w n ((w - q) % w)).testBit j = n.testBit ((j + q) % w) := by
  rw [testBit_rotlBits (Nat.mod_lt _ (by omega)) hj]
  rcases Nat.eq_zero_or_pos q with rfl | hpos
  · simp
  · rw [Nat.mod_eq_of_lt (show w - q < w by omega), show w - (w - q) = q by omega]

/-! ## The instructions of R122 -/

section
variable {op : Op} {f : Fields} {s : State} {x : Site} {fr : Frame} {c : Cur} {T : Ty} {va vb : Value} {m : LaneMask}
  {g : OpIn → Fin 32 → Nat} (hx : AtPlace s x fr c) (hTi : T ∈ tyInt) (hT : f.typ.toNat = T.code) (ha : Names c f.a T va)
  (hb : Names c f.b .n32 vb) (hc : f.c = 0) (hm : Active c f.p m)
include hx hTi hT ha hb hc hm

/-- An operation of a type and a packed or plain n32, whose inactive lanes keep the first. -/
theorem completes_shiftForm (hform : ∀ t, op.form t f.md.toNat = shiftForm t true)
    (hcore : ∀ i s, op.core i s = .done s (lanesOf i.ty (g i))) :
    CompletesBy (runOp op f s) s x op.opc T m va.nat fun k d => d = g (laneIn x c f m T va vb .void) k % 2 ^ T.bits :=
  completes_lanes_opA hx hT ((hform _).trans (formFor_some (Ty.ofCode_code T) hTi rfl)) (fetchArg_one ha) (fetchArg_one hb)
    (fetchArg_none hc) rfl hm (hcore _ _) rfl ha.ty_eq fun _ _ => rfl

theorem completes_shl (hmd : f.md = 0 ∨ f.md = 32) :
    CompletesBy (exec (.shl f) s) s x 0x010 T m va.nat fun k => Delivers (f.md == 32) T (toInt T (va.nat k) * 2 ^ vb.nat k) := by
  obtain ⟨honly, hsat⟩ := modSat_eq hmd
  refine (completes_shiftForm (op := opShl) hx hTi hT ha hb hc hm (fun t => by simp only [opShl, honly]) fun _ _ => rfl).mono fun k d hd => ?_
  have hlane : d = wrapSat (f.md == 32) T (toInt T (va.nat k) * (2 ^ min (vb.nat k) (2 * T.bits) : Nat)) % 2 ^ T.bits := by
    rw [hd, ← hsat]
    simp only [laneIn, OpIn.ia, shlInt, ha.ty_eq]
  rw [hlane]
  exact delivers_shift hTi _ _ (delivers_lane _ _ _)

theorem completes_shr (hmd : f.md = 0) :
    CompletesBy (exec (.shr f) s) s x 0x011 T m va.nat fun k => Delivers false T ((toInt T (va.nat k)).fdiv (2 ^ vb.nat k)) := by
  refine (completes_shiftForm (op := opShr) hx hTi hT ha hb hc hm (fun t => by rw [hmd]; rfl) fun _ _ => rfl).mono fun k d hd => ?_
  obtain ⟨hlo, hhi⟩ := toInt_bounds (n := va.nat k) T T.bits_le (va.x.get k).isLt
  have hlane : d = wrapSat false T ((toInt T (va.nat k)).fdiv (2 ^ min (vb.nat k) 1600 : Nat)) % 2 ^ T.bits := by
    rw [hd]
    simp only [laneIn, OpIn.ia, shrInt, ha.ty_eq]
    rfl
  rw [hlane, ← fdiv_pow_min hlo hhi (vb.nat k)]
  exact delivers_lane _ _ _

theorem completes_rot (hmd : f.md.toNat ≤ 1) :
    CompletesBy (exec (.rot f) s) s x 0x012 T m va.nat fun k d =>
      d = rotlBits T.bits (va.nat k) (if f.md.toNat == 1 then (T.bits - vb.nat k % T.bits) % T.bits else vb.nat k % T.bits) % 2 ^ T.bits :=
  completes_shiftForm (op := opRot) hx hTi hT ha hb hc hm (fun t => by simp only [opRot, decide_eq_true hmd]) fun _ _ => rfl

end

/-- Settles O4: a count past the width gives what one just past it gives, and a rotation moves each bit around the width. -/
theorem shiftsAndRotations : Obligations.ShiftsAndRotations := by
  unfold Obligations.ShiftsAndRotations
  intro s x fr c f m T va vb hx hTi hT ha hb hc hm
  have hcount : ∀ k, vb.nat k % T.bits < T.bits := fun k => Nat.mod_lt _ (tyInt_bits_pos hTi)
  refine ⟨completes_shl hx hTi hT ha hb hc hm, completes_shr hx hTi hT ha hb hc hm, fun hmd => ?_, fun hmd => ?_⟩
  · refine (completes_rot hx hTi hT ha hb hc hm (by rw [hmd]; decide)).mono fun k d hd => ?_
    rw [hd, hmd]
    exact hasBits_mod fun j hj => testBit_rotlBits (hcount k) hj _
  · refine (completes_rot hx hTi hT ha hb hc hm (by rw [hmd]; decide)).mono fun k d hd => ?_
    rw [hd, hmd]
    exact hasBits_mod fun j hj => testBit_rotr (hcount k) hj _

end Sys2Proof.Machine
end

section
/-!
PROOFS. Bit fields (06 R123; O5): sign extension bit by bit, the field that a shift takes out of an extended value, and the mask of a field.
-/

namespace Sys2Proof.Machine

open Sys2Proof

/-! ## Sign extension -/

/-- A number of n bits with ones from bit n up to bit N, where s says so. -/
def extend (N n : Nat) (s : Bool) (x : Nat) : Nat := 2 ^ n * (if s then 2 ^ (N - n) - 1 else 0) + x

section
variable {N n x : Nat} (hx : x < 2 ^ n)
include hx

theorem testBit_extend {j : Nat} (s : Bool) (hj : j < N) : (extend N n s x).testBit j = if j < n then x.testBit j else s := by
  rw [extend, Nat.testBit_two_pow_mul_add _ hx]
  split
  · rfl
  · cases s with
    | false => simp
    | true => simpa [Nat.testBit_two_pow_sub_one] using show j - n < N - n by omega

theorem extend_emod (hn : n ≤ N) (s : Bool) : ((x : Int) - if s then (2 ^ n : Nat) else (0 : Nat)) % (2 ^ N : Nat) = extend N n s x := by
  obtain ⟨r, rfl⟩ := Nat.exists_eq_add_of_le hn
  have hr : 0 < 2 ^ r := Nat.two_pow_pos r
  have hlow : 2 ^ n ≤ 2 ^ n * 2 ^ r := Nat.le_mul_of_pos_right _ hr
  rw [extend, Nat.add_sub_cancel_left, Nat.pow_add]
  cases s with
  | false => simpa using Int.emod_eq_of_lt (Int.natCast_nonneg x) (by exact_mod_cast hx.trans_le hlow)
  | true =>
    have hsub : 2 ^ n * (2 ^ r - 1) = 2 ^ n * 2 ^ r - 2 ^ n := by rw [Nat.mul_sub, Nat.mul_one]
    rw [if_pos rfl, if_pos rfl, hsub, ← Int.add_emod_right, Int.emod_eq_of_lt (by omega) (by omega)]
    omega

end

/-- The top bit of a number of n bits says whether it reaches the upper half. -/
theorem testBit_top {n x : Nat} (hn : 0 < n) (hx : x < 2 ^ n) : x.testBit (n - 1) = decide (2 ^ (n - 1) ≤ x) := by
  have h2 : 2 ^ n = 2 * 2 ^ (n - 1) := by rw [← pow_succ', Nat.sub_add_cancel hn]
  rcases Nat.lt_or_ge x (2 ^ (n - 1)) with h | h
  · rw [Nat.testBit_lt_two_pow h, decide_eq_false (Nat.not_le.mpr h)]
  · have hq : x / 2 ^ (n - 1) = 1 := Nat.div_eq_of_lt_le (by omega) (by omega)
    rw [Nat.testBit_eq_decide_div_mod_eq, hq, decide_eq_true h]
    rfl

/-- The exact value of a pattern within its width. -/
theorem toInt_eq_sub {T : Ty} (hT : T ∈ tyInt) {x : Nat} (hx : x < 2 ^ T.bits) :
    toInt T x = x - if T.signed && x.testBit (T.bits - 1) then (2 ^ T.bits : Nat) else (0 : Nat) := by
  rw [testBit_top (tyInt_bits_pos hT) hx, toInt]
  cases T.signed with
  | false => simp
  | true =>
    by_cases h : x < 2 ^ (T.bits - 1)
    · simp [h, Nat.not_le.mpr h]
    · simp [h, Nat.le_of_not_lt h]

/-! ## A field of a value -/

/-- A field that ends within N bits is that of the low N bits. -/
theorem field_emod (y : Int) {pos len N : Nat} (h : pos + len ≤ N) {Y : Nat} (hY : y % (2 ^ N : Nat) = Y) :
    y / (2 ^ pos : Nat) % (2 ^ len : Nat) = (Y / 2 ^ pos % 2 ^ len : Nat) := by
  obtain ⟨r, rfl⟩ := Nat.exists_eq_add_of_le h
  have hy : y = Y + (2 ^ pos : Nat) * ((2 ^ len : Nat) * ((2 ^ r : Nat) * (y / (2 ^ (pos + len + r) : Nat)))) := by
    have := Int.emod_add_mul_ediv y (2 ^ (pos + len + r) : Nat)
    rw [hY] at this
    rw [← mul_assoc, ← mul_assoc, ← Nat.cast_mul, ← Nat.cast_mul, ← Nat.pow_add, ← Nat.pow_add]
    exact this.symm
  have hpos : ((2 ^ pos : Nat) : Int) ≠ 0 := by exact_mod_cast (Nat.two_pow_pos pos).ne'
  calc y / (2 ^ pos : Nat) % (2 ^ len : Nat)
      = (Y / (2 ^ pos : Nat) + (2 ^ len : Nat) * ((2 ^ r : Nat) * (y / (2 ^ (pos + len + r) : Nat)))) % (2 ^ len : Nat) := by
        conv_lhs => rw [hy, Int.add_mul_ediv_left _ _ hpos]
    _ = Y / (2 ^ pos : Nat) % (2 ^ len : Nat) := Int.add_mul_emod_self_left ..
    _ = _ := by push_cast; rfl

/-- Bit j of a value of a type, extended to either side (R123). -/
def extBit (T : Ty) (x j : Nat) : Bool := if j < T.bits then x.testBit j else T.signed && x.testBit (T.bits - 1)

section
variable {T : Ty} (hT : T ∈ tyInt)
include hT

/-- The field at pos of the extended source. -/
theorem testBit_field (x : Nat) {pos len : Nat} (hpos : pos ≤ T.bits) (hlen : len ≤ T.bits) :
    ∃ F : Nat, (toInt T (x % 2 ^ T.bits)).fdiv (2 ^ pos : Nat) % (2 ^ len : Nat) = F ∧ F < 2 ^ len ∧
      ∀ j < len, F.testBit j = extBit T x (pos + j) := by
  have hx : x % 2 ^ T.bits < 2 ^ T.bits := Nat.mod_lt _ (Nat.two_pow_pos _)
  have hlow : ∀ i < T.bits, (x % 2 ^ T.bits).testBit i = x.testBit i := fun i hi => by simp [Nat.testBit_mod_two_pow, hi]
  have hY := extend_emod hx (Nat.le_add_right T.bits T.bits) (T.signed && (x % 2 ^ T.bits).testBit (T.bits - 1))
  rw [← toInt_eq_sub hT hx] at hY
  refine ⟨_, by rw [Int.fdiv_eq_ediv_of_nonneg _ (Int.natCast_nonneg _)]; exact field_emod _ (by omega) hY, Nat.mod_lt _ (Nat.two_pow_pos _),
    fun j hj => ?_⟩
  rw [Nat.testBit_mod_two_pow, decide_eq_true hj, Bool.true_and, Nat.testBit_div_two_pow, testBit_extend hx _ (by omega),
    hlow _ (Nat.sub_lt (tyInt_bits_pos hT) Nat.one_pos), Nat.add_comm, extBit]
  split
  · rename_i hlt
    exact hlow _ hlt
  · rfl

/-- The extracted field, extended from its own top bit where the type is signed. -/
theorem bfxBits_hasBits (x g : Nat) :
    let pos := fieldPos T.bits g
    let len := fieldLen T.bits g
    HasBits T.bits (fun j => if j < len then extBit T x (pos + j) else T.signed && decide (0 < len) && extBit T x (pos + len - 1))
      (bfxBits T x g % 2 ^ T.bits) := by
  intro pos len
  have hlen : len ≤ T.bits := Nat.min_le_right _ _
  obtain ⟨F, hF, hlt, hbits⟩ := testBit_field hT x (pos := pos) (Nat.min_le_right _ _) hlen
  rcases Nat.eq_zero_or_pos len with h0 | hpos
  · have hz : bfxBits T x g = 0 := if_pos h0
    rw [hz]
    exact hasBits_mod fun j _ => by simp [h0]
  have htop : F.testBit (len - 1) = extBit T x (pos + len - 1) := by
    rw [hbits _ (by omega), show pos + (len - 1) = pos + len - 1 by omega]
  have hval : bfxBits T x g = extend T.bits len (T.signed && F.testBit (len - 1)) F := by
    have hext := extend_emod hlt hlen (T.signed && F.testBit (len - 1))
    have hmodel : bfxBits T x g = wrapTo T (F - if T.signed && F.testBit (len - 1) then (2 ^ len : Nat) else (0 : Nat)) := by
      have hcond : decide ((2 ^ (len - 1) : Int) ≤ F) = F.testBit (len - 1) := by
        rw [testBit_top hpos hlt]
        exact decide_eq_decide.mpr (by norm_cast)
      unfold bfxBits
      rw [if_neg hpos.ne', hF, hcond]
      split <;> simp [len]
    rw [hmodel, wrapTo, hext, Int.toNat_natCast]
  rw [hval]
  refine hasBits_mod fun j hj => ?_
  rw [testBit_extend hlt _ hj, htop, decide_eq_true hpos, Bool.and_true]
  split
  · rename_i hj
    exact hbits j hj
  · rfl

end

/-- The mask of a field from bit lo up to bit hi. -/
theorem testBit_mask {lo hi : Nat} (h : lo ≤ hi) (j : Nat) : (2 ^ hi - 2 ^ lo).testBit j = decide (lo ≤ j ∧ j < hi) := by
  obtain ⟨r, rfl⟩ := Nat.exists_eq_add_of_le h
  have hmul : 2 ^ (lo + r) - 2 ^ lo = 2 ^ lo * (2 ^ r - 1) + 0 := by rw [Nat.pow_add, Nat.mul_sub, Nat.mul_one, Nat.add_zero]
  rw [hmul, Nat.testBit_two_pow_mul_add _ (Nat.two_pow_pos lo)]
  split
  · rename_i hlt
    rw [Nat.zero_testBit, decide_eq_false fun hj => by omega]
  · rename_i hge
    rw [Nat.testBit_two_pow_sub_one]
    exact decide_eq_decide.mpr (by omega)

/-- The inserted field. -/
theorem testBit_bfiBits {w j : Nat} (hj : j < w) (x y g : Nat) :
    (bfiBits w x y g).testBit j =
      if fieldPos w g ≤ j ∧ j < min (fieldPos w g + fieldLen w g) w then y.testBit (j - fieldPos w g) else x.testBit j := by
  have hpos : fieldPos w g ≤ min (fieldPos w g + fieldLen w g) w := le_min (Nat.le_add_right _ _) (Nat.min_le_right _ _)
  have hhi : min (fieldPos w g + fieldLen w g) w ≤ w := Nat.min_le_right _ _
  unfold bfiBits
  dsimp only
  generalize fieldPos w g = pos at *
  generalize min (pos + fieldLen w g) w = hi at *
  have hm : 2 ^ hi - 2 ^ pos < 2 ^ w := (Nat.sub_lt (Nat.two_pow_pos hi) (Nat.two_pow_pos pos)).trans_le (Nat.pow_le_pow_right Nat.two_pos hhi)
  have hcompl : 2 ^ w - 1 - (2 ^ hi - 2 ^ pos) = 2 ^ w - (2 ^ hi - 2 ^ pos + 1) := by omega
  rw [hcompl, Nat.testBit_or, Nat.testBit_and, Nat.testBit_and, Nat.testBit_two_pow_sub_succ hm, testBit_mask hpos, Nat.testBit_shiftLeft,
    decide_eq_true hj]
  by_cases hin : pos ≤ j ∧ j < hi
  · simp [hin]
  · simp [hin]

/-- Settles O5: the field is read and written bit by bit within the width. -/
theorem bitFields : Obligations.BitFields := by
  unfold Obligations.BitFields
  intro s x fr c f m T va hx hTi hT hmd ha hm
  refine ⟨fun g hg hc => ?_, fun vb g hb hg => ?_⟩
  · refine (completes_shiftForm (op := opBfx) hx hTi hT ha hg hc hm (fun t => by rw [hmd]; rfl) fun _ _ => rfl).mono fun k d hd => ?_
    rw [hd]
    exact bfxBits_hasBits hTi _ _
  · refine completes_lanes_opA (op := opBfi) hx hT (formFor_some (Ty.ofCode_code T) hTi (by rw [hmd]; rfl)) (fetchArg_one ha) (fetchArg_one hb)
      (fetchArg_one hg) rfl hm rfl rfl ha.ty_eq fun k _ => hasBits_mod fun j hj => testBit_bfiBits hj _ _ _

end Sys2Proof.Machine
end

section
/-!
PROOFS. Comparison, selection and width change (06 R124-R126; O6), and address arithmetic (06 R127, R128; O7).
-/

namespace Sys2Proof.Machine

open Sys2Proof

/-! ## Words that fit no form, and words that trap -/

section
variable {op : Op} {f : Fields} {s : State} {x : Site} {fr : Frame} {c : Cur} {fm : Form} {i : OpIn}

theorem runOp_noForm (hx : AtPlace s x fr c) (h : op.form f.typ.toNat f.md.toNat = none) :
    runOp op f s = .next (s.takeReserved x c (op.word f) (op.resTy f.typ.toNat)) :=
  runOp_unfit hx fun _ _ hfit => by rw [hfit.form] at h; cases h

theorem runOp_trap (hx : AtPlace s x fr c) (hf : Fits op f x c fm i) {k : Nat} {codes : Lanes Word} (ht : op.core i s = .trap k codes) :
    runOp op f s = .next (s.takeParkTrap x i.mask k codes) := by
  rw [runOp_fits hx hf, ht]; rfl

end

theorem formFor_none {ts : List Ty} {typ : Nat} {ok : Bool} (g : Ty → Form) (h : ok = false) : formFor ts typ ok g = none := by
  unfold formFor
  split
  · rw [if_neg (by simp [h])]
  · rfl

theorem resFixed_code {ts : List Ty} {T : Ty} (R : Ty) (h : T ∈ ts) : resFixed ts R T.code = some R := by
  simp [resFixed, h]

/-! ## Comparison (R124) -/

theorem condInt_iff {cc : Nat} (h : cc ≤ 5) (p q : Int) :
    condInt cc p q = true ↔ (cc = 0 ∧ p = q) ∨ (cc = 1 ∧ p ≠ q) ∨ (cc = 2 ∧ p < q) ∨ (cc = 3 ∧ p ≤ q) ∨ (cc = 4 ∧ q < p) ∨ (cc = 5 ∧ q ≤ p) := by
  interval_cases cc <;> simp [condInt]

theorem cmp_ok {T : Ty} {md : Nat} : (if T.code == 1 then decide (md ≤ 1) else decide (md ≤ 5)) = decide (md ≤ 5 ∧ (T = .pred → md ≤ 1)) := by
  have hcode : (T.code == 1) = decide (T = .pred) := by cases T <;> rfl
  rw [hcode]
  by_cases h : T = .pred
  · subst h
    exact decide_eq_decide.mpr ⟨fun h => ⟨by omega, fun _ => h⟩, fun h => h.2 rfl⟩
  · simp [h]

section
variable {f : Fields} {s : State} {x : Site} {fr : Frame} {c : Cur} {T : Ty} {va vb vc : Value} {m : LaneMask} (hx : AtPlace s x fr c)
  (hT : f.typ.toNat = T.code)
include hx hT

theorem exec_cmp (hTs : T ∈ tyCmp) (ha : Names c f.a T va) (hb : Names c f.b T vb) (hc : f.c = 0) (hm : Active c f.p m)
    (hmd : f.md.toNat ≤ 5 ∧ (T = .pred → f.md.toNat ≤ 1)) :
    CompletesBy (exec (.cmp f) s) s x 0x019 .pred m (fun _ => 0) fun k d =>
      d = if condInt f.md.toNat (toInt T (va.nat k)) (toInt T (vb.nat k)) then 1 else 0 := by
  refine completes_lanes_zero (op := opCmp) hx hT (formFor_some (Ty.ofCode_code T) hTs (cmp_ok.trans (decide_eq_true hmd)))
    (fetchArg_one ha) (fetchArg_one hb) (fetchArg_none hc) rfl hm rfl rfl fun k _ => ?_
  simp only [laneIn, OpIn.ia, OpIn.ib, ha.ty_eq, hb.ty_eq]
  split <;> rfl

theorem exec_cmp_reserved (hTs : T ∈ tyCmp) (hmd : 5 < f.md.toNat ∨ T = .pred ∧ 1 < f.md.toNat) :
    exec (.cmp f) s = .next (s.takeReserved x c (wordOf 0x019#9 f) .pred) := by
  have hno : ¬(f.md.toNat ≤ 5 ∧ (T = .pred → f.md.toNat ≤ 1)) := by
    rintro ⟨h5, h1⟩
    rcases hmd with h | ⟨hp, h⟩
    · omega
    · have := h1 hp
      omega
  have hform : opCmp.form f.typ.toNat f.md.toNat = none := by
    rw [hT]
    exact formFor_none _ (cmp_ok.trans (decide_eq_false hno))
  refine (runOp_noForm (op := opCmp) hx hform).trans ?_
  simp only [Op.resTy, hT, opCmp, resFixed_code _ hTs, Option.getD_some]
  rfl

/-! ## Selection (R125) -/

theorem exec_sel (hTs : T ∈ tySel) (ha : Names c f.a T va) (hb : Names c f.b T vb) (hc : Names c f.c .pred vc) (hmd : f.md = 0)
    (hm : Active c f.p m) :
    CompletesBy (exec (.sel f) s) s x 0x01A T m va.nat fun k d =>
      d = (if vc.nat k = 1 then va.nat k else vb.nat k) % 2 ^ T.bits :=
  completes_lanes_opA (op := opSel) hx hT (formFor_some (Ty.ofCode_code T) hTs (by rw [hmd]; rfl)) (fetchArg_one ha) (fetchArg_one hb)
    (fetchArg_one hc) rfl hm rfl rfl ha.ty_eq fun _ _ => rfl

/-- A selector that is no pred fits no form. -/
theorem exec_sel_reserved {U : Ty} (hTs : T ∈ tySel) (hc : Names c f.c U vc) (hU : U ≠ .pred) :
    exec (.sel f) s = .next (s.takeReserved x c (wordOf 0x01A#9 f) T) := by
  have hunfit : ∀ fm i, ¬Fits opSel f x c fm i := by
    intro fm i hfit
    obtain ⟨R, -, rfl⟩ := formFor_eq hfit.form
    obtain ⟨-, href, hty⟩ := hc
    have harg := hfit.argC
    simp [fetchArg, href, hty, hU] at harg
  refine (runOp_unfit (op := opSel) hx hunfit).trans ?_
  simp only [Op.resTy, hT, opSel, resSame_code hTs, Option.getD_some]
  rfl

/-! ## Width change (R126) -/

theorem exec_ext {U : Ty} (hTs : T ∈ tyExt) (hU : U ∈ [Ty.pred, .i32, .n32, .i64, .n64, .addr]) (ha : Names c f.a U va) (hb : f.b = 0)
    (hc : f.c = 0) (hmd : f.md = 0 ∨ f.md = 32) (hm : Active c f.p m) :
    CompletesBy (exec (.ext f) s) s x 0x01B T m (fun _ => 0) fun k => Delivers (f.md == 32) T (toInt U (va.nat k)) := by
  obtain ⟨honly, hsat⟩ := modSat_eq hmd
  refine completes_lanes_zero (op := opExt) hx hT (formFor_some (Ty.ofCode_code T) hTs honly)
    (fetchArg_need ha (List.contains_iff_mem.mpr hU)) (fetchArg_none hb) (fetchArg_none hc) rfl hm rfl rfl fun k _ => ?_
  rw [← hsat, ← ha.ty_eq]
  exact delivers_lane _ _ _

end

/-- Settles O6: a legal word's lanes are the condition, the chosen operand or the extended value; any other word fits no form. -/
theorem compareSelectExtend : Obligations.CompareSelectExtend := by
  unfold Obligations.CompareSelectExtend
  intro s x fr c f m T va hx hT hm
  refine ⟨fun vb hTs ha hb hc hmd => (exec_cmp hx hT hTs ha hb hc hm hmd).mono fun k d hd => ?_, fun hTs hmd => exec_cmp_reserved hx hT hTs hmd,
    fun vb vc hTs ha hb hc hmd => (exec_sel hx hT hTs ha hb hc hmd hm).mono fun k d hd => ⟨fun h => ?_, fun h => ?_⟩,
    fun vc U hTs hc hU => exec_sel_reserved hx hT hTs hc hU, fun U hTs hU ha hb hc hmd => exec_ext hx hT hTs hU ha hb hc hmd hm⟩
  · refine ⟨?_, (iff_of_eq ?_).trans (condInt_iff hmd.1 _ _)⟩ <;> rw [hd] <;> split <;> simp [*]
  · rw [hd, if_pos h]
  · rw [hd, if_neg (by omega)]

/-! ## Addresses (R127) -/

/-- An offset moves an address within the 56-bit space and keeps its top byte. -/
theorem aoffBits_spec (x : Nat) (o : Int) :
    ((aoffBits x o % 2 ^ 64 % 2 ^ 56 : Nat) : Int) = (((x % 2 ^ 56 : Nat) : Int) + o) % 2 ^ 56 ∧
      aoffBits x o % 2 ^ 64 / 2 ^ 56 = x / 2 ^ 56 % 256 := by
  have hr : aoffBits x o = (x / 2 ^ 56 * 2 ^ 56 + (((x % 2 ^ 56 : Nat) : Int) + o) % 2 ^ 56).toNat := rfl
  generalize ((x % 2 ^ 56 : Nat) : Int) + o = z at hr ⊢
  rw [hr]
  omega

section
variable {f : Fields} {s : State} {x : Site} {fr : Frame} {c : Cur} {va vb vc : Value} {m : LaneMask} (hx : AtPlace s x fr c)
  (hm : Active c f.p m)
include hx

include hm in
theorem exec_aoff {U : Ty} (hT : f.typ.toNat = Ty.addr.code) (hmd : f.md.toNat ≤ 4) (ha : Names c f.a .addr va) (hU : U ∈ [Ty.i32, .i64])
    (hb : Names c f.b U vb) (hc : f.c = 0) :
    CompletesBy (exec (.aoff f) s) s x 0x01C .addr m va.nat fun k d =>
      d = aoffBits (va.nat k) (toInt U (vb.nat k) * 2 ^ f.md.toNat) % 2 ^ 64 := by
  have hform := formFor_some (g := fun T => { a := .need [T], b := .need tySigned, c := .absent, pred := true, res := T, pass := .opA })
    (Ty.ofCode_code .addr) (List.mem_singleton_self _) (decide_eq_true hmd)
  refine completes_lanes_opA (op := opAoff) hx hT hform
    (fetchArg_one ha) (fetchArg_need hb (List.contains_iff_mem.mpr hU)) (fetchArg_none hc) rfl hm rfl rfl ha.ty_eq fun k _ => ?_
  simp only [laneIn, OpIn.ib, hb.ty_eq]
  push_cast
  rfl

include hm in
theorem exec_adiff (hT : f.typ.toNat = Ty.i64.code) (hmd : f.md.toNat ≤ 4) (ha : Names c f.a .addr va) (hb : Names c f.b .addr vb)
    (hc : f.c = 0) :
    CompletesBy (exec (.adiff f) s) s x 0x01D .i64 m (fun _ => 0) fun k =>
      Delivers false .i64 ((((va.nat k % 2 ^ 56 : Nat) : Int) - ((vb.nat k % 2 ^ 56 : Nat) : Int)).fdiv (2 ^ f.md.toNat)) := by
  have hform := formFor_some (g := fun T => { a := .need [.addr], b := .need [.addr], c := .absent, pred := true, res := T, pass := .zero })
    (Ty.ofCode_code .i64) (List.mem_singleton_self _) (decide_eq_true hmd)
  refine completes_lanes_zero (op := opAdiff) hx hT hform
    (fetchArg_one ha) (fetchArg_one hb) (fetchArg_none hc) rfl hm rfl rfl fun k _ => ?_
  have hscale : (2 ^ f.md.toNat : Int) = (2 ^ f.md.toNat : Nat) := by push_cast; rfl
  rw [hscale]
  exact delivers_lane false _ _

theorem exec_aoff_reserved (hT : f.typ.toNat = Ty.addr.code) (hmd : 4 < f.md.toNat) :
    exec (.aoff f) s = .next (s.takeReserved x c (wordOf 0x01C#9 f) .addr) := by
  refine (runOp_noForm (op := opAoff) hx (formFor_none _ (decide_eq_false (by omega)))).trans ?_
  rw [hT]
  rfl

theorem exec_adiff_reserved (hT : f.typ.toNat = Ty.i64.code) (hmd : 4 < f.md.toNat) :
    exec (.adiff f) s = .next (s.takeReserved x c (wordOf 0x01D#9 f) .i64) := by
  refine (runOp_noForm (op := opAdiff) hx (formFor_none _ (decide_eq_false (by omega)))).trans ?_
  rw [hT]
  rfl

end

/-! ## Vault windows (R128) -/

theorem mem_list {m : LaneMask} {k : Fin 32} : k ∈ m.list ↔ m.has k.val = true := by simp [LaneMask.list]

/-- A lane of `vaddr` beyond the limits of R128. -/
def vaddrBeyond (d v o : Nat) : Prop := 7 < d ∨ (if d = 2 ∨ d = 5 then 16 else 24) ≤ v ∨ 2 ^ 24 ≤ o

theorem vaddr_limits (d v o : Nat) : (decide (d ≤ 7) && decide (v < clustersOf d) && decide (o < 2 ^ 24)) = true ↔ ¬vaddrBeyond d v o := by
  have hcl : clustersOf d = if d = 2 ∨ d = 5 then 16 else 24 := by simp [clustersOf, narrowDie]
  rw [vaddrBeyond, ← hcl]
  simp only [Bool.and_eq_true, decide_eq_true_eq]
  omega

theorem vaddrBits_vault {d v o : Nat} (h : ¬vaddrBeyond d v o) :
    vaddrBits false d v o = some (0xFFFFFE * 2 ^ 32 + d * 2 ^ 29 + v * 2 ^ 24 + o) :=
  (if_neg Bool.false_ne_true).trans (if_pos ((vaddr_limits d v o).mpr h))

theorem vaddrBits_beyond {d v o : Nat} (h : vaddrBeyond d v o) : vaddrBits false d v o = none :=
  (if_neg Bool.false_ne_true).trans (if_neg fun hok => (vaddr_limits d v o).mp hok h)

theorem vault_address_lt {d v o : Nat} (h : ¬vaddrBeyond d v o) : 0xFFFFFE * 2 ^ 32 + d * 2 ^ 29 + v * 2 ^ 24 + o < 2 ^ 64 := by
  have hlast : (if d = 2 ∨ d = 5 then 16 else 24) ≤ 24 := by split <;> decide
  unfold vaddrBeyond at h
  omega

section
variable {f : Fields} {s : State} {x : Site} {fr : Frame} {c : Cur} {fm : Form} {a b cc : Value} {m : LaneMask} (hx : AtPlace s x fr c)
  (hm : Active c f.p m) (hT : f.typ.toNat = Ty.addr.code) (hf : opVaddr.form Ty.addr.code f.md.toNat = some fm)
  (ha : fetchArg c fm.a f.a = some a) (hb : fetchArg c fm.b f.b = some b) (hc : fetchArg c fm.c f.c = some cc) (hp : fm.pred = true)
include hx hm hT hf ha hb hc hp

/-- With every active lane within its limits the lanes hold their addresses; one beyond them traps. -/
theorem exec_vaddr (hpass : fm.pass = .zero) {bad : Fin 32 → Prop} {val : Fin 32 → Nat} (hlt : ∀ k, ¬bad k → val k < 2 ^ 64)
    (hgood : ∀ k, ¬bad k → vaddrBits (f.md.toNat == 1) (a.nat k) (b.nat k) (cc.nat k) = some (val k))
    (hbad : ∀ k, bad k → vaddrBits (f.md.toNat == 1) (a.nat k) (b.nat k) (cc.nat k) = none) :
    ((∀ k, m.has k.val = true → ¬bad k) →
      CompletesBy (exec (.vaddr f) s) s x 0x01E .addr m (fun _ => 0) fun k d => d = val k) ∧
    ((∃ k, m.has k.val = true ∧ bad k) → exec (.vaddr f) s = .next (s.takeParkTrap x m 4 (Lanes.all 0))) := by
  refine ⟨fun hall => ?_, fun ⟨k, hk, hkb⟩ => ?_⟩
  · have hcore : opVaddr.core (laneIn x c f m .addr a b cc) s =
        .done s (lanesOf .addr fun k => (vaddrBits (f.md.toNat == 1) (a.nat k) (b.nat k) (cc.nat k)).getD 0) :=
      if_pos (List.all_eq_true.mpr fun k hk => by
        show (vaddrBits (f.md.toNat == 1) (a.nat k) (b.nat k) (cc.nat k)).isSome = true
        rw [hgood k (hall k (mem_list.mp hk))]
        rfl)
    refine completes_lanes_zero (op := opVaddr) hx hT hf ha hb hc hp hm hcore hpass fun k hk => ?_
    rw [hgood k (hall k hk)]
    exact Nat.mod_eq_of_lt (hlt k (hall k hk))
  · have hcore : opVaddr.core (laneIn x c f m .addr a b cc) s = trapBounds := by
      refine if_neg fun hall => ?_
      have hsome : (vaddrBits (f.md.toNat == 1) (a.nat k) (b.nat k) (cc.nat k)).isSome = true := List.all_eq_true.mp hall k (mem_list.mpr hk)
      rw [hbad k hkb] at hsome
      cases hsome
    exact runOp_trap (op := opVaddr) hx (fits_mk (hT ▸ Ty.ofCode_code .addr) (hT ▸ hf) ha hb hc hp hm) hcore

end

/-- Settles O7: the address operations act within the 56-bit space, and a vault window's limits are those of its lanes. -/
theorem addresses : Obligations.Addresses := by
  unfold Obligations.Addresses
  intro s x fr c f m hx hm
  refine ⟨fun va vb U hT hmd ha hU hb hc => (exec_aoff hx hm hT hmd ha hU hb hc).mono fun k d hd => ?_,
    fun hmd => ⟨fun hT => exec_aoff_reserved hx hT hmd, fun hT => exec_adiff_reserved hx hT hmd⟩,
    fun va vb hT hmd ha hb hc => exec_adiff hx hm hT hmd ha hb hc, fun va vb vc hT hmd ha hb hc => ?_, fun vc hT hmd ha hb hc => ?_⟩
  · rw [hd]
    exact aoffBits_spec _ _
  · refine exec_vaddr hx hm hT (fm := { a := .need [.n32], b := .need [.n32], c := .need [.n32], pred := true, res := .addr, pass := .zero })
      (by rw [hmd]; rfl) (fetchArg_one ha) (fetchArg_one hb) (fetchArg_one hc) rfl rfl (fun k hk => vault_address_lt hk) (fun k hk => ?_)
      fun k hk => ?_
    · rw [hmd]
      exact vaddrBits_vault hk
    · rw [hmd]
      exact vaddrBits_beyond hk
  · refine (exec_vaddr hx hm hT (bad := fun k => 2 ^ 24 ≤ vc.nat k)
      (fm := { a := .absent, b := .absent, c := .need [.n32], pred := true, res := .addr, pass := .zero })
      (by rw [hmd]; rfl) (fetchArg_none ha) (fetchArg_none hb) (fetchArg_one hc) rfl rfl (fun k hk => ?_) (fun k hk => ?_) fun k hk => ?_).imp
        (fun h hall => h fun k hk => Nat.not_le.mpr (hall k hk)) id
    · omega
    · rw [hmd]
      exact if_pos (Nat.not_le.mp hk)
    · rw [hmd]
      exact if_neg (Nat.not_lt.mpr hk)

end Sys2Proof.Machine
end

section
/-!
PROOFS. SELECT and merging (06 R130; O17): the pending path of the lowest block number is taken, and the pending paths of a frame keep
distinct block numbers.
-/

namespace Sys2Proof.Machine

open Sys2Proof

/-! ## The lowest path -/

/-- Of paths, the lowest one is taken out, and the others are left. -/
theorem lowestPath_spec (p : Path) (ps : List Path) :
    ∃ q rest, lowestPath (p :: ps) = some (q, rest) ∧ (p :: ps).Perm (q :: rest) ∧ ∀ y ∈ p :: ps, q.block ≤ y.block := by
  induction ps generalizing p with
  | nil => exact ⟨p, [], rfl, .refl _, fun y hy => by rw [List.mem_singleton.mp hy]⟩
  | cons p' r ih =>
    obtain ⟨q, rest, hq, hperm, hle⟩ := ih p'
    unfold lowestPath
    rw [hq]
    dsimp only
    split
    · rename_i hp
      exact ⟨p, _, rfl, .refl _, List.forall_mem_cons.mpr ⟨le_rfl, fun y hy => hp.trans (hle y hy)⟩⟩
    · rename_i hp
      exact ⟨q, _, rfl, (hperm.cons p).trans (.swap ..), List.forall_mem_cons.mpr ⟨(Nat.lt_of_not_le hp).le, hle⟩⟩

/-! ## SELECT -/

section
variable {x : Wave} {fr : Frame} {r : List Frame}

/-- SELECT on a frame with a pending path and no current one. -/
theorem Wave.select_pending {q : Path} {rest : List Path} (hf : x.frames = fr :: r) (hc : fr.cur = none)
    (hl : lowestPath fr.pending = some (q, rest)) :
    x.select = { atDepth x x.frames.length with frames :=
      { fr with pending := rest, cur := some { block := q.block, mask := q.mask, vidx := 0, vals := q.params.reverse } } :: r } := by
  simp only [Wave.select, Wave.selectFuel, hf, hc, hl, atDepth]

theorem resumeAfter_pending (f below : Frame) : (resumeAfter f below).pending = below.pending := by
  unfold resumeAfter
  split
  · rfl
  · dsimp only
    split <;> rfl

/-- SELECT and the CLOSE that it runs only take pending paths away. -/
theorem Wave.selectFuel_distinct (n : Nat) (h : ∀ f ∈ x.frames, DistinctBlocks f.pending) :
    ∀ f ∈ (x.selectFuel n).frames, DistinctBlocks f.pending := by
  induction n generalizing x with
  | zero => exact h
  | succ n ih =>
    unfold Wave.selectFuel
    split
    · exact h
    · rename_i f r hf
      rw [hf] at h
      obtain ⟨htop, hrest⟩ := List.forall_mem_cons.mp h
      split
      · rwa [hf]
      · split
        · rename_i p rest hl
          refine List.forall_mem_cons.mpr ⟨?_, hrest⟩
          obtain ⟨q, ps, hps⟩ := List.exists_cons_of_ne_nil (l := f.pending) (by rintro he; rw [he] at hl; cases hl)
          obtain ⟨q', rest', hq, hperm, -⟩ := lowestPath_spec q ps
          rw [← hps, hl] at hq
          cases hq
          rw [← hps] at hperm
          exact (((hperm.map Path.block).nodup_iff).mp htop).of_cons
        · split
          · exact List.forall_mem_nil _
          · rename_i below r' _
            obtain ⟨hbelow, hrest'⟩ := List.forall_mem_cons.mp hrest
            exact ih (List.forall_mem_cons.mpr ⟨by rw [resumeAfter_pending]; exact hbelow, hrest'⟩)

end

/-! ## Merging -/

/-- A path merged into the one that is pending at its block. -/
def Path.mergeInto (p q : Path) : Path :=
  { q with mask := q.mask ||| p.mask, params := q.params.zipWith (fun a b => { a with x := mergeLanes p.mask b.x a.x }) p.params }

theorem addPath_cons (p q : Path) (ps : List Path) :
    addPath p (q :: ps) = if q.block = p.block then p.mergeInto q :: ps else q :: addPath p ps := by
  simp only [addPath, beq_iff_eq]
  rfl

theorem addPath_new {p : Path} {ps : List Path} (h : ∀ y ∈ ps, y.block ≠ p.block) : addPath p ps = ps ++ [p] := by
  induction ps with
  | nil => rfl
  | cons q ps ih =>
    obtain ⟨hq, hps⟩ := List.forall_mem_cons.mp h
    rw [addPath_cons, if_neg hq, ih hps]
    rfl

theorem mem_addPath_other {p y : Path} (ps : List Path) (hy : y.block ≠ p.block) : y ∈ addPath p ps ↔ y ∈ ps := by
  have hne : ∀ z : Path, z.block = p.block → y ≠ z := fun z hz he => hy (he ▸ hz)
  induction ps with
  | nil => simp [addPath, hne p rfl]
  | cons q ps ih =>
    rw [addPath_cons]
    split
    · rename_i hq
      simp [hne _ hq, hne (p.mergeInto q) hq]
    · rw [List.mem_cons, List.mem_cons]
      exact or_congr_right ih

theorem mergeInto_mem {p q : Path} {ps : List Path} (hd : DistinctBlocks ps) (hq : q ∈ ps) (hb : q.block = p.block) :
    p.mergeInto q ∈ addPath p ps := by
  induction ps with
  | nil => cases hq
  | cons q' ps ih =>
    obtain ⟨hnot, hrest⟩ := List.nodup_cons.mp hd
    rw [addPath_cons]
    rcases List.mem_cons.mp hq with rfl | hmem
    · rw [if_pos hb]
      exact List.mem_cons_self
    · have hne : q'.block ≠ p.block := fun he => hnot (he ▸ hb ▸ List.mem_map_of_mem hmem)
      rw [if_neg hne]
      exact List.mem_cons_of_mem _ (ih hrest hmem)

theorem addPath_distinct (p : Path) {ps : List Path} (h : DistinctBlocks ps) : DistinctBlocks (addPath p ps) := by
  induction ps with
  | nil => exact List.nodup_singleton _
  | cons q ps ih =>
    obtain ⟨hnot, hrest⟩ := List.nodup_cons.mp h
    rw [addPath_cons]
    split
    · exact h
    · rename_i hq
      refine List.nodup_cons.mpr ⟨fun hmem => hnot ?_, ih hrest⟩
      obtain ⟨y, hy, hyb⟩ := List.mem_map.mp hmem
      exact hyb ▸ List.mem_map_of_mem ((mem_addPath_other ps (hyb ▸ hq)).mp hy)

/-- The merged path has the lanes of both, and in the lanes of the one that is added its parameters (R130). -/
theorem mergeInto_spec (p q : Path) :
    (p.mergeInto q).block = q.block ∧ (∀ k : Fin 32, (p.mergeInto q).mask.has k.val = (q.mask.has k.val || p.mask.has k.val)) ∧
      ∀ (j : Nat) (a b : Value), q.params[j]? = some a → p.params[j]? = some b →
        ∃ v, (p.mergeInto q).params[j]? = some v ∧ v.ty = a.ty ∧ ∀ k, v.nat k = if p.mask.has k.val then b.nat k else a.nat k := by
  refine ⟨rfl, fun k => BitVec.getLsbD_or .., fun j a b ha hb => ⟨{ a with x := mergeLanes p.mask b.x a.x }, ?_, rfl, fun k => ?_⟩⟩
  · simp [Path.mergeInto, List.getElem?_zipWith, ha, hb]
  · simp only [Value.nat, mergeLanes_get]
    split <;> rfl

/-- Leaving a path with others pending keeps every frame's block numbers distinct. -/
theorem Wave.leave_distinct {x : Wave} (ps : List Path) (h : ∀ f ∈ x.frames, DistinctBlocks f.pending) :
    ∀ f ∈ (x.leave ps).frames, DistinctBlocks f.pending := by
  have hadd : ∀ qs : List Path, DistinctBlocks qs → DistinctBlocks (ps.foldl (fun l p => addPath p l) qs) := by
    induction ps with
    | nil => exact fun qs hqs => hqs
    | cons p ps ih => exact fun qs hqs => ih _ (addPath_distinct p hqs)
  unfold Wave.leave
  split
  · exact h
  · rename_i f r hf
    rw [hf] at h
    obtain ⟨htop, hrest⟩ := List.forall_mem_cons.mp h
    exact Wave.selectFuel_distinct _ (List.forall_mem_cons.mpr ⟨hadd _ htop, hrest⟩)

/-! ## The obligation -/

/-- Settles O17: the lowest path stands alone at its block, and a path is added by merging or at the end. -/
theorem selectLowestBlock : Obligations.SelectLowestBlock := by
  unfold Obligations.SelectLowestBlock
  refine ⟨fun x fr r p hf hc hp hd => ?_, fun ps p hd => ⟨addPath_distinct p hd, fun y hy => mem_addPath_other ps hy, fun hno => ?_,
    fun q hq hb => ⟨p.mergeInto q, mergeInto_mem hd hq hb, ?_⟩⟩, fun x ps h => Wave.leave_distinct ps h⟩
  · obtain ⟨p', ps, hps⟩ := List.exists_cons_of_ne_nil (List.ne_nil_of_mem hp)
    obtain ⟨q, rest, hq, hperm, hle⟩ := lowestPath_spec p' ps
    rw [← hps] at hq hperm hle
    obtain ⟨hnot, -⟩ := List.nodup_cons.mp ((hperm.map Path.block).nodup_iff.mp hd)
    have hmem : ∀ y, y ∈ fr.pending ↔ y = q ∨ y ∈ rest := fun y => hperm.mem_iff.trans List.mem_cons
    refine ⟨q, rest, (hmem q).mpr (.inl rfl), fun y hy => ?_, hmem, hperm.length_eq.symm, Wave.select_pending hf hc hq⟩
    rcases (hmem y).mp hy with rfl | hrest
    · exact .inl rfl
    · exact .inr (lt_of_le_of_ne (hle y hy) fun he => hnot (he ▸ List.mem_map_of_mem hrest))
  · rw [addPath_new hno]
    exact List.mem_append_right _ (List.mem_singleton_self p)
  · obtain ⟨hblock, hmask, hparams⟩ := mergeInto_spec p q
    exact ⟨hblock.trans hb, hmask, hparams⟩

end Sys2Proof.Machine
end

section
/-!
PROOFS. Branches (06 R131-R133; O18), and calls and returns (06 R134-R136, R143; O19): how each moves a wave outside debug-form code.
-/

namespace Sys2Proof.Machine

open Sys2Proof

/-! ## The place of a control instruction -/

section
variable {s : State} {x : Site} {fr : Frame} {c : Cur}

/-- The top frame at a place holds the current path. -/
theorem frames_of_atPlace (hx : AtPlace s x fr c) : ∃ r, x.wave.frames = fr :: r ∧ fr.cur = some c := by
  obtain ⟨-, -, htop⟩ := hx
  unfold Wave.top? at htop
  split at htop
  · cases htop
  · rename_i f r hf
    split at htop
    · cases htop
    · rename_i hc
      cases htop
      exact ⟨r, hf, hc⟩

theorem State.moveWave_eq (hd : s.debugFrame fr = false) (y : Wave) : s.moveWave x fr c y = s.setWave x.w (y.countStep s.tick) := by
  simp [State.moveWave, hd]

/-! ## Branches (R132, R133) -/

section
variable {f : Fields} {aw : List ArgWord} (hx : AtPlace s x fr c) (hd : s.debugFrame fr = false) (hty : f.typ = 0) (hbit : f.bit0 = false)
  (hlen : f.md.toNat = aw.length)
include hx hd hty hbit hlen

theorem exec_br {tys : List (BitVec 4)} {vs : List Value} (ha : f.a = 0) (ht0 : f.target0 = 0)
    (hp : s.paramsOf fr f.target1.toNat = some tys) (hv : argValues c tys (argRefs aw) = some vs) :
    exec (.br f aw) s = .next (s.setWave x.w ((x.wave.leave [mkPath f.target1.toNat c.mask vs]).countStep s.tick)) := by
  obtain ⟨r, hf, -⟩ := frames_of_atPlace hx
  refine (atSite_eq hx _).trans (congrArg Host.Outcome.next ?_)
  simp [hf, hd, hty, hbit, hlen, ha, ht0, hp, hv]

theorem exec_brc {t1 t0 : List (BitVec 4)} {v1 v0 : List Value} {m1 : LaneMask} (ha : f.a ≠ 0) (hm : Active c f.a m1)
    (hp1 : s.paramsOf fr f.target1.toNat = some t1) (hp0 : s.paramsOf fr f.target0.toNat = some t0)
    (hv1 : argValues c t1 ((argRefs aw).take t1.length) = some v1) (hv0 : argValues c t0 ((argRefs aw).drop t1.length) = some v0) :
    exec (.brc f aw) s =
      .next ((s.emitBranch x fr c m1 (c.mask &&& ~~~m1)).setWave x.w
        ((x.wave.leave ((if m1 = 0 then [] else [mkPath f.target1.toNat m1 v1]) ++
          if c.mask &&& ~~~m1 = 0 then [] else [mkPath f.target0.toNat (c.mask &&& ~~~m1) v0])).countStep s.tick)) := by
  obtain ⟨r, hf, -⟩ := frames_of_atPlace hx
  obtain ⟨p, hpred, rfl⟩ := fetchPred_active hm
  have hother : c.mask &&& ~~~(c.mask &&& p) = c.mask &&& ~~~p := by
    ext k
    simp only [BitVec.getElem_and, BitVec.getElem_not]
    cases c.mask[k] <;> rfl
  rw [hother]
  refine (atSite_eq hx _).trans (congrArg Host.Outcome.next ?_)
  have hne : ¬f.a = 0#11 := ha
  simp [hf, hd, hty, hbit, hlen, hne, hpred, hp1, hp0, hv1, hv0]

end

end

/-- Settles O18: with their fields legal and their arguments found, the two branches leave the paths that they form. -/
theorem branches : Obligations.Branches := by
  unfold Obligations.Branches
  intro s x fr c f aw hx hd hty hbit hlen
  refine ⟨fun tys vs ha ht0 hp hv => exec_br hx hd hty hbit hlen ha ht0 hp hv, fun v t1 t0 v1 v0 m1 m0 ha hp1 hp0 hv1 hv0 hm1 hm0 => ?_⟩
  subst hm0
  exact exec_brc hx hd hty hbit hlen ha.ne_zero (.inr ⟨v, ha, hm1⟩) hp1 hp0 hv1 hv0

/-! ## Calls (R134) -/

theorem State.debugFrame_touch (s : State) (t : Translation) (f : Frame) : (s.touch t).debugFrame f = s.debugFrame f := by
  have hcode : (s.touch t).code? f = (s.code? f).map fun u => if u.tid == t.tid then { u with lastUse := s.tick } else u := by
    simp only [State.code?, State.touch, List.find?_map]
    congr 2
    funext u
    simp only [Function.comp]
    split <;> rfl
  rw [State.debugFrame, hcode, State.debugFrame]
  cases s.code? f with
  | none => rfl
  | some u =>
    simp only [Option.map_some]
    split <;> rfl

/-- A call's frame, whose one path SELECT takes. -/
theorem pushCall_eq (x : Wave) (g tid : Nat) (t : Ty) (p : Path) :
    pushCall x g tid t p =
      { atDepth x (x.frames.length + 1) with frames :=
        { kind := .call, func := g, tid := tid, pending := [],
          cur := some { block := p.block, mask := p.mask, vidx := 0, vals := p.params.reverse }, retMask := 0, ret := Lanes.all 0, retTy := t,
          trap := none, kept := [] } :: x.frames } := by
  unfold pushCall
  exact Eq.trans (Wave.select_pending rfl rfl rfl) rfl

section
variable {s : State} {x : Site} {fr : Frame} {c : Cur} {f : Fields} {aw : List ArgWord} {t : Translation} {tys : List (BitVec 4)}
  {vs : List Value} {b0 : Nat} (hx : AtPlace s x fr c) (hty : f.typ.toNat ≤ 11) (ha : f.a = 0) (ht0 : f.target0 = 0) (hbit : f.bit0 = false)
  (hlen : f.md.toNat = aw.length) (hcode : s.code? fr = some t)
  (hcallee : t.callees.find? (fun e => e.1 == f.target1.toNat) = some (b0, some tys)) (hv : argValues c tys (argRefs aw) = some vs)

include hty ha ht0 hbit hlen in
theorem call_legal : (decide (f.typ.toNat ≤ 11) && f.a == 0 && f.target0 == 0 && !f.bit0 && f.md.toNat == aw.length) = true := by
  simp [hty, ha, ht0, hbit, hlen]

include hcode hcallee in
theorem call_params :
    ((s.code? fr).bind fun t => (t.callees.find? fun e => e.1 == f.target1.toNat).bind fun e => e.2) = some tys := by
  rw [hcode, Option.bind_some, hcallee, Option.bind_some]

include hx hty ha ht0 hbit hlen hcode hcallee hv

theorem exec_call_full (hfull : 256 ≤ x.wave.frames.length) :
    exec (.call f aw) s = .next (s.takeParkTrap x c.mask 4 (Lanes.all 0)) := by
  obtain ⟨r, hf, -⟩ := frames_of_atPlace hx
  have hlegal := call_legal hty ha ht0 hbit hlen
  have hparams := call_params hcode hcallee
  have hn : 256 ≤ (fr :: r).length := hf ▸ hfull
  refine (atSite_eq hx _).trans (congrArg Host.Outcome.next ?_)
  simp only [hf, hlegal, hparams, hv, hn, if_true, Bool.not_true, Bool.false_eq_true, if_false]

theorem exec_call (hd : s.debugFrame fr = false) (hroom : x.wave.frames.length < 256) {u : Translation}
    (hu : s.calleeCode x f.target1.toNat = some u) :
    exec (.call f aw) s =
      .next ((s.touch u).setWave x.w
        ((pushCall x.wave f.target1.toNat u.tid ((Ty.ofCode f.typ.toNat).getD .void) (mkPath 0 c.mask vs)).countStep s.tick)) := by
  obtain ⟨r, hf, -⟩ := frames_of_atPlace hx
  have hlegal := call_legal hty ha ht0 hbit hlen
  have hparams := call_params hcode hcallee
  have hn : ¬256 ≤ (fr :: r).length := hf ▸ Nat.not_le.mpr hroom
  have hmove := State.moveWave_eq (s := s.touch u) (x := x) (c := c) ((State.debugFrame_touch s u fr).trans hd)
  refine (atSite_eq hx _).trans (congrArg Host.Outcome.next ?_)
  simp only [hf, hlegal, hparams, hv, hn, hu, Bool.not_true, Bool.false_eq_true, if_false, hmove]
  rfl

end

theorem Ty.ofCode_le {n : Nat} (h : n ≤ 11) : ∃ T, Ty.ofCode n = some T := by
  interval_cases n <;> exact ⟨_, rfl⟩

/-! ## Returns (R135, R136, R143) -/

section
variable {s : State} {x : Site} {fr : Frame} {c : Cur} {f : Fields} (hx : AtPlace s x fr c) (hd : s.debugFrame fr = false)

theorem State.exitPath_eq (hd : s.debugFrame fr = false) :
    s.exitPath x fr c = ((s.setWave x.w ((x.wave.leave []).countStep s.tick)).progress x.w).afterEnd x := by
  rw [State.exitPath, State.moveWave_eq hd]

include hx hd in
theorem exec_ret_base {v : Value} (hv : returned f c = some v) (hk : fr.kind = .base) :
    exec (.ret f) s = .next (((s.setWave x.w ((x.wave.leave []).countStep s.tick)).progress x.w).afterEnd x) := by
  obtain ⟨r, hf, -⟩ := frames_of_atPlace hx
  refine (atSite_eq hx _).trans (congrArg Host.Outcome.next ?_)
  simp only [hf, hv, hk, State.exitPath_eq hd]

include hx hd in
theorem exec_ret_call {v : Value} (hv : returned f c = some v) (hk : fr.kind = .call) (hty : f.typ.toNat = fr.retTy.code) :
    exec (.ret f) s = .next ((s.setWave x.w ((x.wave.handlerReturn v.x).countStep s.tick)).afterEnd x) := by
  obtain ⟨r, hf, -⟩ := frames_of_atPlace hx
  refine (atSite_eq hx _).trans (congrArg Host.Outcome.next ?_)
  simp only [hf, hv, hk, hty, beq_self_eq_true, if_true, State.moveWave_eq hd]

include hx in
theorem exec_ret_handler {v : Value} (hv : returned f c = some v) (hk : fr.kind = .handler) :
    exec (.ret f) s = .next (s.takeReserved x c (wordOf 0x0C3#9 f) .void) := by
  obtain ⟨r, hf, -⟩ := frames_of_atPlace hx
  refine (atSite_eq hx _).trans (congrArg Host.Outcome.next ?_)
  simp only [hf, hv, hk]

include hx hd in
theorem exec_tret_handler {v : Value} (hv : recorded f c = some v) (hk : fr.kind = .handler) :
    exec (.tret f) s = .next ((s.setWave x.w ((x.wave.handlerReturn v.x).countStep s.tick)).afterEnd x) := by
  obtain ⟨r, hf, -⟩ := frames_of_atPlace hx
  refine (atSite_eq hx _).trans (congrArg Host.Outcome.next ?_)
  simp only [hf, hv, hk, beq_self_eq_true, if_true, State.moveWave_eq hd]

include hx in
theorem exec_tret_other {v : Value} (hv : recorded f c = some v) (hk : fr.kind ≠ .handler) :
    exec (.tret f) s = .next (s.takeReserved x c (wordOf 0x0C8#9 f) .void) := by
  obtain ⟨r, hf, -⟩ := frames_of_atPlace hx
  refine (atSite_eq hx _).trans (congrArg Host.Outcome.next ?_)
  simp only [hf, hv, beq_iff_eq, hk, if_false]

include hx hd in
theorem exec_exit (h : f.typ = 0 ∧ f.md = 0 ∧ f.a = 0 ∧ f.b = 0 ∧ f.c = 0 ∧ f.p = 0) :
    exec (.exit f) s = .next (((s.setWave x.w ((x.wave.leave []).countStep s.tick)).progress x.w).afterEnd x) := by
  obtain ⟨r, hf, -⟩ := frames_of_atPlace hx
  obtain ⟨hty, hmd, ha, hb, hc, hp⟩ := h
  refine (atSite_eq hx _).trans (congrArg Host.Outcome.next ?_)
  simp [hf, hty, hmd, ha, hb, hc, hp, State.exitPath_eq hd]

end

/-- Settles O19: a call pushes a frame whose one path SELECT takes, and each way out of a frame moves the wave by what its kind says. -/
theorem callsAndReturns : Obligations.CallsAndReturns := by
  unfold Obligations.CallsAndReturns
  intro s x fr c f hx hd
  refine ⟨fun aw t tys vs u b0 hty ha ht0 hbit hlen hcode hcallee hv => ⟨exec_call_full hx hty ha ht0 hbit hlen hcode hcallee hv,
      fun hroom hu => ?_⟩,
    fun v hv => ⟨exec_ret_base hx hd hv, exec_ret_call hx hd hv, exec_ret_handler hx hv⟩,
    fun v hv => ⟨exec_tret_handler hx hd hv, exec_tret_other hx hv⟩,
    fun hty hmd ha hb hc hp => exec_exit hx hd ⟨hty, hmd, ha, hb, hc, hp⟩⟩
  obtain ⟨T, hT⟩ := Ty.ofCode_le hty
  refine ⟨T, hT, (exec_call hx hty ha ht0 hbit hlen hcode hcallee hv hd hroom hu).trans ?_⟩
  rw [hT, pushCall_eq]
  rfl

end Sys2Proof.Machine
end

section
/-!
PROOFS. Traps and the handler (06 R138-R142): `trap` (O21), what opens the handler (O22), and `yield` and `trapinfo` (O23).
-/

namespace Sys2Proof.Machine

open Sys2Proof

theorem placePoint_of_atPlace {s : State} {x : Site} {fr : Frame} {c : Cur} (hx : AtPlace s x fr c) :
    x.wave.placePoint = { func := fr.func, block := c.block, vidx := c.vals.length } := by
  obtain ⟨-, -, htop⟩ := hx
  simp only [Wave.placePoint, htop, Cur.place]

/-! ## A trap that parks the block (14 R308, R311) -/

/-- The wave of a block that is asked to stop. -/
theorem Block.stopAll_wave {b : Block} {n : Nat} {y : Wave} (fate : StopFate) (h : b.waves[n]? = some y) :
    ∃ z, (b.stopAll fate).waves[n]? = some z ∧ z.frames = y.frames ∧ z.owed = y.owed ∧
      (y.stop = .none → y.mode ≠ .released → z.stop = .requested) := by
  refine ⟨_, by simp only [Block.stopAll, List.getElem?_map, h]; rfl, ?_⟩
  dsimp only
  split
  · rename_i hstop
    exact ⟨rfl, rfl, fun hs hm => by simp [hs, hm] at hstop⟩
  · exact ⟨rfl, rfl, fun _ _ => rfl⟩

/-- The record that a parking trap leaves with its wave. -/
def Site.trapRecord (x : Site) (m : LaneMask) (k : Nat) (codes : Lanes Word) : FaultRec :=
  { x.record x.wave.placePoint m with kind := 2, trapk := k, lanes := codes }

theorem State.takeParkTrap_spec {s : State} {x : Site} (hx : s.site? x.w = some x) (hn : x.wave.native = none) (m : LaneMask) (k : Nat)
    (codes : Lanes Word) :
    ∃ (y : Wave) (b : Block), (s.takeParkTrap x m k codes).wave? x.w = some y ∧ (s.takeParkTrap x m k codes).block? x.w.block = some b ∧
      y.frames = x.wave.frames ∧ y.owed = some (x.trapRecord m k codes) ∧
      (x.wave.stop = .none → x.wave.mode ≠ .released → y.stop = .requested) ∧ b.fate = some (x.block.fate.getD .park) ∧
      (s.takeParkTrap x m k codes).mem = s.mem ∧ (s.takeParkTrap x m k codes).ctxs = s.ctxs ∧
      (s.takeParkTrap x m k codes).tiles = s.tiles := by
  obtain ⟨-, -, hb, hw⟩ := State.site_spec hx
  let v : Wave := { x.wave with verdict := false, owed := some (x.trapRecord m k codes) }
  have hset : s.takeParkTrap x m k codes =
      (s.setWave x.w v).setBlock x.w.block (({ x.block with waves := x.block.waves.set x.w.wav v } : Block).stopAll .park) := by
    rw [State.takeParkTrap, if_neg (by simp [hn]), State.stopWith, State.modWave_modWave, State.modWave_eq hw, State.stopBlock]
    exact State.modBlock_eq (State.block?_setWave hb v) _
  have hv : ({ x.block with waves := x.block.waves.set x.w.wav v } : Block).waves[x.w.wav]? = some v := by
    rw [← State.wave?_eq (State.block?_setWave hb v), State.wave?_setWave hw]
  obtain ⟨y, hy, hframes, howed, hstop⟩ := Block.stopAll_wave .park hv
  have hblock := State.block?_setBlock (State.block?_setWave hb v) (({ x.block with waves := x.block.waves.set x.w.wav v } : Block).stopAll .park)
  rw [hset]
  exact ⟨y, _, (State.wave?_eq hblock).trans hy, hblock, hframes, howed, hstop, rfl, by simp, by simp, by simp⟩

/-! ## trap (R139) -/

section
variable {s : State} {x : Site} {fr : Frame} {c : Cur} {f : Fields} {m : LaneMask} {va : Value}
  (ha : f.a = 0 ∧ va = Value.void ∨ Names c f.a .i32 va)
include ha

/-- An operand that is given is an i32. -/
theorem trap_operand : (va.ty == .i32) = decide (f.a ≠ 0) := by
  rcases ha with ⟨h0, rfl⟩ | ⟨hne, -, hvty⟩
  · rw [h0]; rfl
  · rw [hvty, decide_eq_true hne]; rfl

theorem trap_fits (hty : f.typ = 0) (hmd : f.md = 0) (hb : f.b = 0) (hc : f.c = 0) (hm : Active c f.p m) :
    Fits opTrap f x c { a := .may [.i32], b := .absent, c := .absent, pred := true, res := .void, pass := .every }
      (laneIn x c f m .void va .void .void) := by
  have harg : fetchArg c (.may [.i32]) f.a = some va := by
    rcases ha with ⟨h0, rfl⟩ | ⟨hne, href, hvty⟩
    · simp [fetchArg, h0]
    · have hne' : (f.a == 0) = false := beq_eq_false_iff_ne.mpr hne
      simp only [fetchArg, hne', href, hvty]
      rfl
  exact fits_mk (by rw [hty]; rfl) (by rw [hty, hmd]; rfl) harg (fetchArg_none hb) (fetchArg_none hc) rfl hm

end

/-- A value that the place takes whole. -/
theorem placeValue_every {fm : Form} {i : OpIn} {v : Value} (h : fm.pass = .every) : placeValue fm i v = v := by
  simp only [placeValue, h]

/-- The codes that `trap` records: those of the active lanes, where an operand is given. -/
def trapCodes (m : LaneMask) (va : Value) : Lanes Word :=
  Lanes.tab fun k => if m.has k.val && va.ty == .i32 then BitVec.ofNat 32 (va.nat k) else 0

/-- Settles O21: with an active lane `trap` is a trap that parks, and its record holds the codes. -/
theorem userTrap : Obligations.UserTrap := by
  unfold Obligations.UserTrap
  intro s x fr c f m hx hn hty hmd hb hc hm va ha
  have hfit := trap_fits (x := x) ha hty hmd hb hc hm
  refine ⟨fun h0 => ?_, fun h0 => ?_⟩
  · have hcore : opTrap.core (laneIn x c f m .void va .void .void) s = .done s Value.void := if_pos (beq_iff_eq.mpr h0)
    have hdone := runOp_done (op := opTrap) hx hfit hcore
    rw [placeValue_every rfl] at hdone
    exact hdone
  · have hcore : opTrap.core (laneIn x c f m .void va .void .void) s = .trap 7 (trapCodes m va) := if_neg fun h => h0 (beq_iff_eq.mp h)
    obtain ⟨-, hsite, -⟩ := id hx
    obtain ⟨y, b, hy, hb, hframes, howed, hstop, hfate, hmem, hctxs, htiles⟩ := State.takeParkTrap_spec hsite hn m 7 (trapCodes m va)
    refine ⟨_, y, b, x.trapRecord m 7 (trapCodes m va), runOp_trap hx hfit hcore, hy, hb, hframes, howed, rfl, rfl, rfl,
      placePoint_of_atPlace hx, fun k => ?_, hstop, hfate, hmem, hctxs, htiles⟩
    simp only [Site.trapRecord, trapCodes, Lanes.get_tab, trap_operand ha, Bool.and_eq_true, decide_eq_true_eq]

/-! ## What opens the handler (R140, R141) -/

section
variable {s : State} {x : Site} {fr : Frame} {c : Cur} {word : BitVec 64} {res : Ty}

theorem State.takeReserved_parks (hn : x.wave.native = none)
    (h : x.launch.handler = none ∨ x.wave.inHandler = true ∨ 256 ≤ x.wave.frames.length) :
    s.takeReserved x c word res = s.takeParkTrap x c.mask 1 (Lanes.all 0) := by
  rw [State.takeReserved, if_neg (by simp [hn])]
  split
  · rfl
  · rename_i hh
    refine if_pos ?_
    rcases h with h | h | h
    · rw [hh] at h; cases h
    · simp [h]
    · simp [h]

/-- What `trapinfo` reads of a word that opens the handler (R142). -/
def trapInfoOf (x : Site) (c : Cur) (word : BitVec 64) : TrapInfo :=
  { kind := 1, opc := opcOf word, f := fieldsOf word, word := word, opA := operandBits c (fieldsOf word).a,
    opB := operandBits c (fieldsOf word).b, opC := operandBits c (fieldsOf word).c, pmask := predLanes c (fieldsOf word).p,
    point := x.wave.placePoint }

theorem State.takeReserved_enters {h : Nat} {u : Translation} {b : BlockCode} (hx : AtPlace s x fr c) (hn : x.wave.native = none)
    (hd : s.debugFrame fr = false) (hword : neverHandled (opcOf word).toNat = false) (hh : x.launch.handler = some h)
    (hin : x.wave.inHandler = false) (hroom : x.wave.frames.length < 256) (hu : s.calleeCode x h = some u) (hb : u.blocks.head? = some b)
    (hp : b.params = []) :
    s.takeReserved x c word res = (s.touch u).setWave x.w (pushHandler x.wave h u.tid (trapInfoOf x c word) c.mask res) := by
  obtain ⟨r, hf, -⟩ := frames_of_atPlace hx
  obtain ⟨bs, hbs⟩ := List.head?_eq_some_iff.mp hb
  have hfree : (neverHandled (opcOf word).toNat || x.wave.inHandler || decide (256 ≤ x.wave.frames.length)) = false := by
    simp [hword, hin, hroom]
  rw [hf] at hfree
  rw [State.takeReserved, if_neg (by simp [hn])]
  simp only [hh, hf, hfree, hu, hbs, hp, hd, ne_eq, not_true, Bool.false_eq_true, if_false]
  rfl

end

/-- A handler's frame, whose one path SELECT takes. -/
theorem pushHandler_eq (x : Wave) (h tid : Nat) (info : TrapInfo) (m : LaneMask) (res : Ty) :
    pushHandler x h tid info m res =
      { atDepth x (x.frames.length + 1) with
        frames :=
          { kind := .handler, func := h, tid := tid, pending := [], cur := some { block := 0, mask := m, vidx := 0, vals := [] }, retMask := 0,
            ret := Lanes.all 0, retTy := res, trap := some info, kept := [] } :: x.frames
        quarters := [], quartersB := [] } := by
  unfold pushHandler
  exact Eq.trans (Wave.select_pending rfl rfl rfl) rfl

/-- Of the instructions with operand forms each may enter the handler. -/
theorem rowsAll_handled : ∀ e ∈ rowsAll, neverHandled (BitVec.ofNat 9 e.2.opc).toNat = false := by
  have hall : (rowsAll.map fun e => neverHandled (BitVec.ofNat 9 e.2.opc).toNat).all (· == false) = true := by decide
  intro e he
  exact beq_iff_eq.mp (List.all_eq_true.mp hall _ (List.mem_map_of_mem he))

/-- Settles O22: trap(RESERVED) pushes the handler's frame, or parks the block where none can be pushed. -/
theorem handlerEntry : Obligations.HandlerEntry := by
  unfold Obligations.HandlerEntry
  intro e he f s x fr c hx hn hno
  have htrap := illegalFormsTrap e he f s x fr c hx hno
  refine ⟨fun h => htrap.trans (congrArg Host.Outcome.next (State.takeReserved_parks hn h)), fun h u b hd hh hin hroom hu hb hp => ?_⟩
  have hword : neverHandled (opcOf (wordOf (BitVec.ofNat 9 e.2.opc) f)).toNat = false := by
    rw [Laws.opcOf_wordOf]
    exact rowsAll_handled e he
  refine ⟨_, trapInfoOf x c (wordOf (BitVec.ofNat 9 e.2.opc) f),
    htrap.trans (congrArg Host.Outcome.next ((State.takeReserved_enters hx hn hd hword hh hin hroom hu hb hp).trans
      (by rw [pushHandler_eq]))), rfl, rfl, rfl, rfl, rfl, rfl, rfl, rfl, rfl, Laws.opcOf_wordOf _ _, Laws.fieldsOf_wordOf _ _,
    placePoint_of_atPlace hx⟩

/-! ## yield and trapinfo (R138, R142) -/

/-- A word without operands fits a form without operands. -/
theorem fits_noOperands {op : Op} {f : Fields} {x : Site} {c : Cur} {T : Ty} {fm : Form} (hT : Ty.ofCode f.typ.toNat = some T)
    (hf : op.form f.typ.toNat f.md.toNat = some fm) (hfa : fm.a = .absent) (hfb : fm.b = .absent) (hfc : fm.c = .absent)
    (h0 : f.a = 0 ∧ f.b = 0 ∧ f.c = 0 ∧ f.p = 0) : Fits op f x c fm (laneIn x c f c.mask T .void .void .void) := by
  obtain ⟨ha, hb, hc, hp⟩ := h0
  refine ⟨T, hT, hf, ?_⟩
  have hpred : fetchPred c fm.pred f.p = some (BitVec.allOnes 32) := by simp [fetchPred, hp]
  simp only [fetchOperands, hfa, hfb, hfc, fetchArg_none ha, fetchArg_none hb, fetchArg_none hc, hpred, BitVec.and_allOnes, laneIn]

section
variable {s : State} {x : Site} {fr : Frame} {c : Cur} {f : Fields} (hx : AtPlace s x fr c) (h0 : f.a = 0 ∧ f.b = 0 ∧ f.c = 0 ∧ f.p = 0)
include hx h0

theorem exec_yield (hty : f.typ = 0) (hmd : f.md = 0) :
    exec (.yield f) s =
      .next (((s.completePlace x.w 0x0C5 Value.void []).progress x.w).swapPlace x.tile (x.w.wav % 2 == 1) x.w true) := by
  have hfit : Fits opYield f x c _ _ := fits_noOperands (T := .void)
    (fm := { a := .absent, b := .absent, c := .absent, pred := false, res := .void, pass := .everyPath }) (by rw [hty]; rfl)
    (by rw [hty, hmd]; rfl) rfl rfl rfl h0
  exact runOp_fits (op := opYield) hx hfit

/-- What a selector reads, in every lane that holds a path. -/
theorem exec_trapinfo {T : Ty} (hT : f.typ.toNat = T.code) (hTs : T ∈ tyTrapinfo) (hok : trapinfoOk f.md.toNat T = true) :
    CompletesBy (exec (.trapinfo f) s) s x 0x0C7 T (BitVec.allOnes 32) (fun _ => 0) fun k d =>
      d = (x.wave.trapInfo?.elim 0 fun t => t.sel f.md.toNat k) % 2 ^ T.bits := by
  have hty : Ty.ofCode f.typ.toNat = some T := hT ▸ Ty.ofCode_code T
  have hfit : Fits opTrapinfo f x c _ _ := fits_noOperands
    (fm := { a := .absent, b := .absent, c := .absent, pred := false, res := T, pass := .everyPath }) hty
    (formFor_some hty hTs (by rw [hty]; exact hok)) rfl rfl rfl h0
  exact completesBy_everyPath (op := opTrapinfo) hx hfit rfl rfl rfl fun k => by
    rw [lanesOf, Value.nat_tab]
    cases hi : x.wave.trapInfo? <;> simp [laneIn, hi]

end

/-- The selectors one by one (R142). -/
theorem trapInfo_sel_spec (i : TrapInfo) (md : BitVec 6) (T : Ty) (k : Fin 32) (hok : trapinfoOk md.toNat T = true) :
    let d := i.sel md.toNat k % 2 ^ T.bits
    (md = 0 → d = i.kind % 2 ^ 32) ∧ (md = 1 → d = i.opc.toNat) ∧ (md = 2 → d = i.f.typ.toNat) ∧
    (md = 3 → d = i.f.md.toNat) ∧ (md = 4 → d = i.f.a.toNat) ∧ (md = 5 → d = i.f.b.toNat) ∧
    (md = 6 → d = i.f.c.toNat) ∧ (md = 7 → d = i.f.p.toNat) ∧
    (md = 8 → d = (i.opA.get k).toNat % 2 ^ T.bits) ∧ (md = 9 → d = (i.opB.get k).toNat % 2 ^ T.bits) ∧
    (md = 10 → d = (i.opC.get k).toNat % 2 ^ T.bits) ∧ (md = 11 → d = if i.pmask.has k.val then 1 else 0) ∧
    (md = 12 → d = i.point.func % 2 ^ 32) ∧ (md = 13 → d = i.point.block % 2 ^ 32) ∧
    (md = 14 → d = i.point.vidx % 2 ^ 32) ∧ (md = 15 → d = i.word.toNat) := by
  have hn32 : md.toNat ≤ 7 ∨ 12 ≤ md.toNat ∧ md.toNat ≤ 14 → T = .n32 := by
    rintro (h | ⟨hlo, hhi⟩)
    · simpa [trapinfoOk, h] using hok
    · simpa [trapinfoOk, hhi, show ¬md.toNat ≤ 7 by omega, show ¬md.toNat ≤ 10 by omega, show md.toNat ≠ 11 by omega] using hok
  have hfield : ∀ {w : Nat} (b : BitVec w), w ≤ 32 → b.toNat % 2 ^ 32 = b.toNat := fun b hw =>
    Nat.mod_eq_of_lt (b.isLt.trans_le (Nat.pow_le_pow_right Nat.two_pos hw))
  refine ⟨?_, ?_, ?_, ?_, ?_, ?_, ?_, ?_, fun h => ?_, fun h => ?_, fun h => ?_, fun h => ?_, ?_, ?_, ?_, fun h => ?_⟩
  case refine_9 | refine_10 | refine_11 => rw [h]; rfl
  case refine_12 =>
    subst h
    obtain rfl : T = .pred := beq_iff_eq.mp hok
    show (if i.pmask.has k.val then 1 else 0) % 2 = _
    split <;> rfl
  case refine_16 =>
    subst h
    obtain rfl : T = .n64 := beq_iff_eq.mp hok
    exact Nat.mod_eq_of_lt i.word.isLt
  all_goals
    rintro rfl
    obtain rfl := hn32 (by decide)
  case refine_1 | refine_13 | refine_14 | refine_15 => rfl
  all_goals exact hfield _ (by decide)

/-- Settles O23: neither word has an operand, so each fits its form; a selector's lanes are cut to its type. -/
theorem yieldAndTrapinfo : Obligations.YieldAndTrapinfo := by
  unfold Obligations.YieldAndTrapinfo
  intro s x fr c f hx ha hb hc hp
  have h0 : f.a = 0 ∧ f.b = 0 ∧ f.c = 0 ∧ f.p = 0 := ⟨ha, hb, hc, hp⟩
  refine ⟨exec_yield hx h0, fun T hT hTs hok => ⟨fun hnone => ?_, fun i hi => ?_⟩⟩
  · refine (exec_trapinfo hx h0 hT hTs hok).mono fun k d hd => ?_
    rw [hd, hnone]
    exact Nat.zero_mod _
  · refine (exec_trapinfo hx h0 hT hTs hok).mono fun k d hd => ?_
    rw [hd, hi]
    exact trapInfo_sel_spec i f.md T k hok

end Sys2Proof.Machine
end

section
/-!
PROOFS. Reading and clearing the two sticky statuses (07 R154, R156; O14).
-/

namespace Sys2Proof.Machine

open Sys2Proof

theorem placeValue_void {fm : Form} (hp : fm.pass = .zero) (i : OpIn) : placeValue fm i Value.void = Value.void := by
  have hmerge : ∀ m : LaneMask, mergeLanes m (Lanes.all (0 : LaneBits)) (Lanes.all 0) = Lanes.all 0 := fun m => by
    simp [mergeLanes, Lanes.all]
  simp only [placeValue, hp, Value.void, hmerge]

section
variable {op : Op} {f : Fields} {s : State} {x : Site} {fr : Frame} {c : Cur} (hx : AtPlace s x fr c) (hmd : f.md = 0)
  (h0 : f.a = 0 ∧ f.b = 0 ∧ f.c = 0 ∧ f.p = 0)
include hmd h0

/-- A word without operands and modifiers, of the one type that its operation takes. -/
theorem fits_bare {T R : Ty} {pass : Pass} (hT : f.typ.toNat = T.code) (hform : ∀ t, op.form t 0 = bareForm T R pass t true) :
    Fits op f x c { a := .absent, b := .absent, c := .absent, pred := false, res := R, pass := pass }
      (laneIn x c f c.mask T .void .void .void) := by
  have hty : Ty.ofCode f.typ.toNat = some T := hT ▸ Ty.ofCode_code T
  refine fits_noOperands hty ?_ rfl rfl rfl h0
  rw [hmd]
  exact (hform _).trans (formFor_some hty (List.mem_singleton_self T) rfl)

include hx

/-- A five-bit status that an operation gives in every lane (log entry 51). -/
theorem completesBy_status {n : BitVec 5} (hT : f.typ.toNat = Ty.n32.code)
    (hform : ∀ t, op.form t 0 = bareForm .n32 .n32 .everyPath t true)
    (hcore : ∀ i, i.x = x → op.core i s = .done s (splat .n32 n.toNat)) :
    CompletesBy (runOp op f s) s x op.opc .n32 (BitVec.allOnes 32) (fun _ => 0) fun _ d => d = n.toNat := by
  refine completesBy_everyPath hx (fits_bare hmd h0 hT hform) rfl (hcore _ rfl) rfl fun k => ?_
  rw [splat, Value.nat_tab]
  exact Nat.mod_eq_of_lt (n.isLt.trans (by decide))

/-- An operation that changes its wave and defines nothing. -/
theorem completesVoid_modWave {g : Wave → Wave} (hT : f.typ = 0) (hform : ∀ t, op.form t 0 = bareForm .void .void .zero t true)
    (hcore : ∀ i, op.core i s = .done (i.modWave s g) Value.void) :
    CompletesVoid (runOp op f s) (s.setWave x.w (g x.wave)) x op.opc := by
  obtain ⟨-, -, -, hw⟩ := State.site_spec hx.2.1
  have hdone := runOp_done hx (fits_bare hmd h0 (T := .void) (by rw [hT]; rfl) hform) (hcore _)
  rwa [placeValue_void rfl, OpIn.modWave, laneIn, State.modWave_eq hw] at hdone

end

/-- Settles O14: a status word has no operands, so it fits its form and reads or clears its own wave's bits. -/
theorem statusInstructions : Obligations.StatusInstructions := by
  unfold Obligations.StatusInstructions
  intro s x fr c f hx hmd ha hb hc hp
  have h0 : f.a = 0 ∧ f.b = 0 ∧ f.c = 0 ∧ f.p = 0 := ⟨ha, hb, hc, hp⟩
  refine ⟨fun hT => ⟨?_, ?_⟩, fun hT => ⟨?_, ?_⟩⟩
  · exact completesBy_status (op := opFstat) hx hmd h0 hT (fun _ => rfl) fun i hi => by rw [← hi]; rfl
  · exact completesBy_status (op := opSliStat) hx hmd h0 hT (fun _ => rfl) fun i hi => by rw [← hi]; rfl
  · exact completesVoid_modWave (op := opFclr) (g := fun y => { y with ieee := 0 }) hx hmd h0 hT (fun _ => rfl) fun _ => rfl
  · exact completesVoid_modWave (op := opSliClr) (g := fun y => { y with sli := 0 }) hx hmd h0 hT (fun _ => rfl) fun _ => rfl

end Sys2Proof.Machine
end

section
/-!
PROOFS. Conversions and quantisation (07 R159-R166; O10): when they complete, and the traps of a pair of types and of a format.
-/

namespace Sys2Proof

open Sys2Proof.Machine

theorem Fits.argA {op : Op} {f : Fields} {x : Site} {c : Cur} {fm : Form} {i : OpIn} (h : Fits op f x c fm i) :
    fetchArg c fm.a f.a = some i.a := by
  obtain ⟨ty, -, -, hi⟩ := h
  unfold fetchOperands at hi
  split at hi
  · rename_i ha _ _ _
    cases hi
    exact ha
  · cases hi

end Sys2Proof

namespace Sys2Proof.Machine

open Sys2Proof

theorem completesFrom_of_core {e : OpRow} {f : Fields} {s s1 : State} {x : Site} {fr : Frame} {c : Cur} {fm : Form} {i : OpIn}
    (he : e ∈ rowsAll) (hx : AtPlace s x fr c) (hf : Fits e.2 f x c fm i)
    (hcore : ∃ t v, e.2.core i s = .done t v ∧ OnlyFlags s1 t i.x.w) : CompletesFrom e f s s1 x fm i := by
  obtain ⟨t, v, hdone, hflags⟩ := hcore
  rw [hf.x_eq] at hflags
  exact ⟨t, v, hdone, hflags, by rw [exec_eq_runOp he]; exact runOp_done hx hf hdone⟩

/-! ## Pairs of types (R159) -/

theorem formFor_of_code {ts : List Ty} {typ : Nat} {ok : Bool} {g : Ty → Form} {fm : Form} {T : Ty} (hT : Ty.ofCode typ = some T)
    (h : formFor ts typ ok g = some fm) : fm = g T := by
  simp only [formFor, hT] at h
  split at h
  · exact (Option.some.inj h).symm
  · cases h

/-- A field that must name an operand names the one that is fetched. -/
theorem fetchArg_need_ref {c : Cur} {ts : List Ty} {r : Ref} {v : Value} (h : fetchArg c (.need ts) r = some v) : c.ref? r = some v := by
  simp only [fetchArg] at h
  split at h
  · cases h
  · split at h
    · rename_i hv
      split at h
      · exact hv.trans h
      · cases h
    · cases h

/-- Operand a of a word that fits `cvt` has a type that makes a legal pair with the word's own. -/
theorem cvtOk_of_fits {f : Fields} {x : Site} {c : Cur} {fm : Form} {i : OpIn} (hf : Fits opCvt f x c fm i) :
    cvtOk i.a.ty i.ty (modRd f.md.toNat) (modFtz f.md.toNat) = true := by
  obtain ⟨-, -, hty, -, -⟩ := Fits.spec hf
  have ha := hf.argA
  rw [formFor_of_code hty hf.form] at ha
  exact (List.mem_filter.mp (fetchArg_need_ty ha)).2

theorem coreCvt_done {i : OpIn} (s : State) (h : cvtOk i.a.ty i.ty (modRd i.md) (modFtz i.md) = true) :
    ∃ t v, coreCvt i s = .done t v ∧ OnlyFlags s t i.x.w :=
  ⟨_, _, if_pos h, onlyFlags_trans (onlyFlags_orIeee ..) (onlyFlags_orSli ..)⟩

/-- A pair that is not legal fits no form. -/
theorem exec_cvt_reserved {f : Fields} {s : State} {x : Site} {fr : Frame} {c : Cur} {T S : Ty} {va : Value} (hx : AtPlace s x fr c)
    (hTs : T ∈ tyCvt) (hT : f.typ.toNat = T.code) (ha : Names c f.a S va) (hpair : cvtOk S T (modRd f.md.toNat) (modFtz f.md.toNat) = false) :
    exec (.cvt f) s = .next (s.takeReserved x c (wordOf 0x0A0#9 f) T) := by
  have hunfit : ∀ fm i, ¬Fits opCvt f x c fm i := by
    intro fm i hf
    obtain ⟨-, -, hty, -, -⟩ := Fits.spec hf
    have hok := cvtOk_of_fits hf
    have harg := hf.argA
    rw [hT, Ty.ofCode_code] at hty
    rw [formFor_of_code (hT ▸ Ty.ofCode_code T) hf.form] at harg
    obtain rfl : i.a = va := Option.some.inj ((fetchArg_need_ref harg).symm.trans ha.2.1)
    rw [ha.ty_eq, ← Option.some.inj hty, hpair] at hok
    cases hok
  refine (runOp_unfit (op := opCvt) hx hunfit).trans ?_
  simp only [Op.resTy, hT, opCvt, resSame_code hTs, Option.getD_some]
  rfl

/-! ## Format halves (R161-R165) -/

/-- An operation that reads a format half: with no active lane it reads none; it traps at a format that is not listed; and after the read
of the table it completes. -/
structure Op.ReadsHalf (op : Op) : Prop where
  idle : ∀ i s, i.mask = 0 → ∃ v, op.core i s = .done s v
  unlisted : ∀ i s, i.mask ≠ 0 → 8 < i.half.fmt → op.core i s = trapFormat
  read : ∀ i s s1 tab, i.mask ≠ 0 → i.half.fmt ≤ 8 → s.readTable i.x i.half = .ok (s1, tab) →
    ∃ t v, op.core i s = .done t v ∧ OnlyFlags s1 t i.x.w

theorem quantOp_readsHalf (opc : Nat) (scaleOnly : Bool) (ok : Nat → Bool) : (quantOp opc scaleOnly ok).ReadsHalf where
  idle i s hm := ⟨_, if_pos (beq_iff_eq.mpr hm)⟩
  unlisted i s hm hfmt := by simp only [quantOp, coreQuant, mask_beq_zero hm, hfmt, if_true, Bool.false_eq_true, if_false]
  read i s s1 tab hm hfmt hr := by
    simp only [quantOp, coreQuant, mask_beq_zero hm, Nat.not_lt.mpr hfmt, hr, Bool.false_eq_true, if_false]
    cases scaleOnly <;> exact ⟨_, _, rfl, onlyFlags_orIeee ..⟩

theorem opDq_readsHalf : opDq.ReadsHalf where
  idle i s hm := ⟨_, if_pos (beq_iff_eq.mpr hm)⟩
  unlisted i s hm hfmt := by simp only [opDq, coreDq, mask_beq_zero hm, hfmt, if_true, Bool.false_eq_true, if_false]
  read i s s1 tab hm hfmt hr := by
    simp only [opDq, coreDq, mask_beq_zero hm, Nat.not_lt.mpr hfmt, hr, Bool.false_eq_true, if_false]
    exact ⟨_, _, rfl, onlyFlags_orIeee ..⟩

theorem rowsHalf_readsHalf : ∀ e ∈ rowsHalf, e.2.ReadsHalf := by
  intro e he
  simp only [rowsHalf, List.mem_cons, List.not_mem_nil, or_false] at he
  rcases he with rfl | rfl | rfl
  · exact quantOp_readsHalf ..
  · exact quantOp_readsHalf ..
  · exact opDq_readsHalf

theorem mem_rowsAll_of_half {e : OpRow} (he : e ∈ rowsHalf) : e ∈ rowsAll := by
  simp only [rowsAll, List.mem_append]
  tauto

theorem mem_rowsAll_of_other {e : OpRow} (he : e ∈ rowsOtherA) : e ∈ rowsAll := by
  simp only [rowsAll, List.mem_append]
  tauto

/-! ## hadm (R165) -/

theorem coreHadm_transform {i : OpIn} (s : State) (h : i.half.xform = 1) : ∃ t v, coreHadm i s = .done t v ∧ OnlyFlags s t i.x.w := by
  by_cases hm : i.mask = 0
  · exact ⟨s, _, if_pos (beq_iff_eq.mpr hm), onlyFlags_refl ..⟩
  · simp only [coreHadm, mask_beq_zero hm, h, beq_self_eq_true, if_true, Bool.false_eq_true, if_false]
    exact ⟨_, _, rfl, onlyFlags_trans (onlyFlags_orIeee ..) (onlyFlags_orIeee ..)⟩

theorem coreHadm_read {i : OpIn} {s s1 : State} {tab : Option Compand} (hm : i.mask ≠ 0) (h : i.half.xform ≠ 1)
    (hr : s.readTable i.x i.half = .ok (s1, tab)) : ∃ t v, coreHadm i s = .done t v ∧ OnlyFlags s1 t i.x.w := by
  simp only [coreHadm, mask_beq_zero hm, beq_eq_false_iff_ne.mpr h, hr, Bool.false_eq_true, if_false]
  exact ⟨_, _, rfl, onlyFlags_orIeee ..⟩

/-! ## The obligation -/

/-- The operations that move bits alone set no flag. -/
theorem bitMoves_setsFlags : ∀ e ∈ ([(.bitc, opBitc), (.pkn, opPkn), (.upkn, opUpkn)] : List OpRow), e ∈ rowsOtherA ∧ e.2.SetsFlags := by
  intro e he
  simp only [List.mem_cons, List.not_mem_nil, or_false] at he
  rcases he with rfl | rfl | rfl <;> exact ⟨by simp [rowsOtherA], setsFlags_done fun _ _ => ⟨_, rfl⟩⟩

/-- Settles O10: each meaning ends, after its checks, in a value and flags. -/
theorem conversionOpsComplete : Obligations.ConversionOpsComplete := by
  unfold Obligations.ConversionOpsComplete
  intro f s x fr c fm i hx
  refine ⟨fun hf => ?_, fun T S va hTs hT ha hpair => exec_cvt_reserved hx hTs hT ha hpair, fun e he hf => ?_, fun e he hf => ?_,
    fun hf => ?_⟩
  · exact completesFrom_of_core (mem_rowsAll_of_other (by simp [rowsOtherA])) hx hf (coreCvt_done s (hf.md_eq ▸ cvtOk_of_fits hf))
  · obtain ⟨hrow, hflags⟩ := bitMoves_setsFlags e he
    exact completesFrom_of_core (mem_rowsAll_of_other hrow) hx hf (hflags i s)
  · have hop := rowsHalf_readsHalf e he
    have hrow := mem_rowsAll_of_half he
    refine ⟨fun s1 tab hfmt hr hm => ?_, fun hm => ?_, fun hfmt hm => ?_⟩
    · exact completesFrom_of_core hrow hx hf (hop.read i s s1 tab hm hfmt hr)
    · obtain ⟨v, hv⟩ := hop.idle i s hm
      exact completesFrom_of_core hrow hx hf ⟨s, v, hv, onlyFlags_refl ..⟩
    · rw [exec_eq_runOp hrow]
      exact runOp_trapFormat hx hf (hop.unlisted i s hm hfmt)
  · refine ⟨fun h => ?_, fun s1 tab h hr hm => ?_⟩
    · exact completesFrom_of_core (mem_rowsAll_of_other (by simp [rowsOtherA])) hx hf (coreHadm_transform s h)
    · exact completesFrom_of_core (mem_rowsAll_of_other (by simp [rowsOtherA])) hx hf (coreHadm_read hm h hr)

end Sys2Proof.Machine
end

section
/-!
PROOFS. Packed rows (07 R166; O16): fields of one width side by side, bit by bit, and the two instructions that move them.
-/

namespace Sys2Proof.Machine

open Sys2Proof

/-! ## Fields of one width -/

section
variable {w : Nat} (hw : 0 < w) {g : Nat → Nat} (hg : ∀ t, g t < 2 ^ w)

include hg in
theorem sum_fields_lt (n : Nat) : ∑ t ∈ Finset.range n, g t * 2 ^ (w * t) < 2 ^ (w * n) := by
  induction n with
  | zero => simp
  | succ n ih =>
    rw [Finset.sum_range_succ, Nat.mul_succ, Nat.pow_add]
    nlinarith [hg n, Nat.two_pow_pos (w * n)]

include hw hg

/-- Bit j of a row of fields stands in field j / w. -/
theorem testBit_sum_fields (n j : Nat) :
    (∑ t ∈ Finset.range n, g t * 2 ^ (w * t)).testBit j = (decide (j < w * n) && (g (j / w)).testBit (j % w)) := by
  induction n with
  | zero => simp
  | succ n ih =>
    rw [Finset.sum_range_succ, Nat.add_comm, Nat.mul_comm, Nat.testBit_two_pow_mul_add _ (sum_fields_lt hg n), ih]
    split
    · rename_i hj
      simp [hj, show j < w * (n + 1) by rw [Nat.mul_succ]; omega]
    · rename_i hj
      obtain ⟨i, rfl⟩ := Nat.exists_eq_add_of_le (Nat.not_lt.mp hj)
      rw [Nat.add_sub_cancel_left]
      by_cases hi : i < w
      · rw [decide_eq_true (show w * n + i < w * (n + 1) by rw [Nat.mul_succ]; omega), Nat.mul_add_div hw, Nat.div_eq_of_lt hi,
          Nat.mul_add_mod, Nat.mod_eq_of_lt hi]
        rfl
      · rw [decide_eq_false (show ¬w * n + i < w * (n + 1) by rw [Nat.mul_succ]; omega),
          Nat.testBit_lt_two_pow ((hg n).trans_le (Nat.pow_le_pow_right Nat.two_pos (by omega)))]
        rfl

theorem sum_fields_field {n t : Nat} (ht : t < n) : (∑ t ∈ Finset.range n, g t * 2 ^ (w * t)) / 2 ^ (w * t) % 2 ^ w = g t := by
  refine Nat.eq_of_testBit_eq fun j => ?_
  rw [Nat.testBit_mod_two_pow, Nat.testBit_div_two_pow, testBit_sum_fields hw hg]
  by_cases hj : j < w
  · have hin : w * t + j < w * n := by
      have := Nat.mul_le_mul_left w (Nat.succ_le_of_lt ht)
      rw [Nat.mul_succ] at this
      omega
    rw [Nat.add_comm, decide_eq_true hj, decide_eq_true hin, Nat.mul_add_div hw, Nat.div_eq_of_lt hj, Nat.mul_add_mod, Nat.mod_eq_of_lt hj]
    rfl
  · rw [decide_eq_false hj, Nat.testBit_lt_two_pow ((hg t).trans_le (Nat.pow_le_pow_right Nat.two_pos (by omega)))]
    rfl

end

theorem foldl_add_finRange {n : Nat} (h : Nat → Nat) :
    (List.finRange n).foldl (fun r k => r + h k.val) 0 = ∑ t ∈ Finset.range n, h t := by
  rw [Finset.sum_range, Fin.sum_univ_def, List.sum_eq_foldl, List.foldl_map]

/-! ## Rows -/

section
variable {w : Nat} (hw : 0 < w) (a : Value)

include hw in
/-- The packed row holds the low w bits of each lane. -/
theorem testBit_packRow (j : Nat) :
    (packRow w a).testBit j = (decide (j < 32 * w) && (a.nat (Fin.ofNat 32 (j / w))).testBit (j % w)) := by
  have hrow : packRow w a = ∑ t ∈ Finset.range 32, a.nat (Fin.ofNat 32 t) % 2 ^ w * 2 ^ (w * t) := by
    rw [← foldl_add_finRange]
    simp only [packRow, Fin.ofNat_val_eq_self, Nat.mul_comm w]
  rw [hrow, testBit_sum_fields hw (fun t => Nat.mod_lt _ (Nat.two_pow_pos w)), Nat.testBit_mod_two_pow, decide_eq_true (Nat.mod_lt j hw),
    Bool.true_and, Nat.mul_comm]

/-- The row that lanes hold has 32 bits of each of the first w. -/
theorem testBit_rowOfLanes (ha : ∀ k, a.nat k < 2 ^ 32) {j : Nat} (hw : w ≤ 32) (hj : j < 32 * w) :
    (rowOfLanes w a).testBit j = (a.nat (Fin.ofNat 32 (j / 32))).testBit (j % 32) := by
  have hrow : rowOfLanes w a = ∑ t ∈ Finset.range 32, (if t < w then a.nat (Fin.ofNat 32 t) else 0) * 2 ^ (32 * t) := by
    rw [← foldl_add_finRange]
    simp only [rowOfLanes, Fin.ofNat_val_eq_self, ite_mul, Nat.zero_mul, apply_ite, Nat.add_zero]
  have hfield : ∀ t, (if t < w then a.nat (Fin.ofNat 32 t) else 0) < 2 ^ 32 := fun t => by
    split
    · exact ha _
    · decide
  rw [hrow, testBit_sum_fields (by decide) hfield, decide_eq_true (by omega), if_pos (by omega), Bool.true_and]

end

/-- The code that a lane takes from the row. -/
def unpackedCode (w : Nat) (a : Value) (i : Fin 32) : Nat := rowOfLanes w a / 2 ^ (i.val * w) % 2 ^ w

theorem unpackedCode_lt (w : Nat) (a : Value) (i : Fin 32) : unpackedCode w a i < 2 ^ w := Nat.mod_lt _ (Nat.two_pow_pos w)

theorem testBit_unpackedCode {w : Nat} {a : Value} (hw : w ≤ 32) (ha : ∀ k, a.nat k < 2 ^ 32) (i : Fin 32) {j : Nat} (hj : j < w) :
    (unpackedCode w a i).testBit j = (a.nat (Fin.ofNat 32 ((i.val * w + j) / 32))).testBit ((i.val * w + j) % 32) := by
  have hin : i.val * w + j < 32 * w := by nlinarith [i.isLt]
  rw [unpackedCode, Nat.testBit_mod_two_pow, Nat.testBit_div_two_pow, decide_eq_true hj, Bool.true_and, Nat.add_comm,
    testBit_rowOfLanes a ha hw hin]

/-- Sign extension of a code, where it is asked for. -/
theorem signed_code {w x : Nat} (hpos : 0 < w) (hle : w ≤ 32) (hx : x < 2 ^ w) (b : Bool) :
    (if (b && decide (2 ^ (w - 1) ≤ x)) = true then x + (2 ^ 32 - 2 ^ w) else x) = extend 32 w (b && x.testBit (w - 1)) x := by
  rw [testBit_top hpos hx, extend, Nat.mul_comm, Nat.add_comm]
  split
  · rw [Nat.sub_mul, Nat.one_mul, ← Nat.pow_add, Nat.sub_add_cancel hle]
  · rw [Nat.zero_mul, Nat.zero_add]

/-! ## The instructions -/

/-- The widths of R25 by their codes. -/
theorem packWidth_eq {md : BitVec 6} {w : Nat} (h : md = 0 ∧ w = 8 ∨ md = 1 ∧ w = 6 ∨ md = 2 ∧ w = 4) :
    packWidth md.toNat = w ∧ md.toNat ≤ 2 ∧ 0 < w ∧ w ≤ 8 := by
  rcases h with ⟨rfl, rfl⟩ | ⟨rfl, rfl⟩ | ⟨rfl, rfl⟩ <;> decide

section
variable {s : State} {x : Site} {fr : Frame} {c : Cur} {f : Fields} {m : LaneMask} {w : Nat} {va : Value} (hx : AtPlace s x fr c)
  (hw : f.md = 0 ∧ w = 8 ∨ f.md = 1 ∧ w = 6 ∨ f.md = 2 ∧ w = 4) (ha : Names c f.a .n32 va) (hb : f.b = 0) (hc : f.c = 0)
  (hm : Active c f.p m)
include hx hw ha hb hc hm

theorem exec_pkn (hT : f.typ.toNat = Ty.n32.code) :
    CompletesBy (exec (.pkn f) s) s x 0x0A4 .n32 m (fun _ => 0) fun i d =>
      d = if i.val < w then packRow w va / 2 ^ (32 * i.val) % 2 ^ 32 else 0 := by
  obtain ⟨hpack, hmd, -, -⟩ := packWidth_eq hw
  have hform := formFor_some (g := fun T => { a := .need [.n32], b := .absent, c := .absent, pred := true, res := T, pass := .zero })
    (Ty.ofCode_code .n32) (List.mem_singleton_self _) (decide_eq_true hmd)
  refine completes_lanes_zero (op := opPkn) hx hT hform (fetchArg_one ha) (fetchArg_none hb) (fetchArg_none hc) rfl hm rfl rfl fun i _ => ?_
  simp only [laneIn, hpack]
  split
  · exact Nat.mod_mod ..
  · rfl

theorem exec_upkn {T : Ty} (hTs : T ∈ tyInt32) (hT : f.typ.toNat = T.code) :
    CompletesBy (exec (.upkn f) s) s x 0x0A5 T m (fun _ => 0) fun i d =>
      d = extend 32 w (T == .i32 && (unpackedCode w va i).testBit (w - 1)) (unpackedCode w va i) % 2 ^ 32 := by
  obtain ⟨hpack, hmd, hpos, hle⟩ := packWidth_eq hw
  refine completes_lanes_zero (op := opUpkn) hx hT (formFor_some (Ty.ofCode_code T) hTs (decide_eq_true hmd))
    (fetchArg_one ha) (fetchArg_none hb) (fetchArg_none hc) rfl hm rfl rfl fun i _ => ?_
  have hbits : T.bits = 32 := by
    simp only [tyInt32, List.mem_cons, List.not_mem_nil, or_false] at hTs
    rcases hTs with rfl | rfl <;> rfl
  rw [hbits, ← signed_code hpos (hle.trans (by decide)) (unpackedCode_lt w va i)]
  simp only [laneIn, hpack]
  rfl

end

/-- Settles O16: both rows are fields side by side, so a bit of one lies in the field that its place names. -/
theorem packedRows : Obligations.PackedRows := by
  unfold Obligations.PackedRows
  intro s x fr c f m w va hx hw ha hlane hb hc hm row
  obtain ⟨-, -, hpos, hle⟩ := packWidth_eq hw
  have hrow : ∀ (i : Fin 32) (j : Nat), j < w → (unpackedCode w va i).testBit j = row (i.val * w + j) := fun i j hj =>
    testBit_unpackedCode (hle.trans (by decide)) hlane i hj
  have hext : ∀ (i : Fin 32) (b : Bool) (j : Nat), j < 32 → _ := fun i b j hj => testBit_extend (unpackedCode_lt w va i) b hj
  refine ⟨fun hT => (exec_pkn hx hw ha hb hc hm hT).mono fun i d hd => ?_,
    fun hT => (exec_upkn hx hw ha hb hc hm (by decide) hT).mono fun i d hd => hd ▸ hasBits_mod fun j hj => ?_,
    fun hT => (exec_upkn hx hw ha hb hc hm (by decide) hT).mono fun i d hd => hd ▸ hasBits_mod fun j hj => ?_⟩
  · rw [hd]
    split
    · rename_i hi
      refine hasBits_mod fun j hj => ?_
      rw [Nat.testBit_div_two_pow, testBit_packRow hpos, decide_eq_true hi, decide_eq_true (by omega), Nat.add_comm]
    · rename_i hi
      exact ⟨by decide, fun j _ => by rw [decide_eq_false hi, Nat.zero_testBit]; rfl⟩
  · rw [hext i _ j hj]
    split
    · rename_i hlow
      rw [hrow i j hlow, decide_eq_true hlow, Bool.true_and]
    · rename_i hhigh
      rw [decide_eq_false hhigh]
      rfl
  · rw [hext i _ j hj]
    split
    · rename_i hlow
      rw [hrow i j hlow, min_eq_left (by omega)]
    · rename_i hhigh
      rw [min_eq_right (by omega), ← hrow i (w - 1) (by omega)]
      rfl

end Sys2Proof.Machine
end

section
/-!
PROOFS. Lane exchange (07 R169-R171, R173): shuffles, broadcasts, lane selection, votes and transposition.
-/

namespace Sys2Proof.Machine

open Sys2Proof

/-! ## Lanes by number -/

theorem Value.natAt_val (v : Value) (k : Fin 32) : v.natAt k.val = v.nat k := by
  simp [Value.natAt, Value.nat, Vector.get]

theorem Value.natAt_of_lt (v : Value) {k : Nat} (hk : k < 32) : v.natAt k = v.nat (Fin.ofNat 32 k) := by
  rw [← Value.natAt_val]
  exact congrArg v.natAt (Nat.mod_eq_of_lt hk).symm

/-! ## Shuffles, broadcasts and lane selection (R169, R170) -/

/-- The source lane of a shuffle, as a lane. -/
def shflLane (md : BitVec 6) (i : Fin 32) (b : Nat) : Option (Fin 32) :=
  if md = 0 then some (Fin.ofNat 32 b)
  else if md = 1 then (if b ≤ i.val then some (Fin.ofNat 32 (i.val - b)) else none)
  else if md = 2 then (if i.val + b < 32 then some (Fin.ofNat 32 (i.val + b)) else none)
  else some (Fin.ofNat 32 (i.val ^^^ (b % 32)))

theorem shflSource_eq {md : BitVec 6} (hmd : md.toNat ≤ 3) (i : Fin 32) (b : Nat) :
    shflSource md.toNat i.val b = (shflLane md i b).map Fin.val := by
  have hxor : i.val ^^^ (b % 32) < 32 := Nat.xor_lt_two_pow (n := 5) i.isLt (Nat.mod_lt _ (by decide))
  obtain rfl | rfl | rfl | rfl : md = 0 ∨ md = 1 ∨ md = 2 ∨ md = 3 := by bv_omega
  · rfl
  · by_cases h : b ≤ i.val
    · simp [shflSource, shflLane, h, Nat.mod_eq_of_lt (show i.val - b < 32 by omega)]
    · simp [shflSource, shflLane, h]
  · by_cases h : i.val + b < 32
    · simp [shflSource, shflLane, h, Nat.mod_eq_of_lt h]
    · simp [shflSource, shflLane, h]
  · simp [shflSource, shflLane, Nat.mod_eq_of_lt hxor]

/-- The lowest active lane is the first of the list of lanes, the highest the last. -/
theorem lowest_spec {m : LaneMask} {j : Fin 32} (h : m.lowest = some j) : m.has j.val = true ∧ ∀ l : Fin 32, m.has l.val = true → j ≤ l := by
  have hsorted : m.list.Pairwise (· < ·) := (List.pairwise_lt_finRange 32).filter _
  obtain ⟨r, hr⟩ := List.head?_eq_some_iff.mp h
  refine ⟨mem_list.mp (hr ▸ List.mem_cons_self), fun l hl => ?_⟩
  have hmem := mem_list.mpr hl
  rw [hr] at hsorted hmem
  rcases List.mem_cons.mp hmem with rfl | hmem
  · exact le_rfl
  · exact (List.rel_of_pairwise_cons hsorted hmem).le

theorem highest_spec {m : LaneMask} {j : Fin 32} (h : m.highest = some j) : m.has j.val = true ∧ ∀ l : Fin 32, m.has l.val = true → l ≤ j := by
  have hsorted : m.list.Pairwise (· < ·) := (List.pairwise_lt_finRange 32).filter _
  obtain ⟨r, hr⟩ := List.getLast?_eq_some_iff.mp h
  refine ⟨mem_list.mp (by rw [hr]; simp), fun l hl => ?_⟩
  have hmem := mem_list.mpr hl
  rw [hr] at hsorted hmem
  rcases List.mem_append.mp hmem with hmem | hmem
  · exact ((List.pairwise_append.mp hsorted).2.2 l hmem j (List.mem_singleton_self j)).le
  · exact (List.mem_singleton.mp hmem).le

/-- The lane that `lsel` takes. -/
def selected (md : Nat) (m : LaneMask) : Option (Fin 32) := if md == 1 then m.highest else m.lowest

theorem selected_isSome {m : LaneMask} {k : Fin 32} (hk : m.has k.val = true) (md : Nat) : ∃ j, selected md m = some j := by
  have hne : m.list ≠ [] := List.ne_nil_of_mem (mem_list.mpr hk)
  unfold selected
  split
  · exact ⟨_, List.getLast?_eq_some_getLast hne⟩
  · exact ⟨_, List.head?_eq_some_head hne⟩

theorem selected_spec {md : BitVec 6} (hmd : md.toNat ≤ 1) {m : LaneMask} {j : Fin 32} (h : selected md.toNat m = some j) :
    m.has j.val = true ∧ ∀ l : Fin 32, m.has l.val = true → if md = 0 then j ≤ l else l ≤ j := by
  obtain rfl | rfl : md = 0 ∨ md = 1 := by bv_omega
  · exact lowest_spec h
  · exact highest_spec h

section
variable {f : Fields} {s : State} {x : Site} {fr : Frame} {c : Cur} {T : Ty} {va vb : Value} {m : LaneMask} (hx : AtPlace s x fr c)
  (hTs : T ∈ tySel) (hT : f.typ.toNat = T.code) (ha : Names c f.a T va) (hc : f.c = 0) (hm : Active c f.p m)
include hx hTs hT ha hc hm

theorem exec_shfl (hb : Names c f.b .n32 vb) (hmd : f.md.toNat ≤ 3) :
    CompletesBy (exec (.shfl f) s) s x 0x0B0 T m va.nat fun i d =>
      d = va.nat ((shflLane f.md i (vb.nat i)).getD i) % 2 ^ T.bits := by
  refine completes_lanes_opA (op := opShfl) hx hT (formFor_some (Ty.ofCode_code T) hTs (decide_eq_true hmd)) (fetchArg_one ha)
    (fetchArg_one hb) (fetchArg_none hc) rfl hm rfl rfl ha.ty_eq fun i _ => ?_
  simp only [laneIn, shflSource_eq hmd]
  cases shflLane f.md i (vb.nat i) with
  | none => rfl
  | some j => simp [Value.natAt_val]

theorem exec_bcast (hb : f.b = 0) (hmd : f.md.toNat < 32) :
    CompletesBy (exec (.bcast f) s) s x 0x0B5 T m va.nat fun _ d => d = va.nat (Fin.ofNat 32 f.md.toNat) % 2 ^ T.bits := by
  refine (completes_form1 (op := opBcast) (g := fun i _ => i.a.natAt i.md) hx hTs hT ha hc hm (fun _ _ => rfl) (fun t => ?_) hb).mono
    fun k d hd => ?_
  · simp only [opBcast, decide_eq_true (Nat.le_of_lt_succ hmd)]
  · rw [hd]
    simp only [laneIn, Value.natAt_of_lt va hmd]

theorem exec_lsel (hb : f.b = 0) (hmd : f.md.toNat ≤ 1) :
    CompletesBy (exec (.lsel f) s) s x 0x0B6 T m va.nat fun _ d =>
      ∃ j, selected f.md.toNat m = some j ∧ d = va.nat j % 2 ^ T.bits := by
  have hform : opLsel.form T.code f.md.toNat = _ := formFor_some (Ty.ofCode_code T) hTs (decide_eq_true hmd)
  cases hsel : selected f.md.toNat m with
  | none =>
    have hcore : opLsel.core (laneIn x c f m T va .void .void) s = .done s (Value.zero T) := by
      simp only [opLsel, laneIn]
      rw [← selected, hsel]
    refine completesBy_opA (op := opLsel) hx (hT ▸ Ty.ofCode_code T) (hT ▸ hform) (fetchArg_one ha) (fetchArg_none hb) (fetchArg_none hc)
      rfl hm rfl hcore rfl ha.ty_eq fun k hk => ?_
    obtain ⟨j, hj⟩ := selected_isSome hk f.md.toNat
    rw [hsel] at hj
    cases hj
  | some j =>
    have hcore : opLsel.core (laneIn x c f m T va .void .void) s = .done s (lanesOf T fun _ => va.nat j) := by
      simp only [opLsel, laneIn]
      rw [← selected, hsel]
      rfl
    exact completes_lanes_opA (op := opLsel) hx hT hform (fetchArg_one ha) (fetchArg_none hb) (fetchArg_none hc) rfl hm hcore rfl ha.ty_eq
      fun k _ => ⟨j, rfl, rfl⟩

end

/-! ## Votes (R171) -/

/-- A sum of distinct powers of 2 has the bits that it names. -/
theorem testBit_voteMask {m : LaneMask} {va : Value} {j : Nat} (hj : j < 32) :
    (voteValue 3 m va).testBit j = (m.has j && decide (va.nat (Fin.ofNat 32 j) = 1)) := by
  have hsum : voteValue 3 m va =
      ∑ t ∈ Finset.range 32, (if m.has t && va.nat (Fin.ofNat 32 t) == 1 then 1 else 0) * 2 ^ (1 * t) := by
    rw [Finset.sum_range, Fin.sum_univ_def]
    simp [voteValue, LaneMask.list, List.filter_filter, List.sum_map_ite, Bool.and_comm, beq_eq_decide]
  have hbit : ∀ t, (if m.has t && va.nat (Fin.ofNat 32 t) == 1 then 1 else 0) < 2 ^ 1 := fun t => by split <;> decide
  rw [hsum, testBit_sum_fields Nat.one_pos hbit, Nat.div_one, Nat.mod_one, decide_eq_true (by omega), Bool.true_and]
  cases m.has j && va.nat (Fin.ofNat 32 j) == 1 <;> rfl

/-- The votes of one bit. -/
theorem vote_spec (m : LaneMask) (va : Value) :
    let one (k : Fin 32) : Prop := va.nat k = 1
    (voteValue 0 m va % 2 = 1 ↔ ∃ k : Fin 32, m.has k.val = true ∧ one k) ∧
    (voteValue 1 m va % 2 = 1 ↔ ∀ k : Fin 32, m.has k.val = true → one k) ∧
    (voteValue 2 m va % 2 = 1 ↔ (∀ k : Fin 32, m.has k.val = true → one k) ∨ ∀ k : Fin 32, m.has k.val = true → ¬one k) := by
  intro one
  have hnone : (m.list.filter fun k => va.nat k == 1) = [] ↔ ∀ k : Fin 32, m.has k.val = true → ¬one k := by
    simp [List.filter_eq_nil_iff, mem_list, one]
  have hall : (m.list.filter fun k => va.nat k == 1).length = m.list.length ↔ ∀ k : Fin 32, m.has k.val = true → one k := by
    simp [List.length_filter_eq_length_iff, mem_list, one]
  have hbit : ∀ p : Prop, [Decidable p] → ((if p then 1 else 0) % 2 = 1 ↔ p) := fun p _ => by split <;> simp [*]
  refine ⟨(hbit _).trans ?_, (hbit _).trans hall, (hbit _).trans ?_⟩
  · rw [ne_eq, hnone]
    push Not
    rfl
  · rw [hnone, hall, or_comm]

section
variable {f : Fields} {s : State} {x : Site} {fr : Frame} {c : Cur} {T : Ty} {va : Value} {m : LaneMask} (hx : AtPlace s x fr c)
  (hT : f.typ.toNat = T.code) (hb : f.b = 0) (hc : f.c = 0) (hm : Active c f.p m)
include hx hT hb hc hm

theorem exec_vote (ha : Names c f.a .pred va) (h : T = .pred ∧ f.md.toNat ≤ 2 ∨ T = .n32 ∧ f.md.toNat = 3) :
    CompletesBy (exec (.vote f) s) s x 0x0B1 T m (fun _ => 0) fun _ d => d = voteValue f.md.toNat m va % 2 ^ T.bits := by
  have hlegal : T ∈ [Ty.pred, .n32] ∧ (decide (f.md.toNat ≤ 3) && (T.code == 3) == (f.md.toNat == 3)) = true := by
    rcases h with ⟨rfl, hmd⟩ | ⟨rfl, hmd⟩
    · exact ⟨by decide, by simp [Ty.code]; omega⟩
    · exact ⟨by decide, by rw [hmd]; rfl⟩
  obtain ⟨hTs, hok⟩ := hlegal
  exact completes_lanes_zero (op := opVote) hx hT (formFor_some (Ty.ofCode_code T) hTs hok) (fetchArg_one ha) (fetchArg_none hb)
    (fetchArg_none hc) rfl hm rfl rfl fun _ _ => rfl

/-! ## Transposition (R173) -/

theorem exec_gtrans (hTn : T = .n32) (ha : Names c f.a .n32 va) (hmd : f.md.toNat ≤ 2) :
    CompletesBy (exec (.gtrans f) s) s x 0x0B4 .n32 m va.nat fun i d => d = gtransLane f.md.toNat va i.val % 2 ^ 32 := by
  subst hTn
  have hform := formFor_some (g := fun T => { a := .need [T], b := .absent, c := .absent, pred := true, res := T, pass := .opA })
    (Ty.ofCode_code .n32) (List.mem_singleton_self _) (decide_eq_true hmd)
  exact completes_lanes_opA (op := opGtrans) hx hT hform (fetchArg_one ha) (fetchArg_none hb) (fetchArg_none hc) rfl hm rfl rfl ha.ty_eq
    fun _ _ => rfl

end

/-- A lane of a transposition holds n elements of w bits. -/
theorem gtransLane_eq (va : Value) {md w n : Nat} (hmd : md ≤ 2) (hw : w = 8 * 2 ^ md) (hn : n = 32 / w) (i : Nat) :
    gtransLane md va i =
      ∑ t ∈ Finset.range n, va.natAt (gtransSource n i t).1 / 2 ^ (w * (gtransSource n i t).2) % 2 ^ w * 2 ^ (w * t) := by
  have hwidth : ([8, 16, 32][md]?).getD 32 = w := by
    subst hw
    interval_cases md <;> rfl
  subst hn
  simp only [gtransLane, hwidth]
  rfl

theorem gtransLane_spec (va : Value) (i : Fin 32) {md w n : Nat} (hmd : md ≤ 2) (hw : w = 8 * 2 ^ md) (hn : n = 32 / w) :
    gtransLane md va i.val % 2 ^ 32 < 2 ^ 32 ∧ ∀ t < n,
      let q := i.val * n + t
      gtransLane md va i.val % 2 ^ 32 / 2 ^ (w * t) % 2 ^ w =
        va.nat (Fin.ofNat 32 (8 * (q % 4) + q / 4 / n)) / 2 ^ (w * (q / 4 % n)) % 2 ^ w := by
  have hwn : 0 < w ∧ w * n = 32 := by
    subst hw hn
    interval_cases md <;> decide
  obtain ⟨hpos, hwn⟩ := hwn
  refine ⟨Nat.mod_lt _ (by decide), fun t ht => ?_⟩
  intro q
  have hlane : 8 * (q % 4) + q / 4 / n < 32 := by
    have hin : (i.val + 1) * n ≤ 32 * n := Nat.mul_le_mul_right n i.isLt
    have hq : q < 32 * n := by rw [Nat.succ_mul] at hin; omega
    have hrow : q / 4 / n < 8 := by
      rw [Nat.div_div_eq_div_mul]
      exact Nat.div_lt_of_lt_mul (by omega)
    omega
  have hfield : ∀ t, va.natAt (gtransSource n i.val t).1 / 2 ^ (w * (gtransSource n i.val t).2) % 2 ^ w < 2 ^ w := fun t =>
    Nat.mod_lt _ (Nat.two_pow_pos w)
  have hlt : gtransLane md va i.val < 2 ^ 32 := by
    have hrow := sum_fields_lt hfield n
    rwa [hwn, ← gtransLane_eq va hmd hw hn] at hrow
  rw [Nat.mod_eq_of_lt hlt, gtransLane_eq va hmd hw hn, sum_fields_field hpos hfield ht, ← Value.natAt_of_lt va hlane]
  rfl

end Sys2Proof.Machine
end

section
/-!
PROOFS. The tree of reductions and scans (07 R172): the model's levels of nodes are the tree of the statement, a node or a scan of a tree
stands for the list of its active lanes' values, and for integers it is the operation of that list.
-/

namespace Sys2Proof.Machine

open Sys2Proof

/-! ## The tree -/

/-- The operation of a tree's nodes. -/
def treeFn (t : Ty) (op : Nat) (ftz : Bool) (a b : Nat) : Nat := (treeOp t op ftz a b).1

theorem comb_v (t : Ty) (op : Nat) (ftz : Bool) (a b : Option Nat) : (comb t op ftz a b).v = treeComb (treeFn t op ftz) a b := by
  cases a <;> cases b <;> rfl

/-- The value of a row's place, absent beyond its end. -/
def rowAt (r : List TreeVal) (k : Nat) : Option Nat := (r[k]?).bind TreeVal.v

theorem rowAt_pairUp (t : Ty) (op : Nat) (ftz : Bool) : ∀ r : List TreeVal, Even r.length → ∀ k,
    rowAt (pairUp t op ftz r) k = treeComb (treeFn t op ftz) (rowAt r (2 * k)) (rowAt r (2 * k + 1))
  | [], _, _ => by simp [rowAt, pairUp, treeComb]
  | [_], he, _ => absurd he Nat.not_even_one
  | a :: b :: _, _, 0 => by simpa [rowAt, pairUp] using comb_v t op ftz a.v b.v
  | a :: b :: r, he, k + 1 => by
    have heven : Even r.length := by simpa [Nat.even_add_one] using he
    simpa [rowAt, pairUp, Nat.mul_succ] using rowAt_pairUp t op ftz r heven k

theorem length_pairUp (t : Ty) (op : Nat) (ftz : Bool) : ∀ r : List TreeVal, (pairUp t op ftz r).length = r.length / 2
  | [] => rfl
  | [_] => by simp [pairUp]
  | _ :: _ :: r => by simp only [pairUp, List.length_cons, length_pairUp t op ftz r]; omega

/-- A tree over the pairs of its leaves is the tree of the leaves one level up. -/
theorem treeNode_pairs (F : Nat → Nat → Nat) (leaf : Nat → Option Nat) (l k : Nat) :
    treeNode F (fun k => treeComb F (leaf (2 * k)) (leaf (2 * k + 1))) l k = treeNode F leaf (l + 1) k := by
  induction l generalizing k with
  | zero => rfl
  | succ l ih => rw [treeNode, ih, ih]; rfl

theorem nodeAt_treeLevels (t : Ty) (op : Nat) (ftz : Bool) (n : Nat) (r : List TreeVal) (hr : r.length = 2 ^ n) {l : Nat}
    (hl : l ≤ n) (k : Nat) :
    nodeAt (treeLevels t op ftz n r) l k = treeNode (treeFn t op ftz) (rowAt r) l k := by
  induction n generalizing r l k with
  | zero =>
    obtain rfl := Nat.le_zero.mp hl
    rfl
  | succ n ih =>
    cases l with
    | zero => rfl
    | succ l =>
      have heven : Even r.length := by rw [hr, pow_succ']; exact even_two_mul _
      have hlen : (pairUp t op ftz r).length = 2 ^ n := by rw [length_pairUp, hr, pow_succ, Nat.mul_div_cancel _ Nat.two_pos]
      rw [← treeNode_pairs, ← funext (rowAt_pairUp t op ftz r heven)]
      exact ih _ hlen (Nat.le_of_succ_le_succ hl) k

theorem prefixFrom_v (t : Ty) (op : Nat) (ftz : Bool) (ls : List (List TreeVal)) (leaf : Nat → Option Nat) (n l base : Nat) (acc : TreeVal)
    (hls : ∀ j < l, ∀ k, nodeAt ls j k = treeNode (treeFn t op ftz) leaf j k) :
    (prefixFrom t op ftz ls n l base acc).v = treePrefix (treeFn t op ftz) leaf n l base acc.v := by
  induction l generalizing base acc with
  | zero => rfl
  | succ l ih =>
    have hlow := fun base acc => ih base acc fun j hj => hls j (hj.trans (Nat.lt_succ_self l))
    rw [prefixFrom, treePrefix]
    split
    · rw [hlow, comb_v, hls l (Nat.lt_succ_self l)]
    · exact hlow base acc

/-! ## What a node says of its lanes -/

/-- A node stands for a list of values: it is absent for none. -/
def Stands (R : List Nat → Nat → Prop) (xs : List Nat) : Option Nat → Prop
  | some a => R xs a
  | none => xs = []

section
variable {F : Nat → Nat → Nat} {R : List Nat → Nat → Prop} {leaf : Nat → Option Nat}
  (hjoin : ∀ {xs ys a b}, R xs a → R ys b → R (xs ++ ys) (F a b)) (hleaf : ∀ k a, leaf k = some a → R [a] a)
include hjoin

theorem Stands.comb {xs ys : List Nat} {a b : Option Nat} (ha : Stands R xs a) (hb : Stands R ys b) :
    Stands R (xs ++ ys) (treeComb F a b) := by
  cases a with
  | none =>
    obtain rfl : xs = [] := ha
    exact hb
  | some a =>
    cases b with
    | none =>
      obtain rfl : ys = [] := hb
      rw [List.append_nil]
      exact ha
    | some b => exact hjoin ha hb

include hleaf

theorem treeNode_stands (l k : Nat) : Stands R ((List.range' (k * 2 ^ l) (2 ^ l)).filterMap leaf) (treeNode F leaf l k) := by
  induction l generalizing k with
  | zero =>
    cases h : leaf k with
    | none => simp [treeNode, h, Stands]
    | some a => simpa [treeNode, h, Stands] using hleaf k a h
  | succ l ih =>
    have hsplit : List.range' (k * 2 ^ (l + 1)) (2 ^ (l + 1)) =
        List.range' (2 * k * 2 ^ l) (2 ^ l) ++ List.range' ((2 * k + 1) * 2 ^ l) (2 ^ l) := by
      have := List.range'_append (s := 2 * k * 2 ^ l) (m := 2 ^ l) (n := 2 ^ l) (step := 1)
      rw [show (2 * k + 1) * 2 ^ l = 2 * k * 2 ^ l + 1 * 2 ^ l by ring, this]
      congr 1 <;> ring
    rw [hsplit, List.filterMap_append]
    exact (ih (2 * k)).comb hjoin (ih (2 * k + 1))

theorem treePrefix_stands (n l b : Nat) {acc : Option Nat} (hacc : Stands R ((List.range (b * 2 ^ l)).filterMap leaf) acc) :
    Stands R ((List.range (b * 2 ^ l + n % 2 ^ l)).filterMap leaf) (treePrefix F leaf n l (b * 2 ^ l) acc) := by
  induction l generalizing b acc with
  | zero => simpa [treePrefix, Nat.mod_one] using hacc
  | succ l ih =>
    have hbase : b * 2 ^ (l + 1) = 2 * b * 2 ^ l := by ring
    have hnext : 2 * b * 2 ^ l + 2 ^ l = (2 * b + 1) * 2 ^ l := by ring
    rw [hbase] at hacc ⊢
    rw [treePrefix, Nat.mod_pow_succ, ← Nat.toNat_testBit]
    split
    · rename_i hbit
      have hlanes : List.range (2 * b * 2 ^ l) ++ List.range' (2 * b * 2 ^ l) (2 ^ l) = List.range ((2 * b + 1) * 2 ^ l) := by
        rw [← hnext]
        simpa [List.range_eq_range'] using List.range'_append_1 (s := 0) (m := 2 * b * 2 ^ l) (n := 2 ^ l)
      have hjoined := hacc.comb hjoin (treeNode_stands hjoin hleaf l (2 * b))
      rw [← List.filterMap_append, hlanes] at hjoined
      have hend : 2 * b * 2 ^ l + (n % 2 ^ l + 2 ^ l * (n.testBit l).toNat) = (2 * b + 1) * 2 ^ l + n % 2 ^ l := by
        rw [hbit, Bool.toNat_true]
        ring
      rw [Nat.mul_div_cancel _ (Nat.two_pow_pos l), hend, hnext]
      exact ih (2 * b + 1) hjoined
    · rename_i hbit
      simpa [hbit] using ih (2 * b) hacc

end

/-! ## Integer operations (R172) -/

/-- Of two extremal values of two lists, the one that comes before the other is extremal in both. -/
theorem extremal_append {r : Int → Int → Prop} (htrans : ∀ {p q u}, r p q → r q u → r p u) {g : Nat → Int} {xs ys : List Nat} {a b d : Nat}
    (ha : a ∈ xs ∧ ∀ v ∈ xs, r (g a) (g v)) (hb : b ∈ ys ∧ ∀ v ∈ ys, r (g b) (g v))
    (hd : d = a ∧ r (g a) (g b) ∨ d = b ∧ r (g b) (g a)) : d ∈ xs ++ ys ∧ ∀ v ∈ xs ++ ys, r (g d) (g v) := by
  obtain ⟨hax, ha⟩ := ha
  obtain ⟨hby, hb⟩ := hb
  simp only [List.mem_append]
  rcases hd with ⟨rfl, hab⟩ | ⟨rfl, hba⟩
  · exact ⟨.inl hax, fun v hv => hv.elim (ha v) fun hv => htrans hab (hb v hv)⟩
  · exact ⟨.inr hby, fun v hv => hv.elim (fun hv => htrans hba (ha v hv)) (hb v)⟩

end Sys2Proof.Machine

namespace Sys2Proof

open Sys2Proof.Machine

/-- Two patterns of bits combined bit by bit. -/
theorem HasBits.comb {w a b d : Nat} {p q : Nat → Bool} {h : Bool → Bool → Bool} (ha : HasBits w p a) (hb : HasBits w q b) (hd : d < 2 ^ w)
    (hbit : ∀ j, d.testBit j = h (a.testBit j) (b.testBit j)) : HasBits w (fun j => h (p j) (q j)) d :=
  ⟨hd, fun j hj => by rw [hbit, ha.2 j hj, hb.2 j hj]⟩

theorem parity_append (xs ys : List Nat) (j : Nat) :
    decide (((xs ++ ys).filter fun v => v.testBit j).length % 2 = 1) =
      (decide ((xs.filter fun v => v.testBit j).length % 2 = 1) ^^ decide ((ys.filter fun v => v.testBit j).length % 2 = 1)) := by
  rw [List.filter_append, List.length_append, Nat.add_mod]
  rcases Nat.mod_two_eq_zero_or_one (xs.filter fun v => v.testBit j).length with h | h <;>
    rcases Nat.mod_two_eq_zero_or_one (ys.filter fun v => v.testBit j).length with h' | h' <;> rw [h, h'] <;> rfl

theorem Delivers.modEq {T : Ty} {z : Int} {d : Nat} (h : Delivers false T z d) : toInt T d ≡ z [ZMOD (2 ^ T.bits : Nat)] := by
  refine (toInt_emod T d).trans ?_
  rw [Int.natCast_mod, show (d : Int) = z % (2 ^ T.bits : Nat) from h]
  exact Int.emod_emod_of_dvd _ dvd_rfl

theorem delivers_of_modEq {T : Ty} {z z' : Int} (h : z ≡ z' [ZMOD (2 ^ T.bits : Nat)]) : Delivers false T z' (wrapTo T z) :=
  (delivers_wrapTo T z).trans h

theorem wrapTo_toInt {T : Ty} {n : Nat} (hn : n < 2 ^ T.bits) : wrapTo T (toInt T n) = n :=
  (delivers_wrapTo T (toInt T n)).of_toInt.trans (Nat.mod_eq_of_lt hn)

end Sys2Proof

namespace Sys2Proof.Machine

open Sys2Proof

/-- The operations of integer lanes. -/
def intFn (T : Ty) : Nat → Nat → Nat → Nat
  | 0, a, b => wrapTo T (toInt T a + toInt T b)
  | 1, a, b => wrapTo T (toInt T a * toInt T b)
  | 2, a, b => wrapTo T (min (toInt T a) (toInt T b))
  | 3, a, b => wrapTo T (max (toInt T a) (toInt T b))
  | 4, a, b => a &&& b
  | 5, a, b => a ||| b
  | _, a, b => a ^^^ b

theorem intFn_lt (T : Ty) (op : Nat) {a b : Nat} (ha : a < 2 ^ T.bits) (hb : b < 2 ^ T.bits) : intFn T op a b < 2 ^ T.bits := by
  unfold intFn
  split
  case h_5 => exact Nat.and_lt_two_pow _ hb
  case h_6 => exact Nat.or_lt_two_pow ha hb
  case h_7 => exact Nat.xor_lt_two_pow ha hb
  all_goals exact wrapTo_lt T _

/-- What a node of integer lanes stands for: the operation of some patterns of the type. -/
structure IntNode (T : Ty) (op : Nat) (xs : List Nat) (d : Nat) : Prop where
  some_lane : xs ≠ []
  lt : d < 2 ^ T.bits
  reduced : Reduced T op xs d

section
variable {T : Ty}

theorem IntNode.single (op : Nat) {a : Nat} (ha : a < 2 ^ T.bits) : IntNode T op [a] a where
  some_lane := List.cons_ne_nil a []
  lt := ha
  reduced := by
    have hone : Delivers false T (toInt T a) a := by
      have := delivers_wrapTo T (toInt T a)
      rwa [wrapTo_toInt ha] at this
    refine ⟨fun _ => ?_, fun _ => ?_, fun _ _ => ?_, fun _ _ => ?_, fun _ => ⟨ha, fun j _ => ?_⟩, fun _ => ⟨ha, fun j _ => ?_⟩,
      fun _ => ⟨ha, fun j _ => ?_⟩⟩
    · simpa using hone
    · simpa using hone
    · simp
    · simp
    · simp
    · simp
    · cases h : a.testBit j <;> simp [h]

theorem IntNode.append {op : Nat} {xs ys : List Nat} {a b : Nat} (ha : IntNode T op xs a) (hb : IntNode T op ys b) :
    IntNode T op (xs ++ ys) (intFn T op a b) where
  some_lane := by simp [ha.some_lane]
  lt := intFn_lt T op ha.lt hb.lt
  reduced := by
    have hlt := intFn_lt T op ha.lt hb.lt
    obtain ⟨hane, hal, hsum, hprod, hmin, hmax, hand, hor, hxor⟩ := ha
    obtain ⟨hbne, hbl, hsum', hprod', hmin', hmax', hand', hor', hxor'⟩ := hb
    refine ⟨?_, ?_, ?_, ?_, ?_, ?_, ?_⟩ <;> rintro rfl <;> simp only [intFn] at hlt ⊢
    · rw [List.map_append, List.sum_append]
      exact delivers_of_modEq ((Delivers.modEq (hsum rfl)).add (Delivers.modEq (hsum' rfl)))
    · rw [List.map_append, List.prod_append]
      exact delivers_of_modEq ((Delivers.modEq (hprod rfl)).mul (Delivers.modEq (hprod' rfl)))
    · intro _
      refine extremal_append (r := (· ≤ ·)) le_trans (hmin rfl hane) (hmin' rfl hbne) ?_
      rcases le_total (toInt T a) (toInt T b) with h | h
      · exact .inl ⟨by rw [min_eq_left h, wrapTo_toInt hal], h⟩
      · exact .inr ⟨by rw [min_eq_right h, wrapTo_toInt hbl], h⟩
    · intro _
      refine extremal_append (r := (· ≥ ·)) ge_trans (hmax rfl hane) (hmax' rfl hbne) ?_
      rcases le_total (toInt T a) (toInt T b) with h | h
      · exact .inr ⟨by rw [max_eq_right h, wrapTo_toInt hbl], h⟩
      · exact .inl ⟨by rw [max_eq_left h, wrapTo_toInt hal], h⟩
    · simpa only [List.all_append] using HasBits.comb (hand rfl) (hand' rfl) hlt fun j => Nat.testBit_and ..
    · simpa only [List.any_append] using HasBits.comb (hor rfl) (hor' rfl) hlt fun j => Nat.testBit_or ..
    · simpa only [parity_append] using HasBits.comb (hxor rfl) (hxor' rfl) hlt fun j => Nat.testBit_xor ..

variable (hT : T ∈ tyInt)
include hT

theorem treeFn_int (op : Nat) (ftz : Bool) : treeFn T op ftz = intFn T op := by
  have hkind : T.isFlt = false ∧ T.isInt = true := by
    revert T
    decide
  obtain ⟨hflt, hint⟩ := hkind
  funext a b
  simp only [treeFn, treeOp, hflt, hint, Bool.false_eq_true, if_false, if_true]
  rcases op with _ | _ | _ | _ | _ | _ | op <;> rfl

/-- The identity is the operation of no lanes. -/
theorem reduced_nil (op : Nat) : Reduced T op [] (identOf T op) := by
  have hbits : 1 < 2 ^ T.bits := Nat.one_lt_two_pow (tyInt_bits_pos hT).ne'
  refine ⟨?_, ?_, fun _ h => absurd rfl h, fun _ h => absurd rfl h, ?_, ?_, ?_⟩ <;> rintro rfl <;> simp only [identOf, hT, if_true]
  · exact (Int.zero_emod _).symm
  · exact (Int.emod_eq_of_lt (by decide) (by exact_mod_cast hbits)).symm
  · exact ⟨Nat.sub_lt (Nat.two_pow_pos _) Nat.one_pos, fun j hj => by simp [Nat.testBit_two_pow_sub_one, hj]⟩
  · exact ⟨Nat.two_pow_pos _, fun j _ => by simp⟩
  · exact ⟨Nat.two_pow_pos _, fun j _ => by simp⟩

end

/-! ## The lanes of an instruction -/

/-- What an active lane brings to the tree. -/
def leafOf (m : LaneMask) (a : Value) (k : Nat) : Option Nat := if m.has k then some (a.nat (Fin.ofNat 32 k)) else none

theorem rowAt_leaves (m : LaneMask) (a : Value) :
    rowAt ((List.finRange 32).map fun k => { v := if m.has k.val then some (a.nat k) else none, ieee := 0, sli := 0 }) = leafOf m a := by
  funext k
  by_cases hk : k < 32
  · have hof : Fin.ofNat 32 k = ⟨k, hk⟩ := Fin.ext (Nat.mod_eq_of_lt hk)
    simp only [leafOf, hof]
    simp [rowAt, hk]
  · have hno : m.has k = false := BitVec.getLsbD_of_ge m k (Nat.not_lt.mp hk)
    simp [rowAt, leafOf, hk, hno]

theorem range_eq_filter {n N : Nat} (h : n ≤ N) : List.range n = (List.range N).filter fun k => decide (k < n) := by
  have hsplit : List.range N = List.range n ++ List.range' n (N - n) := by
    rw [List.range_eq_range', List.range_eq_range']
    simpa [Nat.add_sub_cancel' h] using (List.range'_append_1 (s := 0) (m := n) (n := N - n)).symm
  rw [hsplit, List.filter_append, List.filter_eq_self.mpr (by simp), List.filter_eq_nil_iff.mpr (by simp; omega), List.append_nil]

/-- The active lanes below n, in ascending order. -/
theorem filterMap_leafOf (m : LaneMask) (a : Value) {n : Nat} (hn : n ≤ 32) :
    (List.range n).filterMap (leafOf m a) = ((List.finRange 32).filter fun k => m.has k.val && decide (k.val < n)).map a.nat := by
  rw [range_eq_filter hn, ← List.map_coe_finRange_eq_range, List.filter_map, List.filterMap_map, List.filterMap_filter,
    ← List.filterMap_eq_map, List.filterMap_filter]
  congr 1
  funext k
  by_cases h : k.val < n <;> simp [leafOf, h]

theorem nodeAt_treeOf (i : OpIn) {l : Nat} (hl : l ≤ 5) (k : Nat) :
    nodeAt (treeOf i) l k = treeNode (treeFn i.ty (i.md % 8) (i.md / 16 == 1)) (leafOf i.mask i.a) l k := by
  rw [← rowAt_leaves]
  exact nodeAt_treeLevels _ _ _ 5 _ (by simp) hl k

end Sys2Proof.Machine
end

section
/-!
PROOFS. Reductions and scans (07 R172), and lane exchange as a whole (O15).
-/

namespace Sys2Proof.Machine

open Sys2Proof

/-! ## The values of a tree -/

section
variable {T : Ty} {op : Nat}

theorem Stands.reduced {xs : List Nat} {o : Option Nat} {e : Nat} (hT : T ∈ tyInt) (h : Stands (IntNode T op) xs o)
    (he : o = none → e % 2 ^ T.bits = identOf T op) : Reduced T op xs (o.getD e % 2 ^ T.bits) := by
  cases o with
  | none =>
    obtain rfl : xs = [] := h
    rw [Option.getD_none, he rfl]
    exact reduced_nil hT op
  | some r =>
    obtain ⟨-, hlt, hred⟩ : IntNode T op xs r := h
    rw [Option.getD_some, Nat.mod_eq_of_lt hlt]
    exact hred

theorem getD_of_eq_some {o : Option Nat} {r : Nat} (h : o = some r) (e B : Nat) : o.getD e % B = r % B := by
  rw [h, Option.getD_some]

theorem treeIdent_eq (hTs : T ∈ tyTree) (hop : op ≤ 6) (hint : 3 < op → T ∈ tyInt) : treeIdent T op % 2 ^ T.bits = identOf T op := by
  have hall : ∀ T ∈ tyTree, ∀ op < 7, (op ≤ 3 ∨ T ∈ tyInt) → treeIdent T op % 2 ^ T.bits = identOf T op := by decide
  exact hall T hTs op (Nat.lt_succ_of_le hop) ((Nat.lt_or_ge 3 op).symm.imp id hint)

variable {m : LaneMask} {va : Value}

theorem leafOf_intNode (hlane : ∀ k, va.nat k < 2 ^ T.bits) (k a : Nat) (h : leafOf m va k = some a) : IntNode T op [a] a := by
  unfold leafOf at h
  split at h
  · cases h
    exact .single op (hlane _)
  · cases h

variable (hT : T ∈ tyInt) (hlane : ∀ k, va.nat k < 2 ^ T.bits) (ftz : Bool)
include hT hlane

theorem stands_treeNode :
    Stands (IntNode T op) (((List.finRange 32).filter fun k => m.has k.val && decide (k.val < 32)).map va.nat)
      (treeNode (treeFn T op ftz) (leafOf m va) 5 0) := by
  rw [← filterMap_leafOf m va le_rfl, treeFn_int hT, List.range_eq_range']
  exact treeNode_stands IntNode.append (leafOf_intNode hlane) 5 0

/-- With an active lane the whole tree is not absent. -/
theorem treeNode_ne_none {k : Fin 32} (hk : m.has k.val = true) : treeNode (treeFn T op ftz) (leafOf m va) 5 0 ≠ none := by
  intro hnone
  have hstands := stands_treeNode (op := op) (m := m) hT hlane ftz
  rw [hnone] at hstands
  have hmem : va.nat k ∈ ((List.finRange 32).filter fun k => m.has k.val && decide (k.val < 32)).map va.nat :=
    List.mem_map_of_mem (List.mem_filter.mpr ⟨List.mem_finRange k, by simp [hk, k.isLt]⟩)
  exact List.ne_nil_of_mem hmem hstands

theorem stands_treePrefix {n : Nat} (hn : n ≤ 32) :
    Stands (IntNode T op) (((List.finRange 32).filter fun k => m.has k.val && decide (k.val < n)).map va.nat)
      (treePrefix (treeFn T op ftz) (leafOf m va) n 6 0 none) := by
  have h := treePrefix_stands (acc := none) (IntNode.append (op := op)) (leafOf_intNode (m := m) hlane) n 6 0 rfl
  rw [Nat.zero_mul, Nat.zero_add, Nat.mod_eq_of_lt (by omega)] at h
  rw [← filterMap_leafOf m va hn, treeFn_int hT]
  exact h

end

/-! ## The form of red and scan -/

/-- Operand a, an optional operand b for the inactive lanes, and the type of both. -/
def treeFormOf (T : Ty) : Form := { a := .need [T], b := .may [T], c := .absent, pred := true, res := T, pass := .optB }

theorem treeForm_eq {T : Ty} {md : Nat} {excl : Bool} (hTs : T ∈ tyTree) (hmd : md < 32) (hop : md % 8 ≤ 6) (hint : 3 < md % 8 → T ∈ tyInt)
    (hflt : 16 ≤ md → T ∈ tyFlt) (hex : excl = true ∨ md / 8 % 2 = 0) : treeForm excl T.code md = some (treeFormOf T) := by
  refine formFor_some (Ty.ofCode_code T) hTs ?_
  have h3 : md % 8 ≤ 3 ∨ T.isInt = true := (Nat.lt_or_ge 3 (md % 8)).symm.imp id fun h => List.contains_iff_mem.mpr (hint h)
  have h16 : md < 16 ∨ T.isFlt = true := (Nat.lt_or_ge md 16).imp id fun h => List.contains_iff_mem.mpr (hflt h)
  simp only [treeMdOk, Ty.ofCode_code, Option.getD_some, Bool.and_eq_true, Bool.or_eq_true, decide_eq_true_eq, beq_iff_eq]
  exact ⟨⟨⟨⟨hmd, by omega⟩, h3⟩, hex⟩, h16⟩

/-- The lanes of a place whose inactive lanes hold operand b where it is given, and otherwise operand a. -/
theorem lanewise_optB {fm : Form} {i : OpIn} {v p : Value} {P : Fin 32 → Nat → Prop} (hpass : fm.pass = .optB)
    (hp : (if i.b.ty == .void then i.a else i.b) = p) (ht : p.ty = v.ty) (hP : ∀ k, i.mask.has k.val = true → P k (v.nat k)) :
    Lanewise i.x i.mask (placeValue fm i v) p.nat P := by
  have h := lanewise_opA (fm := { fm with pass := .opA }) (i := { i with a := p }) rfl ht hP
  simpa only [placeValue, hpass, hp] using h

/-- MOD[4], where MOD[5] is clear. -/
theorem flush_eq {md : Nat} (hmd : md < 32) : (md / 16 == 1) = decide (16 ≤ md) := by
  rw [beq_eq_decide]
  exact decide_eq_decide.mpr (by omega)

section
variable {f : Fields} {s : State} {x : Site} {fr : Frame} {c : Cur} {T : Ty} {va vb : Value} {m : LaneMask}

theorem fetchArg_optional (hT : T ≠ .void) (hb : f.b = 0 ∧ vb = va ∨ Names c f.b T vb) :
    ∃ b, fetchArg c (.may [T]) f.b = some b ∧ (if b.ty == .void then va else b) = vb := by
  rcases hb with ⟨h0, rfl⟩ | ⟨hne, href, hty⟩
  · exact ⟨.void, by simp [fetchArg, h0], rfl⟩
  · have hgiven : (f.b == 0) = false := beq_eq_false_iff_ne.mpr hne
    refine ⟨vb, ?_, by simp [hty, hT]⟩
    simp only [fetchArg, hgiven, href, hty, List.contains_cons, beq_self_eq_true, Bool.true_or, Bool.false_eq_true, if_false, if_true]

variable (hx : AtPlace s x fr c) (hT : f.typ.toNat = T.code) (hm : Active c f.p m) (hc : f.c = 0) (hTs : T ∈ tyTree) (ha : Names c f.a T va)
  (hb : f.b = 0 ∧ vb = va ∨ Names c f.b T vb)
include hx hT hm hc hTs ha hb

theorem completesFlagging_tree {op : Op} {fl : OpIn → Nat × Nat} {g : OpIn → Fin 32 → Nat} {P : Fin 32 → Nat → Prop}
    (hform : op.form T.code f.md.toNat = some (treeFormOf T)) (hcore : ∀ i s, op.core i s = doneFlags i s (fl i) (g i))
    (hP : ∀ b k, m.has k.val = true → P k (g (laneIn x c f m T va b .void) k % 2 ^ T.bits)) :
    CompletesFlagging (runOp op f s) s x op.opc T m vb.nat P := by
  have hvoid : T ≠ .void := by
    rintro rfl
    exact absurd hTs (by decide)
  obtain ⟨b, hfetch, hsel⟩ := fetchArg_optional hvoid hb
  have hfit : Fits op f x c (treeFormOf T) (laneIn x c f m T va b .void) :=
    fits_mk (hT ▸ Ty.ofCode_code T) (hT ▸ hform) (fetchArg_one ha) hfetch (fetchArg_none hc) rfl hm
  have hty : vb.ty = T := by
    rcases hb with ⟨-, rfl⟩ | h
    · exact ha.ty_eq
    · exact h.ty_eq
  refine ⟨_, onlyFlags_trans (onlyFlags_orIeee ..) (onlyFlags_orSli ..), _, runOp_done hx hfit (hcore _ _), placeValue_ty .., ?_⟩
  refine lanewise_optB (i := laneIn x c f m T va b .void) rfl hsel hty fun k hk => ?_
  rw [lanesOf, Value.nat_tab, if_pos hk]
  exact hP b k hk

variable (hmd : f.md.toNat < 32) (hop : f.md.toNat % 8 ≤ 6) (hint : 3 < f.md.toNat % 8 → T ∈ tyInt)
  (hflt : 16 ≤ f.md.toNat → T ∈ tyFlt)
include hmd hop hint hflt

theorem exec_red (hex : f.md.toNat / 8 % 2 = 0) {P : Fin 32 → Nat → Prop}
    (hP : ∀ k : Fin 32, m.has k.val = true →
      P k ((treeNode (treeFn T (f.md.toNat % 8) (decide (16 ≤ f.md.toNat))) (leafOf m va) 5 0).getD 0 % 2 ^ T.bits)) :
    CompletesFlagging (exec (.red f) s) s x 0x0B3 T m vb.nat P := by
  refine completesFlagging_tree (op := opRed) hx hT hm hc hTs ha hb (treeForm_eq hTs hmd hop hint hflt (.inr hex)) (fun _ _ => rfl)
    fun b k hk => ?_
  rw [nodeAt_treeOf _ le_rfl]
  simp only [laneIn, flush_eq hmd]
  exact hP k hk

/-- The number of lanes that a scan combines in a lane. -/
def scanLanes (md k : Nat) : Nat := if md / 8 % 2 = 1 then k else k + 1

theorem exec_scan {P : Fin 32 → Nat → Prop}
    (hP : ∀ k : Fin 32, m.has k.val = true →
      P k ((treePrefix (treeFn T (f.md.toNat % 8) (decide (16 ≤ f.md.toNat))) (leafOf m va) (scanLanes f.md.toNat k) 6 0 none).getD
        (treeIdent T (f.md.toNat % 8)) % 2 ^ T.bits)) :
    CompletesFlagging (exec (.scan f) s) s x 0x0B2 T m vb.nat P := by
  refine completesFlagging_tree (op := opScan) hx hT hm hc hTs ha hb (treeForm_eq hTs hmd hop hint hflt (.inl rfl)) (fun _ _ => rfl)
    fun b k hk => ?_
  have hnodes := prefixFrom_v T (f.md.toNat % 8) (decide (16 ≤ f.md.toNat)) (treeOf (laneIn x c f m T va b .void)) (leafOf m va)
    (scanLanes f.md.toNat k) 6 0 { v := none, ieee := 0, sli := 0 } fun j hj l => by
      rw [nodeAt_treeOf _ (Nat.le_of_lt_succ hj)]
      simp only [laneIn, flush_eq hmd]
  have hlane := hP k hk
  rw [← hnodes] at hlane
  simpa [laneIn, hk, scanLanes, flush_eq hmd] using hlane

end

/-! ## The obligation -/

/-- Settles O15: each instruction tables in its lanes what its source lanes hold; a reduction's tree is that of the rule, and for integers
its nodes and scans are the operation of their lanes. -/
theorem laneExchange : Obligations.LaneExchange := by
  unfold Obligations.LaneExchange
  intro s x fr c f m T va hx hT hm hc
  refine ⟨fun vb hTs ha hb hmd => exec_shfl hx hTs hT ha hc hm hb hmd,
    fun hTs ha hb => ⟨fun hmd => exec_bcast hx hTs hT ha hc hm hb hmd, fun hmd => ?_⟩, fun ha hb => ⟨fun hTp hmd => ?_, fun hTn hmd => ?_⟩,
    fun hTn ha hb hmd => ?_, fun vb hTs ha hb hmd hop hint hflt => ⟨fun hex => ?_, ?_⟩⟩
  · refine (exec_lsel hx hTs hT ha hc hm hb hmd).mono fun _ d hd => ?_
    obtain ⟨j, hj, hd⟩ := hd
    exact ⟨j, (selected_spec hmd hj).1, hd, (selected_spec hmd hj).2⟩
  · subst hTp
    refine (exec_vote hx hT hb hc hm ha (.inl ⟨rfl, hmd⟩)).mono fun _ d hd => ?_
    obtain ⟨hany, hall, hsame⟩ := vote_spec m va
    refine ⟨fun h => ?_, fun h => ?_, fun h => ?_⟩ <;> rw [h] at hd <;> rw [hd]
    · exact hany
    · exact hall
    · exact hsame
  · subst hTn
    refine (exec_vote hx hT hb hc hm ha (.inr ⟨rfl, by rw [hmd]; rfl⟩)).mono fun _ d hd => ?_
    rw [hd, hmd]
    exact hasBits_mod fun j hj => testBit_voteMask hj
  · refine (exec_gtrans hx hT hb hc hm hTn ha hmd).mono fun i d hd => ?_
    rw [hd]
    exact gtransLane_spec va i hmd rfl rfl
  · refine exec_red hx hT hm hc hTs ha hb hmd hop hint hflt hex fun k hk => ⟨fun r hr => getD_of_eq_some hr _ _, fun hwhole => ?_⟩
    obtain ⟨hTi, hlane⟩ := hwhole
    exact Stands.reduced hTi (stands_treeNode hTi hlane _) fun hnone => absurd hnone (treeNode_ne_none hTi hlane _ hk)
  · have hident := treeIdent_eq hTs hop hint
    refine exec_scan hx hT hm hc hTs ha hb hmd hop hint hflt fun k hk => ⟨fun r hr => getD_of_eq_some hr _ _, fun hnone => ?_,
      fun hwhole => ?_⟩
    · exact (congrArg (fun o : Option Nat => o.getD _ % 2 ^ T.bits) hnone).trans hident
    · obtain ⟨hTi, hlane⟩ := hwhole
      refine Stands.reduced hTi (stands_treePrefix hTi hlane _ ?_) fun _ => hident
      split <;> omega

end Sys2Proof.Machine
end

section
/-!
PROOFS. Tiles (08 R187), the attention mask and the masked fill (08 R197, R198): rows of 32 elements of 32 bits.
-/

namespace Sys2Proof.Machine

open Sys2Proof

/-! ## The elements of a row -/

theorem testBit_tileElem (row j t : Nat) : (tileElem row j).testBit t = (decide (t < 32) && row.testBit (32 * j + t)) := by
  rw [tileElem, Nat.testBit_mod_two_pow, Nat.testBit_div_two_pow, Nat.add_comm]

/-- A lane of a tile holds all of its elements. -/
theorem tileElem_mod (row : Nat) {j : Nat} (hj : j < 32) : tileElem (row % 2 ^ Ty.tile.bits) j = tileElem row j := by
  refine Nat.eq_of_testBit_eq fun t => ?_
  rw [testBit_tileElem, testBit_tileElem, Nat.testBit_mod_two_pow]
  by_cases ht : t < 32
  · rw [decide_eq_true (show 32 * j + t < Ty.tile.bits by simp only [Ty.bits]; omega), Bool.true_and]
  · rw [decide_eq_false ht, Bool.false_and, Bool.false_and]

/-- A row with element e replaced differs from it in the bits of that element alone. -/
theorem testBit_putElem (row e v b : Nat) :
    (putElem row e v).testBit b = if b / 32 = e then v.testBit (b % 32) else row.testBit b := by
  have hparts : putElem row e v =
      2 ^ (32 * e) * (2 ^ 32 * (row / 2 ^ (32 * (e + 1))) + v % 2 ^ 32) + row % 2 ^ (32 * e) := by
    rw [putElem, show 32 * (e + 1) = 32 * e + 32 by ring, Nat.pow_add]
    ring
  rw [hparts, Nat.testBit_two_pow_mul_add _ (Nat.mod_lt _ (Nat.two_pow_pos _))]
  split
  · rename_i hlow
    rw [if_neg (by omega), Nat.testBit_mod_two_pow, decide_eq_true hlow, Bool.true_and]
  · rename_i hlow
    rw [Nat.testBit_two_pow_mul_add _ (Nat.mod_lt _ (Nat.two_pow_pos _))]
    split
    · rename_i hin
      rw [if_pos (by omega), Nat.testBit_mod_two_pow, decide_eq_true hin, Bool.true_and, show b % 32 = b - 32 * e by omega]
    · rename_i hin
      rw [if_neg (by omega), Nat.testBit_div_two_pow, show b - 32 * e - 32 + 32 * (e + 1) = b by omega]

theorem tileElem_putElem (row e v j : Nat) : tileElem (putElem row e v) j = if j = e then v % 2 ^ 32 else tileElem row j := by
  refine Nat.eq_of_testBit_eq fun t => ?_
  rw [testBit_tileElem, testBit_putElem]
  by_cases ht : t < 32
  · rw [decide_eq_true ht, Bool.true_and, show (32 * j + t) / 32 = j by omega, show (32 * j + t) % 32 = t by omega]
    split
    · rw [Nat.testBit_mod_two_pow, decide_eq_true ht, Bool.true_and]
    · rw [testBit_tileElem, decide_eq_true ht, Bool.true_and]
  · rw [decide_eq_false ht, Bool.false_and]
    split
    · rw [Nat.testBit_mod_two_pow, decide_eq_false ht, Bool.false_and]
    · rw [testBit_tileElem, decide_eq_false ht, Bool.false_and]

/-! ## The masked fill and the attention mask -/

theorem foldl_add_range (n : Nat) (h : Nat → Nat) : (List.range n).foldl (fun r j => r + h j) 0 = ∑ t ∈ Finset.range n, h t := by
  rw [← List.map_coe_finRange_eq_range, List.foldl_map, foldl_add_finRange]

/-- The masked fill is its 32 elements side by side. -/
theorem tileElem_selRow (row m : Nat) {fill : Nat} (hfill : fill < 2 ^ 32) {j : Nat} (hj : j < 32) :
    tileElem (selRow row m fill) j = if m.testBit j then tileElem row j else fill := by
  have hsum : selRow row m fill = ∑ t ∈ Finset.range 32, (if m.testBit t then tileElem row t else fill) * 2 ^ (32 * t) := by
    rw [← foldl_add_range]
    simp only [selRow, Nat.testBit_eq_decide_div_mod_eq, beq_eq_decide]
  have hfield : ∀ t, (if m.testBit t then tileElem row t else fill) < 2 ^ 32 := fun t => by
    split
    · exact Nat.mod_lt _ (Nat.two_pow_pos _)
    · exact hfill
  rw [hsum, tileElem, sum_fields_field (by decide) hfield hj]

/-- The keys that are allowed, as a mask. -/
theorem testBit_keyMask (p : Nat → Bool) {j : Nat} (hj : j < 32) :
    (((List.range 32).filter p).foldl (fun a j => a + 2 ^ j) 0).testBit j = p j := by
  have hsum : ((List.range 32).filter p).foldl (fun a j => a + 2 ^ j) 0 = ∑ t ∈ Finset.range 32, (p t).toNat * 2 ^ (1 * t) := by
    rw [← foldl_add_range, List.foldl_filter]
    congr 1
    funext a t
    cases p t <;> simp
  have hbit : ∀ t, (p t).toNat < 2 ^ 1 := fun t => by cases p t <;> decide
  rw [hsum, testBit_sum_fields Nat.one_pos hbit, Nat.div_one, Nat.mod_one, decide_eq_true (by omega), Bool.true_and]
  cases p j <;> rfl

/-- 08 R197: a key at one of the first p positions is allowed, and one after them where its tree node's bit is set. -/
theorem keyAllowed_eq (row kb p j : Nat) :
    keyAllowed row kb p j = (decide (kb + j < p) || (decide (kb + j < p + 256) && row.testBit (kb + j - p))) := by
  rw [keyAllowed, Nat.testBit_eq_decide_div_mod_eq, beq_eq_decide]
  by_cases h : kb + j < p
  · simp [h]
  · rw [decide_eq_false h, Bool.false_or, Bool.false_or]
    congr 1
    exact decide_eq_decide.mpr (by omega)

/-! ## The instructions -/

/-- The lowest active lane is the one that no other active lane is below. -/
theorem lowest_eq {m : LaneMask} {l : Fin 32} (hl : m.has l.val = true) (hmin : ∀ j : Fin 32, m.has j.val = true → l ≤ j) :
    m.lowest = some l := by
  obtain ⟨j, hj⟩ := selected_isSome hl 0
  obtain ⟨hact, hle⟩ := lowest_spec hj
  exact hj.trans (congrArg some (le_antisymm (hle l hl) (hmin j hact)))

theorem tyTelem_bits {T : Ty} (hT : T ∈ tyTelem) : T.bits = 32 := by
  revert T
  decide

/-- The form of an instruction of a tile and two more operands. -/
def tileForm (R : Ty) (b c : List Ty) (pass : Pass) : Form :=
  { a := .need [.tile], b := .need b, c := .need c, pred := true, res := R, pass := pass }

section
variable {s : State} {x : Site} {fr : Frame} {c : Cur} {f : Fields} {m : LaneMask} {va vb vc : Value} (hx : AtPlace s x fr c) (hmd : f.md = 0)
include hx hmd

theorem exec_tzero (hT : f.typ.toNat = Ty.tile.code) (h0 : f.a = 0 ∧ f.b = 0 ∧ f.c = 0 ∧ f.p = 0) :
    CompletesAll (exec (.tzero f) s) s x 0x11A .tile fun _ => 0 := by
  have hty : Ty.ofCode f.typ.toNat = some .tile := hT ▸ Ty.ofCode_code .tile
  have hfit : Fits opTzero f x c _ _ := fits_noOperands hty
    (formFor_some (g := fun _ => { a := .absent, b := .absent, c := .absent, pred := false, res := .tile, pass := .zero }) hty
      (List.mem_singleton_self _) (by rw [hmd]; rfl)) rfl rfl rfl h0
  refine ⟨_, runOp_done (op := opTzero) hx hfit rfl, rfl, fun k => ?_⟩
  simp only [placeValue, Value.zero, Value.nat, mergeLanes_get, Lanes.get_all, ite_self, BitVec.ofNat_eq_ofNat, BitVec.toNat_zero]

theorem exec_textr {T : Ty} (hT : f.typ.toNat = T.code) (hTs : T ∈ tyTelem) (hm : Active c f.p m) (ha : Names c f.a .tile va)
    (hb : Names c f.b .n32 vb) (hc : f.c = 0) :
    CompletesBy (exec (.textr f) s) s x 0x11B T m (fun _ => 0) fun k d => d = tileElem (va.nat k) (vb.nat k % 32) := by
  refine completes_lanes_zero (op := opTextr) hx hT (formFor_some (Ty.ofCode_code T) hTs (by rw [hmd]; rfl)) (fetchArg_one ha)
    (fetchArg_one hb) (fetchArg_none hc) rfl hm rfl rfl fun k _ => ?_
  rw [tyTelem_bits hTs]
  exact Nat.mod_mod _ _

theorem exec_tins {U : Ty} (hT : f.typ.toNat = Ty.tile.code) (hU : U ∈ tyTelem) (hm : Active c f.p m) (ha : Names c f.a .tile va)
    (hb : Names c f.b U vb) (hc : Names c f.c .n32 vc) :
    CompletesBy (exec (.tins f) s) s x 0x11C .tile m va.nat fun k d =>
      ∀ j < 32, tileElem d j = if j = vc.nat k % 32 then vb.nat k % 2 ^ 32 else tileElem (va.nat k) j := by
  have hform : opTins.form Ty.tile.code f.md.toNat = some (tileForm .tile tyTelem [.n32] .opA) := by rw [hmd]; rfl
  refine completes_lanes_opA (op := opTins) hx hT hform (fetchArg_one ha)
    (fetchArg_need hb (List.contains_iff_mem.mpr hU)) (fetchArg_one hc) rfl hm rfl rfl ha.ty_eq fun k _ j hj => ?_
  exact (tileElem_mod _ hj).trans (tileElem_putElem _ _ _ _)

theorem exec_tmask (hT : f.typ.toNat = Ty.n32.code) (hm : Active c f.p m) (ha : Names c f.a .tile va) (hb : Names c f.b .n32 vb)
    (hc : Names c f.c .n32 vc) {l : Fin 32} (hl : m.lowest = some l) :
    CompletesBy (exec (.tmask f) s) s x 0x131 .n32 m (fun _ => 0) fun k =>
      HasBits 32 fun j => keyAllowed (va.nat k) (vb.nat l) (vc.nat l) j := by
  have hform : opTmask.form Ty.n32.code f.md.toNat = some (tileForm .n32 [.n32] [.n32] .zero) := by rw [hmd]; rfl
  exact completes_lanes_zero (op := opTmask) hx hT hform (fetchArg_one ha) (fetchArg_one hb) (fetchArg_one hc) rfl hm
    (by simp only [opTmask, coreTmask, laneIn, hl]) rfl fun k _ => hasBits_mod fun j hj => testBit_keyMask _ hj

theorem exec_tsel {U : Ty} (hT : f.typ.toNat = Ty.tile.code) (hU : U ∈ tyTelem) (hm : Active c f.p m) (ha : Names c f.a .tile va)
    (hb : Names c f.b .n32 vb) (hc : Names c f.c U vc) (hfill : ∀ k, vc.nat k < 2 ^ 32) :
    CompletesBy (exec (.tsel f) s) s x 0x132 .tile m va.nat fun k d =>
      ∀ j < 32, tileElem d j = if (vb.nat k).testBit j then tileElem (va.nat k) j else vc.nat k := by
  have hform : opTsel.form Ty.tile.code f.md.toNat = some (tileForm .tile [.n32] tyTelem .opA) := by rw [hmd]; rfl
  refine completes_lanes_opA (op := opTsel) hx hT hform (fetchArg_one ha) (fetchArg_one hb)
    (fetchArg_need hc (List.contains_iff_mem.mpr hU)) rfl hm rfl rfl ha.ty_eq fun k _ j hj => ?_
  exact (tileElem_mod _ hj).trans (tileElem_selRow _ _ (hfill k) hj)

end

end Sys2Proof.Machine
end

section
/-!
PROOFS. The ancestor sets of a token tree (08 R196), and tiles and token trees as a whole (O35).
-/

namespace Sys2Proof.Machine

open Sys2Proof

/-! ## The sets -/

/-- The ancestor set of node j, as the machine finds it when it has found those of the nodes before. -/
def ancestorSet (v : Value) (j : Nat) : Nat := 2 ^ j ||| (if j == 0 then 0 else ((ancestors v j)[parentOf v j]?).getD 0)

theorem ancestors_succ (v : Value) (n : Nat) : ancestors v (n + 1) = ancestors v n ++ [ancestorSet v n] := rfl

theorem ancestors_eq_map (v : Value) (n : Nat) : ancestors v n = (List.range n).map (ancestorSet v) := by
  induction n with
  | zero => rfl
  | succ n ih => rw [ancestors_succ, ih, List.range_succ, List.map_append, List.map_singleton]

theorem getD_ancestors (v : Value) (n j : Nat) : ((ancestors v n)[j]?).getD 0 = if j < n then ancestorSet v j else 0 := by
  rw [ancestors_eq_map]
  split
  · rename_i hj
    simp [hj]
  · rename_i hj
    simp [hj]

/-- A set is its node and what its parent's set holds. -/
theorem testBit_ancestorSet {v : Value} {j : Nat} (hpar : 0 < j → parentOf v j < j) (b : Nat) :
    (ancestorSet v j).testBit b = (b == j || (decide (0 < j) && (ancestorSet v (parentOf v j)).testBit b)) := by
  have hself : (b == j) = decide (j = b) := (beq_eq_decide ..).trans (decide_eq_decide.mpr eq_comm)
  rw [hself, ancestorSet, Nat.testBit_or, Nat.testBit_two_pow, getD_ancestors]
  congr 1
  cases j with
  | zero => simp
  | succ j => simp [hpar (Nat.succ_pos j)]

theorem ancestorSet_lt (v : Value) (j : Nat) : ancestorSet v j < 2 ^ (j + 1) := by
  induction j using Nat.strong_induction_on with
  | _ j ih =>
    refine Nat.or_lt_two_pow (Nat.pow_lt_pow_right (by decide) (Nat.lt_succ_self j)) ?_
    rw [getD_ancestors]
    split
    · exact Nat.two_pow_pos _
    · split
      · rename_i hlt
        exact (ih _ hlt).trans (Nat.pow_lt_pow_right (by decide) (Nat.succ_lt_succ hlt))
      · exact Nat.two_pow_pos _

/-- The parent of a node is a byte of operand a. -/
theorem parentOf_eq (v : Value) {j : Nat} (hj : j < 256) :
    parentOf v j = v.nat (Fin.ofNat 32 (j / 8)) / 2 ^ (8 * (j % 8)) % 256 := by
  rw [parentOf, ← Value.natAt_of_lt v (show j / 8 < 32 by omega)]
  rfl

/-! ## The instruction -/

/-- Does every node but the first come after its parent? -/
def parentsFirst (v : Value) (n : Nat) : Prop := ∀ j < n, 0 < j → parentOf v j < j

theorem badParent_iff (v : Value) (n : Nat) :
    ((List.range n).any fun j => decide (0 < j) && decide (j ≤ parentOf v j)) = true ↔ ¬parentsFirst v n := by
  simp [parentsFirst]

section
variable {s : State} {i : OpIn} {l : Fin 32} (hl : i.mask.lowest = some l)
include hl

theorem coreTanc_count (hn : i.c.nat l < 1 ∨ 256 < i.c.nat l) : coreTanc i s = trapBounds := by
  have hn' : (decide (i.c.nat l < 1) || decide (256 < i.c.nat l)) = true := by simpa using hn
  simp only [coreTanc, hl, hn', if_true]

variable (h1 : 1 ≤ i.c.nat l) (h256 : i.c.nat l ≤ 256)
include h1 h256

theorem coreTanc_eq :
    coreTanc i s =
      if (List.range (i.c.nat l)).any fun j => decide (0 < j) && decide (j ≤ parentOf i.a j) then trapBounds
      else .done s (lanesOf .tile fun k => ((ancestors i.a (i.c.nat l))[i.b.nat k]?).getD 0) := by
  have hn : (decide (i.c.nat l < 1) || decide (256 < i.c.nat l)) = false := by
    rw [decide_eq_false (by omega), decide_eq_false (by omega)]
    rfl
  simp only [coreTanc, hl, hn, Bool.false_eq_true, if_false]

theorem coreTanc_badParent (hp : ¬parentsFirst i.a (i.c.nat l)) : coreTanc i s = trapBounds := by
  rw [coreTanc_eq hl h1 h256, if_pos ((badParent_iff _ _).mpr hp)]

theorem coreTanc_done (hp : parentsFirst i.a (i.c.nat l)) :
    coreTanc i s = .done s (lanesOf .tile fun k => if i.b.nat k < i.c.nat l then ancestorSet i.a (i.b.nat k) else 0) := by
  rw [coreTanc_eq hl h1 h256, if_neg fun h => (badParent_iff _ _).mp h hp]
  simp only [getD_ancestors]

end

/-- An operation's lanes whose inactive ones hold zero, where its operands are given. -/
theorem completesBy_lanes_zero {op : Op} {f : Fields} {s t : State} {x : Site} {fr : Frame} {c : Cur} {fm : Form} {i : OpIn} {R : Ty}
    {g : Fin 32 → Nat} (hx : AtPlace s x fr c) (hf : Fits op f x c fm i) (hpass : fm.pass = .zero) (hcore : op.core i s = .done t (lanesOf R g)) :
    CompletesBy (runOp op f s) t x op.opc R i.mask (fun _ => 0) fun k d => d = g k % 2 ^ R.bits := by
  refine ⟨_, runOp_done hx hf hcore, placeValue_ty .., ?_⟩
  rw [← hf.x_eq]
  exact lanewise_zero hpass fun k _ => Value.nat_tab R g k

/-- Settles O35: a tile's elements are the fields of its row, and a node's set is found from that of a node before it. -/
theorem tilesAndTokenTrees : Obligations.TilesAndTokenTrees := by
  unfold Obligations.TilesAndTokenTrees
  refine ⟨fun s x fr c f m hx hmd => ⟨fun hT ha hb hc hp => exec_tzero hx hmd hT ⟨ha, hb, hc, hp⟩,
      fun T va vb hT hTs hm ha hb hc => exec_textr hx hmd hT hTs hm ha hb hc,
      fun U va vb vc hT hU hm ha hb hc => exec_tins hx hmd hT hU hm ha hb hc, fun va vb vc hT hm ha hb hc l hl hmin => ?tmask,
      fun U va vb vc hT hU hm ha hb hc hfill => exec_tsel hx hmd hT hU hm ha hb hc hfill⟩,
    fun s x fr c f fm i l hx hf hl => ?tanc⟩
  case tmask =>
    simpa only [keyAllowed_eq] using exec_tmask hx hmd hT hm ha hb hc (lowest_eq hl hmin)
  case tanc =>
    intro n par
    have hpar : ∀ j, n ≤ 256 → j < n → parentOf i.a j = par j := fun j hn hj => parentOf_eq i.a (hj.trans_le hn)
    refine ⟨fun hn => runOp_trap (op := opTanc) hx hf (coreTanc_count hl hn), fun h1 h256 hbad => ?_, fun h1 h256 hgood => ?_⟩
    · obtain ⟨j, hj, h0, hle⟩ := hbad
      refine runOp_trap (op := opTanc) hx hf (coreTanc_badParent hl h1 h256 fun hp => ?_)
      exact absurd (hpar j h256 hj ▸ hp j hj h0) (Nat.not_lt.mpr hle)
    · have hp : parentsFirst i.a n := fun j hj h0 => hpar j h256 hj ▸ hgood j hj h0
      obtain ⟨_, -, rfl⟩ := formFor_eq hf.form
      refine ⟨ancestorSet i.a, fun j hj b => hpar j h256 hj ▸ testBit_ancestorSet (hp j hj) b,
        (completesBy_lanes_zero hx hf rfl (coreTanc_done hl h1 h256 hp)).mono fun k d hd => hd.trans (Nat.mod_eq_of_lt ?_)⟩
      split
      · rename_i hk
        exact (ancestorSet_lt _ _).trans_le (Nat.pow_le_pow_right (by decide) (by simp only [Ty.bits]; omega))
      · exact Nat.two_pow_pos _

end Sys2Proof.Machine
end

section
/-!
PROOFS. The row instructions (08 R190, R193, R194; O38): the checks of a note, the place of a command in its tile's queue, and the row
configuration of a wave.
-/

namespace Sys2Proof.Machine

open Sys2Proof

/-! ## Instructions that every lane with a path completes, and that define nothing -/

theorem placeValue_void_everyPath {fm : Form} (hp : fm.pass = .everyPath) (i : OpIn) : placeValue fm i Value.void = Value.void := by
  simp [placeValue, hp, Value.void, mergeLanes, Lanes.all]

theorem ctlForm_pass {t : Nat} {ty : Ty} {ok : Bool} {a b c : Arg} {fm : Form} (h : ctlForm t ty ok a b c = some fm) :
    fm.pass = .everyPath := by
  obtain ⟨_, -, rfl⟩ := formFor_eq h
  rfl

theorem completesVoid_of_core {op : Op} {f : Fields} {s t : State} {x : Site} {fr : Frame} {c : Cur} {fm : Form} {i : OpIn}
    (hx : AtPlace s x fr c) (hf : Fits op f x c fm i) (hpass : fm.pass = .everyPath) (hcore : op.core i s = doneVoid t) :
    CompletesVoid (runOp op f s) t x op.opc := by
  have hdone := runOp_done hx hf hcore
  rwa [placeValue_void_everyPath hpass] at hdone

/-! ## The queue of a tile's row engine -/

/-- The state with a command at the end of a tile's row queue. -/
def State.queueRow (s : State) (t : TileRef) (q : RowCmd) : State :=
  { s.modTile t fun y => { y with rowQ := y.rowQ ++ [{ q with id := s.nextId, arrive := s.engNow t + 1 }] } with nextId := s.nextId + 1 }

theorem State.queueRow_rowQ (s : State) (t : TileRef) (q : RowCmd) :
    ((s.queueRow t q).tile t).rowQ = (s.tile t).rowQ ++ [{ q with id := s.nextId, arrive := s.engNow t + 1 }] :=
  congrArg Tile.rowQ (State.tile_setTile s t _)

section
variable {s : State} {i : OpIn} {q : RowCmd}

theorem State.enqueueRow_room (h : (s.tile i.tile).rowWaiting < 16) : s.enqueueRow i q = doneVoid (s.queueRow i.tile q) :=
  if_neg (Nat.not_le.mpr h)

theorem State.enqueueRow_full (h : ¬(s.tile i.tile).rowWaiting < 16) : s.enqueueRow i q = .wait s :=
  if_pos (Nat.not_lt.mp h)

end

/-- A command that an instruction puts into the row queue, where there is room. -/
theorem completesVoid_queueRow {op : Op} {f : Fields} {s : State} {x : Site} {fr : Frame} {c : Cur} {fm : Form} {i : OpIn} {q : RowCmd}
    (hx : AtPlace s x fr c) (hf : Fits op f x c fm i) (hpass : fm.pass = .everyPath) (hcore : op.core i s = s.enqueueRow i q)
    (hroom : (s.tile x.tile).rowWaiting < 16) : CompletesVoid (runOp op f s) (s.queueRow x.tile q) x op.opc := by
  rw [← hf.tile_eq] at hroom ⊢
  exact completesVoid_of_core hx hf hpass (hcore.trans (State.enqueueRow_room hroom))

/-! ## The checks of a note (R190) -/

/-- The bytes of an element of a note's row. -/
def OpIn.elem (i : OpIn) : Nat := if i.md % 2 = 1 then 2 else 4

/-- Where a `row.base` writes: its row displaced by the wave's configuration. -/
def OpIn.rowOut (i : OpIn) : Int := ((i.uni i.a : Int) + toInt .i32 i.x.wave.ofs.toNat) % 2 ^ 64

/-- The command of a note. -/
def OpIn.note (i : OpIn) (u : RowUnit) : RowCmd :=
  { i.rowCmd u with
    row := i.uni i.a, recVa := i.uni i.b, out := if u == .base then i.rowOut.toNat else i.uni i.a, n := i.uni i.c
    key := (failKey i.x.w.block (i.uni i.b)).getD 0 }

theorem elemBytes_eq (i : OpIn) : elemBytes (i.md % 2 == 1) = i.elem := by simp [elemBytes, OpIn.elem]

/-- A note's number of elements is within its limits. -/
def OpIn.countOk (i : OpIn) : Prop := 1 ≤ i.uni i.c ∧ i.uni i.c ≤ 8192

theorem OpIn.countOk.not_out {i : OpIn} (h : i.countOk) : (decide (i.uni i.c < 1) || decide (8192 < i.uni i.c)) = false := by
  obtain ⟨h1, h2⟩ := h
  rw [decide_eq_false (by omega), decide_eq_false (by omega)]
  rfl

section
variable {u : RowUnit} {i : OpIn} {s : State}

theorem coreNote_count (h : i.uni i.c < 1 ∨ 8192 < i.uni i.c) : coreNote u i s = trapBounds := by
  have hout : (decide (i.uni i.c < 1) || decide (8192 < i.uni i.c)) = true := by simpa using h
  simp only [coreNote, hout, if_true]

theorem coreNote_misaligned (hn : i.countOk) (h : i.uni i.a % i.elem ≠ 0 ∨ i.uni i.b % 16 ≠ 0) : coreNote u i s = trapAlign := by
  have hbad : (i.uni i.a % i.elem != 0 || i.uni i.b % 16 != 0) = true := by simpa using h
  simp only [coreNote, elemBytes_eq, hn.not_out, hbad, Bool.false_eq_true, if_false, if_true]

/-- A note that passes its checks: its ranges lie in the vault above its tile, and none meets the record; those of the output are of a
`row.base` alone. -/
structure NoteOk (u : RowUnit) (i : OpIn) (s : State) (kr kc ko : Nat) : Prop where
  count : i.countOk
  rowAligned : i.uni i.a % i.elem = 0
  recAligned : i.uni i.b % 16 = 0
  ofsAligned : u = .base → toInt .i32 i.x.wave.ofs.toNat % (i.elem : Int) = 0
  row : s.rowKey i.x (i.uni i.a) (i.uni i.c * i.elem) = some kr
  record : s.rowKey i.x (i.uni i.b) 16 = some kc
  out : u = .base → s.rowKey i.x i.rowOut.toNat (i.uni i.c * i.elem) = some ko
  rowApart : rangesMeet kr (i.uni i.c * i.elem) kc 16 = false
  outApart : u = .base → rangesMeet ko (i.uni i.c * i.elem) kc 16 = false

theorem NoteOk.coreNote_eq {kr kc ko : Nat} (h : NoteOk u i s kr kc ko) : coreNote u i s = s.enqueueRow i (i.note u) := by
  obtain ⟨hn, hrow, hrec, hofs, hkr, hkc, hko, hmr, hmo⟩ := h
  have haligned : (i.uni i.a % i.elem != 0 || i.uni i.b % 16 != 0) = false := by simp [hrow, hrec]
  have hout : ((i.uni i.a : Int) + toInt .i32 i.x.wave.ofs.toNat) % (2 ^ 64 : Nat) = i.rowOut := by simp [OpIn.rowOut]
  by_cases hu : u = .base
  · have hb : (u == .base) = true := beq_iff_eq.mpr hu
    simp only [coreNote, elemBytes_eq, hn.not_out, haligned, hout, hb, hofs hu, hkr, hkc, hko hu, hmr, hmo hu, OpIn.note, bne_self_eq_false,
      Bool.and_false, Bool.or_false, Bool.false_eq_true, if_false, if_true]
  · have hb : (u == .base) = false := beq_eq_false_iff_ne.mpr hu
    simp only [coreNote, elemBytes_eq, hn.not_out, haligned, hb, hkr, hkc, hmr, OpIn.note, Bool.false_and, Bool.or_false,
      Bool.false_eq_true, if_false]

end

/-! ## The other row instructions -/

section
variable {i : OpIn} {s : State}

theorem coreRowPace_beyond (h : 65535 < i.uni i.a) : coreRowPace i s = trapBounds := if_pos h

theorem coreRowPace_eq (h : i.uni i.a ≤ 65535) : coreRowPace i s = s.enqueueRow i { i.rowCmd .pace with gap := i.uni i.a } :=
  if_neg (Nat.not_lt.mpr h)

theorem coreRowCfg_notNormal (h : i.uni i.a < 0x00800000 ∨ 0x7F7FFFFF < i.uni i.a) : coreRowCfg i s = trapFormat := by
  have hbad : (decide (i.uni i.a < 0x00800000) || decide (0x7F7FFFFF < i.uni i.a)) = true := by simpa using h
  simp only [coreRowCfg, hbad, if_true]

theorem coreRowCfg_eq (h1 : 0x00800000 ≤ i.uni i.a) (h2 : i.uni i.a ≤ 0x7F7FFFFF) :
    coreRowCfg i s = doneVoid (i.modWave s fun w => { w with tau := BitVec.ofNat 32 (i.uni i.a), ofs := BitVec.ofNat 32 (i.uni i.b) }) := by
  have hok : (decide (i.uni i.a < 0x00800000) || decide (0x7F7FFFFF < i.uni i.a)) = false := by
    rw [decide_eq_false (by omega), decide_eq_false (by omega)]
    rfl
  simp only [coreRowCfg, hok, Bool.false_eq_true, if_false]

end

/-- A change of the issuing wave. -/
theorem OpIn.modWave_eq {op : Op} {f : Fields} {s : State} {x : Site} {fr : Frame} {c : Cur} {fm : Form} {i : OpIn} (hx : AtPlace s x fr c)
    (hf : Fits op f x c fm i) (g : Wave → Wave) : i.modWave s g = s.setWave x.w (g x.wave) := by
  obtain ⟨-, -, -, hw⟩ := State.site_spec hx.2.1
  rw [OpIn.modWave, hf.x_eq, State.modWave_eq hw]

/-- Settles O38: a row instruction ends at its first check that fails, and a note whose checks pass is the last command of its tile's
queue. -/
theorem rowInstructions : Obligations.RowInstructions := by
  unfold Obligations.RowInstructions
  intro s x fr c f fm i hx room
  refine ⟨fun e he hf => ?note, fun hf => ?pace, fun hf => ?sync, fun hf => ?cfg⟩
  case note =>
    obtain ⟨⟨con, op⟩, u⟩ := e
    have hrow : ∃ opc, op = noteOp opc u ∧ ∀ f s, exec (con f) s = runOp op f s := by
      simp only [List.mem_cons, List.not_mem_nil, or_false, Prod.mk.injEq] at he
      rcases he with ⟨⟨rfl, rfl⟩, rfl⟩ | ⟨⟨rfl, rfl⟩, rfl⟩ | ⟨⟨rfl, rfl⟩, rfl⟩ <;> exact ⟨_, rfl, fun _ _ => rfl⟩
    obtain ⟨opc, rfl, hexec⟩ := hrow
    obtain rfl := hf.x_eq
    intro es n row rec_ out base
    have hes : es = i.elem := by simp only [es, OpIn.elem, hf.md_eq]
    rw [hexec, hes]
    refine ⟨fun hn => runOp_trap hx hf (coreNote_count hn), fun h1 h2 hbad => runOp_trap hx hf (coreNote_misaligned ⟨h1, h2⟩ hbad),
      fun kr kc ko h1 h2 hr hc ho hkr hkc hko hmr hmo => ?_⟩
    have hcore : (noteOp opc u).core i s = s.enqueueRow i (i.note u) :=
      NoteOk.coreNote_eq ⟨⟨h1, h2⟩, hr, hc, ho, hkr, hkc, hko, hmr, hmo⟩
    refine ⟨fun hroom => ?_, fun hfull => runOp_wait hx hf (hcore.trans (State.enqueueRow_full hfull))⟩
    exact ⟨_, _, completesVoid_queueRow hx hf (ctlForm_pass hf.form) hcore hroom, State.queueRow_rowQ _ _ _, rfl, rfl, rfl, rfl, rfl, rfl,
      by simp only [OpIn.note, beq_iff_eq]; rfl, rfl, rfl, rfl⟩
  case pace =>
    exact ⟨fun h => runOp_trap (op := opRowPace) hx hf (coreRowPace_beyond h), fun h hroom =>
      ⟨_, _, completesVoid_queueRow (op := opRowPace) hx hf (ctlForm_pass hf.form) (coreRowPace_eq h) hroom, State.queueRow_rowQ _ _ _,
        rfl, rfl, rfl⟩⟩
  case sync =>
    refine ⟨fun hp => completesVoid_of_core (op := opRowSync) hx hf (ctlForm_pass hf.form) ?_, fun hp => ?_⟩
    · exact if_neg (by rw [hf.x_eq, hp]; exact Bool.false_ne_true)
    · rw [← OpIn.modWave_eq hx hf fun w => { w with mode := .rowSync }]
      exact runOp_wait (op := opRowSync) hx hf (if_pos (by rw [hf.x_eq, hp]))
  case cfg =>
    intro tau
    refine ⟨fun h1 h2 => ?_, fun h => runOp_trap (op := opRowCfg) hx hf (coreRowCfg_notNormal h)⟩
    rw [← OpIn.modWave_eq hx hf fun w => { w with tau := BitVec.ofNat 32 tau, ofs := BitVec.ofNat 32 (i.uni i.b) }]
    exact completesVoid_of_core (op := opRowCfg) hx hf (ctlForm_pass hf.form) (coreRowCfg_eq h1 h2)

end Sys2Proof.Machine
end

section
/-!
PROOFS. The row engine's events (08 R193, R194; O39): the start of its oldest waiting command, the end of a note, and that of a
`row.sync`.
-/

namespace Sys2Proof.Machine

open Sys2Proof

/-! ## A completion word leaves the units as they are -/

section
variable {s s1 : State}

theorem State.ownSpans_sameUnits {b : BlockRef} {off n : Nat} {r : EngRes (List (Nat × Nat))} (h : s.ownSpans b off n = (s1, r)) :
    s.SameUnits s1 := by
  unfold State.ownSpans at h
  split at h
  · split at h
    · cases h
      exact .refl s
    · split at h
      · split at h
        · cases h
          exact .refl s
        · split at h
          all_goals
            rename_i ht
            cases h
            exact State.translateN_sameUnits ht
      · cases h
        exact .refl s
  · cases h
    exact .refl s

theorem State.engSpans_sameUnits {b : BlockRef} {die va n : Nat} {rd wr : Bool} {r : EngRes (List (Nat × Nat))}
    (h : s.engSpans b die va n rd wr = (s1, r)) : s.SameUnits s1 := by
  unfold State.engSpans at h
  split at h
  · cases h
    exact .refl s
  · split at h
    · split at h
      · cases h
        exact .refl s
      · split at h
        all_goals
          rename_i ht
          cases h
          exact State.translateN_sameUnits ht
    · split at h
      · cases h
        exact .refl s
      · exact State.ownSpans_sameUnits h
    · dsimp only at h
      split at h
      · cases h
        exact .refl s
      · split at h
        all_goals
          cases h
          exact .refl s

theorem State.writeWord_sameUnits {t : TileRef} {w : OwedWord} {r : EngRes Unit} (h : s.writeWord t w = (s1, r)) : s.SameUnits s1 := by
  unfold State.writeWord at h
  split at h
  all_goals
    rename_i hs
    cases h
  · exact (State.engSpans_sameUnits hs).trans (State.putSpans_sameUnits _ _ _ _)
  · exact State.engSpans_sameUnits hs
  · exact State.engSpans_sameUnits hs

end

/-! ## The start of a command (R193) -/

section
variable {s : State} {t : TileRef} {q : RowCmd} {st : Nat}

/-- The oldest command of a tile's row queue that has not started, and the cycle of its start. -/
structure RowHead (s : State) (t : TileRef) (q : RowCmd) (st : Nat) : Prop where
  head : (s.tile t).rowQ.find? (fun c => c.start.isNone) = some q
  start : (s.tile t).rowStart q = some st

theorem RowHead.rowNoteStart_early (h : RowHead s t q st) (hst : s.engNow t < st) : exec (.rowNoteStart t) s = .next s := by
  change execRowNoteStart t s = _
  simp only [execRowNoteStart, h.head, h.start, decide_eq_true hst, Bool.true_or, if_true]

/-- The tile once the pacing command has taken effect. -/
def Tile.rowPaced (y : Tile) (q : RowCmd) (st : Nat) : Tile :=
  { y.setCtx q.ctx { y.ctx q.ctx with prow := q.gap } with rowLast := st, rowQ := y.rowQ.filter fun e => e.id != q.id }

/-- The tile once a note has started. -/
def Tile.rowStarted (y : Tile) (q : RowCmd) (st fin : Nat) : Tile :=
  { y with
    rowLast := st
    rowFree := y.rowFree.set q.unit.index fin
    rowQ := y.rowQ.map fun e => if e.id == q.id then { e with start := some st, fin := fin } else e }

theorem RowHead.rowNoteStart_due (h : RowHead s t q st) (hst : st ≤ s.engNow t) (hf : (s.tile t).fenced 3 q.id = false) :
    exec (.rowNoteStart t) s = .next (s.setTile t
      (if q.unit = .pace then (s.tile t).rowPaced q st
       else (s.tile t).rowStarted q st (st + rowDuration (narrowDie t.die) q.unit q.n))) := by
  change execRowNoteStart t s = _
  simp only [execRowNoteStart, h.head, h.start, hf, decide_eq_false (Nat.not_lt.mpr hst), Bool.or_false, Bool.false_eq_true, if_false]
  by_cases hu : q.unit = .pace
  · rw [if_pos hu, if_pos (beq_iff_eq.mpr hu)]
    rfl
  · rw [if_neg hu, if_neg (mt beq_iff_eq.mp hu)]
    rfl

theorem Tile.ctx_setCtx (y : Tile) (k : Nat) (g : TileCtx) : (y.setCtx k g).ctx k = g := Tab.getD_put_same _ _ _ _

end

/-! ## The end of a note (R192, R194) -/

section
variable {s s1 : State} {t : TileRef} {q : RowCmd}

/-- What the end of a note leaves of the row queue: the note is gone, and the waiting notes of its record start no earlier. -/
def queueAfterNote (q : RowCmd) (l : List RowCmd) : List RowCmd :=
  (l.filter fun e => e.id != q.id).map fun e => if e.key == q.key && e.unit != .pace then { e with arrive := max e.arrive q.fin } else e

/-- A note that has nothing to write is not changed by the attempt. -/
theorem State.rowWrite_written (hq : s.row? t q.id = some q) (hs : q.start.isSome = true) (ho : q.outs = some []) (k : Nat) :
    s.rowWrite t q.id k = s := by
  have hn : q.start.isNone = false := by simpa using hs
  have hsettled : q.settle = q := by simp [RowCmd.settle, ho]
  simp [State.rowWrite, hq, hn, hsettled, ho]

theorem exec_rowNoteDone (hq : s.row? t q.id = some q) (hs : q.start.isSome = true) (hfin : q.fin ≤ s.engNow t) (hr : q.toRead = [])
    (ho : q.outs = some []) (hw : s.writeWord t { q.owed with value := BitVec.ofNat 32 q.status } = (s1, .ok ())) :
    exec (.rowNoteDone t q.id) s = .next (s1.modTile t fun y => { y with rowQ := queueAfterNote q y.rowQ }) := by
  have hdue : (q.start.isNone || decide (s.engNow t < q.fin)) = false := by simpa [hfin] using hs
  change execRowNoteDone t q.id s = _
  simp only [execRowNoteDone, hq, hdue, hr, List.length_nil, List.range_zero, List.foldl_nil, State.rowWrite_written hq hs ho, ho, hw,
    bne_self_eq_false, Bool.false_eq_true, if_false]
  rfl

end

/-- Settles O39: each event by what it does when it is due, and that a completion word leaves the row queue as it is. -/
theorem rowEngineEvents : Obligations.RowEngineEvents := by
  unfold Obligations.RowEngineEvents
  intro s t
  refine ⟨fun q st hhead hstart => ?start, fun q s1 hq hs hfin hr ho hw => ?done, fun w x hx => ?sync⟩
  case start =>
    have h : RowHead s t q st := ⟨hhead, hstart⟩
    refine ⟨h.rowNoteStart_early, fun hst hf => ⟨fun hu => ?_, fun hu => ?_⟩⟩
    · have hexec := h.rowNoteStart_due hst hf
      rw [if_pos hu] at hexec
      refine ⟨_, hexec, ?_⟩
      rw [State.tile_setTile]
      exact ⟨congrArg TileCtx.prow (Tile.ctx_setCtx _ _ _), rfl, rfl⟩
    · have hexec := h.rowNoteStart_due hst hf
      rw [if_neg hu] at hexec
      refine ⟨_, hexec, ?_⟩
      rw [State.tile_setTile]
      exact ⟨rfl, rfl⟩
  case done =>
    refine ⟨_, exec_rowNoteDone hq hs hfin hr ho hw, rfl, ?_⟩
    have htile : s1.tile t = s.tile t := congrArg (fun l => Tab.getD l Tile.reset _) (State.writeWord_sameUnits hw).tiles
    rw [State.modTile, State.tile_setTile, htile]
    simp only [queueAfterNote, Bool.and_eq_true, beq_iff_eq, bne_iff_ne]
  case sync =>
    change execRowSyncDone w s = _
    simp only [execRowSyncDone, hx, Bool.and_eq_true, beq_iff_eq, Bool.not_eq_true']

end Sys2Proof.Machine
end
